-- ==== Sys2Proof/Word.lean ====
section
/-! DEFINITION. The word types of the DM-IG4800 and nothing else (00_scope R3, R5: little-endian, binary sizes). -/

namespace Sys2Proof

/-- A byte of memory. -/
abbrev Byte := BitVec 8
/-- A 16-bit value: format words, tags, segment-wide ids. -/
abbrev Half := BitVec 16
/-- A 32-bit value: instruction and literal words, i32 and f32 lanes. -/
abbrev W32 := BitVec 32
/-- A 64-bit value: scalar registers, record words, addresses. -/
abbrev Word := BitVec 64
/-- A vector register (01 R11). -/
abbrev Vec := BitVec 512

end Sys2Proof
end

