-- ==== Sys2Proof/Machine/Bits.lean ====
section
/-! DEFINITION. Bit fields, sign extension and byte order (00 R3): the helpers that decoding and the meanings share. -/

namespace Sys2Proof

/-- The field of len bits whose lowest bit is lo. -/
abbrev fld {n : Nat} (w : BitVec n) (lo len : Nat) : BitVec len := w.extractLsb' lo len

/-- w with the field of v's length at lo replaced by v. -/
def setFld {n k : Nat} (w : BitVec n) (lo : Nat) (v : BitVec k) : BitVec n :=
  (w &&& ~~~(((BitVec.allOnes k).setWidth n) <<< lo)) ||| ((v.setWidth n) <<< lo)

/-- One bit as a Bool. -/
abbrev bit {n : Nat} (w : BitVec n) (i : Nat) : Bool := w.getLsbD i

/-- A Bool as the low bit of a word. -/
def ofBit (n : Nat) (b : Bool) : BitVec n := if b then 1 else 0

/-- The low n bytes of v, lowest first. -/
def natBytes : Nat → Nat → List Byte
  | 0, _ => []
  | n + 1, v => BitVec.ofNat 8 v :: natBytes n (v / 256)

/-- The little-endian value of a list of bytes. -/
def bytesNat : List Byte → Nat
  | [] => 0
  | b :: l => b.toNat + 256 * bytesNat l

/-- Sign extension of the low w bits of v, as an integer (w > 0). -/
def sval (w v : Nat) : Int :=
  if 2 ^ (w - 1) ≤ v % 2 ^ w then (v % 2 ^ w : Nat) - (2 ^ w : Nat) else (v % 2 ^ w : Nat)

/-- Sign extension of the low w bits of a word to 64 bits. -/
def sext64 (w : Nat) (v : Word) : Word := (v.setWidth w).signExtend 64

/-- Zero extension of the low w bits of a word to 64 bits. -/
def zext64 (w : Nat) (v : Word) : Word := (v.setWidth w).setWidth 64

/-- Lane i of width w of a vector (06: lane 0 in the lowest bits). -/
def lane (w : Nat) (v : Vec) (i : Nat) : BitVec w := v.extractLsb' (w * i) w

/-- The vector whose lane i of width w is f i, for i below n; the other bits are zero. -/
def ofLanes (w : Nat) (f : Nat → BitVec w) : Nat → Vec
  | 0 => 0
  | n + 1 => ofLanes w f n ||| (((f n).setWidth 512) <<< (w * n))

/-- Clamp of an integer to a range. -/
def clampI (lo hi x : Int) : Int := if x < lo then lo else if hi < x then hi else x

/-- Rounds a byte address down to its 64-byte line. -/
def lineOf (a : Nat) : Nat := a / 64

/-- Take n elements, padding with d. -/
def takePad {α : Type} (d : α) : Nat → List α → List α
  | 0, _ => []
  | n + 1, [] => d :: takePad d n []
  | n + 1, x :: l => x :: takePad d n l

/-- The element at a place, or d beyond the end. -/
def nthD {α : Type} (d : α) : List α → Nat → α
  | [], _ => d
  | x :: _, 0 => x
  | _ :: l, n + 1 => nthD d l n

/-- Removes the element at a place. -/
def dropAt {α : Type} : List α → Nat → List α
  | [], _ => []
  | _ :: l, 0 => l
  | x :: l, n + 1 => x :: dropAt l n

/-- Replaces the element at a place. -/
def setAt {α : Type} : List α → Nat → α → List α
  | [], _, _ => []
  | _ :: l, 0, y => y :: l
  | x :: l, n + 1, y => x :: setAt l n y

/-- The place of the first element that p accepts, counted from k. -/
def findIdxFrom {α : Type} (p : α → Bool) : List α → Nat → Option Nat
  | [], _ => none
  | x :: l, k => if p x then some k else findIdxFrom p l (k + 1)

/-- The place of the first element that p accepts. -/
def findIdx1 {α : Type} (p : α → Bool) (l : List α) : Option Nat := findIdxFrom p l 0

/-- Folds f over 0, 1, …, n - 1. -/
def iter {α : Type} (f : Nat → α → α) : Nat → α → α
  | 0, s => s
  | n + 1, s => f n (iter f n s)

/-- The i-th 64-bit word of a little-endian byte list. -/
def wordAt (bs : List Byte) (i : Nat) : Word := BitVec.ofNat 64 (bytesNat ((bs.drop (8 * i)).take 8))

/-- The bytes of a list of words, lowest first. -/
def wordsBytes (ws : List Word) : List Byte := ws.flatMap fun w => natBytes 8 w.toNat

end Sys2Proof
end

