-- ==== Sys2Proof/Syntax.lean ====
section
/-! DEFINITION. Instr: one constructor per row of spec/opcode_table.json, with its operand types.
Compute words follow 02 R33-R45, the helm custom words 10 R210, the bytecodes 10 R213; the events are the rows that
95_what_each_step_holds describes. An event's operands say which part acts and carry what comes from outside the package. -/

namespace Sys2Proof

/-- A scalar source operand (02 R33). -/
inductive Src where
  | g (i : Fin 8)
  | w (i : Fin 24)
  | q (i : Fin 8)
  | e (i : Fin 4)
  | lit32 (v : W32)
  | lit64 (v : Word)
  | small (v : BitVec 4)
  deriving DecidableEq, Repr, Inhabited

/-- A scalar destination operand: codes 0x00-0x2B only (02 R35). -/
inductive Dst where
  | g (i : Fin 8)
  | w (i : Fin 24)
  | q (i : Fin 8)
  | e (i : Fin 4)
  deriving DecidableEq, Repr, Inhabited

/-- The operating width of majors 0x01-0x06 and mov (04 R76, R77). -/
inductive Width where
  | x64 | x32 | x16 | x8
  deriving DecidableEq, Repr, Inhabited

/-- Condition codes (02 R39). -/
inductive Cond where
  | eq | ne | ltI | geI | ltN | geN
  deriving DecidableEq, Repr, Inhabited

/-- Access and element sizes: 1, 2, 4, 8 bytes (02 R41). -/
inductive Size where
  | s8 | s16 | s32 | s64
  deriving DecidableEq, Repr, Inhabited

/-- Floating lane types of majors 0x18 and 0x19 (02 R42). -/
inductive FType where
  | f32 | bf16 | f16
  deriving DecidableEq, Repr, Inhabited

/-- Integer lane types of major 0x1A and vsel (02 R42). -/
inductive IType where
  | i8 | i16 | i32 | i64
  deriving DecidableEq, Repr, Inhabited

/-- Lane types of vcmp (02 R42). -/
inductive CmpType where
  | i8 | i16 | i32 | i64 | f32 | bf16 | f16
  deriving DecidableEq, Repr, Inhabited

/-- Element types of vcvt (02 R42). -/
inductive CvtType where
  | i8 | i16 | i32 | f32 | bf16 | f16 | e4m3 | e5m2
  deriving DecidableEq, Repr, Inhabited

/-- Lane types of vred (02 R42). -/
inductive RedType where
  | f32 | bf16 | i32
  deriving DecidableEq, Repr, Inhabited

/-- Rounding modes of vcvt (02 R42). -/
inductive Rounding where
  | rne | rtz | rdn | rup
  deriving DecidableEq, Repr, Inhabited

/-- Atomic operations (02 R41). -/
inductive AmoOp where
  | add | and | or | xor | minI | maxI | swap | cas
  deriving DecidableEq, Repr, Inhabited

/-- Basin bank operations (05 R105). -/
inductive BopOp where
  | addI32 | addF32 | addBf16 | maxF32 | maxBf16 | minF32
  deriving DecidableEq, Repr, Inhabited

/-- Scopes of fence.sc (05 R107). -/
inductive Scope where
  | core | clus | die | dev | board
  deriving DecidableEq, Repr, Inhabited

/-- Operators of post.upd (08 R147, R149): codes 1-9 and 11 of R151. -/
inductive UpdOp where
  | addI32 | addI64 | addF32 | maxI32 | minI32 | or | and | replace | keep | count
  deriving DecidableEq, Repr, Inhabited

/-- The special registers of 01 R15, in index order from 0x00. -/
inductive SReg where
  | tid | tag | inst | clk | wst | wb | bh | bid | bpc | ev | qst | wsp | fa | fw | fo | fsc
  | kca | kpc | ksl | kwd | lvl
  deriving DecidableEq, Repr, Inhabited

/-- How the page of a helm access is mapped (19 R303). -/
inductive Pbmt where
  | pma | nc | io
  deriving DecidableEq, Repr, Inhabited

/-- RISC-V atomic operations of a helm hart on main memory and the Basin windows (19 R300). -/
inductive HelmAmo where
  | swap | add | xor | and | or | min | max | minu | maxu
  deriving DecidableEq, Repr, Inhabited

/-- What a helm hart does in one HELM_ACCESS step (19 R300, R303). -/
inductive HelmOp where
  | load (rd : Fin 32) (signed : Bool)
  | store (v : Word)
  | amo (op : HelmAmo) (rd : Fin 32) (v : Word)
  | clean | flush | inval | zero
  | evict
  deriving DecidableEq, Repr, Inhabited

/-- An engine of a cluster (die * 32 + cluster) or of a die (17 R279). -/
inductive Eng where
  | copy (cl : Nat)
  | gather (cl : Nat)
  | coll (die : Nat)
  | basin (die : Nat)
  deriving DecidableEq, Repr, Inhabited

/-- A launch record, words 0-7 (16 R263). -/
structure LaunchRec where
  w0 : Word
  w1 : Word
  w2 : Word
  w3 : Word
  w4 : Word
  w5 : Word
  w6 : Word
  w7 : Word
  deriving DecidableEq, Repr, Inhabited

/-- A 128-byte command-port block, words 0-8 (17 R287). -/
structure PortBlock where
  w0 : Word
  w1 : Word
  w2 : Word
  w3 : Word
  w4 : Word
  w5 : Word
  w6 : Word
  w7 : Word
  rest : List Word
  deriving DecidableEq, Repr, Inhabited

/-- What a copy engine does for a chunk: it reads it, with so many of its checks failing, of the first read and of the second, or it writes
one of its 8-byte units (17 R280, R281). -/
inductive ChunkPart where
  | read (mismatches : BitVec 2)
  | write (piece : Nat)
  deriving DecidableEq, Repr, Inhabited

/-- What a gather engine does for an element: it reads it, and writes one of at most 8 bytes at once; or it writes one 8-byte unit of a 64-byte
element that it has read (17 R282; 14 R256). -/
structure ElementPart where
  no : Nat
  unit : Option Nat := none
  deriving DecidableEq, Repr, Inhabited

/-- What a copy engine does for a multicast: it reads a chunk, which the cores listed refuse, or writes one 8-byte unit of a chunk to a core (17
R288; 14 R256). -/
inductive CastPart where
  | read (chunk : Nat) (refusing : List Nat)
  | write (chunk core piece : Nat)
  deriving DecidableEq, Repr, Inhabited

/-- A collective that has waited too long: its place, and the mtime of the first submission on the ring (17 R285). -/
structure Late where
  n : Nat
  first : Nat
  deriving DecidableEq, Repr, Inhabited

/-- What a failed check comes to (21 R319; 17 R293): a flit is replayed, and its replay passes or fails; a single-bit error of a die's memory is
corrected; a line cannot be corrected. -/
inductive CheckError where
  | flit (ok : Bool)
  | corrected (die : Fin 4)
  | poisoned (line : Nat)
  deriving DecidableEq, Repr, Inhabited

/-- What another device of the board submitted to an all-reduce (17 R285): its number, transfer id, device mask, type, operation and count
fields, the mtime of its submission, and its element bits. -/
structure PeerShare where
  device : BitVec 4
  id : W32
  since : Nat
  mask : BitVec 16
  typ : BitVec 2
  op : BitVec 2
  count : Word
  elems : List W32
  deriving DecidableEq, Repr, Inhabited

/-- What a root port reports: an AER or hot-plug event (19 R310), or an INTx line that an endpoint asserts or deasserts (R308). -/
inductive PciEvent where
  | event (port : Fin 2)
  | intx (port : Fin 2) (line : Fin 4) (on : Bool)
  deriving DecidableEq, Repr, Inhabited

/-- What a collective engine meets of an all-reduce (17 R285, R286): what the other devices submitted, a link of the ring between two of them that
fails, or a chunk of the result that it reads and reduces, or of which it writes an 8-byte unit. -/
inductive CollPart where
  | submitted (peers : List PeerShare)
  | linkFailed
  | read (chunk : Nat)
  | write (chunk piece : Nat)
  deriving DecidableEq, Repr, Inhabited

/-- What the lockhouse finds at bring-up (21 R332): the outcome of the checks, the trained and populated memory, the cores that
fail their margins, and the images of the SPI flash. -/
structure BringUp where
  imagesOk : Bool
  calibrationOk : Bool
  linksOk : Bool
  hbm : BitVec 24
  pagesPerStack : BitVec 24
  ifaces : BitVec 12
  gibPerIface : Half
  failed : List Nat
  keeperImage : List Byte
  firmware : List Byte
  bootImage : List Byte
  calibration : List Byte
  device : BitVec 4
  pcie : BitVec 4
  bootPc : Word
  deriving DecidableEq, Repr, Inhabited

/-- A record as it travels (08 R148): header, key, one to eight payload words. -/
structure Record where
  hdr : Word
  key : Word
  pay : List Word
  /-- the device's own mark of a system call's record, which is journaled at a helm pound (21 R322) -/
  call : Bool := false
  deriving DecidableEq, Repr, Inhabited

/-- What reaches this device from another device of the board (19 R315): a record; the notice that a tag is aborted, or that its mark is to be
cleared (16 R271); the counts that a device holds of a tag as a sweep reads them, and whether it holds a record of the tag (16 R269). -/
inductive Far where
  | record (r : Record)
  | abort (tag : Half)
  | clear (tag : Half)
  | counts (device : Fin 16) (tag : Half) (created retired : Nat) (held : Bool)
  deriving DecidableEq, Repr, Inhabited

/-- The table's rows. A compute word names its operands as 02 R33-R36; wide marks a bytecode that the WIDE prefix precedes. -/
inductive Instr where
  -- majors 0x01 to 0x07
  | add (d : Dst) (a b : Src) (w : Width)
  | sub (d : Dst) (a b : Src) (w : Width)
  | minI (d : Dst) (a b : Src) (w : Width)
  | maxI (d : Dst) (a b : Src) (w : Width)
  | minN (d : Dst) (a b : Src) (w : Width)
  | maxN (d : Dst) (a b : Src) (w : Width)
  | and (d : Dst) (a b : Src) (w : Width)
  | or (d : Dst) (a b : Src) (w : Width)
  | xor (d : Dst) (a b : Src) (w : Width)
  | andn (d : Dst) (a b : Src) (w : Width)
  | shl (d : Dst) (a b : Src) (w : Width)
  | shrN (d : Dst) (a b : Src) (w : Width)
  | shrI (d : Dst) (a b : Src) (w : Width)
  | rot (d : Dst) (a b : Src) (w : Width)
  | cmp (cc : Cond) (d : Dst) (a b : Src) (w : Width)
  | sel (d : Dst) (a b : Src) (w : Width)
  | mul (d : Dst) (a b : Src) (w : Width)
  | mulhI (d : Dst) (a b : Src) (w : Width)
  | mulhN (d : Dst) (a b : Src) (w : Width)
  | divI (d : Dst) (a b : Src) (w : Width)
  | divN (d : Dst) (a b : Src) (w : Width)
  | remI (d : Dst) (a b : Src) (w : Width)
  | remN (d : Dst) (a b : Src) (w : Width)
  | clz (d : Dst) (a : Src) (w : Width)
  | ctz (d : Dst) (a : Src) (w : Width)
  | popc (d : Dst) (a : Src) (w : Width)
  | extI (d : Dst) (a b : Src) (w : Width)
  | extN (d : Dst) (a b : Src) (w : Width)
  | ins (d : Dst) (a b : Src) (w : Width)
  | lea (sc : BitVec 2) (d : Dst) (a b : Src) (w : Width)
  | mov (d : Dst) (a : Src) (w : Width)
  | rds (d : Dst) (r : SReg)
  | wrs (r : SReg) (a : Src)
  -- majors 0x08 to 0x0D
  | b (off : BitVec 26)
  | call (off : BitVec 26)
  | br (cc : Cond) (a b : Src) (off : BitVec 10)
  | bz (a : Src) (off : BitVec 10)
  | bnz (a : Src) (off : BitVec 10)
  | jmp (a : Src)
  | callr (a : Src)
  | ret
  | endT
  | yield
  | wait (a : Src)
  | alarm (a : Src)
  -- majors 0x10 to 0x17
  | ld (sz : Size) (signed rlx : Bool) (sg : Fin 8) (d : Dst) (o : Src) (disp : BitVec 6)
  | st (sz : Size) (rlx : Bool) (sg : Fin 8) (a o : Src) (disp : BitVec 6)
  | vld (sz : Size) (m : Fin 4) (rlx : Bool) (sg : Fin 8) (vd : Fin 16) (o : Src) (disp : BitVec 6)
  | vst (sz : Size) (m : Fin 4) (rlx : Bool) (sg : Fin 8) (va : Fin 16) (o : Src) (disp : BitVec 6)
  | amo (op : AmoOp) (wide : Bool) (sg : Fin 8) (d : Dst) (o : Src) (disp : BitVec 6)
  | bop (op : BopOp) (sg : Fin 8) (va : Fin 16) (o : Src) (m : Fin 4)
  | fenceRx
  | fenceSc (sc : Scope)
  | sgnarrow (sg : Fin 8) (a o : Src) (keep : BitVec 3)
  | sgrd (sg : Fin 8) (d : Dst) (word : Bool)
  -- majors 0x18 to 0x21
  | vadd (t : FType) (vd va vb : Fin 16) (m : Fin 4)
  | vsub (t : FType) (vd va vb : Fin 16) (m : Fin 4)
  | vmul (t : FType) (vd va vb : Fin 16) (m : Fin 4)
  | vfma (t : FType) (vd va vb vc : Fin 16) (m : Fin 4)
  | vfms (t : FType) (vd va vb vc : Fin 16) (m : Fin 4)
  | vmax (t : FType) (vd va vb : Fin 16) (m : Fin 4)
  | vmin (t : FType) (vd va vb : Fin 16) (m : Fin 4)
  | vabs (t : FType) (vd va : Fin 16) (m : Fin 4)
  | vneg (t : FType) (vd va : Fin 16) (m : Fin 4)
  | vdiv (t : FType) (vd va vb : Fin 16) (m : Fin 4)
  | vrcp (t : FType) (vd va : Fin 16) (m : Fin 4)
  | vrsq (t : FType) (vd va : Fin 16) (m : Fin 4)
  | vexp2 (t : FType) (vd va : Fin 16) (m : Fin 4)
  | vlog2 (t : FType) (vd va : Fin 16) (m : Fin 4)
  | viadd (t : IType) (vd va vb : Fin 16) (m : Fin 4) (sat : Bool)
  | visub (t : IType) (vd va vb : Fin 16) (m : Fin 4) (sat : Bool)
  | vimul (t : IType) (vd va vb : Fin 16) (m : Fin 4)
  | vimax (t : IType) (vd va vb : Fin 16) (m : Fin 4)
  | vimin (t : IType) (vd va vb : Fin 16) (m : Fin 4)
  | vshl (t : IType) (vd va vb : Fin 16) (m : Fin 4)
  | vshrN (t : IType) (vd va vb : Fin 16) (m : Fin 4)
  | vshrI (t : IType) (vd va vb : Fin 16) (m : Fin 4)
  | vand (vd va vb : Fin 16) (m : Fin 4)
  | vor (vd va vb : Fin 16) (m : Fin 4)
  | vxor (vd va vb : Fin 16) (m : Fin 4)
  | vcmp (cc : Cond) (t : CmpType) (md : Fin 4) (va vb : Fin 16) (m : Fin 4)
  | vsel (t : IType) (vd va vb : Fin 16) (m : Fin 4)
  | vcvt (td ts : CvtType) (vd va : Fin 16) (part : BitVec 4) (m : Fin 4) (r : Rounding)
  | vpermB (vd va vb : Fin 16) (m : Fin 4)
  | vshuf (vd va vb vc : Fin 16) (m : Fin 4)
  | vsplat (sz : Size) (vd : Fin 16) (a : Src) (m : Fin 4)
  | vextr (sz : Size) (lane : BitVec 6) (va : Fin 16) (d : Dst)
  | vinsr (sz : Size) (lane : BitVec 6) (vd : Fin 16) (a : Src)
  | vredAdd (t : RedType) (vd va : Fin 16) (m : Fin 4)
  | vredMax (t : RedType) (vd va : Fin 16) (m : Fin 4)
  | vredMin (t : RedType) (vd va : Fin 16) (m : Fin 4)
  | vdot4 (vd va vb vc : Fin 16) (m : Fin 4)
  | mset (md : Fin 4) (a : Src)
  | mand (md ma mb : Fin 4)
  | mor (md ma mb : Fin 4)
  | mnot (md ma : Fin 4)
  | mmov (md ma : Fin 4)
  -- majors 0x24 to 0x27
  | wld (sg : Fin 8) (a b : Src)
  | wrun (kt : BitVec 6) (n a b : Src)
  | wrunO (kt : BitVec 6) (a : Src)
  | wrunC (kt : BitVec 6) (a b : Src)
  | waccS (col : BitVec 6) (d : Dst)
  | waccU (col : BitVec 6) (d : Dst) (a : Src)
  | waccD (col : BitVec 6) (d : Dst) (a : Src)
  | waccP (col : BitVec 6) (d : Dst) (a : Src)
  | wstat (d : Dst) (a : Src)
  | wclr
  -- majors 0x28 to 0x2D
  | spawn (a b : Src)
  | postCnt (b : Src)
  | postCntSolo (b : Src)
  | postWake (a : Src)
  | postWakeSolo (a : Src)
  | postUpd (op : UpdOp) (len : BitVec 3) (b : Src)
  | msg (len : BitVec 3) (a b : Src)
  | join (d : Dst) (a : Src)
  | leave (d : Dst) (a : Src)
  | bar (a : Src)
  | tow (a b : Src)
  | moor (d : Dst) (a : Src)
  | castoff
  | qcfg (a b : Src)
  | qeos (a : Src)
  -- majors 0x2E to 0x31
  | push (p : Fin 4) (a : Src)
  | pop (d : Dst) (p : Fin 4)
  | poll (d : Dst) (p : Fin 4)
  | alloc (d : Dst) (a : Src)
  | free (a b : Src)
  | bellh (d : Dst) (a : Src)
  | bret
  | sys (a b : Src)
  | trap (a : Src)
  | rdcap (d : Dst) (a b : Src)
  -- majors 0x32 to 0x37
  | kpark (d : Dst)
  | kresume (d : Dst)
  | kkill (d : Dst)
  | ksave (d : Dst)
  | kload (d : Dst)
  | sgset (sg : Fin 8) (a b : Src)
  | sgsetK (sg : Fin 8) (a b : Src)
  | ctuinv (a b : Src)
  | kret (r : Fin 32) (a : Src)
  | kfence
  | kpost (a : Src)
  | kcfg (a b : Src)
  -- helm custom words
  | swqRun (rd rs1 rs2 : Fin 32)
  | swqIcw (rs1 rs2 : Fin 32)
  | swqIcinv (rs1 : Fin 32)
  | swqGen (rd rs1 : Fin 32)
  | swqPost (rd rs1 : Fin 32)
  | swqHold (rd rs1 rs2 : Fin 32)
  -- bytecodes
  | swqNop (wide : Bool)
  | swqMov (wide : Bool) (d a : Half)
  | swqLdc (wide : Bool) (d k : Half)
  | swqLdi (wide : Bool) (d imm : Half)
  | swqLdn (wide : Bool) (d : Half)
  | swqLdg (wide : Bool) (d site : Half)
  | swqStg (wide : Bool) (a site : Half)
  | swqGeta (wide : Bool) (d a site : Half)
  | swqSeta (wide : Bool) (a b site : Half)
  | swqGeti (wide : Bool) (d a b : Half)
  | swqSeti (wide : Bool) (a b c : Half)
  | swqGetm (wide : Bool) (d a site : Half)
  | swqAdd (wide : Bool) (d a b : Half)
  | swqSub (wide : Bool) (d a b : Half)
  | swqMul (wide : Bool) (d a b : Half)
  | swqDiv (wide : Bool) (d a b : Half)
  | swqMod (wide : Bool) (d a b : Half)
  | swqNeg (wide : Bool) (d a : Half)
  | swqCmp (wide : Bool) (d a b : Half) (cc : Byte)
  | swqNot (wide : Bool) (d a : Half)
  | swqJmp (wide : Bool) (off : Half)
  | swqJt (wide : Bool) (a off : Half)
  | swqJf (wide : Bool) (a off : Half)
  | swqCall (wide : Bool) (d f a n site : Half)
  | swqCallm (wide : Bool) (d a n site : Half)
  | swqRet (wide : Bool) (a : Half)
  | swqRaise (wide : Bool) (a : Half)
  | swqNewo (wide : Bool) (d k : Half)
  | swqNewl (wide : Bool) (d a n : Half)
  | swqNewt (wide : Bool) (d a n : Half)
  | swqLen (wide : Bool) (d a : Half)
  | swqIter (wide : Bool) (d a : Half)
  | swqNext (wide : Bool) (d a b off : Half)
  | swqTnew (wide : Bool) (d a b : Half)
  | swqTcall (wide : Bool) (d a b c site : Half)
  | swqTcopy (wide : Bool) (d a b : Half)
  | swqTwait (wide : Bool) (a : Half)
  | swqDrop (wide : Bool) (a : Half)
  | swqGuard (wide : Bool) (a site : Half)
  | swqGcstep (wide : Bool) (n : Half)
  | swqExit (wide : Bool)
  -- events that the model itself names in a step or at reset
  | powerOn (found : BringUp)
  | reservedEncoding (word : W32)
  | unknownOpcode (op : Byte)
  | launch (h : Fin 32) (viaPort : Bool) (r : LaunchRec)
  | copyLaunch (h : Fin 32) (viaPort : Bool) (r : LaunchRec)
  -- events: records and pounds (c: core, k: slot, n: place in a list)
  | recordArrival (n : Nat) (far : Option Far)
  | postPortAccept (c : Nat) (k : Fin 16)
  | trapRecordDispatch (c : Nat)
  | faultRecordDispatch (c : Nat)
  | wakeDispatch (c : Nat)
  | replayWake (c : Nat)
  | replyDispatch (c : Nat)
  | accessReply (c : Nat)
  | counterDispatch (c : Nat)
  | counterApply (c : Nat)
  | messageDispatch (c : Nat)
  | remoteAccessDispatch (c : Nat)
  | updateDispatch (c : Nat)
  | updateApply (c : Nat)
  | taskDispatch (c : Nat)
  | orderedLaneRelease (c : Nat)
  | dequeThreadCreate (c : Nat)
  | threadRetire (c : Nat) (k : Fin 16)
  | abortNotice (tag : Half)
  | abortRelay (c : Nat) (tag : Half)
  -- events: threads
  | memoryReply (c : Nat) (k : Fin 16)
  | relaxedAccessComplete (c : Nat) (k : Fin 16) (n : Nat)
  | relaxedFaultFound (c : Nat) (k : Fin 16)
  | windowSpillFillComplete (c : Nat) (k : Fin 16)
  | divideComplete (c : Nat) (k : Fin 16)
  | iterativeComplete (c : Nat) (k : Fin 16)
  | alarmExpiry (c : Nat) (k : Fin 16)
  | kwdTimeout (c : Nat) (k : Fin 16)
  | slotStarvation (c : Nat)
  | bellTaken (c : Nat) (k : Fin 16)
  | forwardedInstruction (n : Nat)
  | moorRejoin (c : Nat) (k : Fin 16)
  | groupReply (c : Nat) (k : Fin 16)
  | barrierRoundComplete (gid : Half)
  | barrierWatchdogExpiry (gid : Half)
  | weirRunGrant (c : Nat)
  | weirRunComplete (c : Nat)
  | weirOperandFault (c : Nat)
  | wldComplete (c : Nat) (k : Fin 16)
  | scFenceComplete (c : Nat) (k : Fin 16)
  | ctuinvComplete (c : Nat)
  | keeperSaveLoadComplete (c : Nat)
  | allocatorReply (c : Nat) (k : Fin 16)
  -- events: engines
  | engineQueueRoom (c : Nat) (k : Fin 16)
  | copyChunk (cl n chunk : Nat) (part : ChunkPart)
  | gatherElement (cl n : Nat) (el : ElementPart)
  | basinOpLine (die n line : Nat)
  | engineCommandComplete (eng : Eng) (n : Nat)
  | collectiveMatch (die n : Nat) (part : CollPart)
  | collectiveTimeout (die : Nat) (late : Late)
  | multicastRound (cl n : Nat) (part : CastPart)
  | allocatorRefill (die pool : Nat)
  | allocatorSpill (die pool : Nat)
  | allocatorReload (die pool : Nat)
  | poolAllocLoad (h : Fin 32) (die pool : Nat) (rd : Fin 32)
  | poolFreeStore (h : Fin 32) (die pool : Nat) (addr : Word)
  -- events: scheduling and memory
  | loadFigureReport (c : Nat)
  | stealRequest (c : Nat)
  | stealAnswer (c : Nat)
  | levelling (c : Nat)
  | instructionFetch (c : Nat) (k : Fin 16)
  | pageWalk (cl : Nat) (asid : Half) (page : BitVec 36)
  | terminationSweep
  | firstDeadline (tag : Half)
  | secondDeadline (tag : Half)
  | thirdDeadline (tag : Half)
  | preempt (tag : Half)
  | resume (tag : Half)
  | preemptionGraceExpiry (tag : Half)
  | preemptionPark (c : Nat) (k : Fin 16)
  | cacheSizeWrite (die : Nat) (v : Word)
  | cacheFlushComplete (die : Nat) (contents : List (Nat × Byte))
  -- events: helm side and outside world
  | helmUpdateApply (h : Fin 32)
  | inboxWrite (h : Fin 32)
  | inboxArm (h : Fin 32)
  | helmCopyCommand (h : Fin 32) (die : Nat) (blk : PortBlock)
  | helmMulticastCommand (h : Fin 32) (die : Nat) (blk : PortBlock)
  | timebaseSnapshot (h : Fin 32) (rd : Fin 32)
  | routingWrite (v : Word)
  | routeChangeEffect (dev : Fin 16)
  | remoteRecordRefused (tag : Half)
  | linkFlitError (link : Nat) (what : CheckError)
  | dmaAccess (rid : Half) (pa : BitVec 56) (isWrite : Bool) (data : List Byte)
  | pciePortEvent (ev : PciEvent)
  | generateKey (h : Fin 32) (index asid : Word)
  | eraseKey (h : Fin 32) (index : Word)
  | attest (h : Fin 32) (pa nonce0 nonce1 : Word)
  | setGovernor (h : Fin 32) (power current : Word)
  | fenceCore (h : Fin 32) (core : Word)
  | lockhouseRestart
  | governorSample (current power : Half) (t0 t1 t2 t3 t4 : Byte)
  | thermalThrottle (die : Fin 5) (temp : Byte)
  | thermalShutdown (die : Fin 5) (temp : Byte)
  | registerWrite (h : Fin 32) (pa : BitVec 56) (v : Word)
  | helmAccess (h : Fin 32) (op : HelmOp) (pa : BitVec 56) (sz : Size) (pbmt : Pbmt)
  deriving DecidableEq, Repr, Inhabited

end Sys2Proof
end

