-- ==== Sys2Proof/WellFormed.lean ====
section
/-! DEFINITION. Well-formed instructions: the checks of 02 R33-R45 that the operand types do not already make. -/

namespace Sys2Proof

/-- A destination read as a source first (sel, ins, the data of amo: 02 R35). -/
def Dst.asSrc : Dst → Src
  | .g i => .g i
  | .w i => .w i
  | .q i => .q i
  | .e i => .e i

/-- Whether an operand is one of the two literal-follows codes (02 R34). -/
def Src.isLit : Src → Bool
  | .lit32 _ => true
  | .lit64 _ => true
  | _ => false

/-- How many literal words an operand adds (02 R33). -/
def Src.litWords : Src → Nat
  | .lit32 _ => 1
  | .lit64 _ => 2
  | _ => 0

/-- Whether an operand names a queue or an engine port (02 R35). -/
def Src.isQE : Src → Bool
  | .q _ => true
  | .e _ => true
  | _ => false

/-- Whether a destination names a queue or an engine port. -/
def Dst.isQE (d : Dst) : Bool := d.asSrc.isQE

/-- The element size in bytes of a size code (02 R41). -/
def Size.bytes : Size → Nat
  | .s8 => 1
  | .s16 => 2
  | .s32 => 4
  | .s64 => 8

/-- The element size in bytes of a conversion type (06 R120). -/
def CvtType.bytes : CvtType → Nat
  | .i8 => 1
  | .i16 => 2
  | .i32 => 4
  | .f32 => 4
  | .bf16 => 2
  | .f16 => 2
  | .e4m3 => 1
  | .e5m2 => 1

/-- The part ratio of a conversion (06 R120). -/
def cvtRatio (td ts : CvtType) : Nat := max td.bytes ts.bytes / min td.bytes ts.bytes

/-- The scalar source fields of a compute instruction, in the order in which they are read (02 R35): a destination that is
also read comes first; the row count of wrun comes last (07). -/
def instrSrcs : Instr → List Src
  | .add _ a b _ | .sub _ a b _ | .minI _ a b _ | .maxI _ a b _ | .minN _ a b _ | .maxN _ a b _ => [a, b]
  | .and _ a b _ | .or _ a b _ | .xor _ a b _ | .andn _ a b _ => [a, b]
  | .shl _ a b _ | .shrN _ a b _ | .shrI _ a b _ | .rot _ a b _ => [a, b]
  | .cmp _ _ a b _ => [a, b]
  | .sel d a b _ | .ins d a b _ => [d.asSrc, a, b]
  | .mul _ a b _ | .mulhI _ a b _ | .mulhN _ a b _ => [a, b]
  | .divI _ a b _ | .divN _ a b _ | .remI _ a b _ | .remN _ a b _ => [a, b]
  | .clz _ a _ | .ctz _ a _ | .popc _ a _ | .mov _ a _ => [a]
  | .extI _ a b _ | .extN _ a b _ | .lea _ _ a b _ => [a, b]
  | .wrs _ a => [a]
  | .br _ a b _ => [a, b]
  | .bz a _ | .bnz a _ => [a]
  | .jmp a | .callr a | .wait a | .alarm a => [a]
  | .ld _ _ _ _ _ o _ => [o]
  | .st _ _ _ a o _ => [a, o]
  | .vld _ _ _ _ _ o _ | .vst _ _ _ _ _ o _ => [o]
  | .amo _ _ _ d o _ => [d.asSrc, o]
  | .bop _ _ _ o _ => [o]
  | .sgnarrow _ a o _ => [a, o]
  | .vsplat _ _ a _ | .vinsr _ _ _ a | .mset _ a => [a]
  | .wld _ a b => [a, b]
  | .wrun _ n a b => [a, b, n]
  | .wrunO _ a => [a]
  | .wrunC _ a b => [a, b]
  | .waccU _ _ a | .waccD _ _ a | .waccP _ _ a | .wstat _ a => [a]
  | .spawn a b => [a, b]
  | .postCnt a | .postCntSolo a | .postWake a | .postWakeSolo a | .postUpd _ _ a => [a]
  | .msg _ a b => [a, b]
  | .join _ a | .leave _ a | .bar a | .moor _ a => [a]
  | .tow a b | .qcfg a b => [a, b]
  | .qeos a => [a]
  | .push _ a => [a]
  | .alloc _ a | .bellh _ a => [a]
  | .free a b | .sys a b => [a, b]
  | .trap a => [a]
  | .rdcap _ a b => [a, b]
  | .sgset _ a b | .sgsetK _ a b | .ctuinv a b | .kcfg a b => [a, b]
  | .kret _ a | .kpost a => [a]
  | _ => []

/-- The scalar destination field of a compute instruction. -/
def instrDst : Instr → Option Dst
  | .add d _ _ _ | .sub d _ _ _ | .minI d _ _ _ | .maxI d _ _ _ | .minN d _ _ _ | .maxN d _ _ _ => some d
  | .and d _ _ _ | .or d _ _ _ | .xor d _ _ _ | .andn d _ _ _ => some d
  | .shl d _ _ _ | .shrN d _ _ _ | .shrI d _ _ _ | .rot d _ _ _ => some d
  | .cmp _ d _ _ _ | .sel d _ _ _ | .ins d _ _ _ => some d
  | .mul d _ _ _ | .mulhI d _ _ _ | .mulhN d _ _ _ => some d
  | .divI d _ _ _ | .divN d _ _ _ | .remI d _ _ _ | .remN d _ _ _ => some d
  | .clz d _ _ | .ctz d _ _ | .popc d _ _ | .mov d _ _ => some d
  | .extI d _ _ _ | .extN d _ _ _ | .lea _ d _ _ _ => some d
  | .rds d _ => some d
  | .ld _ _ _ _ d _ _ | .amo _ _ _ d _ _ | .sgrd _ d _ | .vextr _ _ _ d => some d
  | .waccS _ d | .waccU _ d _ | .waccD _ d _ | .waccP _ d _ | .wstat d _ => some d
  | .join d _ | .leave d _ | .moor d _ => some d
  | .pop d _ | .poll d _ | .alloc d _ | .bellh d _ | .rdcap d _ _ => some d
  | .kpark d | .kresume d | .kkill d | .ksave d | .kload d => some d
  | _ => none

/-- At most one literal-follows code (02 R34). -/
def oneLiteral (l : List Src) : Bool := l.countP Src.isLit ≤ 1

/-- No queue and no port in two source fields (02 R35). -/
def distinctQE (l : List Src) : Bool := decide (l.filter Src.isQE).Nodup

/-- A special register that wrs may name (01 R15). -/
def SReg.writable : SReg → Bool
  | .wb | .bh | .bpc | .ev | .kca | .kpc | .ksl | .lvl => true
  | .tid | .tag | .inst | .clk | .wst | .bid | .qst | .wsp | .fa | .fw | .fo | .fsc | .kwd => false

/-- A special register that only slot 0 may name (01 R15). -/
def SReg.keeperOnly : SReg → Bool
  | .kca | .kpc | .ksl | .kwd | .lvl => true
  | _ => false

/-- Whether an amo.cas may name d as its data: g0-g6 or w0-w22 (02 R41). -/
def Dst.casOk : Dst → Bool
  | .g i => i.val < 7
  | .w i => i.val < 23
  | _ => false

/-- A floating vcmp takes cc 0-3 only (02 R42). -/
def cmpOk (cc : Cond) : CmpType → Bool
  | .f32 | .bf16 | .f16 => match cc with
    | .eq | .ne | .ltI | .geI => true
    | .ltN | .geN => false
  | .i8 | .i16 | .i32 | .i64 => true

/-- A one-byte bytecode operand fits a byte (10 R213). -/
def byteOk (wide : Bool) (x : Half) : Bool := wide || x.toNat < 256

/-- An immediate without WIDE is a signed byte (10 R213). -/
def immOk (wide : Bool) (x : Half) : Bool := wide || (x.extractLsb' 0 8).signExtend 16 == x

/-- The checks that go with one constructor beyond those on its scalar operands. -/
def ownChecks : Instr → Bool
  | .amo op _ _ d _ _ => op != .cas || d.casOk
  | .ld _ _ rlx _ d _ _ => !(rlx && d.isQE)
  | .vcmp cc t _ _ _ _ => cmpOk cc t
  | .vcvt td ts _ _ part _ _ => td != ts && part.toNat < cvtRatio td ts
  | .vextr sz lane _ _ | .vinsr sz lane _ _ => lane.toNat < 64 / sz.bytes
  | .wrs r _ => r.writable
  | .swqMov w d a | .swqLdc w d a | .swqNeg w d a | .swqNot w d a | .swqNewo w d a
  | .swqLen w d a | .swqIter w d a => byteOk w d && byteOk w a
  | .swqLdi w d i => byteOk w d && immOk w i
  | .swqLdn w d | .swqRet w d | .swqRaise w d | .swqTwait w d | .swqDrop w d | .swqGcstep w d => byteOk w d
  | .swqLdg w d _ | .swqStg w d _ | .swqJt w d _ | .swqJf w d _ | .swqGuard w d _ => byteOk w d
  | .swqGeta w d a _ | .swqSeta w d a _ | .swqGetm w d a _ => byteOk w d && byteOk w a
  | .swqGeti w d a b | .swqSeti w d a b | .swqAdd w d a b | .swqSub w d a b | .swqMul w d a b | .swqDiv w d a b
  | .swqMod w d a b | .swqCmp w d a b _ | .swqNewl w d a b | .swqNewt w d a b | .swqNext w d a b _
  | .swqTnew w d a b | .swqTcopy w d a b => byteOk w d && byteOk w a && byteOk w b
  | .swqCall w d f a n _ => byteOk w d && byteOk w f && byteOk w a && byteOk w n
  | .swqCallm w d a n _ => byteOk w d && byteOk w a && byteOk w n
  | .swqTcall w d a b c _ => byteOk w d && byteOk w a && byteOk w b && byteOk w c
  | _ => true

/-- Well-formed instructions. -/
def wellFormed (i : Instr) : Bool := oneLiteral (instrSrcs i) && distinctQE (instrSrcs i) && ownChecks i

end Sys2Proof
end

