-- ==== Sys2Proof/Decode.lean ====
section
/-! DEFINITION. Decoding, total on any bytes and refusing by name, and the encoder beside it: compute words (02 R32-R46),
helm custom-0 words (10 R210) and Sweiq bytecodes (10 R213). -/

namespace Sys2Proof

/-- Why a word is no instruction (02 R38-R46, 10 R210, R213). -/
inductive DecodeError where
  | reservedMajor
  | reservedFunction
  | reservedField
  | reservedOperand
  | illFormed
  | notCustom0
  | unknownBytecode
  | shortInput
  deriving DecidableEq, Repr

/-- An instruction or the name of a refusal. -/
abbrev Decoded := Except DecodeError Instr

/-- Passes when b holds. -/
def need (b : Bool) (e : DecodeError) : Except DecodeError Unit := if b then .ok () else .error e

/-- An option as a result. -/
def orErr {α : Type} (o : Option α) (e : DecodeError) : Except DecodeError α :=
  match o with
  | some a => .ok a
  | none => .error e

-- Operand codes (02 R33) ------------------------------------------------------------------------------------------------

/-- The operand code of a source (02 R33). -/
def Src.code : Src → BitVec 6
  | .g i => BitVec.ofNat 6 i.val
  | .w i => BitVec.ofNat 6 (8 + i.val)
  | .q i => BitVec.ofNat 6 (32 + i.val)
  | .e i => BitVec.ofNat 6 (40 + i.val)
  | .lit32 _ => 0x2C
  | .lit64 _ => 0x2D
  | .small v => BitVec.ofNat 6 (48 + v.toNat)

/-- The operand code of a destination (02 R33). -/
def Dst.code (d : Dst) : BitVec 6 := d.asSrc.code

/-- The literal words of a source, low word first (02 R34). -/
def Src.words : Src → List W32
  | .lit32 v => [v]
  | .lit64 v => [fld v 0 32, fld v 32 32]
  | _ => []

/-- The source that a code names, with the words that follow the instruction word (02 R33, R34). -/
def srcOf (c : BitVec 6) (l0 l1 : W32) : Except DecodeError Src :=
  if h : c.toNat < 8 then .ok (.g ⟨c.toNat, h⟩)
  else if h : c.toNat < 32 then .ok (.w ⟨c.toNat - 8, by omega⟩)
  else if h : c.toNat < 40 then .ok (.q ⟨c.toNat - 32, by omega⟩)
  else if h : c.toNat < 44 then .ok (.e ⟨c.toNat - 40, by omega⟩)
  else if c.toNat = 44 then .ok (.lit32 l0)
  else if c.toNat = 45 then .ok (.lit64 (l1 ++ l0))
  else if c.toNat < 48 then .error .reservedOperand
  else .ok (.small (BitVec.ofNat 4 (c.toNat - 48)))

/-- The destination that a code names: 0x00-0x2B only (02 R35). -/
def dstOf (c : BitVec 6) : Except DecodeError Dst :=
  if h : c.toNat < 8 then .ok (.g ⟨c.toNat, h⟩)
  else if h : c.toNat < 32 then .ok (.w ⟨c.toNat - 8, by omega⟩)
  else if h : c.toNat < 40 then .ok (.q ⟨c.toNat - 32, by omega⟩)
  else if h : c.toNat < 44 then .ok (.e ⟨c.toNat - 40, by omega⟩)
  else .error .reservedOperand

-- Small codes (02 R39-R45) ---------------------------------------------------------------------------------------------

/-- Width codes (02 R36). -/
def Width.code : Width → BitVec 2
  | .x64 => 0
  | .x32 => 1
  | .x16 => 2
  | .x8 => 3

/-- The width of a code. -/
def widthOf (c : BitVec 2) : Width :=
  match c.toNat with
  | 0 => .x64
  | 1 => .x32
  | 2 => .x16
  | _ => .x8

/-- Condition numbers (02 R39). -/
def Cond.num : Cond → Nat
  | .eq => 0
  | .ne => 1
  | .ltI => 2
  | .geI => 3
  | .ltN => 4
  | .geN => 5

/-- The condition of a number. -/
def condOf (n : Nat) : Except DecodeError Cond :=
  match n with
  | 0 => .ok .eq
  | 1 => .ok .ne
  | 2 => .ok .ltI
  | 3 => .ok .geI
  | 4 => .ok .ltN
  | 5 => .ok .geN
  | _ => .error .reservedFunction

/-- Size codes (02 R41). -/
def Size.code : Size → BitVec 2
  | .s8 => 0
  | .s16 => 1
  | .s32 => 2
  | .s64 => 3

/-- The size of a code. -/
def sizeOf2 (c : BitVec 2) : Size :=
  match c.toNat with
  | 0 => .s8
  | 1 => .s16
  | 2 => .s32
  | _ => .s64

/-- Atomic operation numbers (02 R41). -/
def AmoOp.num : AmoOp → Nat
  | .add => 0
  | .and => 1
  | .or => 2
  | .xor => 3
  | .minI => 4
  | .maxI => 5
  | .swap => 6
  | .cas => 7

/-- The atomic operation of a number. -/
def amoOf (c : BitVec 3) : AmoOp :=
  match c.toNat with
  | 0 => .add
  | 1 => .and
  | 2 => .or
  | 3 => .xor
  | 4 => .minI
  | 5 => .maxI
  | 6 => .swap
  | _ => .cas

/-- Bank operation numbers (05 R105). -/
def BopOp.num : BopOp → Nat
  | .addI32 => 0
  | .addF32 => 1
  | .addBf16 => 2
  | .maxF32 => 3
  | .maxBf16 => 4
  | .minF32 => 5

/-- The bank operation of a number. -/
def bopOf (n : Nat) : Except DecodeError BopOp :=
  match n with
  | 0 => .ok .addI32
  | 1 => .ok .addF32
  | 2 => .ok .addBf16
  | 3 => .ok .maxF32
  | 4 => .ok .maxBf16
  | 5 => .ok .minF32
  | _ => .error .reservedFunction

/-- Scope numbers (02 R41). -/
def Scope.num : Scope → Nat
  | .core => 1
  | .clus => 2
  | .die => 3
  | .dev => 4
  | .board => 5

/-- Floating type codes (02 R42). -/
def FType.code : FType → BitVec 2
  | .f32 => 0
  | .bf16 => 1
  | .f16 => 2

/-- The floating type of a code. -/
def ftypeOf (c : BitVec 2) : Except DecodeError FType :=
  match c.toNat with
  | 0 => .ok .f32
  | 1 => .ok .bf16
  | 2 => .ok .f16
  | _ => .error .reservedField

/-- Integer type codes (02 R42). -/
def IType.code : IType → BitVec 2
  | .i8 => 0
  | .i16 => 1
  | .i32 => 2
  | .i64 => 3

/-- The integer type of a code. -/
def itypeOf (c : BitVec 2) : IType :=
  match c.toNat with
  | 0 => .i8
  | 1 => .i16
  | 2 => .i32
  | _ => .i64

/-- Compare type numbers (02 R42). -/
def CmpType.num : CmpType → Nat
  | .i8 => 0
  | .i16 => 1
  | .i32 => 2
  | .i64 => 3
  | .f32 => 4
  | .bf16 => 5
  | .f16 => 6

/-- The compare type of a number. -/
def cmpTypeOf (n : Nat) : Except DecodeError CmpType :=
  match n with
  | 0 => .ok .i8
  | 1 => .ok .i16
  | 2 => .ok .i32
  | 3 => .ok .i64
  | 4 => .ok .f32
  | 5 => .ok .bf16
  | 6 => .ok .f16
  | _ => .error .reservedField

/-- Conversion type numbers (02 R42). -/
def CvtType.num : CvtType → Nat
  | .i8 => 0
  | .i16 => 1
  | .i32 => 2
  | .f32 => 3
  | .bf16 => 4
  | .f16 => 5
  | .e4m3 => 6
  | .e5m2 => 7

/-- The conversion type of a number. -/
def cvtTypeOf (c : BitVec 3) : CvtType :=
  match c.toNat with
  | 0 => .i8
  | 1 => .i16
  | 2 => .i32
  | 3 => .f32
  | 4 => .bf16
  | 5 => .f16
  | 6 => .e4m3
  | _ => .e5m2

/-- Reduction type codes (02 R42). -/
def RedType.code : RedType → BitVec 2
  | .f32 => 0
  | .bf16 => 1
  | .i32 => 2

/-- The reduction type of a code. -/
def redTypeOf (c : BitVec 2) : Except DecodeError RedType :=
  match c.toNat with
  | 0 => .ok .f32
  | 1 => .ok .bf16
  | 2 => .ok .i32
  | _ => .error .reservedField

/-- Rounding codes (02 R42). -/
def Rounding.code : Rounding → BitVec 2
  | .rne => 0
  | .rtz => 1
  | .rdn => 2
  | .rup => 3

/-- The rounding of a code. -/
def roundingOf (c : BitVec 2) : Rounding :=
  match c.toNat with
  | 0 => .rne
  | 1 => .rtz
  | 2 => .rdn
  | _ => .rup

/-- Raft operator codes of post.upd (08 R151). -/
def UpdOp.num : UpdOp → Nat
  | .addI32 => 1
  | .addI64 => 2
  | .addF32 => 3
  | .maxI32 => 4
  | .minI32 => 5
  | .or => 6
  | .and => 7
  | .replace => 8
  | .keep => 9
  | .count => 11

/-- The update operator of a code. -/
def updOf (n : Nat) : Except DecodeError UpdOp :=
  match n with
  | 1 => .ok .addI32
  | 2 => .ok .addI64
  | 3 => .ok .addF32
  | 4 => .ok .maxI32
  | 5 => .ok .minI32
  | 6 => .ok .or
  | 7 => .ok .and
  | 8 => .ok .replace
  | 9 => .ok .keep
  | 11 => .ok .count
  | _ => .error .reservedFunction

/-- Special register indexes (01 R15). -/
def SReg.index : SReg → Nat
  | .tid => 0x00
  | .tag => 0x01
  | .inst => 0x02
  | .clk => 0x03
  | .wst => 0x04
  | .wb => 0x05
  | .bh => 0x06
  | .bid => 0x07
  | .bpc => 0x08
  | .ev => 0x09
  | .qst => 0x0A
  | .wsp => 0x0B
  | .fa => 0x0C
  | .fw => 0x0D
  | .fo => 0x0E
  | .fsc => 0x0F
  | .kca => 0x10
  | .kpc => 0x11
  | .ksl => 0x12
  | .kwd => 0x13
  | .lvl => 0x14

/-- The special register of an index; 0x15-0x3F are reserved (01 R15). -/
def sregOf (n : Nat) : Except DecodeError SReg :=
  match n with
  | 0x00 => .ok .tid
  | 0x01 => .ok .tag
  | 0x02 => .ok .inst
  | 0x03 => .ok .clk
  | 0x04 => .ok .wst
  | 0x05 => .ok .wb
  | 0x06 => .ok .bh
  | 0x07 => .ok .bid
  | 0x08 => .ok .bpc
  | 0x09 => .ok .ev
  | 0x0A => .ok .qst
  | 0x0B => .ok .wsp
  | 0x0C => .ok .fa
  | 0x0D => .ok .fw
  | 0x0E => .ok .fo
  | 0x0F => .ok .fsc
  | 0x10 => .ok .kca
  | 0x11 => .ok .kpc
  | 0x12 => .ok .ksl
  | 0x13 => .ok .kwd
  | 0x14 => .ok .lvl
  | _ => .error .reservedOperand

/-- A register number field as an index. -/
def f8 (c : BitVec 3) : Fin 8 := ⟨c.toNat, c.isLt⟩
/-- A vector register field as an index. -/
def f16 (c : BitVec 4) : Fin 16 := ⟨c.toNat, c.isLt⟩
/-- A mask register or port field as an index. -/
def f4 (c : BitVec 2) : Fin 4 := ⟨c.toNat, c.isLt⟩
/-- A helm register field as an index. -/
def f32 (c : BitVec 5) : Fin 32 := ⟨c.toNat, c.isLt⟩

-- Compute words ---------------------------------------------------------------------------------------------------------

/-- Format A with d, a, b and width (02 R36). -/
def dab (w l0 l1 : W32) (k : Dst → Src → Src → Width → Instr) : Decoded := do
  let d ← dstOf (fld w 14 6)
  let a ← srcOf (fld w 8 6) l0 l1
  let b ← srcOf (fld w 2 6) l0 l1
  pure (k d a b (widthOf (fld w 0 2)))

/-- Format A with d, a, width and b zero. -/
def da (w l0 l1 : W32) (k : Dst → Src → Width → Instr) : Decoded := do
  need (fld w 2 6 == 0) .reservedField
  let d ← dstOf (fld w 14 6)
  let a ← srcOf (fld w 8 6) l0 l1
  pure (k d a (widthOf (fld w 0 2)))

/-- Width or mode field 00 (02 R36). -/
def mode0 (w : W32) : Except DecodeError Unit := need (fld w 0 2 == 0) .reservedField

/-- Format A, mode 00, operands d and a, b zero. -/
def daZ (w l0 l1 : W32) (k : Dst → Src → Instr) : Decoded := do
  mode0 w
  need (fld w 2 6 == 0) .reservedField
  let d ← dstOf (fld w 14 6)
  let a ← srcOf (fld w 8 6) l0 l1
  pure (k d a)

/-- Format A, mode 00, operand a, d and b zero. -/
def aZ (w l0 l1 : W32) (k : Src → Instr) : Decoded := do
  mode0 w
  need (fld w 2 6 == 0 && fld w 14 6 == 0) .reservedField
  let a ← srcOf (fld w 8 6) l0 l1
  pure (k a)

/-- Format A, mode 00, operands a and b, d zero. -/
def abZ (w l0 l1 : W32) (k : Src → Src → Instr) : Decoded := do
  mode0 w
  need (fld w 14 6 == 0) .reservedField
  let a ← srcOf (fld w 8 6) l0 l1
  let b ← srcOf (fld w 2 6) l0 l1
  pure (k a b)

/-- Format A, mode 00, operand d, a and b zero. -/
def dZ (w : W32) (k : Dst → Instr) : Decoded := do
  mode0 w
  need (fld w 2 12 == 0) .reservedField
  let d ← dstOf (fld w 14 6)
  pure (k d)

/-- A word with no operands: every bit below fn is zero. -/
def noOps (w : W32) (i : Instr) : Decoded := do
  need (fld w 0 20 == 0) .reservedField
  pure i

/-- Majors 0x01 to 0x07 (02 R39). -/
def decScalar (maj fn : Nat) (w l0 l1 : W32) : Decoded :=
  match maj, fn with
  | 0x01, 0x00 => dab w l0 l1 .add
  | 0x01, 0x01 => dab w l0 l1 .sub
  | 0x01, 0x02 => dab w l0 l1 .minI
  | 0x01, 0x03 => dab w l0 l1 .maxI
  | 0x01, 0x04 => dab w l0 l1 .minN
  | 0x01, 0x05 => dab w l0 l1 .maxN
  | 0x02, 0x00 => dab w l0 l1 .and
  | 0x02, 0x01 => dab w l0 l1 .or
  | 0x02, 0x02 => dab w l0 l1 .xor
  | 0x02, 0x03 => dab w l0 l1 .andn
  | 0x02, 0x08 => dab w l0 l1 .shl
  | 0x02, 0x09 => dab w l0 l1 .shrN
  | 0x02, 0x0A => dab w l0 l1 .shrI
  | 0x02, 0x0B => dab w l0 l1 .rot
  | 0x03, 0x00 => dab w l0 l1 (.cmp .eq)
  | 0x03, 0x01 => dab w l0 l1 (.cmp .ne)
  | 0x03, 0x02 => dab w l0 l1 (.cmp .ltI)
  | 0x03, 0x03 => dab w l0 l1 (.cmp .geI)
  | 0x03, 0x04 => dab w l0 l1 (.cmp .ltN)
  | 0x03, 0x05 => dab w l0 l1 (.cmp .geN)
  | 0x03, 0x08 => dab w l0 l1 .sel
  | 0x04, 0x00 => dab w l0 l1 .mul
  | 0x04, 0x01 => dab w l0 l1 .mulhI
  | 0x04, 0x02 => dab w l0 l1 .mulhN
  | 0x04, 0x04 => dab w l0 l1 .divI
  | 0x04, 0x05 => dab w l0 l1 .divN
  | 0x04, 0x06 => dab w l0 l1 .remI
  | 0x04, 0x07 => dab w l0 l1 .remN
  | 0x05, 0x00 => da w l0 l1 .clz
  | 0x05, 0x01 => da w l0 l1 .ctz
  | 0x05, 0x02 => da w l0 l1 .popc
  | 0x05, 0x04 => dab w l0 l1 .extI
  | 0x05, 0x05 => dab w l0 l1 .extN
  | 0x05, 0x06 => dab w l0 l1 .ins
  | 0x06, 0x00 => dab w l0 l1 (.lea 0)
  | 0x06, 0x01 => dab w l0 l1 (.lea 1)
  | 0x06, 0x02 => dab w l0 l1 (.lea 2)
  | 0x06, 0x03 => dab w l0 l1 (.lea 3)
  | 0x07, 0x00 => da w l0 l1 .mov
  | 0x07, 0x01 => do
    need (fld w 0 8 == 0) .reservedField
    let d ← dstOf (fld w 14 6)
    let r ← sregOf (fld w 8 6).toNat
    pure (.rds d r)
  | 0x07, 0x02 => do
    need (fld w 0 8 == 0) .reservedField
    let r ← sregOf (fld w 14 6).toNat
    let a ← srcOf (fld w 8 6) l0 l1
    pure (.wrs r a)
  | _, _ => .error .reservedFunction

/-- Majors 0x0C and 0x0D (02 R40). -/
def decControl (maj fn : Nat) (w l0 l1 : W32) : Decoded :=
  match maj, fn with
  | 0x0C, 0x00 => aZ w l0 l1 .jmp
  | 0x0C, 0x01 => aZ w l0 l1 .callr
  | 0x0C, 0x02 => noOps w .ret
  | 0x0D, 0x00 => noOps w .endT
  | 0x0D, 0x01 => noOps w .yield
  | 0x0D, 0x02 => aZ w l0 l1 .wait
  | 0x0D, 0x03 => aZ w l0 l1 .alarm
  | _, _ => .error .reservedFunction

/-- Majors 0x0A and 0x0B (02 R40). -/
def decBranch (maj : Nat) (w l0 l1 : W32) : Decoded := do
  let a ← srcOf (fld w 16 6) l0 l1
  if maj = 0x0A then
    let cc ← condOf (fld w 22 4).toNat
    let b ← srcOf (fld w 10 6) l0 l1
    pure (.br cc a b (fld w 0 10))
  else
    need (fld w 10 6 == 0) .reservedField
    match (fld w 22 4).toNat with
    | 0 => pure (.bz a (fld w 0 10))
    | 1 => pure (.bnz a (fld w 0 10))
    | _ => .error .reservedFunction

/-- The offset operand of format M. -/
def offM (w l0 l1 : W32) : Except DecodeError Src := srcOf (fld w 6 6) l0 l1

/-- Majors 0x10 to 0x17 (02 R41). -/
def decMemory (maj : Nat) (w l0 l1 : W32) : Decoded :=
  let sg := f8 (fld w 18 3)
  let rlx := bit w 21
  let sz := sizeOf2 (fld w 24 2)
  match maj with
  | 0x10 => do
    need (!bit w 22) .reservedField
    let d ← dstOf (fld w 12 6)
    let o ← offM w l0 l1
    pure (.ld sz (bit w 23) rlx sg d o (fld w 0 6))
  | 0x11 => do
    need (!bit w 22 && !bit w 23) .reservedField
    let a ← srcOf (fld w 12 6) l0 l1
    let o ← offM w l0 l1
    pure (.st sz rlx sg a o (fld w 0 6))
  | 0x12 => do
    need (fld w 16 2 == 0) .reservedField
    let o ← offM w l0 l1
    pure (.vld sz (f4 (fld w 22 2)) rlx sg (f16 (fld w 12 4)) o (fld w 0 6))
  | 0x13 => do
    need (fld w 16 2 == 0) .reservedField
    let o ← offM w l0 l1
    pure (.vst sz (f4 (fld w 22 2)) rlx sg (f16 (fld w 12 4)) o (fld w 0 6))
  | 0x14 => do
    need (!rlx) .reservedField
    let d ← dstOf (fld w 12 6)
    let o ← offM w l0 l1
    pure (.amo (amoOf (fld w 23 3)) (bit w 22) sg d o (fld w 0 6))
  | 0x15 => do
    need (!rlx && fld w 16 2 == 0 && fld w 2 4 == 0) .reservedField
    let op ← bopOf (fld w 22 4).toNat
    let o ← offM w l0 l1
    pure (.bop op sg (f16 (fld w 12 4)) o (f4 (fld w 0 2)))
  | 0x16 => do
    need (fld w 0 22 == 0) .reservedField
    match (fld w 22 4).toNat with
    | 0 => pure .fenceRx
    | 1 => pure (.fenceSc .core)
    | 2 => pure (.fenceSc .clus)
    | 3 => pure (.fenceSc .die)
    | 4 => pure (.fenceSc .dev)
    | 5 => pure (.fenceSc .board)
    | _ => .error .reservedFunction
  | _ => do
    need (!rlx) .reservedField
    match (fld w 22 4).toNat with
    | 0 =>
      need (fld w 3 3 == 0) .reservedField
      let a ← srcOf (fld w 12 6) l0 l1
      let o ← offM w l0 l1
      pure (.sgnarrow sg a o (fld w 0 3))
    | 1 =>
      need (fld w 1 11 == 0) .reservedField
      let d ← dstOf (fld w 12 6)
      pure (.sgrd sg d (bit w 0))
    | _ => .error .reservedFunction

/-- Floating format V words with the operand fields that are used (02 R42). -/
def decFloat (w : W32) (maj : Nat) : Decoded := do
  need (fld w 0 2 == 0) .reservedField
  let t ← ftypeOf (fld w 20 2)
  let vd := f16 (fld w 16 4)
  let va := f16 (fld w 12 4)
  let vb := f16 (fld w 8 4)
  let vc := f16 (fld w 4 4)
  let m := f4 (fld w 2 2)
  let zc := need (fld w 4 4 == 0) .reservedField
  let zbc := need (fld w 4 8 == 0) .reservedField
  match maj, (fld w 22 4).toNat with
  | 0x18, 0 => do zc; pure (.vadd t vd va vb m)
  | 0x18, 1 => do zc; pure (.vsub t vd va vb m)
  | 0x18, 2 => do zc; pure (.vmul t vd va vb m)
  | 0x18, 3 => pure (.vfma t vd va vb vc m)
  | 0x18, 4 => pure (.vfms t vd va vb vc m)
  | 0x18, 5 => do zc; pure (.vmax t vd va vb m)
  | 0x18, 6 => do zc; pure (.vmin t vd va vb m)
  | 0x18, 7 => do zbc; pure (.vabs t vd va m)
  | 0x18, 8 => do zbc; pure (.vneg t vd va m)
  | 0x19, 0 => do zc; pure (.vdiv t vd va vb m)
  | 0x19, 1 => do zbc; pure (.vrcp t vd va m)
  | 0x19, 2 => do zbc; pure (.vrsq t vd va m)
  | 0x19, 3 => do zbc; pure (.vexp2 t vd va m)
  | 0x19, 4 => do zbc; pure (.vlog2 t vd va m)
  | _, _ => .error .reservedFunction

/-- Major 0x1A (02 R42). -/
def decVInt (w : W32) : Decoded := do
  need (fld w 4 4 == 0 && !bit w 1) .reservedField
  let t := itypeOf (fld w 20 2)
  let vd := f16 (fld w 16 4)
  let va := f16 (fld w 12 4)
  let vb := f16 (fld w 8 4)
  let m := f4 (fld w 2 2)
  let wrap := need (!bit w 0) .reservedField
  match (fld w 22 4).toNat with
  | 0 => pure (.viadd t vd va vb m (bit w 0))
  | 1 => pure (.visub t vd va vb m (bit w 0))
  | 2 => do wrap; pure (.vimul t vd va vb m)
  | 3 => do wrap; pure (.vimax t vd va vb m)
  | 4 => do wrap; pure (.vimin t vd va vb m)
  | 5 => do wrap; pure (.vshl t vd va vb m)
  | 6 => do wrap; pure (.vshrN t vd va vb m)
  | 7 => do wrap; pure (.vshrI t vd va vb m)
  | _ => .error .reservedFunction

/-- Majors 0x1B and 0x1C (02 R42). -/
def decVLogic (w : W32) (maj : Nat) : Decoded := do
  need (fld w 4 4 == 0 && fld w 0 2 == 0) .reservedField
  let vd := f16 (fld w 16 4)
  let va := f16 (fld w 12 4)
  let vb := f16 (fld w 8 4)
  let m := f4 (fld w 2 2)
  match maj with
  | 0x1B => do
    need (fld w 20 2 == 0) .reservedField
    match (fld w 22 4).toNat with
    | 0 => pure (.vand vd va vb m)
    | 1 => pure (.vor vd va vb m)
    | 2 => pure (.vxor vd va vb m)
    | _ => .error .reservedFunction
  | _ =>
    match (fld w 23 3).toNat with
    | 7 => do
      need (!bit w 22) .reservedField
      pure (.vsel (itypeOf (fld w 20 2)) vd va vb m)
    | n => do
      let cc ← condOf n
      let t ← cmpTypeOf (fld w 20 3).toNat
      need (fld w 18 2 == 0) .reservedField
      pure (.vcmp cc t (f4 (fld w 16 2)) va vb m)

/-- Majors 0x1D to 0x1F (02 R42). -/
def decVMove (w l0 l1 : W32) (maj : Nat) : Decoded :=
  let vd := f16 (fld w 16 4)
  let va := f16 (fld w 12 4)
  let vb := f16 (fld w 8 4)
  let vc := f16 (fld w 4 4)
  let m := f4 (fld w 2 2)
  let sz := sizeOf2 (fld w 0 2)
  match maj with
  | 0x1D => do
    need (fld w 4 4 == 0) .reservedField
    pure (.vcvt (cvtTypeOf (fld w 23 3)) (cvtTypeOf (fld w 20 3)) vd va (fld w 8 4) m (roundingOf (fld w 0 2)))
  | 0x1E =>
    match (fld w 20 6).toNat with
    | 0 => do
      need (fld w 4 4 == 0 && fld w 0 2 == 0) .reservedField
      pure (.vpermB vd va vb m)
    | 1 => do
      need (fld w 0 2 == 0) .reservedField
      pure (.vshuf vd va vb vc m)
    | 2 => do
      need (fld w 12 4 == 0 && fld w 4 2 == 0) .reservedField
      let a ← srcOf (fld w 6 6) l0 l1
      pure (.vsplat sz vd a m)
    | _ => .error .reservedFunction
  | _ => do
    need (fld w 4 2 == 0) .reservedField
    match (fld w 2 2).toNat with
    | 0 => do
      need (fld w 16 4 == 0) .reservedField
      let d ← dstOf (fld w 6 6)
      pure (.vextr sz (fld w 20 6) va d)
    | 1 => do
      need (fld w 12 4 == 0) .reservedField
      let a ← srcOf (fld w 6 6) l0 l1
      pure (.vinsr sz (fld w 20 6) vd a)
    | _ => .error .reservedField

/-- Majors 0x20 and 0x21 (02 R42). -/
def decVRed (w l0 l1 : W32) (maj : Nat) : Decoded := do
  need (fld w 0 2 == 0) .reservedField
  let vd := f16 (fld w 16 4)
  let va := f16 (fld w 12 4)
  let m := f4 (fld w 2 2)
  let mk (n : Nat) : Fin 4 := f4 (fld w n 2)
  match maj with
  | 0x20 =>
    match (fld w 22 4).toNat with
    | 3 => do
      need (fld w 20 2 == 0) .reservedField
      pure (.vdot4 vd va (f16 (fld w 8 4)) (f16 (fld w 4 4)) m)
    | n => do
      need (fld w 4 8 == 0) .reservedField
      let t ← redTypeOf (fld w 20 2)
      match n with
      | 0 => pure (.vredAdd t vd va m)
      | 1 => pure (.vredMax t vd va m)
      | 2 => pure (.vredMin t vd va m)
      | _ => .error .reservedFunction
  | _ => do
    need (fld w 18 2 == 0 && fld w 2 2 == 0) .reservedField
    match (fld w 20 6).toNat with
    | 0 => do
      need (fld w 12 4 == 0 && fld w 4 2 == 0) .reservedField
      let a ← srcOf (fld w 6 6) l0 l1
      pure (.mset (mk 16) a)
    | 1 => do
      need (fld w 14 2 == 0 && fld w 10 2 == 0 && fld w 4 4 == 0) .reservedField
      pure (.mand (mk 16) (mk 12) (mk 8))
    | 2 => do
      need (fld w 14 2 == 0 && fld w 10 2 == 0 && fld w 4 4 == 0) .reservedField
      pure (.mor (mk 16) (mk 12) (mk 8))
    | 3 => do
      need (fld w 14 2 == 0 && fld w 4 8 == 0) .reservedField
      pure (.mnot (mk 16) (mk 12))
    | 4 => do
      need (fld w 14 2 == 0 && fld w 4 8 == 0) .reservedField
      pure (.mmov (mk 16) (mk 12))
    | _ => .error .reservedFunction

/-- Majors 0x24 to 0x27 (02 R43). -/
def decWeir (maj : Nat) (w l0 l1 : W32) : Decoded :=
  let top : BitVec 6 := fld w 20 6
  match maj with
  | 0x24 => do
    mode0 w
    need (top == 0) .reservedFunction
    need (fld w 17 3 == 0) .reservedField
    let a ← srcOf (fld w 8 6) l0 l1
    let b ← srcOf (fld w 2 6) l0 l1
    pure (.wld (f8 (fld w 14 3)) a b)
  | 0x25 => do
    match (fld w 0 2).toNat with
    | 0 => do
      let n ← srcOf (fld w 14 6) l0 l1
      let a ← srcOf (fld w 8 6) l0 l1
      let b ← srcOf (fld w 2 6) l0 l1
      pure (.wrun top n a b)
    | 1 => do
      need (fld w 14 6 == 0 && fld w 2 6 == 0) .reservedField
      let a ← srcOf (fld w 8 6) l0 l1
      pure (.wrunO top a)
    | 2 => do
      need (fld w 14 6 == 0) .reservedField
      let a ← srcOf (fld w 8 6) l0 l1
      let b ← srcOf (fld w 2 6) l0 l1
      pure (.wrunC top a b)
    | _ => .error .reservedField
  | 0x26 => do
    need (fld w 2 6 == 0) .reservedField
    let d ← dstOf (fld w 14 6)
    match (fld w 0 2).toNat with
    | 0 => do
      need (fld w 8 6 == 0) .reservedField
      pure (.waccS top d)
    | 1 => do
      let a ← srcOf (fld w 8 6) l0 l1
      pure (.waccU top d a)
    | 2 => do
      let a ← srcOf (fld w 8 6) l0 l1
      pure (.waccD top d a)
    | _ => do
      let a ← srcOf (fld w 8 6) l0 l1
      pure (.waccP top d a)
  | _ => do
    need (top == 0) .reservedFunction
    match (fld w 0 2).toNat with
    | 0 => do
      need (fld w 2 6 == 0) .reservedField
      let d ← dstOf (fld w 14 6)
      let a ← srcOf (fld w 8 6) l0 l1
      pure (.wstat d a)
    | 1 => do
      need (fld w 2 18 == 0) .reservedField
      pure .wclr
    | _ => .error .reservedField

/-- Majors 0x29 and 0x2A, format T (02 R44, 08 R165). -/
def decPost (maj : Nat) (w l0 l1 : W32) : Decoded := do
  need (fld w 0 4 == 0) .reservedField
  let len : BitVec 3 := fld w 16 3
  let op := (fld w 19 4).toNat
  let kind := (fld w 23 3).toNat
  let onlyA : Except DecodeError Src := do
    need (fld w 4 6 == 0) .reservedField
    srcOf (fld w 10 6) l0 l1
  let onlyB : Except DecodeError Src := do
    need (fld w 10 6 == 0) .reservedField
    srcOf (fld w 4 6) l0 l1
  match maj, kind with
  | 0x29, 2 => do
    need (len == 0) .reservedField
    let b ← onlyB
    match op with
    | 0 => pure (.postCntSolo b)
    | 1 => pure (.postCnt b)
    | _ => .error .reservedFunction
  | 0x29, 3 => do
    need (len == 0) .reservedField
    let a ← onlyA
    match op with
    | 0 => pure (.postWakeSolo a)
    | 6 => pure (.postWake a)
    | _ => .error .reservedFunction
  | 0x29, 5 => do
    let u ← updOf op
    let b ← onlyB
    pure (.postUpd u len b)
  | 0x2A, 0 => do
    need (op == 0) .reservedFunction
    let a ← srcOf (fld w 10 6) l0 l1
    let b ← srcOf (fld w 4 6) l0 l1
    pure (.msg len a b)
  | _, _ => .error .reservedFunction

/-- The port field of push, pop and poll: the code of e0-e3 (09 R175). -/
def portOf (c : BitVec 6) : Except DecodeError (Fin 4) := do
  need (fld c 2 4 == 0xA) .reservedOperand
  pure (f4 (fld c 0 2))

/-- Majors 0x28 and 0x2B to 0x37 (02 R44, R45, 09 R175). -/
def decSystem (maj fn : Nat) (w l0 l1 : W32) : Decoded :=
  match maj, fn with
  | 0x28, 0 => abZ w l0 l1 .spawn
  | 0x2B, 0 => daZ w l0 l1 .join
  | 0x2B, 1 => daZ w l0 l1 .leave
  | 0x2B, 2 => aZ w l0 l1 .bar
  | 0x2C, 0 => abZ w l0 l1 .tow
  | 0x2C, 1 => daZ w l0 l1 .moor
  | 0x2C, 2 => noOps w .castoff
  | 0x2D, 0 => abZ w l0 l1 .qcfg
  | 0x2D, 1 => aZ w l0 l1 .qeos
  | 0x2E, 0 => do
    mode0 w
    need (fld w 2 6 == 0) .reservedField
    let p ← portOf (fld w 14 6)
    let a ← srcOf (fld w 8 6) l0 l1
    pure (.push p a)
  | 0x2E, 1 => do
    mode0 w
    need (fld w 2 6 == 0) .reservedField
    let d ← dstOf (fld w 14 6)
    let p ← portOf (fld w 8 6)
    pure (.pop d p)
  | 0x2E, 2 => do
    mode0 w
    need (fld w 2 6 == 0) .reservedField
    let d ← dstOf (fld w 14 6)
    let p ← portOf (fld w 8 6)
    pure (.poll d p)
  | 0x2F, 0 => daZ w l0 l1 .alloc
  | 0x2F, 1 => abZ w l0 l1 .free
  | 0x30, 0 => daZ w l0 l1 .bellh
  | 0x30, 1 => noOps w .bret
  | 0x31, 0 => abZ w l0 l1 .sys
  | 0x31, 1 => aZ w l0 l1 .trap
  | 0x31, 2 => do
    mode0 w
    let d ← dstOf (fld w 14 6)
    let a ← srcOf (fld w 8 6) l0 l1
    let b ← srcOf (fld w 2 6) l0 l1
    pure (.rdcap d a b)
  | 0x32, 0 => dZ w .kpark
  | 0x32, 1 => dZ w .kresume
  | 0x32, 2 => dZ w .kkill
  | 0x33, 0 => dZ w .ksave
  | 0x33, 1 => dZ w .kload
  | 0x34, 0 => do
    mode0 w
    need (fld w 18 2 == 0) .reservedField
    let a ← srcOf (fld w 8 6) l0 l1
    let b ← srcOf (fld w 2 6) l0 l1
    if bit w 17 then pure (.sgsetK (f8 (fld w 14 3)) a b) else pure (.sgset (f8 (fld w 14 3)) a b)
  | 0x35, 0 => abZ w l0 l1 .ctuinv
  | 0x36, 0 => do
    mode0 w
    need (fld w 2 6 == 0 && !bit w 19) .reservedField
    let a ← srcOf (fld w 8 6) l0 l1
    pure (.kret (f32 (fld w 14 5)) a)
  | 0x36, 1 => noOps w .kfence
  | 0x37, 0 => aZ w l0 l1 .kpost
  | 0x37, 1 => abZ w l0 l1 .kcfg
  | _, _ => .error .reservedFunction

/-- Major codes that R38 reserves. -/
def reservedMajor (maj : Nat) : Bool :=
  maj == 0 || maj == 0x0E || maj == 0x0F || maj == 0x22 || maj == 0x23 || 0x38 ≤ maj

/-- The fields of a compute word, before the checks of WellFormed (02 R38-R45). l0 and l1 are the two words that follow. -/
def decodeFields (w l0 l1 : W32) : Decoded :=
  let maj := (fld w 26 6).toNat
  let fn := (fld w 20 6).toNat
  if reservedMajor maj then .error .reservedMajor
  else if maj ≤ 0x07 then decScalar maj fn w l0 l1
  else if maj = 0x08 then .ok (.b (fld w 0 26))
  else if maj = 0x09 then .ok (.call (fld w 0 26))
  else if maj ≤ 0x0B then decBranch maj w l0 l1
  else if maj ≤ 0x0D then decControl maj fn w l0 l1
  else if maj ≤ 0x17 then decMemory maj w l0 l1
  else if maj ≤ 0x19 then decFloat w maj
  else if maj = 0x1A then decVInt w
  else if maj ≤ 0x1C then decVLogic w maj
  else if maj ≤ 0x1F then decVMove w l0 l1 maj
  else if maj ≤ 0x21 then decVRed w l0 l1 maj
  else if maj ≤ 0x27 then decWeir maj w l0 l1
  else if maj = 0x29 then decPost maj w l0 l1
  else if maj = 0x2A then decPost maj w l0 l1
  else decSystem maj fn w l0 l1

/-- A result that is also well formed. -/
def checked (r : Decoded) : Decoded :=
  match r with
  | .ok i => if wellFormed i then .ok i else .error .illFormed
  | .error e => .error e

/-- The instruction that a compute word and the two words after it hold (02 R46). -/
def decode32 (w l0 l1 : W32) : Decoded := checked (decodeFields w l0 l1)

/-- The literal words of an instruction (02 R34). -/
def literals (i : Instr) : List W32 := (instrSrcs i).flatMap Src.words

/-- The length of a compute instruction in bytes: 4, 8 or 12 (02 R32). -/
def lengthOf (i : Instr) : Nat := 4 + 4 * ((instrSrcs i).map Src.litWords).sum

/-- How many literal words follow an instruction word. -/
def litCount (w : W32) : Nat :=
  match decode32 w 0 0 with
  | .ok i => ((instrSrcs i).map Src.litWords).sum
  | .error _ => 0

-- Helm custom words (10 R210) ------------------------------------------------------------------------------------------

/-- A custom-0 word: R-type, funct7 zero. Any rs1 and rs2 of swq.run decode; its meaning refuses equal or zero numbers. -/
def decodeHelm (w : W32) : Decoded := do
  need (fld w 0 7 == 0x0B && fld w 25 7 == 0) .notCustom0
  let rd := f32 (fld w 7 5)
  let rs1 := f32 (fld w 15 5)
  let rs2 := f32 (fld w 20 5)
  let x0 (r : Fin 32) : Except DecodeError Unit := need (r == 0) .reservedField
  match (fld w 12 3).toNat with
  | 0 => pure (.swqRun rd rs1 rs2)
  | 1 => do x0 rd; pure (.swqIcw rs1 rs2)
  | 2 => do x0 rd; x0 rs2; pure (.swqIcinv rs1)
  | 3 => do x0 rs2; pure (.swqGen rd rs1)
  | 4 => do x0 rs2; pure (.swqPost rd rs1)
  | 5 => pure (.swqHold rd rs1 rs2)
  | _ => .error .reservedFunction

-- Bytecodes (10 R213) --------------------------------------------------------------------------------------------------

/-- A slot, count or immediate operand: one byte, or two after WIDE. -/
def opd (wide : Bool) (l : List Byte) : Except DecodeError (Half × List Byte) :=
  match wide, l with
  | false, x :: l => .ok (x.setWidth 16, l)
  | true, x :: y :: l => .ok (y ++ x, l)
  | _, _ => .error .shortInput

/-- A signed immediate operand (LDI). -/
def immOpd (wide : Bool) (l : List Byte) : Except DecodeError (Half × List Byte) :=
  match wide, l with
  | false, x :: l => .ok (x.signExtend 16, l)
  | true, x :: y :: l => .ok (y ++ x, l)
  | _, _ => .error .shortInput

/-- A two-byte operand: site index or jump offset. -/
def opd2 (l : List Byte) : Except DecodeError (Half × List Byte) :=
  match l with
  | x :: y :: l => .ok (y ++ x, l)
  | _ => .error .shortInput

/-- One operand. -/
def bc1 (wide : Bool) (l : List Byte) (k : Half → Instr) : Decoded := do
  let (a, _) ← opd wide l
  pure (k a)

/-- Two operands. -/
def bc2 (wide : Bool) (l : List Byte) (k : Half → Half → Instr) : Decoded := do
  let (a, l) ← opd wide l
  let (b, _) ← opd wide l
  pure (k a b)

/-- Three operands. -/
def bc3 (wide : Bool) (l : List Byte) (k : Half → Half → Half → Instr) : Decoded := do
  let (a, l) ← opd wide l
  let (b, l) ← opd wide l
  let (c, _) ← opd wide l
  pure (k a b c)

/-- One operand and a two-byte one. -/
def bc1s (wide : Bool) (l : List Byte) (k : Half → Half → Instr) : Decoded := do
  let (a, l) ← opd wide l
  let (t, _) ← opd2 l
  pure (k a t)

/-- Two operands and a two-byte one. -/
def bc2s (wide : Bool) (l : List Byte) (k : Half → Half → Half → Instr) : Decoded := do
  let (a, l) ← opd wide l
  let (b, l) ← opd wide l
  let (t, _) ← opd2 l
  pure (k a b t)

/-- Three operands and a two-byte one. -/
def bc3s (wide : Bool) (l : List Byte) (k : Half → Half → Half → Half → Instr) : Decoded := do
  let (a, l) ← opd wide l
  let (b, l) ← opd wide l
  let (c, l) ← opd wide l
  let (t, _) ← opd2 l
  pure (k a b c t)

/-- Four operands and a two-byte one. -/
def bc4s (wide : Bool) (l : List Byte) (k : Half → Half → Half → Half → Half → Instr) : Decoded := do
  let (a, l) ← opd wide l
  let (b, l) ← opd wide l
  let (c, l) ← opd wide l
  let (d, l) ← opd wide l
  let (t, _) ← opd2 l
  pure (k a b c d t)

/-- The bytecode of an opcode, with the bytes after it (10 R213). -/
def decodeOp (w : Bool) (op : Nat) (l : List Byte) : Decoded :=
  match op with
  | 0x00 => .ok (.swqNop w)
  | 0x01 => bc2 w l (.swqMov w)
  | 0x02 => bc2 w l (.swqLdc w)
  | 0x03 => do
    let (d, l) ← opd w l
    let (i, _) ← immOpd w l
    pure (.swqLdi w d i)
  | 0x04 => bc1 w l (.swqLdn w)
  | 0x05 => bc1s w l (.swqLdg w)
  | 0x06 => bc1s w l (.swqStg w)
  | 0x07 => bc2s w l (.swqGeta w)
  | 0x08 => bc2s w l (.swqSeta w)
  | 0x09 => bc3 w l (.swqGeti w)
  | 0x0A => bc3 w l (.swqSeti w)
  | 0x0B => bc2s w l (.swqGetm w)
  | 0x0C => bc3 w l (.swqAdd w)
  | 0x0D => bc3 w l (.swqSub w)
  | 0x0E => bc3 w l (.swqMul w)
  | 0x0F => bc3 w l (.swqDiv w)
  | 0x10 => bc3 w l (.swqMod w)
  | 0x11 => bc2 w l (.swqNeg w)
  | 0x12 => do
    let (d, l) ← opd w l
    let (a, l) ← opd w l
    let (b, l) ← opd w l
    match l with
    | cc :: _ => pure (.swqCmp w d a b cc)
    | [] => .error .shortInput
  | 0x13 => bc2 w l (.swqNot w)
  | 0x14 => do
    let (o, _) ← opd2 l
    pure (.swqJmp w o)
  | 0x15 => bc1s w l (.swqJt w)
  | 0x16 => bc1s w l (.swqJf w)
  | 0x17 => bc4s w l (.swqCall w)
  | 0x18 => bc3s w l (.swqCallm w)
  | 0x19 => bc1 w l (.swqRet w)
  | 0x1A => bc1 w l (.swqRaise w)
  | 0x1B => bc2 w l (.swqNewo w)
  | 0x1C => bc3 w l (.swqNewl w)
  | 0x1D => bc3 w l (.swqNewt w)
  | 0x1E => bc2 w l (.swqLen w)
  | 0x1F => bc2 w l (.swqIter w)
  | 0x20 => bc3s w l (.swqNext w)
  | 0x21 => bc3 w l (.swqTnew w)
  | 0x22 => bc4s w l (.swqTcall w)
  | 0x23 => bc3 w l (.swqTcopy w)
  | 0x24 => bc1 w l (.swqTwait w)
  | 0x25 => bc1 w l (.swqDrop w)
  | 0x26 => bc1s w l (.swqGuard w)
  | 0x27 => bc1 w l (.swqGcstep w)
  | 0x28 => .ok (.swqExit w)
  | _ => .error .unknownBytecode

/-- The bytecode at the head of a byte list; 0xFF is the WIDE prefix, and WIDE before WIDE is unknown (10 R213). -/
def decodeBytes (l : List Byte) : Decoded :=
  match l with
  | [] => .error .shortInput
  | op :: l =>
    if op.toNat = 0xFF then
      match l with
      | [] => .error .shortInput
      | op2 :: l => checked (decodeOp true op2.toNat l)
    else checked (decodeOp false op.toNat l)

-- The encoder ------------------------------------------------------------------------------------------------------------

/-- Format A (02 R36). -/
def encA (maj fn : Nat) (d a b : BitVec 6) (w : BitVec 2) : W32 :=
  BitVec.ofNat 6 maj ++ BitVec.ofNat 6 fn ++ d ++ a ++ b ++ w

/-- Format B (02 R36). -/
def encB (maj cc : Nat) (a b : BitVec 6) (off : BitVec 10) : W32 :=
  BitVec.ofNat 6 maj ++ BitVec.ofNat 4 cc ++ a ++ b ++ off

/-- Format J (02 R36). -/
def encJ (maj : Nat) (off : BitVec 26) : W32 := BitVec.ofNat 6 maj ++ off

/-- Format M (02 R36). -/
def encM (maj : Nat) (fn : BitVec 4) (rlx : Bool) (sg : Fin 8) (data off disp : BitVec 6) : W32 :=
  BitVec.ofNat 6 maj ++ fn ++ BitVec.ofBool rlx ++ BitVec.ofNat 3 sg.val ++ data ++ off ++ disp

/-- Format V (02 R36). -/
def encV (maj : Nat) (fn : BitVec 6) (vd va vb vc : BitVec 4) (m : Fin 4) (md : BitVec 2) : W32 :=
  BitVec.ofNat 6 maj ++ fn ++ vd ++ va ++ vb ++ vc ++ BitVec.ofNat 2 m.val ++ md

/-- Format VS (02 R36). -/
def encVS (maj : Nat) (fn : BitVec 6) (vd va : BitVec 4) (s : BitVec 6) (m : Fin 4) (md : BitVec 2) : W32 :=
  BitVec.ofNat 6 maj ++ fn ++ vd ++ va ++ s ++ (0 : BitVec 2) ++ BitVec.ofNat 2 m.val ++ md

/-- Format T (02 R36). -/
def encT (maj kind op : Nat) (len : BitVec 3) (a b : BitVec 6) : W32 :=
  BitVec.ofNat 6 maj ++ BitVec.ofNat 3 kind ++ BitVec.ofNat 4 op ++ len ++ a ++ b ++ (0 : BitVec 4)

/-- R-type of the custom-0 opcode (10 R210). -/
def encR (funct3 : Nat) (rd rs1 rs2 : Fin 32) : W32 :=
  (0 : BitVec 7) ++ BitVec.ofNat 5 rs2.val ++ BitVec.ofNat 5 rs1.val ++ BitVec.ofNat 3 funct3 ++ BitVec.ofNat 5 rd.val
    ++ (0x0B : BitVec 7)

/-- A vector register number as a field. -/
def v4 (i : Fin 16) : BitVec 4 := BitVec.ofNat 4 i.val

/-- fn of a floating or integer vector word: operation then type. -/
def fnT (op : Nat) (t : BitVec 2) : BitVec 6 := BitVec.ofNat 4 op ++ t

/-- fn of a memory word: size, then two bits. -/
def fnZ (z : Size) (hi lo : Bool) : BitVec 4 := z.code ++ BitVec.ofBool hi ++ BitVec.ofBool lo

/-- The instruction word of a compute or helm instruction (02 R36-R45, 10 R210); zero for bytecodes and events. -/
def headWord : Instr → W32
  | .add d a b w => encA 0x01 0x00 d.code a.code b.code w.code
  | .sub d a b w => encA 0x01 0x01 d.code a.code b.code w.code
  | .minI d a b w => encA 0x01 0x02 d.code a.code b.code w.code
  | .maxI d a b w => encA 0x01 0x03 d.code a.code b.code w.code
  | .minN d a b w => encA 0x01 0x04 d.code a.code b.code w.code
  | .maxN d a b w => encA 0x01 0x05 d.code a.code b.code w.code
  | .and d a b w => encA 0x02 0x00 d.code a.code b.code w.code
  | .or d a b w => encA 0x02 0x01 d.code a.code b.code w.code
  | .xor d a b w => encA 0x02 0x02 d.code a.code b.code w.code
  | .andn d a b w => encA 0x02 0x03 d.code a.code b.code w.code
  | .shl d a b w => encA 0x02 0x08 d.code a.code b.code w.code
  | .shrN d a b w => encA 0x02 0x09 d.code a.code b.code w.code
  | .shrI d a b w => encA 0x02 0x0A d.code a.code b.code w.code
  | .rot d a b w => encA 0x02 0x0B d.code a.code b.code w.code
  | .cmp cc d a b w => encA 0x03 cc.num d.code a.code b.code w.code
  | .sel d a b w => encA 0x03 0x08 d.code a.code b.code w.code
  | .mul d a b w => encA 0x04 0x00 d.code a.code b.code w.code
  | .mulhI d a b w => encA 0x04 0x01 d.code a.code b.code w.code
  | .mulhN d a b w => encA 0x04 0x02 d.code a.code b.code w.code
  | .divI d a b w => encA 0x04 0x04 d.code a.code b.code w.code
  | .divN d a b w => encA 0x04 0x05 d.code a.code b.code w.code
  | .remI d a b w => encA 0x04 0x06 d.code a.code b.code w.code
  | .remN d a b w => encA 0x04 0x07 d.code a.code b.code w.code
  | .clz d a w => encA 0x05 0x00 d.code a.code 0 w.code
  | .ctz d a w => encA 0x05 0x01 d.code a.code 0 w.code
  | .popc d a w => encA 0x05 0x02 d.code a.code 0 w.code
  | .extI d a b w => encA 0x05 0x04 d.code a.code b.code w.code
  | .extN d a b w => encA 0x05 0x05 d.code a.code b.code w.code
  | .ins d a b w => encA 0x05 0x06 d.code a.code b.code w.code
  | .lea sc d a b w => encA 0x06 sc.toNat d.code a.code b.code w.code
  | .mov d a w => encA 0x07 0x00 d.code a.code 0 w.code
  | .rds d r => encA 0x07 0x01 d.code (BitVec.ofNat 6 r.index) 0 0
  | .wrs r a => encA 0x07 0x02 (BitVec.ofNat 6 r.index) a.code 0 0
  | .b off => encJ 0x08 off
  | .call off => encJ 0x09 off
  | .br cc a b off => encB 0x0A cc.num a.code b.code off
  | .bz a off => encB 0x0B 0 a.code 0 off
  | .bnz a off => encB 0x0B 1 a.code 0 off
  | .jmp a => encA 0x0C 0x00 0 a.code 0 0
  | .callr a => encA 0x0C 0x01 0 a.code 0 0
  | .ret => encA 0x0C 0x02 0 0 0 0
  | .endT => encA 0x0D 0x00 0 0 0 0
  | .yield => encA 0x0D 0x01 0 0 0 0
  | .wait a => encA 0x0D 0x02 0 a.code 0 0
  | .alarm a => encA 0x0D 0x03 0 a.code 0 0
  | .ld z s r g d o p => encM 0x10 (fnZ z s false) r g d.code o.code p
  | .st z r g a o p => encM 0x11 (fnZ z false false) r g a.code o.code p
  | .vld z m r g v o p => encM 0x12 (z.code ++ BitVec.ofNat 2 m.val) r g ((v4 v).setWidth 6) o.code p
  | .vst z m r g v o p => encM 0x13 (z.code ++ BitVec.ofNat 2 m.val) r g ((v4 v).setWidth 6) o.code p
  | .amo op z g d o p => encM 0x14 (BitVec.ofNat 3 op.num ++ BitVec.ofBool z) false g d.code o.code p
  | .bop op g v o m => encM 0x15 (BitVec.ofNat 4 op.num) false g ((v4 v).setWidth 6) o.code
      (BitVec.ofNat 6 m.val)
  | .fenceRx => encM 0x16 0 false 0 0 0 0
  | .fenceSc sc => encM 0x16 (BitVec.ofNat 4 sc.num) false 0 0 0 0
  | .sgnarrow g a o k => encM 0x17 0 false g a.code o.code ((k).setWidth 6)
  | .sgrd g d k => encM 0x17 1 false g d.code 0 ((BitVec.ofBool k).setWidth 6)
  | .vadd t d a b m => encV 0x18 (fnT 0 t.code) (v4 d) (v4 a) (v4 b) 0 m 0
  | .vsub t d a b m => encV 0x18 (fnT 1 t.code) (v4 d) (v4 a) (v4 b) 0 m 0
  | .vmul t d a b m => encV 0x18 (fnT 2 t.code) (v4 d) (v4 a) (v4 b) 0 m 0
  | .vfma t d a b c m => encV 0x18 (fnT 3 t.code) (v4 d) (v4 a) (v4 b) (v4 c) m 0
  | .vfms t d a b c m => encV 0x18 (fnT 4 t.code) (v4 d) (v4 a) (v4 b) (v4 c) m 0
  | .vmax t d a b m => encV 0x18 (fnT 5 t.code) (v4 d) (v4 a) (v4 b) 0 m 0
  | .vmin t d a b m => encV 0x18 (fnT 6 t.code) (v4 d) (v4 a) (v4 b) 0 m 0
  | .vabs t d a m => encV 0x18 (fnT 7 t.code) (v4 d) (v4 a) 0 0 m 0
  | .vneg t d a m => encV 0x18 (fnT 8 t.code) (v4 d) (v4 a) 0 0 m 0
  | .vdiv t d a b m => encV 0x19 (fnT 0 t.code) (v4 d) (v4 a) (v4 b) 0 m 0
  | .vrcp t d a m => encV 0x19 (fnT 1 t.code) (v4 d) (v4 a) 0 0 m 0
  | .vrsq t d a m => encV 0x19 (fnT 2 t.code) (v4 d) (v4 a) 0 0 m 0
  | .vexp2 t d a m => encV 0x19 (fnT 3 t.code) (v4 d) (v4 a) 0 0 m 0
  | .vlog2 t d a m => encV 0x19 (fnT 4 t.code) (v4 d) (v4 a) 0 0 m 0
  | .viadd t d a b m s => encV 0x1A (fnT 0 t.code) (v4 d) (v4 a) (v4 b) 0 m ((BitVec.ofBool s).setWidth 2)
  | .visub t d a b m s => encV 0x1A (fnT 1 t.code) (v4 d) (v4 a) (v4 b) 0 m ((BitVec.ofBool s).setWidth 2)
  | .vimul t d a b m => encV 0x1A (fnT 2 t.code) (v4 d) (v4 a) (v4 b) 0 m 0
  | .vimax t d a b m => encV 0x1A (fnT 3 t.code) (v4 d) (v4 a) (v4 b) 0 m 0
  | .vimin t d a b m => encV 0x1A (fnT 4 t.code) (v4 d) (v4 a) (v4 b) 0 m 0
  | .vshl t d a b m => encV 0x1A (fnT 5 t.code) (v4 d) (v4 a) (v4 b) 0 m 0
  | .vshrN t d a b m => encV 0x1A (fnT 6 t.code) (v4 d) (v4 a) (v4 b) 0 m 0
  | .vshrI t d a b m => encV 0x1A (fnT 7 t.code) (v4 d) (v4 a) (v4 b) 0 m 0
  | .vand d a b m => encV 0x1B (fnT 0 0) (v4 d) (v4 a) (v4 b) 0 m 0
  | .vor d a b m => encV 0x1B (fnT 1 0) (v4 d) (v4 a) (v4 b) 0 m 0
  | .vxor d a b m => encV 0x1B (fnT 2 0) (v4 d) (v4 a) (v4 b) 0 m 0
  | .vcmp cc t k a b m => encV 0x1C (BitVec.ofNat 3 cc.num ++ BitVec.ofNat 3 t.num)
      (BitVec.ofNat 4 k.val) (v4 a) (v4 b) 0 m 0
  | .vsel t d a b m => encV 0x1C (fnT 14 t.code) (v4 d) (v4 a) (v4 b) 0 m 0
  | .vcvt y x d a p m r => encV 0x1D (BitVec.ofNat 3 y.num ++ BitVec.ofNat 3 x.num) (v4 d) (v4 a) p 0 m r.code
  | .vpermB d a b m => encV 0x1E 0 (v4 d) (v4 a) (v4 b) 0 m 0
  | .vshuf d a b c m => encV 0x1E 1 (v4 d) (v4 a) (v4 b) (v4 c) m 0
  | .vsplat z d a m => encVS 0x1E 2 (v4 d) 0 a.code m z.code
  | .vextr z l a d => encVS 0x1F l 0 (v4 a) d.code 0 z.code
  | .vinsr z l d a => encVS 0x1F l (v4 d) 0 a.code 1 z.code
  | .vredAdd t d a m => encV 0x20 (fnT 0 t.code) (v4 d) (v4 a) 0 0 m 0
  | .vredMax t d a m => encV 0x20 (fnT 1 t.code) (v4 d) (v4 a) 0 0 m 0
  | .vredMin t d a m => encV 0x20 (fnT 2 t.code) (v4 d) (v4 a) 0 0 m 0
  | .vdot4 d a b c m => encV 0x20 (fnT 3 0) (v4 d) (v4 a) (v4 b) (v4 c) m 0
  | .mset d a => encVS 0x21 0 (BitVec.ofNat 4 d.val) 0 a.code 0 0
  | .mand d a b => encV 0x21 1 (BitVec.ofNat 4 d.val) (BitVec.ofNat 4 a.val)
      (BitVec.ofNat 4 b.val) 0 0 0
  | .mor d a b => encV 0x21 2 (BitVec.ofNat 4 d.val) (BitVec.ofNat 4 a.val)
      (BitVec.ofNat 4 b.val) 0 0 0
  | .mnot d a => encV 0x21 3 (BitVec.ofNat 4 d.val) (BitVec.ofNat 4 a.val) 0 0 0 0
  | .mmov d a => encV 0x21 4 (BitVec.ofNat 4 d.val) (BitVec.ofNat 4 a.val) 0 0 0 0
  | .wld g a b => encA 0x24 0 (BitVec.ofNat 6 g.val) a.code b.code 0
  | .wrun k n a b => encA 0x25 k.toNat n.code a.code b.code 0
  | .wrunO k a => encA 0x25 k.toNat 0 a.code 0 1
  | .wrunC k a b => encA 0x25 k.toNat 0 a.code b.code 2
  | .waccS c d => encA 0x26 c.toNat d.code 0 0 0
  | .waccU c d a => encA 0x26 c.toNat d.code a.code 0 1
  | .waccD c d a => encA 0x26 c.toNat d.code a.code 0 2
  | .waccP c d a => encA 0x26 c.toNat d.code a.code 0 3
  | .wstat d a => encA 0x27 0 d.code a.code 0 0
  | .wclr => encA 0x27 0 0 0 0 1
  | .spawn a b => encA 0x28 0 0 a.code b.code 0
  | .postCnt b => encT 0x29 2 1 0 0 b.code
  | .postCntSolo b => encT 0x29 2 0 0 0 b.code
  | .postWake a => encT 0x29 3 6 0 a.code 0
  | .postWakeSolo a => encT 0x29 3 0 0 a.code 0
  | .postUpd op n b => encT 0x29 5 op.num n 0 b.code
  | .msg n a b => encT 0x2A 0 0 n a.code b.code
  | .join d a => encA 0x2B 0 d.code a.code 0 0
  | .leave d a => encA 0x2B 1 d.code a.code 0 0
  | .bar a => encA 0x2B 2 0 a.code 0 0
  | .tow a b => encA 0x2C 0 0 a.code b.code 0
  | .moor d a => encA 0x2C 1 d.code a.code 0 0
  | .castoff => encA 0x2C 2 0 0 0 0
  | .qcfg a b => encA 0x2D 0 0 a.code b.code 0
  | .qeos a => encA 0x2D 1 0 a.code 0 0
  | .push p a => encA 0x2E 0 (Src.e p).code a.code 0 0
  | .pop d p => encA 0x2E 1 d.code (Src.e p).code 0 0
  | .poll d p => encA 0x2E 2 d.code (Src.e p).code 0 0
  | .alloc d a => encA 0x2F 0 d.code a.code 0 0
  | .free a b => encA 0x2F 1 0 a.code b.code 0
  | .bellh d a => encA 0x30 0 d.code a.code 0 0
  | .bret => encA 0x30 1 0 0 0 0
  | .sys a b => encA 0x31 0 0 a.code b.code 0
  | .trap a => encA 0x31 1 0 a.code 0 0
  | .rdcap d a b => encA 0x31 2 d.code a.code b.code 0
  | .kpark d => encA 0x32 0 d.code 0 0 0
  | .kresume d => encA 0x32 1 d.code 0 0 0
  | .kkill d => encA 0x32 2 d.code 0 0 0
  | .ksave d => encA 0x33 0 d.code 0 0 0
  | .kload d => encA 0x33 1 d.code 0 0 0
  | .sgset g a b => encA 0x34 0 (BitVec.ofNat 6 g.val) a.code b.code 0
  | .sgsetK g a b => encA 0x34 0 (BitVec.ofNat 6 (8 + g.val)) a.code b.code 0
  | .ctuinv a b => encA 0x35 0 0 a.code b.code 0
  | .kret r a => encA 0x36 0 (BitVec.ofNat 6 r.val) a.code 0 0
  | .kfence => encA 0x36 1 0 0 0 0
  | .kpost a => encA 0x37 0 0 a.code 0 0
  | .kcfg a b => encA 0x37 1 0 a.code b.code 0
  | .swqRun d a b => encR 0 d a b
  | .swqIcw a b => encR 1 0 a b
  | .swqIcinv a => encR 2 0 a 0
  | .swqGen d a => encR 3 d a 0
  | .swqPost d a => encR 4 d a 0
  | .swqHold d a b => encR 5 d a b
  | _ => 0

/-- The words of a compute instruction: instruction word, then its literal words (02 R32). -/
def encodeWords (i : Instr) : List W32 := headWord i :: literals i

/-- A slot, count or immediate operand as bytes. -/
def opdBytes (wide : Bool) (x : Half) : List Byte := if wide then [fld x 0 8, fld x 8 8] else [fld x 0 8]

/-- A two-byte operand as bytes. -/
def half2 (x : Half) : List Byte := [fld x 0 8, fld x 8 8]

/-- The opcode, WIDE first where it stands. -/
def opBytes (wide : Bool) (op : Byte) : List Byte := if wide then [0xFF, op] else [op]

/-- The bytes of a bytecode (10 R213); empty for every other instruction. -/
def encodeBytes : Instr → List Byte
  | .swqNop w => opBytes w 0x00
  | .swqMov w d a => opBytes w 0x01 ++ opdBytes w d ++ opdBytes w a
  | .swqLdc w d k => opBytes w 0x02 ++ opdBytes w d ++ opdBytes w k
  | .swqLdi w d i => opBytes w 0x03 ++ opdBytes w d ++ opdBytes w i
  | .swqLdn w d => opBytes w 0x04 ++ opdBytes w d
  | .swqLdg w d t => opBytes w 0x05 ++ opdBytes w d ++ half2 t
  | .swqStg w a t => opBytes w 0x06 ++ opdBytes w a ++ half2 t
  | .swqGeta w d a t => opBytes w 0x07 ++ opdBytes w d ++ opdBytes w a ++ half2 t
  | .swqSeta w a b t => opBytes w 0x08 ++ opdBytes w a ++ opdBytes w b ++ half2 t
  | .swqGeti w d a b => opBytes w 0x09 ++ opdBytes w d ++ opdBytes w a ++ opdBytes w b
  | .swqSeti w a b c => opBytes w 0x0A ++ opdBytes w a ++ opdBytes w b ++ opdBytes w c
  | .swqGetm w d a t => opBytes w 0x0B ++ opdBytes w d ++ opdBytes w a ++ half2 t
  | .swqAdd w d a b => opBytes w 0x0C ++ opdBytes w d ++ opdBytes w a ++ opdBytes w b
  | .swqSub w d a b => opBytes w 0x0D ++ opdBytes w d ++ opdBytes w a ++ opdBytes w b
  | .swqMul w d a b => opBytes w 0x0E ++ opdBytes w d ++ opdBytes w a ++ opdBytes w b
  | .swqDiv w d a b => opBytes w 0x0F ++ opdBytes w d ++ opdBytes w a ++ opdBytes w b
  | .swqMod w d a b => opBytes w 0x10 ++ opdBytes w d ++ opdBytes w a ++ opdBytes w b
  | .swqNeg w d a => opBytes w 0x11 ++ opdBytes w d ++ opdBytes w a
  | .swqCmp w d a b cc => opBytes w 0x12 ++ opdBytes w d ++ opdBytes w a ++ opdBytes w b ++ [cc]
  | .swqNot w d a => opBytes w 0x13 ++ opdBytes w d ++ opdBytes w a
  | .swqJmp w o => opBytes w 0x14 ++ half2 o
  | .swqJt w a o => opBytes w 0x15 ++ opdBytes w a ++ half2 o
  | .swqJf w a o => opBytes w 0x16 ++ opdBytes w a ++ half2 o
  | .swqCall w d f a n t => opBytes w 0x17 ++ opdBytes w d ++ opdBytes w f ++ opdBytes w a ++ opdBytes w n ++ half2 t
  | .swqCallm w d a n t => opBytes w 0x18 ++ opdBytes w d ++ opdBytes w a ++ opdBytes w n ++ half2 t
  | .swqRet w a => opBytes w 0x19 ++ opdBytes w a
  | .swqRaise w a => opBytes w 0x1A ++ opdBytes w a
  | .swqNewo w d k => opBytes w 0x1B ++ opdBytes w d ++ opdBytes w k
  | .swqNewl w d a n => opBytes w 0x1C ++ opdBytes w d ++ opdBytes w a ++ opdBytes w n
  | .swqNewt w d a n => opBytes w 0x1D ++ opdBytes w d ++ opdBytes w a ++ opdBytes w n
  | .swqLen w d a => opBytes w 0x1E ++ opdBytes w d ++ opdBytes w a
  | .swqIter w d a => opBytes w 0x1F ++ opdBytes w d ++ opdBytes w a
  | .swqNext w d a b o => opBytes w 0x20 ++ opdBytes w d ++ opdBytes w a ++ opdBytes w b ++ half2 o
  | .swqTnew w d a b => opBytes w 0x21 ++ opdBytes w d ++ opdBytes w a ++ opdBytes w b
  | .swqTcall w d a b c t => opBytes w 0x22 ++ opdBytes w d ++ opdBytes w a ++ opdBytes w b ++ opdBytes w c ++ half2 t
  | .swqTcopy w d a b => opBytes w 0x23 ++ opdBytes w d ++ opdBytes w a ++ opdBytes w b
  | .swqTwait w a => opBytes w 0x24 ++ opdBytes w a
  | .swqDrop w a => opBytes w 0x25 ++ opdBytes w a
  | .swqGuard w a t => opBytes w 0x26 ++ opdBytes w a ++ half2 t
  | .swqGcstep w n => opBytes w 0x27 ++ opdBytes w n
  | .swqExit w => opBytes w 0x28
  | _ => []

/-- The bytes of an instruction as the hardware stores it: words little-endian, the first at the lowest address (00 R3). -/
def encode (i : Instr) : List Byte :=
  match encodeBytes i with
  | [] => (encodeWords i).flatMap fun w => natBytes 4 w.toNat
  | l => l

-- The table's words -----------------------------------------------------------------------------------------------------

/-- The bytes of a table word: nbits / 8 bytes of w, then zeros up to the longest bytecode. -/
def tableBytes (nbits w : Nat) : List Byte := natBytes (nbits / 8) w ++ List.replicate 12 0

/-- Which of the three instruction sets reads a table word (log entry 8). -/
inductive Reader where
  | core | helm | swq
  deriving DecidableEq, Repr

/-- The reader of a table word: a 32-bit word is a compute word if it decodes as one, else a helm custom word, else a
bytecode of just four bytes; every other 32-bit word is a compute word that R46 traps; every other length is a bytecode's (log entry 8). -/
def readerOf (nbits w : Nat) : Reader :=
  if nbits = 32 then
    match decode32 (BitVec.ofNat 32 w) 0 0, decodeHelm (BitVec.ofNat 32 w), decodeBytes (tableBytes nbits w) with
    | .ok _, _, _ => .core
    | .error _, .ok _, _ => .helm
    | .error _, .error _, .ok i => if (encodeBytes i).length = 4 then .swq else .core
    | .error _, .error _, .error _ => .core
  else .swq

/-- What the decoder reads from a table word; an instruction's bits above nbits are zero. -/
def decodeTableWord (nbits w : Nat) : Option Instr :=
  let r : Decoded :=
    match readerOf nbits w with
    | .core => decode32 (BitVec.ofNat 32 w) 0 0
    | .helm => decodeHelm (BitVec.ofNat 32 w)
    | .swq => decodeBytes (tableBytes nbits w)
  r.toOption

end Sys2Proof
end

