-- ==== Sys2Proof/Config.lean ====
section
/-! DEFINITION. What the part fixes, and the free values: constants without a body, of which nothing can be proved. -/

namespace Sys2Proof

/-- One step to come: a core issues from a slot, a helm hart executes the custom word at its pc, a Sweiq engine executes one
bytecode, a row of the table that stands for an event happens, or one arithmetic-clock cycle passes (log entry 1). -/
inductive Act where
  | issue (c : Nat) (k : Fin 16)
  | hart (h : Fin 32)
  | swq (h : Fin 32)
  | event (i : Instr)
  | tick
  deriving DecidableEq, Repr, Inhabited

namespace Config

/-- Free: which step comes next where the spec leaves the order of agents open (log entry 1). -/
opaque freeAct : Nat → Act

/-- Free: a 64-bit value that the spec leaves open, applied to the counter State.fresh (log entries 18, 19). -/
opaque freeWord : Nat → Word

/-- Free: which of the two lines of an unaligned vector access is performed first, applied to the counter State.fresh (05 R103, log entry 6). -/
opaque upperFirst : Nat → Bool

/-- Free: how a 64-byte line written under one key generation reads under another: the line number, the generation it was
written under, the generation it is read under and the line as written give the line as read (13 R236, log entry 7). -/
opaque crossKey : Nat → Nat → Nat → Vec → Vec

/-- Free: how many records beyond one a network port holds towards one pound before the path to it counts as full (08 R154, log entry
13). The port of a core accepts a record while fewer than pathCapacity wait on the path. -/
opaque pathSpare : Nat
def pathCapacity : Nat := pathSpare + 1

/-- Free: the word that a fetch at an address between word boundaries finds, by address space and address (02 R32, log entry 35). -/
opaque freeFetch : Nat → Nat → W32

/-- Free: the identity modulus and the signature over a report, 512 bytes each (21 R334, log entry 16). -/
opaque identityModulus : List Byte
opaque signature : List Byte → List Byte

/-- Free: the vendor, architecture and implementation numbers of the helm harts, which the spec does not state (19 R299, log entry 10). -/
opaque helmIdentity : Nat → Word

/-- Free: how many elements short of the largest vector length a request between one and two such lengths gets, by request and largest length
(RVA23's V, 19 R299, log entry 10). -/
opaque shortVl : Nat → Nat → Nat

/-- Free: whether an agnostic element of a vector result becomes all ones, by State.fresh and the element's number (19 R299, log entry 10). -/
opaque agnosticOnes : Nat → Nat → Bool

/-- Free: the APLIC source, less one, that an INTx line of a root port drives, by port and line (19 R308, log entry 17). -/
opaque intxSource : Nat → Nat → Fin 1023

/-- Free: how the word behind the sequence word of the governor block holds the power and the current limit: the spec gives the block's
fields and no layout (21 R325, log entry 40). -/
opaque governorWord : Word → Word → Word

end Config

/-- The return interval (01 R22). -/
def returnInterval : Nat := 8
/-- Bytes of a local store, a weight buffer and a Basin (00 R1, 01 R11, 07 R130, 13 R230). -/
def localBytes : Nat := 262144
def bufferBytes : Nat := 65536
def basinBytes : Nat := 134217728
/-- Where the Basin of die 0 lies in the physical map (19 R300). -/
def basinBase : Nat := 0x70000000000
/-- Pages are 64 KiB (13 R238). -/
def pageBytes : Nat := 65536

end Sys2Proof
end

