-- ==== Sys2Proof/Machine/State.lean ====
section
/-! DEFINITION. The state of the part as plain data, the stops, and the state right after power is applied (01, 08, 09, 13, 16, 17, 19, 21). -/

namespace Sys2Proof.Machine

open Sys2Proof

/-- Why the machine stops for good. -/
inductive Fault where
  /-- Raised by every step after the lockhouse has removed power at 115 °C (21 R335). Safe: nothing runs. -/
  | powerRemoved
  deriving DecidableEq, Repr

/-- Why a step has no meaning here. -/
inductive Refusal where
  /-- Raised by an arm of exec for an instruction without a meaning. Safe. -/
  | notModelled (mnemonic : String)
  deriving DecidableEq, Repr

/-- A map with ascending keys: at most one entry a key. -/
abbrev SMap (α : Type) := List (Nat × α)

/-- A segment register (01 R17). -/
structure Seg where
  w0 : Word := 0
  w1 : Word := 0
  deriving DecidableEq, Repr, Inhabited

/-- What a memory access does, with its destination, element size and effective mask (05 R100-R105, 07 R137). -/
inductive MemOp where
  | ld (sz : Size) (signed : Bool) (d : Dst)
  | st (sz : Size)
  | vld (sz : Size) (mask : Word) (vd : Fin 16)
  | vst (sz : Size) (m : Fin 4) (mask : Word)
  | amo (op : AmoOp) (wide : Bool) (d : Dst)
  | bop (op : BopOp) (mask : Word)
  | wld (first lines : Nat)
  deriving DecidableEq, Repr, Inhabited

/-- A leaf cached by a CTU (13 R240, R241): the leaf, whether it is a level-1 leaf, and whether its dirty bit is known set. -/
structure Leaf where
  asid : Nat
  /-- first page, and pages mapped -/
  page : Nat
  large : Bool
  leaf : Word
  /-- physical address of the leaf's entry -/
  entry : Nat
  dirty : Bool
  deriving DecidableEq, Repr, Inhabited

/-- Where the bytes of an access are: keys of the memory, pages that a CTU has translated, or, for an access of which a part has been
performed, the pieces that its translation gave: leaf, physical address, bytes. -/
inductive Home where
  | raw (key : Nat)
  | dva (cl asid a : Nat)
  | held (ps : List (Leaf × Nat × Nat))
  deriving DecidableEq, Repr, Inhabited

/-- A vector access that crosses a line, one of whose lines has been performed (05 R103): which is left, what the other one read, and the home. -/
structure HalfDone where
  upper : Bool
  got : Vec
  home : Home
  deriving DecidableEq, Repr, Inhabited

/-- An access with its source values as read and the place that its segment check gave (05 R97). -/
structure Access where
  op : MemOp
  sg : Fin 8
  off : Word
  disp : Nat
  data : Vec
  exp : Word
  kind : Nat
  addr : Nat
  owner : Nat
  pc : Word
  iword : W32
  /-- length of the instruction in bytes -/
  len : Nat
  half : Option HalfDone := none
  deriving DecidableEq, Repr, Inhabited

/-- A relaxed access in flight (05 R102), in issue order. joined is the cycle of its issue (15 R260); sent: its kind 1 record is on its way;
found is set once its translation is known to have faulted, with code and address; status holds a remote owner's reply other than 0 (13
R232); denied: no pager serves the fault, which is slot 1's (R232). -/
structure Relaxed where
  acc : Access
  joined : Nat := 0
  sent : Bool := false
  found : Option (Nat × Nat) := none
  poison : Bool := false
  status : Option Byte := none
  denied : Bool := false
  deriving DecidableEq, Repr, Inhabited

/-- A window-stack transfer in progress (01 R13): a call that spills keeps its target and its link. -/
inductive SpillFill where
  | spill (target link : Word)
  | fill
  deriving DecidableEq, Repr, Inhabited

/-- A journal entry as the wharf remembers it until its last status change: sequence number, word 1, mtime of acceptance and the detail
words (21 R322, R323). -/
structure JRef where
  seq : Nat := 0
  w1 : Word := 0
  accepted : Nat := 0
  detail : List Word := []
  deriving DecidableEq, Repr, Inhabited

/-- A chunk of a command between its read and the end of its write (17 R280): its number, its bytes to be written, the destination lines that get
the poison mark, the 8-byte units still to be written, the core that it goes to (a multicast's), and its place as translated. -/
structure Chunk where
  no : Nat
  bytes : List Byte
  bad : List Nat
  left : List Nat
  core : Nat := 0
  dst : Home := .raw 0
  deriving DecidableEq, Repr, Inhabited

/-- A command block as an engine holds it (09 R176-R178, 17 R279-R289). -/
structure Cmd where
  /-- acceptance number -/
  id : Nat
  port : Nat
  opcode : Nat
  /-- core address (TA[15:4]) and slot of the issuing thread; ignored when helm is some -/
  core : Nat
  slot : Fin 16
  /-- the hart whose command port or launch record it came by -/
  helm : Option (Fin 32)
  /-- the thread has ended: elements and bells are discarded -/
  orphan : Bool
  asid : Nat
  tag : Half
  words : List Word
  /-- kind and start of each operand range, with the limit of the indexed side's segment -/
  ranges : List (Nat × Nat)
  limit : Nat
  started : Bool
  /-- while in progress: its index 0 to 3 among the engine's commands in progress (13 R243) -/
  index : Nat := 0
  /-- mtime of acceptance (17 R285) -/
  since : Nat := 0
  /-- chunks, elements or lines performed -/
  done : List Nat
  /-- chunks, or 64-byte elements, read and not yet written whole (17 R280; 14 R256) -/
  flight : List Chunk := []
  /-- a gather or scatter: the indexes read so far, ascending, and whether each was poisoned (17 R282) -/
  idx : List (Nat × Bool) := []
  /-- an all-reduce: what the other devices submitted, once it has matched (17 R285), and its journal entry (21 R322) -/
  shares : Option (List PeerShare) := none
  j : JRef := {}
  /-- a translation fault is outstanding: the chunk, element or line, and the DVA -/
  parked : Option (Nat × Nat)
  /-- the lowest chunk that a failing replay ended, and the status gathered so far -/
  failAt : Option Nat
  status : Nat
  /-- multicast: clusters still to serve, those that refused in this round, and rounds run -/
  refused : BitVec 24
  refusing : BitVec 24 := 0
  rounds : Nat
  /-- a copy of a launch record -/
  isCopy : Bool
  deriving DecidableEq, Repr, Inhabited

/-- Why a thread is Removed (01 R20). -/
inductive Removed where
  /-- held before its instruction is performed (05 R102): it issues again -/
  | held
  | mem (a : Access)
  | remote (a : Access)
  | divide (d : Dst) (v : Word) (doneAt : Nat)
  | iterative (vd : Fin 16) (v : Vec) (doneAt : Nat)
  /-- a call or return that moves a frame, with its instruction word -/
  | window (w : SpillFill) (iword : W32)
  /-- its record waits for the outbound port; awaits says whether a reply is due afterwards (08 R154, 09 R187) -/
  | port (r : Record) (awaits : Bool)
  /-- the weir: the instruction word and its length -/
  | weir (iword : W32) (len : Nat)
  /-- began is the cycle in which no earlier run over its lines was left (07 R138) -/
  | wld (a : Access) (began : Option Nat)
  | fence (sc : Scope)
  /-- the cycle by which it completes, and the pages invalidated, in one address space or in all -/
  | ctuinv (doneBy : Nat) (asid : Option Nat) (lo hi : Nat)
  | kfence
  | group (isLeave : Bool) (gid : Half) (d : Dst)
  | alloc (d : Dst) (pool : Nat)
  | free (addr : Word) (pool : Nat)
  | engine (c : Cmd)
  /-- its instruction issues again when an element is delivered (09 R182) -/
  | pop (p : Fin 4)
  | reply
  | saveLoad (isLoad : Bool) (d : Dst) (doneAt : Nat)
  | ending
  | motor
  deriving DecidableEq, Repr, Inhabited

/-- Why a thread is Blocked (01 R20). wait, bar and moor keep their instruction's length: the pc moves on when they complete. -/
inductive Blocked where
  | wait (mask : Word) (len : Nat)
  | bar (gid : Half) (len : Nat)
  | queueRead (q : Fin 8)
  | queueWrite (q : Fin 8)
  /-- a value that arrived for a full queue -/
  | queuePush (q : Fin 8) (v : Word)
  | moor (gid : Half) (d : Dst) (len : Nat)
  | butty
  deriving DecidableEq, Repr, Inhabited

/-- Why a thread is Parked: its trap cause (zero for kpark), the faulting access or fetch, and the state it returns to. -/
structure Park where
  cause : Nat := 0
  /-- code and DVA of a translation fault -/
  fault : Option (Nat × Nat) := none
  /-- the access to perform anew, with whether it was relaxed; none for a fetch and for an image that an instruction reads -/
  acc : Option (Bool × Access) := none
  /-- the word of the instruction whose image faulted; zero for a fetch (13 R246) -/
  iword : W32 := 0
  before : Option Blocked := none
  /-- the round or event it was blocked for has come -/
  done : Bool := false
  deriving DecidableEq, Repr, Inhabited

/-- The state of a slot (01 R20). -/
inductive SlotState where
  | empty
  | runnable
  | removed (r : Removed)
  | blocked (b : Blocked)
  | parked (p : Park)
  deriving DecidableEq, Repr, Inhabited

/-- An outstanding engine command of a slot (09 R176): its acceptance number, and what is still due. -/
structure Outstanding where
  cmd : Nat
  element : Bool
  bell : Bool
  done : Bool
  deriving DecidableEq, Repr, Inhabited

/-- A slot's side of one engine port (09 R176, R182). -/
structure Port where
  out : List Outstanding := []
  staging : List Word := []
  elems : List (Nat × Word) := []
  deriving DecidableEq, Repr, Inhabited

/-- An instruction forwarded to a butty: the instruction, its address, where the motor went on, and whether a branch was taken (01 R26,
R28). -/
structure Forwarded where
  ins : Instr
  word : W32
  pc : Word
  outcome : Word
  taken : Bool := false
  deriving DecidableEq, Repr, Inhabited

/-- A thread's part in a tow (01 R26-R29). A butty whose tow has dissolved drains its buffer (08 R169). -/
inductive TowRole where
  | none
  | motor (gid : Half) (rejoin : Word)
  | butty (gid : Half)
  | draining (gid : Half)
  deriving DecidableEq, Repr, Inhabited

/-- What a slot keeps of a thread in its save area beside the area's own fields: whether it is a task, its parent counter, its
successor list, the length of the instruction it is blocked in, what a parked thread was Blocked in and whether that is over (log entry
26). -/
structure Saved where
  isTask : Bool := false
  parent : Word := 0
  succ : Nat := 0
  len : Nat := 4
  before : Option Blocked := none
  done : Bool := false
  deriving DecidableEq, Repr, Inhabited

/-- A thread and its slot (01 R9, R11, R15). -/
structure Thread where
  st : SlotState := .empty
  pc : Word := 0
  g : Vector Word 8 := Vector.replicate 8 0
  w : Vector Word 24 := Vector.replicate 24 0
  /-- older on-chip frames, newest first -/
  older : List (List Word) := []
  depth : Nat := 0
  wsp : Half := 0
  v : Vector Vec 16 := Vector.replicate 16 0
  m : Vector Word 4 := Vector.replicate 4 0
  sg : Vector Seg 8 := Vector.replicate 8 {}
  fa : Half := 0
  fw : Half := 0
  fo : Half := 0
  fsc : Word := 0
  tag : Half := 0
  inst : W32 := 0
  ev : Word := 0
  wb : Half := 0
  bh : Word := 0
  bid : W32 := 0
  bpc : Word := 0
  inHandler : Bool := false
  alarm : Word := 0
  /-- first cycle in which the alarm may expire (04 R94) -/
  alarmFrom : Nat := 0
  runOpen : Bool := false
  /-- first cycle in which the slot may issue again (R22) -/
  nextIssue : Nat := 0
  relaxed : List Relaxed := []
  ports : Vector Port 4 := Vector.replicate 4 {}
  bells : List (Fin 4 × Nat × W32) := []
  saveInUse : Bool := false
  saved : Saved := {}
  tow : TowRole := .none
  fwd : List Forwarded := []
  /-- the cycle in which the thread blocked (kwd), or issued its weir instruction (07 R138) -/
  since : Nat := 0
  isTask : Bool := false
  parent : Word := 0
  succ : Nat := 0
  /-- key of the remote-access record that slot 1 serves (13 R232) -/
  serving : Option Word := none
  /-- a watchdog trap (16 R274) or a pre-emption park (R275) is due at the next boundary -/
  dogDue : Bool := false
  parkDue : Bool := false
  /-- a yield is pending (04 R92) -/
  yielding : Bool := false
  /-- whether the last branch was taken, for the butties (R28) -/
  taken : Bool := false
  /-- the cycle, address and word of the instruction that issued last: a trap at its completion reports it (09 R189) -/
  issuedAt : Nat := 0
  issuedPc : Word := 0
  issuedWord : W32 := 0
  /-- the cycle in which the access or the fetch that the thread waits for began: its issue, its creation or its replay (15 R260) -/
  joined : Nat := 0
  /-- Runnable to finish an operation that had removed it (a pop, a motor's forward): no boundary comes before it has issued (09 R192) -/
  midway : Bool := false
  /-- an Empty slot: the first cycle in which it is free (R9) -/
  freeAt : Nat := 0
  /-- one above the cycle of the last wake, and the bits that wakes brought in that cycle (04 R88) -/
  wokeAt : Nat := 0
  woke : Word := 0
  deriving DecidableEq, Repr, Inhabited

/-- A register queue (08 R172-R174). -/
structure Queue where
  producers : Half := 0
  consumer : Fin 16 := 0
  enabled : Bool := false
  entries : List Word := []
  tokens : Half := 0
  deriving DecidableEq, Repr, Inhabited

/-- A record waiting in a pound, with the cycle of its arrival, one above the cycle of the last merge into it, and the first cycle from which it
has been ready (16 R277). -/
structure Entry where
  r : Record
  at' : Nat
  mergedAt : Nat := 0
  readyAt : Option Nat := none
  deriving DecidableEq, Repr, Inhabited

/-- A pound (08 R153-R156). -/
structure Pound where
  /-- oldest first -/
  entries : List Entry := []
  /-- one above the cycle of the last arrival, the last dispatch -/
  arrivedAt : Nat := 0
  dispatchedAt : Nat := 0
  /-- kind of the record that was dispatched last -/
  lastKind : Nat := 0
  /-- C and U records dispatched and not yet applied, with the cycle of the dispatch -/
  applying : List (Record × Nat) := []
  deriving DecidableEq, Repr, Inhabited

/-- The weir of one column (07 R133). -/
structure Column where
  s : Int := 0
  u : List Int := []
  d : List Int := []
  pp : Int := 0
  pm : Int := 0
  deriving DecidableEq, Repr, Inhabited

/-- What waits for the weir (07 R142). -/
inductive WeirJob where
  /-- mode: 0 wrun, 1 wrun.o, 2 wrun.c; a and b are local-store offsets -/
  | run (mode kt n a b : Nat)
  | acc (mode : Nat) (col : Nat) (d : Dst) (a : Word)
  | stat (d : Dst) (a : Word)
  | clr
  deriving DecidableEq, Repr, Inhabited

/-- How an executing run ends. -/
inductive WeirEnd where
  | ok
  | overtop (row : Nat) (cols : Word)
  | code (row : Nat)
  | poison (row : Nat) (infoA infoB : Word)
  deriving DecidableEq, Repr, Inhabited

/-- The columns, the digits last applied and the status words of a weir (07 R133, R143-R145). cells holds one list of 64 codes for each
array row. -/
structure WeirData where
  cols : List Column := []
  cells : List (List (BitVec 3)) := []
  row : W32 := 0
  reason : BitVec 4 := 0
  slot : BitVec 4 := 0
  sticky : BitVec 5 := 0
  columns : Word := 0
  passes : W32 := 0
  diversions : W32 := 0
  runs : W32 := 0
  clamps : W32 := 0
  deriving DecidableEq, Repr, Inhabited

/-- A run on the weir: its job, the data and the last row's outputs that it leaves, its end and the first cycle after it. -/
structure WeirExec where
  slot : Fin 16
  job : WeirJob
  after : WeirData
  last : Option (Nat × List Byte)
  fin : WeirEnd
  doneAt : Nat
  deriving DecidableEq, Repr, Inhabited

/-- The weir of a core (07 R133, R141-R144): tiles counts those of the open run. -/
structure Weir where
  data : WeirData := {}
  owner : Option (Fin 16) := none
  tiles : Nat := 0
  held : Bool := false
  waiting : List (Fin 16 × WeirJob) := []
  exec : Option WeirExec := none
  deriving DecidableEq, Repr, Inhabited

/-- Created and retired counts of one tag at one core, or at the launch unit (16 R269). -/
structure Counts where
  created : Nat := 0
  retired : Nat := 0
  deriving DecidableEq, Repr, Inhabited

/-- A barrel core (01, 08 R154-R163, 09 R198, 16 R266-R269). -/
structure Core where
  slots : Vector Thread 16 := Vector.replicate 16 {}
  last : Fin 16 := 15
  /-- one above the cycle of the last issue, the last creation -/
  issuedAt : Nat := 0
  createdAt : Nat := 0
  queues : Vector Queue 8 := Vector.replicate 8 {}
  pound : Pound := {}
  /-- oldest first -/
  deque : List Entry := []
  /-- the ordered lane: each record with the last cycle in which it was not ready to leave (16 R277) -/
  lane : List (Record × Nat) := []
  template : Vector Seg 8 := Vector.replicate 8 {}
  stackBase : Word := 0
  ringBase : Word := 0
  vector : Word := 0
  slot1 : Word := 0
  faultBase : Word := 0
  kca : BitVec 18 := 0
  ksl : BitVec 4 := 0
  kwd : Half := 0
  lvl : W32 := 4096
  marks : List Half := []
  counts : SMap Counts := []
  /-- figures last received from neighbours; cycles of the last report, steal request, levelling and starvation wake -/
  figures : SMap Nat := []
  stealNext : Nat := 0
  reportedAt : Nat := 0
  stealAt : Nat := 0
  levelAt : Nat := 0
  starvedAt : Nat := 0
  weir : Weir := {}
  divideFree : Nat := 0
  vectorFree : Nat := 0
  deriving DecidableEq, Repr, Inhabited

/-- An engine with its accepted commands, oldest first (17 R279). -/
structure Engine where
  cmds : List Cmd := []
  next : Nat := 0
  deriving DecidableEq, Repr, Inhabited

/-- A cluster: its CTU, cached instruction lines, copy and gather engines (13 R241, R242; 17 R279). -/
structure Cluster where
  leaves : List Leaf := []
  /-- key: asid * 2^46 + DVA line -/
  lines : SMap Vec := []
  copy : Engine := {}
  gather : Engine := {}
  deriving DecidableEq, Repr, Inhabited

/-- A group entry (01 R25; 08 R167-R170; 16 R276). Members are named by TA[15:0], with 2^16 added while a thread is saved. -/
structure Group where
  members : List Nat := []
  pending : List Nat := []
  /-- the number of the round in progress -/
  round : Nat := 0
  /-- the members when the round began, those that have arrived or left, those that block -/
  roundOf : List Nat := []
  arrived : List Nat := []
  blocked : List Nat := []
  /-- 0 idle, 1 towing, 2 dissolved -/
  tow : Nat := 0
  motor : Nat := 0
  rejoin : Word := 0
  /-- microseconds of the barrier watchdog spent, in mtime ticks; running flag -/
  dog : Nat := 0
  dogOn : Bool := false
  /-- one above the cycle in which the last round completed (01 R25) -/
  endedAt : Nat := 0
  deriving DecidableEq, Repr, Inhabited

/-- A pool as the allocator holds it (17 R290, R291). -/
structure Pool where
  base : Nat := 0
  count : Nat := 0
  size : Nat := 0
  asid : Nat := 0
  enabled : Bool := false
  head : Nat := 0
  /-- held addresses, oldest first -/
  held : List Nat := []
  deriving DecidableEq, Repr, Inhabited

/-- The command port of one hart on one die (19 R304, R305). -/
structure HelmPort where
  words : List Word := []
  result : Word := BitVec.allOnes 64
  deriving DecidableEq, Repr, Inhabited

/-- A reach die (13 R234, R237; 17 R279, R290; 21 R321). -/
structure Die where
  size : Nat := 0
  busy : Bool := false
  newSize : Nat := 0
  hits : Word := 0
  misses : Word := 0
  /-- lines of the home-side cache, by physical line: the key generation they are held under -/
  held : SMap Nat := []
  allocBase : BitVec 27 := 0
  asBase : Word := 0
  pools : SMap Pool := []
  corrected : Word := 0
  poisoned : Word := 0
  chunks : Word := 0
  lastPoison : Word := 0
  groups : SMap Group := []
  coll : Engine := {}
  basin : Engine := {}
  ports : SMap HelmPort := []
  deriving DecidableEq, Repr, Inhabited

/-- A line in the helm caches (13 R236, 19 R299, 14 R258); its poison travels with it (21 R320). -/
structure HelmLine where
  bytes : Vec
  dirty : Bool
  gen : Nat
  poison : Bool := false
  deriving DecidableEq, Repr, Inhabited

/-- The privilege modes of a helm hart (19 R299, R302; log entry 10). -/
inductive Mode where
  | m | s | u
  deriving DecidableEq, Repr, Inhabited

/-- The Sweiq engine of a hart (10 R211). -/
structure Sweiq where
  running : Bool := false
  frame : Word := 0
  bpc : Word := 0
  rd : Fin 32 := 0
  rs1 : Fin 32 := 0
  rs2 : Fin 32 := 0
  deriving DecidableEq, Repr, Inhabited

/-- An interrupt file of an IMSIC beside its pending identities (19 R299, R310; log entry 10): those enabled, delivery and threshold. -/
structure MsiFile where
  enabled : List Byte := []
  delivery : Bool := false
  threshold : Byte := 0
  deriving DecidableEq, Repr, Inhabited

/-- The privileged registers of a helm hart beside its M-mode trap registers, as RVA23 and its standards name them (19 R299, R311; log entry
10). mip holds the pending bits that software writes. -/
structure HelmCsrs where
  medeleg : Word := 0
  mideleg : Word := 0x1444
  mie : Word := 0
  mip : Word := 0
  mscratch : Word := 0
  mcounteren : Word := 0
  mcountinhibit : Word := 0
  menvcfg : Word := 0
  miselect : Word := 0
  stvec : Word := 0
  sepc : Word := 0
  scause : Word := 0
  stval : Word := 0
  sscratch : Word := 0
  scounteren : Word := 0
  senvcfg : Word := 0
  siselect : Word := 0
  satp : Word := 0
  stimecmp : Word := 0
  vstimecmp : Word := 0
  hpmevent : List Word := []
  fileM : MsiFile := {}
  fileS : MsiFile := {}
  deriving DecidableEq, Repr, Inhabited

/-- The registers of the hypervisor extension, with what it adds to M mode, and of state enables and Ssaia (19 R299; log entry 10). The bits of hvip
stand in mip. -/
structure HyperCsrs where
  hstatus : Word := 0
  hedeleg : Word := 0
  hideleg : Word := 0
  hgeie : Word := 0
  hcounteren : Word := 0
  henvcfg : Word := 0
  htval : Word := 0
  htinst : Word := 0
  htimedelta : Word := 0
  hgatp : Word := 0
  hvictl : Word := 0
  mtval2 : Word := 0
  mtinst : Word := 0
  vsstatus : Word := 0
  vstvec : Word := 0
  vsscratch : Word := 0
  vsepc : Word := 0
  vscause : Word := 0
  vstval : Word := 0
  vsatp : Word := 0
  vsiselect : Word := 0
  mstateen : List Word := []
  hstateen : List Word := []
  /-- the guest interrupt files, by number -/
  files : SMap MsiFile := []
  deriving DecidableEq, Repr, Inhabited

/-- The vector unit of a helm hart: VLEN is 256 (19 R299; log entry 10). -/
structure VecUnit where
  v : Vector (BitVec 256) 32 := Vector.replicate 32 0
  vstart : Word := 0
  vl : Word := 0
  vtype : Word := 0x8000000000000000
  vxrm : BitVec 2 := 0
  vxsat : Bool := false
  deriving DecidableEq, Repr, Inhabited

/-- A helm hart with its pound, inbox and launch port (10 R209; 19 R299-R306; 16 R263). -/
structure Hart where
  running : Bool := false
  pc : Word := 0
  x : Vector Word 32 := Vector.replicate 32 0
  /-- floating-point registers, and fcsr: the rounding mode above five flags (RVA23, 19 R299) -/
  f : Vector Word 32 := Vector.replicate 32 0
  fcsr : Byte := 0
  mode : Mode := .m
  /-- whether the hart runs a guest: VS or VU mode -/
  virt : Bool := false
  mepc : Word := 0
  mcause : Word := 0
  mtval : Word := 0
  mtvec : Word := 0
  mstatus : Word := 0
  swqh : Word := 0
  swqic : Word := 0
  swqfl : Word := 0
  hkey : BitVec 12 := 0
  csrs : HelmCsrs := {}
  hyp : HyperCsrs := {}
  vec : VecUnit := {}
  /-- the line that a load-reserved instruction reserved (RVA23, 19 R299) -/
  reserved : Option Nat := none
  /-- bytes of the instruction that executes: 4 between steps (log entry 10) -/
  len : Nat := 4
  swq : Sweiq := {}
  pound : Pound := {}
  inboxBase : Word := 0
  head : Word := 0
  tail : Word := 0
  arm : Bool := false
  port : HelmPort := {}
  /-- U records that the pound discarded (19 R306) -/
  discarded : Nat := 0
  /-- identities pending in the hart's IMSIC files: machine and supervisor (19 R310) -/
  msiM : List Byte := []
  msiS : List Byte := []
  /-- identities pending in the guest files, by file -/
  msiG : List (Nat × Byte) := []
  deriving DecidableEq, Repr, Inhabited

/-- An entry of the launch-state table and what the launch unit keeps with it (16 R263-R275). -/
structure Launch where
  /-- 0 free, 1 running, 2 pre-empted, 3 aborted -/
  state : Nat := 0
  asid : Half := 0
  slotCycles : Word := 0
  weirCycles : Word := 0
  engineCycles : Word := 0
  hart : Fin 32 := 0
  isCopy : Bool := false
  block : Word := 0
  words : List Word := []
  /-- mtime of acceptance; deadlines and grace in mtime ticks after it -/
  accepted : Nat := 0
  first : Nat := 0
  second : Nat := 0
  third : Nat := 0
  grace : Nat := 0
  preempted : Bool := false
  /-- mtime at which the grace period ends, while one runs -/
  graceEnd : Option Nat := none
  firstDone : Bool := false
  secondDone : Bool := false
  thirdDone : Bool := false
  journal : JRef := {}
  /-- roots and copies that the launch unit counts -/
  own : Counts := {}
  /-- the next instance to post as a root, and how many are still to be posted (16 R265) -/
  rootNext : Nat := 0
  rootsLeft : Nat := 0
  /-- the counts of other devices that a sweep reads, by device, with whether a record of the tag was found there (16 R269, 19 R315) -/
  others : SMap (Counts × Bool) := []
  /-- the last sweep was clean, with its created total -/
  sweep : Option Nat := none
  deriving DecidableEq, Repr, Inhabited

/-- A system call that awaits its reply, with its journal entry (21 R323). -/
structure SysCall where
  j : JRef
  ta : Nat
  tag : Half
  deriving DecidableEq, Repr, Inhabited

/-- A record between posting and arrival (08 R150, R154). sender names a thread, an engine, the launch unit or a hart. -/
structure Flight where
  sender : Nat
  /-- true: helm hart target; else core target -/
  die4 : Bool
  target : Nat
  r : Record
  deriving DecidableEq, Repr, Inhabited

/-- An abort notice on its way: to the launch unit, or relayed to a core (08 R162). -/
structure Notice where
  tag : Half
  core : Option Nat
  deriving DecidableEq, Repr, Inhabited

/-- An instruction on the tow ring (01 R26). -/
structure RingFlit where
  core : Nat
  slot : Fin 16
  f : Forwarded
  arrives : Nat
  deriving DecidableEq, Repr, Inhabited

/-- A steal request on its way (16 R268). -/
structure Steal where
  thief : Nat
  asked : Nat
  deriving DecidableEq, Repr, Inhabited

/-- The lockhouse, the governor and what bring-up found (21 R325-R336). -/
structure Lockhouse where
  error : Nat := 0
  stage : Nat := 0
  ready : Bool := false
  events : BitVec 5 := 0
  args : List Word := [0, 0, 0]
  command : Word := 0
  result : Word := BitVec.allOnes 64
  /-- a submitted command that is not finished, its hart and its journal entry -/
  busy : Bool := false
  owner : Fin 32 := 0
  jobArgs : List Word := []
  job : JRef := {}
  /-- how far the command in progress is with its control block: 0 not begun, 1 the sequence word is odd, 2 the fields are written (21 R325) -/
  jobStage : Nat := 0
  sequence : Word := 0
  power : Word := 2400
  current : Word := 5000
  level : Nat := 0
  /-- mtime of the last excess or change of level (21 R335) -/
  calmSince : Nat := 0
  nowCurrent : Half := 0
  nowPower : Half := 0
  temps : List Byte := [0, 0, 0, 0, 0]
  /-- the core map: fenced cores and the generation -/
  fenced : List Nat := []
  generation : Half := 0
  hbm : BitVec 24 := 0
  pagesPerStack : BitVec 24 := 0
  ifaces : BitVec 12 := 0
  gibPerIface : Half := 0
  pcie : BitVec 4 := 0
  digests : List Vec := []
  /-- key generations by index, and the next fresh one (log entry 24) -/
  gens : SMap Nat := []
  nextGen : Nat := 4096
  deriving DecidableEq, Repr, Inhabited

/-- The wharf: registers, journal, routing, launch unit (16, 19 R304-R316, 21 R322-R324). -/
structure Wharf where
  device : BitVec 4 := 0
  latch : Word := 0
  dmaBase : Word := 0
  steering : List Word := [0, 0, 0, 0]
  routing : Word := 0
  /-- entries written and not yet in effect: device and new value -/
  routingNew : SMap (BitVec 4) := []
  /-- records sent to other devices and not yet acknowledged: device and record -/
  unacked : List (Nat × Record) := []
  /-- records that wait for a route change -/
  waiting : List (Nat × Record) := []
  sources : SMap Word := []
  tableBase : BitVec 6 := 0
  watchdog : W32 := 10000
  jBase : Word := 0
  jHead : Word := 0
  jRead : Word := 0
  jThreshold : BitVec 21 := 786432
  calls : List SysCall := []
  launches : SMap Launch := []
  /-- figures last reported by cores, plus roots placed since (16 R265) -/
  figures : SMap Nat := []
  /-- cycle of the last termination sweep -/
  sweptAt : Nat := 0
  /-- completed launches whose status record a helm pound has still to apply: hart, block and tag (19 R310) -/
  ending : List (Nat × Word × Half) := []
  /-- mtimecmp by hart (19 R300) -/
  mtimecmp : SMap Word := []
  /-- links down: aqueduct ports 0-3 are links 0-3, package links from 4; failed replays per link -/
  linksDown : List Nat := []
  replays : SMap Nat := []
  /-- records lost on failed links -/
  lost : Nat := 0
  /-- notices for the other devices of the board, oldest first: a tag is aborted (true), or its mark is to be cleared (19 R315, 16 R271) -/
  told : List (Bool × Half) := []
  /-- the APLIC in MSI-delivery mode, one domain: domain configuration and, by source, its configuration, target, pending and enabled (19 R299,
  R300; log entry 10) -/
  aplicOn : Bool := false
  aplicConfig : SMap W32 := []
  aplicTarget : SMap W32 := []
  aplicPending : List Nat := []
  aplicEnabled : List Nat := []
  /-- DMA requests that the IOMMU recorded: requester id and address (19 R308) -/
  iommuFaults : List (Half × BitVec 56) := []
  deriving DecidableEq, Repr, Inhabited

/-- The whole machine. -/
structure State where
  /-- cores by TA[15:4]; an unlisted core is coreInit -/
  cores : SMap Core
  coreInit : Core
  /-- clusters by die * 32 + cluster -/
  clusters : SMap Cluster
  dies : SMap Die
  harts : SMap Hart
  wharf : Wharf
  lock : Lockhouse
  /-- physical memory, Basins, local stores and weight buffers, each in its own range of keys -/
  mem : List Host.Cell
  /-- poisoned 64-byte lines, ascending -/
  poison : List Nat
  /-- local-store bytes written in this cycle, as key and length: the ordered lane reads a counter no earlier than the cycle after it is
  written (08 R163) -/
  written : List (Nat × Nat)
  /-- key generation under which a physical line was last written; unlisted: 0 -/
  lineGen : SMap Nat
  helmCache : SMap HelmLine
  net : List Flight
  ring : List RingFlit
  notices : List Notice
  steals : List Steal
  clk : Nat
  mtime : Nat
  power : Bool
  /-- whose step this is: core and slot, or hart; and the instruction word (log entry 20) -/
  core : Nat
  slot : Fin 16
  hart : Fin 32
  iword : W32
  /-- the Sweiq engine's operations run for a helm pound: its accesses walk the helm object space (10 R215, 19 R306; log entry 20) -/
  viaPound : Bool
  agenda : List Act
  picks : Nat
  fresh : Nat
  deriving DecidableEq, Repr

/-- What a full part finds at bring-up (21 R329, R332; log entry 18): 24 stacks of 1,464,843 pages (96 GB, 00 R1, R5), 12 interfaces of 238 GiB
(256 GB), no failed core, empty images. -/
def fullPart : BringUp where
  imagesOk := true
  calibrationOk := true
  linksOk := true
  hbm := BitVec.allOnes 24
  pagesPerStack := 1464843
  ifaces := BitVec.allOnes 12
  gibPerIface := 238
  failed := []
  keeperImage := []
  firmware := []
  bootImage := []
  calibration := []
  device := 0
  pcie := 0
  bootPc := 0

/-- The machine right after power is applied: every slot Empty, nothing in memory, the lockhouse about to run bring-up (21 R332;
log entries 2, 3, 20). -/
def State.reset : State where
  cores := []
  coreInit := {}
  clusters := []
  dies := []
  harts := []
  wharf := {}
  lock := {}
  mem := []
  poison := []
  written := []
  lineGen := []
  helmCache := []
  net := []
  ring := []
  notices := []
  steals := []
  clk := 0
  mtime := 0
  power := true
  core := 0
  slot := 0
  hart := 0
  iword := 0
  viaPound := false
  agenda := [.event (.powerOn fullPart)]
  picks := 0
  fresh := 0

end Sys2Proof.Machine
end

