-- ==== Sys2Proof/Machine/Mem.lean ====
section
/-! DEFINITION. Maps, memory in its canonical form, and the homes of all bytes: local stores, weight buffers, Basins and encrypted
physical memory with its poison (13 R230-R236, 21 R319-R321). -/

namespace Sys2Proof.Machine

open Sys2Proof

-- Maps -------------------------------------------------------------------------------------------------------------------

/-- The value under a key. -/
def SMap.find {α : Type} : SMap α → Nat → Option α
  | [], _ => none
  | (k, v) :: l, a => if a < k then none else if a = k then some v else SMap.find l a

/-- Sets the value under a key. -/
def SMap.set {α : Type} : SMap α → Nat → α → SMap α
  | [], a, x => [(a, x)]
  | (k, v) :: l, a, x => if a < k then (a, x) :: (k, v) :: l else if a = k then (k, x) :: l else (k, v) :: SMap.set l a x

/-- Removes a key. -/
def SMap.erase {α : Type} : SMap α → Nat → SMap α
  | [], _ => []
  | (k, v) :: l, a => if a < k then (k, v) :: l else if a = k then l else (k, v) :: SMap.erase l a

/-- The value under a key, or a default. -/
def SMap.getD {α : Type} (m : SMap α) (a : Nat) (d : α) : α := (SMap.find m a).getD d

-- Memory -----------------------------------------------------------------------------------------------------------------

/-- What an unlisted key reads as (log entry 4). -/
def Memory.unlisted : Byte := 0

/-- The byte under a key. -/
def Memory.get : List Host.Cell → Nat → Byte
  | [], _ => Memory.unlisted
  | (k, v) :: l, a => if a < k then Memory.unlisted else if a = k then v else Memory.get l a

/-- A cell before a list, unless its byte is what an unlisted key reads as. -/
def Memory.cons (a : Nat) (x : Byte) (l : List Host.Cell) : List Host.Cell :=
  if x = Memory.unlisted then l else (a, x) :: l

/-- Sets the byte under a key. -/
def Memory.set : List Host.Cell → Nat → Byte → List Host.Cell
  | [], a, x => Memory.cons a x []
  | (k, v) :: l, a, x =>
    if a < k then Memory.cons a x ((k, v) :: l)
    else if a = k then Memory.cons a x l
    else (k, v) :: Memory.set l a x

/-- The n bytes from a key up. -/
def Memory.read (m : List Host.Cell) (a : Nat) : Nat → List Byte
  | 0 => []
  | n + 1 => Memory.get m a :: Memory.read m (a + 1) n

/-- Writes bytes from a key up. -/
def Memory.write (m : List Host.Cell) (a : Nat) : List Byte → List Host.Cell
  | [] => m
  | b :: l => Memory.write (Memory.set m a b) (a + 1) l

/-- Every key from lo up to hi becomes as if it had never been written. -/
def Memory.clear (lo hi : Nat) : List Host.Cell → List Host.Cell
  | [] => []
  | (k, v) :: l => if lo ≤ k ∧ k < hi then Memory.clear lo hi l else (k, v) :: Memory.clear lo hi l

/-- Keys of a memory all lie above a bound, rise, and no byte equals the unlisted one. -/
def Memory.above (lo : Nat) : List Host.Cell → Bool
  | [] => true
  | (k, v) :: l => decide (lo ≤ k) && v != Memory.unlisted && Memory.above (k + 1) l

/-- The canonical form: keys strictly rising, no entry equal to what an unlisted key reads as. -/
def Memory.wf (m : List Host.Cell) : Bool := Memory.above 0 m

-- Places (00 R1, 01 R10) --------------------------------------------------------------------------------------------------

/-- The reach die of a core, by TA[15:4]. -/
def dieOf (c : Nat) : Nat := c / 512
/-- The cluster of a core within its die. -/
def clusterIn (c : Nat) : Nat := c / 16 % 32
/-- The key of a core's cluster. -/
def clusterOf (c : Nat) : Nat := dieOf c * 32 + clusterIn c
/-- The core with a number in a cluster. -/
def coreIn (cl n : Nat) : Nat := cl / 32 * 512 + cl % 32 * 16 + n
/-- The pager of a core's cluster: its core 0 (13 R242). -/
def pagerOf (c : Nat) : Nat := c / 16 * 16

/-- The key of a byte of a core's local store. -/
def lsKey (c off : Nat) : Nat := 2 ^ 52 + c * localBytes + off
/-- The key of a byte of a core's weight buffer. -/
def wbKey (c off : Nat) : Nat := 2 ^ 53 + c * bufferBytes + off
/-- The key, and the helm physical address, of a byte of a die's Basin (19 R300). -/
def basinKey (d off : Nat) : Nat := basinBase + d * basinBytes + off

-- Parts of the state ------------------------------------------------------------------------------------------------------

/-- A core. -/
def State.getCore (s : State) (c : Nat) : Core := SMap.getD s.cores c s.coreInit
/-- Sets a core. -/
def State.setCore (s : State) (c : Nat) (x : Core) : State := { s with cores := SMap.set s.cores c x }
/-- The thread in a slot. -/
def State.thread (s : State) (c : Nat) (k : Fin 16) : Thread := (s.getCore c).slots.get k
/-- Sets the thread in a slot. -/
def State.setThread (s : State) (c : Nat) (k : Fin 16) (t : Thread) : State :=
  s.setCore c { s.getCore c with slots := (s.getCore c).slots.set k.val t k.isLt }
/-- The thread whose instruction executes. -/
def State.me (s : State) : Thread := s.thread s.core s.slot
/-- Sets the thread whose instruction executes. -/
def State.setMe (s : State) (t : Thread) : State := s.setThread s.core s.slot t
/-- The core whose instruction executes. -/
def State.myCore (s : State) : Core := s.getCore s.core
/-- Sets the core whose instruction executes. -/
def State.setMyCore (s : State) (x : Core) : State := s.setCore s.core x
/-- A cluster, by die * 32 + cluster. -/
def State.cluster (s : State) (cl : Nat) : Cluster := SMap.getD s.clusters cl {}
/-- Sets a cluster. -/
def State.setCluster (s : State) (cl : Nat) (x : Cluster) : State := { s with clusters := SMap.set s.clusters cl x }
/-- A reach die. -/
def State.die (s : State) (d : Nat) : Die := SMap.getD s.dies d {}
/-- Sets a reach die. -/
def State.setDie (s : State) (d : Nat) (x : Die) : State := { s with dies := SMap.set s.dies d x }
/-- A helm hart. -/
def State.getHart (s : State) (h : Nat) : Hart := SMap.getD s.harts h {}
/-- Sets a helm hart. -/
def State.setHart (s : State) (h : Nat) (x : Hart) : State := { s with harts := SMap.set s.harts h x }
/-- What the launch unit keeps of a tag. -/
def State.launch (s : State) (tag : Half) : Launch := SMap.getD s.wharf.launches tag.toNat {}
/-- Sets what the launch unit keeps of a tag. -/
def State.setLaunch (s : State) (tag : Half) (x : Launch) : State :=
  { s with wharf := { s.wharf with launches := SMap.set s.wharf.launches tag.toNat x } }

/-- Whether a core of this device is present: it exists and is not fenced (00 R1). -/
def present (s : State) (c : Nat) : Bool := decide (c < 2048 ∧ clusterIn c < 24) && !(s.lock.fenced.contains c)

/-- A core address, TA[19:4], of a core of this device. -/
def coreAddress (s : State) (c : Nat) : Half := s.wharf.device ++ BitVec.ofNat 12 c
/-- The thread address of a slot (01 R10). -/
def taOf (s : State) (c : Nat) (k : Fin 16) : BitVec 20 := coreAddress s c ++ BitVec.ofNat 4 k.val
/-- TA[15:0] as a number: how group entries name threads of this device. -/
def taNum (c : Nat) (k : Fin 16) : Nat := c * 16 + k.val
/-- The thread address of a helm hart: die 4. -/
def hartTa (s : State) (h : Fin 32) : BitVec 20 := s.wharf.device ++ (4 : BitVec 3) ++ BitVec.ofNat 5 h.val ++ (0 : BitVec 8)

-- Interrupt sources (19 R310) ----------------------------------------------------------------------------------------------

/-- A source fires: its MSI becomes pending in the IMSIC file that the entry names, if it is enabled. -/
def fire (s : State) (src : Nat) : State :=
  let e := SMap.getD s.wharf.sources src 0
  let id : Byte := fld e 0 8
  if bit e 31 && id != 0 then
    let h := (fld e 16 5).toNat
    let x := s.getHart h
    if bit e 21 then s.setHart h { x with msiS := if x.msiS.contains id then x.msiS else id :: x.msiS }
    else s.setHart h { x with msiM := if x.msiM.contains id then x.msiM else id :: x.msiM }
  else s

/-- Sets a lockhouse event bit, which fires source 64 (21 R328). -/
def lockEvent (s : State) (b : Nat) : State :=
  fire { s with lock := { s.lock with events := s.lock.events ||| (1 : BitVec 5) <<< b } } 64

-- Poison (21 R320, R321) ----------------------------------------------------------------------------------------------------

/-- The die on whose controllers, banks or stores a key lies. -/
def dieOfKey (a : Nat) : Nat :=
  if a < 0x40000000000 then a / 2 ^ 37 / 6
  else if a < basinBase then (a - 0x40000000000) / 2 ^ 38 / 3
  else if a < 2 ^ 52 then (a - basinBase) / basinBytes
  else if a < 2 ^ 53 then dieOf ((a - 2 ^ 52) / localBytes)
  else dieOf ((a - 2 ^ 53) / bufferBytes)

/-- Adds one to a saturating 64-bit counter. -/
def satInc (w : Word) : Word := if w = BitVec.allOnes 64 then w else w + 1
/-- A counter plus n, which stays at its largest value. -/
def satAdd (w : Word) (n : Nat) : Word := BitVec.ofNat 64 (min (2 ^ 64 - 1) (w.toNat + n))

/-- Inserts into an ascending list without repeats. -/
def insertNat : List Nat → Nat → List Nat
  | [], a => [a]
  | b :: l, a => if a < b then a :: b :: l else if a = b then b :: l else b :: insertNat l a

/-- Whether any byte of a range lies in a poisoned line. -/
def poisoned (s : State) (a n : Nat) : Bool := s.poison.any fun l => decide (a / 64 ≤ l ∧ l * 64 < a + n)

/-- The first poisoned line of a range. -/
def firstPoison (s : State) (a n : Nat) : Option Nat :=
  s.poison.find? fun l => decide (a / 64 ≤ l ∧ l * 64 < a + n)

/-- Marks a line poisoned and counts it on its die. -/
def markPoison (s : State) (l : Nat) : State :=
  let d := s.die (dieOfKey (l * 64))
  let s := { s with poison := insertNat s.poison l }
  s.setDie (dieOfKey (l * 64))
    { d with poisoned := satInc d.poisoned,
             lastPoison := if l * 64 < 2 ^ 52 then BitVec.ofNat 64 (l * 64) else d.lastPoison }

/-- Marks every line that a range touches. -/
def markRange (s : State) (a n : Nat) : State :=
  if n = 0 then s else iter (fun i s => markPoison s (a / 64 + i)) ((a + n - 1) / 64 - a / 64 + 1) s

-- Raw bytes ----------------------------------------------------------------------------------------------------------------

/-- Reads bytes by key. -/
def rawRead (s : State) (a n : Nat) : List Byte := Memory.read s.mem a n

/-- Writes bytes by key. A line that is written whole loses its poison (R320). A write to a local store is noted until the cycle ends (08
R163). -/
def rawWrite (s : State) (a : Nat) (bs : List Byte) : State :=
  { s with mem := Memory.write s.mem a bs,
           written := if 2 ^ 52 ≤ a ∧ a < 2 ^ 53 then (a, bs.length) :: s.written else s.written,
           poison := s.poison.filter fun l => !(decide (a ≤ l * 64 ∧ l * 64 + 64 ≤ a + bs.length)) }

/-- Writes n zero bytes by key, at once; the range is a whole number of lines outside the local stores. -/
def rawZero (s : State) (a n : Nat) : State :=
  { s with mem := Memory.clear a (a + n) s.mem, poison := s.poison.filter fun l => !(decide (a ≤ l * 64 ∧ l * 64 + 64 ≤ a + n)) }

-- Encrypted memory (13 R235, R236) ------------------------------------------------------------------------------------------

/-- The generation of the key at an index (log entry 24). -/
def keyGen (s : State) (k : Nat) : Nat := SMap.getD s.lock.gens k k

/-- The generation under which a line was last written. -/
def lineGenOf (s : State) (l : Nat) : Nat := SMap.getD s.lineGen l 0

/-- A line's 64 bytes as one vector. -/
def lineVec (bs : List Byte) : Vec := BitVec.ofNat 512 (bytesNat bs)

/-- A line as it reads under the key at an index. -/
def lineUnder (s : State) (g l : Nat) : List Byte :=
  let raw := rawRead s (l * 64) 64
  if lineGenOf s l = g then raw else natBytes 64 (Config.crossKey l (lineGenOf s l) g (lineVec raw)).toNat

/-- A physical byte under a key generation. Basin bytes are not encrypted (R233). -/
def physByte (s : State) (g a : Nat) : Byte :=
  if a < basinBase && lineGenOf s (a / 64) != g then nthD 0 (lineUnder s g (a / 64)) (a % 64) else Memory.get s.mem a

/-- Physical bytes under a key generation. -/
def physRead (s : State) (g a : Nat) : Nat → List Byte
  | 0 => []
  | n + 1 => physByte s g a :: physRead s g (a + 1) n

/-- Turns a line over to a key generation: a narrow write keeps the other bytes as they read under it (R236). -/
def rekey (s : State) (g l : Nat) : State :=
  if lineGenOf s l = g then s
  else { s with mem := Memory.write s.mem (l * 64) (lineUnder s g l), lineGen := SMap.set s.lineGen l g }

/-- Writes physical bytes under a key generation. -/
def physWrite (s : State) (g a : Nat) (bs : List Byte) : State :=
  if bs.length = 0 then s
  else if basinBase ≤ a then rawWrite s a bs
  else rawWrite (iter (fun i s => rekey s g (a / 64 + i)) ((a + bs.length - 1) / 64 - a / 64 + 1) s) a bs

/-- An 8-byte word of memory under key 0: page tables, journal, directories (R239). -/
def physWord (s : State) (a : Nat) : Word := BitVec.ofNat 64 (bytesNat (physRead s (keyGen s 0) a 8))
/-- Writes a word under key 0. -/
def setPhysWord (s : State) (a : Nat) (w : Word) : State := physWrite s (keyGen s 0) a (natBytes 8 w.toNat)

/-- Whether a range of physical bytes is populated memory (R235). -/
def populated (s : State) (a n : Nat) : Bool :=
  if a < 24 * 2 ^ 37 then
    bit s.lock.hbm (a / 2 ^ 37) && decide (a % 2 ^ 37 + n ≤ s.lock.pagesPerStack.toNat * pageBytes)
  else if 0x40000000000 ≤ a ∧ a < 0x40000000000 + 12 * 2 ^ 38 then
    bit s.lock.ifaces ((a - 0x40000000000) / 2 ^ 38)
      && decide ((a - 0x40000000000) % 2 ^ 38 + n ≤ s.lock.gibPerIface.toNat * 2 ^ 30)
  else false

-- Words of local store and Basin -----------------------------------------------------------------------------------------------

/-- Reads bytes of a core's local store; offsets wrap at 256 KiB. -/
def lsRead (s : State) (c off n : Nat) : List Byte :=
  let o := off % localBytes
  if o + n ≤ localBytes then rawRead s (lsKey c o) n
  else rawRead s (lsKey c o) (localBytes - o) ++ rawRead s (lsKey c 0) (o + n - localBytes)
/-- Writes bytes of a core's local store; offsets wrap at 256 KiB. -/
def lsWrite (s : State) (c off : Nat) (bs : List Byte) : State :=
  let o := off % localBytes
  if o + bs.length ≤ localBytes then rawWrite s (lsKey c o) bs
  else rawWrite (rawWrite s (lsKey c o) (bs.take (localBytes - o))) (lsKey c 0) (bs.drop (localBytes - o))
/-- A 64-bit word of a core's local store. -/
def lsWord (s : State) (c off : Nat) : Word := BitVec.ofNat 64 (bytesNat (lsRead s c off 8))
/-- Writes a 64-bit word of a core's local store. -/
def setLsWord (s : State) (c off : Nat) (w : Word) : State := lsWrite s c off (natBytes 8 w.toNat)
/-- The frame of 16 words at an offset of a core's local store. -/
def frameWords (s : State) (c a : Nat) : List Word := (List.range 16).map fun i => lsWord s c (a + 8 * i)
/-- A 64-bit word of a die's Basin. -/
def basinWord (s : State) (d off : Nat) : Word := BitVec.ofNat 64 (bytesNat (rawRead s (basinKey d off) 8))

end Sys2Proof.Machine
end

