-- ==== Sys2Proof/Machine/Ops.lean ====
section
/-! DEFINITION. The operations that meanings share: posting records (08 R148-R154), wakes (01 R21), taking a trap (09 R189, R190), and
completing an instruction (01 R20, R21). -/

namespace Sys2Proof

def Record.ta (r : Record) : BitVec 20 := fld r.hdr 40 20
def Record.kind (r : Record) : Nat := (fld r.hdr 37 3).toNat
def Record.op (r : Record) : Nat := (fld r.hdr 33 4).toNat
def Record.len (r : Record) : Nat := (fld r.hdr 30 3).toNat + 1
def Record.tag (r : Record) : Half := fld r.hdr 0 16

end Sys2Proof

namespace Sys2Proof.Machine

open Sys2Proof

-- Records (08 R148, R149) -------------------------------------------------------------------------------------------------

/-- A record's kinds by number: T M C W P U F K. -/
def kT : Nat := 0
def kM : Nat := 1
def kC : Nat := 2
def kW : Nat := 3
def kP : Nat := 4
def kU : Nat := 5
def kF : Nat := 6
def kK : Nat := 7

/-- A header word. len is the number of payload words. -/
def header (ta : BitVec 20) (kind op len : Nat) (tag : Half) : Word :=
  (0 : BitVec 4) ++ ta ++ BitVec.ofNat 3 kind ++ BitVec.ofNat 4 op ++ BitVec.ofNat 3 (len - 1) ++ (0 : BitVec 14) ++ tag

/-- A record to a thread address. -/
def mkRec (ta : BitVec 20) (kind op : Nat) (tag : Half) (key : Word) (pay : List Word) : Record :=
  { hdr := header ta kind op pay.length tag, key := key, pay := pay }

/-- The thread address of slot 0 of a core address: the target of records that name a core. -/
def coreTa (a : Half) : BitVec 20 := a ++ (0 : BitVec 4)

/-- Whether a record is a remote-access record or an access reply: key bit 63 of an M or a P record for a core (13 R231, R232); a helm hart's M
records have call numbers as keys (09 R187). -/
def isRemote (r : Record) : Bool := (r.kind == kM || r.kind == kP) && bit r.key 63 && (fld r.ta 13 3 : BitVec 3) != 4

/-- Records that travel on the class of their own (R154). -/
def ownClass (kind : Nat) : Bool := kind == kK || kind == kF || kind == kW || kind == kP

-- Who sends (08 R150) -------------------------------------------------------------------------------------------------------

/-- DESIGN CHOICE (log entry 64): the threads that follow each other in one slot are one sender. -/
def senderThread (c : Nat) (k : Fin 16) : Nat := c * 16 + k.val
def senderCore (c : Nat) : Nat := 100000 + c
def senderLaunch : Nat := 200000
def senderHart (h : Nat) : Nat := 200100 + h
def senderCopy (cl : Nat) : Nat := 200200 + cl
def senderGather (cl : Nat) : Nat := 200400 + cl
def senderColl (d : Nat) : Nat := 200600 + d
def senderBasin (d : Nat) : Nat := 200700 + d
def senderCtu (cl : Nat) : Nat := 200800 + cl
def senderFar : Nat := 300000

-- Posting -------------------------------------------------------------------------------------------------------------------

/-- The routing entry of a device: its port if the entry is valid (19 R316). -/
def route (s : State) (dev : Nat) : Option Nat :=
  let e : BitVec 4 := fld s.wharf.routing (4 * dev) 4
  if bit e 2 then some (fld e 0 2).toNat else none

/-- Whether a core address may be the target of a record from a thread: a present reach-die core, or on another device whose routing entry is
valid anything but its helm die (R150, R315). -/
def namesCore (s : State) (a : Half) : Bool :=
  let dev : BitVec 4 := fld a 12 4
  if dev = s.wharf.device then present s (fld a 0 12).toNat
  else (fld a 9 3).toNat != 4 && (route s dev.toNat).isSome

/-- Whether a thread address may be the target of swq.post or kpost: as namesCore, or a helm hart (09 R197, 10 R210). -/
def namesPound (s : State) (ta : BitVec 20) : Bool :=
  let dev : BitVec 4 := fld ta 16 4
  if (fld ta 13 3).toNat = 4 then decide (dev = s.wharf.device) || (route s dev.toNat).isSome
  else namesCore s (fld ta 4 16)

/-- Puts a record on its way to the pound that its header names. -/
def State.post (s : State) (sender : Nat) (r : Record) : State :=
  let ta := r.ta
  let dev : BitVec 4 := fld ta 16 4
  if dev = s.wharf.device then
    let die4 : Bool := (fld ta 13 3).toNat == 4
    let target := if die4 then (fld ta 8 5).toNat else (fld ta 4 12).toNat
    { s with net := s.net ++ [{ sender := sender, die4 := die4, target := target, r := r }] }
  else if (SMap.find s.wharf.routingNew dev.toNat).isSome then
    { s with wharf := { s.wharf with waiting := s.wharf.waiting ++ [(dev.toNat, r)] } }
  else
    { s with wharf := { s.wharf with unacked := s.wharf.unacked ++ [(dev.toNat, r)] } }

/-- Posts each record of a list, in order. -/
def State.postAll (s : State) (sender : Nat) : List Record → State
  | [] => s
  | r :: l => State.postAll (s.post sender r) sender l

/-- How many records of a network class wait on the path from a core to a pound of this device. -/
def pathLoad (s : State) (c : Nat) (die4 : Bool) (target : Nat) (own : Bool) : Nat :=
  s.net.countP fun f =>
    decide (f.sender / 16 = c ∧ f.sender < 100000) && f.die4 == die4 && f.target == target && ownClass f.r.kind == own

/-- How many records of a network class wait on the path to another device: not acknowledged, or waiting for a route. -/
def farLoad (s : State) (dev : Nat) (own : Bool) : Nat :=
  (s.wharf.unacked ++ s.wharf.waiting).countP fun p => p.1 == dev && ownClass p.2.kind == own

/-- Whether a core's outbound port accepts a record: the path of its class is not full (R154; log entry 13). -/
def portAccepts (s : State) (c : Nat) (r : Record) : Bool :=
  let dev : BitVec 4 := fld r.ta 16 4
  let own := ownClass r.kind
  if dev ≠ s.wharf.device then decide (farLoad s dev.toNat own < Config.pathCapacity)
  else
    let die4 : Bool := (fld r.ta 13 3).toNat == 4
    decide (pathLoad s c die4 (if die4 then (fld r.ta 8 5).toNat else (fld r.ta 4 12).toNat) own < Config.pathCapacity)

/-- Payload words as a record delivers them: a T record's reserved fields are zero (R149, R157). -/
def delivered (kind : Nat) (w : List Word) : List Word :=
  if kind ≠ kT then w
  else (List.range w.length).map fun i =>
    let x := nthD 0 w i
    match i with
    | 0 => setFld x 55 (0 : BitVec 9)
    | 1 => setFld x 32 (0 : W32)
    | 2 => setFld x 48 (0 : Half)
    | _ => x

-- Counts (16 R269) -----------------------------------------------------------------------------------------------------------

/-- Adds to a core's created and retired counts of a tag. -/
def State.count (s : State) (c : Nat) (tag : Half) (created retired : Nat) : State :=
  let x := s.getCore c
  let n := SMap.getD x.counts tag.toNat {}
  s.setCore c { x with counts := SMap.set x.counts tag.toNat { created := n.created + created, retired := n.retired + retired } }

/-- Adds to the launch unit's own counts of a tag. -/
def State.countOwn (s : State) (tag : Half) (created retired : Nat) : State :=
  let l := s.launch tag
  s.setLaunch tag { l with own := { created := l.own.created + created, retired := l.own.retired + retired } }

-- Wakes (01 R21, 04 R93) -------------------------------------------------------------------------------------------------------

/-- The bits that a wait awaits: zero means any (R93). -/
def waitMask (m : Word) : Word := if m = 0 then BitVec.allOnes 64 else m

/-- Whether a thread takes its instructions from its tow buffer (01 R26). -/
def Thread.isButty (t : Thread) : Bool :=
  match t.tow with
  | .butty _ => true
  | .draining _ => true
  | _ => false

/-- The instruction at a thread's pc is performed and the pc becomes the one given. A butty's forwarded instruction leaves its
buffer; unless its outcome is the motor's, it casts off (01 R28). -/
def Thread.performedAs (t : Thread) (pc : Word) (same : Forwarded → Bool) : Thread :=
  match t.isButty, t.fwd with
  | true, f :: l => if same f then { t with pc := pc, fwd := l } else { t with pc := pc, fwd := [], tow := .none }
  | _, _ => { t with pc := pc }

/-- The outcome of an instruction that is no branch is where it goes on. -/
def Thread.performed (t : Thread) (pc : Word) : Thread := t.performedAs pc fun f => f.outcome == pc

/-- The outcome of a branch is whether it is taken (R28). -/
def Thread.decided (t : Thread) (pc : Word) (taken : Bool) : Thread :=
  { t.performedAs pc fun f => f.taken == taken with taken := taken }

/-- The address after an instruction (02 R32). -/
def nextPc (t : Thread) (len : Nat) : Word := t.pc + BitVec.ofNat 64 len

/-- A thread after bits reach its latch in a cycle: a satisfied wait completes, and the thread may issue from the next cycle (R93); a parked thread
stays (R21). -/
def Thread.wake (now : Nat) (t : Thread) (bits : Word) : Thread :=
  let t := { t with ev := t.ev ||| bits, wokeAt := now + 1, woke := if t.wokeAt = now + 1 then t.woke ||| bits else bits }
  match t.st with
  | .blocked (.wait m len) => if t.ev &&& m ≠ 0 then { t.performed (nextPc t len) with st := .runnable, nextIssue := max t.nextIssue (now + 1) } else t
  | _ => t

/-- The save area of a slot (01 R15, 09 R193). -/
def saveArea (kca : BitVec 18) (k : Fin 16) : Nat := kca.toNat + 1536 * (k.val - 2)

/-- Wake(slot, bits): into the latch of the thread in the slot; into the saved thread's latch image too, and then bit 4 wakes the
keeper (R21). An Empty slot without a saved thread discards it. -/
def State.wake (s : State) (c : Nat) (k : Fin 16) (bits : Word) : State :=
  let t := s.thread c k
  let s := match t.st with
    | .empty => s
    | _ => s.setThread c k (t.wake s.clk bits)
  if t.saveInUse then
    let a := saveArea (s.getCore c).kca k + 1464
    let s := setLsWord s c a (lsWord s c a ||| bits)
    let t0 := s.thread c 0
    match t0.st with
    | .empty => s
    | _ => s.setThread c 0 (t0.wake s.clk 0x10)
  else s

/-- A core whose keeper takes a wake. -/
def Core.wakeKeeper (now : Nat) (x : Core) (bits : Word) : Core :=
  match (x.slots.get 0).st with
  | .empty => x
  | _ => { x with slots := x.slots.set 0 ((x.slots.get 0).wake now bits) }

/-- Wake(0, bits) at every keeper of the device (16 R272). -/
def State.wakeAll (s : State) (bits : Word) : State :=
  { s with cores := s.cores.map fun p => (p.1, p.2.wakeKeeper s.clk bits), coreInit := s.coreInit.wakeKeeper s.clk bits }

-- Cached instruction lines (13 R237, R242) -----------------------------------------------------------------------------

/-- The address space of a thread: slots 0 and 1 use the keeper space (13 R237). -/
def asidOf (s : State) (t : Thread) (k : Fin 16) : Nat := if k.val < 2 then 1 else (s.launch t.tag).asid.toNat

/-- The key of a cached instruction line. -/
def lineKey (asid dva : Nat) : Nat := asid * 2 ^ 46 + dva / 64

/-- A fetched word, or why it is not there: not cached yet, or beyond the space. -/
inductive Fetched where
  | word (w : W32)
  | absent
  | beyond
  deriving DecidableEq, Repr

/-- The word at an address in the cluster's cached lines. Slots 0 and 1 fetch in the keeper space (R232, R237). -/
def fetchWord (s : State) (c : Nat) (k : Fin 16) (a : Nat) : Fetched :=
  if 2 ^ 52 ≤ a then .beyond
  else if a % 4 ≠ 0 then .word (Config.freeFetch (asidOf s (s.thread c k) k) a)
  else match SMap.find (s.cluster (clusterOf c)).lines (lineKey (asidOf s (s.thread c k) k) a) with
    | none => .absent
    | some v => .word (v.extractLsb' (8 * (a % 64)) 32)

/-- The instruction word at a slot's pc as far as it was fetched: zero if it was not. -/
def fetchedWord (s : State) (c : Nat) (k : Fin 16) : W32 :=
  match fetchWord s c k (s.thread c k).pc.toNat with
  | .word w => w
  | _ => 0

-- Traps (09 R189, R190) ---------------------------------------------------------------------------------------------------------

/-- The payload of a trap record (R189). -/
def trapPayload (cause : Nat) (slot : Nat) (report : Bool) (iword : W32) (pc a b : Word) : List Word :=
  [iword ++ (0 : BitVec 12) ++ BitVec.ofNat 4 slot ++ (0 : BitVec 7) ++ BitVec.ofBool report ++ BitVec.ofNat 8 cause, pc, a, b]

/-- Posts a trap record, or a report, to a core's keeper. -/
def State.postTrap (s : State) (c : Nat) (k : Fin 16) (tag : Half) (report : Bool) (cause : Nat) (iword : W32) (pc a b : Word) :
    State :=
  s.post (senderThread c k)
    (mkRec (coreTa (coreAddress s c)) kK 0 tag 0 (trapPayload cause k.val report iword pc a b))

/-- Taking a trap: the thread parks with its pc at the instruction, and its trap record goes to its keeper (01 R8, 09 R189). A watchdog trap that
was due at this boundary is not taken any more (16 R278). -/
def State.trapThread (s : State) (c : Nat) (k : Fin 16) (cause : Nat) (iword : W32) (pc a b : Word) : State :=
  let t := s.thread c k
  (s.setThread c k { t with st := .parked { cause := cause }, dogDue := false }).postTrap c k t.tag false cause iword pc a b

/-- The instruction that executes traps. -/
def State.trap (s : State) (cause : Nat) (a b : Word) : State :=
  s.trapThread s.core s.slot cause s.iword s.me.pc a b

/-- A trap whose info words R189 does not list: both are free values (log entry 19). -/
def State.trapOpen (s : State) (cause : Nat) : State :=
  State.trap { s with fresh := s.fresh + 2 } cause (Config.freeWord s.fresh) (Config.freeWord (s.fresh + 1))

/-- Trap 0x0C of an instruction that names no port: info A is a free value, info B is zero (log entry 19). -/
def State.trapMisuse (s : State) : State := State.trap { s with fresh := s.fresh + 1 } 0x0C (Config.freeWord s.fresh) 0

-- A relaxed access that failed (05 R102) ------------------------------------------------------------------------------------------

/-- The first relaxed access that was found to have faulted or to be poisoned. -/
def failedRelaxed (t : Thread) : Option Relaxed := t.relaxed.find? fun r => r.found.isSome || r.poison || r.status.isSome

/-- What a thread is Blocked in, which it remembers when it parks (01 R21, 09 R192). -/
def SlotState.blocking : SlotState → Option Blocked
  | .blocked b => some b
  | _ => none

/-- A relaxed access that fails for good parks its thread with a trap that carries the access's word and PC; a thread that was Blocked
remembers it. -/
def State.trapRelaxed (s : State) (c : Nat) (k : Fin 16) (before : Option Blocked) (done : Bool) (cause : Nat) (x : Access) (a b : Word) :
    State :=
  let s := s.trapThread c k cause x.iword x.pc a b
  s.setThread c k { s.thread c k with st := .parked { cause := cause, before := before, done := done }, parkDue := false }

/-- The thread parks for a relaxed access that failed: its next instruction does not execute (R102). One whose translation faulted keeps its
place among the others, which wait behind it where bytes overlap; its fault record was posted when it was found. -/
def parkRelaxed (s : State) (c : Nat) (k : Fin 16) (r : Relaxed) : State :=
  let t := s.thread c k
  let was := t.st.blocking
  let gone := s.setThread c k { t with relaxed := dropAt t.relaxed ((findIdx1 (fun x => x == r) t.relaxed).getD 0) }
  if r.poison then gone.trapRelaxed c k was false 0x0A r.acc (BitVec.ofNat 64 r.acc.addr) 0
  else if r.status.isSome then gone.trapRelaxed c k was false 0x04 r.acc r.acc.off ((r.status.getD 0).setWidth 64)
  else if r.denied then gone.trapRelaxed c k was false 0x0E r.acc (BitVec.ofNat 64 ((r.found.getD (0, 0)).2)) 0
  else s.setThread c k { t with parkDue := false, st := .parked { fault := r.found, acc := some (true, r.acc), before := was } }

-- Parking (09 R192) ----------------------------------------------------------------------------------------------------------

/-- kpark of a slot: at once, or when the operation in progress completes. -/
def Thread.kpark (t : Thread) : Thread :=
  match t.st with
  | .runnable => if t.midway then { t with parkDue := true } else { t with st := .parked {} }
  | .removed .held => { t with st := .parked {} }
  | .removed _ => { t with parkDue := true }
  | .blocked b => { t with st := .parked { before := some b } }
  | .empty => t
  | .parked _ => t

-- Completion (01 R20, R21; 16 R278) --------------------------------------------------------------------------------------------

/-- Whether the grace period of a pre-empted tag is over (16 R275). -/
def graceOver (s : State) (tag : Half) : Bool := (s.launch tag).state == 2 && (s.launch tag).graceEnd.isNone

/-- A thread at the boundary that follows its operation: a watchdog trap first, then the park of a relaxed access that failed (05
R102), a pre-emption park sampled now or a kpark that waits, or Runnable (R278, 09 R192). -/
def State.boundary (s : State) (c : Nat) (k : Fin 16) (t : Thread) : State :=
  let s := s.setThread c k { t with st := .runnable }
  if t.dogDue then (s.setThread c k t).trapThread c k 0x0F (fetchedWord s c k) t.pc (t.tag.setWidth 64) 0
  else match failedRelaxed t with
    | some r => parkRelaxed s c k r
    | none =>
      if t.parkDue || (decide (2 ≤ k.val) && graceOver s t.tag) then s.setThread c k { t with parkDue := false, st := .parked {} }
      else s

/-- A thread whose operation is over: Runnable, it meets the boundary; Blocked or held, it takes a trap or a park that is due at once (09 R192; 16
R275, R278). -/
def State.settleThread (s : State) (c : Nat) (k : Fin 16) : State :=
  let t := s.thread c k
  let atOnce : State :=
    if t.dogDue then s.trapThread c k 0x0F (fetchedWord s c k) t.pc (t.tag.setWidth 64) 0
    else match failedRelaxed t with
      | some r => parkRelaxed s c k r
      | none =>
        if t.parkDue || (decide (2 ≤ k.val) && graceOver s t.tag) then s.setThread c k { t.kpark with parkDue := false } else s
  match t.st with
  | .runnable => s.boundary c k t
  | .blocked _ => atOnce
  | .removed .held => atOnce
  | _ => s

/-- The instruction is performed and the pc moves to an address. -/
def State.goTo (s : State) (pc : Word) : State := s.setMe (s.me.performed pc)

/-- The instruction is performed and the pc advances by its length. -/
def State.advance (s : State) (i : Instr) : State := s.goTo (nextPc s.me (lengthOf i))

/-- The thread leaves issue for a reason, its pc as it stands. -/
def State.remove (s : State) (r : Removed) : State := s.setMe { s.me with st := .removed r }

/-- The thread blocks. -/
def State.block (s : State) (b : Blocked) : State := s.setMe { s.me with st := .blocked b, since := s.clk }

-- Throttling (21 R335) --------------------------------------------------------------------------------------------------

/-- Whether a unit that works in n of d cycles works in this one. DESIGN CHOICE (log entry 55): in the first n of every d. -/
def State.opens (s : State) (share : Nat × Nat) : Bool := decide (s.clk % share.2 < share.1)

/-- The share of cycles in which runs may start, the vector unit works and a core issues, by throttle level. -/
def weirShare (level : Nat) : Nat × Nat :=
  match level with
  | 0 => (1, 1)
  | 1 => (3, 4)
  | 2 => (1, 2)
  | 3 => (1, 4)
  | 4 => (1, 8)
  | 5 => (1, 8)
  | _ => (0, 1)
def vectorShare (level : Nat) : Nat × Nat :=
  match level with
  | 4 => (1, 2)
  | 5 => (1, 4)
  | 6 => (1, 4)
  | 7 => (1, 8)
  | _ => (1, 1)
def issueShare (level : Nat) : Nat × Nat :=
  match level with
  | 5 => (1, 2)
  | 6 => (1, 4)
  | 7 => (1, 8)
  | _ => (1, 1)

-- Engines (17 R279) ---------------------------------------------------------------------------------------------------

/-- The engine of a port that serves a core (17 R279). -/
def portEngine (c : Nat) (p : Nat) : Eng :=
  match p with
  | 0 => .copy (clusterOf c)
  | 1 => .gather (clusterOf c)
  | 2 => .coll (dieOf c)
  | _ => .basin (dieOf c)

/-- An engine. -/
def State.engine (s : State) : Eng → Engine
  | .copy cl => (s.cluster cl).copy
  | .gather cl => (s.cluster cl).gather
  | .coll d => (s.die d).coll
  | .basin d => (s.die d).basin

/-- Sets an engine. -/
def State.setEngine (s : State) (e : Eng) (x : Engine) : State :=
  match e with
  | .copy cl => s.setCluster cl { s.cluster cl with copy := x }
  | .gather cl => s.setCluster cl { s.cluster cl with gather := x }
  | .coll d => s.setDie d { s.die d with coll := x }
  | .basin d => s.setDie d { s.die d with basin := x }

/-- Every engine of the device. -/
def allEngines (s : State) : List Engine :=
  (s.clusters.flatMap fun p => [p.2.copy, p.2.gather]) ++ s.dies.flatMap fun p => [p.2.coll, p.2.basin]

end Sys2Proof.Machine
end

