-- ==== Sys2Proof/Machine/Journal.lean ====
section
/-! DEFINITION. The command journal of the wharf (21 R322-R324). -/

namespace Sys2Proof.Machine

open Sys2Proof

-- CRC-32C (R322) -----------------------------------------------------------------------------------------------------------

/-- One bit of CRC-32C in its bit-reflected form: 0x82F63B78 is 0x1EDC6F41 reversed. -/
def crcBit (c : W32) : W32 := if bit c 0 then (c >>> 1) ^^^ 0x82F63B78 else c >>> 1

/-- One byte of CRC-32C. -/
def crcByte (c : W32) (b : Byte) : W32 := iter (fun _ c => crcBit c) 8 (c ^^^ b.setWidth 32)

/-- CRC-32C of a list of bytes, all ones before and complemented after, as the code of that name is defined (log entry 37). -/
def crc32c (bs : List Byte) : W32 := ~~~(bs.foldl crcByte 0xFFFFFFFF)

-- Entries ---------------------------------------------------------------------------------------------------------------------

/-- The kinds and statuses of an entry. -/
def jLock : Nat := 0
def jLaunch : Nat := 1
def jCopy : Nat := 2
def jCollective : Nat := 3
def jSystem : Nat := 4
def jCommand : Nat := 5
def stAccepted : Nat := 0
def stStarted : Nat := 1
def stDone : Nat := 2
def stAborted : Nat := 3

/-- Word 1 of an entry. -/
def jWord1 (source : BitVec 20) (kind status refusal : Nat) (tag : Half) : Word :=
  source ++ BitVec.ofNat 4 kind ++ BitVec.ofNat 4 status ++ BitVec.ofNat 4 refusal ++ (0 : Half) ++ tag

/-- The bytes of an entry, its check over words 0 to 6. -/
def jBytes (j : JRef) (changed : Nat) : List Byte :=
  let bs := wordsBytes ([BitVec.ofNat 64 j.seq, j.w1, BitVec.ofNat 64 j.accepted, BitVec.ofNat 64 changed] ++ takePad 0 3 j.detail)
  bs ++ natBytes 8 (crc32c bs).toNat

/-- Writes an entry as one line (R323). -/
def writeEntry (s : State) (j : JRef) : State :=
  physWrite s (keyGen s 0) (s.wharf.jBase.toNat + 64 * (j.seq % 2 ^ 20)) (jBytes j s.mtime)

/-- Appends an entry: head moves on, and source 66 fires when head - read reaches the threshold (R324). -/
def appendEntry (s : State) (w1 : Word) (accepted : Nat) (detail : List Word) : JRef × State :=
  let j : JRef := { seq := s.wharf.jHead.toNat, w1 := w1, accepted := accepted, detail := detail }
  let s := writeEntry s j
  let s := { s with wharf := { s.wharf with jHead := s.wharf.jHead + 1 } }
  let full := s.wharf.jThreshold ≠ 0 ∧ (s.wharf.jHead - s.wharf.jRead).toNat = s.wharf.jThreshold.toNat
  (j, if full then fire s 66 else s)

/-- Journals a command. -/
def journal (s : State) (source : BitVec 20) (kind status refusal : Nat) (tag : Half) (detail : List Word) : JRef × State :=
  appendEntry s (jWord1 source kind status refusal tag) s.mtime detail

/-- Changes the status of an entry in place, or in a new entry once it is overwritten (R323). -/
def restatus (s : State) (j : JRef) (status : Nat) : JRef × State :=
  let w1 := setFld j.w1 36 (BitVec.ofNat 4 status)
  if 2 ^ 20 ≤ s.wharf.jHead.toNat - j.seq then appendEntry s w1 j.accepted j.detail
  else
    let j := { j with w1 := w1 }
    (j, writeEntry s j)

-- System calls (R323) -------------------------------------------------------------------------------------------------------------

/-- The first system call of a list that a reply answers, and the others. -/
def takeCall (p : SysCall → Bool) : List SysCall → Option SysCall × List SysCall
  | [] => (none, [])
  | c :: l =>
    if p c then (some c, l)
    else
      let r := takeCall p l
      (r.1, c :: r.2)

/-- A reply leaves the wharf: the call of its target and tag is done. -/
def replyLeaves (s : State) (r : Record) : State :=
  match takeCall (fun c => c.ta == r.ta.toNat && c.tag == r.tag) s.wharf.calls with
  | (some c, l) => (restatus { s with wharf := { s.wharf with calls := l } } c.j stDone).2
  | (none, _) => s

/-- Marks each call of a list aborted. -/
def abortCalls (s : State) : List SysCall → State
  | [] => s
  | c :: l => abortCalls (restatus s c.j stAborted).2 l

/-- The calls of an aborted tag are journaled aborted. -/
def tagCallsAbort (s : State) (tag : Half) : State :=
  let mine := s.wharf.calls.filter fun c => c.tag == tag
  abortCalls { s with wharf := { s.wharf with calls := s.wharf.calls.filter fun c => c.tag != tag } } mine

end Sys2Proof.Machine
end

