-- ==== Sys2Proof/Machine/Operands.lean ====
section
/-! DEFINITION. Every operand form: what must hold before an instruction's operands are read (05 R102; 08 R174; 09 R176), reading a
source (02 R33-R35), writing a destination, and submitting an engine command through a port (09 R176-R179). -/

namespace Sys2Proof.Machine

open Sys2Proof

-- Registers (01 R11, R12) ------------------------------------------------------------------------------------------------

/-- Reads a windowed register. -/
def Thread.getW (t : Thread) (i : Nat) : Word := t.w.toList.getD i 0
/-- Writes a windowed register. -/
def Thread.setW (t : Thread) (i : Fin 24) (v : Word) : Thread := { t with w := t.w.set i.val v i.isLt }
/-- Writes a global register. -/
def Thread.setG (t : Thread) (i : Fin 8) (v : Word) : Thread := { t with g := t.g.set i.val v i.isLt }
/-- Writes a vector register. -/
def Thread.setV (t : Thread) (i : Fin 16) (v : Vec) : Thread := { t with v := t.v.set i.val v i.isLt }
/-- Writes a mask register. -/
def Thread.setM (t : Thread) (i : Fin 4) (v : Word) : Thread := { t with m := t.m.set i.val v i.isLt }
/-- Writes a segment register. -/
def Thread.setSg (t : Thread) (i : Fin 8) (v : Seg) : Thread := { t with sg := t.sg.set i.val v i.isLt }
/-- The mask that a vector instruction's mask field names: m0 enables every lane (01 R12). -/
def Thread.mask (t : Thread) (m : Fin 4) : Word := if m = 0 then BitVec.allOnes 64 else t.m.get m
/-- Changes a slot's side of an engine port. -/
def Thread.setPort (t : Thread) (p : Fin 4) (x : Port) : Thread := { t with ports := t.ports.set p.val x p.isLt }

-- Queues (08 R172-R174) ------------------------------------------------------------------------------------------------------

/-- A queue of a core. -/
def Core.queue (x : Core) (q : Fin 8) : Queue := x.queues.get q
/-- Sets a queue of a core. -/
def Core.setQueue (x : Core) (q : Fin 8) (y : Queue) : Core := { x with queues := x.queues.set q.val y q.isLt }
/-- Changes every thread of a core. -/
def Core.mapSlots (x : Core) (f : Thread → Thread) : Core := { x with slots := x.slots.map f }

/-- Every declared producer's token has arrived (R172). -/
def Queue.eos (y : Queue) : Bool := y.enabled && (y.producers &&& ~~~y.tokens) == 0
/-- End of stream is complete and the queue is empty (R172). -/
def Queue.drained (y : Queue) : Bool := y.eos && y.entries.isEmpty

/-- Readers of a queue that block on it issue again. -/
def Thread.retryRead (q : Fin 8) (t : Thread) : Thread :=
  match t.st with
  | .blocked (.queueRead p) => if p = q then { t with st := .runnable } else t
  | _ => t

/-- Writers that block on a queue issue again. -/
def Thread.retryWrite (q : Fin 8) (t : Thread) : Thread :=
  match t.st with
  | .blocked (.queueWrite p) => if p = q then { t with st := .runnable } else t
  | _ => t

/-- Appends a value to a queue. -/
def Core.pushQueue (x : Core) (q : Fin 8) (v : Word) : Core :=
  (x.setQueue q { x.queue q with entries := (x.queue q).entries ++ [v] }).mapSlots (Thread.retryRead q)

/-- The value that a slot has ready for a full queue: a load that came back while the queue was full. -/
def Thread.pushing (q : Fin 8) (t : Thread) : Option Word :=
  match t.st with
  | .blocked (.queuePush p v) => if p = q then some v else none
  | _ => none

/-- Takes the head of a queue (zero when it holds none, R174); writers get the room, a value that waits for it first. -/
def Core.popQueue (x : Core) (q : Fin 8) : Word × Core :=
  match (x.queue q).entries with
  | [] => (0, x)
  | v :: l =>
    let x := x.setQueue q { x.queue q with entries := l }
    match findIdx1 (fun t => (Thread.pushing q t).isSome) x.slots.toList with
    | some n =>
      let k : Fin 16 := Fin.ofNat 16 n
      let t := x.slots.get k
      match t.pushing q with
      | some y =>
        let x := { x with slots := x.slots.set k.val { t with st := .runnable } k.isLt }
        (v, x.pushQueue q y)
      | none => (v, x)
    | none => (v, x.mapSlots (Thread.retryWrite q))

-- What must hold before operands are read --------------------------------------------------------------------------------------

/-- What the checks before any operand is read decide. -/
inductive Gate where
  | go
  | held
  | trap (cause : Nat) (a : Word)
  | blockRead (q : Fin 8)
  | blockWrite (q : Fin 8)
  | awaitElement (p : Fin 4)
  deriving DecidableEq, Repr

/-- Instructions that first wait for all of the thread's relaxed accesses (05 R102; 07 R137, R140; 09 R186, R187, R197; 14 R252). spawn, post, msg
and push wait after their checks (08 R164-R166, 09 R179, State.afterRelaxed). -/
def waitsRelaxed : Instr → Bool
  | .ld _ _ rlx _ _ _ _ | .st _ rlx _ _ _ _ | .vld _ _ rlx _ _ _ _ | .vst _ _ rlx _ _ _ _ => !rlx
  | .amo .. | .bop .. | .fenceRx | .fenceSc _ => true
  | .sys .. | .endT | .call _ | .callr _ | .ret => true
  | .wld .. | .wrun .. | .wrunO .. | .wrunC .. => true
  | .alloc .. | .free .. | .kpost _ => true
  | .join .. | .leave .. | .bar _ => true
  | _ => false

/-- The segment register of a relaxed form (05 R102). -/
def relaxedSeg : Instr → Option (Fin 8)
  | .ld _ _ rlx g _ _ _ | .st _ rlx g _ _ _ | .vld _ _ rlx g _ _ _ | .vst _ _ rlx g _ _ _ => if rlx then some g else none
  | _ => none

/-- The vector registers that an instruction reads or writes. -/
def vecRegs : Instr → List (Fin 16)
  | .vld _ _ _ _ v _ _ | .vst _ _ _ _ v _ _ | .bop _ _ v _ _ => [v]
  | .vadd _ d a b _ | .vsub _ d a b _ | .vmul _ d a b _ | .vmax _ d a b _ | .vmin _ d a b _ | .vdiv _ d a b _ => [d, a, b]
  | .vfma _ d a b c _ | .vfms _ d a b c _ => [d, a, b, c]
  | .vabs _ d a _ | .vneg _ d a _ | .vrcp _ d a _ | .vrsq _ d a _ | .vexp2 _ d a _ | .vlog2 _ d a _ => [d, a]
  | .viadd _ d a b _ _ | .visub _ d a b _ _ => [d, a, b]
  | .vimul _ d a b _ | .vimax _ d a b _ | .vimin _ d a b _ | .vshl _ d a b _ | .vshrN _ d a b _ | .vshrI _ d a b _ => [d, a, b]
  | .vand d a b _ | .vor d a b _ | .vxor d a b _ => [d, a, b]
  | .vcmp _ _ _ a b _ => [a, b]
  | .vsel _ d a b _ => [d, a, b]
  | .vcvt _ _ d a _ _ _ => [d, a]
  | .vpermB d a b _ => [d, a, b]
  | .vshuf d a b c _ => [d, a, b, c]
  | .vsplat _ d _ _ => [d]
  | .vextr _ _ a _ => [a]
  | .vinsr _ _ d _ => [d]
  | .vredAdd _ d a _ | .vredMax _ d a _ | .vredMin _ d a _ => [d, a]
  | .vdot4 d a b c _ => [d, a, b, c]
  | _ => []

/-- The register that a relaxed load in flight will write. -/
def Relaxed.dst (r : Relaxed) : Option (Sum Dst (Fin 16)) :=
  match r.acc.op with
  | .ld _ _ d => some (.inl d)
  | .vld _ _ v => some (.inr v)
  | _ => none

/-- Whether an instruction reads or writes a register that awaits a relaxed load (05 R102). -/
def touchesPending (t : Thread) (i : Instr) : Bool :=
  t.relaxed.any fun r =>
    match r.dst with
    | none => false
    | some (.inl d) => (instrSrcs i).contains d.asSrc || instrDst i == some d
    | some (.inr v) => (vecRegs i).contains v

/-- Whether an instruction writes the eighth word of a staging buffer, which submits it (09 R176). -/
def submitsStaged (t : Thread) (i : Instr) : Bool :=
  match instrDst i with
  | some (.e p) => decide (7 ≤ (t.ports.get p).staging.length)
  | _ => false

/-- Whether the relaxed accesses in flight hold a relaxed form: through kind 0 it is ordinary and waits for all of them (14 R250), through
another kind it is held as a ninth (05 R102). -/
def holdsRelaxed (t : Thread) (i : Instr) : Bool :=
  match relaxedSeg i with
  | some g => (fld (t.sg.get g).w1 56 3 : BitVec 3) == 0 || decide (8 ≤ t.relaxed.length)
  | none => false

/-- Whether an instruction is held before it is performed (05 R102). -/
def isHeld (t : Thread) (i : Instr) : Bool :=
  !t.relaxed.isEmpty && (waitsRelaxed i || touchesPending t i || submitsStaged t i || holdsRelaxed t i)

/-- The check of one queue or port source (R174, R176, R182). -/
def gateSrc (x : Core) (k : Fin 16) : Src → Gate
  | .q q =>
    let y := x.queue q
    if !y.enabled || y.consumer != k then .trap 0x0B (BitVec.ofNat 64 q.val)
    else if y.entries.isEmpty && !y.drained then .blockRead q else .go
  | .e p =>
    let y := (x.slots.get k).ports.get p
    if y.elems.isEmpty then
      if y.out.any Outstanding.element then .awaitElement p else .trap 0x0C (BitVec.ofNat 64 p.val)
    else .go
  | _ => .go

/-- Whether a slot may write a queue (R174). -/
def mayWrite (y : Queue) (k : Fin 16) : Bool := y.enabled && bit y.producers k.val && !bit y.tokens k.val

/-- The check of a queue destination; a source that pops the same queue makes room first (02 R35). -/
def gateDst (x : Core) (k : Fin 16) (srcs : List Src) : Option Dst → Gate
  | some (.q q) =>
    let y := x.queue q
    if !mayWrite y k then .trap 0x0B (BitVec.ofNat 64 q.val)
    else if 16 ≤ y.entries.length && !(srcs.contains (.q q)) then .blockWrite q else .go
  | _ => .go

/-- The first check that stops. -/
def firstStop : List Gate → Gate
  | [] => .go
  | .go :: l => firstStop l
  | g :: _ => g

/-- Whether a check traps. -/
def Gate.isTrap : Gate → Bool
  | .trap _ _ => true
  | _ => false

/-- All checks before any operand is read: held first, then misuse, then empty and full queues. -/
def gate (s : State) (i : Instr) : Gate :=
  let x := s.myCore
  let t := s.me
  if isHeld t i then .held
  else
    let gs := (instrSrcs i).map (gateSrc x s.slot) ++ [gateDst x s.slot (instrSrcs i) (instrDst i)]
    match gs.find? Gate.isTrap with
    | some g => g
    | none => firstStop gs

/-- The state after a check that stops. -/
def State.stop (s : State) : Gate → State
  | .go => s
  | .held => s.remove .held
  | .trap c a => s.trap c a 0
  | .blockRead q => s.block (.queueRead q)
  | .blockWrite q => s.block (.queueWrite q)
  | .awaitElement p => s.remove (.pop p)

/-- What an instruction does once its own checks have passed and no relaxed access is in flight; until then it is held, with its operands as
they were before (08 R164-R166, 09 R179). -/
def State.afterRelaxed (s before : State) (f : State → State) : State := if s.me.relaxed.isEmpty then f s else before.remove .held

/-- Runs the effect of an instruction whose checks pass. -/
def State.gated (s : State) (i : Instr) (f : State → State) : State :=
  match gate s i with
  | .go => f s
  | g => s.stop g

-- Reading a source (02 R33) --------------------------------------------------------------------------------------------------------

/-- Takes the oldest completion element of the thread on a port: an acquire of that element (09 R182, R183). -/
def Thread.popElement (t : Thread) (p : Fin 4) : Word × Thread :=
  let y := t.ports.get p
  match y.elems with
  | [] => (0, t)
  | (c, v) :: l =>
    let out := (y.out.map fun o => if o.cmd = c then { o with element := false } else o).filter
      fun o => !o.done || o.element || o.bell
    (v, t.setPort p { y with elems := l, out := out })

/-- The value of a source operand, popping a queue or an element. -/
def State.read (s : State) : Src → Word × State
  | .g i => (s.me.g.get i, s)
  | .w i => (s.me.w.get i, s)
  | .q q =>
    let r := s.myCore.popQueue q
    (r.1, s.setMyCore r.2)
  | .e p =>
    let r := s.me.popElement p
    (r.1, s.setMe r.2)
  | .lit32 v => (v.signExtend 64, s)
  | .lit64 v => (v, s)
  | .small v => (v.setWidth 64, s)

-- The segment check (05 R97) -------------------------------------------------------------------------------------------------------

/-- A segment register as it is stored: reserved bits of word 1 are zero (01 R17). -/
def mkSeg (a b : Word) : Seg := { w0 := a, w1 := (fld b 0 59 : BitVec 59).setWidth 64 }

/-- A segment's kind, rights, limit (01 R17). -/
def Seg.kind (g : Seg) : Nat := (fld g.w1 56 3).toNat
def Seg.rights (g : Seg) : BitVec 3 := fld g.w1 53 3
def Seg.limit (g : Seg) : Nat := (fld g.w1 0 53).toNat

/-- Rights needed: [0] R, [1] W, [2] X (01 R17). -/
def needR : BitVec 3 := 1
def needW : BitVec 3 := 2
def needRW : BitVec 3 := 3

/-- The order kind, rights, bound, top of the space, owner or die, alignment. extra is a further check in the position of the rights
check (bop, vst through kind 1). Gives the trap's cause, or the address. off is the operand with its displacement, not wrapped. DESIGN CHOICE
(log entry 45): a kind 2 offset that the home-side cache holds (13 R234) traps 0x05 before the alignment is tested. -/
def segCheck (s : State) (g : Seg) (off n : Nat) (need : BitVec 3) (align : Nat) (extra : Bool) : Except Nat Nat :=
  if 4 ≤ g.kind then .error 0x04
  else if need &&& ~~~g.rights ≠ 0 ∨ !extra then .error 0x04
  else if g.limit < off + n then .error 0x03
  else
    let a := (match g.kind with
      | 0 => (fld g.w0 0 18).toNat
      | 1 => (fld g.w0 0 18).toNat
      | 2 => (fld g.w0 0 27).toNat
      | _ => (fld g.w0 0 52).toNat) + off
    let top := match g.kind with
      | 0 => localBytes
      | 1 => localBytes
      | 2 => basinBytes
      | _ => 2 ^ 52
    if top < a + n then .error 0x05
    else if g.kind = 1 ∧ !((fld g.w0 60 4 : BitVec 4) == s.wharf.device && present s (fld g.w0 48 12).toNat) then .error 0x05
    else if g.kind = 2 ∧ 3 < (fld g.w0 27 3).toNat then .error 0x05
    else if g.kind = 2 ∧ 0 < n ∧ basinBytes - (s.die (fld g.w0 27 3).toNat).size * 0x100000 < a + n then .error 0x05
    else if a % align ≠ 0 then .error 0x06
    else .ok a

/-- Where a checked access lies: the owning core of kinds 0 and 1, the die of kind 2. -/
def Seg.owner (g : Seg) (c : Nat) : Nat :=
  match g.kind with
  | 0 => c
  | 1 => (fld g.w0 48 12).toNat
  | 2 => (fld g.w0 27 3).toNat
  | _ => 0

-- Submitting a command (09 R176-R179) -----------------------------------------------------------------------------------------------

/-- One operand range of a command: the index of its offset's word, segment number, offset, bytes, rights, alignment, whether the
engine takes the segment's kind. -/
structure Range where
  word : Nat
  seg : Fin 8
  off : Word
  n : Nat
  need : BitVec 3
  align : Nat
  kinds : List Nat

/-- The element size of a gather or an all-reduce. -/
def elemSize (code : Nat) : Nat :=
  match code with
  | 0 => 1
  | 1 => 2
  | 2 => 4
  | 3 => 8
  | _ => 64
def collSize (typ : Nat) : Nat := if typ = 1 then 2 else 4

/-- A word of a block. -/
def blkWord (b : List Word) (i : Nat) : Word := nthD 0 b i

/-- Whether a block's opcode is one of the port's and its reserved fields are zero (R177, R178). DESIGN CHOICE (log entry 53): a Basin operation's
length that is no multiple of 64 counts as a reserved value. -/
def blockOk (p : Nat) (b : List Word) : Bool :=
  let w0 := blkWord b 0
  let w1 := blkWord b 1
  let w5 := blkWord b 5
  let op := (fld w0 56 8).toNat
  let common : Bool := (fld w0 50 6 : BitVec 6) == 0 && (fld w0 32 16 : BitVec 16) == 0
  let segs : Bool := w1 &&& ~~~(0x70707 : Word) == 0
  common && segs && (match p with
    | 0 => op == 0 && w5 == 0
    | 1 => decide (op ≤ 1) && decide ((fld w5 32 3).toNat ≤ 4) && (fld w5 35 29 : BitVec 29) == 0
    | 2 => op == 0 && decide ((fld w5 0 2).toNat ≤ 2) && decide ((fld w5 2 2).toNat ≤ 2) &&
        (fld w5 4 12 : BitVec 12) == 0 && (fld w5 32 32 : BitVec 32) == 0
    | _ => op == 0 && decide ((fld w5 0 4).toNat ≤ 5) && (fld w5 4 60 : BitVec 60) == 0 && (fld (blkWord b 4) 0 6 : BitVec 6) == 0)

/-- The operand ranges of a block, in table order (R178). -/
def blockRanges (p : Nat) (b : List Word) : List Range :=
  let w1 := blkWord b 1
  let sg (lo : Nat) : Fin 8 := f8 (fld w1 lo 3)
  let w5 := blkWord b 5
  let n := (blkWord b 4).toNat
  match p with
  | 0 => [⟨2, sg 0, blkWord b 2, n, needR, 1, [0, 2, 3]⟩, ⟨3, sg 8, blkWord b 3, n, needW, 1, [0, 2, 3]⟩]
  | 1 =>
    let c := (fld w5 0 32).toNat
    let z := elemSize (fld w5 32 3).toNat
    let gather : Bool := (fld (blkWord b 0) 56 8).toNat == 0
    [⟨2, sg 16, blkWord b 2, 4 * c, needR, 4, [0, 2, 3]⟩] ++
      (if gather then [⟨4, sg 8, blkWord b 4, c * z, needW, z, [0, 2, 3]⟩, ⟨3, sg 0, blkWord b 3, 0, needR, z, [0, 2, 3]⟩]
       else [⟨3, sg 0, blkWord b 3, c * z, needR, z, [0, 2, 3]⟩, ⟨4, sg 8, blkWord b 4, 0, needW, z, [0, 2, 3]⟩])
  | 2 =>
    let z := collSize (fld w5 0 2).toNat
    [⟨2, sg 0, blkWord b 2, n * z, needR, z, [3]⟩, ⟨3, sg 8, blkWord b 3, n * z, needW, z, [3]⟩]
  | _ => [⟨2, sg 0, blkWord b 2, n, needR, 64, [0, 2, 3]⟩, ⟨3, sg 8, blkWord b 3, n, needRW, 64, [2]⟩]

/-- The first range that fails: its cause and word. A kind the engine does not take traps 0x04. -/
def rangeFault (s : State) (t : Thread) : List Range → Option (Nat × Nat)
  | [] => none
  | r :: l =>
    let g := t.sg.get r.seg
    if 4 ≤ g.kind ∨ !(r.kinds.contains g.kind) then some (0x04, r.word)
    else match segCheck s g r.off.toNat r.n r.need r.align true with
      | .error c => some (c, r.word)
      | .ok _ => rangeFault s t l

/-- The places of a block's ranges: kind, die or core, address; packed as (kind, key). -/
def rangePlace (c : Nat) (t : Thread) (r : Range) : Nat × Nat :=
  let g := t.sg.get r.seg
  match g.kind with
  | 0 => (0, lsKey c ((fld g.w0 0 18).toNat + r.off.toNat))
  | 2 => (2, basinKey (fld g.w0 27 3).toNat ((fld g.w0 0 27).toNat + r.off.toNat))
  | _ => (3, (fld g.w0 0 52).toNat + r.off.toNat)

/-- The check of word 6 or word 7 as the key of a post: cause of the trap (R165, R179). -/
def addressFault (s : State) (w : Word) (align : Nat) : Option Nat :=
  if w = 0 then none
  else if (fld w 18 30 : BitVec 30) ≠ 0 ∨ !namesCore s (fld w 48 16) then some 0x05
  else if (fld w 0 18).toNat % align ≠ 0 then some 0x06 else none

/-- How a submission ends. -/
inductive Submission where
  | trap (cause : Nat) (word : Nat)
  | misuse
  | ok (c : Cmd)

/-- The checks of R179 on a block, and the command that it makes. -/
def submission (s : State) (p : Fin 4) (b : List Word) : Submission :=
  let t := s.me
  if !blockOk p.val b then .misuse
  else if 8 ≤ (t.ports.get p).out.length then .misuse
  else
    let rs := blockRanges p.val b
    match rangeFault s t rs with
    | some (c, w) => .trap c w
    | none =>
      match addressFault s (blkWord b 6) 64, addressFault s (blkWord b 7) 8 with
      | some c, _ => .trap c 6
      | none, some c => .trap c 7
      | none, none =>
        let x := (rs.map fun r => (t.sg.get r.seg).limit)
        .ok { id := 0, port := p.val, opcode := (fld (blkWord b 0) 56 8).toNat, core := s.core, slot := s.slot, helm := none,
              orphan := false, asid := asidOf s t s.slot, tag := t.tag, words := b, ranges := rs.map (rangePlace s.core t),
              limit := (match rs with
                | [_, _, r] => (t.sg.get r.seg).limit
                | _ => x.headD 0),
              started := false, done := [], parked := none, failAt := none, status := 0, refused := 0, rounds := 0, isCopy := false }

/-- The lowest of the numbers 0 to 3 that is not in a list. -/
def freeIndex (l : List Nat) : Nat := ((List.range 4).find? fun i => !l.contains i).getD 0

/-- Commands start in acceptance order while fewer than 4 are in progress (17 R279). used holds the indexes of those in progress. -/
def startCmds (used : List Nat) : List Cmd → List Cmd
  | [] => []
  | c :: l =>
    if c.started then c :: startCmds used l
    else if used.length < 4 then
      { c with started := true, index := freeIndex used } :: startCmds (freeIndex used :: used) l
    else c :: startCmds used l

/-- An engine that keeps up to 4 commands in progress. -/
def Engine.fill (x : Engine) : Engine :=
  { x with cmds := startCmds ((x.cmds.filter Cmd.started).map Cmd.index) x.cmds }

/-- An engine that takes a command as its newest. -/
def Engine.add (x : Engine) (c : Cmd) : Engine :=
  ({ x with cmds := x.cmds ++ [{ c with id := x.next }], next := x.next + 1 } : Engine).fill

/-- Accepts a command on an engine: it takes the next acceptance number, becomes outstanding for its slot, and counts as created
(09 R176, 16 R269). The wharf journals a collective (21 R322). -/
def State.accept (s : State) (c : Cmd) : State :=
  let e := portEngine c.core c.port
  let x := s.engine e
  let r : JRef × State := if c.port = 2 then
      journal s (taOf s c.core c.slot) jCollective stAccepted 0 c.tag [blkWord c.words 0, blkWord c.words 4, blkWord c.words 5]
    else ({}, s)
  let c := { c with id := x.next, since := s.mtime, j := r.1 }
  let s := r.2.setEngine e (x.add c)
  let t := s.thread c.core c.slot
  let p : Fin 4 := Fin.ofNat 4 c.port
  let y := t.ports.get p
  let s := s.setThread c.core c.slot (t.setPort p { y with out := y.out ++
    [{ cmd := c.id, element := bit (blkWord c.words 0) 48, bell := bit (blkWord c.words 0) 49, done := false }] })
  s.count c.core c.tag 1 0

/-- Whether an engine takes another command (17 R279). -/
def Engine.room (x : Engine) : Bool := decide (x.cmds.length < 64)

/-- The pc moves to an address, unless it moved when the operation began. -/
def State.move (s : State) (pc : Option Word) : State :=
  match pc with
  | some a => s.goTo a
  | none => s

/-- Submits a block, its instruction's pc then moving to an address: traps with the word at fault, waits while the engine is full, or
is accepted (R179). DESIGN CHOICE (log entry 61): trap 0x0C carries the port's number and zero, as R189 lists it. -/
def State.submit (s : State) (p : Fin 4) (b : List Word) (pc : Option Word) (clear : Bool) : State :=
  match submission s p b with
  | .misuse => s.trap 0x0C (BitVec.ofNat 64 p.val) 0
  | .trap c w => s.trap c (BitVec.ofNat 64 w) (blkWord b w)
  | .ok c =>
    let s := s.move pc
    let s := if clear then s.setMe (s.me.setPort p { s.me.ports.get p with staging := [] }) else s
    if (s.engine (portEngine s.core p.val)).room then s.accept c else s.remove (.engine c)

-- Writing a destination (02 R33, R35) ----------------------------------------------------------------------------------------------

/-- Writes a destination, the pc then moving to an address. A port takes the word into its staging buffer; the eighth word submits it
(R176). A queue that filled meanwhile blocks the thread with its value. -/
def State.finish (s : State) (d : Dst) (v : Word) (pc : Option Word) : State :=
  match d with
  | .g i => (s.setMe (s.me.setG i v)).move pc
  | .w i => (s.setMe (s.me.setW i v)).move pc
  | .q q =>
    if 16 ≤ (s.myCore.queue q).entries.length then (s.move pc).block (.queuePush q v)
    else (s.setMyCore (s.myCore.pushQueue q v)).move pc
  | .e p =>
    let y := s.me.ports.get p
    if y.staging.length < 7 then (s.setMe (s.me.setPort p { y with staging := y.staging ++ [v] })).move pc
    else s.submit p (y.staging ++ [v]) pc true

/-- Writes a destination and completes the instruction. -/
def State.result (s : State) (i : Instr) (d : Dst) (v : Word) : State := s.finish d v (some (nextPc s.me (lengthOf i)))

/-- The same state, with another thread as the one that executes. -/
def State.as (s : State) (c : Nat) (k : Fin 16) : State := { s with core := c, slot := k, iword := 0 }

/-- The thread's operation has completed: it meets the boundary that follows. -/
def State.settleDone (s : State) : State := s.settleThread s.core s.slot

/-- A Removed thread's operation completes with a result: the destination is written, then the boundary is reached. pc is none where the pc
moved when the operation began; a trap of a submission that the result completes (09 R179) then leaves it at the instruction, and reports that
instruction either way. -/
def State.complete (s : State) (d : Dst) (v : Word) (pc : Option Word) : State :=
  let t := s.me
  let s := { s with iword := t.issuedWord }
  match pc with
  | some _ => ((s.setMe { t with st := .runnable }).finish d v pc).settleDone
  | none =>
    let s := (s.setMe { t with st := .runnable, pc := t.issuedPc }).finish d v none
    match s.me.st with
    | .parked _ => s
    | _ => (s.setMe { s.me with pc := t.pc }).settleDone

/-- A Removed thread's operation completes and writes no scalar destination. -/
def State.completePc (s : State) (pc : Option Word) : State :=
  ((s.setMe { s.me with st := .runnable }).move pc).settleDone

end Sys2Proof.Machine
end

