-- ==== Sys2Proof/Machine/Translate.lean ====
section
/-! DEFINITION. Address translation: the walk, cached leaves, fault records, and bytes of every tier reached by a device virtual
address (13 R237-R246). -/

namespace Sys2Proof.Machine

open Sys2Proof

/-- What an access needs (R239, R243): its access kind is 0 read, 1 write, 2 atomic or bank operation, 3 fetch. -/
def leafRights (access : Nat) : BitVec 3 :=
  match access with
  | 0 => 1
  | 1 => 2
  | 2 => 3
  | _ => 4

/-- An entry's frame as a physical address, its type (R238). -/
def frameOf (e : Word) : Nat := (fld e 22 36).toNat * pageBytes
def typeOf (e : Word) : Nat := (fld e 0 2).toNat
def tierOf (e : Word) : Nat := (fld e 8 2).toNat
def keyOfLeaf (e : Word) : Nat := (fld e 10 12).toNat

/-- A table read: 8 bytes under key 0; a poisoned line is fault 5 (R239). -/
def tableRead (s : State) (a : Nat) : Except Nat Word :=
  if poisoned s a 8 then .error 5 else .ok (physWord s a)

/-- A table read at an address, with the address; none outside populated memory, which is fault 3. -/
def entryRead (s : State) (a : Nat) : Except Nat (Nat × Word) := do
  if !populated s a 8 then .error 3
  let e ← tableRead s a
  pure (a, e)

/-- Node(p, i) of R239: the address and value of entry i of the node that p points to. -/
def nodeRead (s : State) (p : Word) (i : Nat) : Except Nat (Nat × Word) :=
  if typeOf p = 1 then entryRead s (frameOf p + 8 * i)
  else if typeOf p = 2 then do
    let (_, d) ← entryRead s (frameOf p + 8 * (i / 512))
    if !bit d 0 then .error 1
    entryRead s ((fld d 12 40).toNat * 4096 + 8 * (i % 512))
  else .error 3

/-- Whether bits [21:2] of a table or split entry are set, which the walk tests after it has read the leaf (R239). -/
def tableBits (e : Word) : Bool := (fld e 2 20 : BitVec 20) != 0

/-- The tests that end a walk: tier, frame, the entries above (bad says whether one had bits set), in-lock, rights; the fault code, or
nothing. -/
def leafFault (s : State) (e : Word) (size access : Nat) (bad : Bool) : Option Nat :=
  let f := frameOf e
  if tierOf e = 3 ∨ bad then some 3
  else if !populated s f size then some 3
  else if tierOf e = 1 ∧ f < 0x40000000000 then some 3
  else if tierOf e ≠ 1 ∧ 0x40000000000 ≤ f then some 3
  else if bit e 7 then some 4
  else if leafRights access &&& ~~~(fld e 2 3) ≠ 0 then some 2
  else none

/-- The walk of R239 for a page: a fault code, or the leaf that it delivers. -/
def walk (s : State) (base : Nat) (asid dva access : Nat) : Except Nat Leaf := do
  let root ← tableRead s (base + 8 * asid)
  if typeOf root = 0 then .error 6
  let (a1, e1) ← nodeRead s root (dva / 2 ^ 34)
  if typeOf e1 = 3 then
    if frameOf e1 % 2 ^ 34 ≠ 0 then .error 3
    match leafFault s e1 (2 ^ 34) access (tableBits root) with
    | some c => .error c
    | none => pure { asid := asid, page := dva / 2 ^ 34 * 2 ^ 18, large := true, leaf := e1, entry := a1, dirty := bit e1 6 }
  else
    if typeOf e1 = 0 then .error 1
    let (a2, e2) ← nodeRead s e1 (dva / pageBytes % 2 ^ 18)
    if typeOf e2 = 0 then .error 1
    if typeOf e2 ≠ 3 then .error 3
    match leafFault s e2 pageBytes access (tableBits root || tableBits e1) with
    | some c => .error c
    | none => pure { asid := asid, page := dva / pageBytes, large := false, leaf := e2, entry := a2, dirty := bit e2 6 }

/-- The address-space table that a die's CTUs use (R237). -/
def asTable (s : State) (d : Nat) : Nat := (s.die d).asBase.toNat

-- Cached leaves (R240, R241) ---------------------------------------------------------------------------------------------------

/-- Whether a cached leaf maps a page of an address space. -/
def Leaf.maps (l : Leaf) (asid page : Nat) : Bool :=
  l.asid == asid && (if l.large then l.page / 2 ^ 18 == page / 2 ^ 18 else l.page == page)

/-- The physical address that a leaf gives. -/
def Leaf.pa (l : Leaf) (dva : Nat) : Nat := frameOf l.leaf + (if l.large then dva % 2 ^ 34 else dva % pageBytes)

/-- The cached leaf of a page. -/
def findLeaf (s : State) (cl asid page : Nat) : Option Leaf := (s.cluster cl).leaves.find? fun l => l.maps asid page

/-- A CTU takes a leaf; beyond 2,048 level-2 and 64 level-1 leaves it drops its oldest (R241; log entry 27). -/
def Cluster.cache (x : Cluster) (l : Leaf) : Cluster :=
  let others := x.leaves.filter fun m => m.large != l.large
  let same := (x.leaves.filter fun m => m.large == l.large).take (if l.large then 63 else 2047)
  { x with leaves := l :: (same ++ others) }

/-- Sets a bit of an entry at its home by an atomic OR (R240). -/
def orEntry (s : State) (a : Nat) (w : Word) : State := setPhysWord s a (physWord s a ||| w)

/-- A walk delivers a leaf: accessed is set if it was clear, and the CTU caches the leaf. -/
def deliver (s : State) (cl : Nat) (l : Leaf) : State :=
  let s := if bit l.leaf 5 then s else orEntry s l.entry 0x20
  s.setCluster cl ((s.cluster cl).cache l)

/-- The state of one page for an access: the leaf is cached and grants it, no leaf is cached, or it faults. -/
inductive Look where
  | hit (l : Leaf)
  | miss
  | fault (code : Nat)

/-- Looks a page up in a CTU. -/
def look (s : State) (cl asid page access : Nat) : Look :=
  match findLeaf s cl asid page with
  | none => .miss
  | some l => if leafRights access &&& ~~~(fld l.leaf 2 3) ≠ 0 then .fault 2 else .hit l

/-- The pages of a range, ascending. -/
def pagesOf (a n : Nat) : List Nat :=
  if n = 0 then [] else (List.range ((a + n - 1) / pageBytes - a / pageBytes + 1)).map fun i => a / pageBytes + i

/-- The first page of a range that does not hit: none when every page hits (R244). -/
def firstBad (s : State) (cl asid access : Nat) : List Nat → Option (Nat × Option Nat)
  | [] => none
  | p :: l =>
    match look s cl asid p access with
    | .hit _ => firstBad s cl asid access l
    | .miss => some (p, none)
    | .fault c => some (p, some c)

-- Bytes of kind 3 ------------------------------------------------------------------------------------------------------------------

/-- The leaf by which an access whose pages were found reaches a page: the cached one, or the table's where a later page of the same access
made the CTU drop it (log entry 27). -/
def pageLeaf (s : State) (cl asid page : Nat) : Option Leaf :=
  match findLeaf s cl asid page with
  | some l => some l
  | none =>
    let w (access : Nat) := (walk s (asTable s (cl / 32)) asid (page * pageBytes) access).toOption
    (w 0).or ((w 1).or (w 3))

/-- The first write through a cached translation whose dirty bit is clear sets dirty at the entry's home and in the copy (R240). -/
def setDirty (s : State) (cl asid page : Nat) : State :=
  match pageLeaf s cl asid page with
  | none => s
  | some l =>
    if l.dirty then s
    else
      let s := orEntry s l.entry 0x40
      let x := s.cluster cl
      s.setCluster cl { x with leaves := x.leaves.map fun m => if m.maps asid page then { m with dirty := true } else m }

/-- Sets dirty for each page of a list. -/
def setDirtyAll (s : State) (cl asid : Nat) : List Nat → State
  | [] => s
  | p :: l => setDirtyAll (setDirty s cl asid p) cl asid l

/-- The home-side cache of an HBM line's die looks a line up: a hit or a miss is counted (R234; log entry 28). -/
def cacheLine (s : State) (pa g : Nat) : State :=
  let d := dieOfKey pa
  let x := s.die d
  if x.size = 0 then s
  else if SMap.find x.held (pa / 64) = some g then s.setDie d { x with hits := x.hits + 1 }
  else
    let held := SMap.set x.held (pa / 64) g
    s.setDie d { x with misses := x.misses + 1, held := if x.size * 16384 < held.length then held.tail else held }

/-- The lines that a range touches, as a count from its first. -/
def lineCount (a n : Nat) : Nat := if n = 0 then 0 else (a + n - 1) / 64 - a / 64 + 1

/-- An access at the home of a line that the home-side cache of its die holds goes through that cache (13 R234); one of another line does not
bring it in, since only pages of tier 2 are cached. -/
def homeLine (s : State) (g l : Nat) : State :=
  if l * 64 < 0x30000000000 && (SMap.find (s.die (dieOfKey (l * 64))).held l).isSome then cacheLine s (l * 64) g else s

/-- Accesses at the homes of a range of lines. -/
def homeLines (s : State) (g a n : Nat) : State := iter (fun i s => homeLine s g (a / 64 + i)) (lineCount a n) s

/-- The lines of a physical range that a leaf maps are looked up: a page of tier 2 is cached. -/
def leafLines (s : State) (l : Leaf) (pa n : Nat) : State :=
  let g := keyGen s (keyOfLeaf l.leaf)
  if tierOf l.leaf = 2 then iter (fun i s => cacheLine s (pa + 64 * i) g) (lineCount pa n) s else homeLines s g pa n

/-- Whether a leaf names tier 2 on a die whose home-side cache is being flushed: accesses to the page wait (13 R234). -/
def leafBusy (s : State) (l : Leaf) (pa : Nat) : Bool := tierOf l.leaf == 2 && (s.die (dieOfKey pa)).busy

/-- The pieces of a range of DVAs, page by page: leaf, physical address, bytes. -/
def pieces (s : State) (cl asid a n : Nat) : List (Leaf × Nat × Nat) :=
  (pagesOf a n).filterMap fun p =>
    match pageLeaf s cl asid p with
    | none => none
    | some l =>
      let lo := max a (p * pageBytes)
      let hi := min (a + n) ((p + 1) * pageBytes)
      some (l, l.pa lo, hi - lo)

/-- The pieces of n bytes from an offset of a list of pieces. -/
def cutPieces : List (Leaf × Nat × Nat) → Nat → Nat → List (Leaf × Nat × Nat)
  | [], _, _ => []
  | (l, a, m) :: ps, off, n =>
    if n = 0 then []
    else if m ≤ off then cutPieces ps (off - m) n
    else (l, a + off, min n (m - off)) :: cutPieces ps 0 (n - min n (m - off))

/-- The bytes of pieces. -/
def piecesBytes (s : State) (ps : List (Leaf × Nat × Nat)) : List Byte :=
  ps.flatMap fun p => physRead s (keyGen s (keyOfLeaf p.1.leaf)) p.2.1 p.2.2

/-- The bytes of a range whose pages all hit. -/
def dvaBytes (s : State) (cl asid a n : Nat) : List Byte := piecesBytes s (pieces s cl asid a n)

/-- Whether a line of a range whose pages all hit is poisoned. -/
def dvaPoisoned (s : State) (cl asid a n : Nat) : Bool :=
  (pieces s cl asid a n).any fun p => poisoned s p.2.1 p.2.2

/-- Looks pieces up in the home-side caches. -/
def dvaTouch (s : State) : List (Leaf × Nat × Nat) → State
  | [] => s
  | (l, a, n) :: ps => dvaTouch (leafLines s l a n) ps

/-- Writes the pieces of a range. -/
def writePieces (s : State) : List (Leaf × Nat × Nat) → List Byte → State
  | [], _ => s
  | (l, a, n) :: ps, bs => writePieces (physWrite s (keyGen s (keyOfLeaf l.leaf)) a (bs.take n)) ps (bs.drop n)

/-- Writes a range whose pages all hit; the home-side cache is told apart. -/
def dvaPut (s : State) (cl asid a : Nat) (bs : List Byte) : State :=
  let ps := pieces s cl asid a bs.length
  writePieces (setDirtyAll s cl asid (pagesOf a bs.length)) ps bs

/-- Writes a range whose pages all hit, an access of its own for the home-side cache. -/
def dvaWrite (s : State) (cl asid a : Nat) (bs : List Byte) : State :=
  dvaPut (dvaTouch s (pieces s cl asid a bs.length)) cl asid a bs

/-- Whether any leaf of some pieces names tier 2 on a die whose home-side cache is being flushed: the access waits (R234). -/
def piecesBusy (s : State) (ps : List (Leaf × Nat × Nat)) : Bool :=
  ps.any fun p => leafBusy s p.1 p.2.1
def dvaBusy (s : State) (cl asid a n : Nat) : Bool := piecesBusy s (pieces s cl asid a n)

-- Fault records (R243, R244) ---------------------------------------------------------------------------------------------------------

/-- A waiter field: TA, engine bit, port, index (R243). -/
def waiterField (ta : BitVec 20) (engine : Bool) (port index : Nat) : BitVec 25 :=
  BitVec.ofNat 2 index ++ BitVec.ofNat 2 port ++ BitVec.ofBool engine ++ ta

/-- Posts a fault record to the pager of a cluster. -/
def postFault (s : State) (sender pager asid code access dva : Nat) (w : BitVec 25) (tag : Half) : State :=
  let key : Word := (0 : BitVec 12) ++ BitVec.ofNat 16 asid ++ BitVec.ofNat 36 (dva / pageBytes)
  let w0 : Word := BitVec.ofNat 4 code ++ BitVec.ofNat 2 access ++ (0 : BitVec 2) ++ (1 : BitVec 4) ++ BitVec.ofNat 52 dva
  s.post sender (mkRec (coreTa (coreAddress s pager)) kF 10 tag key ([w0, w.setWidth 64] ++ List.replicate 6 0))

/-- A thread's access or fetch faults: in slot 1 it traps 0x0E at once; elsewhere the thread parks and a fault record goes to its
cluster's pager (R232, R243). acc is the access with whether it was relaxed, or none for a fetch and for an image; word is the word of the
instruction whose image it is, zero for a fetch. -/
def State.faultThread (s : State) (c : Nat) (k : Fin 16) (code access dva : Nat) (acc : Option (Bool × Access)) (word : W32) : State :=
  let t := s.thread c k
  if k.val = 1 then
    match acc with
    | some (_, a) => s.trapThread c k 0x0E a.iword a.pc (BitVec.ofNat 64 dva) 0
    | none => s.trapThread c k 0x0E word t.pc (BitVec.ofNat 64 dva) 0
  else
    let s := s.setThread c k { t with st := .parked { fault := some (code, dva), acc := acc, iword := word } }
    postFault s (senderCtu (clusterOf c)) (pagerOf c) (asidOf s t k) code access dva (waiterField (taOf s c k) false 0 0) t.tag

end Sys2Proof.Machine
end

