-- ==== Sys2Proof/Machine/Alloc.lean ====
section
/-! DEFINITION. Accesses that devices translate for themselves (launch unit, allocators, helm pounds: 13 R239, 17 R291, 19 R306), and
the allocator engine's pools (09 R186, 17 R290, R291). -/

namespace Sys2Proof.Machine

open Sys2Proof

-- Walked accesses ----------------------------------------------------------------------------------------------------------

/-- Translates one address by a fresh walk of the table that a die names; a delivered leaf has its accessed bit set, and its dirty
bit for a write (R240). -/
def walked (s : State) (d asid dva access : Nat) : Except Nat (Leaf × State) := do
  let l ← walk s (asTable s d) asid dva access
  let s := if bit l.leaf 5 then s else orEntry s l.entry 0x20
  let s := if access ≠ 0 ∧ access ≠ 3 ∧ !l.dirty then orEntry s l.entry 0x40 else s
  pure (l, s)

/-- Reads an aligned word by a fresh walk; poison reads as fault 5, though the leaf was delivered. -/
def walkWord (s : State) (d asid dva : Nat) : Except Nat Word × State :=
  match walked s d asid dva 0 with
  | .error c => (.error c, s)
  | .ok (l, s) =>
    if poisoned s (l.pa dva) 8 then (.error 5, s)
    else (.ok (BitVec.ofNat 64 (bytesNat (physRead s (keyGen s (keyOfLeaf l.leaf)) (l.pa dva) 8))), leafLines s l (l.pa dva) 8)

/-- Writes an aligned word by a fresh walk. -/
def walkSetWord (s : State) (d asid dva : Nat) (w : Word) : Except Nat State := do
  let (l, s) ← walked s d asid dva 1
  pure (physWrite (leafLines s l (l.pa dva) 8) (keyGen s (keyOfLeaf l.leaf)) (l.pa dva) (natBytes 8 w.toNat))

/-- Whether a walked access waits for the flush of a home-side cache (13 R234). -/
def walkBusy (s : State) (d asid dva access : Nat) : Bool :=
  match walk s (asTable s d) asid dva access with
  | .ok l => leafBusy s l (l.pa dva)
  | .error _ => false

-- Pools (17 R290) --------------------------------------------------------------------------------------------------------------

/-- A pool of a die as the allocator holds it. -/
def getPool (s : State) (d p : Nat) : Pool := SMap.getD (s.die d).pools p {}
/-- Sets a pool of a die. -/
def setPool (s : State) (d p : Nat) (x : Pool) : State := s.setDie d { s.die d with pools := SMap.set (s.die d).pools p x }

/-- A translation fault in a refill or spill disables the pool and fires source 65 (R291). -/
def disablePool (s : State) (d p : Nat) : State := fire (setPool s d p { getPool s d p with enabled := false }) 65

/-- The head of a pool's memory list: kept on chip and in word 3 of the pool's entry (R290; log entry 30). -/
def setHead (s : State) (d p a : Nat) : State :=
  rawWrite (setPool s d p { getPool s d p with head := a }) (basinKey d ((s.die d).allocBase.toNat + 32 * p + 24)) (natBytes 8 a)

/-- Links one block onto the head of the memory list, writing word 0 of the block (R290, R291). -/
def linkBlock (s : State) (d p a : Nat) : Except Nat State := do
  let x := getPool s d p
  let s ← walkSetWord s d x.asid a (BitVec.ofNat 64 x.head)
  pure (setHead s d p a)

/-- Links blocks one at a time, in order, each onto the head. -/
def linkBlocks (s : State) (d p : Nat) : List Nat → State
  | [] => s
  | a :: l =>
    match linkBlock s d p a with
    | .ok s => linkBlocks s d p l
    | .error _ => disablePool s d p

/-- Pops up to n blocks from the head of the memory list, one at a time; each becomes the newest held address (R291). -/
def popBlocks (s : State) (d p : Nat) : Nat → State
  | 0 => s
  | n + 1 =>
    let x := getPool s d p
    if x.head = 0 ∨ 16 ≤ x.held.length ∨ walkBusy s d x.asid x.head 0 then s
    else match walkWord s d x.asid x.head with
      | (.ok w, s) => popBlocks (setHead (setPool s d p { x with held := x.held ++ [x.head] }) d p (fld w 0 52).toNat) d p n
      | (.error _, s) => disablePool s d p

/-- A refill: when fewer than 4 addresses are held and the list is not empty (R291). -/
def refill (s : State) (d p : Nat) : State :=
  let x := getPool s d p
  if x.enabled && decide (x.held.length < 4) then popBlocks s d p 8 else s

/-- A spill: when more than 12 are held, the 8 oldest are linked onto the list (R291). -/
def spillPool (s : State) (d p : Nat) : State :=
  let x := getPool s d p
  if x.enabled && decide (12 < x.held.length) && !(x.held.take 8).any (fun a => walkBusy s d x.asid a 1) then linkBlocks (setPool s d p { x with held := x.held.drop 8 }) d p (x.held.take 8)
  else s

/-- Whether an address is a block of an enabled pool (R290). -/
def blockOf (x : Pool) (a : Nat) : Bool :=
  x.enabled && decide (x.base ≤ a ∧ a < x.base + x.count * x.size ∧ (a - x.base) % x.size = 0)

/-- Frees a block: it becomes the newest held address (R291). -/
def poolFree (s : State) (d p a : Nat) : State :=
  let x := getPool s d p
  setPool s d p { x with held := x.held ++ [a] }

/-- Takes the newest held address. -/
def poolTake (s : State) (d p : Nat) : Nat × State :=
  let x := getPool s d p
  match x.held.getLast? with
  | none => (0, s)
  | some a => (a, setPool s d p { x with held := x.held.dropLast })

/-- An alloc that is answered at once, its refill with it: the newest held address, or zero (R291). -/
def poolAllocNow (s : State) (d p : Nat) : Nat × State :=
  if !(getPool s d p).enabled then (0, s)
  else
    let s := if (getPool s d p).held.isEmpty then refill s d p else s
    poolTake s d p

/-- A free that is taken at once, its spill with it. An address that is no block of the pool frees nothing (log entry 23). -/
def poolFreeNow (s : State) (d p a : Nat) : State := if blockOf (getPool s d p) a then spillPool (poolFree s d p a) d p else s

/-- Whether the reload of a pool waits for the flush of a home-side cache. -/
def reloadBusy (s : State) (d p : Nat) : Bool := (getPool s d p).held.any fun a => walkBusy s d (getPool s d p).asid a 1

/-- Whether an alloc waits: no address is held, the list is not empty, and its head waits for the flush of a home-side cache. -/
def allocBusy (s : State) (d p : Nat) : Bool :=
  let x := getPool s d p
  x.enabled && x.held.isEmpty && x.head != 0 && walkBusy s d x.asid x.head 0

/-- The reload of a pool: its held blocks go back onto the list at word 3, oldest first, then the entry is read (R290). -/
def reloadPool (s : State) (d p : Nat) : State :=
  let x := getPool s d p
  let a := (s.die d).allocBase.toNat + 32 * p
  let s := linkBlocks (setPool s d p { x with held := [], head := (fld (basinWord s d (a + 24)) 0 52).toNat }) d p x.held
  let w0 := basinWord s d a
  let w1 := basinWord s d (a + 8)
  let w2 := basinWord s d (a + 16)
  let w3 := basinWord s d (a + 24)
  setPool s d p { base := (fld w0 0 52).toNat, count := (fld w1 32 32).toNat, size := (fld w1 0 24).toNat,
                  asid := (fld w2 48 16).toNat, enabled := bit w2 0, head := (fld w3 0 52).toNat, held := [] }

end Sys2Proof.Machine
end

