-- ==== Sys2Proof/Machine/HelmBase.lean ====
section
/-! DEFINITION. A helm hart's registers, and its memory accesses, coherent with the helm caches (19 R299-R303, 14 R258). -/

namespace Sys2Proof.Machine

open Sys2Proof

/-- An integer register; x0 reads zero (RVA23, 19 R299). -/
def Hart.getX (x : Hart) (r : Fin 32) : Word := if r = 0 then 0 else x.x.get r
/-- Writes an integer register; x0 discards. -/
def Hart.setX (x : Hart) (r : Fin 32) (v : Word) : Hart := if r = 0 then x else { x with x := x.x.set r.val v r.isLt }
/-- The hart whose instruction executes. -/
def State.myHart (s : State) : Hart := s.getHart s.hart.val
/-- Sets the hart whose instruction executes. -/
def State.setMyHart (s : State) (x : Hart) : State := s.setHart s.hart.val x

/-- The key generation of a hart's accesses: key 0 in M mode, hkey below it (19 R302). -/
def helmGen (s : State) (h : Nat) : Nat :=
  match (s.getHart h).mode with
  | .m => keyGen s 0
  | _ => keyGen s (s.getHart h).hkey.toNat

/-- The key generation of the Sweiq engine's accesses: always hkey (R302). -/
def swqGen' (s : State) (h : Nat) : Nat := keyGen s (s.getHart h).hkey.toNat

/-- Main memory of the helm map: the HBM and second-tier windows (R300). -/
def isMain (a : Nat) : Bool := decide (a < 0x30000000000 ∨ (0x40000000000 ≤ a ∧ a < 0x70000000000))
/-- The Basin windows of the helm map. -/
def isBasin (a : Nat) : Bool := decide (basinBase ≤ a ∧ a < basinBase + 4 * basinBytes)
/-- The device registers, by block. -/
def isRegister (a : Nat) : Bool := decide (0x7C000000000 ≤ a ∧ a < 0x7C000050000)
/-- The other I/O ranges of R300: ECAM, port windows, IMSIC files, APLIC, MTIMER. -/
def isOtherIo (a : Nat) : Bool :=
  decide ((0x78000000000 ≤ a ∧ a < 0x78020000000) ∨ (0x7A000000000 ≤ a ∧ a < 0x7A800000000)
    ∨ (0x7C100000000 ≤ a ∧ a < 0x7C100200000) ∨ (0x7C200000000 ≤ a ∧ a < 0x7C201008000))

-- The helm caches (19 R299) -----------------------------------------------------------------------------------------------------

/-- Reads and writes at the home, under a key generation. -/
def helmHomeRead (s : State) (g a n : Nat) : List Byte × State := (physRead s g a n, homeLines s g a n)
def helmHomeWrite (s : State) (g a : Nat) (bs : List Byte) : State := physWrite (homeLines s g a bs.length) g a bs

/-- A held line reaches its home, with its poison, which is no new mark (21 R320). -/
def lineHome (s : State) (l : Nat) (x : HelmLine) : State :=
  let s := helmHomeWrite s x.gen (l * 64) (natBytes 64 x.bytes.toNat)
  if x.poison then { s with poison := insertNat s.poison l } else s

/-- Writes a held line back to its home and drops it. -/
def dropLine (s : State) (l : Nat) : State :=
  match SMap.find s.helmCache l with
  | none => s
  | some x =>
    let s := { s with helmCache := SMap.erase s.helmCache l }
    if x.dirty then lineHome s l x else s

/-- Writes a held line back and keeps it clean. -/
def cleanLine (s : State) (l : Nat) : State :=
  match SMap.find s.helmCache l with
  | none => s
  | some x => if x.dirty then lineHome { s with helmCache := SMap.set s.helmCache l { x with dirty := false } } l x else s

/-- Fetches a line from its home, with its poison, under a key generation. -/
def fetchLine (s : State) (g l : Nat) : State :=
  let r := helmHomeRead s g (l * 64) 64
  { r.2 with helmCache := SMap.set r.2.helmCache l { bytes := lineVec r.1, dirty := false, gen := g, poison := s.poison.contains l } }

/-- Brings a line into the helm caches under a key generation. -/
def takeLine (s : State) (g l : Nat) : State :=
  match SMap.find s.helmCache l with
  | some x => if x.gen = g then s else fetchLine (dropLine s l) g l
  | none => fetchLine s g l

/-- Whether a line reads as poisoned to a helm agent: as held, or at its home. -/
def linePoison (s : State) (l : Nat) : Bool :=
  match SMap.find s.helmCache l with
  | some x => x.poison
  | none => s.poison.contains l

/-- Whether a read through the helm caches, or at the home, meets poison (21 R320). -/
def meetsPoison (s : State) (cached : Bool) (a n : Nat) : Bool :=
  if cached then (List.range (lineCount a n)).any fun i => linePoison s (a / 64 + i) else poisoned s a n

/-- Drops the held lines of a range that were taken under another key generation. -/
def syncLines (s : State) (g a n : Nat) : State :=
  iter (fun i s => match SMap.find s.helmCache (a / 64 + i) with
    | some x => if x.gen = g then s else dropLine s (a / 64 + i)
    | none => s) (lineCount a n) s

/-- A byte as the helm agents see it: from a held line, or from its home. -/
def helmByte (s : State) (g a : Nat) : Byte :=
  match SMap.find s.helmCache (a / 64) with
  | some x => lane 8 x.bytes (a % 64)
  | none => physByte s g a

/-- Bytes as the helm agents see them. -/
def helmRead (s : State) (g a : Nat) : Nat → List Byte
  | 0 => []
  | n + 1 => helmByte s g a :: helmRead s g (a + 1) n

/-- Accesses at the homes of the lines of a range that the helm caches do not hold. -/
def openLines (s : State) (g a n : Nat) : State :=
  iter (fun i s => if (SMap.find s.helmCache (a / 64 + i)).isSome then s else homeLine s g (a / 64 + i)) (lineCount a n) s

/-- A read as a helm agent sees it, and the state after it. -/
def helmSee (s : State) (g a n : Nat) : List Byte × State :=
  let s := syncLines s g a n
  (helmRead s g a n, openLines s g a n)

/-- Writes bytes of one line coherently with the helm caches: into the held line, which is poisoned no more if it is written whole (21 R320), or at
its home. -/
def helmPutLine (s : State) (g a : Nat) (bs : List Byte) : State :=
  match SMap.find s.helmCache (a / 64) with
  | some x =>
    let v : BitVec (8 * bs.length) := BitVec.ofNat _ (bytesNat bs)
    let y := { x with bytes := setFld x.bytes (8 * (a % 64)) v, dirty := true, poison := x.poison && bs.length != 64 }
    { s with helmCache := SMap.set s.helmCache (a / 64) y }
  | none => physWrite s g a bs

/-- Writes bytes line by line; the last argument is the number of lines. -/
def helmPut (s : State) (g a : Nat) (bs : List Byte) : Nat → State
  | 0 => s
  | n + 1 =>
    let k := 64 - a % 64
    helmPut (helmPutLine s g a (bs.take k)) g (a + k) (bs.drop k) n

/-- Whether a write touches a hart's reservation. -/
def Hart.hitBy (x : Hart) (a n : Nat) : Bool :=
  match x.reserved with
  | some l => decide (a / 64 ≤ l ∧ l * 64 < a + n)
  | none => false

/-- A write by a helm agent ends the reservations of its lines (RVA23, 19 R299; log entry 10). -/
def dropReserved (s : State) (a n : Nat) : State :=
  if s.harts.any fun p => p.2.hitBy a n then
    { s with harts := s.harts.map fun p => (p.1, if p.2.hitBy a n then { p.2 with reserved := none } else p.2) }
  else s

/-- Writes bytes coherently with the helm caches. -/
def helmWrite (s : State) (g a : Nat) (bs : List Byte) : State :=
  let s := openLines (dropReserved (syncLines s g a bs.length) a bs.length) g a bs.length
  helmPut s g a bs (lineCount a bs.length)

/-- A word as the helm agents see it. -/
def helmWord (s : State) (g a : Nat) : Word := BitVec.ofNat 64 (bytesNat (helmRead (syncLines s g a 8) g a 8))

end Sys2Proof.Machine
end

