-- ==== Sys2Proof/Machine/Flags.lean ====
section
/-! DEFINITION. Operating widths, conditions and the way a result is extended. The part keeps no flags: a condition is evaluated where
it is used (04 R77, R80, R89). -/

namespace Sys2Proof.Machine

open Sys2Proof

/-- The operating width in bits (R77). -/
def Width.bits : Width → Nat
  | .x64 => 64
  | .x32 => 32
  | .x16 => 16
  | .x8 => 8

/-- S(v): the low w bits as a signed integer. -/
def signedOf (w : Nat) (v : Word) : Int := sval w v.toNat
/-- U(v): the low w bits as an unsigned integer. -/
def unsignedOf (w : Nat) (v : Word) : Nat := v.toNat % 2 ^ w

/-- The result of an instruction that sign-extends (R77). -/
def resultS (w : Nat) (v : Word) : Word := sext64 w v
/-- The result of an instruction that zero-extends (R77). -/
def resultZ (w : Nat) (v : Word) : Word := zext64 w v

/-- A condition at a width (R80). -/
def condHolds (cc : Cond) (w : Nat) (a b : Word) : Bool :=
  match cc with
  | .eq => unsignedOf w a == unsignedOf w b
  | .ne => unsignedOf w a != unsignedOf w b
  | .ltI => decide (signedOf w a < signedOf w b)
  | .geI => decide (signedOf w b ≤ signedOf w a)
  | .ltN => decide (unsignedOf w a < unsignedOf w b)
  | .geN => decide (unsignedOf w b ≤ unsignedOf w a)

/-- An instruction that reads a and b at its width and writes one result; z says whether the result zero-extends. -/
def binary (i : Instr) (d : Dst) (a b : Src) (w : Width) (z : Bool) (f : Nat → Word → Word → Word) (s : State) : State :=
  s.gated i fun s =>
    let (x, s) := s.read a
    let (y, s) := s.read b
    let v := f (Width.bits w) x y
    s.result i d (if z then resultZ (Width.bits w) v else resultS (Width.bits w) v)

/-- An instruction that reads a at its width and writes one result. -/
def unary (i : Instr) (d : Dst) (a : Src) (w : Width) (z : Bool) (f : Nat → Word → Word) (s : State) : State :=
  s.gated i fun s =>
    let (x, s) := s.read a
    let v := f (Width.bits w) x
    s.result i d (if z then resultZ (Width.bits w) v else resultS (Width.bits w) v)

/-- An instruction that reads its destination first, then a and b (R35). -/
def ternary (i : Instr) (d : Dst) (a b : Src) (w : Width) (f : Nat → Word → Word → Word → Word) (s : State) : State :=
  s.gated i fun s =>
    let (c, s) := s.read d.asSrc
    let (x, s) := s.read a
    let (y, s) := s.read b
    s.result i d (resultS (Width.bits w) (f (Width.bits w) c x y))

end Sys2Proof.Machine
end

