-- ==== Sys2Proof/Machine/Lifecycle.lean ====
section
/-! DEFINITION. What outlives an instruction: groups and tows (01 R24-R29, 08 R167-R171), the end of a thread (01 R9, 08 R159), aborts
(08 R162) and fencing (13 R248, 21 R331). -/

namespace Sys2Proof.Machine

open Sys2Proof

/-- Runs an operation for another thread than the one that executes. -/
def State.onThread (s : State) (c : Nat) (k : Fin 16) (f : State → State) : State :=
  { f (s.as c k) with core := s.core, slot := s.slot, iword := s.iword }

/-- The slot that ksl selects. -/
def Core.selected (x : Core) : Fin 16 := ⟨x.ksl.toNat, x.ksl.isLt⟩

/-- Whether every relaxed access of a thread is complete: performed, or failed for good; none waits for the pager (09 R196). -/
def Thread.quiet (t : Thread) : Bool := t.relaxed.all fun r => r.poison || r.status.isSome || r.denied

/-- A keeper that waits in kfence goes on once the selected thread's relaxed accesses are complete. -/
def State.keeperFence (s : State) (c : Nat) : State :=
  match (s.thread c 0).st with
  | .removed .kfence =>
    if (s.thread c (s.getCore c).selected).quiet then s.onThread c 0 fun s => s.completePc none else s
  | _ => s

-- Tow and groups that outlive a thread (01 R25, R28) ----------------------------------------------------------------------------

/-- A group id of R24 that names a group: its die and entry. -/
def groupOf (g : Half) : Option (Nat × Nat) :=
  if bit g 15 || decide (4 ≤ (fld g 12 3).toNat) then none else some ((fld g 12 3).toNat, (fld g 0 12).toNat)

/-- A group entry. -/
def State.group (s : State) (g : Half) : Group := SMap.getD (s.die (fld g 12 3).toNat).groups (fld g 0 12).toNat {}
/-- Sets a group entry. -/
def State.setGroup (s : State) (g : Half) (x : Group) : State :=
  let d := s.die (fld g 12 3).toNat
  s.setDie (fld g 12 3).toNat { d with groups := SMap.set d.groups (fld g 0 12).toNat x }

/-- An arrival in the current round. The first of a round starts the barrier watchdog (R25, 16 R276). -/
def Group.arrive (x : Group) (ta : Nat) : Group :=
  if x.roundOf.contains ta && !x.arrived.contains ta then
    { x with
      arrived := ta :: x.arrived
      dog := if x.arrived.isEmpty then 0 else x.dog
      dogOn := x.dogOn || x.arrived.isEmpty }
  else x

/-- A group after a member leaves: the leave counts as its arrival in the current round (R25). -/
def Group.leave (x : Group) (ta : Nat) : Group :=
  let x := x.arrive ta
  { x with members := x.members.filter (· != ta), pending := x.pending.filter (· != ta), blocked := x.blocked.filter (· != ta) }

/-- A thread as groups name it: TA[15:0], and 2^16 more while it is saved (09 R193, R30). -/
def savedNum (ta : Nat) : Nat := ta + 65536

/-- A name replaced in a list. -/
def renameIn (a b : Nat) (l : List Nat) : List Nat := l.map fun x => if x = a then b else x

/-- A group in which a thread is named anew. -/
def Group.rename (x : Group) (a b : Nat) : Group :=
  { x with members := renameIn a b x.members, pending := renameIn a b x.pending, roundOf := renameIn a b x.roundOf,
           arrived := renameIn a b x.arrived, blocked := renameIn a b x.blocked }

/-- Every group names a thread anew. -/
def State.renameInGroups (s : State) (a b : Nat) : State :=
  { s with dies := s.dies.map fun p => (p.1, { p.2 with groups := p.2.groups.map fun q => (q.1, q.2.rename a b) }) }

/-- A die whose groups a thread has left. -/
def Die.leaveAll (d : Die) (ta : Nat) : Die :=
  { d with groups := d.groups.map fun p => (p.1, p.2.leave ta) }

/-- A thread leaves every group. -/
def State.leaveGroups (s : State) (ta : Nat) : State :=
  { s with dies := s.dies.map fun p => (p.1, p.2.leaveAll ta) }

/-- Whether an instruction is still on the forwarding ring for a slot (01 R26). -/
def onRing (s : State) (c : Nat) (k : Fin 16) : Bool := s.ring.any fun f => f.core == c && f.slot == k

/-- The slots of a cluster. -/
def clusterSlots (cl : Nat) : List (Nat × Fin 16) :=
  (List.range 256).map fun i => (coreIn cl (i / 16), Fin.ofNat 16 i)

/-- The butties of a tow: all lie in the motor's cluster (01 R26). -/
def butties (s : State) (gid : Half) : List Nat :=
  ((clusterSlots (clusterOf ((s.group gid).motor / 16))).filter fun p => (s.thread p.1 p.2).tow == .butty gid).map
    fun p => taNum p.1 p.2

/-- The butties of a dissolved tow drain what they have and what is on the ring for them (08 R169). -/
def State.freeButties (s : State) (gid : Half) : List Nat → State
  | [] => s
  | ta :: l =>
    let c := ta / 16
    let k := Fin.ofNat 16 ta
    State.freeButties (s.setThread c k { s.thread c k with tow := .draining gid }) gid l

/-- A moor of a thread that does not execute completes with a status (R29, R170). -/
def State.moorDone (s : State) (c : Nat) (k : Fin 16) (d : Dst) (len : Nat) (v : Word) : State :=
  s.onThread c k fun s => s.complete d v (some (nextPc s.me len))

/-- The members of a list that are Blocked in moor on a group, unless they lie in a cluster, run on with status 0 (R29, R170). -/
def State.moorAway (s : State) (gid : Half) (but : Option Nat) : List Nat → State
  | [] => s
  | ta :: l =>
    let c := ta / 16
    let k := Fin.ofNat 16 ta
    let s := match (s.thread c k).st with
      | .blocked (.moor g d len) => if g = gid ∧ but ≠ some (clusterOf c) then s.moorDone c k d len 0 else s
      | _ => s
    State.moorAway s gid but l

/-- A tow dissolves: its group's state becomes dissolved, each butty drains its buffer, and a thread that waits in moor runs on (08
R169, R170). -/
def State.dissolve (s : State) (gid : Half) : State :=
  let x := s.group gid
  ((s.setGroup gid { x with tow := 2 }).freeButties gid (butties s gid)).moorAway gid none x.members

/-- A thread that takes another part in a tow: its own tow dissolves, its buffer is dropped (log entry 29). -/
def State.leaveTow (s : State) : State :=
  let s := match s.me.tow with
    | .motor g _ => s.dissolve g
    | _ => s
  s.setMe { s.me with tow := .none, fwd := [] }

/-- A thread Blocked in moor boards a tow: its status is 1, and it goes on after the moor with an empty buffer and nothing of another tow on the ring
for it, so that the next instruction forwarded is its first (R29, R169). -/
def State.board (s : State) (c : Nat) (k : Fin 16) (gid : Half) (d : Dst) (len : Nat) : State :=
  let s := match (s.thread c k).tow with
    | .motor g _ => s.dissolve g
    | _ => s
  let s := s.moorDone c k d len 1
  let s := { s with ring := s.ring.filter fun f => f.core != c || f.slot != k }
  let t := s.thread c k
  s.setThread c k { t with tow := .butty gid, fwd := [], st := if t.st = .runnable then .blocked .butty else t.st }

/-- Boards the members of a list that are Blocked in moor on a group in a cluster. -/
def boardAll (s : State) (gid : Half) (cl : Nat) : List Nat → State
  | [] => s
  | ta :: l =>
    let c := ta / 16
    let k : Fin 16 := Fin.ofNat 16 ta
    let s := match (s.thread c k).st with
      | .blocked (.moor g d len) => if g = gid ∧ clusterOf c = cl then s.board c k gid d len else s
      | _ => s
    boardAll s gid cl l

-- Engines that outlive a thread (09 R176) ------------------------------------------------------------------------------------------

/-- An engine that discards the elements and bells of a slot's commands. -/
def Engine.orphan (x : Engine) (c : Nat) (k : Fin 16) : Engine :=
  { x with cmds := x.cmds.map fun m => if m.core = c ∧ m.slot = k ∧ m.helm = none then { m with orphan := true } else m }

/-- The four engines forget a slot. -/
def State.orphanCmds (s : State) (c : Nat) (k : Fin 16) : State :=
  let f (s : State) (p : Nat) : State := s.setEngine (portEngine c p) ((s.engine (portEngine c p)).orphan c k)
  f (f (f (f s 0) 1) 2) 3

/-- The weir without a slot's open run and its waiting jobs (07 R141). -/
def Weir.forget (w : Weir) (k : Fin 16) : Weir :=
  { w with owner := if w.owner = some k then none else w.owner,
           tiles := if w.owner = some k then 0 else w.tiles,
           waiting := w.waiting.filter fun p => p.1 != k,
           exec := w.exec.filter fun e => e.slot != k }

-- The end of a thread (01 R9, 08 R159, R162) -------------------------------------------------------------------------------------------

/-- An Empty slot that keeps what belongs to the slot and not to the thread: its save-in-use flag (09 R193). It is free in the cycle
after this one (01 R9). -/
def Thread.vacant (now : Nat) (t : Thread) : Thread :=
  { st := .empty, saveInUse := t.saveInUse, saved := t.saved, nextIssue := t.nextIssue, freeAt := now + 1 }

/-- What ending and killing share: groups, tow, weir, engine commands, and the slot, which is Empty afterwards. -/
def State.vacate (s : State) (c : Nat) (k : Fin 16) : State :=
  let t := s.thread c k
  let s := match t.tow with
    | .motor gid _ => s.dissolve gid
    | _ => s
  let s := (s.leaveGroups (taNum c k)).orphanCmds c k
  let x := s.getCore c
  let s := s.setCore c { x with weir := x.weir.forget k }
  (s.setThread c k (t.vacant s.clk)).keeperFence c

/-- The counter addresses of a successor list: up to 15, ended by zero (08 R159). -/
def succList (s : State) (d off : Nat) : Nat → List Word
  | 0 => []
  | n + 1 =>
    let w := basinWord s d off
    if w = 0 then [] else w :: succList s d (off + 8) n

/-- Posts one decrement of 1 to a counter address, or reports an address that names no present core (R159). -/
def State.decrement (s : State) (c : Nat) (k : Fin 16) (tag : Half) (a : Word) : State :=
  if namesCore s (fld a 48 16) then s.post (senderThread c k) (mkRec (coreTa (fld a 48 16)) kC 1 tag a [1])
  else s.postTrap c k tag true 0x05 0 (s.thread c k).pc a 0

/-- Posts decrements to a list of counter addresses, in order. -/
def State.decrementAll (s : State) (c : Nat) (k : Fin 16) (tag : Half) : List Word → State
  | [] => s
  | a :: l => State.decrementAll (s.decrement c k tag a) c k tag l

/-- The reply that slot 1 makes when its handler ends, or with a status of its own (13 R232). -/
def accessReply (key : Word) (tag : Half) (status : Byte) (t : Thread) : Record :=
  let op := (fld key 59 4).toNat
  let pay := if op = 2 then (List.range 8).map fun i => t.w.toList.getD i 0
    else if op = 1 ∨ op = 3 then [0] else [t.w.toList.getD 0 0]
  let ta : BitVec 20 := fld key 19 20
  mkRec ta kP 0 tag ((1 : BitVec 1) ++ (0 : BitVec 47) ++ status ++ (0 : BitVec 4) ++ (fld ta 0 4 : BitVec 4)) pay

/-- A thread retires: it counts as retired, posts the decrements of a task, or the reply of the message slot, and its slot is Empty
(R9, R159, R232). -/
def State.retire (s : State) (c : Nat) (k : Fin 16) : State :=
  let t := s.thread c k
  match t.serving with
  | some key =>
    (s.vacate c k).post (senderThread c k) (accessReply key t.tag (fld (t.w.toList.getD 9 0) 0 8) t)
  | none =>
    let s := s.count c t.tag 0 1
    let s := if t.isTask then
        s.decrementAll c k t.tag
          ((if t.parent = 0 then [] else [t.parent]) ++ (if t.succ = 0 then [] else succList s (dieOf c) t.succ 15))
      else s
    s.vacate c k

/-- A thread is killed: it counts as retired and posts no decrements; a message-slot thread's requester gets status 0xFF
(R162, 09 R192, R232). -/
def State.kill (s : State) (c : Nat) (k : Fin 16) : State :=
  let t := s.thread c k
  match t.serving with
  | some key => (s.vacate c k).post (senderThread c k) (accessReply key t.tag 0xFF t)
  | none => (s.count c t.tag 0 1).vacate c k

-- Aborts (08 R162) ---------------------------------------------------------------------------------------------------------------

/-- Whether an abort of a tag discards a record: kinds T, M, C, W, U. -/
def discardable (tag : Half) (r : Record) : Bool :=
  r.tag == tag && (r.kind == kT || r.kind == kM || r.kind == kC || r.kind == kW || r.kind == kU)

/-- Whether discarding a record retires a task or a message of its tag: T records, and M records that are no remote access. -/
def countsAsTask (r : Record) : Bool := r.kind == kT || (r.kind == kM && !isRemote r)

/-- A core marks a tag aborted and discards its waiting work, which counts as retired. -/
def State.markAborted (s : State) (c : Nat) (tag : Half) : State :=
  let x := s.getCore c
  if x.marks.contains tag then s
  else
    let gone := (x.pound.entries.map Entry.r).filter (discardable tag)
    let dq := x.deque.filter fun e => e.r.tag == tag
    let ln := x.lane.filter fun r => r.1.tag == tag
    let n := (gone.filter countsAsTask).length + dq.length + ln.length
    let x := { x with
      marks := tag :: x.marks,
      pound := { x.pound with entries := x.pound.entries.filter fun e => !(discardable tag e.r),
                              applying := x.pound.applying.filter fun p => !(discardable tag p.1) },
      deque := x.deque.filter fun e => e.r.tag != tag,
      lane := x.lane.filter fun r => r.1.tag != tag }
    (s.setCore c x).count c tag 0 n

/-- A core detects an abort: it marks the tag and its notice leaves for the launch unit (R162). -/
def State.abort (s : State) (c : Nat) (tag : Half) : State :=
  let s := s.markAborted c tag
  { s with notices := s.notices ++ [{ tag := tag, core := none }] }

/-- The wharf or the lockhouse aborts a tag: a notice reaches the launch unit (R294, R315, 13 R248). -/
def State.abortTag (s : State) (tag : Half) : State := { s with notices := s.notices ++ [{ tag := tag, core := none }] }

/-- Aborts each tag of a list. -/
def State.abortTags (s : State) : List Half → State
  | [] => s
  | t :: l => State.abortTags (s.abortTag t) l

-- Fencing (13 R248, 21 R331) ---------------------------------------------------------------------------------------------------------

/-- A record that a fenced core loses: it counts as retired, and aborts its tag unless its kind is K, F or P. -/
def loseRecord (s : State) (r : Record) : State :=
  let s := if countsAsTask r then s.countOwn r.tag 0 1 else s
  if r.kind == kK || r.kind == kF || r.kind == kP then s else s.abortTag r.tag

/-- Every record of a list is lost. -/
def loseRecords (s : State) : List Record → State
  | [] => s
  | r :: l => loseRecords (loseRecord s r) l

/-- The threads of slots 1 to 15 and the saved threads are lost and their tags aborted. Each counts as retired, but for slot 1's, which serves a
remote access and was never counted (16 R269). -/
def loseThreads (s : State) (c : Nat) : Nat → State
  | 0 => s
  | n + 1 =>
    let k : Fin 16 := Fin.ofNat 16 n
    let t := s.thread c k
    let s := if t.st = .empty ∨ n = 0 then s
      else if n = 1 then s.abortTag t.tag
      else (s.countOwn t.tag 0 1).abortTag t.tag
    let s := if t.saveInUse then
        let tag : Half := fld (lsWord s c (saveArea (s.getCore c).kca k + 1496)) 32 16
        ((s.leaveGroups (savedNum (taNum c k))).countOwn tag 0 1).abortTag tag
      else s
    loseThreads ((s.vacate c k).setThread c k {}) c n

/-- The launch unit takes over a fenced core's counts, which the sweep leaves out (16 R274). -/
def takeCounts (s : State) : SMap Counts → State
  | [] => s
  | (t, n) :: l => takeCounts (s.countOwn (BitVec.ofNat 16 t) n.created n.retired) l

/-- The lockhouse fences a core: its work is dropped, the core map is rewritten and its generation rises. -/
def State.fence (s : State) (c : Nat) : State :=
  if s.lock.fenced.contains c then s
  else
    let x := s.getCore c
    let s := loseThreads s c 16
    let s := loseRecords s (x.pound.entries.map Entry.r ++ x.pound.applying.map Prod.fst ++ x.deque.map Entry.r ++ x.lane.map Prod.fst)
    let s := loseRecords s ((s.net.filter fun f => !f.die4 && f.target == c).map Flight.r)
    let s := { s with net := s.net.filter fun f => f.die4 || f.target != c }
    let s := takeCounts s x.counts
    let s := s.setCore c { s.getCore c with pound := {}, deque := [], lane := [], counts := [] }
    lockEvent { s with lock := { s.lock with fenced := insertNat s.lock.fenced c, generation := s.lock.generation + 1 } } 2

end Sys2Proof.Machine
end

