-- ==== Sys2Proof/Machine/HelmMode.lean ====
section
/-! DEFINITION. Exceptions, interrupts and virtual memory of a helm hart (19 R299, R303, R310, R311): machine, supervisor and user mode, and the
hypervisor extension's virtual modes and second stage. 19 R299 names the RISC-V standards that lay them out: PRESUMED (log entry 10). -/

namespace Sys2Proof.Machine

open Sys2Proof

-- Exceptions -----------------------------------------------------------------------------------------------------------------------

/-- RISC-V exception causes. -/
def causeIllegal : Nat := 2
def causeLoad : Nat := 5
def causeStore : Nat := 7
def causeVirtual : Nat := 22

/-- An exception: its cause and the value it leaves; whether that is a guest virtual address; the guest physical address of a guest-page fault, and what
its transformed instruction reads; and whether an access met poison (21 R320). -/
structure HelmFault where
  cause : Nat
  val : Word
  guest : Bool := false
  gpa : Nat := 0
  tinst : Word := 0
  poison : Bool := false
  deriving DecidableEq, Repr

/-- An exception without a guest's addresses. -/
abbrev HelmFault.plain (cause : Nat) (val : Word) : HelmFault := { cause := cause, val := val }

/-- The previous-privilege code of a mode. -/
def modeCode : Mode → BitVec 2
  | .u => 0
  | .s => 1
  | .m => 3

/-- Writes a trap vector's target: the base, or for an interrupt of a vectored one the base and four times its cause. -/
def vectorPc (tvec : Word) (interrupt : Bool) (cause : Nat) : Word :=
  (tvec &&& ~~~(3 : Word)) + (if interrupt && bit tvec 0 then BitVec.ofNat 64 (4 * cause) else 0)

/-- The cause word of a trap. -/
def causeWord (interrupt : Bool) (cause : Nat) : Word := BitVec.ofNat 64 cause ||| (if interrupt then (1 : Word) <<< 63 else 0)

/-- Who takes a trap: M mode, S mode, or a guest's S mode. -/
inductive Level where
  | m | s | guest
  deriving DecidableEq, Repr

/-- Where a trap of a hart goes: to S mode if it is delegated and the hart is not in M mode, and on to the guest's if S mode delegates it and the hart
runs a guest. -/
def Hart.level (x : Hart) (interrupt : Bool) (cause : Nat) : Level :=
  if x.mode = .m ∨ !(if interrupt then x.csrs.mideleg else x.csrs.medeleg).toNat.testBit cause then .m
  else if x.virt && (if interrupt then x.hyp.hideleg else x.hyp.hedeleg).toNat.testBit cause then .guest
  else .s

/-- sstatus after a trap to S mode: the interrupt enable and the mode are stacked. -/
def stacked (st : Word) (mode : Mode) : Word :=
  setFld (setFld (setFld st 8 (BitVec.ofBool (mode == .s))) 5 (fld st 1 1 : BitVec 1)) 1 (0 : BitVec 1)

/-- hstatus after a trap to S mode: whether the hart ran a guest, the guest's mode, and whether stval is a guest virtual address. -/
def hyperStacked (x : Hart) (guest : Bool) : Word :=
  let h := setFld (setFld x.hyp.hstatus 7 (BitVec.ofBool x.virt)) 6 (BitVec.ofBool guest)
  if x.virt then setFld h 8 (BitVec.ofBool (x.mode == .s)) else h

/-- mstatus after a trap to M mode. -/
def machineStacked (x : Hart) (guest : Bool) : Word :=
  let st := setFld (setFld (setFld x.mstatus 11 (modeCode x.mode)) 7 (fld x.mstatus 3 1 : BitVec 1)) 3 (0 : BitVec 1)
  setFld (setFld st 39 (BitVec.ofBool x.virt)) 38 (BitVec.ofBool guest)

/-- A hart takes a trap at a level: the pc, the cause and the values are saved, the interrupt enable and the mode are stacked, and the hart goes on
there. -/
def Hart.trapTo (x : Hart) (l : Level) (interrupt : Bool) (f : HelmFault) : Hart :=
  let cause := causeWord interrupt f.cause
  match l with
  | .m =>
    { x with mepc := x.pc, mcause := cause, mtval := f.val, mstatus := machineStacked x f.guest, mode := .m, virt := false,
             pc := vectorPc x.mtvec interrupt f.cause, hyp := { x.hyp with mtval2 := BitVec.ofNat 64 (f.gpa / 4), mtinst := f.tinst } }
  | .s =>
    { x with csrs := { x.csrs with sepc := x.pc, scause := cause, stval := f.val }, mstatus := stacked x.mstatus x.mode, mode := .s, virt := false,
             pc := vectorPc x.csrs.stvec interrupt f.cause,
             hyp := { x.hyp with htval := BitVec.ofNat 64 (f.gpa / 4), htinst := f.tinst, hstatus := hyperStacked x f.guest } }
  | .guest =>
    { x with mode := .s, pc := vectorPc x.hyp.vstvec interrupt f.cause,
             hyp := { x.hyp with vsepc := x.pc, vscause := cause, vstval := f.val, vsstatus := stacked x.hyp.vsstatus x.mode } }

/-- A hart takes a trap where it belongs. -/
def Hart.trap (x : Hart) (interrupt : Bool) (f : HelmFault) : Hart := x.trapTo (x.level interrupt f.cause) interrupt f

/-- The hart whose instruction executes takes an exception; one that met poison fires source 65 (21 R320, 19 R310). -/
def State.faults (s : State) (f : HelmFault) : State :=
  let t := s.setMyHart (s.myHart.trap false f)
  if f.poison then fire t 65 else t
/-- The same, without a guest's addresses. -/
def State.exception (s : State) (cause : Nat) (val : Word) : State := s.faults (.plain cause val)

-- Interrupts (R310, R311) ----------------------------------------------------------------------------------------------------------

/-- The least identity of a list that is pending, enabled and below the threshold; none if delivery is off. -/
def topIdentity (pending : List Byte) (f : MsiFile) : Option Byte :=
  if !f.delivery then none
  else pending.foldl (fun best b =>
    if f.enabled.contains b && (f.threshold == 0 || decide (b < f.threshold)) then
      (match best with
       | some c => if b < c then some b else some c
       | none => some b)
    else best) none

/-- mtimecmp of a hart: never, until it is written. -/
def mtimecmpOf (s : State) (h : Nat) : Word := SMap.getD s.wharf.mtimecmp h (BitVec.allOnes 64)

/-- A guest's interrupt file and its pending identities. -/
def Hart.guestFile (x : Hart) (g : Nat) : MsiFile := SMap.getD x.hyp.files g {}
def Hart.guestPending (x : Hart) (g : Nat) : List Byte := (x.msiG.filter fun p => p.1 == g).map (·.2)
/-- The guest that hstatus names (VGEIN); 0 for none. -/
def Hart.guest (x : Hart) : Nat := (fld x.hyp.hstatus 12 6 : BitVec 6).toNat
/-- hgeip: the guest files that have an interrupt. -/
def Hart.hgeip (x : Hart) : Word :=
  (List.range 7).foldl (fun w g => if (topIdentity (x.guestPending (g + 1)) (x.guestFile (g + 1))).isSome then w ||| (1 : Word) <<< (g + 1) else w) 0

/-- A guest's timer: mtime with htimedelta has reached vstimecmp, while Sstc is on for guests. -/
def guestTimer (s : State) (x : Hart) : Bool :=
  bit x.csrs.menvcfg 63 && bit x.hyp.henvcfg 63 && decide (x.csrs.vstimecmp.toNat ≤ (BitVec.ofNat 64 s.mtime + x.hyp.htimedelta).toNat)

/-- The pending interrupts of a hart: what software wrote, the timers that have come, and the IMSIC files. stimecmp acts where menvcfg enables Sstc. -/
def mipOf (s : State) (h : Nat) : Word :=
  let x := s.getHart h
  let w := x.csrs.mip
  let w := if bit x.csrs.menvcfg 63 then setFld w 5 (BitVec.ofBool (decide (x.csrs.stimecmp.toNat ≤ s.mtime))) else w
  let w := if guestTimer s x then setFld w 6 (1 : BitVec 1) else w
  let w := setFld w 7 (BitVec.ofBool (decide ((mtimecmpOf s h).toNat ≤ s.mtime)))
  let w := if (topIdentity x.msiS x.csrs.fileS).isSome then setFld w 9 (1 : BitVec 1) else w
  let w := if bit x.hgeip x.guest then setFld w 10 (1 : BitVec 1) else w
  let w := setFld w 11 (BitVec.ofBool (topIdentity x.msiM x.csrs.fileM).isSome)
  setFld w 12 (BitVec.ofBool (x.hgeip &&& x.hyp.hgeie != 0))

/-- The interrupts in the order of their priority. -/
def interruptOrder : List Nat := [11, 3, 7, 9, 1, 5, 12, 10, 2, 6, 13]

/-- Whether S mode delegates an interrupt to its guest. -/
def Hart.isGuests (x : Hart) (i : Nat) : Bool := x.csrs.mideleg.toNat.testBit i && x.hyp.hideleg.toNat.testBit i

/-- Whether a hart would take an interrupt that is pending and enabled in mie: one for M mode, or one that is delegated to S mode and no further. -/
def Hart.enables (x : Hart) (i : Nat) : Bool :=
  if x.csrs.mideleg.toNat.testBit i then
    !x.hyp.hideleg.toNat.testBit i && x.mode != .m && (x.virt || x.mode == .u || bit x.mstatus 1)
  else x.mode != .m || bit x.mstatus 3

/-- The interrupt that a hart takes now in M or S mode: those for M mode first. -/
def pendingInterrupt (s : State) (h : Nat) : Option Nat :=
  let x := s.getHart h
  let ready := interruptOrder.filter fun i => (mipOf s h &&& x.csrs.mie).toNat.testBit i && x.enables i
  match ready.find? fun i => !x.csrs.mideleg.toNat.testBit i with
  | some i => some i
  | none => ready.head?

/-- Interrupt bits that S mode delegates, as its guest sees them: external, timer and software one place lower. -/
def Hart.guestBits (x : Hart) (w : Word) : Word :=
  let d := w &&& x.csrs.mideleg &&& x.hyp.hideleg
  (d &&& 0x444) >>> 1 ||| (d &&& 0x2000)

/-- The guest's interrupts that are pending and enabled: vsip and vsie. -/
def guestReady (s : State) (h : Nat) : Word := (s.getHart h).guestBits (mipOf s h &&& (s.getHart h).csrs.mie)

/-- The guest's external interrupt with its priority: that of its file, or of hvictl, or 256. -/
def guestExternal (s : State) (h : Nat) : Option Nat :=
  let x := s.getHart h
  let v := x.hyp.hvictl
  if !bit (guestReady s h) 9 then none
  else match topIdentity (x.guestPending x.guest) (x.guestFile x.guest) with
    | some b => some b.toNat
    | none => if x.guest = 0 ∧ (fld v 16 12 : BitVec 12) = 9 ∧ (fld v 0 8 : Byte) ≠ 0 then some (fld v 0 8 : Byte).toNat else some 256

/-- vstopi (Ssaia): the interrupt of highest priority for the guest, with its priority; hvictl may inject one (VTI). -/
def guestTop (s : State) (h : Nat) : Option (Nat × Nat) :=
  let x := s.getHart h
  let v := x.hyp.hvictl
  let iid := (fld v 16 12 : BitVec 12).toNat
  let prio := (fld v 0 8 : Byte).toNat
  let other : Option (Nat × Nat) :=
    if bit v 30 then (if iid = 9 then none else some (iid, prio))
    else ([1, 5, 13].find? fun i => (guestReady s h).toNat.testBit i).map fun i => (i, 256)
  match guestExternal s h, other with
  | none, o => o
  | some p, none => some (9, p)
  | some p, some (i, q) =>
    if bit v 30 ∧ (if q = 0 then !bit v 9 else decide (q < p) || (q == p && !bit v 9)) then some (i, q) else some (9, p)

/-- The interrupt that the guest takes now, by the cause it sees. -/
def guestInterrupt (s : State) (h : Nat) : Option Nat :=
  let x := s.getHart h
  if x.virt && (x.mode == .u || bit x.hyp.vsstatus 1) then (guestTop s h).map (·.1) else none

/-- The hart's next interrupt, taken. -/
def interruptTaken (s : State) (h : Nat) : Option (Hart → Hart) :=
  match pendingInterrupt s h with
  | some i => some fun x => x.trap true (.plain i 0)
  | none => (guestInterrupt s h).map fun i x => x.trapTo .guest true (.plain i 0)

-- Virtual memory (R299, R303) ------------------------------------------------------------------------------------------------------

/-- What an access is for. -/
inductive HelmAcc where
  | fetch | load | store
  deriving DecidableEq, Repr

/-- The causes of a page fault, of an access fault and of a guest-page fault. -/
def HelmAcc.pageFault : HelmAcc → Nat
  | .fetch => 12
  | .load => 13
  | .store => 15
def HelmAcc.accessFault : HelmAcc → Nat
  | .fetch => 1
  | .load => causeLoad
  | .store => causeStore
def HelmAcc.guestFault : HelmAcc → Nat
  | .fetch => 20
  | .load => 21
  | .store => 23

/-- As whom an access is made: the mode, whether as a guest, and whether a load asks for execute permission (HLVX). -/
structure Eye where
  mode : Mode
  virt : Bool
  exec : Bool := false
  deriving DecidableEq, Repr

/-- The levels of the page tables that satp, vsatp or hgatp names: Sv39, Sv48 or Sv57; none for Bare. -/
def satpLevels (satp : Word) : Nat :=
  match (fld satp 60 4 : BitVec 4).toNat with
  | 8 => 3
  | 9 => 4
  | 10 => 5
  | _ => 0

/-- The mode that a previous-privilege code names. -/
def codeMode (c : BitVec 2) : Mode := if c = 3 then .m else if c = 1 then .s else .u

/-- As whom a hart fetches, and as whom it loads and stores: as MPP and MPV say where MPRV is set. -/
def Hart.codeEye (x : Hart) : Eye := ⟨x.mode, x.virt, false⟩
def Hart.dataEye (x : Hart) : Eye :=
  if x.mode = .m ∧ bit x.mstatus 17 then
    ⟨codeMode (fld x.mstatus 11 2), bit x.mstatus 39 && codeMode (fld x.mstatus 11 2) != .m, false⟩
  else x.codeEye
/-- As whom a hypervisor's load or store of guest memory is made: as SPVP says. -/
def Hart.hyperEye (x : Hart) (exec : Bool) : Eye := ⟨if bit x.hyp.hstatus 8 then .s else .u, true, exec⟩

/-- The register of the first stage's tables. -/
def Hart.firstTable (x : Hart) (e : Eye) : Word := if e.virt then x.hyp.vsatp else x.csrs.satp
/-- The status register that rules the first stage. -/
def Hart.firstStatus (x : Hart) (e : Eye) : Word := if e.virt then x.hyp.vsstatus else x.mstatus
/-- Whether the first stage leaves addresses as they are. -/
def Hart.firstBare (x : Hart) (e : Eye) : Bool := e.mode == .m || satpLevels (x.firstTable e) == 0
/-- Whether accesses are not translated at all. -/
def Hart.isBare (x : Hart) (e : Eye) : Bool := x.firstBare e && (!e.virt || satpLevels x.hyp.hgatp == 0)

/-- Whether execute permission serves for a load: MXR, S mode's for both stages and the guest's for its own. -/
def Hart.mxr (x : Hart) (e : Eye) (own : Bool) : Bool := bit x.mstatus 19 || (own && e.virt && bit x.hyp.vsstatus 19)

/-- Whether a leaf's permissions suit an access; a clear accessed bit, or dirty bit for a store, refuses it (Svade). -/
def leafSuits (acc : HelmAcc) (mxr exec : Bool) (pte : Word) : Bool :=
  bit pte 6 && (match acc with
    | .fetch => bit pte 3
    | .load => if exec then bit pte 3 else bit pte 1 || (bit pte 3 && mxr)
    | .store => bit pte 2 && bit pte 7)

/-- Whether a leaf of the first stage allows an access. -/
def Hart.allows (x : Hart) (e : Eye) (acc : HelmAcc) (pte : Word) : Bool :=
  (if e.mode = .u then bit pte 4 else !bit pte 4 || (acc != .fetch && bit (x.firstStatus e) 18)) && leafSuits acc (x.mxr e true) e.exec pte

/-- The PBMT of a leaf; 3 is reserved, and all but 0 are where Svpbmt is off. -/
def pbmtOf (on : Bool) (pte : Word) : Option Pbmt :=
  match (fld pte 61 2 : BitVec 2).toNat with
  | 0 => some .pma
  | 1 => if on then some .nc else none
  | 2 => if on then some .io else none
  | _ => none

/-- The physical address that a leaf of a level gives an address; none for a misaligned superpage or a reserved Svnapot size. -/
def leafAddr (pte : Word) (va level : Nat) : Option Nat :=
  let ppn := (fld pte 10 44 : BitVec 44).toNat
  if bit pte 63 then if level = 0 ∧ ppn % 16 = 8 then some (ppn / 16 * 65536 + va % 65536) else none
  else if ppn % 2 ^ (9 * level) = 0 then some (ppn * 4096 + va % 2 ^ (12 + 9 * level)) else none

/-- How one stage walks: whether Svpbmt is on, which leaves it allows, and its page fault and its access fault. -/
structure Walk where
  pbmt : Bool
  allows : Word → Bool
  page : HelmFault
  access : HelmFault

/-- A walk of page tables, from the table at an address with so many levels left. place says where a table entry lies: itself, or for a guest's
tables where the second stage puts it. -/
def walkTables (q : Walk) (place : Nat → State → Except HelmFault (Nat × State)) (g va : Nat) :
    Nat → Nat → State → Except HelmFault (Nat × Pbmt × State)
  | 0, _, _ => .error q.page
  | n + 1, tbl, s =>
    match place (tbl + 8 * (va / 2 ^ (12 + 9 * n))) s with
    | .error f => .error f
    | .ok (a, s) =>
      if !isMain a then .error q.access
      else if meetsPoison s true a 8 then .error { q.access with poison := true }
      else
        let r := helmSee s g a 8
        let s := r.2
        let pte : Word := BitVec.ofNat 64 (bytesNat r.1)
        if !bit pte 0 || (bit pte 2 && !bit pte 1) || (fld pte 54 7 : BitVec 7) != 0 then .error q.page
        else if bit pte 1 || bit pte 3 then
          match leafAddr pte va n, pbmtOf q.pbmt pte with
          | some pa, some m => if q.allows pte then .ok (pa, m, s) else .error q.page
          | _, _ => .error q.page
        else if (fld pte 61 3 : BitVec 3) != 0 || (fld pte 4 4 : BitVec 4) &&& 0xD != 0 then .error q.page
        else walkTables q place g (va % 2 ^ (12 + 9 * n)) n ((fld pte 10 44 : BitVec 44).toNat * 4096) s

/-- Whether an address is the sign extension of what the levels translate. -/
def canonical (va : Word) (levels : Nat) : Bool :=
  sext64 (12 + 9 * levels) va == va

/-- The table that a root register names. -/
def rootTable (satp : Word) : Nat := (fld satp 0 44 : BitVec 44).toNat * 4096

/-- The second stage: where a guest physical address lies. implicit: the first stage reads its own table there. -/
def secondStage (x : Hart) (e : Eye) (g : Nat) (acc : HelmAcc) (va : Word) (implicit : Bool) (gpa : Nat) (s : State) :
    Except HelmFault (Nat × Pbmt × State) :=
  let n := satpLevels x.hyp.hgatp
  let access : HelmFault := { cause := acc.accessFault, val := va, guest := true }
  let page : HelmFault := { cause := acc.guestFault, val := va, guest := true, gpa := gpa, tinst := if implicit then 0x3000 else 0 }
  let kind : HelmAcc := if implicit then .load else acc
  let q : Walk :=
    { pbmt := bit x.csrs.menvcfg 62, allows := fun pte => bit pte 4 && leafSuits kind (x.mxr e false) (e.exec && !implicit) pte, page := page,
      access := access }
  if n = 0 then .ok (gpa, .pma, s)
  else if 2 ^ (14 + 9 * n) ≤ gpa then .error page
  else walkTables q (fun a s => .ok (a, s)) g gpa n (rootTable x.hyp.hgatp) s

/-- Where an entry of the first stage's tables lies. -/
def entryPlace (x : Hart) (e : Eye) (g : Nat) (acc : HelmAcc) (va : Word) (a : Nat) (s : State) : Except HelmFault (Nat × State) :=
  if e.virt then (secondStage x e g acc va true a s).map fun r => (r.1, r.2.2) else .ok (a, s)

/-- The first stage: where a virtual address lies, or for a guest its guest physical address. -/
def firstStage (x : Hart) (e : Eye) (g : Nat) (acc : HelmAcc) (va : Word) (s : State) : Except HelmFault (Nat × Pbmt × State) :=
  let n := satpLevels (x.firstTable e)
  let page : HelmFault := { cause := acc.pageFault, val := va, guest := e.virt }
  let q : Walk :=
    { pbmt := bit x.csrs.menvcfg 62 && (!e.virt || bit x.hyp.henvcfg 62), allows := x.allows e acc, page := page,
      access := { page with cause := acc.accessFault } }
  if x.firstBare e then .ok (va.toNat, .pma, s)
  else if canonical va n then walkTables q (entryPlace x e g acc va) g (va.toNat % 2 ^ (12 + 9 * n)) n (rootTable (x.firstTable e)) s
  else .error page

/-- The physical place of an address that a hart accesses, and how its page is mapped: the guest's own stage decides where it names a mapping. -/
def helmTranslate (s : State) (x : Hart) (e : Eye) (g : Nat) (acc : HelmAcc) (va : Word) : Except HelmFault (Nat × Pbmt × State) :=
  match firstStage x e g acc va s with
  | .error f => .error f
  | .ok (a, m, s) =>
    if e.virt then (secondStage x e g acc va false a s).map fun r => (r.1, if m = .pma then r.2.1 else m, r.2.2) else .ok (a, m, s)

/-- An access in pieces that lie in one 4 KiB page each: address and bytes. -/
def spans (a : Word) (n : Nat) : List (Word × Nat) :=
  let room := 4096 - a.toNat % 4096
  if n ≤ room then [(a, n)] else [(a, room), (a + BitVec.ofNat 64 room, n - room)]

end Sys2Proof.Machine
end

