-- ==== Sys2Proof/Machine/Sweiq.lean ====
section
/-! DEFINITION. The Sweiq engine's values, objects, counts and worklist, and how a bytecode ends (10 R199-R215). -/

namespace Sys2Proof.Machine

open Sys2Proof

-- Values (R199) --------------------------------------------------------------------------------------------------------------

/-- The kinds of a value. -/
inductive VKind where
  | int | pointer | special | f32 | invalid
  deriving DecidableEq, Repr

def vNone : Word := 0x02
def vFalse : Word := 0x0A
def vTrue : Word := 0x12

/-- A Bool as a value. -/
def vBool (b : Bool) : Word := if b then vTrue else vFalse

/-- The kind of a value. -/
def vKind (v : Word) : VKind :=
  if bit v 0 then .int
  else if (fld v 0 3 : BitVec 3) = 0 then if v ≠ 0 ∧ v.toNat < 2 ^ 48 then .pointer else .invalid
  else if v = vNone ∨ v = vFalse ∨ v = vTrue then .special
  else if (fld v 0 3 : BitVec 3) = 6 ∧ (fld v 3 29 : BitVec 29) = 0 then .f32
  else .invalid

/-- The integer of a small-integer value. -/
def vInt (v : Word) : Int := (v.toInt) / 2
/-- Whether an integer fits a small integer. -/
def smallOk (n : Int) : Bool := decide (-(2 ^ 62 : Int) ≤ n ∧ n ≤ 2 ^ 62 - 1)
/-- The value of a small integer. -/
def mkInt (n : Int) : Word := BitVec.ofInt 64 (2 * n + 1)
/-- The value of an immediate f32. -/
def mkF32 (b : W32) : Word := b ++ (6 : BitVec 32)

-- How a bytecode ends (R211, R212) -------------------------------------------------------------------------------------------------

/-- An exit with its cause, or an exception of a memory access, each with the pools that the allocator engine disabled on the way (17 R291); or an
access that waits for the flush of a home-side cache (13 R234). -/
inductive SwqStop where
  | exit (cause : Nat) (disabled : List Nat := [])
  | exception (f : HelmFault) (disabled : List Nat := [])
  | waits
  deriving DecidableEq, Repr

/-- The reach die whose allocator engine a hart's Sweiq engine uses (20 R317). -/
def swqDie (s : State) : Nat := s.hart.val / 8

/-- A stop behind a part that disabled some pools. -/
def SwqStop.after (e : SwqStop) (ps : List Nat) : SwqStop :=
  match e with
  | .exit c l => .exit c (ps ++ l)
  | .exception f l => .exception f (ps ++ l)
  | .waits => .waits

/-- The pools of the engine's die that are disabled between two states. -/
def newlyDisabled (s t : State) : List Nat :=
  ((s.die (swqDie s)).pools.filter fun p => (getPool s (swqDie s) p.1).enabled && !(getPool t (swqDie s) p.1).enabled).map Prod.fst

/-- A part of a bytecode: it reads and writes the state, or stops. -/
abbrev Swq (α : Type) := State → Except SwqStop (α × State)

def Swq.pure {α : Type} (a : α) : Swq α := fun s => .ok (a, s)
def Swq.bind {α β : Type} (m : Swq α) (f : α → Swq β) : Swq β := fun s =>
  match m s with
  | .ok (a, t) => match f a t with
    | .ok r => .ok r
    | .error e => .error (e.after (newlyDisabled s t))
  | .error e => .error e
/-- m, then f. -/
def Swq.andThen {β : Type} (m : Swq Unit) (f : Swq β) : Swq β := m.bind fun _ => f
/-- Stops with an exit cause. -/
def Swq.exit {α : Type} (cause : Nat) : Swq α := fun _ => .error (.exit cause)
/-- Exits with a cause unless b holds. -/
def Swq.need (b : Bool) (cause : Nat) : Swq Unit := fun s => if b then .ok ((), s) else .error (.exit cause)
/-- A function of the state. -/
def Swq.get {α : Type} (f : State → α) : Swq α := fun s => .ok (f s, s)
/-- A change of the state. -/
def Swq.modify (f : State → State) : Swq Unit := fun s => .ok ((), f s)

-- Memory as the engine sees it (R211; log entry 11) ------------------------------------------------------------------------------------

/-- Whether the engine may access bytes at a physical address: main memory or a Basin. -/
def swqAddr (a : Nat) : Bool := isMain a || isBasin a

/-- Whether the engine's addresses are physical: it runs for its hart, and the hart does not translate. -/
def State.plainView (s : State) : Bool := !s.viaPound && s.myHart.isBare s.myHart.codeEye

/-- A line of a tier 2 page that no cache holds gets a place in the home-side cache, under no generation that it is read under: its access then
counts as a miss, and brings it in (13 R234). -/
def roomFor (s : State) (g l : Nat) : State :=
  let x := s.die (dieOfKey (l * 64))
  if x.size = 0 ∨ (SMap.find x.held l).isSome ∨ (SMap.find s.helmCache l).isSome then s
  else s.setDie (dieOfKey (l * 64)) { x with held := SMap.set x.held l (g + 1) }

/-- Where a piece of an access lies, under which key generation, and whether the helm caches may hold it. For a hart it lies where the hart's
translation puts it, under hkey (19 R302); for a helm pound where a walk of the helm object space does, under its leaf's key (19 R306). -/
def swqPlace (s : State) (acc : HelmAcc) (a : Word) : Except SwqStop (Nat × Nat × Bool × State) :=
  if s.viaPound then
    match walked s (s.hart.val / 8) 2 (fld a 0 52 : BitVec 52).toNat (if acc = .store then 2 else 0) with
    | .ok (l, s) =>
      let pa := l.pa (fld a 0 52 : BitVec 52).toNat
      let g := keyGen s (keyOfLeaf l.leaf)
      if leafBusy s l pa then .error .waits else .ok (pa, g, true, if tierOf l.leaf = 2 then roomFor s g (pa / 64) else s)
    | .error _ => .error (.exception (.plain acc.pageFault a))
  else
    let g := swqGen' s s.hart.val
    match helmTranslate s s.myHart s.myHart.codeEye g acc a with
    | .ok (pa, m, s) => .ok (pa, g, m == .pma, s)
    | .error f => .error (.exception f)

/-- The access fault of the engine at an address, and that of a load of a poisoned line (21 R320). -/
def swqFault (s : State) (acc : HelmAcc) (a : Word) : SwqStop := .exception { cause := acc.accessFault, val := a, guest := s.myHart.virt && !s.viaPound }
def swqPoison (s : State) (a : Word) : SwqStop :=
  .exception { cause := causeLoad, val := a, guest := s.myHart.virt && !s.viaPound, poison := true }

/-- Reads a piece. A poisoned line is a load access fault (21 R320). -/
def swqReadPiece (a : Word) (n : Nat) : Swq (List Byte) := fun s =>
  match swqPlace s .load a with
  | .error e => .error e
  | .ok (pa, g, cached, s) =>
    if !swqAddr pa || !swqAddr (pa + n - 1) then .error (swqFault s .load a)
    else if cached then
      let s := syncLines s g pa n
      if meetsPoison s true pa n then .error (swqPoison s a) else .ok (helmSee s g pa n)
    else if meetsPoison s false pa n then .error (swqPoison s a)
    else .ok (helmHomeRead s g pa n)

/-- Reads the pieces of an access. -/
def swqReadAll : List (Word × Nat) → Swq (List Byte)
  | [] => .pure []
  | (a, n) :: l => (swqReadPiece a n).bind fun bs => (swqReadAll l).bind fun r => .pure (bs ++ r)

/-- Reads n bytes. -/
def swqBytes (a : Word) (n : Nat) : Swq (List Byte) := swqReadAll (spans a n)

/-- Writes a piece. -/
def swqWritePiece (a : Word) (bs : List Byte) : Swq Unit := fun s =>
  match swqPlace s .store a with
  | .error e => .error e
  | .ok (pa, g, cached, s) =>
    if !swqAddr pa || !swqAddr (pa + bs.length - 1) then .error (swqFault s .store a)
    else .ok ((), if cached then helmWrite s g pa bs else helmHomeWrite (dropReserved s pa bs.length) g pa bs)

/-- Writes the pieces of an access. -/
def swqWriteAll : List (Word × Nat) → List Byte → Swq Unit
  | [], _ => .pure ()
  | (a, n) :: l, bs => (swqWritePiece a (bs.take n)).andThen (swqWriteAll l (bs.drop n))

/-- Writes n bytes. -/
def swqStoreBytes (a : Word) (bs : List Byte) : Swq Unit := swqWriteAll (spans a bs.length) bs

/-- Reads a word. -/
def swqLoad (a : Word) : Swq Word := (swqBytes a 8).bind fun bs => .pure (BitVec.ofNat 64 (bytesNat bs))

/-- Writes a word. -/
def swqStore (a v : Word) : Swq Unit := swqStoreBytes a (natBytes 8 v.toNat)

-- Objects (R200-R203) --------------------------------------------------------------------------------------------------------------------

/-- Header fields. -/
def hdrKind (w0 : Word) : Nat := (fld w0 32 8).toNat
def hdrClass (w0 : Word) : Nat := (fld w0 40 8).toNat
def hdrShape (w0 : Word) : W32 := fld w0 0 32
def hdrMoored (w0 : Word) : Bool := bit w0 48
def hdrWatched (w0 : Word) : Bool := bit w0 49
def hdrImmortal (w0 : Word) : Bool := bit w0 50
def hdrCount (w1 : Word) : Nat := (fld w1 0 32).toNat
def hdrHold (w1 : Word) : Nat := (fld w1 32 16).toNat

/-- The address of slot i of an object. -/
def slotAddr (o : Word) (i : Nat) : Word := o + BitVec.ofNat 64 (16 + 8 * i)
/-- Slot i of an object. -/
def slotOf (o : Word) (i : Nat) : Swq Word := swqLoad (slotAddr o i)

/-- The addresses of an object's children, by its kind: the slots that hold values which it counts (R201). -/
def childSlots (kind cls len : Nat) : List Nat :=
  match kind with
  | 0 => List.range (2 * cls)
  | 1 => (List.range len).map (· + 2)
  | 2 => (List.range len).map (· + 1)
  | 4 => [10]
  | 5 => [2, 3]
  | 7 => [1, 2]
  | _ => []

/-- Takes one more count of a value (R200, R214): none for what is no pointer or is immortal; a count that would reach 2^32 - 1 makes
the object immortal. -/
def takeCount (v : Word) : Swq Unit :=
  if vKind v ≠ .pointer then .pure ()
  else (swqLoad v).bind fun w0 =>
    if hdrImmortal w0 then .pure ()
    else (swqLoad (v + 8)).bind fun w1 =>
      if hdrCount w1 + 1 = 2 ^ 32 - 1 then swqStore v (w0 ||| (1 : Word) <<< 50)
      else swqStore (v + 8) (setFld w1 0 (BitVec.ofNat 32 (hdrCount w1 + 1)))

-- Releasing and reclaiming (R214, R215) ----------------------------------------------------------------------------------------------------

/-- What reclamation still has to do. -/
inductive Todo where
  | release (x : Word)
  | push (y : Word)
  | free (pool : Nat) (a : Word)
  deriving DecidableEq, Repr

/-- The worklist size that the engine takes for a size field (R207). -/
def workSize (f : Nat) : Nat := if f < 16 then 16 else if 32768 < f then 32768 else 2 ^ Nat.log2 f

/-- The site table header's word i. -/
def siteWord (i : Nat) : Swq Word := fun s =>
  swqLoad (s.myHart.swqic + BitVec.ofNat 64 (8 * i)) s
/-- Writes the site table header's word i. -/
def setSiteWord (i : Nat) (v : Word) : Swq Unit := fun s =>
  swqStore (s.myHart.swqic + BitVec.ofNat 64 (8 * i)) v s

/-- The worklist's head, tail and size. -/
def workState : Swq (Nat × Nat × Nat) := (siteWord 6).bind fun w =>
  .pure ((fld w 16 16).toNat, (fld w 32 16).toNat, workSize (fld w 0 16).toNat)

/-- The entry of the worklist at an index. -/
def workEntry (i size : Nat) : Swq Word := (siteWord 5).bind fun b => .pure (b + BitVec.ofNat 64 (8 * (i % size)))

/-- Takes the entry at the tail; tail moves on first (R215). -/
def workTake : Swq Word := workState.bind fun (_, tail, size) =>
  (workEntry tail size).bind fun a => (swqLoad a).bind fun e => (siteWord 6).bind fun w =>
    (setSiteWord 6 (setFld w 32 (BitVec.ofNat 16 (tail + 1)))).andThen (.pure e)

/-- Moors a storage object: it goes onto the moored list (R215). -/
def moor (x w0 : Word) : Swq Unit :=
  (swqStore x (w0 ||| (1 : Word) <<< 48)).andThen <|
  (Swq.get fun s => s.myHart.swqfl).bind fun h =>
  (swqStore (slotAddr x 3) h).andThen <| (swqStore (slotAddr x 4) 0).andThen <|
  (if h ≠ 0 then swqStore (slotAddr h 4) x else .pure ()).andThen <|
  Swq.modify fun s => s.setMyHart { s.myHart with swqfl := x }

/-- Unlinks a moored object from the list (R215). -/
def unmoor (x w0 : Word) : Swq Unit :=
  (slotOf x 3).bind fun n => (slotOf x 4).bind fun p =>
  (if p ≠ 0 then swqStore (slotAddr p 3) n else Swq.modify fun s => s.setMyHart { s.myHart with swqfl := n }).andThen <|
  (if n ≠ 0 then swqStore (slotAddr n 4) p else .pure ()).andThen <|
  swqStore x (w0 &&& ~~~((1 : Word) <<< 48))

/-- The pointers among the slots of a list, as things to push: only pointer values are children (R201). -/
def loadChildren (x : Word) : List Nat → Swq (List Todo)
  | [] => .pure []
  | i :: l => (slotOf x i).bind fun v => (loadChildren x l).bind fun r =>
    .pure (if vKind v = .pointer then Todo.push v :: r else r)

/-- Reclaim(x): what is left to do afterwards. -/
def reclaim (x : Word) : Swq (List Todo) :=
  (swqLoad x).bind fun w0 => (swqLoad (x + 8)).bind fun w1 =>
  if hdrKind w0 = 8 ∧ hdrHold w1 ≠ 0 then (moor x w0).andThen (.pure [])
  else
    (if hdrMoored w0 then unmoor x w0 else .pure ()).andThen <|
    (if hdrKind w0 = 1 ∨ hdrKind w0 = 2 then slotOf x 0 else .pure 0).bind fun len =>
    (loadChildren x (childSlots (hdrKind w0) (hdrClass w0) len.toNat)).bind fun kids =>
    (if hdrKind w0 = 8 then
        (slotOf x 0).bind fun d => (slotOf x 1).bind fun p => .pure [Todo.free (fld p 0 8).toNat d]
      else .pure []).bind fun data =>
    .pure (kids ++ data ++ [Todo.free (hdrClass w0) x])

/-- Release(x): what is left to do afterwards. A count that is already zero stays zero (R200). -/
def release (x : Word) : Swq (List Todo) :=
  if vKind x ≠ .pointer then .pure []
  else (swqLoad x).bind fun w0 =>
    if hdrImmortal w0 then .pure []
    else (swqLoad (x + 8)).bind fun w1 =>
      if hdrCount w1 = 0 then .pure []
      else (swqStore (x + 8) (setFld w1 0 (BitVec.ofNat 32 (hdrCount w1 - 1)))).andThen <|
        if hdrCount w1 = 1 then reclaim x else .pure []

/-- One thing of the list, and what it leaves to do. A push onto a full worklist releases the oldest entry first (R215). -/
def todoStep : Todo → Swq (List Todo)
  | .release x => release x
  | .free p a => (Swq.modify fun s => poolFreeNow s (swqDie s) p a.toNat).andThen (.pure [])
  | .push y => workState.bind fun (head, tail, size) =>
    if (head + 65536 - tail) % 65536 = size then workTake.bind fun e => .pure [.release e, .push y]
    else (workEntry head size).bind fun a => (swqStore a y).andThen <| (siteWord 6).bind fun w =>
      (setSiteWord 6 (setFld w 16 (BitVec.ofNat 16 (head + 1)))).andThen (.pure [])

/-- Does everything of a list. fuel bounds the number of things: every release beyond the first frees a worklist entry. -/
def todoAll : Nat → List Todo → Swq Unit
  | _, [] => .pure ()
  | 0, _ :: _ => .pure ()
  | n + 1, t :: l => (todoStep t).bind fun r => todoAll n (r ++ l)

/-- The bound used (log entry 31). -/
def todoFuel : Nat := 2 ^ 40

/-- Release(x) with all that follows. -/
def releaseAll (x : Word) : Swq Unit := todoAll todoFuel [.release x]

/-- Put(loc, v) (R214). -/
def put (loc v : Word) : Swq Unit :=
  (takeCount v).andThen <| (swqLoad loc).bind fun old => (swqStore loc v).andThen (releaseAll old)

/-- WorkStep(n): up to n entries (R215). -/
def workStep : Nat → Swq Unit
  | 0 => .pure ()
  | n + 1 => workState.bind fun (head, tail, _) =>
    if head = tail then .pure () else workTake.bind fun e => (releaseAll e).andThen (workStep n)

-- Ending (R211) --------------------------------------------------------------------------------------------------------------------------

/-- The engine stops with an exit: a0-a3 take cause, site, frame and address, and the hart goes on at swqh (R211). -/
def swqExit (s : State) (cause : Nat) (site addr : Word) : State :=
  let x := s.myHart
  let q := x.swq
  let x := (((x.setX 10 (BitVec.ofNat 64 cause)).setX 11 site).setX 12 q.frame).setX 13 addr
  s.setMyHart { x with pc := x.swqh, swq := { q with running := false } }

/-- The engine leaves its frame and its bytecode address in rs1 and rs2 (R211). -/
def suspend (s : State) : State :=
  let x := s.myHart
  let q := x.swq
  s.setMyHart { (x.setX q.rs1 q.frame).setX q.rs2 q.bpc with swq := { q with running := false } }

/-- An exception at a bytecode: epc is the swq.run (R211). -/
def swqException (s : State) (f : HelmFault) : State :=
  (suspend s).faults f

/-- A pending interrupt at a bytecode boundary (R211). -/
def swqInterrupt (s : State) (take : Hart → Hart) : State :=
  let s := suspend s
  s.setMyHart (take s.myHart)

/-- The allocator engine disabled pools of the engine's die. -/
def State.disableAll (s : State) (ps : List Nat) : State := ps.foldl (fun s p => disablePool s (swqDie s) p) s

/-- What stops a bytecode, from the state before it. The pools that the allocator engine disabled stay disabled (17 R291). -/
def State.stopped (s : State) (site : Word) (e : SwqStop) : State :=
  match e with
  | .exit c ps => swqExit (s.disableAll ps) c site s.myHart.swq.bpc
  | .exception f ps => swqException (s.disableAll ps) f
  | .waits => s

/-- Runs a bytecode's effect: what it leaves, or the exit or exception from the state before it. -/
def runSwq (s : State) (site : Word) (m : Swq Unit) : State :=
  match m s with
  | .ok (_, s) => s
  | .error e => s.stopped site e

end Sys2Proof.Machine
end

