-- ==== Sys2Proof/Machine/Issue.lean ====
section
/-! DEFINITION. Which slot issues (01 R22, 04 R92), fetching an instruction (13 R242), forwarding in tow mode (01 R26-R29), time, the
next step, and how an instruction is placed for the next step. -/

namespace Sys2Proof.Machine

open Sys2Proof

-- Cached instruction lines (13 R242) -------------------------------------------------------------------------------------

/-- An instruction with the two words that may belong to it, or the address of the first word that is not there. -/
inductive Fetch where
  | ins (w l0 l1 : W32)
  | absent (a : Nat)
  | beyond (a : Nat)
  deriving DecidableEq, Repr

/-- Fetches n more literal words from an address. -/
def fetchLits (s : State) (c : Nat) (k : Fin 16) (w : W32) (a : Nat) : Nat → Fetch
  | 0 => .ins w 0 0
  | 1 =>
    match fetchWord s c k a with
    | .word x => .ins w x 0
    | .absent => .absent a
    | .beyond => .beyond a
  | _ =>
    match fetchWord s c k a with
    | .absent => .absent a
    | .beyond => .beyond a
    | .word x =>
      match fetchWord s c k (a + 4) with
      | .word y => .ins w x y
      | .absent => .absent (a + 4)
      | .beyond => .beyond (a + 4)

/-- The instruction at a slot's pc. -/
def fetch (s : State) (c : Nat) (k : Fin 16) : Fetch :=
  let a := (s.thread c k).pc.toNat
  match fetchWord s c k a with
  | .absent => .absent a
  | .beyond => .beyond a
  | .word w => fetchLits s c k w (a + 4) (litCount w)

-- The barrel rule (01 R22) --------------------------------------------------------------------------------------------------

/-- Whether the instruction of a slot is there to issue: a butty's from its buffer, otherwise fetched (R26, R242). -/
def hasInstruction (s : State) (c : Nat) (k : Fin 16) : Bool :=
  let t := s.thread c k
  if t.isButty then !t.fwd.isEmpty
  else match fetch s c k with
    | .ins _ _ _ => true
    | _ => false

/-- The word that a slot issues next. -/
def nextWord (s : State) (c : Nat) (k : Fin 16) : W32 :=
  let t := s.thread c k
  if t.isButty then ((t.fwd.head?).map Forwarded.word).getD 0 else fetchedWord s c k

/-- Whether a slot's instruction needs the vector unit in a cycle that the governor gates for it (21 R335). -/
def vectorWaits (s : State) (c : Nat) (k : Fin 16) : Bool :=
  !s.opens (vectorShare s.lock.level) &&
    decide (0x18 ≤ (fld (nextWord s c k) 26 6 : BitVec 6).toNat ∧ (fld (nextWord s c k) 26 6 : BitVec 6).toNat ≤ 0x21)

/-- Whether a slot is eligible in this cycle: Runnable, its return interval over, its instruction fetched. -/
def eligible (s : State) (c : Nat) (k : Fin 16) : Bool :=
  let t := s.thread c k
  t.st == .runnable && decide (t.nextIssue ≤ s.clk) && hasInstruction s c k && !vectorWaits s c k

/-- The slots in the order in which the pointer tries them. -/
def barrelOrder (last : Fin 16) : List (Fin 16) := (List.range 16).map fun i => Fin.ofNat 16 (last.val + 1 + i)

/-- The slot that issues in this cycle, and the slot whose pending yield is spent (04 R92). -/
def turn (s : State) (c : Nat) : Option (Fin 16) × Option (Fin 16) :=
  match (barrelOrder (s.getCore c).last).filter (eligible s c) with
  | [] => (none, none)
  | [a] => (some a, some a)
  | a :: b :: _ => if (s.thread c a).yielding then (some b, some a) else (some a, none)

/-- Whether a core issues from a slot in this cycle. -/
def issues (s : State) (c : Nat) (k : Fin 16) : Bool :=
  present s c && s.opens (issueShare s.lock.level) && (s.getCore c).issuedAt != s.clk + 1 && (turn s c).1 == some k

/-- A yield that is spent. -/
def spend (s : State) (c : Nat) (k : Option (Fin 16)) : State :=
  match k with
  | none => s
  | some k => s.setThread c k { s.thread c k with yielding := false }

/-- The state in which an issued instruction executes: the pointer and the return interval move on. -/
def begin (s : State) (c : Nat) (k : Fin 16) (w : W32) : State :=
  let s := spend s c (turn s c).2
  let x := s.getCore c
  let s := s.setCore c { x with last := k, issuedAt := s.clk + 1 }
  let t := s.thread c k
  let s := s.setThread c k { t with nextIssue := s.clk + returnInterval, yielding := false, midway := false, issuedAt := s.clk, joined := s.clk, issuedPc := t.pc,
                                    issuedWord := w }
  { s with core := c, slot := k, iword := w }

-- Tow mode (01 R26-R29; 08 R169-R171) ------------------------------------------------------------------------------------------

/-- Whether some butty's buffer is full (R26). DESIGN CHOICE (log entry 29): what is on the ring for it counts too. -/
def buttyFull (s : State) (gid : Half) : Bool :=
  (butties s gid).any fun ta =>
    let c := ta / 16
    let k : Fin 16 := Fin.ofNat 16 ta
    decide (16 ≤ (s.thread c k).fwd.length + s.ring.countP fun f => f.core == c && f.slot == k)

/-- The cycle in which an instruction issued now by a motor on core m reaches a butty on core c (R26). -/
def ringArrival (s : State) (m c : Nat) : Nat := s.clk + (if c = m then 1 else 2 * ((c + 16 - m % 16) % 16))

/-- Puts an instruction on the ring for each butty of a list. -/
def forwardTo (s : State) (m : Nat) (f : Forwarded) : List Nat → State
  | [] => s
  | ta :: l =>
    let x : RingFlit := { core := ta / 16, slot := Fin.ofNat 16 ta, f := f, arrives := ringArrival s m (ta / 16) }
    forwardTo { s with ring := s.ring ++ [x] } m f l

/-- Instructions that transfer control (R28). -/
def isTransfer : Instr → Bool
  | .b _ | .call _ | .br .. | .bz .. | .bnz .. | .jmp _ | .callr _ | .ret => true
  | _ => false

/-- Whether an instruction has been performed, or its long operation has started, rather than waiting to issue again or trapped: what a motor forwards
(DESIGN CHOICE, log entry 29). -/
def Thread.started (t : Thread) : Bool :=
  match t.st with
  | .parked _ => false
  | .removed .held => false
  | .removed .motor => false
  | .removed (.pop _) => false
  | .blocked (.queueRead _) => false
  | .blocked (.queueWrite _) => false
  | _ => true

/-- Where a control transfer goes: a call or return that still moves a frame goes on when it completes (R90). -/
def outcomeOf (s : State) (c : Nat) (t : Thread) : Word :=
  match t.st with
  | .removed (.window (.spill dest _) _) => dest
  | .removed (.window .fill _) =>
    (frameWords s c ((fld (t.sg.get 1).w0 0 18).toNat + (t.wsp - 128).toNat)).getD 15 0
  | _ => t.pc

/-- What a motor forwards after its instruction: the instruction with its outcome, to each butty (R26, R28). DESIGN CHOICE (log entry 29): an
instruction that traps or is held is not forwarded until it is performed. before is the state in which the instruction issued. -/
def forward (before after : State) (i : Instr) (gid : Half) : State :=
  let t := before.me
  let u := after.thread before.core before.slot
  if !u.started then after
  else
    let out := if isTransfer i then outcomeOf after before.core u else nextPc t (lengthOf i)
    let f : Forwarded := { ins := i, word := before.iword, pc := t.pc, outcome := out, taken := u.taken }
    forwardTo after before.core f (butties before gid)

/-- A motor that issues the instruction at the rejoin address takes aboard the members that wait in moor (R29). -/
def rejoin (s : State) (c : Nat) (k : Fin 16) : State :=
  let t := s.thread c k
  match t.tow with
  | .motor gid a => if a = t.pc then boardAll s gid (clusterOf c) (s.group gid).members else s
  | _ => s

-- Around an executed instruction --------------------------------------------------------------------------------------------------

/-- Changes the next state of an outcome. -/
def mapNext (o : Host.Outcome State Fault Refusal) (f : State → State) : Host.Outcome State Fault Refusal :=
  match o with
  | .next s => .next (f s)
  | .fault r => .fault r
  | .refused r => .refused r

/-- A thread in a tow as a step leaves it: a butty with an empty buffer is Blocked (R27); one whose tow has dissolved is on its own again once
its buffer and the ring hold nothing for it (08 R169); a motor that waits for room issues again once there is room (R26). -/
def settle (s : State) (c : Nat) (k : Fin 16) : State :=
  let t := s.thread c k
  match t.tow with
  | .none => s
  | .motor gid _ => if t.st = .removed .motor ∧ !buttyFull s gid then s.setThread c k { t with st := .runnable, midway := true } else s
  | .butty _ => if t.fwd = [] ∧ t.st = .runnable then s.setThread c k { t with st := .blocked .butty } else s
  | .draining _ =>
    if t.fwd ≠ [] then s
    else if onRing s c k then (if t.st = .runnable then s.setThread c k { t with st := .blocked .butty } else s)
    else s.setThread c k { t with tow := .none, st := if t.st = .blocked .butty then .runnable else t.st }

/-- Settles each slot of a list. -/
def settleAll (s : State) : List (Nat × Fin 16) → State
  | [] => s
  | p :: l => settleAll (settle s p.1 p.2) l

/-- The slots of the cores that State lists. -/
def listedSlots (s : State) : List (Nat × Fin 16) := s.cores.flatMap fun p => (List.range 16).map fun i => (p.1, Fin.ofNat 16 i)

/-- What follows a step where threads are in tow: what is on the ring for a thread that has cast off is dropped (R28), and each thread in a
tow settles. -/
def settleTows (s : State) : State :=
  if s.ring.isEmpty && s.cores.all (fun p => p.2.slots.toList.all fun t => t.tow == .none) then s
  else
    let s := { s with ring := s.ring.filter fun f => (s.thread f.core f.slot).isButty }
    settleAll s (listedSlots s)

/-- The state in which a butty's next forwarded instruction executes. -/
def beginButty (s : State) (c : Nat) (k : Fin 16) (f : Forwarded) : State :=
  let s := begin s c k f.word
  s.setMe { s.me with pc := f.pc, issuedPc := f.pc }

-- Time (01 R16, 19 R311, 16 R272) ---------------------------------------------------------------------------------------------------

/-- Adds one to a saturating cycle counter of a tag's launch-state entry. f picks the counter. -/
def chargeTag (s : State) (tag : Half) (f : Launch → Launch) : State := s.setLaunch tag (f (s.launch tag))

/-- Charges a cycle of each occupied slot of a list to its tag. -/
def chargeSlots (s : State) : List Thread → State
  | [] => s
  | t :: l =>
    chargeSlots (if t.st = .empty then s else chargeTag s t.tag fun x => { x with slotCycles := satInc x.slotCycles }) l

/-- Charges a cycle of the keepers of the present cores that State does not list: one sum, since they all have the same slots. -/
def chargeUnlisted (s : State) : State :=
  let n := (List.range 2048).countP fun c => present s c && (SMap.find s.cores c).isNone
  s.coreInit.slots.toList.foldl (fun s t =>
    if t.st = .empty then s else chargeTag s t.tag fun x => { x with slotCycles := satAdd x.slotCycles n }) s

/-- Charges a cycle of each core: its slots, and its weir if a run executes. -/
def chargeCores (s : State) : List (Nat × Core) → State
  | [] => s
  | (_, x) :: l =>
    let s := chargeSlots s x.slots.toList
    let s := match x.weir.exec with
      | some e => chargeTag s (x.slots.get e.slot).tag fun y => { y with weirCycles := satInc y.weirCycles }
      | none => s
    chargeCores s l

/-- Charges a cycle of an engine to each tag of a list. -/
def chargeTags (s : State) : List Half → State
  | [] => s
  | t :: l => chargeTags (chargeTag s t fun y => { y with engineCycles := satInc y.engineCycles }) l

/-- The tags on whose commands an engine works, each once. -/
def Engine.tags (x : Engine) : List Half := ((x.cmds.filter fun m => m.started && m.parked.isNone).map Cmd.tag).eraseDups

/-- Charges a cycle of every engine. -/
def chargeEngines (s : State) : State :=
  chargeTags s ((s.clusters.flatMap fun p => p.2.copy.tags ++ p.2.gather.tags) ++ (s.dies.flatMap fun p => p.2.coll.tags ++ p.2.basin.tags))

/-- Whether a member of a group is Parked by a fault, an in-lock page or a trap, which pauses the barrier watchdog (R276). -/
def memberParked (s : State) (ta : Nat) : Bool :=
  match (s.thread (ta / 16) (Fin.ofNat 16 ta)).st with
  | .parked p => p.cause != 0 || p.fault.isSome
  | _ => false

/-- A group's barrier watchdog as mtime counts one more (R276). -/
def tickGroup (s : State) (x : Group) : Group :=
  if x.dogOn && !x.members.any (memberParked s) then { x with dog := x.dog + 1 } else x

/-- The barrier watchdogs of every die. -/
def tickGroups (s : State) : State :=
  { s with dies := s.dies.map fun p => (p.1, { p.2 with groups := p.2.groups.map fun q => (q.1, tickGroup s q.2) }) }

/-- One arithmetic-clock cycle passes; mtime counts every 25th from the release of hart 0. -/
def tickClock (s : State) : State :=
  let s := chargeEngines (chargeUnlisted (chargeCores s s.cores))
  let s := { s with clk := s.clk + 1, written := [] }
  if s.lock.ready ∧ s.clk % 25 = 0 then { tickGroups s with mtime := s.mtime + 1 } else s

-- The next step (log entry 1) ----------------------------------------------------------------------------------------------------------

/-- Whether a row stands for what an issued word does although it is no instruction: it comes with the issue only (02 R46, 10 R213). -/
def isIssued : Instr → Bool
  | .reservedEncoding _ => true
  | .unknownOpcode _ => true
  | _ => false

/-- Whether a row stands for an event: it is no compute word, custom word or bytecode. -/
def isEvent (i : Instr) : Bool := headWord i == 0 && (encodeBytes i).isEmpty && !isIssued i

/-- The boundary of an operation that ends by issuing anew lies after that issue: what waits for it meets the thread there (09 R192; 16 R275,
R278). midway: the operation was in progress before the step. -/
def State.afterIssue (s : State) (c : Nat) (k : Fin 16) (midway : Bool) : State :=
  let t := s.thread c k
  if t.midway || !(midway || t.parkDue || t.dogDue) then s else s.settleThread c k

/-- The next step of the agenda, or a free choice when the agenda is empty. -/
def nextAct (s : State) : Act × State :=
  match s.agenda with
  | a :: l => (a, { s with agenda := l })
  | [] => (Config.freeAct s.picks, { s with picks := s.picks + 1 })

-- The helm side's turns (10 R210, R211) --------------------------------------------------------------------------------------------------

/-- What a hart finds at its pc; fault: it has taken a trap instead. -/
inductive HelmFetch where
  | idle
  | fault (s : State)
  | word (w : W32) (s : State)

/-- Whether a word has the custom-0 major opcode. -/
def isCustom0 (w : W32) : Bool := (fld w 0 7 : BitVec 7) == 0x0B

/-- Two bytes of a hart's instruction stream, or the state in which it has taken the fault. -/
def fetchParcel (s : State) (a : Word) : Except State (Half × State) :=
  let g := helmGen s s.hart.val
  let fault : HelmFault := { cause := 1, val := a, guest := s.myHart.virt }
  match helmTranslate s s.myHart s.myHart.codeEye g .fetch a with
  | .error f => .error (s.faults f)
  | .ok (pa, _, t) =>
    if !isMain pa || !isMain (pa + 1) then .error (s.faults fault)
    else if meetsPoison t true pa 2 then .error (s.faults { fault with poison := true })
    else
      let r := helmSee t g pa 2
      .ok (BitVec.ofNat 16 (bytesNat r.1), r.2)

/-- The word at a hart's pc: two bytes, or four where the low bits are 11 (RVA23's C, 19 R299). -/
def fetchHelm (s : State) : HelmFetch :=
  match fetchParcel s s.myHart.pc with
  | .error s => .fault s
  | .ok (lo, s) =>
    if (fld lo 0 2 : BitVec 2) ≠ 3 then .word (lo.setWidth 32) s
    else match fetchParcel s (s.myHart.pc + 2) with
      | .error s => .fault s
      | .ok (hi, s) => .word (hi ++ lo) s

/-- A hart's turn: nothing while it is not released or its Sweiq engine runs; an interrupt that is due; else the word at its pc. -/
def helmFetch (s : State) (h : Fin 32) : HelmFetch :=
  let x := s.getHart h.val
  let s := { s with hart := h }
  if !x.running || x.swq.running then .idle
  else match interruptTaken s h.val with
    | some take => .fault (s.setMyHart (take s.myHart))
    | none => fetchHelm s

/-- What a Sweiq engine finds at its bytecode address; fault: it has stopped or taken a trap instead. -/
inductive SwqFetch where
  | idle
  | fault (s : State)
  | bytes (op : Byte) (bs : List Byte) (s : State)

/-- Twelve bytes that begin with those given. -/
def padded (bs : List Byte) : List Byte := takePad 0 12 bs

/-- The length of the bytecode that begins with an opcode, behind a WIDE prefix or not; one without a meaning has only these bytes. -/
def bytecodeLength (head : List Byte) : Nat :=
  match decodeBytes (padded head) with
  | .ok i => (encodeBytes i).length
  | .error _ => head.length

/-- The bytes of the bytecode at an address: its opcode, then all of it. -/
def bytecodeAt (a : Word) : Swq (List Byte) :=
  (swqBytes a 1).bind fun b =>
  (if b = [0xFF] then swqBytes a 2 else .pure b).bind fun head => (swqBytes a (bytecodeLength head)).bind fun bs => .pure (padded bs)

/-- A Sweiq engine at a bytecode boundary: an interrupt that is due (R211); else up to 16 worklist entries, then the bytes of the next bytecode. -/
def swqFetch (s : State) (h : Fin 32) : SwqFetch :=
  let x := s.getHart h.val
  let s := { s with hart := h }
  if !x.running || !x.swq.running then .idle
  else match interruptTaken s h.val with
    | some take => .fault (swqInterrupt s take)
    | none =>
      match (workStep 16).andThen (bytecodeAt x.swq.bpc) s with
      | .ok (bs, s) => .bytes (bs.headD 0) bs s
      | .error e => .fault (s.stopped 0xFFFFFFFF e)

-- Placing an instruction for the next step (log entry 2) ----------------------------------------------------------------------------------

/-- A cached instruction line with a byte written. -/
def lineByte (x : Cluster) (asid a : Nat) (b : Byte) : Cluster :=
  let v := SMap.getD x.lines (lineKey asid a) 0
  { x with lines := SMap.set x.lines (lineKey asid a) (setFld v (8 * (a % 64)) b) }

/-- Cached instruction lines with bytes written from an address up. -/
def lineBytes (x : Cluster) (asid a : Nat) : List Byte → Cluster
  | [] => x
  | b :: l => lineBytes (lineByte x asid a b) asid (a + 1) l

/-- Core 0's keeper with bytes cached at its pc, and the barrel pointer before it. -/
def placeCore (s : State) (bs : List Byte) : State :=
  let t := s.thread 0 0
  let t := { t with st := .runnable, nextIssue := 0, yielding := false, relaxed := [], tow := .none }
  let s := s.setThread 0 0 t
  let x := s.getCore 0
  let s := s.setCore 0 { x with last := 15, issuedAt := 0 }
  let s := s.setCluster 0 (lineBytes (s.cluster 0) 1 t.pc.toNat bs)
  { s with agenda := [.issue 0 0], power := true, lock := { s.lock with fenced := s.lock.fenced.filter (· != 0) } }

/-- Hart 0 with bytes at its pc. -/
def placeHelm (s : State) (bs : List Byte) : State :=
  let x := s.getHart 0
  let pc : Word := if isMain x.pc.toNat then x.pc else 0
  let s := s.setHart 0 { x with running := true, pc := pc, swq := { x.swq with running := false } }
  let s := helmWrite s (helmGen s 0) pc.toNat bs
  { s with agenda := [.hart 0], power := true }

/-- Hart 0's Sweiq engine running, with bytes at its bytecode address. -/
def placeSwq (s : State) (bs : List Byte) : State :=
  let x := s.getHart 0
  let pc : Word := if isMain x.swq.bpc.toNat then x.swq.bpc else 0
  let s := s.setHart 0 { x with running := true, swq := { x.swq with running := true, bpc := pc } }
  let s := helmWrite s (swqGen' s 0) pc.toNat bs
  { s with agenda := [.swq 0], power := true }

end Sys2Proof.Machine
end

