-- ==== Sys2Proof/Machine/Scalar.lean ====
section
/-! DEFINITION. Meanings of majors 0x01 to 0x07 (04 R77-R88), and the completion of a divide. -/

namespace Sys2Proof.Machine

open Sys2Proof

-- Arithmetic (R78) ---------------------------------------------------------------------------------------------------------

def execAdd (d : Dst) (a b : Src) (w : Width) (s : State) : Host.Outcome State Fault Refusal :=
  .next (binary (.add d a b w) d a b w false (fun _ x y => x + y) s)

def execSub (d : Dst) (a b : Src) (w : Width) (s : State) : Host.Outcome State Fault Refusal :=
  .next (binary (.sub d a b w) d a b w false (fun _ x y => x - y) s)

/-- The smaller or larger of two values under an order. -/
def pick (le : Bool) (x y : Word) : Word := if le then x else y

def execMinI (d : Dst) (a b : Src) (w : Width) (s : State) : Host.Outcome State Fault Refusal :=
  .next (binary (.minI d a b w) d a b w false (fun n x y => pick (decide (signedOf n x ≤ signedOf n y)) x y) s)

def execMaxI (d : Dst) (a b : Src) (w : Width) (s : State) : Host.Outcome State Fault Refusal :=
  .next (binary (.maxI d a b w) d a b w false (fun n x y => pick (decide (signedOf n y ≤ signedOf n x)) x y) s)

def execMinN (d : Dst) (a b : Src) (w : Width) (s : State) : Host.Outcome State Fault Refusal :=
  .next (binary (.minN d a b w) d a b w true (fun n x y => pick (decide (unsignedOf n x ≤ unsignedOf n y)) x y) s)

def execMaxN (d : Dst) (a b : Src) (w : Width) (s : State) : Host.Outcome State Fault Refusal :=
  .next (binary (.maxN d a b w) d a b w true (fun n x y => pick (decide (unsignedOf n y ≤ unsignedOf n x)) x y) s)

-- Logic and shifts (R79) -----------------------------------------------------------------------------------------------------

def execAnd (d : Dst) (a b : Src) (w : Width) (s : State) : Host.Outcome State Fault Refusal :=
  .next (binary (.and d a b w) d a b w false (fun _ x y => x &&& y) s)

def execOr (d : Dst) (a b : Src) (w : Width) (s : State) : Host.Outcome State Fault Refusal :=
  .next (binary (.or d a b w) d a b w false (fun _ x y => x ||| y) s)

def execXor (d : Dst) (a b : Src) (w : Width) (s : State) : Host.Outcome State Fault Refusal :=
  .next (binary (.xor d a b w) d a b w false (fun _ x y => x ^^^ y) s)

def execAndn (d : Dst) (a b : Src) (w : Width) (s : State) : Host.Outcome State Fault Refusal :=
  .next (binary (.andn d a b w) d a b w false (fun _ x y => x &&& ~~~y) s)

/-- A shift amount, modulo the width. -/
def amount (n : Nat) (y : Word) : Nat := unsignedOf n y % n

def execShl (d : Dst) (a b : Src) (w : Width) (s : State) : Host.Outcome State Fault Refusal :=
  .next (binary (.shl d a b w) d a b w false (fun n x y => x <<< amount n y) s)

def execShrN (d : Dst) (a b : Src) (w : Width) (s : State) : Host.Outcome State Fault Refusal :=
  .next (binary (.shrN d a b w) d a b w true (fun n x y => zext64 n x >>> amount n y) s)

def execShrI (d : Dst) (a b : Src) (w : Width) (s : State) : Host.Outcome State Fault Refusal :=
  .next (binary (.shrI d a b w) d a b w false (fun n x y => (sext64 n x).sshiftRight (amount n y)) s)

def execRot (d : Dst) (a b : Src) (w : Width) (s : State) : Host.Outcome State Fault Refusal :=
  .next (binary (.rot d a b w) d a b w false
    (fun n x y => zext64 n x >>> amount n y ||| zext64 n x <<< (n - amount n y)) s)

-- Compare and select (R80) -----------------------------------------------------------------------------------------------------

def execCmp (cc : Cond) (d : Dst) (a b : Src) (w : Width) (s : State) : Host.Outcome State Fault Refusal :=
  .next (binary (.cmp cc d a b w) d a b w true (fun n x y => ofBit 64 (condHolds cc n x y)) s)

def execSel (d : Dst) (a b : Src) (w : Width) (s : State) : Host.Outcome State Fault Refusal :=
  .next (ternary (.sel d a b w) d a b w (fun n c x y => if unsignedOf n c ≠ 0 then x else y) s)

-- Multiply (R81) ----------------------------------------------------------------------------------------------------------------

def execMul (d : Dst) (a b : Src) (w : Width) (s : State) : Host.Outcome State Fault Refusal :=
  .next (binary (.mul d a b w) d a b w false (fun _ x y => x * y) s)

def execMulhI (d : Dst) (a b : Src) (w : Width) (s : State) : Host.Outcome State Fault Refusal :=
  .next (binary (.mulhI d a b w) d a b w false
    (fun n x y => BitVec.ofInt 64 (signedOf n x * signedOf n y / (2 ^ n : Nat))) s)

def execMulhN (d : Dst) (a b : Src) (w : Width) (s : State) : Host.Outcome State Fault Refusal :=
  .next (binary (.mulhN d a b w) d a b w true
    (fun n x y => BitVec.ofNat 64 (unsignedOf n x * unsignedOf n y / 2 ^ n)) s)

-- Divide and remainder (R82, R83) ---------------------------------------------------------------------------------------------------

/-- Signed quotient and remainder at a width: by zero all ones and the dividend; the most negative value by -1 stays itself. -/
def quotI (n : Nat) (x y : Word) : Word :=
  if unsignedOf n y = 0 then BitVec.allOnes 64 else BitVec.ofInt 64 ((signedOf n x).tdiv (signedOf n y))
def remainI (n : Nat) (x y : Word) : Word :=
  if unsignedOf n y = 0 then x else BitVec.ofInt 64 ((signedOf n x).tmod (signedOf n y))
/-- Unsigned quotient and remainder at a width. -/
def quotN (n : Nat) (x y : Word) : Word :=
  if unsignedOf n y = 0 then BitVec.allOnes 64 else BitVec.ofNat 64 (unsignedOf n x / unsignedOf n y)
def remainN (n : Nat) (x y : Word) : Word :=
  if unsignedOf n y = 0 then x else BitVec.ofNat 64 (unsignedOf n x % unsignedOf n y)

/-- A divide reads its sources at issue and removes the thread for 2 + w/2 cycles after the unit is free (R83). -/
def divide (i : Instr) (d : Dst) (a b : Src) (w : Width) (z : Bool) (f : Nat → Word → Word → Word) (s : State) : State :=
  s.gated i fun s =>
    let (x, s) := s.read a
    let (y, s) := s.read b
    let n := Width.bits w
    let v := if z then resultZ n (f n x y) else resultS n (f n x y)
    let c := s.myCore
    let t := max c.divideFree s.clk + 2 + n / 2
    ((s.setMyCore { c with divideFree := t }).advance i).remove (.divide d v t)

def execDivI (d : Dst) (a b : Src) (w : Width) (s : State) : Host.Outcome State Fault Refusal :=
  .next (divide (.divI d a b w) d a b w false quotI s)

def execDivN (d : Dst) (a b : Src) (w : Width) (s : State) : Host.Outcome State Fault Refusal :=
  .next (divide (.divN d a b w) d a b w true quotN s)

def execRemI (d : Dst) (a b : Src) (w : Width) (s : State) : Host.Outcome State Fault Refusal :=
  .next (divide (.remI d a b w) d a b w false remainI s)

def execRemN (d : Dst) (a b : Src) (w : Width) (s : State) : Host.Outcome State Fault Refusal :=
  .next (divide (.remN d a b w) d a b w true remainN s)

-- Bit counts and fields (R84, R85) -----------------------------------------------------------------------------------------------------

/-- Zero bits above the highest one bit of the low n. -/
def clzN : Nat → Nat → Nat
  | 0, _ => 0
  | n + 1, v => if v.testBit n then 0 else 1 + clzN n v
/-- Zero bits below the lowest one bit of n bits. -/
def ctzN : Nat → Nat → Nat
  | 0, _ => 0
  | n + 1, v => if v % 2 = 1 then 0 else 1 + ctzN n (v / 2)
/-- One bits among n. -/
def popN : Nat → Nat → Nat
  | 0, _ => 0
  | n + 1, v => v % 2 + popN n (v / 2)

def execClz (d : Dst) (a : Src) (w : Width) (s : State) : Host.Outcome State Fault Refusal :=
  .next (unary (.clz d a w) d a w true (fun n x => BitVec.ofNat 64 (clzN n x.toNat)) s)

def execCtz (d : Dst) (a : Src) (w : Width) (s : State) : Host.Outcome State Fault Refusal :=
  .next (unary (.ctz d a w) d a w true (fun n x => BitVec.ofNat 64 (ctzN n x.toNat)) s)

def execPopc (d : Dst) (a : Src) (w : Width) (s : State) : Host.Outcome State Fault Refusal :=
  .next (unary (.popc d a w) d a w true (fun n x => BitVec.ofNat 64 (popN n x.toNat)) s)

/-- The position of a control value. -/
def fieldPos (c : Word) : Nat := (fld c 0 6).toNat
/-- The length of a control value's field, cut at the width. -/
def fieldLen (n : Nat) (c : Word) : Nat := if n ≤ fieldPos c then 0 else min (fld c 8 7).toNat (n - fieldPos c)

def execExtI (d : Dst) (a b : Src) (w : Width) (s : State) : Host.Outcome State Fault Refusal :=
  .next (binary (.extI d a b w) d a b w false
    (fun n x c => if fieldLen n c = 0 then 0 else BitVec.ofInt 64 (sval (fieldLen n c) (x.toNat / 2 ^ fieldPos c))) s)

def execExtN (d : Dst) (a b : Src) (w : Width) (s : State) : Host.Outcome State Fault Refusal :=
  .next (binary (.extN d a b w) d a b w true
    (fun n x c => BitVec.ofNat 64 (x.toNat / 2 ^ fieldPos c % 2 ^ fieldLen n c)) s)

/-- D with the field at p of length l replaced by the low bits of A. -/
def insertField (p l : Nat) (dv x : Word) : Word :=
  let m : Word := BitVec.ofNat 64 ((2 ^ l - 1) * 2 ^ p)
  (dv &&& ~~~m) ||| ((x <<< p) &&& m)

def execIns (d : Dst) (a b : Src) (w : Width) (s : State) : Host.Outcome State Fault Refusal :=
  .next (ternary (.ins d a b w) d a b w (fun n dv x c => insertField (fieldPos c) (fieldLen n c) dv x) s)

-- Addresses and moves (R86, R87) ----------------------------------------------------------------------------------------------------------

def execLea (sc : BitVec 2) (d : Dst) (a b : Src) (w : Width) (s : State) : Host.Outcome State Fault Refusal :=
  .next (binary (.lea sc d a b w) d a b w true (fun _ x y => x + y <<< sc.toNat) s)

def execMov (d : Dst) (a : Src) (w : Width) (s : State) : Host.Outcome State Fault Refusal :=
  .next (unary (.mov d a w) d a w false (fun _ x => x) s)

-- Special registers (01 R15, R88) ----------------------------------------------------------------------------------------------------------

/-- wst: status word 0 of the weir (07 R143). -/
def weirStatus (x : Weir) : Word :=
  x.data.row ++ (0 : BitVec 8) ++ x.data.reason ++ x.data.slot ++ BitVec.ofBool x.owner.isSome ++ BitVec.ofBool x.held ++
    (0 : BitVec 2) ++ BitVec.ofNat 4 ((x.owner.getD 0).val) ++ (0 : BitVec 3) ++ x.data.sticky

/-- One queue's byte of qst (08 R172). -/
def queueStatus (y : Queue) : BitVec 8 :=
  BitVec.ofNat 5 y.entries.length ++ BitVec.ofBool y.drained ++ BitVec.ofBool y.eos ++ BitVec.ofBool y.enabled

/-- qst. -/
def queuesStatus (x : Core) : Word :=
  BitVec.ofNat 64 (bytesNat (x.queues.toList.map queueStatus))

/-- Whether a slot shows in kwd: it stays blocked in wait or bar (R15). -/
def blockedLong (t : Thread) : Bool :=
  match t.st with
  | .blocked (.wait _ _) => true
  | .blocked (.bar _ _) => true
  | _ => false

/-- kwd: the bits that the timeout set, for slots that have stayed blocked. -/
def kwdValue (x : Core) (clk : Nat) : Half :=
  BitVec.ofNat 16 ((List.range 16).foldl (fun n i =>
    let t := x.slots.get (Fin.ofNat 16 i)
    if bit x.kwd i && blockedLong t && decide (t.since + 4096 < clk) then n + 2 ^ i else n) 0)

/-- The slots that have been blocked in wait or bar for more than 4,096 cycles (R15). -/
def kwdNow (x : Core) (clk : Nat) : Half :=
  BitVec.ofNat 16 ((List.range 16).foldl (fun n i =>
    let t := x.slots.get (Fin.ofNat 16 i)
    if blockedLong t && decide (t.since + 4096 < clk) then n + 2 ^ i else n) 0)

/-- The value of a special register. DESIGN CHOICE (log entry 60): the dies' clocks, which may differ by up to 4 (01 R16), show the same clk. -/
def readSpecial (s : State) (r : SReg) : Word :=
  let t := s.me
  let x := s.myCore
  match r with
  | .tid => (taOf s s.core s.slot).setWidth 64
  | .tag => t.tag.setWidth 64
  | .inst => t.inst.setWidth 64
  | .clk => BitVec.ofNat 64 s.clk
  | .wst => weirStatus x.weir
  | .wb => t.wb.setWidth 64
  | .bh => t.bh
  | .bid => t.bid.setWidth 64
  | .bpc => t.bpc
  | .ev => t.ev
  | .qst => queuesStatus x
  | .wsp => t.wsp.setWidth 64
  | .fa => t.fa.setWidth 64
  | .fw => t.fw.setWidth 64
  | .fo => t.fo.setWidth 64
  | .fsc => t.fsc
  | .kca => x.kca.setWidth 64
  | .kpc => (x.slots.get x.selected).pc
  | .ksl => x.ksl.setWidth 64
  | .kwd => (kwdValue x s.clk).setWidth 64
  | .lvl => x.lvl.setWidth 64

/-- lvl as written: 1 to 255 becomes 256, above 65,535 becomes 65,535 (R88). -/
def lvlWritten (v : W32) : W32 :=
  if v.toNat = 0 then 0 else if v.toNat < 256 then 256 else if 65535 < v.toNat then 65535 else v

/-- The state after a special register is written; a write to kpc takes effect only on a Parked target (09 R196). -/
def writeSpecial (s : State) (r : SReg) (v : Word) : State :=
  let t := s.me
  let x := s.myCore
  match r with
  | .wb => s.setMe { t with wb := fld v 0 16 }
  | .bh => s.setMe { t with bh := v }
  | .bpc => s.setMe { t with bpc := v }
  | .ev => s.setMe { t with ev := (t.ev &&& ~~~v) ||| (if t.wokeAt = s.clk + 1 then t.woke else 0) }
  | .kca => s.setMyCore { x with kca := fld v 0 18 }
  | .ksl => s.setMyCore { x with ksl := fld v 0 4 }
  | .lvl => s.setMyCore { x with lvl := lvlWritten (fld v 0 32) }
  | .kpc =>
    let y := x.slots.get x.selected
    match y.st with
    | .parked _ => s.setThread s.core x.selected { y with pc := v }
    | _ => s
  | _ => s

/-- Whether a special register may be named by the slot (01 R8). -/
def mayName (s : State) (r : SReg) : Bool := !r.keeperOnly || s.slot.val == 0

def execRds (d : Dst) (r : SReg) (s : State) : Host.Outcome State Fault Refusal :=
  .next (if mayName s r then s.gated (.rds d r) fun s => s.result (.rds d r) d (readSpecial s r) else s.trap 0x02 0 0)

def execWrs (r : SReg) (a : Src) (s : State) : Host.Outcome State Fault Refusal :=
  .next (if mayName s r then s.gated (.wrs r a) fun s =>
      let (v, s) := s.read a
      (writeSpecial s r v).advance (.wrs r a)
    else s.trap 0x02 0 0)

-- Words that are no instruction (02 R46) ------------------------------------------------------------------------------------------------------

/-- The cause of a decode trap: a keeper-only major from slots 1 to 15 is a privilege fault, everything else a reserved encoding. -/
def decodeCause (word : W32) (slot : Fin 16) : Nat :=
  let maj := (fld word 26 6).toNat
  if reservedMajor maj then 0x01 else if 0x32 ≤ maj ∧ maj ≤ 0x37 ∧ slot.val ≠ 0 then 0x02 else 0x01

def execReservedEncoding (word : W32) (s : State) : Host.Outcome State Fault Refusal :=
  .next (s.trap (decodeCause word s.slot) 0 0)

-- The completion of a divide (R83) ---------------------------------------------------------------------------------------------------------------

/-- A divide whose cycles are over writes its result in the last of them; the thread may issue from the next one. Its pc moved at issue. -/
def execDivideComplete (c : Nat) (k : Fin 16) (s : State) : Host.Outcome State Fault Refusal :=
  .next (
    let s1 := s.as c k
    match s1.me.st with
    | .removed (.divide d v t) =>
      if t ≤ s.clk then (s1.setMe { s1.me with nextIssue := max s1.me.nextIssue (s.clk + 1) }).complete d v none else s
    | _ => s)

end Sys2Proof.Machine
end

