-- ==== Sys2Proof/Machine/Control.lean ====
section
/-! DEFINITION. Meanings of majors 0x08 to 0x0D (04 R89-R94; 01 R13, R14), and the events that belong to them. -/

namespace Sys2Proof.Machine

open Sys2Proof

-- Branches (R89) -----------------------------------------------------------------------------------------------------------

/-- A branch target: a word offset from the branch word (02 R37). -/
def target {n : Nat} (pc : Word) (off : BitVec n) : Word := pc + (off.signExtend 64) <<< 2

/-- A branch taken or not. -/
def State.branch {n : Nat} (s : State) (i : Instr) (off : BitVec n) (taken : Bool) : State :=
  s.setMe (s.me.decided (if taken then target s.me.pc off else nextPc s.me (lengthOf i)) taken)

def execB (off : BitVec 26) (s : State) : Host.Outcome State Fault Refusal :=
  .next (s.branch (.b off) off true)

def execBr (cc : Cond) (a b : Src) (off : BitVec 10) (s : State) : Host.Outcome State Fault Refusal :=
  .next (s.gated (.br cc a b off) fun s =>
    let (x, s) := s.read a
    let (y, s) := s.read b
    s.branch (.br cc a b off) off (condHolds cc 64 x y))

def execBz (a : Src) (off : BitVec 10) (s : State) : Host.Outcome State Fault Refusal :=
  .next (s.gated (.bz a off) fun s =>
    let (x, s) := s.read a
    s.branch (.bz a off) off (x == 0))

def execBnz (a : Src) (off : BitVec 10) (s : State) : Host.Outcome State Fault Refusal :=
  .next (s.gated (.bnz a off) fun s =>
    let (x, s) := s.read a
    s.branch (.bnz a off) off (x != 0))

/-- Whether a code address is misaligned. -/
def misaligned (a : Word) : Bool := (fld a 0 2 : BitVec 2) != 0

def execJmp (a : Src) (s : State) : Host.Outcome State Fault Refusal :=
  .next (s.gated (.jmp a) fun s =>
    let r := s.read a
    if misaligned r.1 then s.trapOpen 0x06 else r.2.goTo r.1)

-- Windows (01 R13, R90) ------------------------------------------------------------------------------------------------------

/-- Where the frame at an offset of the window stack lies in the local store, if a spill or fill may reach it: sg1 is kind 0 with the
rights, and the frame lies inside the store (R13, R18). -/
def Thread.frameAt (t : Thread) (need : BitVec 3) (off : Nat) : Option Nat :=
  let g := t.sg.get 1
  let a := (fld g.w0 0 18).toNat + off
  if g.kind = 0 ∧ need &&& ~~~g.rights = 0 ∧ a + 128 ≤ localBytes then some a else none

/-- Where a spill writes: its frame lies inside sg1 too. -/
def Thread.spillAt (t : Thread) : Option Nat :=
  if t.wsp.toNat + 128 ≤ (t.sg.get 1).limit then t.frameAt needRW t.wsp.toNat else none

/-- Where a fill reads. -/
def Thread.fillAt (t : Thread) : Option Nat := t.frameAt needR (t.wsp - 128).toNat

/-- The trap of a window that cannot move (R13). -/
def State.windowTrap (s : State) : State := s.trap 0x09 (s.me.wsp.setWidth 64) (BitVec.ofNat 64 s.me.depth)

/-- A call enters a new window: the link goes to w15 of the caller, w16 to w23 become w0 to w7, the others are zero. -/
def Thread.enter (t : Thread) (link dest : Word) : Thread :=
  let t := t.setW 15 link
  let frame := t.w.toList.take 16
  let w := Vector.ofFn fun i : Fin 24 => if i.val < 8 then t.w.toList.getD (16 + i.val) 0 else 0
  { t with w := w, older := frame :: t.older, depth := t.depth + 1 }.performed dest

/-- A return restores the caller's frame: w0 to w7 become w16 to w23. -/
def Thread.restore (t : Thread) (frame : List Word) : Thread :=
  let w := Vector.ofFn fun i : Fin 24 => if i.val < 16 then frame.getD i.val 0 else t.w.toList.getD (i.val - 16) 0
  { t with w := w, older := t.older.tail, depth := t.depth - 1 }.performed (frame.getD 15 0)

/-- The oldest of the on-chip windows is spilled (R13). -/
def State.spill (s : State) (c : Nat) (k : Fin 16) (a : Nat) : State :=
  let t := s.thread c k
  let s := lsWrite s c a (wordsBytes (t.older.getLastD []))
  s.setThread c k { t with older := t.older.dropLast, wsp := t.wsp + 128 }

/-- A call to a target: a fourth window on chip is spilled first; if it cannot be, nothing changes (R13, R90). before is the state before
the operand was read. -/
def State.callTo (s before : State) (i : Instr) (dest : Word) : State :=
  let t := s.me
  let link := nextPc t (lengthOf i)
  if t.older.length < 3 then s.setMe (t.enter link dest)
  else match t.spillAt with
    | some _ => s.remove (.window (.spill dest link) s.iword)
    | none => before.windowTrap

def execCall (off : BitVec 26) (s : State) : Host.Outcome State Fault Refusal :=
  .next (s.gated (.call off) fun s => s.callTo s (.call off) (target s.me.pc off))

def execCallr (a : Src) (s : State) : Host.Outcome State Fault Refusal :=
  .next (s.gated (.callr a) fun s =>
    let r := s.read a
    if misaligned r.1 then s.trapOpen 0x06 else r.2.callTo s (.callr a) r.1)

def execRet (s : State) : Host.Outcome State Fault Refusal :=
  .next (s.gated .ret fun s =>
    let t := s.me
    if t.depth = 0 then s.windowTrap
    else match t.older with
      | f :: _ => if misaligned (f.getD 15 0) then s.trapOpen 0x06 else s.setMe (t.restore f)
      | [] =>
        match t.fillAt with
        | some _ => s.remove (.window .fill s.iword)
        | none => s.windowTrap)

/-- A spill or fill completes, and the call or return proceeds (R14). -/
def execWindowSpillFillComplete (c : Nat) (k : Fin 16) (s : State) : Host.Outcome State Fault Refusal :=
  .next (
    let s1 := s.as c k
    match s1.me.st with
    | .removed (.window (.spill dest link) _) =>
      let s1 := s1.spill c k ((fld (s1.me.sg.get 1).w0 0 18).toNat + s1.me.wsp.toNat)
      s1.boundary c k (s1.me.enter link dest)
    | .removed (.window .fill w) =>
      let t := s1.me
      let f := frameWords s1 c ((fld (t.sg.get 1).w0 0 18).toNat + (t.wsp - 128).toNat)
      if misaligned (f.getD 15 0) then { s1 with iword := w }.trapOpen 0x06
      else s1.boundary c k ({ t with wsp := t.wsp - 128 }.restore f)
    | _ => s)

-- Thread control (R91-R94) ------------------------------------------------------------------------------------------------------

/-- The thread gives way at its next turn (R92). -/
def State.giveWay (s : State) (i : Instr) : State :=
  let s := s.advance i
  s.setMe { s.me with yielding := true }

/-- end waits for relaxed accesses, then the thread is Removed until it retires; in slot 0 it acts as yield (R91). DESIGN CHOICE (log entry
43): a keeper that is a motor yields, its end is forwarded, and its tow dissolves. -/
def execEndT (s : State) : Host.Outcome State Fault Refusal :=
  .next (s.gated .endT fun s =>
    if s.slot.val ≠ 0 then s.remove .ending
    else match s.me.tow with
      | .motor _ _ => (s.giveWay .endT).leaveTow
      | _ => s.giveWay .endT)

def execYield (s : State) : Host.Outcome State Fault Refusal :=
  .next (s.giveWay .yield)

def execWait (a : Src) (s : State) : Host.Outcome State Fault Refusal :=
  .next (s.gated (.wait a) fun s =>
    let (x, s) := s.read a
    if s.me.ev &&& waitMask x ≠ 0 then s.advance (.wait a) else s.block (.wait (waitMask x) (lengthOf (.wait a))))

def execAlarm (a : Src) (s : State) : Host.Outcome State Fault Refusal :=
  .next (s.gated (.alarm a) fun s =>
    let (x, s) := s.read a
    let s := s.advance (.alarm a)
    s.setMe { s.me with alarm := x, alarmFrom := s.clk + 1 })

/-- A W record that a core posts to one of its own slots. -/
def ownWake (s : State) (c : Nat) (k : Fin 16) (tag : Half) (bits : Word) : Record :=
  mkRec (taOf s c k) kW 6 tag (BitVec.ofNat 64 k.val) [bits]

/-- Whether a slot's alarm expires in a cycle: the first with clk at or above it, but none before the cycle after its issue (R94). -/
def Thread.alarmDue (now : Nat) (t : Thread) : Bool :=
  t.st != .empty && t.alarm != 0 && decide (t.alarm.toNat ≤ now) && decide (t.alarmFrom ≤ now)

/-- The alarm of a slot passes: a wake record with bit 63 goes to the core's own pound (R94). -/
def execAlarmExpiry (c : Nat) (k : Fin 16) (s : State) : Host.Outcome State Fault Refusal :=
  .next (
    let t := s.thread c k
    if t.alarmDue s.clk then
      (s.setThread c k { t with alarm := 0 }).post (senderThread c k) (ownWake s c k t.tag ((1 : Word) <<< 63))
    else s)

/-- A slot that has been blocked in wait or bar for more than 4,096 cycles shows in kwd (01 R15). -/
def execKwdTimeout (c : Nat) (k : Fin 16) (s : State) : Host.Outcome State Fault Refusal :=
  .next (
    let t := s.thread c k
    if blockedLong t && decide (t.since + 4096 < s.clk) then
      s.setCore c { s.getCore c with kwd := (s.getCore c).kwd ||| (1 : Half) <<< k.val }
    else s)

end Sys2Proof.Machine
end

