-- ==== Sys2Proof/Machine/Float.lean ====
section
/-! DEFINITION. Floating values, exact arithmetic and the one rounding of each result (03 R56-R65, R71, R72; 06 R114). -/

namespace Sys2Proof.Machine

open Sys2Proof

-- Formats (R56, R57) --------------------------------------------------------------------------------------------------------

/-- A floating format: exponent and fraction bits, bias, and whether it is e4m3, which has no infinity. -/
structure Fmt where
  eb : Nat
  mb : Nat
  bias : Nat
  noInf : Bool
  deriving DecidableEq, Repr

def fF32 : Fmt := ⟨8, 23, 127, false⟩
def fBf16 : Fmt := ⟨8, 7, 127, false⟩
def fF16 : Fmt := ⟨5, 10, 15, false⟩
def fE4m3 : Fmt := ⟨4, 3, 7, true⟩
def fE5m2 : Fmt := ⟨5, 2, 15, false⟩

/-- A format's width in bits. -/
def Fmt.width (f : Fmt) : Nat := 1 + f.eb + f.mb
/-- The canonical NaN. -/
def Fmt.nan (f : Fmt) : Nat := if f.noInf then 0x7F else (2 ^ f.eb - 1) * 2 ^ f.mb + 2 ^ (f.mb - 1)
/-- The infinity pattern without its sign. -/
def Fmt.inf (f : Fmt) : Nat := (2 ^ f.eb - 1) * 2 ^ f.mb
/-- The largest finite pattern. -/
def Fmt.top (f : Fmt) : Nat := if f.noInf then 0x7E else f.inf - 1
/-- The sign bit. -/
def Fmt.sign (f : Fmt) (neg : Bool) : Nat := if neg then 2 ^ (f.eb + f.mb) else 0
/-- The exponent of the unit of a subnormal. -/
def Fmt.emin (f : Fmt) : Int := 1 - (f.bias : Int) - (f.mb : Int)

/-- A floating value: m * 2^e with a sign, an infinity or NaN. -/
inductive FVal where
  | nan
  | inf (neg : Bool)
  | fin (neg : Bool) (m : Nat) (e : Int)
  deriving DecidableEq, Repr

/-- The value of a pattern. -/
def Fmt.value (f : Fmt) (b : Nat) : FVal :=
  let neg := b.testBit (f.eb + f.mb)
  let e := b / 2 ^ f.mb % 2 ^ f.eb
  let m := b % 2 ^ f.mb
  if f.noInf then
    if e = 15 ∧ m = 7 then .nan
    else if e = 0 then .fin neg m f.emin else .fin neg (2 ^ f.mb + m) (f.emin + e - 1)
  else if e = 2 ^ f.eb - 1 then if m = 0 then .inf neg else .nan
  else if e = 0 then .fin neg m f.emin
  else .fin neg (2 ^ f.mb + m) (f.emin + e - 1)

-- Rounding (R61-R65) ------------------------------------------------------------------------------------------------------------

/-- m / 2^d rounded to an integer by a mode. -/
def roundShift (r : Rounding) (neg : Bool) (m d : Nat) : Nat :=
  let q := m / 2 ^ d
  let x := m % 2 ^ d
  let up : Bool := match r with
    | .rne => decide (2 ^ d < 2 * x) || (decide (2 * x = 2 ^ d ∧ d ≠ 0) && q % 2 == 1)
    | .rtz => false
    | .rdn => neg && x != 0
    | .rup => !neg && x != 0
  if up then q + 1 else q

/-- What a finite result beyond the largest finite value is delivered as (R62, R63). -/
def Fmt.overflow (f : Fmt) (r : Rounding) (neg : Bool) : Nat :=
  if f.noInf then f.top
  else match r with
    | .rne => f.inf
    | .rtz => f.top
    | .rdn => if neg then f.inf else f.top
    | .rup => if neg then f.top else f.inf

/-- The pattern of ±m * 2^e in a format, rounded once. -/
def Fmt.round (f : Fmt) (r : Rounding) (neg : Bool) (m : Nat) (e : Int) : Nat :=
  if m = 0 then f.sign neg
  else
    let u : Int := max f.emin (e + (Nat.log2 m : Int) - f.mb)
    let q := if u ≤ e then m * 2 ^ (e - u).toNat else roundShift r neg m (u - e).toNat
    let b := (u - f.emin).toNat * 2 ^ f.mb + q
    f.sign neg + (if f.top < b then f.overflow r neg else b)

/-- The pattern of a value. e4m3 takes an infinity as its largest value (R63). -/
def Fmt.pack (f : Fmt) (r : Rounding) : FVal → Nat
  | .nan => f.nan
  | .inf neg => f.sign neg + (if f.noInf then f.top else f.inf)
  | .fin neg m e => f.round r neg m e

-- Exact arithmetic (R59, R60, R113) ------------------------------------------------------------------------------------------------

/-- A signed magnitude as an integer. -/
def sgn (neg : Bool) (m : Nat) : Int := if neg then -(m : Int) else m

/-- The exact sum. An exact zero is -0 when both addends are negative zeros, else +0. -/
def FVal.add : FVal → FVal → FVal
  | .nan, _ => .nan
  | _, .nan => .nan
  | .inf a, .inf b => if a = b then .inf a else .nan
  | .inf a, _ => .inf a
  | _, .inf b => .inf b
  | .fin a m e, .fin b n g =>
    let u := min e g
    let x := sgn a (m * 2 ^ (e - u).toNat) + sgn b (n * 2 ^ (g - u).toNat)
    if x = 0 then .fin (a && b) 0 u else .fin (decide (x < 0)) x.natAbs u

/-- The negated value; a NaN stays NaN. -/
def FVal.neg : FVal → FVal
  | .nan => .nan
  | .inf a => .inf !a
  | .fin a m e => .fin (!a) m e

/-- The exact product. -/
def FVal.mul : FVal → FVal → FVal
  | .nan, _ => .nan
  | _, .nan => .nan
  | .inf a, .inf b => .inf (a != b)
  | .inf a, .fin b n _ => if n = 0 then .nan else .inf (a != b)
  | .fin a m _, .inf b => if m = 0 then .nan else .inf (a != b)
  | .fin a m e, .fin b n g => .fin (a != b) (m * n) (e + g)

/-- The exact order: x < y, where -0 is below +0 if zeros is set (R60, R118). Neither is NaN. -/
def FVal.lt (zeros : Bool) : FVal → FVal → Bool
  | .inf a, .inf b => a && !b
  | .inf a, _ => a
  | _, .inf b => !b
  | .fin a m e, .fin b n g =>
    let u := min e g
    let x := sgn a (m * 2 ^ (e - u).toNat)
    let y := sgn b (n * 2 ^ (g - u).toNat)
    decide (x < y) || (zeros && decide (x = y) && m == 0 && a && !b)
  | _, _ => false

/-- Whether a value is NaN. -/
def FVal.isNan : FVal → Bool
  | .nan => true
  | _ => false

/-- The larger of two patterns of a format (R60). -/
def Fmt.maxOf (f : Fmt) (a b : Nat) : Nat :=
  let x := f.value a
  let y := f.value b
  if x.isNan then if y.isNan then f.nan else b
  else if y.isNan then a else if x.lt true y then b else a

/-- The smaller of two patterns of a format (R60). -/
def Fmt.minOf (f : Fmt) (a b : Nat) : Nat :=
  let x := f.value a
  let y := f.value b
  if x.isNan then if y.isNan then f.nan else b
  else if y.isNan then a else if y.lt true x then b else a

/-- A sum of two patterns, rounded once. -/
def Fmt.addOf (f : Fmt) (a b : Nat) : Nat := f.pack .rne ((f.value a).add (f.value b))
/-- A difference. -/
def Fmt.subOf (f : Fmt) (a b : Nat) : Nat := f.pack .rne ((f.value a).add (f.value b).neg)
/-- A product. -/
def Fmt.mulOf (f : Fmt) (a b : Nat) : Nat := f.pack .rne ((f.value a).mul (f.value b))
/-- a * b + c, rounded once. -/
def Fmt.fmaOf (f : Fmt) (a b c : Nat) : Nat := f.pack .rne (((f.value a).mul (f.value b)).add (f.value c))
/-- a * b - c, rounded once. -/
def Fmt.fmsOf (f : Fmt) (a b c : Nat) : Nat := f.pack .rne (((f.value a).mul (f.value b)).add (f.value c).neg)

-- Division and roots (R114) -------------------------------------------------------------------------------------------------------------

/-- A quotient or root r with a sticky bit below it. -/
def sticky (r : Nat) (exact : Bool) : Nat := if exact then 2 * r else 2 * r + 1

/-- The quotient, exact but for a sticky bit far below every rounding point. -/
def FVal.div : FVal → FVal → FVal
  | .nan, _ => .nan
  | _, .nan => .nan
  | .inf _, .inf _ => .nan
  | .inf a, .fin b _ _ => .inf (a != b)
  | .fin a _ _, .inf b => .fin (a != b) 0 0
  | .fin a m e, .fin b n g =>
    if n = 0 then if m = 0 then .nan else .inf (a != b)
    else .fin (a != b) (sticky (m * 2 ^ 96 / n) (m * 2 ^ 96 % n == 0)) (e - g - 97)

/-- One bit after another of an integer square root. -/
def isqrtFrom (n : Nat) : Nat → Nat → Nat
  | 0, r => r
  | i + 1, r => if (r + 2 ^ i) * (r + 2 ^ i) ≤ n then isqrtFrom n i (r + 2 ^ i) else isqrtFrom n i r

/-- The integer square root. -/
def isqrt (n : Nat) : Nat := isqrtFrom n (Nat.log2 n / 2 + 1) 0

/-- One over the square root. -/
def FVal.rsqrt : FVal → FVal
  | .nan => .nan
  | .inf a => if a then .nan else .fin false 0 0
  | .fin a m e =>
    if m = 0 then .inf a
    else if a then .nan
    else
      let m := if e % 2 = 0 then m else 2 * m
      let h := e / 2
      let r := isqrt (2 ^ 256 / m)
      .fin false (sticky r (r * r * m == 2 ^ 256)) (-129 - h)

-- Exponential and logarithm (R114; log entry 15) ----------------------------------------------------------------------------------------------

/-- Bits kept by the exponential, fraction bits delivered by the logarithm, bits kept while forming them. -/
def expBits : Nat := 320
def logBits : Nat := 160
def logKeep : Nat := 400

/-- Multiplies acc by the roots 2^(1/2), 2^(1/4), … that the k bits of n select, from the highest down. -/
def expFrom (n : Nat) : Nat → Nat → Nat → Nat
  | 0, _, acc => acc
  | i + 1, r, acc =>
    let r := isqrt (r * 2 ^ expBits)
    expFrom n i r (if n.testBit i then acc * r / 2 ^ expBits else acc)

/-- Two to a value. -/
def FVal.exp2 : FVal → FVal
  | .nan => .nan
  | .inf a => if a then .fin false 0 0 else .inf false
  | .fin a m e =>
    if m = 0 then .fin false 1 0
    else if (10 : Int) ≤ e + (Nat.log2 m : Int) then if a then .fin false 1 (-2000) else .fin false 1 2000
    else if 0 ≤ e then .fin false 1 (sgn a (m * 2 ^ e.toNat))
    else
      let k := (-e).toNat
      let i := Int.fdiv (sgn a m) (2 ^ k : Nat)
      let n := (Int.fmod (sgn a m) (2 ^ k : Nat)).toNat
      if n = 0 then .fin false 1 i
      else .fin false (2 * expFrom n k (2 ^ (expBits + 1)) (2 ^ expBits) + 1) (i - expBits - 1)

/-- n bits of the binary logarithm of y / 2^logKeep, which lies in [1, 2). -/
def logFrom : Nat → Nat → Nat → Nat
  | 0, _, acc => acc
  | n + 1, y, acc =>
    let z := y * y / 2 ^ logKeep
    if 2 ^ (logKeep + 1) ≤ z then logFrom n (z / 2) (2 * acc + 1) else logFrom n z (2 * acc)

/-- The binary logarithm. -/
def FVal.log2 : FVal → FVal
  | .nan => .nan
  | .inf a => if a then .nan else .inf false
  | .fin a m e =>
    if m = 0 then .inf true
    else if a then .nan
    else
      let l := Nat.log2 m
      let i := e + (l : Int)
      if m = 2 ^ l then .fin (decide (i < 0)) i.natAbs 0
      else
        let v : Int := 2 * (i * (2 ^ logBits : Nat) + (logFrom logBits (m * 2 ^ (logKeep - l)) 0 : Nat)) + 1
        .fin (decide (v < 0)) v.natAbs (-(logBits : Int) - 1)

-- Conversions to integers (R64) ----------------------------------------------------------------------------------------------------------------

/-- A value rounded to an integer and clamped to w bits. -/
def FVal.toInt (r : Rounding) (w : Nat) : FVal → Int
  | .nan => 0
  | .inf a => if a then -(2 ^ (w - 1) : Nat) else (2 ^ (w - 1) : Nat) - 1
  | .fin a m e =>
    let q := if 0 ≤ e then m * 2 ^ e.toNat else roundShift r a m (-e).toNat
    clampI (-(2 ^ (w - 1) : Nat)) ((2 ^ (w - 1) : Nat) - 1) (sgn a q)

/-- An integer as a value; zero is +0. -/
def FVal.ofInt (x : Int) : FVal := .fin (decide (x < 0)) x.natAbs 0

-- 32-bit lanes of the bank ALU and of rafts (05 R105, 08 R151) ----------------------------------------------------------------------------------

/-- f32 addition on lanes. -/
def addF32 (a b : W32) : W32 := BitVec.ofNat 32 (fF32.addOf a.toNat b.toNat)

/-- One lane of a bank operation. -/
def bopLane (op : BopOp) (old v : W32) : W32 :=
  let halves (f : Nat → Nat → Nat) : W32 :=
    (BitVec.ofNat 16 (f (fld old 16 16).toNat (fld v 16 16).toNat) : BitVec 16) ++
      (BitVec.ofNat 16 (f (fld old 0 16).toNat (fld v 0 16).toNat) : BitVec 16)
  match op with
  | .addI32 => old + v
  | .addF32 => addF32 old v
  | .addBf16 => halves fBf16.addOf
  | .maxF32 => BitVec.ofNat 32 (fF32.maxOf old.toNat v.toNat)
  | .maxBf16 => halves fBf16.maxOf
  | .minF32 => BitVec.ofNat 32 (fF32.minOf old.toNat v.toNat)

/-- A bank operation on a line: the lanes that a mask enables. -/
def bopLine (op : BopOp) (mask : Word) (old v : Vec) : Vec :=
  ofLanes 32 (fun i => if bit mask i then bopLane op (lane 32 old i) (lane 32 v i) else lane 32 old i) 16

end Sys2Proof.Machine
end

