-- ==== Sys2Proof/Machine/Memory.lean ====
section
/-! DEFINITION. Meanings of majors 0x10 to 0x17 (05 R97-R109), the homes at which accesses are performed (13 R230-R241), and the events
that belong to them: replies, relaxed accesses, page walks, instruction fetch. -/

namespace Sys2Proof.Machine

open Sys2Proof

-- The check of an access (R97, R105, 13 R231) ---------------------------------------------------------------------------

/-- Bytes that the check covers, and that the access touches. -/
def MemOp.span : MemOp → Nat
  | .ld sz _ _ => sz.bytes
  | .st sz => sz.bytes
  | .vld _ _ _ => 64
  | .vst _ _ _ => 64
  | .amo _ wide _ => if wide then 8 else 4
  | .bop _ _ => 64
  | .wld _ lines => 64 * lines

/-- Rights that the access needs. -/
def MemOp.need : MemOp → BitVec 3
  | .ld _ _ _ => needR
  | .vld _ _ _ => needR
  | .wld _ _ => needR
  | .st _ => needW
  | .vst _ _ _ => needW
  | .amo _ _ _ => needRW
  | .bop _ _ => needRW

/-- Alignment that the access needs. -/
def MemOp.align : MemOp → Nat
  | .ld sz _ _ => sz.bytes
  | .st sz => sz.bytes
  | .vld sz _ _ => sz.bytes
  | .vst sz _ _ => sz.bytes
  | .amo _ wide _ => if wide then 8 else 4
  | .bop _ _ => 64
  | .wld _ _ => 64

/-- The access kind of a fault record (13 R243). -/
def MemOp.code : MemOp → Nat
  | .ld _ _ _ => 0
  | .vld _ _ _ => 0
  | .wld _ _ => 0
  | .st _ => 1
  | .vst _ _ _ => 1
  | .amo _ _ _ => 2
  | .bop _ _ => 2

/-- What is checked in the position of the rights: a bank operation needs kind 2, a wld takes no kind 1, and a vst of small elements through kind 1 takes only
the mask m0 (R105, R231). -/
def MemOp.allowed (op : MemOp) (kind : Nat) : Bool :=
  match op with
  | .bop _ _ => kind == 2
  | .wld _ _ => kind != 1
  | .vst sz m _ => !(kind == 1 && decide (sz.bytes < 4) && m != 0)
  | _ => true

/-- The check of an access: the trap's cause, or the address. -/
def checkAccess (s : State) (g : Seg) (op : MemOp) (off : Word) (disp : Nat) : Except Nat Nat :=
  segCheck s g (off.toNat + disp) op.span op.need op.align (op.allowed g.kind)

-- Performing an access at its home (14 R249) --------------------------------------------------------------------------------

/-- Reads n bytes at an offset of a home. -/
def homeRead (s : State) (h : Home) (off n : Nat) : List Byte :=
  match h with
  | .raw a => rawRead s (a + off) n
  | .dva cl asid a => dvaBytes s cl asid (a + off) n
  | .held ps => piecesBytes s (cutPieces ps off n)

/-- Whether a byte of a range of a home lies in a poisoned line. -/
def homePoisoned (s : State) (h : Home) (off n : Nat) : Bool :=
  match h with
  | .raw a => poisoned s (a + off) n
  | .dva cl asid a => dvaPoisoned s cl asid (a + off) n
  | .held ps => (cutPieces ps off n).any fun p => poisoned s p.2.1 p.2.2

/-- Writes bytes at an offset of a home. -/
def homeWrite (s : State) (h : Home) (off : Nat) (bs : List Byte) : State :=
  match h with
  | .raw a => rawWrite s (a + off) bs
  | .dva cl asid a => dvaPut s cl asid (a + off) bs
  | .held ps => writePieces s (cutPieces ps off bs.length) bs

/-- The enabled lanes of a mask, for elements of e bytes. -/
def enabledLanes (mask : Word) (e : Nat) : List Nat := (List.range (64 / e)).filter fun i => bit mask i

/-- Reads the enabled lanes; the others are zero (R103). -/
def readLanes (s : State) (h : Home) (e : Nat) : List Nat → Vec
  | [] => 0
  | i :: l => setFld (readLanes s h e l) (8 * e * i) (BitVec.ofNat (8 * e) (bytesNat (homeRead s h (e * i) e)))

/-- Writes the enabled lanes; the other bytes stay. -/
def writeLanes (s : State) (h : Home) (e : Nat) (v : Vec) : List Nat → State
  | [] => s
  | i :: l => writeLanes (homeWrite s h (e * i) (natBytes e (v.toNat / 2 ^ (8 * e * i)))) h e v l

/-- The new value of an atomic, n bytes wide (R104): none when a cas writes nothing. -/
def amoNew (op : AmoOp) (n : Nat) (old d exp : Nat) : Option Nat :=
  let m := 2 ^ (8 * n)
  match op with
  | .add => some ((old + d) % m)
  | .and => some (old &&& d)
  | .or => some (old ||| d)
  | .xor => some (old ^^^ d)
  | .minI => some (if sval (8 * n) old ≤ sval (8 * n) d then old else d)
  | .maxI => some (if sval (8 * n) d ≤ sval (8 * n) old then old else d)
  | .swap => some d
  | .cas => if old = exp then some d else none

/-- Performs an access: none if it consumes poison, else what it read and the state after it. -/
def performAt (s : State) (h : Home) (op : MemOp) (data : Vec) (exp : Word) : Option (Vec × State) :=
  match op with
  | .ld sz _ _ =>
    if homePoisoned s h 0 sz.bytes then none else some (BitVec.ofNat 512 (bytesNat (homeRead s h 0 sz.bytes)), s)
  | .st sz => some (0, homeWrite s h 0 (natBytes sz.bytes data.toNat))
  | .vld sz mask _ =>
    let ls := enabledLanes mask sz.bytes
    if ls.any fun i => homePoisoned s h (sz.bytes * i) sz.bytes then none else some (readLanes s h sz.bytes ls, s)
  | .vst sz _ mask =>
    let ls := enabledLanes mask sz.bytes
    if ls.length = 64 / sz.bytes then some (0, homeWrite s h 0 (natBytes 64 data.toNat))
    else some (0, writeLanes s h sz.bytes data ls)
  | .amo op wide _ =>
    let n := if wide then 8 else 4
    if homePoisoned s h 0 n then none
    else
      let old := bytesNat (homeRead s h 0 n)
      match amoNew op n old (data.toNat % 2 ^ (8 * n)) (exp.toNat % 2 ^ (8 * n)) with
      | some v => some (BitVec.ofNat 512 old, homeWrite s h 0 (natBytes n v))
      | none => some (BitVec.ofNat 512 old, s)
  | .bop op mask =>
    if homePoisoned s h 0 64 then none
    else some (0, homeWrite s h 0 (natBytes 64 (bopLine op mask (BitVec.ofNat 512 (bytesNat (homeRead s h 0 64))) data).toNat))
  | .wld _ _ => some (0, s)

/-- The result of a load with its extension, or of an atomic (R100, R104). -/
def loaded (sz : Size) (signed : Bool) (v : Vec) : Word :=
  let w : Word := v.setWidth 64
  if signed then sext64 (8 * sz.bytes) w else zext64 (8 * sz.bytes) w

/-- An access that has been performed writes its destination; the pc then moves, if pc names where. -/
def State.land (s : State) (op : MemOp) (v : Vec) (pc : Option Word) : State :=
  match op with
  | .ld sz sg d => s.finish d (loaded sz sg v) pc
  | .vld _ _ d => (s.setMe (s.me.setV d v)).move pc
  | .amo _ wide d => s.finish d (if wide then v.setWidth 64 else sext64 32 (v.setWidth 64)) pc
  | _ => s.move pc

/-- The access takes trap 0x0A, with the address that it computed, and source 65 fires (R99, 09 R189, 21 R320). -/
def State.poisonTrap (s : State) (c : Nat) (k : Fin 16) (x : Access) : State :=
  (fire s 65).trapThread c k 0x0A x.iword x.pc (BitVec.ofNat 64 x.addr) 0

-- Remote accesses (13 R231) -----------------------------------------------------------------------------------------------------

/-- The op field of a remote-access record. -/
def MemOp.remoteOp : MemOp → Nat
  | .ld _ _ _ => 0
  | .st _ => 1
  | .vld _ _ _ => 2
  | .vst _ _ _ => 3
  | .amo op _ _ => 4 + op.num
  | _ => 15

/-- The size field, the log of the element size. -/
def MemOp.remoteSize : MemOp → Nat
  | .ld sz _ _ => sz.code.toNat
  | .st sz => sz.code.toNat
  | .vld sz _ _ => sz.code.toNat
  | .vst sz _ _ => sz.code.toNat
  | .amo _ wide _ => if wide then 3 else 2
  | _ => 0

/-- The mask field: for a vst with 4- or 8-byte elements. -/
def MemOp.remoteMask : MemOp → BitVec 16
  | .vst sz _ mask => if 4 ≤ sz.bytes then fld mask 0 16 &&& BitVec.ofNat 16 (2 ^ (64 / sz.bytes) - 1) else 0
  | _ => 0

/-- The payload of a remote-access record. -/
def remotePayload (x : Access) : List Word :=
  match x.op with
  | .st _ => [x.data.setWidth 64]
  | .amo .cas _ _ => [x.data.setWidth 64, x.exp]
  | .amo _ _ _ => [x.data.setWidth 64]
  | .vst _ _ _ => (List.range 8).map fun i => lane 64 x.data i
  | _ => [0]

/-- The remote-access record of an access (R231). -/
def remoteRecord (s : State) (c : Nat) (k : Fin 16) (x : Access) : Record :=
  let key : Word := (1 : BitVec 1) ++ BitVec.ofNat 4 x.op.remoteOp ++ BitVec.ofNat 2 x.op.remoteSize ++ BitVec.ofNat 18 x.addr ++
    taOf s c k ++ x.op.remoteMask ++ (0 : BitVec 3)
  mkRec (coreTa (coreAddress s x.owner)) kM 0 (s.thread c k).tag key (remotePayload x)

-- Starting an access --------------------------------------------------------------------------------------------------------------

/-- The operand that a trap record carries as info B: the store data or the atomic's operand (R98). -/
def infoB (op : MemOp) (data : Vec) : Word :=
  match op with
  | .st _ => data.setWidth 64
  | .amo _ _ _ => data.setWidth 64
  | _ => 0

/-- The thread has a relaxed access through kind 1 in flight: its record is the only one on its way (log entry 32). -/
def Thread.remoteBusy (t : Thread) : Bool := t.relaxed.any fun r => r.sent && r.status.isNone

/-- A relaxed access in flight of a thread, at a place among the others: one through kind 1 posts its record unless another has. -/
def State.launchRelaxed (s : State) (x : Access) (n : Nat) : State :=
  let t := s.me
  let now : Bool := decide (x.kind = 1) && !t.remoteBusy
  let s := if now then s.post (senderThread s.core s.slot) (remoteRecord s s.core s.slot x) else s
  s.setMe { t with relaxed := t.relaxed.take n ++ { acc := x, joined := s.clk, sent := now } :: t.relaxed.drop n }

/-- Whether an access is the load of weight lines (07 R137). -/
def MemOp.isWld : MemOp → Bool
  | .wld _ _ => true
  | _ => false

/-- Notes the cycle in which a weir instruction issues: a core issues at most one a cycle, so this orders them (07 R138). -/
def State.stamp (s : State) : State := s.setMe { s.me with since := s.clk }

/-- A checked access starts. Kind 0 is performed at once; other kinds remove the thread until the reply, or go into flight when
relaxed (R101, R102). replayed: the pager or the keeper performs it anew; a wld then keeps its place among the weir instructions. -/
def State.startAccess (s : State) (x : Access) (rlx replayed : Bool) : State :=
  let pc := some (x.pc + BitVec.ofNat 64 x.len)
  if x.op.isWld then
    let s := s.remove (.wld x none)
    if replayed then s else s.stamp
  else if x.kind = 0 then
    match performAt s (.raw (lsKey s.core x.addr)) x.op x.data x.exp with
    | none => s.poisonTrap s.core s.slot x
    | some (v, s) => s.land x.op v pc
  else if rlx then (s.launchRelaxed x s.me.relaxed.length).move pc
  else if x.kind = 1 then (s.remove (.remote x)).post (senderThread s.core s.slot) (remoteRecord s s.core s.slot x)
  else s.remove (.mem x)

/-- An access checks its segment and starts, or traps with its operands as read (R97, R98). -/
def State.access (s : State) (i : Instr) (op : MemOp) (rlx : Bool) (sg : Fin 8) (off : Word) (disp : Nat) (data : Vec) (exp : Word) :
    State :=
  let g := s.me.sg.get sg
  match checkAccess s g op off disp with
  | .error c => s.trap c off (infoB op data)
  | .ok a =>
    s.startAccess { op := op, sg := sg, off := off, disp := disp, data := data, exp := exp, kind := g.kind, addr := a,
                    owner := g.owner s.core, pc := s.me.pc, iword := s.iword, len := lengthOf i } rlx false

-- Loads and stores (R100, R103) --------------------------------------------------------------------------------------------------------

def execLd (sz : Size) (signed rlx : Bool) (sg : Fin 8) (d : Dst) (o : Src) (disp : BitVec 6) (s : State) :
    Host.Outcome State Fault Refusal :=
  .next (s.gated (.ld sz signed rlx sg d o disp) fun s =>
    let (x, s) := s.read o
    s.access (.ld sz signed rlx sg d o disp) (.ld sz signed d) rlx sg x (disp.toNat * sz.bytes) 0 0)

def execSt (sz : Size) (rlx : Bool) (sg : Fin 8) (a o : Src) (disp : BitVec 6) (s : State) : Host.Outcome State Fault Refusal :=
  .next (s.gated (.st sz rlx sg a o disp) fun s =>
    let (v, s) := s.read a
    let (x, s) := s.read o
    s.access (.st sz rlx sg a o disp) (.st sz) rlx sg x (disp.toNat * sz.bytes) (v.setWidth 512) 0)

def execVld (sz : Size) (m : Fin 4) (rlx : Bool) (sg : Fin 8) (vd : Fin 16) (o : Src) (disp : BitVec 6) (s : State) :
    Host.Outcome State Fault Refusal :=
  .next (s.gated (.vld sz m rlx sg vd o disp) fun s =>
    let (x, s) := s.read o
    s.access (.vld sz m rlx sg vd o disp) (.vld sz (s.me.mask m) vd) rlx sg x (disp.toNat * sz.bytes) 0 0)

def execVst (sz : Size) (m : Fin 4) (rlx : Bool) (sg : Fin 8) (va : Fin 16) (o : Src) (disp : BitVec 6) (s : State) :
    Host.Outcome State Fault Refusal :=
  .next (s.gated (.vst sz m rlx sg va o disp) fun s =>
    let (x, s) := s.read o
    s.access (.vst sz m rlx sg va o disp) (.vst sz m (s.me.mask m)) rlx sg x (disp.toNat * sz.bytes) (s.me.v.get va) 0)

-- Atomics and bank operations (R104, R105) -------------------------------------------------------------------------------------------------

/-- The register with the next operand code: where a cas finds its expected value (R104). -/
def nextSrc : Dst → Src
  | .g i => .g (i + 1)
  | .w i => .w (i + 1)
  | .q i => .q (i + 1)
  | .e i => .e (i + 1)

/-- The expected value of a cas; zero for other atomics. -/
def expected (s : State) (op : AmoOp) (d : Dst) : Word :=
  match op with
  | .cas => (s.read (nextSrc d)).1
  | _ => 0

def execAmo (op : AmoOp) (wide : Bool) (sg : Fin 8) (d : Dst) (o : Src) (disp : BitVec 6) (s : State) :
    Host.Outcome State Fault Refusal :=
  .next (s.gated (.amo op wide sg d o disp) fun s =>
    let e := expected s op d
    let (v, s) := s.read d.asSrc
    let (x, s) := s.read o
    s.access (.amo op wide sg d o disp) (.amo op wide d) false sg x (disp.toNat * (if wide then 8 else 4)) (v.setWidth 512) e)

def execBop (op : BopOp) (sg : Fin 8) (va : Fin 16) (o : Src) (m : Fin 4) (s : State) : Host.Outcome State Fault Refusal :=
  .next (s.gated (.bop op sg va o m) fun s =>
    let (x, s) := s.read o
    s.access (.bop op sg va o m) (.bop op (s.me.mask m)) false sg x 0 (s.me.v.get va) 0)

-- Fences (R106, R107) ----------------------------------------------------------------------------------------------------------------------------

def execFenceRx (s : State) : Host.Outcome State Fault Refusal :=
  .next (s.gated .fenceRx fun s => s.advance .fenceRx)

def execFenceSc (sc : Scope) (s : State) : Host.Outcome State Fault Refusal :=
  .next (s.gated (.fenceSc sc) fun s => (s.advance (.fenceSc sc)).remove (.fence sc))

/-- Every write of the thread is visible when it is performed (14 R249), and none is left: the fence completes. -/
def execScFenceComplete (c : Nat) (k : Fin 16) (s : State) : Host.Outcome State Fault Refusal :=
  .next (
    let s1 := s.as c k
    match s1.me.st with
    | .removed (.fence _) => s1.completePc none
    | _ => s)

-- Segments (R108, R109) ------------------------------------------------------------------------------------------------------------------------------

/-- The width of the base field of a kind (01 R17). -/
def baseBits (kind : Nat) : Nat :=
  match kind with
  | 0 => 18
  | 1 => 18
  | 2 => 27
  | _ => 52

/-- A segment narrowed, or the trap's cause. -/
def Seg.narrow (g : Seg) (is1 : Bool) (o l : Word) (keep : BitVec 3) : Except Nat Seg :=
  let w := baseBits g.kind
  let b := g.w0.toNat % 2 ^ w
  if 4 ≤ g.kind then .error 0x04
  else if g.limit < o.toNat ∨ g.limit - o.toNat < l.toNat then .error 0x03
  else if is1 ∧ o ≠ 0 then .error 0x09
  else if 2 ^ w ≤ b + o.toNat then .error 0x05
  else .ok { w0 := g.w0 + o, w1 := setFld (setFld g.w1 0 (fld l 0 53 : BitVec 53)) 53 (g.rights &&& keep) }

def execSgnarrow (sg : Fin 8) (a o : Src) (keep : BitVec 3) (s : State) : Host.Outcome State Fault Refusal :=
  .next (s.gated (.sgnarrow sg a o keep) fun s =>
    let (l, s) := s.read a
    let (x, s) := s.read o
    match (s.me.sg.get sg).narrow (sg == 1) x l keep with
    | .error c => if c = 0x09 then s.windowTrap else s.trapOpen c
    | .ok g => (s.setMe (s.me.setSg sg g)).advance (.sgnarrow sg a o keep))

def execSgrd (sg : Fin 8) (d : Dst) (word : Bool) (s : State) : Host.Outcome State Fault Refusal :=
  .next (s.gated (.sgrd sg d word) fun s =>
    s.result (.sgrd sg d word) d (if word then (s.me.sg.get sg).w1 else (s.me.sg.get sg).w0))

-- The reply of an ordinary access (R101) -------------------------------------------------------------------------------------------------------------------

/-- Whether an access touches an address range: masked-off lanes touch nothing (R103). -/
def Access.touches (x : Access) (lo hi : Nat) : Bool :=
  let lane (mask : Word) (e : Nat) : Bool :=
    (enabledLanes mask e).any fun i => decide (x.addr + e * i < hi ∧ lo < x.addr + e * i + e)
  match x.op with
  | .vld sz mask _ => lane mask sz.bytes
  | .vst sz _ mask => lane mask sz.bytes
  | _ => true

/-- The pages that an access touches. -/
def Access.pages (x : Access) : List Nat :=
  (pagesOf x.addr x.op.span).filter fun p => x.touches (p * pageBytes) ((p + 1) * pageBytes)

/-- The lines that an access touches. -/
def Access.lines (x : Access) : List Nat :=
  ((List.range ((x.addr + x.op.span - 1) / 64 - x.addr / 64 + 1)).map fun i => x.addr / 64 + i).filter fun l =>
    x.touches (64 * l) (64 * l + 64)

/-- An access is looked up in the home-side caches, each line that it touches once (13 R234). -/
def Access.touch (x : Access) (s : State) (cl asid : Nat) : State := dvaTouch s (x.lines.flatMap fun l => pieces s cl asid (64 * l) 1)

/-- Whether a line that an access touches lies on a die whose home-side cache is being flushed (13 R234). -/
def Access.busy (x : Access) (s : State) (cl asid : Nat) : Bool := x.lines.any fun l => dvaBusy s cl asid (64 * l) 1

/-- Whether a vector access is performed as two, one per line that it touches (R103). -/
def Access.splits (x : Access) : Bool :=
  match x.op with
  | .vld _ _ _ => x.lines.length == 2
  | .vst _ _ _ => x.lines.length == 2
  | _ => false

/-- A vector access restricted to the lanes of its lower or its upper line; a lane lies in one line. -/
def MemOp.onLine (op : MemOp) (a : Nat) (upper : Bool) : MemOp :=
  let cut (mask : Word) (e : Nat) : Word :=
    let low : Word := BitVec.ofNat 64 (2 ^ ((64 - a % 64) / e) - 1)
    mask &&& (if upper then ~~~low else low)
  match op with
  | .vld sz mask d => .vld sz (cut mask sz.bytes) d
  | .vst sz m mask => .vst sz m (cut mask sz.bytes)
  | op => op

/-- The pieces of the lower or the upper line of a 64-byte access from the pieces of the whole. -/
def linePieces (ps : List (Leaf × Nat × Nat)) (a : Nat) (upper : Bool) : List (Leaf × Nat × Nat) :=
  if upper then cutPieces ps (64 - a % 64) (a % 64) else cutPieces ps 0 (64 - a % 64)

/-- What a kind 2 or 3 access meets at its home: it is done, one of its two lines is, it consumes poison, it waits, or it faults. -/
inductive Meets where
  | done (v : Vec) (s : State)
  | half (x : Access) (s : State)
  | poison
  | waits
  | faults (code dva : Nat)

/-- Performs one line of an access that crosses a line. got is what the other line read, if it has been performed. -/
def Access.reachLine (x : Access) (s : State) (h : Home) (upper : Bool) (got : Option Vec) : Meets :=
  let ps := match h with
    | .held ps => linePieces ps x.addr upper
    | _ => []
  if piecesBusy s ps then .waits
  else match performAt (dvaTouch s ps) h (x.op.onLine x.addr upper) x.data x.exp with
    | none => .poison
    | some (v, s) => match got with
      | some w => .done (v ||| w) s
      | none => .half { x with half := some { upper := !upper, got := v, home := h } } s

/-- Performs an access at its home, whose pages are translated. DESIGN CHOICE (log entry 6): which line of an access that crosses one goes first is a
free value. -/
def Access.reachHome (x : Access) (s : State) (h : Home) : Meets :=
  if x.splits then
    let s := { s with fresh := s.fresh + 1 }
    let upper := Config.upperFirst (s.fresh - 1)
    match h with
    | .dva cl asid a =>
      let s := if x.op.code = 0 then s else setDirtyAll s cl asid (pagesOf a x.op.span)
      x.reachLine s (.held (pieces s cl asid a x.op.span)) upper none
    | h => x.reachLine s h upper none
  else
    let s := match h with
      | .dva cl asid _ => x.touch s cl asid
      | _ => s
    match performAt s h x.op x.data x.exp with
    | none => .poison
    | some (v, s) => .done v s

/-- Performs a kind 2 or kind 3 access of a thread, or one of its two lines, if its pages are translated. The pages of a second line were translated
with the first (13 R244). -/
def reach (s : State) (c : Nat) (k : Fin 16) (x : Access) : Meets :=
  match x.half with
  | some h => x.reachLine s h.home h.upper (some h.got)
  | none =>
    if x.kind = 2 then x.reachHome s (.raw (basinKey x.owner x.addr))
    else
      let cl := clusterOf c
      let asid := asidOf s (s.thread c k) k
      match firstBad s cl asid x.op.code x.pages with
      | some (_, none) => .waits
      | some (p, some code) => .faults code (max x.addr (p * pageBytes))
      | none => if x.busy s cl asid then .waits else x.reachHome s (.dva cl asid x.addr)

def execMemoryReply (c : Nat) (k : Fin 16) (s : State) : Host.Outcome State Fault Refusal :=
  .next (
    let s1 := s.as c k
    match s1.me.st with
    | .removed (.mem x) =>
      match reach s1 c k x with
      | .waits => s
      | .poison => s1.poisonTrap c k x
      | .faults code dva => s1.faultThread c k code x.op.code dva (some (false, x)) 0
      | .half x s1 => s1.setMe { s1.me with st := .removed (.mem x) }
      | .done v s1 =>
        let s1 := { s1 with iword := x.iword }
        ((s1.setMe { s1.me with st := .runnable }).land x.op v (some (x.pc + BitVec.ofNat 64 x.len))).settleDone
    | _ => s)

-- Relaxed accesses (R102) ---------------------------------------------------------------------------------------------------------------------------------------

/-- Whether an access touches the byte at an address. -/
def Access.covers (x : Access) (a : Nat) : Bool := decide (x.addr ≤ a ∧ a < x.addr + x.op.span) && x.touches a (a + 1)

/-- Whether two accesses overlap: a byte that both touch. DESIGN CHOICE (log entry 63): bytes are compared by the addresses that the thread uses, so two
DVAs of one frame do not overlap. -/
def overlaps (x y : Access) : Bool :=
  x.kind == y.kind && x.owner == y.owner && (List.range x.op.span).any fun i => x.covers (x.addr + i) && y.covers (x.addr + i)

/-- Whether a relaxed access waits behind an earlier one whose bytes overlap. -/
def waitsBehind (l : List Relaxed) (n : Nat) (x : Access) : Bool := (l.take n).any fun r => overlaps r.acc x

/-- A relaxed access leaves the list; instructions that are held may issue again. -/
def Thread.dropRelaxed (t : Thread) (n : Nat) : Thread :=
  { t with relaxed := dropAt t.relaxed n, st := if t.st = .removed .held then .runnable else t.st }

/-- The thread parks for a failed relaxed access if it is held or Blocked; otherwise it does at its next issue, or when its operation
completes (R102, 09 R192). -/
def State.foundFailed (s : State) (c : Nat) (k : Fin 16) (r : Relaxed) : State :=
  match (s.thread c k).st with
  | .removed .held => parkRelaxed s c k r
  | .blocked _ => parkRelaxed s c k r
  | _ => s

/-- Marks a relaxed access as failed. -/
def State.failRelaxed (s : State) (c : Nat) (k : Fin 16) (n : Nat) (r : Relaxed) : State :=
  let t := s.thread c k
  ((s.setThread c k { t with relaxed := setAt t.relaxed n r }).foundFailed c k r).keeperFence c

/-- A relaxed access through kind 2 or 3 is performed, in issue order where bytes overlap. -/
def execRelaxedAccessComplete (c : Nat) (k : Fin 16) (n : Nat) (s : State) : Host.Outcome State Fault Refusal :=
  .next (
    let s1 := s.as c k
    match s1.me.relaxed[n]? with
    | none => s
    | some r =>
      if r.found.isSome || r.poison || r.status.isSome || r.acc.kind == 1 || waitsBehind s1.me.relaxed n r.acc then s
      else match reach s1 c k r.acc with
        | .waits => s
        | .faults _ _ => s
        | .poison => (fire s1 65).failRelaxed c k n { r with poison := true }
        | .half x s1 => s1.setMe { s1.me with relaxed := setAt s1.me.relaxed n { r with acc := x } }
        | .done v s1 => ((s1.setMe (s1.me.dropRelaxed n)).land r.acc.op v none).keeperFence c)

/-- Whether a page of a relaxed access faults by a cached leaf without the right; a page that misses waits for its walk, which may be shared (15
R260). -/
def relaxedFault (s : State) (c : Nat) (k : Fin 16) (x : Access) : Option (Nat × Nat) :=
  if x.kind ≠ 3 ∨ x.half.isSome then none
  else match firstBad s (clusterOf c) (asidOf s (s.thread c k) k) x.op.code x.pages with
    | some (p, some code) => some (code, max x.addr (p * pageBytes))
    | _ => none

/-- The first relaxed access of a list that faults, with its place. -/
def firstRelaxedFault (s : State) (c : Nat) (k : Fin 16) : List Relaxed → Nat → Option (Nat × Relaxed × Nat × Nat)
  | [], _ => none
  | r :: l, n =>
    match relaxedFault s c k r.acc with
    | some (code, dva) => some (n, r, code, dva)
    | none => firstRelaxedFault s c k l (n + 1)

/-- Whether a fault of a thread is outstanding: it is parked by one, or a relaxed access was found to fault (13 R244). -/
def Thread.faulting (t : Thread) : Bool :=
  (failedRelaxed t).isSome || (match t.st with
    | .parked p => p.fault.isSome
    | _ => false)

/-- A relaxed access is found to fault: its fault record goes to the pager, but for slot 1, which posts none (13 R232, R244). -/
def State.relaxedFaults (s : State) (c : Nat) (k : Fin 16) (n : Nat) (r : Relaxed) (code dva : Nat) : State :=
  let t := s.thread c k
  let s := if k.val = 1 then s
    else postFault s (senderCtu (clusterOf c)) (pagerOf c) (asidOf s t k) code r.acc.op.code dva (waiterField (taOf s c k) false 0 0) t.tag
  s.failRelaxed c k n { r with found := some (code, dva), denied := k.val == 1 }

/-- The CTU finds that a relaxed access faults by a leaf that it caches: it posts the first and holds the others while a fault of the thread is outstanding (R244). -/
def execRelaxedFaultFound (c : Nat) (k : Fin 16) (s : State) : Host.Outcome State Fault Refusal :=
  .next (
    let s1 := s.as c k
    let t := s1.me
    if t.faulting then s
    else match firstRelaxedFault s1 c k t.relaxed 0 with
      | none => s
      | some (n, r, code, dva) => s1.relaxedFaults c k n r code dva)

-- Page walks (13 R239, R260) --------------------------------------------------------------------------------------------------------------------------------------------

/-- The address at which a slot's fetch stopped, if its instruction is not there. -/
def fetchMissing (s : State) (c : Nat) (k : Fin 16) : Option Nat :=
  let t := s.thread c k
  if t.st = .runnable ∧ !t.isButty then
    match fetch s c k with
    | .absent a => some a
    | _ => none
  else none

/-- What a thread awaits of a page in a CTU. -/
inductive Awaits where
  | fetch (a : Nat)
  | access (x : Access)
  | relaxed (n : Nat) (r : Relaxed)
  deriving DecidableEq, Repr

/-- A waiter of a walk, with the cycle in which it joined: that of its issue, of its replay, or of the grant of a wld (15 R260). DESIGN CHOICE (log
entry 68): a fetch joins with the last issue of its thread, its creation or its replay. -/
structure Waiter where
  joined : Nat
  core : Nat
  slot : Fin 16
  what : Awaits
  deriving DecidableEq, Repr

/-- Whether the first page of an access that does not hit is a page that no leaf is cached for. -/
def missesAt (s : State) (cl asid page : Nat) (x : Access) : Bool :=
  x.kind == 3 && x.half.isNone && (match firstBad s cl asid x.op.code x.pages with
    | some (p, none) => p == page
    | _ => false)

/-- The relaxed accesses of a list, from place n on, that await a page. -/
def relaxedAwait (s : State) (c : Nat) (k : Fin 16) (asid page : Nat) : List Relaxed → Nat → List Waiter
  | [], _ => []
  | r :: l, n =>
    (if r.found.isNone && missesAt s (clusterOf c) asid page r.acc then [⟨r.joined, c, k, .relaxed n r⟩] else []) ++
      relaxedAwait s c k asid page l (n + 1)

/-- The waiters of a slot for a page. -/
def slotWaiters (s : State) (asid page : Nat) (p : Nat × Fin 16) : List Waiter :=
  let t := s.thread p.1 p.2
  if asidOf s t p.2 ≠ asid then []
  else relaxedAwait s p.1 p.2 asid page t.relaxed 0 ++ (match t.st with
    | .removed (.mem x) => if missesAt s (clusterOf p.1) asid page x then [⟨t.joined, p.1, p.2, .access x⟩] else []
    | .removed (.wld x (some n)) => if missesAt s (clusterOf p.1) asid page x then [⟨n, p.1, p.2, .access x⟩] else []
    | _ => match fetchMissing s p.1 p.2 with
      | some a => if a / pageBytes = page then [⟨t.joined, p.1, p.2, .fetch a⟩] else []
      | none => [])

-- wld (07 R137) -------------------------------------------------------------------------------------------------------------

/-- Marks the buffer lines whose source is poisoned. -/
def copyPoison (s : State) (c first : Nat) (h : Home) : List Nat → State
  | [] => s
  | i :: l => copyPoison (if homePoisoned s h (64 * i) 64 then markPoison s (wbKey c (64 * (first + i)) / 64) else s) c first h l

/-- Where a wld reads. -/
def wldHome (s : State) (c : Nat) (k : Fin 16) (x : Access) : Home :=
  if x.kind = 0 then .raw (lsKey c x.addr) else if x.kind = 2 then .raw (basinKey x.owner x.addr)
  else .dva (clusterOf c) (asidOf s (s.thread c k) k) x.addr

/-- The first n lines of a wld are written to the weight buffer, with their poison marks. -/
def State.loadLines (s : State) (c : Nat) (k : Fin 16) (x : Access) (n : Nat) : State :=
  match x.op with
  | .wld first _ =>
    let h := wldHome s c k x
    let cl := clusterOf c
    let asid := asidOf s (s.thread c k) k
    let s1 := if x.kind = 3 then dvaTouch s (pieces s cl asid x.addr (64 * n)) else s
    copyPoison (rawWrite s1 (wbKey c (64 * first)) (homeRead s h 0 (64 * n))) c first h (List.range n)
  | _ => s

/-- A page of an ordinary access faults: no byte of it is performed, but a wld keeps the lines that come before that page (R137, 13 R244). -/
def State.accessFaults (s : State) (c : Nat) (k : Fin 16) (x : Access) (code page : Nat) : State :=
  let s := s.loadLines c k x ((page * pageBytes - x.addr) / 64)
  s.faultThread c k code x.op.code (max x.addr (page * pageBytes)) (some (false, x)) 0

/-- Puts a waiter into a list by the cycle in which it joined. -/
def joinWaiter (w : Waiter) : List Waiter → List Waiter
  | [] => [w]
  | v :: l => if w.joined < v.joined then w :: v :: l else v :: joinWaiter w l

/-- The waiters for a page in the order in which they joined the walk; those of one cycle by core and slot. -/
def walkWaiters (s : State) (cl asid page : Nat) : List Waiter :=
  ((clusterSlots cl).flatMap (slotWaiters s asid page)).foldl (fun l w => joinWaiter w l) []

/-- What an awaited page is needed for, and the address at which it faults. -/
def Awaits.code : Awaits → Nat
  | .fetch _ => 3
  | .access x => x.op.code
  | .relaxed _ r => r.acc.op.code
def Awaits.dva (page : Nat) : Awaits → Nat
  | .fetch a => a
  | .access x => max x.addr (page * pageBytes)
  | .relaxed _ r => max r.acc.addr (page * pageBytes)

/-- A fetch faults: the thread parks, or if a relaxed access of it failed before, it parks for that access, whose fault is the one that is
outstanding (13 R244; log entry 46). -/
def State.fetchFaults (s : State) (c : Nat) (k : Fin 16) (code a : Nat) : State :=
  match failedRelaxed (s.thread c k) with
  | some r => parkRelaxed s c k r
  | none => s.faultThread c k code 3 a none 0

/-- A waiter's walk ends in a fault: its record is posted. A relaxed access is held while another fault of its thread is outstanding. -/
def Waiter.fault (w : Waiter) (code dva : Nat) (s : State) : State :=
  match w.what with
  | .fetch a => s.fetchFaults w.core w.slot code a
  | .access x => s.accessFaults w.core w.slot x code (dva / pageBytes)
  | .relaxed n r => if (s.thread w.core w.slot).faulting then s else (s.as w.core w.slot).relaxedFaults w.core w.slot n r code dva

/-- One walk serves every waiter of a list: a leaf that satisfies one is cached; a fault posts one record for each waiter that meets
it (R239-R244, R260). The tables are read in the state s0 in which the walk began. -/
def serveWalk (s0 : State) (cl asid page : Nat) (s : State) : List Waiter → State
  | [] => s
  | w :: l =>
    serveWalk s0 cl asid page (match walk s0 (asTable s0 (cl / 32)) asid (page * pageBytes) w.what.code with
      | .ok f => if (findLeaf s cl asid page).isSome then s else deliver s cl f
      | .error code => w.fault code (w.what.dva page) s) l

/-- A CTU walks for a miss. -/
def execPageWalk (cl : Nat) (asid : Half) (page : BitVec 36) (s : State) : Host.Outcome State Fault Refusal :=
  .next (serveWalk s cl asid.toNat page.toNat s (walkWaiters s cl asid.toNat page.toNat))

-- Instruction fetch (13 R242) ---------------------------------------------------------------------------------------------------------------------------------------------------

/-- Fetches the line of the first word that is not there: it is cached, or the thread traps or parks. -/
def execInstructionFetch (c : Nat) (k : Fin 16) (s : State) : Host.Outcome State Fault Refusal :=
  .next (
    let t := s.thread c k
    let cl := clusterOf c
    let asid := asidOf s t k
    if t.st ≠ .runnable ∨ t.isButty then s
    else match fetch s c k with
      | .ins _ _ _ => s
      | .beyond a => s.trapThread c k 0x05 (fetchedWord s c k) t.pc (BitVec.ofNat 64 a) 0
      | .absent a =>
        match look s cl asid (a / pageBytes) 3 with
        | .miss => s
        | .fault code => s.fetchFaults c k code a
        | .hit l =>
          let pa := l.pa (a / 64 * 64)
          if leafBusy s l pa then s
          else if poisoned s pa 64 then (fire s 65).trapThread c k 0x0A (fetchedWord s c k) t.pc (BitVec.ofNat 64 a) 0
          else
            let v := lineVec (physRead s (keyGen s (keyOfLeaf l.leaf)) pa 64)
            let s := leafLines s l pa 64
            s.setCluster cl { s.cluster cl with lines := SMap.set (s.cluster cl).lines (lineKey asid a) v })

end Sys2Proof.Machine
end

