-- ==== Sys2Proof/Machine/Vector.lean ====
section
/-! DEFINITION. Meanings of majors 0x18 to 0x21 (06 R112-R128), and the completion of an iterative instruction. -/

namespace Sys2Proof.Machine

open Sys2Proof

-- Lanes (R112) -----------------------------------------------------------------------------------------------------------

/-- n lanes of width w: the enabled ones take f, the others keep the old value. -/
def mapLanes (w n : Nat) (mask : Word) (old : Vec) (f : Nat → BitVec w) : Vec :=
  ofLanes w (fun i => if bit mask i then f i else lane w old i) n

/-- The format of a floating lane type. -/
def fmtOf : FType → Fmt
  | .f32 => fF32
  | .bf16 => fBf16
  | .f16 => fF16

/-- The width in bits of an integer lane type. -/
def intBits : IType → Nat
  | .i8 => 8
  | .i16 => 16
  | .i32 => 32
  | .i64 => 64

/-- An instruction that writes one vector register from the registers of its thread, then completes. -/
def vecOp (i : Instr) (vd : Fin 16) (f : Thread → Vec) (s : State) : State :=
  s.gated i fun s => (s.setMe (s.me.setV vd (f s.me))).advance i

/-- Lanes of a floating instruction with two sources. -/
def floatLanes2 (t : FType) (m : Fin 4) (vd va vb : Fin 16) (f : Fmt → Nat → Nat → Nat) (x : Thread) : Vec :=
  let w := (fmtOf t).width
  mapLanes w (512 / w) (x.mask m) (x.v.get vd) fun i =>
    BitVec.ofNat w (f (fmtOf t) (lane w (x.v.get va) i).toNat (lane w (x.v.get vb) i).toNat)

/-- Lanes of a floating instruction with three sources. -/
def floatLanes3 (t : FType) (m : Fin 4) (vd va vb vc : Fin 16) (f : Fmt → Nat → Nat → Nat → Nat) (x : Thread) : Vec :=
  let w := (fmtOf t).width
  mapLanes w (512 / w) (x.mask m) (x.v.get vd) fun i =>
    BitVec.ofNat w (f (fmtOf t) (lane w (x.v.get va) i).toNat (lane w (x.v.get vb) i).toNat (lane w (x.v.get vc) i).toNat)

/-- Lanes of a floating instruction with one source. -/
def floatLanes1 (t : FType) (m : Fin 4) (vd va : Fin 16) (f : Fmt → Nat → Nat) (x : Thread) : Vec :=
  let w := (fmtOf t).width
  mapLanes w (512 / w) (x.mask m) (x.v.get vd) fun i => BitVec.ofNat w (f (fmtOf t) (lane w (x.v.get va) i).toNat)

-- Floating arithmetic (R113) -------------------------------------------------------------------------------------------------

def execVadd (t : FType) (vd va vb : Fin 16) (m : Fin 4) (s : State) : Host.Outcome State Fault Refusal :=
  .next (vecOp (.vadd t vd va vb m) vd (floatLanes2 t m vd va vb Fmt.addOf) s)

def execVsub (t : FType) (vd va vb : Fin 16) (m : Fin 4) (s : State) : Host.Outcome State Fault Refusal :=
  .next (vecOp (.vsub t vd va vb m) vd (floatLanes2 t m vd va vb Fmt.subOf) s)

def execVmul (t : FType) (vd va vb : Fin 16) (m : Fin 4) (s : State) : Host.Outcome State Fault Refusal :=
  .next (vecOp (.vmul t vd va vb m) vd (floatLanes2 t m vd va vb Fmt.mulOf) s)

def execVmax (t : FType) (vd va vb : Fin 16) (m : Fin 4) (s : State) : Host.Outcome State Fault Refusal :=
  .next (vecOp (.vmax t vd va vb m) vd (floatLanes2 t m vd va vb Fmt.maxOf) s)

def execVmin (t : FType) (vd va vb : Fin 16) (m : Fin 4) (s : State) : Host.Outcome State Fault Refusal :=
  .next (vecOp (.vmin t vd va vb m) vd (floatLanes2 t m vd va vb Fmt.minOf) s)

def execVfma (t : FType) (vd va vb vc : Fin 16) (m : Fin 4) (s : State) : Host.Outcome State Fault Refusal :=
  .next (vecOp (.vfma t vd va vb vc m) vd (floatLanes3 t m vd va vb vc Fmt.fmaOf) s)

def execVfms (t : FType) (vd va vb vc : Fin 16) (m : Fin 4) (s : State) : Host.Outcome State Fault Refusal :=
  .next (vecOp (.vfms t vd va vb vc m) vd (floatLanes3 t m vd va vb vc Fmt.fmsOf) s)

/-- A pattern with its sign bit clear (R59). -/
def Fmt.absOf (f : Fmt) (a : Nat) : Nat := a % 2 ^ (f.eb + f.mb)
/-- A pattern with its sign bit inverted (R59). -/
def Fmt.negOf (f : Fmt) (a : Nat) : Nat := (a + 2 ^ (f.eb + f.mb)) % 2 ^ f.width

def execVabs (t : FType) (vd va : Fin 16) (m : Fin 4) (s : State) : Host.Outcome State Fault Refusal :=
  .next (vecOp (.vabs t vd va m) vd (floatLanes1 t m vd va Fmt.absOf) s)

def execVneg (t : FType) (vd va : Fin 16) (m : Fin 4) (s : State) : Host.Outcome State Fault Refusal :=
  .next (vecOp (.vneg t vd va m) vd (floatLanes1 t m vd va Fmt.negOf) s)

-- Floating iterative (R114, R115) ----------------------------------------------------------------------------------------------

/-- An iterative instruction reads its sources at issue and removes its thread for a fixed count, which starts when the unit is free and grows by
the cycles that the governor gates (21 R335). -/
def iterative (i : Instr) (vd : Fin 16) (count : Nat) (f : Thread → Vec) (s : State) : State :=
  s.gated i fun s =>
    let v := f s.me
    let c := s.myCore
    let t := max c.vectorFree s.clk + count * (vectorShare s.lock.level).2
    ((s.setMyCore { c with vectorFree := t }).advance i).remove (.iterative vd v t)

/-- A function of one value, rounded once. -/
def Fmt.via (g : FVal → FVal) (f : Fmt) (a : Nat) : Nat := f.pack .rne (g (f.value a))

def execVdiv (t : FType) (vd va vb : Fin 16) (m : Fin 4) (s : State) : Host.Outcome State Fault Refusal :=
  .next (iterative (.vdiv t vd va vb m) vd 20
    (floatLanes2 t m vd va vb fun f a b => f.pack .rne ((f.value a).div (f.value b))) s)

def execVrcp (t : FType) (vd va : Fin 16) (m : Fin 4) (s : State) : Host.Outcome State Fault Refusal :=
  .next (iterative (.vrcp t vd va m) vd 14 (floatLanes1 t m vd va (Fmt.via (FVal.fin false 1 0).div)) s)

def execVrsq (t : FType) (vd va : Fin 16) (m : Fin 4) (s : State) : Host.Outcome State Fault Refusal :=
  .next (iterative (.vrsq t vd va m) vd 16 (floatLanes1 t m vd va (Fmt.via FVal.rsqrt)) s)

def execVexp2 (t : FType) (vd va : Fin 16) (m : Fin 4) (s : State) : Host.Outcome State Fault Refusal :=
  .next (iterative (.vexp2 t vd va m) vd 18 (floatLanes1 t m vd va (Fmt.via FVal.exp2)) s)

def execVlog2 (t : FType) (vd va : Fin 16) (m : Fin 4) (s : State) : Host.Outcome State Fault Refusal :=
  .next (iterative (.vlog2 t vd va m) vd 18 (floatLanes1 t m vd va (Fmt.via FVal.log2)) s)

/-- An iterative instruction writes vd in the last cycle of its count, and its thread may issue in the next (R115); its pc moved at issue. -/
def execIterativeComplete (c : Nat) (k : Fin 16) (s : State) : Host.Outcome State Fault Refusal :=
  .next (
    let s1 := s.as c k
    match s1.me.st with
    | .removed (.iterative vd v t) =>
      if t ≤ s.clk then (s1.setMe { s1.me.setV vd v with nextIssue := max s1.me.nextIssue (s.clk + 1) }).completePc none else s
    | _ => s)

-- Integer arithmetic and shifts (R116) --------------------------------------------------------------------------------------------

/-- Lanes of an integer instruction. -/
def intLanes (t : IType) (m : Fin 4) (vd va vb : Fin 16) (f : (w : Nat) → BitVec w → BitVec w → BitVec w) (x : Thread) : Vec :=
  let w := intBits t
  mapLanes w (512 / w) (x.mask m) (x.v.get vd) fun i => f w (lane w (x.v.get va) i) (lane w (x.v.get vb) i)

/-- An exact result, wrapped or clamped to signed lanes. -/
def satLane (sat : Bool) (w : Nat) (r : Int) : BitVec w :=
  BitVec.ofInt w (if sat then clampI (-(2 ^ (w - 1) : Nat)) ((2 ^ (w - 1) : Nat) - 1) r else r)

def execViadd (t : IType) (vd va vb : Fin 16) (m : Fin 4) (sat : Bool) (s : State) : Host.Outcome State Fault Refusal :=
  .next (vecOp (.viadd t vd va vb m sat) vd (intLanes t m vd va vb fun w a b => satLane sat w (a.toInt + b.toInt)) s)

def execVisub (t : IType) (vd va vb : Fin 16) (m : Fin 4) (sat : Bool) (s : State) : Host.Outcome State Fault Refusal :=
  .next (vecOp (.visub t vd va vb m sat) vd (intLanes t m vd va vb fun w a b => satLane sat w (a.toInt - b.toInt)) s)

def execVimul (t : IType) (vd va vb : Fin 16) (m : Fin 4) (s : State) : Host.Outcome State Fault Refusal :=
  .next (vecOp (.vimul t vd va vb m) vd (intLanes t m vd va vb fun _ a b => a * b) s)

def execVimax (t : IType) (vd va vb : Fin 16) (m : Fin 4) (s : State) : Host.Outcome State Fault Refusal :=
  .next (vecOp (.vimax t vd va vb m) vd (intLanes t m vd va vb fun _ a b => if b.toInt ≤ a.toInt then a else b) s)

def execVimin (t : IType) (vd va vb : Fin 16) (m : Fin 4) (s : State) : Host.Outcome State Fault Refusal :=
  .next (vecOp (.vimin t vd va vb m) vd (intLanes t m vd va vb fun _ a b => if a.toInt ≤ b.toInt then a else b) s)

def execVshl (t : IType) (vd va vb : Fin 16) (m : Fin 4) (s : State) : Host.Outcome State Fault Refusal :=
  .next (vecOp (.vshl t vd va vb m) vd (intLanes t m vd va vb fun w a b => a <<< (b.toNat % w)) s)

def execVshrN (t : IType) (vd va vb : Fin 16) (m : Fin 4) (s : State) : Host.Outcome State Fault Refusal :=
  .next (vecOp (.vshrN t vd va vb m) vd (intLanes t m vd va vb fun w a b => a >>> (b.toNat % w)) s)

def execVshrI (t : IType) (vd va vb : Fin 16) (m : Fin 4) (s : State) : Host.Outcome State Fault Refusal :=
  .next (vecOp (.vshrI t vd va vb m) vd (intLanes t m vd va vb fun w a b => a.sshiftRight (b.toNat % w)) s)

-- Logical (R117) ----------------------------------------------------------------------------------------------------------------------

/-- Byte lanes of a logical instruction. -/
def byteLanes (m : Fin 4) (vd va vb : Fin 16) (f : Byte → Byte → Byte) (x : Thread) : Vec :=
  mapLanes 8 64 (x.mask m) (x.v.get vd) fun i => f (lane 8 (x.v.get va) i) (lane 8 (x.v.get vb) i)

def execVand (vd va vb : Fin 16) (m : Fin 4) (s : State) : Host.Outcome State Fault Refusal :=
  .next (vecOp (.vand vd va vb m) vd (byteLanes m vd va vb fun a b => a &&& b) s)

def execVor (vd va vb : Fin 16) (m : Fin 4) (s : State) : Host.Outcome State Fault Refusal :=
  .next (vecOp (.vor vd va vb m) vd (byteLanes m vd va vb fun a b => a ||| b) s)

def execVxor (vd va vb : Fin 16) (m : Fin 4) (s : State) : Host.Outcome State Fault Refusal :=
  .next (vecOp (.vxor vd va vb m) vd (byteLanes m vd va vb fun a b => a ^^^ b) s)

-- Compare and select (R118, R119) --------------------------------------------------------------------------------------------------------

/-- A condition on integer lanes of width w. -/
def intCond (cc : Cond) (w : Nat) (a b : BitVec w) : Bool :=
  match cc with
  | .eq => a == b
  | .ne => a != b
  | .ltI => decide (a.toInt < b.toInt)
  | .geI => decide (b.toInt ≤ a.toInt)
  | .ltN => decide (a.toNat < b.toNat)
  | .geN => decide (b.toNat ≤ a.toNat)

/-- A condition on floating lanes: -0 equals +0; a NaN makes ne true and the others false. -/
def floatCond (cc : Cond) (f : Fmt) (a b : Nat) : Bool :=
  let x := f.value a
  let y := f.value b
  let nan := x.isNan || y.isNan
  let lt := x.lt false y
  let gt := y.lt false x
  match cc with
  | .eq => !nan && !lt && !gt
  | .ne => nan || lt || gt
  | .ltI => !nan && lt
  | .geI => !nan && !lt
  | .ltN => false
  | .geN => false

/-- The width and the condition of a lane type. -/
def cmpBits : CmpType → Nat
  | .i8 => 8
  | .i16 => 16
  | .i32 => 32
  | .i64 => 64
  | .f32 => 32
  | .bf16 => 16
  | .f16 => 16

/-- A condition on lanes of a type. -/
def laneCond (cc : Cond) (t : CmpType) (w : Nat) (a b : BitVec w) : Bool :=
  match t with
  | .f32 => floatCond cc fF32 a.toNat b.toNat
  | .bf16 => floatCond cc fBf16 a.toNat b.toNat
  | .f16 => floatCond cc fF16 a.toNat b.toNat
  | .i8 => intCond cc w a b
  | .i16 => intCond cc w a b
  | .i32 => intCond cc w a b
  | .i64 => intCond cc w a b

/-- Bits of a word from a function of their places. -/
def wordOf (f : Nat → Bool) : Nat → Word
  | 0 => 0
  | n + 1 => wordOf f n ||| (if f n then (1 : Word) <<< n else 0)

/-- The mask that a compare writes. -/
def cmpMask (cc : Cond) (t : CmpType) (mask : Word) (a b : Vec) : Word :=
  let w := cmpBits t
  wordOf (fun i => bit mask i && laneCond cc t w (lane w a i) (lane w b i)) (512 / w)

def execVcmp (cc : Cond) (t : CmpType) (md : Fin 4) (va vb : Fin 16) (m : Fin 4) (s : State) : Host.Outcome State Fault Refusal :=
  .next (s.gated (.vcmp cc t md va vb m) fun s =>
    let x := s.me
    (s.setMe (x.setM md (cmpMask cc t (x.mask m) (x.v.get va) (x.v.get vb)))).advance (.vcmp cc t md va vb m))

def execVsel (t : IType) (vd va vb : Fin 16) (m : Fin 4) (s : State) : Host.Outcome State Fault Refusal :=
  .next (vecOp (.vsel t vd va vb m) vd
    (fun x => mapLanes (intBits t) (512 / intBits t) (x.mask m) (x.v.get vb) fun i => lane (intBits t) (x.v.get va) i) s)

-- Conversion (R120, R121) ------------------------------------------------------------------------------------------------------------------

/-- A conversion type's format, if it is floating. -/
def cvtFmt : CvtType → Option Fmt
  | .f32 => some fF32
  | .bf16 => some fBf16
  | .f16 => some fF16
  | .e4m3 => some fE4m3
  | .e5m2 => some fE5m2
  | .i8 => none
  | .i16 => none
  | .i32 => none

/-- Convert: one element (R62-R65). -/
def convert (td ts : CvtType) (r : Rounding) (a : Nat) : Nat :=
  let w := 8 * td.bytes
  let out (x : Int) : Nat := (BitVec.ofInt w x).toNat
  match cvtFmt ts, cvtFmt td with
  | none, none => out (clampI (-(2 ^ (w - 1) : Nat)) ((2 ^ (w - 1) : Nat) - 1) (sval (8 * ts.bytes) a))
  | none, some f => f.pack r (FVal.ofInt (sval (8 * ts.bytes) a))
  | some g, none => out ((g.value a).toInt r w)
  | some g, some f => f.pack r (g.value a)

/-- The destination of a conversion: part p of vd when it narrows, from part p of va otherwise. -/
def convertVec (td ts : CvtType) (r : Rounding) (p : Nat) (mask : Word) (old a : Vec) : Vec :=
  let wd := 8 * td.bytes
  let ws := 8 * ts.bytes
  let l := 512 / max wd ws
  let elem (j : Nat) : BitVec wd := BitVec.ofNat wd (convert td ts r (lane ws a j).toNat)
  if wd < ws then
    ofLanes wd (fun j => if p * l ≤ j ∧ j < p * l + l ∧ bit mask (j - p * l) = true then elem (j - p * l) else lane wd old j) (512 / wd)
  else mapLanes wd l mask old fun i => elem (p * l + i)

def execVcvt (td ts : CvtType) (vd va : Fin 16) (part : BitVec 4) (m : Fin 4) (r : Rounding) (s : State) :
    Host.Outcome State Fault Refusal :=
  .next (vecOp (.vcvt td ts vd va part m r) vd
    (fun x => convertVec td ts r part.toNat (x.mask m) (x.v.get vd) (x.v.get va)) s)

-- Permute and shuffle (R122, R123) --------------------------------------------------------------------------------------------------------------

def execVpermB (vd va vb : Fin 16) (m : Fin 4) (s : State) : Host.Outcome State Fault Refusal :=
  .next (vecOp (.vpermB vd va vb m) vd
    (fun x => mapLanes 8 64 (x.mask m) (x.v.get vd) fun i =>
      let y := lane 8 (x.v.get vb) i
      if bit y 7 then 0 else lane 8 (x.v.get va) (y.toNat % 64)) s)

def execVshuf (vd va vb vc : Fin 16) (m : Fin 4) (s : State) : Host.Outcome State Fault Refusal :=
  .next (vecOp (.vshuf vd va vb vc m) vd
    (fun x => mapLanes 32 16 (x.mask m) (x.v.get vd) fun i =>
      let y := lane 32 (x.v.get vc) i
      if bit y 31 then 0
      else if bit y 4 then lane 32 (x.v.get vb) (y.toNat % 16) else lane 32 (x.v.get va) (y.toNat % 16)) s)

-- Splat and lane transfer (R124, R125) ------------------------------------------------------------------------------------------------------------

def execVsplat (sz : Size) (vd : Fin 16) (a : Src) (m : Fin 4) (s : State) : Host.Outcome State Fault Refusal :=
  .next (s.gated (.vsplat sz vd a m) fun s =>
    let (y, s) := s.read a
    let w := 8 * sz.bytes
    let v := mapLanes w (512 / w) (s.me.mask m) (s.me.v.get vd) fun _ => y.setWidth w
    (s.setMe (s.me.setV vd v)).advance (.vsplat sz vd a m))

def execVextr (sz : Size) (lane : BitVec 6) (va : Fin 16) (d : Dst) (s : State) : Host.Outcome State Fault Refusal :=
  .next (s.gated (.vextr sz lane va d) fun s =>
    s.result (.vextr sz lane va d) d ((Sys2Proof.lane (8 * sz.bytes) (s.me.v.get va) lane.toNat).setWidth 64))

def execVinsr (sz : Size) (lane : BitVec 6) (vd : Fin 16) (a : Src) (s : State) : Host.Outcome State Fault Refusal :=
  .next (s.gated (.vinsr sz lane vd a) fun s =>
    let (y, s) := s.read a
    let w := 8 * sz.bytes
    (s.setMe (s.me.setV vd (setFld (s.me.v.get vd) (w * lane.toNat) (y.setWidth w)))).advance (.vinsr sz lane vd a))

-- Reductions (R71, R72, R126) ------------------------------------------------------------------------------------------------------------------------

/-- One level of the tree: neighbours pair. -/
def pairUp (f : Nat → Nat → Nat) : List Nat → List Nat
  | x :: y :: l => f x y :: pairUp f l
  | l => l

/-- The tree over 16 lanes. -/
def tree16 (f : Nat → Nat → Nat) (l : List Nat) : Nat := (pairUp f (pairUp f (pairUp f (pairUp f l)))).headD 0

/-- The lanes of width w, with an identity for those that a mask disables. -/
def lanesOr (w n : Nat) (mask : Word) (unit : Nat) (a : Vec) : List Nat :=
  (List.range n).map fun i => if bit mask i then (lane w a i).toNat else unit

/-- The exact sum of bf16 lanes, rounded once to f32 (R72). -/
def sumBf16 (l : List Nat) : Nat := fF32.pack .rne (l.foldl (fun x a => x.add (fBf16.value a)) (.fin true 0 0))

/-- A wrapped i32 sum and the signed maximum and minimum. -/
def addI32 (a b : Nat) : Nat := (a + b) % 2 ^ 32
def maxI32 (a b : Nat) : Nat := if sval 32 b ≤ sval 32 a then a else b
def minI32 (a b : Nat) : Nat := if sval 32 a ≤ sval 32 b then a else b

/-- vred.add. -/
def redAdd (t : RedType) (mask : Word) (a : Vec) : Nat :=
  match t with
  | .f32 => tree16 fF32.addOf (lanesOr 32 16 mask (fF32.sign true) a)
  | .i32 => tree16 addI32 (lanesOr 32 16 mask 0 a)
  | .bf16 => sumBf16 (lanesOr 16 32 mask (fBf16.sign true) a)

/-- vred.max. -/
def redMax (t : RedType) (mask : Word) (a : Vec) : Nat :=
  match t with
  | .f32 => tree16 fF32.maxOf (lanesOr 32 16 mask (fF32.sign true + fF32.inf) a)
  | .i32 => tree16 maxI32 (lanesOr 32 16 mask 0x80000000 a)
  | .bf16 =>
    let l := lanesOr 16 32 mask (fBf16.sign true + fBf16.inf) a
    fF32.pack .rne (fBf16.value (l.tail.foldl fBf16.maxOf (l.headD 0)))

/-- vred.min. -/
def redMin (t : RedType) (mask : Word) (a : Vec) : Nat :=
  match t with
  | .f32 => tree16 fF32.minOf (lanesOr 32 16 mask fF32.inf a)
  | .i32 => tree16 minI32 (lanesOr 32 16 mask 0x7FFFFFFF a)
  | .bf16 =>
    let l := lanesOr 16 32 mask fBf16.inf a
    fF32.pack .rne (fBf16.value (l.tail.foldl fBf16.minOf (l.headD 0)))

def execVredAdd (t : RedType) (vd va : Fin 16) (m : Fin 4) (s : State) : Host.Outcome State Fault Refusal :=
  .next (vecOp (.vredAdd t vd va m) vd (fun x => BitVec.ofNat 512 (redAdd t (x.mask m) (x.v.get va))) s)

def execVredMax (t : RedType) (vd va : Fin 16) (m : Fin 4) (s : State) : Host.Outcome State Fault Refusal :=
  .next (vecOp (.vredMax t vd va m) vd (fun x => BitVec.ofNat 512 (redMax t (x.mask m) (x.v.get va))) s)

def execVredMin (t : RedType) (vd va : Fin 16) (m : Fin 4) (s : State) : Host.Outcome State Fault Refusal :=
  .next (vecOp (.vredMin t vd va m) vd (fun x => BitVec.ofNat 512 (redMin t (x.mask m) (x.v.get va))) s)

/-- One lane of vdot4 (R127). -/
def dotLane (a b c : W32) : W32 :=
  let p (k : Nat) : Int := (fld a (8 * k) 8 : Byte).toInt * (fld b (8 * k) 8 : Byte).toInt
  BitVec.ofInt 32 (c.toInt + (p 0 + p 1 + p 2 + p 3))

def execVdot4 (vd va vb vc : Fin 16) (m : Fin 4) (s : State) : Host.Outcome State Fault Refusal :=
  .next (vecOp (.vdot4 vd va vb vc m) vd
    (fun x => mapLanes 32 16 (x.mask m) (x.v.get vd) fun i =>
      dotLane (lane 32 (x.v.get va) i) (lane 32 (x.v.get vb) i) (lane 32 (x.v.get vc) i)) s)

-- Masks (R128) ------------------------------------------------------------------------------------------------------------------------------------------

/-- An instruction that writes one mask register, then completes. -/
def maskOp (i : Instr) (md : Fin 4) (f : Thread → Word) (s : State) : State :=
  s.gated i fun s => (s.setMe (s.me.setM md (f s.me))).advance i

def execMset (md : Fin 4) (a : Src) (s : State) : Host.Outcome State Fault Refusal :=
  .next (s.gated (.mset md a) fun s =>
    let (y, s) := s.read a
    (s.setMe (s.me.setM md y)).advance (.mset md a))

def execMand (md ma mb : Fin 4) (s : State) : Host.Outcome State Fault Refusal :=
  .next (maskOp (.mand md ma mb) md (fun x => x.m.get ma &&& x.m.get mb) s)

def execMor (md ma mb : Fin 4) (s : State) : Host.Outcome State Fault Refusal :=
  .next (maskOp (.mor md ma mb) md (fun x => x.m.get ma ||| x.m.get mb) s)

def execMnot (md ma : Fin 4) (s : State) : Host.Outcome State Fault Refusal :=
  .next (maskOp (.mnot md ma) md (fun x => ~~~(x.m.get ma)) s)

def execMmov (md ma : Fin 4) (s : State) : Host.Outcome State Fault Refusal :=
  .next (maskOp (.mmov md ma) md (fun x => x.m.get ma) s)

end Sys2Proof.Machine
end

