-- ==== Sys2Proof/Machine/Weir.lean ====
section
/-! DEFINITION. Meanings of majors 0x24 to 0x27 (07 R130-R146), the weir itself, and the events that belong to it. -/

namespace Sys2Proof.Machine

open Sys2Proof

-- Format words (03 R66-R68) ----------------------------------------------------------------------------------------------

/-- Whether a format word is ill-formed; out says that it is fo (R67). -/
def illFormed (w : Half) (out : Bool) : Bool :=
  let ov := (fld w 10 2).toNat
  let sf := (fld w 8 2).toNat
  let sk := (fld w 4 4).toNat
  let el := (fld w 0 4).toNat
  decide (13 < el ∨ 6 < sk ∨ sf = 3 ∨ 1 < ov ∨ (fld w 12 4).toNat ≠ 0 ∨ (ov ≠ 0 ∧ !out) ∨ (sk = 0 ∧ sf ≠ 0))

/-- The element field. -/
def elemOf (w : Half) : Nat := (fld w 0 4).toNat

/-- Weight elements that the weir takes: t2, t158, i4, i8. -/
def weightOk (e : Nat) : Bool := e == 6 || e == 7 || e == 8 || e == 0

/-- Planes of a weight element (R50). -/
def planes (e : Nat) : Nat :=
  match e with
  | 8 => 2
  | 0 => 4
  | _ => 1

/-- Tmax of a weight element (R68). -/
def tmax (e : Nat) : Nat :=
  match e with
  | 8 => 65536
  | 0 => 1048576
  | _ => 8192

/-- The width of an output element: i16, i24, i48; zero for any other. -/
def outBits (e : Nat) : Nat :=
  match e with
  | 2 => 16
  | 3 => 24
  | 5 => 48
  | _ => 0

/-- Which word of the three is at fault, in the order of R68: 0 fa, 1 fw, 2 fo. -/
def formatFault (t : Thread) : Option Nat :=
  if illFormed t.fa false then some 0
  else if illFormed t.fw false then some 1
  else if illFormed t.fo true then some 2
  else if elemOf t.fa ≠ 0 then some 0
  else if !weightOk (elemOf t.fw) then some 1
  else if outBits (elemOf t.fo) = 0 then some 2
  else if 2 ^ (outBits (elemOf t.fo) - 2) < tmax (elemOf t.fw) then some 2
  else none

/-- Bytes of a tile (R131). -/
def tileBytes (e : Nat) : Nat :=
  match e with
  | 6 => 1024
  | 7 => 820
  | 8 => 2048
  | _ => 4096

/-- Bytes of an output row (R139). -/
def outRow (w : Nat) : Nat := if w = 16 then 128 else 256

/-- The first byte of a thread's strip (R130). -/
def stripBase (t : Thread) : Nat := t.wb.toNat / 4 * 4

-- Weight digits (03 R51-R55) ------------------------------------------------------------------------------------------------

/-- Whether a byte holds a reserved weight code (R54). -/
def reservedCode (e : Nat) (b : Byte) : Bool :=
  match e with
  | 6 => (fld b 0 2 : BitVec 2) == 2 || (fld b 2 2 : BitVec 2) == 2 || (fld b 4 2 : BitVec 2) == 2 || (fld b 6 2 : BitVec 2) == 2
  | 7 => decide (243 ≤ b.toNat)
  | _ => false

/-- The digit of a t2 code. -/
def t2Digit (c : Nat) : Int := if c = 1 then 1 else if c = 3 then -1 else 0

/-- A radix-4 Booth digit of a weight (R53). -/
def booth (v k : Nat) : Int :=
  let b (i : Nat) : Int := if v.testBit i then 1 else 0
  b (2 * k) + (if k = 0 then 0 else b (2 * k - 1)) - 2 * b (2 * k + 1)

/-- The digits of plane p that a byte holds, in weight order. -/
def byteDigits (e p : Nat) (b : Byte) : List Int :=
  let v := b.toNat
  match e with
  | 6 => (List.range 4).map fun m => t2Digit (v / 4 ^ m % 4)
  | 7 => (List.range 5).map fun i => ((v / 3 ^ i % 3 : Nat) : Int) - 1
  | 8 => [booth (v % 16) p, booth (v / 16) p]
  | _ => [booth v p]

/-- n rows of 64 digits. -/
def rowsOf64 : Nat → List Int → List (List Int)
  | 0, _ => []
  | n + 1, l => l.take 64 :: rowsOf64 n (l.drop 64)

/-- The digits of plane p of a tile, row by row. -/
def tileDigits (e p : Nat) (bs : List Byte) : List (List Int) := rowsOf64 64 (bs.flatMap (byteDigits e p))

/-- The code of a digit in a cell (R55). -/
def digitCode (d : Int) : BitVec 3 := if d = 0 then 0 else if d = 1 then 1 else if d = -1 then 5 else if d = 2 then 3 else 7

/-- The 64 column sums of a plane: activations times digits (R132). -/
def columnSums : List Int → List (List Int) → List Int
  | a :: as, r :: rs => (columnSums as rs).zipWith (fun x d => x + a * d) r
  | _, _ => List.replicate 64 0

-- The weir of a column (R133-R135) -----------------------------------------------------------------------------------------------

/-- Release. -/
def Column.release (h : Nat) (c : Column) : Column :=
  if 0 ≤ c.s then
    match c.d, c.u with
    | x :: l, _ => { c with s := c.s + x, d := l }
    | [], x :: l => if (c.s + x).natAbs ≤ h then { c with s := c.s + x, u := l } else c
    | [], [] => c
  else
    match c.u, c.d with
    | x :: l, _ => { c with s := c.s + x, u := l }
    | [], x :: l => if (c.s + x).natAbs ≤ h then { c with s := c.s + x, d := l } else c
    | [], [] => c

/-- A term enters its queue: a full queue first diverts its oldest term. The number counts diversions. -/
def Column.enterTerm (c : Column) (t : Int) : Column × Nat :=
  if t = 0 then (c, 0)
  else if 0 < t then
    match c.u, decide (c.u.length = 8) with
    | x :: l, true => ({ c with pp := c.pp + x, u := l ++ [t] }, 1)
    | u, _ => ({ c with u := u ++ [t] }, 0)
  else
    match c.d, decide (c.d.length = 8) with
    | x :: l, true => ({ c with pm := c.pm + x, d := l ++ [t] }, 1)
    | d, _ => ({ c with d := d ++ [t] }, 0)

/-- One cycle that delivers a term. -/
def Column.cycle (h : Nat) (c : Column) (t : Int) : Column × Nat :=
  let r := c.enterTerm t
  (r.1.release h, r.2)

/-- n release steps. -/
def Column.releases (h : Nat) : Nat → Column → Column
  | 0, c => c
  | n + 1, c => Column.releases h n (c.release h)

/-- Eleven drain cycles; what is left in the queues goes to the pond. The number counts diversions. -/
def Column.drain (h : Nat) (c : Column) : Column × Nat :=
  let c := c.releases h 11
  ({ c with pp := c.pp + c.u.sum, pm := c.pm + c.d.sum, u := [], d := [] }, c.u.length + c.d.length)

/-- Whether a column needs a side-pond pass. -/
def Column.passes (c : Column) : Bool := c.pp != 0 || c.pm != 0
/-- V. -/
def Column.value (c : Column) : Int := c.s + c.pp + c.pm

-- A run (R132-R140) -----------------------------------------------------------------------------------------------------------------

/-- What a run needs beside its job: formats and strip of its thread. -/
structure RunCfg where
  elem : Nat
  width : Nat
  sat : Bool
  half : Nat
  base : Nat
  /-- the base of sg0: a chunk's offset counts from it -/
  store : Nat

/-- The formats and strip of a thread. -/
def runCfg (t : Thread) : RunCfg :=
  { elem := elemOf t.fw, width := outBits (elemOf t.fo), sat := (fld t.fo 10 2 : BitVec 2) == 1, half := t.wb.toNat % 2,
    base := stripBase t, store := (fld (t.sg.get 0).w0 0 18).toNat }

/-- The band H. -/
def RunCfg.band (g : RunCfg) : Nat := 2 ^ (g.width - 1) - tmax g.elem
/-- Whether pairs of columns are fused (i48). -/
def RunCfg.wide (g : RunCfg) : Bool := g.width == 48

/-- A run in progress: the weir's columns, cells and counts, the cycles spent, and how it ended if it did. -/
structure Running where
  cols : List Column
  cells : List (List (BitVec 3))
  divs : Nat := 0
  passes : Nat := 0
  cycles : Nat := 0
  stop : Option WeirEnd := none

/-- The terms of the 64 columns: in i48 mode output c of the named half enters column 2c. -/
def RunCfg.terms (g : RunCfg) (p : Nat) (sums : List Int) : List Int :=
  let l := sums.map fun x => x * ((4 ^ p : Nat) : Int)
  if g.wide then ((l.drop (32 * g.half)).take 32).flatMap fun x => [x, 0] else l

/-- One cycle of every column. -/
def Running.deliver (h : Nat) (x : Running) (ts : List Int) : Running :=
  let r := x.cols.zipWith (Column.cycle h) ts
  { x with cols := r.map Prod.fst, divs := x.divs + (r.map Prod.snd).sum, cycles := x.cycles + 1 }

/-- The planes of a tile, in order. -/
def runPlanes (g : RunCfg) (acts : List Int) (bs : List Byte) (x : Running) : List Nat → Running
  | [] => x
  | p :: l => runPlanes g acts bs (x.deliver g.band (g.terms p (columnSums acts (tileDigits g.elem p bs)))) l

/-- The codes that a tile leaves in the cells. DESIGN CHOICE (log entry 62): in i48 mode only the named half's columns change. -/
def RunCfg.cellsAfter (g : RunCfg) (old : List (List (BitVec 3))) (bs : List Byte) : List (List (BitVec 3)) :=
  let new := (tileDigits g.elem (planes g.elem - 1) bs).map fun r => r.map digitCode
  if g.wide then
    (List.range 64).map fun k => (List.range 64).map fun n =>
      if n / 32 = g.half then (new.getD k []).getD n 0 else (old.getD k []).getD n 0
  else new

/-- The first poisoned line that a range of keys touches, as an offset from a base. -/
def firstBadLine (s : State) (base a n : Nat) : Option Nat := (firstPoison s (base + a) n).map fun l => 64 * l - base

/-- One tile of a row: its chunk is read, the tile fetched and decompressed, and every plane delivered (R140, R141). DESIGN CHOICE (log entry 51):
of several faults of one tile, the poisoned chunk comes first, then a poisoned buffer line, then a reserved code. -/
def runTile (s : State) (c : Nat) (g : RunCfg) (a r t : Nat) (x : Running) : Running :=
  if x.stop.isSome then x
  else
    let off := g.base + t * tileBytes g.elem
    let bs := rawRead s (wbKey c off) (tileBytes g.elem)
    if poisoned s (lsKey c a) 64 then { x with stop := some (.poison r (BitVec.ofNat 64 (a - g.store)) 0) }
    else match firstBadLine s (wbKey c 0) off (tileBytes g.elem) with
      | some l => { x with stop := some (.poison r (BitVec.ofNat 64 l) 1) }
      | none =>
        if bs.any (reservedCode g.elem) then { x with stop := some (.code r) }
        else
          let acts := (rawRead s (lsKey c a) 64).map BitVec.toInt
          runPlanes g acts bs { x with cells := g.cellsAfter x.cells bs } (List.range (planes g.elem))

/-- The tiles of a row. -/
def runTiles (s : State) (c : Nat) (g : RunCfg) (a r : Nat) (x : Running) : List Nat → Running
  | [] => x
  | t :: l => runTiles s c g a r (runTile s c g (a + 64 * t) r t x) l

/-- The values of a drained row: 64 of them, or 32 outputs in i48 mode. -/
def RunCfg.values (g : RunCfg) (cols : List Column) : List Int :=
  if g.wide then (List.range 32).map fun c => ((cols.getD (2 * c) {}).value) else cols.map Column.value

/-- Whether a value fits the output. -/
def RunCfg.fits (g : RunCfg) (v : Int) : Bool := decide (-(2 ^ (g.width - 1) : Nat) ≤ v ∧ v < (2 ^ (g.width - 1) : Nat))

/-- The bytes of an output row (R139): values clamped to the width, each sign-extended to its place. -/
def RunCfg.rowBytes (g : RunCfg) (vs : List Int) : List Byte :=
  let n := if g.width = 16 then 2 else if g.width = 24 then 4 else 8
  vs.flatMap fun v => natBytes n (BitVec.ofInt (8 * n) (clampI (-(2 ^ (g.width - 1) : Nat)) ((2 ^ (g.width - 1) : Nat) - 1) v)).toNat

/-- The mask of the columns that do not fit. -/
def RunCfg.outside (g : RunCfg) (vs : List Int) : Word := wordOf (fun i => !g.fits (vs.getD i 0)) vs.length

/-- Adds to a saturating 32-bit count. -/
def satAdd32 (w : W32) (n : Nat) : W32 := BitVec.ofNat 32 (min (w.toNat + n) (2 ^ 32 - 1))

/-- Records an event if none is recorded, or if it overwrites (R143). -/
def WeirData.note (d : WeirData) (force : Bool) (row reason : Nat) (slot : Fin 16) (cols : Word) : WeirData :=
  if force || d.reason == 0 then
    { d with row := BitVec.ofNat 32 row, reason := BitVec.ofNat 4 reason, slot := BitVec.ofNat 4 slot.val, columns := cols }
  else d

/-- The effect of rows on the status words: diversions and passes (R143). -/
def WeirData.tally (d : WeirData) (divs passes : Nat) : WeirData :=
  { d with
    sticky := d.sticky ||| (if divs = 0 then 0 else 1) ||| (if passes = 0 then 0 else 2)
    diversions := satAdd32 d.diversions divs
    passes := satAdd32 d.passes passes }

/-- Empty columns. -/
def freshColumns : List Column := List.replicate 64 {}

/-- A row that has ended: the state with earlier outputs written, the data, and the outputs of this row still to be written. -/
structure Rows where
  s : State
  x : Running
  d : WeirData
  last : Option (Nat × List Byte) := none

/-- One row (R140). The outputs of the row before are written first. -/
def runRow (c : Nat) (slot : Fin 16) (g : RunCfg) (opens closes : Bool) (kt a b r : Nat) (y : Rows) : Rows :=
  if y.x.stop.isSome then y
  else
    let s := match y.last with
      | some (o, bs) => rawWrite y.s (lsKey c o) bs
      | none => y.s
    let x := { y.x with cols := if opens then freshColumns else y.x.cols }
    let x := runTiles s c g (a + 64 * kt * r) r x (List.range kt)
    if x.stop.isSome || !closes then { y with s := s, x := x, last := none }
    else
      let dr := x.cols.map (Column.drain g.band)
      let cols := dr.map Prod.fst
      let x := { x with cols := cols, divs := x.divs + (dr.map Prod.snd).sum, passes := x.passes + cols.countP Column.passes }
      let vs := g.values cols
      let mask := g.outside vs
      if mask ≠ 0 ∧ !g.sat then { y with s := s, x := { x with stop := some (.overtop r mask) }, last := none }
      else
        let n := vs.countP fun v => !g.fits v
        let d := if mask = 0 then y.d
          else { (y.d.note false r 2 slot mask) with sticky := y.d.sticky ||| 8, clamps := satAdd32 y.d.clamps n }
        { s := s, x := x, d := d, last := some (b + outRow g.width * r, g.rowBytes vs) }

/-- The rows of a run. -/
def runRows (c : Nat) (slot : Fin 16) (g : RunCfg) (opens closes : Bool) (kt a b : Nat) (y : Rows) : List Nat → Rows
  | [] => y
  | r :: l => runRows c slot g opens closes kt a b (runRow c slot g opens closes kt a b r y) l

/-- The weir's data after a run, by its end (R141, R143). -/
def WeirData.finished (d : WeirData) (slot : Fin 16) (fin : WeirEnd) (closes : Bool) : WeirData :=
  let closed (d : WeirData) : WeirData := if closes then { d with runs := satAdd32 d.runs 1 } else d
  match fin with
  | .ok => closed d
  | .overtop r m => closed { (d.note true r 1 slot m) with sticky := d.sticky ||| 4 }
  | .code r => { (d.note false r 3 slot 0) with sticky := d.sticky ||| 16 }
  | .poison r _ _ => { (d.note false r 4 slot 0) with sticky := d.sticky ||| 16 }

/-- What a run's end leaves of a record that was made while it executed: only an overtopping fault overwrites one (R143). -/
def WeirData.keeping (d live : WeirData) (overtopped : Bool) : WeirData :=
  if overtopped || live.reason == 0 then d
  else { d with row := live.row, reason := live.reason, slot := live.slot, columns := live.columns }

/-- Whether a run ends in an overtopping fault. -/
def WeirEnd.isOvertop : WeirEnd → Bool
  | .overtop _ _ => true
  | _ => false

/-- The weir's data at the end of a run. -/
def WeirExec.leaves (e : WeirExec) (live : WeirData) : WeirData := e.after.keeping live e.fin.isOvertop

-- Taking the weir (R138, R142) ---------------------------------------------------------------------------------------------------------

/-- Whether the strip of a thread's run overlaps the buffer lines of a load. -/
def stripOverlaps (t : Thread) (kt first lines : Nat) : Bool :=
  let lo := stripBase t
  let hi := lo + kt * tileBytes (elemOf t.fw)
  decide (lo < 64 * (first + lines) ∧ 64 * first < hi ∧ 0 < lines)

/-- Whether a thread loads buffer lines under a run's strip, and issued before it. A load that a fault has parked is not complete. -/
def loadsUnder (run : Thread) (kt : Nat) (t : Thread) : Bool :=
  let under (op : MemOp) : Bool := match op with
    | .wld first lines => decide (t.since < run.since) && stripOverlaps run kt first lines
    | _ => false
  match t.st with
  | .removed (.wld x _) => under x.op
  | .parked p => match p.acc with
    | some (_, x) => under x.op
    | none => false
  | _ => false

/-- Whether a waiting job may take the weir now. -/
def mayRun (x : Core) (j : Fin 16 × WeirJob) : Bool :=
  match j.2 with
  | .run _ kt _ _ _ =>
    !x.weir.held && (x.weir.owner.isNone || x.weir.owner == some j.1) &&
      !(x.slots.toList.any (loadsUnder (x.slots.get j.1) kt))
  | .clr => !x.weir.held || j.1 == 0
  | _ => true

/-- Whether a job is passed over: a run that waits for a hold or for another's open run, or a clear that waits for a hold. Jobs behind
it may go. -/
def passedOver (x : Core) (j : Fin 16 × WeirJob) : Bool :=
  match j.2 with
  | .run _ _ _ _ _ => x.weir.held || !(x.weir.owner.isNone || x.weir.owner == some j.1)
  | .clr => x.weir.held && j.1 != 0
  | _ => false

/-- The job that takes the weir: the first in issue order that is not passed over. The owner's continuation goes ahead of the runs, which are
passed over while its run is open. -/
def nextJob (x : Core) : Option (Fin 16 × WeirJob) := (x.weir.waiting.find? fun j => !passedOver x j).filter (mayRun x)

/-- Whether the weir is free for a job that arrives now: nothing executes and nothing ahead of it may or will go first. -/
def weirFree (x : Core) : Bool := x.weir.exec.isNone && x.weir.waiting.all (passedOver x)

-- Status and columns (R144, R145) ---------------------------------------------------------------------------------------------------------

/-- A status word. -/
def statusWord (x : Weir) (i : Word) : Word :=
  match i.toNat with
  | 0 => weirStatus x
  | 1 => x.data.columns
  | 2 => x.data.passes ++ x.data.diversions
  | 3 => x.data.runs ++ x.data.clamps
  | _ => 0

/-- What wacc reads: mode 0 S, 1 an entry of U, 2 an entry of D, 3 pond or cell. -/
def weirRead (x : WeirData) (mode col : Nat) (a : Word) : Word :=
  let c := x.cols.getD col {}
  let i := a.toNat
  match mode with
  | 0 => BitVec.ofInt 64 c.s
  | 1 => BitVec.ofInt 64 (c.u.getD i 0)
  | 2 => BitVec.ofInt 64 (c.d.getD i 0)
  | _ =>
    if i = 0 then BitVec.ofInt 64 c.pp
    else if i = 1 then BitVec.ofInt 64 c.pm
    else if 0x40 ≤ i ∧ i < 0x80 then ((x.cells.getD (i - 0x40) []).getD col 0).setWidth 64
    else 0

/-- wclr: words 1 to 3 and word 0 but open, held and owner are cleared; slot 0 also releases a hold. -/
def Weir.clear (x : Weir) (slot : Fin 16) : Weir :=
  { x with
    data := { cols := x.data.cols, cells := x.data.cells }
    held := x.held && slot != 0 }

/-- Puts a job in the queue of the weir; its thread is Removed. -/
def State.joinWeir (s : State) (i : Instr) (j : WeirJob) : State :=
  let x := s.myCore
  ((s.setMyCore { x with weir := { x.weir with waiting := x.weir.waiting ++ [(s.slot, j)] } }).remove
    (.weir s.iword (lengthOf i))).stamp

-- wld (R137, R138) ------------------------------------------------------------------------------------------------------------------------------

def execWld (sg : Fin 8) (a b : Src) (s : State) : Host.Outcome State Fault Refusal :=
  .next (s.gated (.wld sg a b) fun s =>
    let (off, s) := s.read a
    let (ctl, s) := s.read b
    let first := (fld ctl 0 10).toNat
    let lines := (fld ctl 10 11).toNat
    if illFormed s.me.fw false || !weightOk (elemOf s.me.fw) then s.trap 0x07 1 0
    else if 1024 - first < lines then s.trapOpen 0x03
    else match checkAccess s (s.me.sg.get sg) (.wld first lines) off 0 with
      | .error c => s.trap (if (s.me.sg.get sg).kind = 1 then 0x04 else c) off 0
      | .ok _ =>
        if lines = 0 then s.advance (.wld sg a b) else s.access (.wld sg a b) (.wld first lines) false sg off 0 0 0)

/-- Whether a run that issued before a load of buffer lines still waits or executes over them. -/
def runsOver (x : Core) (load : Thread) (first lines : Nat) : Bool :=
  let jobs := x.weir.waiting ++ (match x.weir.exec with
    | some e => [(e.slot, e.job)]
    | none => [])
  jobs.any fun j => match j.2 with
    | .run _ kt _ _ _ =>
      let t := x.slots.get j.1
      decide (t.since < load.since) && stripOverlaps t kt first lines
    | _ => false

/-- A wld loads its lines. It begins when no earlier run over them is left; kind 0 then moves one line a cycle. A page that faults parks the
thread with the lines before it written; otherwise every line is written, and the instruction completes. -/
def execWldComplete (c : Nat) (k : Fin 16) (s : State) : Host.Outcome State Fault Refusal :=
  .next (
    let s1 := s.as c k
    let t := s1.me
    match t.st with
    | .removed (.wld x began) =>
      match x.op, began with
      | .wld first lines, none =>
        if runsOver (s1.getCore c) t first lines then s else s.setThread c k { t with st := .removed (.wld x (some s.clk)) }
      | .wld _ lines, some b =>
        let cl := clusterOf c
        let asid := asidOf s1 t k
        if x.kind == 0 && decide (s.clk < b + lines) then s
        else
          match if x.kind = 3 then firstBad s1 cl asid 0 x.pages else none with
          | some (p, some code) => s1.accessFaults c k x code p
          | some (_, none) => s
          | none =>
            if x.kind == 3 && x.busy s1 cl asid then s
            else (s1.loadLines c k x lines).completePc (some (x.pc + BitVec.ofNat 64 x.len))
      | _, _ => s
    | _ => s)

-- Runs (R140, R141) ---------------------------------------------------------------------------------------------------------------------------------

/-- A run-state fault: its event is recorded, also in what another slot's run leaves, the flag cleared, and an open run of the thread's own
discarded (R141). -/
def State.runStateFault (s : State) : State :=
  let x := s.myCore
  let w := x.weir
  let mine := w.owner == some s.slot
  let faulted (d : WeirData) : WeirData := { (d.note false 0 5 s.slot 0) with sticky := d.sticky ||| 16 }
  let s := s.setMyCore { x with weir := { w with data := faulted w.data,
                                                 exec := w.exec.map fun e => { e with after := faulted e.after },
                                                 owner := if mine then none else w.owner,
                                                 tiles := if mine then 0 else w.tiles } }
  (s.setMe { s.me with runOpen := false }).trap 0x07 3 0

/-- Whether the run-open flag and the open run allow a run form: mode 0 wrun, 1 wrun.o, 2 wrun.c. -/
def runStateOk (s : State) (mode kt : Nat) : Bool :=
  let mine := s.myCore.weir.owner == some s.slot
  let more := mine && decide (s.myCore.weir.tiles + kt ≤ 4096)
  match mode with
  | 0 => !s.me.runOpen
  | 1 => !s.me.runOpen || more
  | _ => s.me.runOpen && more

/-- A weir run is checked in the order of R140 and joins the queue of the weir. -/
def State.startRun (s : State) (i : Instr) (mode kt : Nat) (a b n : Word) : State :=
  let t := s.me
  if !runStateOk s mode kt then s.runStateFault
  else match formatFault t with
    | some w => s.trap 0x07 (BitVec.ofNat 64 w) 0
    | none =>
      let w := outBits (elemOf t.fo)
      let ob := outRow w
      if (fld t.wb 0 2 : BitVec 2) ≠ 0 ∧ !(w == 48 && (fld t.wb 0 2 : BitVec 2) == 1) then s.trapOpen 0x06
      else if bufferBytes < stripBase t + kt * tileBytes (elemOf t.fw) then s.trapOpen 0x03
      else if n = 0 then s.advance i
      else
        let g := t.sg.get 0
        if g.kind ≠ 0 then s.trap 0x04 a 0
        else match segCheck s g a.toNat (64 * kt * n.toNat) needR 64 true with
          | .error c => s.trap c a 0
          | .ok x =>
            if mode = 1 then s.joinWeir i (.run mode kt n.toNat x 0)
            else match segCheck s g b.toNat (ob * n.toNat) needW 64 true with
              | .error c => s.trap c b 0
              | .ok y => s.joinWeir i (.run mode kt n.toNat x y)

def execWrun (kt : BitVec 6) (n a b : Src) (s : State) : Host.Outcome State Fault Refusal :=
  .next (s.gated (.wrun kt n a b) fun s =>
    let (x, s) := s.read a
    let (y, s) := s.read b
    let (r, s) := s.read n
    s.startRun (.wrun kt n a b) 0 (kt.toNat + 1) x y r)

def execWrunO (kt : BitVec 6) (a : Src) (s : State) : Host.Outcome State Fault Refusal :=
  .next (s.gated (.wrunO kt a) fun s =>
    let (x, s) := s.read a
    s.startRun (.wrunO kt a) 1 (kt.toNat + 1) x 0 1)

def execWrunC (kt : BitVec 6) (a b : Src) (s : State) : Host.Outcome State Fault Refusal :=
  .next (s.gated (.wrunC kt a b) fun s =>
    let (x, s) := s.read a
    let (y, s) := s.read b
    s.startRun (.wrunC kt a b) 2 (kt.toNat + 1) x y 1)

/-- The run of a job from the state in which it gains the weir: the state with all rows but the last written, and what it leaves. DESIGN CHOICE (log
entry 14): R140 lets a run's reads and writes interleave with other slots' accesses in any order; here they are all made when it gains the weir,
but for the last row's outputs, which are written when it completes. -/
def runJob (s : State) (c : Nat) (k : Fin 16) (mode kt n a b : Nat) : State × WeirExec :=
  let x := s.getCore c
  let t := x.slots.get k
  let g := runCfg t
  let opens : Bool := mode == 0 || x.weir.owner != some k
  let closes : Bool := mode != 1
  let start : Running := { cols := if x.weir.data.cols.isEmpty then freshColumns else x.weir.data.cols, cells := x.weir.data.cells }
  let y := runRows c k g opens closes kt a b { s := s, x := start, d := x.weir.data } (List.range n)
  let fin := y.x.stop.getD .ok
  let drains := match fin with
    | .code _ => false
    | .poison _ _ _ => false
    | _ => closes
  let d := ({ y.d with cols := y.x.cols, cells := y.x.cells }.tally y.x.divs y.x.passes).finished k fin closes
  (y.s, { slot := k, job := .run mode kt n a b, after := d, last := y.last, fin := fin,
          doneAt := s.clk + y.x.cycles + (if drains then 11 else 0) + 2 * y.x.passes })

/-- Whether the governor gates the starts of runs in this cycle; at throttle levels 6 and 7 in every one (21 R335). -/
def runsStopped (s : State) : Bool := !s.opens (weirShare s.lock.level)

/-- The first waiting job that may go gains the weir. A run executes; the others complete at once. -/
def execWeirRunGrant (c : Nat) (s : State) : Host.Outcome State Fault Refusal :=
  .next (
    let x := s.getCore c
    match x.weir.exec, nextJob x with
    | some _, _ => s
    | none, none => s
    | none, some (k, j) =>
      let s1 := s.setCore c { x with weir := { x.weir with waiting := x.weir.waiting.filter fun p => p.1 != k } }
      let t := x.slots.get k
      match t.st with
      | .removed (.weir w len) =>
        let s1 := { s1.as c k with iword := w }
        let pc := some (nextPc t len)
        match j with
        | .run mode kt n a b =>
          if runsStopped s then s else
          let (s2, e) := runJob s1 c k mode kt n a b
          let y := s2.getCore c
          let opening : Bool := mode == 1
          let s2 := s2.setCore c { y with weir := { y.weir with
            exec := some e
            owner := if opening then some k else y.weir.owner
            tiles := if mode = 0 then y.weir.tiles
              else if y.weir.owner = some k then y.weir.tiles + kt else kt } }
          if opening then s2.setThread c k { s2.thread c k with runOpen := true } else s2
        | .acc mode col d a => s1.complete d (weirRead x.weir.data mode col a) pc
        | .stat d a => s1.complete d (statusWord x.weir a) pc
        | .clr => (s1.setCore c { s1.getCore c with weir := (s1.getCore c).weir.clear k }).completePc pc
      | _ => s1)

/-- The open run of a weir is over. -/
def Weir.close (w : Weir) : Weir := { w with owner := none, tiles := 0 }

/-- A run finishes: its last row is written, or it overtopped and holds the weir (R140, R141, R146). -/
def execWeirRunComplete (c : Nat) (s : State) : Host.Outcome State Fault Refusal :=
  .next (
    let x := s.getCore c
    match x.weir.exec with
    | none => s
    | some e =>
      if s.clk < e.doneAt then s
      else match (x.slots.get e.slot).st, e.job with
        | .removed (.weir w len), .run mode _ _ _ _ =>
          let s1 := { s.as c e.slot with iword := w }
          let y := { x.weir with data := e.leaves x.weir.data, exec := none }
          match e.fin with
          | .ok =>
            let s1 := s1.setCore c { x with weir := if mode = 2 then y.close else y }
            let s1 := match e.last with
              | some (o, bs) => rawWrite s1 (lsKey c o) bs
              | none => s1
            let s1 := if mode = 2 then s1.setMe { s1.me with runOpen := false } else s1
            s1.completePc (some (nextPc s1.me len))
          | .overtop r m =>
            let s1 := s1.setCore c { x with weir := { (if mode = 2 then y.close else y) with held := true } }
            let s1 := if mode = 2 then s1.setMe { s1.me with runOpen := false } else s1
            s1.trap 0x08 (BitVec.ofNat 64 r) m
          | .code _ => s
          | .poison _ _ _ => s
        | _, _ => s)

/-- A run met a reserved weight code or poison: it traps with the rows before written, and an open run is discarded (R54, R141). -/
def execWeirOperandFault (c : Nat) (s : State) : Host.Outcome State Fault Refusal :=
  .next (
    let x := s.getCore c
    match x.weir.exec with
    | none => s
    | some e =>
      if s.clk < e.doneAt then s
      else match (x.slots.get e.slot).st with
        | .removed (.weir w _) =>
          let s1 := { s.as c e.slot with iword := w }
          let y := { x.weir with data := e.leaves x.weir.data, exec := none }
          let s1 := s1.setCore c { x with weir := if x.weir.owner = some e.slot then y.close else y }
          match e.fin with
          | .code r => s1.trap 0x07 3 (BitVec.ofNat 64 r)
          | .poison _ a b => (fire s1 65).trap 0x0A a b
          | .ok => s
          | .overtop _ _ => s
        | _ => s)

-- wacc, wstat, wclr (R144, R145) -------------------------------------------------------------------------------------------------------------------------

/-- A read of the weir completes at once if the weir is free; otherwise it waits its turn. -/
def readWeir (i : Instr) (d : Dst) (job : WeirJob) (f : Weir → Word) (s : State) : State :=
  if weirFree s.myCore then s.result i d (f s.myCore.weir) else s.joinWeir i job

def execWaccS (col : BitVec 6) (d : Dst) (s : State) : Host.Outcome State Fault Refusal :=
  .next (s.gated (.waccS col d) fun s =>
    readWeir (.waccS col d) d (.acc 0 col.toNat d 0) (fun w => weirRead w.data 0 col.toNat 0) s)

def execWaccU (col : BitVec 6) (d : Dst) (a : Src) (s : State) : Host.Outcome State Fault Refusal :=
  .next (s.gated (.waccU col d a) fun s =>
    let (x, s) := s.read a
    readWeir (.waccU col d a) d (.acc 1 col.toNat d x) (fun w => weirRead w.data 1 col.toNat x) s)

def execWaccD (col : BitVec 6) (d : Dst) (a : Src) (s : State) : Host.Outcome State Fault Refusal :=
  .next (s.gated (.waccD col d a) fun s =>
    let (x, s) := s.read a
    readWeir (.waccD col d a) d (.acc 2 col.toNat d x) (fun w => weirRead w.data 2 col.toNat x) s)

def execWaccP (col : BitVec 6) (d : Dst) (a : Src) (s : State) : Host.Outcome State Fault Refusal :=
  .next (s.gated (.waccP col d a) fun s =>
    let (x, s) := s.read a
    readWeir (.waccP col d a) d (.acc 3 col.toNat d x) (fun w => weirRead w.data 3 col.toNat x) s)

def execWstat (d : Dst) (a : Src) (s : State) : Host.Outcome State Fault Refusal :=
  .next (s.gated (.wstat d a) fun s =>
    let (x, s) := s.read a
    readWeir (.wstat d a) d (.stat d x) (fun w => statusWord w x) s)

def execWclr (s : State) : Host.Outcome State Fault Refusal :=
  .next (s.gated .wclr fun s =>
    if weirFree s.myCore && (!s.myCore.weir.held || s.slot == 0) then
      (s.setMyCore { s.myCore with weir := s.myCore.weir.clear s.slot }).advance .wclr
    else s.joinWeir .wclr .clr)

end Sys2Proof.Machine
end

