-- ==== Sys2Proof/Machine/Records.lean ====
section
/-! DEFINITION. Meanings of spawn, post and msg (08 R164-R166), of the queue instructions (08 R172-R174), of kpost's record, and the event
in which an outbound port takes a record that it refused (08 R154). -/

namespace Sys2Proof.Machine

open Sys2Proof

-- Images that an instruction reads at issue (08 R164, 09 R179, R197) ------------------------------------------------------

/-- Walks for the pages of a range that an instruction reads within its step: the leaves are cached up to the first page that faults, which it
gives with its code. -/
def ensurePages (s : State) (cl asid access : Nat) : List Nat → State × Option (Nat × Nat)
  | [] => (s, none)
  | p :: l =>
    match look s cl asid p access with
    | .hit _ => ensurePages s cl asid access l
    | .fault c => (s, some (c, p))
    | .miss =>
      match walk s (asTable s (cl / 32)) asid (p * pageBytes) access with
      | .error c => (s, some (c, p))
      | .ok f => ensurePages (deliver s cl f) cl asid access l

/-- A state as it was, but for the leaves that walks delivered meanwhile and their accessed bits (13 R240). -/
def State.keepWalks (before s : State) : State :=
  { before with clusters := s.clusters, mem := s.mem, lineGen := s.lineGen, poison := s.poison }

/-- Bytes of an image at a key, or the trap of a poisoned line. -/
def State.imageAt (s : State) (key addr n : Nat) (f : List Byte → State → State) : State :=
  if poisoned s key n then (fire s 65).trap 0x0A (BitVec.ofNat 64 addr) 0 else f (rawRead s key n) s

/-- Reads an image of n bytes through sg0 and goes on with it. The check's trap carries the offset (09 R189); a page that faults parks the
thread, which issues the instruction again with the operands that it had before them (log entry 33). -/
def State.image (s before : State) (off : Word) (n align : Nat) (f : List Byte → State → State) : State :=
  let g := s.me.sg.get 0
  match segCheck s g off.toNat n needR align true with
  | .error c => s.trap c off 0
  | .ok a =>
    match g.kind with
    | 0 => s.imageAt (lsKey s.core a) a n f
    | 1 => s.imageAt (lsKey (g.owner s.core) a) a n f
    | 2 => s.imageAt (basinKey (g.owner s.core) a) a n f
    | _ =>
      let cl := clusterOf s.core
      let asid := asidOf s s.me s.slot
      match ensurePages s cl asid 0 (pagesOf a n) with
      | (s, some (c, p)) => (before.keepWalks s).faultThread s.core s.slot c 0 (max a (p * pageBytes)) none s.iword
      | (s, none) =>
        if dvaBusy s cl asid a n then before.keepWalks s
        else if dvaPoisoned s cl asid a n then (fire s 65).trap 0x0A (BitVec.ofNat 64 a) 0
        else f (dvaBytes s cl asid a n) (dvaTouch s (pieces s cl asid a n))

-- Posting from an instruction (08 R154, 16 R269) ---------------------------------------------------------------------------------

/-- The outbound port of a thread's core takes its record: a T or M record counts as created. The thread awaits its reply if one is
due. -/
def State.sent (s : State) (r : Record) (awaits : Bool) : State :=
  let s := s.post (senderThread s.core s.slot) r
  let s := if countsAsTask r then s.count s.core r.tag 1 0 else s
  if awaits then s.remove .reply else s

/-- A posting instruction: its record goes to the port, or the thread is Removed until the port takes it. -/
def State.send (s : State) (i : Instr) (r : Record) (awaits : Bool) : State :=
  let s := s.advance i
  if portAccepts s s.core r then s.sent r awaits else s.remove (.port r awaits)

/-- The port accepts the record of a thread that it refused. -/
def execPostPortAccept (c : Nat) (k : Fin 16) (s : State) : Host.Outcome State Fault Refusal :=
  .next (
    let s1 := s.as c k
    match s1.me.st with
    | .removed (.port r awaits) =>
      if portAccepts s1 c r then
        let s1 := s1.sent r awaits
        if awaits then s1 else s1.completePc none
      else s
    | _ => s)

-- Payload ----------------------------------------------------------------------------------------------------------------------------

/-- n payload words from w8 upward (08). -/
def Thread.payload (t : Thread) (n : Nat) : List Word := (List.range n).map fun i => t.getW (8 + i)

/-- The words of a list of bytes. -/
def bytesWords (bs : List Byte) (n : Nat) : List Word := (List.range n).map fun i => wordAt bs i

-- spawn (R164) --------------------------------------------------------------------------------------------------------------------------

/-- The core address that spawn posts to: all ones names the own core. -/
def spawnTarget (s : State) (t : Word) : Option Half :=
  if t = BitVec.allOnes 64 then some (coreAddress s s.core)
  else if (fld t 16 48 : BitVec 48) = 0 ∧ namesCore s (fld t 0 16) then some (fld t 0 16) else none

/-- A T record from the six words of a task record, for a tag: reserved fields are delivered as zero (R149, R157). -/
def taskRecord (core : Half) (tag : Half) (w : List Word) : Record :=
  let w0 := setFld (nthD 0 w 0) 32 tag
  let key : Word := (fld (nthD 0 w 1) 0 32 : W32) ++ (fld w0 0 32 : W32)
  mkRec (coreTa core) kT (if bit w0 54 then 9 else 0) tag key (delivered kT (w0 :: (takePad 0 6 w).tail))

def execSpawn (a b : Src) (s : State) : Host.Outcome State Fault Refusal :=
  .next (s.gated (.spawn a b) fun s0 =>
    let (x, s) := s0.read a
    let (t, s) := s.read b
    match spawnTarget s t with
    | none => s.trapOpen 0x05
    | some core => s.afterRelaxed s0 fun s =>
      s.image s0 x 48 8 fun bs s => s.send (.spawn a b) (taskRecord core s.me.tag (bytesWords bs 6)) false)

-- post (R165) -----------------------------------------------------------------------------------------------------------------------------

/-- Whether a key names a core's local store as R148 lays it out. -/
def keyNames (s : State) (key : Word) : Bool := (fld key 18 30 : BitVec 30) == 0 && namesCore s (fld key 48 16)

/-- The checks of post.cnt on its key: the trap's cause. -/
def counterKeyFault (s : State) (key : Word) : Option Nat :=
  if !keyNames s key then some 0x05 else if (fld key 0 6 : BitVec 6) ≠ 0 then some 0x06 else none

/-- post.cnt and post.cnt.solo. -/
def State.postCounter (s : State) (i : Instr) (op : Nat) (b : Src) : State :=
  s.gated i fun s0 =>
    let (key, s) := s0.read b
    match counterKeyFault s key with
    | some c => s.trapOpen c
    | none => s.afterRelaxed s0 fun s =>
      s.send i (mkRec (coreTa (fld key 48 16)) kC op s.me.tag key (s.me.payload 1)) false

def execPostCnt (b : Src) (s : State) : Host.Outcome State Fault Refusal :=
  .next (s.postCounter (.postCnt b) 1 b)

def execPostCntSolo (b : Src) (s : State) : Host.Outcome State Fault Refusal :=
  .next (s.postCounter (.postCntSolo b) 0 b)

/-- post.wake and post.wake.solo. DESIGN CHOICE (log entry 65): a target on another device passes as any other record's does (R150), die 5 to 7 of it too,
though R165 names dies 0 to 3. -/
def State.postWaker (s : State) (i : Instr) (op : Nat) (a : Src) : State :=
  s.gated i fun s0 =>
    let (t, s) := s0.read a
    if (fld t 20 44 : BitVec 44) = 0 ∧ namesCore s (fld t 4 16) then
      s.afterRelaxed s0 fun s =>
        s.send i (mkRec (fld t 0 20) kW op s.me.tag ((fld t 0 4 : BitVec 4).setWidth 64) (s.me.payload 1)) false
    else s.trapOpen 0x05

def execPostWake (a : Src) (s : State) : Host.Outcome State Fault Refusal :=
  .next (s.postWaker (.postWake a) 6 a)

def execPostWakeSolo (a : Src) (s : State) : Host.Outcome State Fault Refusal :=
  .next (s.postWaker (.postWakeSolo a) 0 a)

/-- The alignment of the bytes that an operator updates (R165). -/
def UpdOp.align : UpdOp → Nat
  | .addI32 | .addF32 | .maxI32 | .minI32 | .count => 4
  | .addI64 | .or | .and | .replace | .keep => 8

/-- The checks of post.upd on its key, for n words: the trap's cause. -/
def updateKeyFault (s : State) (key : Word) (op : UpdOp) (n : Nat) : Option Nat :=
  if !keyNames s key then some 0x05
  else if (fld key 0 18).toNat % UpdOp.align op ≠ 0 then some 0x06
  else if localBytes < (fld key 0 18).toNat + 8 * n then some 0x03 else none

/-- The payload of post.upd: count carries 1 in the low half of its first word (R151). -/
def updatePayload (t : Thread) (op : UpdOp) (n : Nat) : List Word :=
  match op, t.payload n with
  | .count, w :: l => setFld w 0 (1 : W32) :: l
  | _, l => l

def execPostUpd (op : UpdOp) (len : BitVec 3) (b : Src) (s : State) : Host.Outcome State Fault Refusal :=
  .next (s.gated (.postUpd op len b) fun s0 =>
    let n := len.toNat + 1
    let (key, s) := s0.read b
    match updateKeyFault s key op n with
    | some c => s.trapOpen c
    | none => s.afterRelaxed s0 fun s =>
      s.send (.postUpd op len b) (mkRec (coreTa (fld key 48 16)) kU (UpdOp.num op) s.me.tag key (updatePayload s.me op n)) false)

-- msg (R166) --------------------------------------------------------------------------------------------------------------------------------

/-- The checks of msg on its target and handler: a handler with bit 63 would be a remote-access key, and no code lies above the 52-bit
space, which is the trap of a fetch there (13 R231, R242; log entry 34). -/
def messageFault (s : State) (t h : Word) : Option Nat :=
  if (fld t 20 44 : BitVec 44) ≠ 0 ∨ !namesCore s (fld t 4 16) ∨ (fld h 52 12 : BitVec 12) ≠ 0 then some 0x05
  else if (fld h 0 2 : BitVec 2) ≠ 0 then some 0x06 else none

def execMsg (len : BitVec 3) (a b : Src) (s : State) : Host.Outcome State Fault Refusal :=
  .next (s.gated (.msg len a b) fun s0 =>
    let (t, s) := s0.read a
    let (h, s) := s.read b
    match messageFault s t h with
    | some c => s.trapOpen c
    | none => s.afterRelaxed s0 fun s =>
      s.send (.msg len a b) (mkRec (coreTa (fld t 4 16)) kM 0 s.me.tag h (s.me.payload (len.toNat + 1))) false)

-- Queues (R172-R174) --------------------------------------------------------------------------------------------------------------------------

/-- Whether a thread is Blocked on a queue. -/
def Thread.blockedOn (q : Fin 8) (t : Thread) : Bool :=
  match t.st with
  | .blocked (.queueRead p) => p == q
  | .blocked (.queueWrite p) => p == q
  | .blocked (.queuePush p _) => p == q
  | _ => false

/-- Whether qcfg of a queue with a configuration word traps (R173). -/
def queueMisuse (x : Core) (q cfg : Word) : Bool :=
  decide (7 < q.toNat) || (fld cfg 21 43 : BitVec 43) != 0 || (bit cfg 20 && (fld cfg 0 16 : Half) == 0) ||
    (let y := x.queue (Fin.ofNat 8 q.toNat)
     y.enabled && (!y.entries.isEmpty || x.slots.toList.any (Thread.blockedOn (Fin.ofNat 8 q.toNat))))

def execQcfg (a b : Src) (s : State) : Host.Outcome State Fault Refusal :=
  .next (s.gated (.qcfg a b) fun s =>
    let (q, s) := s.read a
    let (cfg, s) := s.read b
    if queueMisuse s.myCore q cfg then s.trap 0x0B q 0
    else
      let y : Queue := { producers := fld cfg 0 16, consumer := ⟨(fld cfg 16 4).toNat, (fld cfg 16 4).isLt⟩, enabled := bit cfg 20 }
      (s.setMyCore (s.myCore.setQueue (Fin.ofNat 8 q.toNat) y)).advance (.qcfg a b))

/-- A core after a slot gives its token on a queue; a reader of a drained queue issues again (R174). -/
def Core.giveToken (x : Core) (q : Fin 8) (k : Fin 16) : Core :=
  let y := { x.queue q with tokens := (x.queue q).tokens ||| (1 : Half) <<< k.val }
  let x := x.setQueue q y
  if y.drained then x.mapSlots (Thread.retryRead q) else x

/-- DESIGN CHOICE (log entry 66): a queue number above 7 takes trap 0x0B, as in qcfg (R173). -/
def execQeos (a : Src) (s : State) : Host.Outcome State Fault Refusal :=
  .next (s.gated (.qeos a) fun s =>
    let (q, s) := s.read a
    if 7 < q.toNat ∨ !mayWrite (s.myCore.queue (Fin.ofNat 8 q.toNat)) s.slot then s.trap 0x0B q 0
    else (s.setMyCore (s.myCore.giveToken (Fin.ofNat 8 q.toNat) s.slot)).advance (.qeos a))

end Sys2Proof.Machine
end

