-- ==== Sys2Proof/Machine/Groups.lean ====
section
/-! DEFINITION. Meanings of the group and tow instructions (08 R167-R171, 01 R24-R29) and of the events of group units, barriers and
the forwarding ring. -/

namespace Sys2Proof.Machine

open Sys2Proof

/-- The thread that executes, as groups name it. -/
def State.myTa (s : State) : Nat := taNum s.core s.slot

/-- An instruction whose source names a group: it goes on with the group id, or traps (R167). -/
def State.withGroup (s : State) (a : Src) (f : Half → State → State) : State :=
  let (g, s) := s.read a
  match groupOf (fld g 0 16) with
  | none => s.trapOpen 0x05
  | some _ => f (fld g 0 16) s

-- Membership and barriers (01 R25; 08 R167, R168) --------------------------------------------------------------------------

def execJoin (d : Dst) (a : Src) (s : State) : Host.Outcome State Fault Refusal :=
  .next (s.gated (.join d a) fun s => s.withGroup a fun g s => (s.advance (.join d a)).remove (.group false g d))

def execLeave (d : Dst) (a : Src) (s : State) : Host.Outcome State Fault Refusal :=
  .next (s.gated (.leave d a) fun s => s.withGroup a fun g s => (s.advance (.leave d a)).remove (.group true g d))

/-- A group unit's answer to join, and the group after it. A join in the cycle in which a round completes belongs to the next round (R25). -/
def Group.join (now : Nat) (x : Group) (ta : Nat) : Word × Group :=
  if x.members.contains ta || x.pending.contains ta then (1, x)
  else if 256 ≤ x.members.length + x.pending.length then (2, x)
  else if x.endedAt = now + 1 then (0, { x with members := x.members ++ [ta], roundOf := x.roundOf ++ [ta] })
  else (0, { x with pending := x.pending ++ [ta] })

/-- A group unit's answer to leave. -/
def Group.answerLeave (x : Group) (ta : Nat) : Word × Group :=
  if x.members.contains ta || x.pending.contains ta then (0, x.leave ta) else (1, x)

/-- The group unit answers a join or a leave. -/
def execGroupReply (c : Nat) (k : Fin 16) (s : State) : Host.Outcome State Fault Refusal :=
  .next (
    let s1 := s.as c k
    match s1.me.st with
    | .removed (.group isLeave gid d) =>
      let r := if isLeave then (s1.group gid).answerLeave (taNum c k) else (s1.group gid).join s.clk (taNum c k)
      (s1.setGroup gid r.2).complete d r.1 none
    | _ => s)

/-- A group whose member, or pending member, executes bar. -/
def Group.bar (x : Group) (ta : Nat) : Group :=
  let x := x.arrive ta
  { x with blocked := if x.blocked.contains ta then x.blocked else x.blocked ++ [ta] }

def execBar (a : Src) (s : State) : Host.Outcome State Fault Refusal :=
  .next (s.gated (.bar a) fun s => s.withGroup a fun g s =>
    let x := s.group g
    if x.members.contains s.myTa || x.pending.contains s.myTa then
      (s.setGroup g (x.bar s.myTa)).block (.bar g (lengthOf (.bar a)))
    else s.trapOpen 0x05)

/-- Whether every thread that was a member when the round began has arrived or left. A round of no member ends when one joins. -/
def Group.roundOver (x : Group) : Bool :=
  x.roundOf.all (fun ta => x.arrived.contains ta) && (!x.roundOf.isEmpty || !x.pending.isEmpty)

/-- A group whose next round begins. -/
def Group.nextRound (now : Nat) (x : Group) : Group :=
  { x with members := x.members ++ x.pending, pending := [], roundOf := x.members ++ x.pending, arrived := [], blocked := [],
           round := x.round + 1, dog := 0, dogOn := false, endedAt := now + 1 }

/-- The round of a thread is over: its bar completes; a parked thread keeps that; a saved one's keeper is woken (09 R193). DESIGN CHOICE (log
entry 44): R193 names no bit for that wake; it is bit 4, the bit of a wake to a saved thread (01 R21). -/
def State.roundWake (s : State) (gid : Half) (ta : Nat) : State :=
  if 65536 ≤ ta then
    let c := (ta - 65536) / 16
    match (s.thread c 0).st with
    | .empty => s
    | _ => s.setThread c 0 ((s.thread c 0).wake s.clk 0x10)
  else
    let c := ta / 16
    let k : Fin 16 := Fin.ofNat 16 ta
    let t := s.thread c k
    match t.st with
    | .blocked (.bar g len) => if g = gid then s.onThread c k fun s => s.completePc (some (nextPc s.me len)) else s
    | .parked p =>
      match p.before with
      | some (.bar g _) => if g = gid then s.setThread c k { t with st := .parked { p with done := true } } else s
      | _ => s
    | _ => s

/-- The round of every thread of a list is over. -/
def State.roundWakes (s : State) (gid : Half) : List Nat → State
  | [] => s
  | ta :: l => State.roundWakes (s.roundWake gid ta) gid l

/-- A round completes (R25). -/
def execBarrierRoundComplete (gid : Half) (s : State) : Host.Outcome State Fault Refusal :=
  .next (
    let x := s.group gid
    if (groupOf gid).isSome && x.roundOver then (s.setGroup gid (x.nextRound s.clk)).roundWakes gid x.blocked else s)

/-- Each arrived member of a list that is still Blocked in bar on the group takes trap 0x0F, with its own tag (16 R276). -/
def State.dogTraps (s : State) (gid : Half) : List Nat → State
  | [] => s
  | ta :: l =>
    let c := ta / 16
    let k : Fin 16 := Fin.ofNat 16 ta
    let t := s.thread c k
    let s := match t.st with
      | .blocked (.bar g _) =>
        if g = gid then s.trapThread c k 0x0F (fetchedWord s c k) t.pc (t.tag.setWidth 64) 0 else s
      | _ => s
    State.dogTraps s gid l

/-- The watchdog interval in mtime ticks (16 R273, 19 R311). -/
def dogTicks (s : State) : Nat := 100 * s.wharf.watchdog.toNat

/-- The barrier watchdog of a group expires. -/
def execBarrierWatchdogExpiry (gid : Half) (s : State) : Host.Outcome State Fault Refusal :=
  .next (
    let x := s.group gid
    if (groupOf gid).isSome && x.dogOn && s.wharf.watchdog != 0 && decide (dogTicks s ≤ x.dog) then
      (s.setGroup gid { x with dogOn := false }).dogTraps gid x.arrived
    else s)

-- Tow mode (01 R26-R29; 08 R169-R171) ------------------------------------------------------------------------------------------

/-- A thread becomes the motor of a group: members that wait in moor in its cluster board, others run on. -/
def State.startTow (s : State) (gid : Half) (rejoin : Word) : State :=
  let x := s.group gid
  let s := s.setGroup gid { x with tow := 1, motor := s.myTa, rejoin := rejoin }
  let s := (boardAll s gid (clusterOf s.core) x.members).moorAway gid none x.members
  s.setMe { s.me with tow := .motor gid rejoin }

def execTow (a b : Src) (s : State) : Host.Outcome State Fault Refusal :=
  .next (s.gated (.tow a b) fun s => s.withGroup a fun g s =>
    let (r, s) := s.read b
    let x := s.group g
    if !x.members.contains s.myTa || x.tow == 1 then s.trapOpen 0x05
    else if misaligned r then s.trapOpen 0x06
    else ((s.advance (.tow a b)).leaveTow).startTow g r)

/-- What moor does at once: a status, or Blocked (R170). -/
def moorNow (s : State) (gid : Half) : Option Word :=
  let x := s.group gid
  if x.tow = 0 then none
  else if x.tow = 1 then
    if x.motor = s.myTa ∨ s.me.tow = .butty gid then some 1
    else if clusterOf (x.motor / 16) = clusterOf s.core then none else some 0
  else some 0

def execMoor (d : Dst) (a : Src) (s : State) : Host.Outcome State Fault Refusal :=
  .next (s.gated (.moor d a) fun s => s.withGroup a fun g s =>
    if !(s.group g).members.contains s.myTa then s.trapOpen 0x05
    else match moorNow s g with
      | some v => s.result (.moor d a) d v
      | none => s.block (.moor g d (lengthOf (.moor d a))))

/-- A butty casts off at the following address; a motor's tow dissolves; elsewhere no effect (R171). -/
def execCastoff (s : State) : Host.Outcome State Fault Refusal :=
  .next (
    match s.me.tow with
    | .butty _ => s.setMe { s.me with pc := nextPc s.me 4, tow := .none, fwd := [] }
    | .draining _ => s.setMe { s.me with pc := nextPc s.me 4, tow := .none, fwd := [] }
    | .motor _ _ => (s.advance .castoff).leaveTow
    | .none => s.advance .castoff)

/-- The forwarded instruction at a place on the ring reaches its butty's buffer (R26, R27). -/
def execForwardedInstruction (n : Nat) (s : State) : Host.Outcome State Fault Refusal :=
  .next (
    match s.ring[n]? with
    | none => s
    | some f =>
      if s.clk < f.arrives ∨ (s.ring.take n).any (fun g => g.core == f.core && g.slot == f.slot) then s
      else
        let s := { s with ring := dropAt s.ring n }
        let t := s.thread f.core f.slot
        if t.isButty then
          s.setThread f.core f.slot { t with
            fwd := t.fwd ++ [f.f]
            st := if t.st = .blocked .butty then .runnable else t.st }
        else s)

/-- Whether the motor of a group issues the instruction at the rejoin address in this cycle (R29). -/
def motorRejoins (s : State) (gid : Half) : Bool :=
  let x := s.group gid
  let c := x.motor / 16
  let k : Fin 16 := Fin.ofNat 16 x.motor
  x.tow == 1 && (s.thread c k).pc == x.rejoin && issues s c k

/-- A thread that waits in moor boards as its motor issues the instruction at the rejoin address. -/
def execMoorRejoin (c : Nat) (k : Fin 16) (s : State) : Host.Outcome State Fault Refusal :=
  .next (
    match (s.thread c k).st with
    | .blocked (.moor g d len) =>
      if motorRejoins s g && clusterOf ((s.group g).motor / 16) == clusterOf c then s.board c k g d len else s
    | _ => s)

end Sys2Proof.Machine
end

