-- ==== Sys2Proof/Machine/EnginePorts.lean ====
section
/-! DEFINITION. Meanings of push, pop, poll, bellh, bret, alloc and free (09 R175-R186), and the events in which an engine has room (R179) and
the allocator answers (17 R290, R291). -/

namespace Sys2Proof.Machine

open Sys2Proof

-- push, pop, poll (09 R179, R182) ------------------------------------------------------------------------------------------

def execPush (p : Fin 4) (a : Src) (s : State) : Host.Outcome State Fault Refusal :=
  .next (s.gated (.push p a) fun s0 =>
    let (x, s) := s0.read a
    s.image s0 x 64 64 fun bs s =>
      let b := bytesWords bs 8
      let f (s : State) := s.submit p b (some (nextPc s.me (lengthOf (.push p a)))) false
      match submission s p b with
      | .ok _ => s.afterRelaxed s0 f
      | _ => f s)

/-- An engine has room: it accepts the command of a thread that it held up. -/
def execEngineQueueRoom (c : Nat) (k : Fin 16) (s : State) : Host.Outcome State Fault Refusal :=
  .next (
    let s1 := s.as c k
    match s1.me.st with
    | .removed (.engine m) => if (s1.engine (portEngine c m.port)).room then (s1.accept m).completePc none else s
    | _ => s)

def execPop (d : Dst) (p : Fin 4) (s : State) : Host.Outcome State Fault Refusal :=
  .next (s.gated (.pop d p) fun s =>
    match gateSrc s.myCore s.slot (.e p) with
    | .go =>
      let (v, s) := s.read (.e p)
      s.result (.pop d p) d v
    | g => s.stop g)

def execPoll (d : Dst) (p : Fin 4) (s : State) : Host.Outcome State Fault Refusal :=
  .next (s.gated (.poll d p) fun s =>
    let (v, s) := s.read (.e p)
    s.result (.poll d p) d v)

-- Bells (R184, R185) --------------------------------------------------------------------------------------------------------------

def execBellh (d : Dst) (a : Src) (s : State) : Host.Outcome State Fault Refusal :=
  .next (s.gated (.bellh d a) fun s0 =>
    let (x, s) := s0.read a
    if misaligned x then s0.trapOpen 0x06
    else
      let s := s.result (.bellh d a) d s.me.bh
      match s.me.st with
      | .parked _ => s
      | _ => s.setMe { s.me with bh := x })

def execBret (s : State) : Host.Outcome State Fault Refusal :=
  .next (if s.me.inHandler then (s.goTo s.me.bpc).setMe { (s.goTo s.me.bpc).me with inHandler := false } else s.trapMisuse)

-- Allocator (R186; 17 R290, R291) ------------------------------------------------------------------------------------------------------

def execAlloc (d : Dst) (a : Src) (s : State) : Host.Outcome State Fault Refusal :=
  .next (s.gated (.alloc d a) fun s =>
    let (p, s) := s.read a
    (s.advance (.alloc d a)).remove (.alloc d p.toNat))

def execFree (a b : Src) (s : State) : Host.Outcome State Fault Refusal :=
  .next (s.gated (.free a b) fun s =>
    let (x, s) := s.read a
    let (p, s) := s.read b
    if 255 < p.toNat ∨ !blockOf (getPool s (dieOf s.core) p.toNat) x.toNat then s.trapMisuse
    else (s.advance (.free a b)).remove (.free x p.toNat))

/-- The allocator's answer to alloc: none while a refill is due (R291). -/
def allocAnswer (s : State) (d p : Nat) : Option (Nat × State) :=
  let x := getPool s d p
  if 255 < p ∨ !x.enabled then some (0, s)
  else if x.held.isEmpty then (if x.head = 0 then some (0, s) else none)
  else some (poolTake s d p)

/-- The allocator answers an alloc, or accepts a free while it has room for the address. -/
def execAllocatorReply (c : Nat) (k : Fin 16) (s : State) : Host.Outcome State Fault Refusal :=
  .next (
    let s1 := s.as c k
    match s1.me.st with
    | .removed (.alloc d p) =>
      match allocAnswer s1 (dieOf c) p with
      | some (a, s1) => s1.complete d (BitVec.ofNat 64 a) none
      | none => s
    | .removed (.free x p) =>
      if (getPool s1 (dieOf c) p).held.length < 16 then (poolFree s1 (dieOf c) p x.toNat).completePc none else s
    | _ => s)

end Sys2Proof.Machine
end

