-- ==== Sys2Proof/Machine/SystemOps.lean ====
section
/-! DEFINITION. Meanings of sys, trap and rdcap (09 R187-R191), system-call steering (19 R312) and the capability list (21 R329, R330). -/

namespace Sys2Proof.Machine

open Sys2Proof

-- sys (09 R187, 19 R312) --------------------------------------------------------------------------------------------------

/-- The hart that takes a call number. -/
def steered (s : State) (n : Word) : Fin 32 :=
  let i := n.toNat % 32
  Fin.ofNat 32 (fld (nthD 0 s.wharf.steering (i / 8)) (8 * (i % 8)) 5).toNat

/-- An argument with its rights: a flagged one is a segment pointer into a global segment; none if it is unreachable. -/
def sysArg (t : Thread) (x : Word) (flagged : Bool) : Option (Word × BitVec 3) :=
  if !flagged then some (x, 0)
  else
    let g := t.sg.get ⟨(fld x 61 3).toNat, (fld x 61 3).isLt⟩
    let o := (fld x 0 52).toNat
    if g.kind ≠ 3 ∨ (fld x 52 9 : BitVec 9) ≠ 0 ∨ g.limit < o then none
    else some (BitVec.ofNat 64 ((fld g.w0 0 52).toNat + o), g.rights)

/-- The arguments from argument i on. -/
def sysArgs (t : Thread) (mask : Word) : Nat → Nat → Option (List (Word × BitVec 3))
  | 0, _ => some []
  | n + 1, i =>
    match sysArg t (t.getW (16 + i)) (bit mask i), sysArgs t mask n (i + 1) with
    | some x, some l => some (x :: l)
    | _, _ => none

/-- The rights field of word 6: three bits for each argument. -/
def rightsField (l : List (Word × BitVec 3)) : Nat := l.foldr (fun p n => p.2.toNat + 8 * n) 0

/-- The record that sys posts. -/
def sysRecord (s : State) (n mask : Word) (l : List (Word × BitVec 3)) : Record :=
  { mkRec (hartTa s (steered s n)) kM 0 s.me.tag n
      (l.map Prod.fst ++ [BitVec.ofNat 64 (mask.toNat % 64 + 64 * rightsField l), (taOf s s.core s.slot).setWidth 64]) with call := true }

def execSys (a b : Src) (s : State) : Host.Outcome State Fault Refusal :=
  .next (s.gated (.sys a b) fun s =>
    let (n, s) := s.read a
    let (m, s) := s.read b
    match sysArgs s.me m 6 0 with
    | none => (s.setMe ((s.me.setW 16 0).setW 17 14)).advance (.sys a b)
    | some l => s.send (.sys a b) (sysRecord s n m l) true)

-- trap (R188) --------------------------------------------------------------------------------------------------------------------

def execTrap (a : Src) (s : State) : Host.Outcome State Fault Refusal :=
  .next (s.gated (.trap a) fun s =>
    let (x, s) := s.read a
    s.trap 0x0D x 0)

-- The capability list (21 R329, R330; log entry 18) ------------------------------------------------------------------------------------

/-- Word 0 of a capability record (09 R191). -/
def capHead (flags : Half) (next len ver id : Nat) : Word :=
  flags ++ BitVec.ofNat 16 next ++ BitVec.ofNat 8 len ++ BitVec.ofNat 8 ver ++ BitVec.ofNat 16 id

/-- The cores of a core-map record r from 1 to 24. -/
def capCore (r b : Nat) : Nat := (r - 1) / 6 * 512 + (4 * ((r - 1) % 6) + b / 16) * 16 + b % 16

/-- The presence bits of a core-map record. -/
def capMap (s : State) (r : Nat) : Word := iter (fun b w => w ||| ofBit 64 (present s (capCore r b)) <<< b) 64 0

/-- The number of present cores. -/
def presentCount (s : State) : Nat := ((List.range 2048).filter fun c => present s c).length

/-- A capability record: word 0 and payload. -/
def capRecord (s : State) (i : Nat) : Word × Word :=
  match i with
  | 0 => (capHead 0 1 1 1 1, 1)
  | 1 => (capHead 0 2 1 1 2, 0x002C01C1)
  | 2 => (capHead 0 3 1 1 3, 3)
  | 3 => (capHead 0 4 1 1 4, 3)
  | 4 => (capHead s.lock.generation 29 25 1 5, BitVec.ofNat 64 (presentCount s))
  | 29 => (capHead 0 30 1 1 6, 0x0101)
  | 30 => (capHead 0 31 1 1 7, (s.wharf.device ++ (0xFF : Byte)).setWidth 64)
  | 31 => (capHead 0 32 1 1 8, (s.lock.gibPerIface ++ (0 : BitVec 4) ++ s.lock.ifaces).setWidth 64)
  | 32 => (capHead 0 33 1 1 9, 0x31000)
  | 33 => (capHead 0 34 1 1 10, (s.lock.pagesPerStack ++ s.lock.hbm).setWidth 64)
  | 34 => (capHead 0 0 1 1 11, s.lock.pcie.setWidth 64)
  | _ => if 4 < i ∧ i < 29 then (capHead s.lock.generation 29 25 1 5, capMap s (i - 4)) else (0, 0)

def execRdcap (d : Dst) (a b : Src) (s : State) : Host.Outcome State Fault Refusal :=
  .next (s.gated (.rdcap d a b) fun s =>
    let (i, s) := s.read a
    let (w, s) := s.read b
    let r := capRecord s i.toNat
    s.result (.rdcap d a b) d (if bit w 0 then r.2 else r.1))

end Sys2Proof.Machine
end

