-- ==== Sys2Proof/Machine/Keeper.lean ====
section
/-! DEFINITION. Meanings of the keeper instructions (09 R192-R198), how a parked thread goes on (01 R21, 13 R246), and the events in which
ksave, kload and ctuinv complete. -/

namespace Sys2Proof.Machine

open Sys2Proof

/-- A keeper instruction: slots 1 to 15 take trap 0x02 (02 R46). -/
def State.keeper (s : State) (i : Instr) (f : State → State) : State :=
  if s.slot.val = 0 then s.gated i f else s.trap 0x02 0 0

/-- The slot that the keeper's core selects. -/
def State.target (s : State) : Fin 16 := s.myCore.selected

/-- State codes (09). -/
def SlotState.code : SlotState → Nat
  | .empty => 0
  | .runnable => 1
  | .removed _ => 2
  | .blocked _ => 3
  | .parked _ => 4

-- Going on (01 R21, 13 R246) -------------------------------------------------------------------------------------------------

/-- A thread that is no longer parked is Runnable, at a boundary; its fetch begins. -/
def State.awake (s : State) : State := s.boundary s.core s.slot { s.me with st := .runnable, joined := s.clk }

/-- The thread returns to a Blocked state, where a park that is due meets it (16 R275). -/
def State.still (s : State) (b : Blocked) : State := (s.setMe { s.me with st := .blocked b }).settleDone

/-- The thread returns to what it was Blocked in, or runs on if its event has come (R21). done: the round of its bar is over. -/
def State.unblock (s : State) (b : Blocked) (done : Bool) : State :=
  let y (q : Fin 8) := s.myCore.queue q
  match b with
  | .wait m len => if s.me.ev &&& m ≠ 0 then s.completePc (some (nextPc s.me len)) else s.still b
  | .bar _ len => if done then s.completePc (some (nextPc s.me len)) else s.still b
  | .queueRead q => if (y q).enabled && (y q).entries.isEmpty && !(y q).drained then s.still b else s.awake
  | .queueWrite q => if (y q).enabled && decide (16 ≤ (y q).entries.length) then s.still b else s.awake
  | .queuePush q v => if 16 ≤ (y q).entries.length then s.still b else (s.setMyCore (s.myCore.pushQueue q v)).awake
  | .moor g d len => match moorNow s g with
    | some v => s.complete d v (some (nextPc s.me len))
    | none => s.still b
  | .butty => if s.me.isButty && s.me.fwd.isEmpty then s.still b else s.awake

/-- An ordinary access that faulted is performed anew, from its segment check (13 R246). -/
def State.anew (s : State) (x : Access) : State :=
  let s := s.setMe { s.me with joined := s.clk }
  let g := s.me.sg.get x.sg
  match checkAccess s g x.op x.off x.disp with
  | .error c => s.trapThread s.core s.slot c x.iword x.pc x.off (infoB x.op x.data)
  | .ok a => s.startAccess { x with kind := g.kind, addr := a, owner := g.owner s.core } false true

/-- The relaxed access at a place is performed anew, from its segment check: it goes back into flight at its place, and the Bool says that the
thread goes on. One that traps parks the thread, which remembers the state of p. -/
def State.anewRelaxed (s : State) (n : Nat) (x : Access) (p : Park) : Bool × State :=
  let g := s.me.sg.get x.sg
  let s := s.setMe { s.me with relaxed := dropAt s.me.relaxed n }
  match checkAccess s g x.op x.off x.disp with
  | .error c => (false, s.trapRelaxed s.core s.slot p.before p.done c x x.off (infoB x.op x.data))
  | .ok a =>
    let y := { x with kind := g.kind, addr := a, owner := g.owner s.core }
    if g.kind ≠ 0 then (true, s.launchRelaxed y n)
    else match performAt s (.raw (lsKey s.core a)) y.op y.data y.exp with
      | none => (false, (fire s 65).trapRelaxed s.core s.slot p.before p.done 0x0A y (BitVec.ofNat 64 a) 0)
      | some (v, s) => (true, s.land y.op v none)

/-- The place of the relaxed access that a thread is parked for: the one that was found to fault. -/
def Thread.foundAt (t : Thread) : Nat := (findIdx1 (fun r : Relaxed => r.found.isSome) t.relaxed).getD 0

/-- A thread parked by a fault or an in-lock page goes on: a fetch is tried again, an access is performed anew. A relaxed one leaves the
thread in the state in which it parked. A thread whose pc the keeper has changed issues at that pc instead (09 R196). -/
def State.replay (s : State) (p : Park) : State :=
  match p.acc with
  | none => s.awake
  | some (false, x) =>
    if s.me.pc ≠ x.pc then s.awake
    else
      let s := { s with iword := x.iword }
      ((s.setMe { s.me with st := .runnable }).anew x).settleDone
  | some (true, x) =>
    match s.anewRelaxed s.me.foundAt x p with
    | (false, s) => s.keeperFence s.core
    | (true, s) => match p.before with
      | none => s.awake
      | some b => s.unblock b p.done

/-- A parked thread returns to the state it remembered, or to Runnable (R21, 09 R192). -/
def State.resumeMe (s : State) : State :=
  match s.me.st with
  | .parked p =>
    if p.fault.isSome then s.replay p
    else match p.before with
      | some b => s.unblock b p.done
      | none => s.awake
  | _ => s

/-- The thread in a slot resumes. -/
def State.resume (s : State) (c : Nat) (k : Fin 16) : State := s.onThread c k fun s => s.resumeMe

/-- A failing replay: the access takes trap 0x0E, with the faulting DVA, the instruction's word (zero for a fetch) and its PC (13 R246). A
relaxed access leaves the list. -/
def State.replayFails (s : State) (c : Nat) (k : Fin 16) (p : Park) : State :=
  let dva := BitVec.ofNat 64 (p.fault.getD (0, 0)).2
  let t := s.thread c k
  match p.acc with
  | some (true, x) =>
    ((s.setThread c k { t with relaxed := dropAt t.relaxed t.foundAt }).trapRelaxed c k p.before p.done 0x0E x dva 0).keeperFence c
  | some (false, x) => s.trapThread c k 0x0E x.iword x.pc dva 0
  | none => s.trapThread c k 0x0E p.iword t.pc dva 0

-- kpark, kresume, kkill (R192) --------------------------------------------------------------------------------------------------

def execKpark (d : Dst) (s : State) : Host.Outcome State Fault Refusal :=
  .next (s.keeper (.kpark d) fun s =>
    let k := s.target
    let t := s.thread s.core k
    let v : Word := BitVec.ofNat 64 t.st.code
    let s := if k.val < 2 then s else s.setThread s.core k t.kpark
    s.result (.kpark d) d v)

def execKresume (d : Dst) (s : State) : Host.Outcome State Fault Refusal :=
  .next (s.keeper (.kresume d) fun s =>
    let k := s.target
    let v : Word := BitVec.ofNat 64 (s.thread s.core k).st.code
    let s := if k.val = 0 then s else s.resume s.core k
    s.result (.kresume d) d v)

/-- A relaxed store that is in flight when its thread is killed completes. -/
def State.flushRelaxed (s : State) (c : Nat) (k : Fin 16) (r : Relaxed) : State :=
  let x := r.acc
  if x.op.code ≠ 1 ∨ r.found.isSome ∨ r.poison ∨ r.status.isSome then s
  else if x.kind = 1 then (if r.sent then s else s.post (senderThread c k) (remoteRecord s c k x))
  else
    let s := (ensurePages s (clusterOf c) (asidOf s (s.thread c k) k) 1 (if x.kind = 3 then x.pages else [])).1
    match reach s c k x with
    | .done _ s => s
    | .half x s => (match reach s c k x with
      | .done _ s => s
      | _ => s)
    | _ => s

/-- Every relaxed store of a list completes, in order. -/
def State.flushAll (s : State) (c : Nat) (k : Fin 16) : List Relaxed → State
  | [] => s
  | r :: l => State.flushAll (s.flushRelaxed c k r) c k l

/-- A keeper kills the thread in a slot (R192). -/
def State.killSlot (s : State) (c : Nat) (k : Fin 16) : State :=
  match (s.thread c k).st with
  | .empty => s
  | _ => (s.flushAll c k (s.thread c k).relaxed).kill c k

def execKkill (d : Dst) (s : State) : Host.Outcome State Fault Refusal :=
  .next (s.keeper (.kkill d) fun s =>
    let k := s.target
    let v : Word := BitVec.ofNat 64 (s.thread s.core k).st.code
    let s := if k.val = 0 then s else s.killSlot s.core k
    s.result (.kkill d) d v)

-- ksave, kload (R193) -----------------------------------------------------------------------------------------------------------------

def execKsave (d : Dst) (s : State) : Host.Outcome State Fault Refusal :=
  .next (s.keeper (.ksave d) fun s => (s.advance (.ksave d)).remove (.saveLoad false d (s.clk + 24)))

def execKload (d : Dst) (s : State) : Host.Outcome State Fault Refusal :=
  .next (s.keeper (.kload d) fun s => (s.advance (.kload d)).remove (.saveLoad true d (s.clk + 24)))

/-- Spills every older on-chip window; none if one cannot be spilled. -/
def spillAll (s : State) (c : Nat) (k : Fin 16) : Nat → Option State
  | 0 => some s
  | n + 1 =>
    match (s.thread c k).spillAt with
    | none => none
    | some a => spillAll (s.spill c k a) c k n

/-- The block field of a thread, with the word that it awaits. -/
def blockField (st : SlotState) : Nat × Word :=
  match st with
  | .blocked (.wait m _) => (1, m)
  | .blocked (.bar g _) => (2, g.setWidth 64)
  | _ => (0, 0)

/-- The trap cause that a save area holds. -/
def parkCause (st : SlotState) : Nat :=
  match st with
  | .parked p => p.cause
  | _ => 0

/-- The 192 words of a save area. -/
def saveWords (t : Thread) : List Word :=
  let f := blockField t.st
  let pack : Word := t.wb ++ t.tag ++ (0 : BitVec 5) ++ BitVec.ofNat 3 f.1 ++ (0 : BitVec 1) ++ BitVec.ofBool t.inHandler ++
    BitVec.ofBool t.runOpen ++ BitVec.ofNat 5 t.depth ++ t.wsp
  let shadows : Word := (0 : Half) ++ t.fo ++ t.fw ++ t.fa
  t.g.toList ++ t.w.toList ++ (t.v.toList.flatMap fun v => (List.range 8).map fun i => lane 64 v i) ++ t.m.toList ++
    (t.sg.toList.flatMap fun g => [g.w0, g.w1]) ++
    [shadows, t.fsc, t.pc, t.ev, t.alarm, t.bh, t.bpc, pack, f.2, t.bid ++ t.inst, BitVec.ofNat 64 (parkCause t.st), 0]

/-- What a slot keeps of its saved thread beside the save area (log entry 26). -/
def Thread.savedPart (t : Thread) : Saved :=
  match t.st with
  | .blocked (.wait _ len) => { isTask := t.isTask, parent := t.parent, succ := t.succ, len := len }
  | .blocked (.bar _ len) => { isTask := t.isTask, parent := t.parent, succ := t.succ, len := len }
  | .parked p => { isTask := t.isTask, parent := t.parent, succ := t.succ, before := p.before, done := p.done }
  | _ => { isTask := t.isTask, parent := t.parent, succ := t.succ }

/-- Why ksave refuses a thread before any spill: 1, 2, 4 or 5; slots 0 and 1 have no save area (log entry 36). -/
def saveRefusal (k : Fin 16) (t : Thread) : Option Word :=
  let savable : Bool := match t.st with
    | .parked _ => true
    | .blocked (.wait _ _) => true
    | .blocked (.bar _ _) => true
    | _ => false
  if !savable || decide (k.val < 2) then some 1
  else if t.ports.toList.any (fun p => !p.out.isEmpty || !p.staging.isEmpty) || !t.bells.isEmpty then some 2
  else if (match t.st with
    | .parked p => p.fault.isSome
    | _ => false) then some 4
  else if t.saveInUse then some 5
  else none

/-- The thread in a slot moves into its save area; the slot is Empty and wakes reach the area (R193). DESIGN CHOICE (log entry 47): the tow of a
saved motor dissolves, and a saved butty leaves its tow. -/
def State.saveOut (s : State) (c : Nat) (k : Fin 16) : State :=
  let t := s.thread c k
  let s := lsWrite s c (saveArea (s.getCore c).kca k) (wordsBytes (saveWords t))
  let s := match t.tow with
    | .motor g _ => s.dissolve g
    | _ => s
  let s := s.renameInGroups (taNum c k) (savedNum (taNum c k))
  let s := s.setCore c { s.getCore c with weir := (s.getCore c).weir.forget k }
  s.setThread c k { t.vacant s.clk with saveInUse := true, saved := t.savedPart }

/-- ksave takes effect: its outcome, and the state after it. -/
def saveNow (s : State) (c : Nat) (k : Fin 16) : Word × State :=
  match saveRefusal k (s.thread c k) with
  | some d => (d, s)
  | none =>
    match spillAll s c k (s.thread c k).older.length with
    | none => (3, s)
    | some s => (0, s.saveOut c k)

/-- A thread as a save area holds it, its state still to be set (R193). -/
def loadThread (t : Thread) (w : Nat → Word) : Thread :=
  let pack := w 187
  { t with
    pc := w 182
    g := Vector.ofFn fun i : Fin 8 => w i.val
    w := Vector.ofFn fun i : Fin 24 => w (8 + i.val)
    older := []
    depth := (fld pack 16 5).toNat
    wsp := fld pack 0 16
    v := Vector.ofFn fun i : Fin 16 => ofLanes 64 (fun j => w (32 + 8 * i.val + j)) 8
    m := Vector.ofFn fun i : Fin 4 => w (160 + i.val)
    sg := Vector.ofFn fun i : Fin 8 => mkSeg (w (164 + 2 * i.val)) (w (165 + 2 * i.val))
    fa := fld (w 180) 0 16
    fw := fld (w 180) 16 16
    fo := fld (w 180) 32 16
    fsc := w 181
    tag := fld pack 32 16
    inst := fld (w 189) 0 32
    ev := w 183
    wb := fld pack 48 16
    bh := w 185
    bid := fld (w 189) 32 32
    bpc := w 186
    inHandler := bit pack 22
    alarm := w 184
    runOpen := bit pack 21
    saveInUse := false
    isTask := t.saved.isTask
    parent := t.saved.parent
    succ := t.saved.succ }

/-- kload takes effect: its outcome, and the state after it. DESIGN CHOICE (log entry 48): a reserved value of the block field, 3 to 7, restores the
thread as Parked. -/
def loadNow (s : State) (c : Nat) (k : Fin 16) : Word × State :=
  let t := s.thread c k
  if t.st ≠ .empty ∨ !t.saveInUse then (1, s)
  else
    let a := saveArea (s.getCore c).kca k
    let w (i : Nat) := lsWord s c (a + 8 * i)
    let u := { loadThread t w with since := s.clk }
    let done := bit (w 187) 27
    let s := s.renameInGroups (savedNum (taNum c k)) (taNum c k)
    let s := s.setThread c k { u with st := .runnable }
    match (fld (w 187) 24 3).toNat with
    | 1 => (0, s.onThread c k fun s => s.unblock (.wait (w 188) t.saved.len) false)
    | 2 => (0, s.onThread c k fun s => s.unblock (.bar (fld (w 188) 0 16) t.saved.len) done)
    | _ => (0, s.setThread c k { u with st := .parked { cause := (fld (w 190) 0 8).toNat, before := t.saved.before, done := done || t.saved.done } })

/-- ksave or kload completes once its cycles are over, ksave after the relaxed accesses of its target (R193). -/
def execKeeperSaveLoadComplete (c : Nat) (s : State) : Host.Outcome State Fault Refusal :=
  .next (
    let s1 := s.as c 0
    let k := (s1.getCore c).selected
    match s1.me.st with
    | .removed (.saveLoad isLoad d t) =>
      if s.clk < t ∨ (!isLoad ∧ (s1.thread c k).relaxed ≠ [] ∧ saveRefusal k (s1.thread c k) = none) then s
      else
        let r := if isLoad then loadNow s1 c k else saveNow s1 c k
        r.2.complete d r.1 none
    | _ => s)

-- sgset (R194) -------------------------------------------------------------------------------------------------------------------------------

def execSgset (sg : Fin 8) (a b : Src) (s : State) : Host.Outcome State Fault Refusal :=
  .next (s.keeper (.sgset sg a b) fun s =>
    let (x, s) := s.read a
    let (y, s) := s.read b
    (s.setMe (s.me.setSg sg (mkSeg x y))).advance (.sgset sg a b))

def execSgsetK (sg : Fin 8) (a b : Src) (s : State) : Host.Outcome State Fault Refusal :=
  .next (s.keeper (.sgsetK sg a b) fun s =>
    let (x, s) := s.read a
    let (y, s) := s.read b
    let t := s.thread s.core s.target
    let s := if t.st = .empty then s else s.setThread s.core s.target (t.setSg sg (mkSeg x y))
    s.advance (.sgsetK sg a b))

-- ctuinv (R195) -------------------------------------------------------------------------------------------------------------------------------

/-- Whether a range of pages touches a leaf. -/
def Leaf.inRange (l : Leaf) (asid : Option Nat) (lo hi : Nat) : Bool :=
  (match asid with
   | none => true
   | some a => l.asid == a) &&
    (if l.large then decide (l.page < hi ∧ lo < l.page + 2 ^ 18) else decide (lo ≤ l.page ∧ l.page < hi))

/-- Whether a cached instruction line, by its key, lies in a range of pages. -/
def lineInRange (asid : Option Nat) (lo hi key : Nat) : Bool :=
  (match asid with
   | none => true
   | some a => key / 2 ^ 46 == a) && decide (lo ≤ key % 2 ^ 46 / 1024 ∧ key % 2 ^ 46 / 1024 < hi)

/-- A cluster whose leaves, and instruction lines, of a range of pages are gone. -/
def Cluster.invalidate (x : Cluster) (asid : Option Nat) (lo hi : Nat) : Cluster :=
  { x with
    leaves := x.leaves.filter fun l => !(l.inRange asid lo hi)
    lines := x.lines.filter fun p => !(lineInRange asid lo hi p.1) }

def execCtuinv (a b : Src) (s : State) : Host.Outcome State Fault Refusal :=
  .next (s.keeper (.ctuinv a b) fun s =>
    let (x, s) := s.read a
    let (y, s) := s.read b
    let asid : Option Nat := if bit x 16 then none else some (fld x 0 16).toNat
    let lo := (fld y 16 36).toNat
    let hi := lo + (fld y 52 12).toNat + 1
    let s := { s with clusters := s.clusters.map fun (p : Nat × Cluster) => (p.1, p.2.invalidate asid lo hi) }
    (s.advance (.ctuinv a b)).remove (.ctuinv (s.clk + 1024) asid lo hi))

/-- Whether a home is held by translations of a range of pages. -/
def Home.usesRange (h : Home) (asid : Option Nat) (lo hi : Nat) : Bool :=
  match h with
  | .held ps => ps.any fun p => p.1.inRange asid lo hi
  | _ => false

/-- Whether an access that has been performed in part uses a translation of a range of pages. -/
def Access.usesRange (x : Access) (asid : Option Nat) (lo hi : Nat) : Bool :=
  match x.half with
  | some h => h.home.usesRange asid lo hi
  | none => false

/-- Whether an access of a thread, performed in part, uses a translation of a range of pages. -/
def Thread.usesRange (t : Thread) (asid : Option Nat) (lo hi : Nat) : Bool :=
  (t.relaxed.any fun r => r.acc.usesRange asid lo hi) || (match t.st with
    | .removed (.mem x) => x.usesRange asid lo hi
    | _ => false)

/-- Whether some access that has been performed in part uses a translation of a range of pages: of a thread, or a chunk that an engine writes. -/
def rangeInUse (s : State) (asid : Option Nat) (lo hi : Nat) : Bool :=
  (s.cores.any fun p => p.2.slots.toList.any fun t => t.usesRange asid lo hi) ||
    (allEngines s).any fun x => x.cmds.any fun m => m.flight.any fun f => f.dst.usesRange asid lo hi

/-- Every CTU has acknowledged, and every access that used an invalidated translation has been performed. -/
def execCtuinvComplete (c : Nat) (s : State) : Host.Outcome State Fault Refusal :=
  .next (
    let s1 := s.as c 0
    match s1.me.st with
    | .removed (.ctuinv _ asid lo hi) => if rangeInUse s asid lo hi then s else s1.completePc none
    | _ => s)

-- kret, kfence (R196) -----------------------------------------------------------------------------------------------------------------------------

/-- Writes a register by its operand code, 0x00 to 0x1F. -/
def Thread.setReg (t : Thread) (r : Fin 32) (v : Word) : Thread :=
  if r.val < 8 then t.setG (Fin.ofNat 8 r.val) v else t.setW (Fin.ofNat 24 (r.val - 8)) v

def execKret (r : Fin 32) (a : Src) (s : State) : Host.Outcome State Fault Refusal :=
  .next (s.keeper (.kret r a) fun s =>
    let (v, s) := s.read a
    let k := s.target
    let t := s.thread s.core k
    let s := match t.st with
      | .parked _ => if k.val = 0 then s else (s.setThread s.core k (t.setReg r v)).resume s.core k
      | _ => s
    s.advance (.kret r a))

def execKfence (s : State) : Host.Outcome State Fault Refusal :=
  .next (s.keeper .kfence fun s =>
    let s := s.advance .kfence
    if (s.thread s.core s.target).quiet then s else s.remove .kfence)

-- kpost (R197) --------------------------------------------------------------------------------------------------------------------------------------------

def execKpost (a : Src) (s : State) : Host.Outcome State Fault Refusal :=
  .next (s.keeper (.kpost a) fun s0 =>
    let (x, s) := s0.read a
    s.image s0 x 8 8 fun hd s =>
      let n := (fld (wordAt hd 0) 30 3).toNat + 1
      s.image s0 x (16 + 8 * n) 8 fun bs s =>
        let h : Record := { hdr := wordAt bs 0, key := wordAt bs 1, pay := [] }
        let r : Record := { h with pay := delivered h.kind (bytesWords (bs.drop 16) n) }
        if r.kind == kK || !namesPound s r.ta then s.trap 0x05 x r.hdr else s.send (.kpost a) r false)

-- kcfg (R198) ---------------------------------------------------------------------------------------------------------------------------------------------------

/-- A core with a configuration item written; none for an unknown item. -/
def Core.config (x : Core) (item v : Word) : Option Core :=
  let n := item.toNat
  if n < 16 then
    let i : Fin 8 := Fin.ofNat 8 (n / 2)
    let g := x.template.get i
    let g := if n % 2 = 0 then { g with w0 := v } else mkSeg g.w0 v
    some { x with template := x.template.set i.val g i.isLt }
  else if n = 0x10 then some { x with stackBase := v }
  else if n = 0x11 then some { x with ringBase := v }
  else if n = 0x12 then some { x with vector := v }
  else if n = 0x13 then some { x with slot1 := v }
  else if n = 0x14 then some { x with faultBase := v }
  else none

def execKcfg (a b : Src) (s : State) : Host.Outcome State Fault Refusal :=
  .next (s.keeper (.kcfg a b) fun s =>
    let (x, s) := s.read a
    let (y, s) := s.read b
    match s.myCore.config x y with
    | some z => (s.setMyCore z).advance (.kcfg a b)
    | none => s.trap 0x01 x y)

end Sys2Proof.Machine
end

