-- ==== Sys2Proof/Machine/HelmOps.lean ====
section
/-! DEFINITION. Meanings of the helm harts' custom words (10 R209-R211, R215). -/

namespace Sys2Proof.Machine

open Sys2Proof

/-- A custom word's memory work: the hart goes on behind the word, or takes the exception with nothing changed. -/
def State.custom (s : State) (m : Swq Unit) : State :=
  match m s with
  | .ok (_, s) => s.setMyHart { s.myHart with pc := s.myHart.pc + 4 }
  | .error (.exception f ps) => (s.disableAll ps).faults f
  | .error _ => s

/-- Writes an integer register of the hart. -/
def swqSetX (rd : Fin 32) (v : Word) : Swq Unit := Swq.modify fun s => s.setMyHart (s.myHart.setX rd v)

/-- rs1 and rs2 must differ and must not be x0; otherwise the word is an illegal instruction (log entry 9). -/
def execSwqRun (rd rs1 rs2 : Fin 32) (s : State) : Host.Outcome State Fault Refusal :=
  .next (
    let x := s.myHart
    if rs1 = rs2 ∨ rs1 = 0 ∨ rs2 = 0 then s.exception causeIllegal ((headWord (.swqRun rd rs1 rs2)).setWidth 64)
    else s.setMyHart { x with swq := { running := true, frame := x.getX rs1, bpc := x.getX rs2, rd := rd, rs1 := rs1, rs2 := rs2 } })

/-- The address of a way of a site (R206). -/
def wayAddr (s : State) (site : W32) (way : Nat) : Word :=
  s.myHart.swqic + 64 + BitVec.ofNat 64 (64 * site.toNat + 16 * way)

def execSwqIcw (rs1 rs2 : Fin 32) (s : State) : Host.Outcome State Fault Refusal :=
  .next (
    let a := s.myHart.getX rs1
    s.custom ((swqBytes (s.myHart.getX rs2) 16).bind fun bs =>
      swqStoreBytes (wayAddr s (fld a 0 32) (fld a 32 2).toNat) bs))

/-- Writes kind 0 into n ways of a site. -/
def clearWays (a : Word) : Nat → Swq Unit
  | 0 => .pure ()
  | n + 1 => (clearWays a n).andThen ((swqLoad (a + BitVec.ofNat 64 (16 * n))).bind fun w =>
      swqStore (a + BitVec.ofNat 64 (16 * n)) (setFld w 48 (0 : Byte)))

def execSwqIcinv (rs1 : Fin 32) (s : State) : Host.Outcome State Fault Refusal :=
  .next (s.custom (clearWays (wayAddr s (fld (s.myHart.getX rs1) 0 32) 0) 4))

/-- The address of a shape's cell, if it has one (R205, R207). -/
def cellAddr (shape : W32) : Swq (Option Word) :=
  (siteWord 3).bind fun base => (siteWord 4).bind fun w =>
    .pure (if shape.toNat < (fld w 0 32).toNat then some (base + BitVec.ofNat 64 (2 * shape.toNat)) else none)

/-- A 16-bit word. -/
def swqLoad16 (a : Word) : Swq Half := (swqBytes a 2).bind fun bs => .pure (BitVec.ofNat 16 (bytesNat bs))

def execSwqGen (rd rs1 : Fin 32) (s : State) : Host.Outcome State Fault Refusal :=
  .next (s.custom ((cellAddr (fld (s.myHart.getX rs1) 0 32)).bind fun
    | none => swqSetX rd (BitVec.allOnes 64)
    | some a => (swqLoad16 a).bind fun g =>
      let n : Half := if g = 0xFFFF then g else g + 1
      (swqStoreBytes a (natBytes 2 n.toNat)).andThen (swqSetX rd (n.setWidth 64))))

/-- The record image at an address (09 R197). -/
def swqImage (a : Word) : Swq Record :=
  (swqLoad a).bind fun h =>
    let n := (fld h 30 3).toNat + 1
    (swqBytes a (16 + 8 * n)).bind fun bs =>
      .pure { hdr := h, key := wordAt bs 1, pay := delivered (fld h 37 3 : BitVec 3).toNat (bytesWords (bs.drop 16) n) }

/-- A hart posts a record: the launch unit counts a T or M record as created, and a reply marks its system call done (16 R269, 21 R323). -/
def State.helmPost (s : State) (h : Fin 32) (r : Record) : State :=
  let s := s.post (senderHart h.val) r
  let s := if countsAsTask r then s.countOwn r.tag 1 0 else s
  if r.kind == kP then replyLeaves s r else s

def execSwqPost (rd rs1 : Fin 32) (s : State) : Host.Outcome State Fault Refusal :=
  .next (s.custom ((swqImage (s.myHart.getX rs1)).bind fun r => fun s =>
    if r.kind == kF || r.kind == kK || !namesPound s r.ta then swqSetX rd 1 s
    else swqSetX rd 0 (s.helmPost s.hart r)))

/-- A storage object's hold changes (R210, R215). -/
def changeHold (x : Word) (delta : Int) (rd : Fin 32) : Swq Unit :=
  (swqLoad x).bind fun w0 => (swqLoad (x + 8)).bind fun w1 =>
    let n := (hdrHold w1 : Int) + delta
    if hdrKind w0 ≠ 8 ∨ n < 0 ∨ 65535 < n then swqSetX rd (BitVec.allOnes 64)
    else
      (swqStore (x + 8) (setFld w1 32 (BitVec.ofInt 16 n))).andThen <|
      (if n = 0 ∧ hdrHold w1 ≠ 0 ∧ hdrCount w1 = 0 then (reclaim x).bind fun l => todoAll todoFuel l else .pure ()).andThen <|
      swqSetX rd (BitVec.ofInt 64 n)

def execSwqHold (rd rs1 rs2 : Fin 32) (s : State) : Host.Outcome State Fault Refusal :=
  .next (s.custom (changeHold (s.myHart.getX rs1) (s.myHart.getX rs2).toInt rd))

end Sys2Proof.Machine
end

