-- ==== Sys2Proof/Machine/Bytecode.lean ====
section
/-! DEFINITION. Meanings of the bytecodes (10 R208, R211-R224; 20 R317, R318). -/

namespace Sys2Proof.Machine

open Sys2Proof

-- Frames (R208) --------------------------------------------------------------------------------------------------------------

/-- The current frame, and a word of its header. -/
def frameBase : Swq Word := Swq.get fun s => s.myHart.swq.frame
def frameWord (i : Nat) : Swq Word := frameBase.bind fun f => swqLoad (f + BitVec.ofNat 64 (8 * i))
/-- The address of a frame slot. -/
def frameSlot (f : Word) (i : Nat) : Word := f + BitVec.ofNat 64 (32 + 8 * i)
/-- The current function. -/
def theFn : Swq Word := frameWord 0
/-- Word 1 of the current function: slot count, argument count, site base (R201). -/
def fnInfo : Swq Word := theFn.bind fun f => slotOf f 1
/-- The current function's slot count. -/
def slotCount : Swq Nat := fnInfo.bind fun w => .pure (fld w 0 16).toNat

/-- Every slot of a list lies below the slot count (R213). -/
def inBounds (l : List Nat) : Swq Unit :=
  if l.isEmpty then .pure () else slotCount.bind fun n => Swq.need (l.all fun i => decide (i < n)) 0x0D

/-- Reads a slot. -/
def getS (i : Nat) : Swq Word := frameBase.bind fun f => swqLoad (frameSlot f i)
/-- Puts a value into a slot. -/
def putS (i : Nat) (v : Word) : Swq Unit := frameBase.bind fun f => put (frameSlot f i) v
/-- Stores a value whose count the location takes over (20 R318): the old value is released. -/
def putOwned (loc v : Word) : Swq Unit := (swqLoad loc).bind fun old => (swqStore loc v).andThen (releaseAll old)

-- How a bytecode runs (R211, R213) ----------------------------------------------------------------------------------------------

/-- Sets the bytecode address. -/
def setBpc (a : Word) : Swq Unit :=
  Swq.modify fun s => s.setMyHart { s.myHart with swq := { s.myHart.swq with bpc := a } }

/-- The address after a bytecode. -/
def afterOf (i : Instr) : Swq Word := Swq.get fun s => s.myHart.swq.bpc + BitVec.ofNat 64 (encodeBytes i).length

/-- The bytecode is done; the next one follows. -/
def goOn (i : Instr) : Swq Unit := (afterOf i).bind setBpc

/-- Jumps from the first byte of the bytecode, if taken. -/
def jumpIf (i : Instr) (taken : Bool) (off : Half) : Swq Unit :=
  if taken then (Swq.get fun s => s.myHart.swq.bpc + off.signExtend 64).bind setBpc else goOn i

/-- The absolute site of a bytecode, or all ones in 32 bits if it has none. -/
def siteOf (site : Option Half) : Swq Word :=
  match site with
  | none => .pure 0xFFFFFFFF
  | some t => fnInfo.bind fun w => .pure (((fld w 32 32 : W32) + t.setWidth 32).setWidth 64)

/-- Runs a bytecode: slots first, then the rest; what stops it leaves everything as before (R211, R213). -/
def State.bytecode (s : State) (site : Option Half) (slots : List Nat) (m : Word → Swq Unit) : State :=
  match siteOf site s with
  | .ok (w, _) => runSwq s w ((inBounds slots).andThen (m w))
  | .error e => s.stopped 0xFFFFFFFF e

/-- A bytecode without a site that goes on at the next one. -/
def State.plain (s : State) (i : Instr) (slots : List Nat) (m : Swq Unit) : State :=
  s.bytecode none slots fun _ => m.andThen (goOn i)

-- Objects (R200-R203) --------------------------------------------------------------------------------------------------------------

/-- Word 0 of what a value points to, if it is an object whose kind is one of a list; anything else fails with a cause. -/
def objectOf (v : Word) (kinds : List Nat) (cause : Nat) : Swq Word :=
  if vKind v ≠ .pointer then .exit cause
  else (swqLoad v).bind fun w0 => if kinds.contains (hdrKind w0) then .pure w0 else .exit cause

/-- The length and the slot of element 0 of a list or tuple. -/
def seqOf (v w0 : Word) : Swq (Nat × Nat) :=
  (slotOf v 0).bind fun n => .pure (n.toNat, if hdrKind w0 = 1 then 2 else 1)

/-- The index that a value names, if it is an int. -/
def indexOf (v : Word) : Swq Int := if vKind v = .int then .pure (vInt v) else .exit 0x03

/-- An index below a length; anything else fails 0x0D. -/
def indexIn (i : Int) (n : Nat) : Swq Nat := if 0 ≤ i ∧ i < n then .pure i.toNat else .exit 0x0D

-- Moves and constants (R216) ----------------------------------------------------------------------------------------------------------

def execSwqNop (wide : Bool) (s : State) : Host.Outcome State Fault Refusal :=
  .next (s.plain (.swqNop wide) [] (.pure ()))

def execSwqMov (wide : Bool) (d a : Half) (s : State) : Host.Outcome State Fault Refusal :=
  .next (s.plain (.swqMov wide d a) [d.toNat, a.toNat] ((getS a.toNat).bind (putS d.toNat)))

/-- Element k of the function's constant tuple. -/
def constant (k : Nat) : Swq Word :=
  theFn.bind fun f => (slotOf f 2).bind fun t => (slotOf t 0).bind fun n =>
    (Swq.need (decide (k < n.toNat)) 0x0D).andThen (slotOf t (1 + k))

def execSwqLdc (wide : Bool) (d k : Half) (s : State) : Host.Outcome State Fault Refusal :=
  .next (s.plain (.swqLdc wide d k) [d.toNat] ((constant k.toNat).bind (putS d.toNat)))

def execSwqLdi (wide : Bool) (d imm : Half) (s : State) : Host.Outcome State Fault Refusal :=
  .next (s.plain (.swqLdi wide d imm) [d.toNat] (putS d.toNat (mkInt imm.toInt)))

def execSwqLdn (wide : Bool) (d : Half) (s : State) : Host.Outcome State Fault Refusal :=
  .next (s.plain (.swqLdn wide d) [d.toNat] (putS d.toNat vNone))

def execSwqDrop (wide : Bool) (a : Half) (s : State) : Host.Outcome State Fault Refusal :=
  .next (s.plain (.swqDrop wide a) [a.toNat] (putS a.toNat vNone))

def execSwqGcstep (wide : Bool) (n : Half) (s : State) : Host.Outcome State Fault Refusal :=
  .next (s.plain (.swqGcstep wide n) [] (workStep n.toNat))

-- Arithmetic (R217) ------------------------------------------------------------------------------------------------------------------------

/-- A number: an int, or an f32 by its bits. -/
inductive Num where
  | int (n : Int)
  | f32 (b : Nat)
  deriving DecidableEq, Repr

/-- The number that a value is. -/
def numOf (v : Word) : Option Num :=
  match vKind v with
  | .int => some (.int (vInt v))
  | .f32 => some (.f32 (fld v 32 32 : W32).toNat)
  | _ => none

/-- The exact value of a number. -/
def Num.value : Num → FVal
  | .int n => FVal.ofInt n
  | .f32 b => fF32.value b

/-- Whether an int converts exactly where the other operand is an f32: magnitude at most 2^24. -/
def Num.mixes : Num → Bool
  | .int n => decide (n.natAbs ≤ 2 ^ 24)
  | .f32 _ => true

/-- The arithmetic bytecodes. -/
inductive Arith where
  | add | sub | mul | div | mod
  deriving DecidableEq, Repr

/-- Ints: the exact result; none for a zero divisor. -/
def Arith.ints (o : Arith) (a b : Int) : Option Int :=
  match o with
  | .add => some (a + b)
  | .sub => some (a - b)
  | .mul => some (a * b)
  | .div => if b = 0 then none else some (a.fdiv b)
  | .mod => if b = 0 then none else some (a.fmod b)

/-- f32 values: none for MOD. -/
def Arith.floats (o : Arith) (a b : FVal) : Option FVal :=
  match o with
  | .add => some (a.add b)
  | .sub => some (a.add b.neg)
  | .mul => some (a.mul b)
  | .div => some (a.div b)
  | .mod => none

/-- The result of an arithmetic bytecode, or its cause. -/
def Arith.run (o : Arith) (a b : Word) : Except Nat Word :=
  match numOf a, numOf b with
  | some (.int x), some (.int y) =>
    match o.ints x y with
    | none => .error 0x05
    | some r => if smallOk r then .ok (mkInt r) else .error 0x04
  | some x, some y =>
    if !x.mixes || !y.mixes then .error 0x03
    else match o.floats x.value y.value with
      | some r => .ok (mkF32 (BitVec.ofNat 32 (fF32.pack .rne r)))
      | none => .error 0x03
  | _, _ => .error 0x03

/-- A result, or an exit with its cause. -/
def orExit (r : Except Nat Word) : Swq Word :=
  match r with
  | .ok v => .pure v
  | .error c => .exit c

/-- An arithmetic bytecode. -/
def State.arith (s : State) (i : Instr) (o : Arith) (d a b : Half) : State :=
  s.plain i [d.toNat, a.toNat, b.toNat]
    ((getS a.toNat).bind fun x => (getS b.toNat).bind fun y => (orExit (o.run x y)).bind (putS d.toNat))

def execSwqAdd (wide : Bool) (d a b : Half) (s : State) : Host.Outcome State Fault Refusal :=
  .next (s.arith (.swqAdd wide d a b) .add d a b)

def execSwqSub (wide : Bool) (d a b : Half) (s : State) : Host.Outcome State Fault Refusal :=
  .next (s.arith (.swqSub wide d a b) .sub d a b)

def execSwqMul (wide : Bool) (d a b : Half) (s : State) : Host.Outcome State Fault Refusal :=
  .next (s.arith (.swqMul wide d a b) .mul d a b)

def execSwqDiv (wide : Bool) (d a b : Half) (s : State) : Host.Outcome State Fault Refusal :=
  .next (s.arith (.swqDiv wide d a b) .div d a b)

def execSwqMod (wide : Bool) (d a b : Half) (s : State) : Host.Outcome State Fault Refusal :=
  .next (s.arith (.swqMod wide d a b) .mod d a b)

/-- NEG of a value. -/
def negOf (v : Word) : Except Nat Word :=
  match numOf v with
  | some (.int n) => if smallOk (-n) then .ok (mkInt (-n)) else .error 0x04
  | some (.f32 b) => .ok (mkF32 (BitVec.ofNat 32 b ^^^ 0x80000000))
  | none => .error 0x03

def execSwqNeg (wide : Bool) (d a : Half) (s : State) : Host.Outcome State Fault Refusal :=
  .next (s.plain (.swqNeg wide d a) [d.toNat, a.toNat]
    ((getS a.toNat).bind fun x => (orExit (negOf x)).bind (putS d.toNat)))

/-- A condition of CMP on two exact values: NaN makes every one false but ne. -/
def numCond (cc : Nat) (x y : FVal) : Bool :=
  if x.isNan || y.isNan then cc == 1
  else
    let lt := x.lt false y
    let gt := y.lt false x
    match cc with
    | 0 => !lt && !gt
    | 1 => lt || gt
    | 2 => lt
    | 3 => !gt
    | 4 => gt
    | _ => !lt

/-- CMP of two values: numbers by value, others by identity. -/
def cmpOf (cc : Nat) (a b : Word) : Except Nat Word :=
  if 5 < cc then .error 0x03
  else match numOf a, numOf b with
    | some x, some y => .ok (vBool (numCond cc x.value y.value))
    | _, _ =>
      if vKind a = .invalid ∨ vKind b = .invalid ∨ 1 < cc then .error 0x03
      else if vKind a = .pointer ∧ vKind b = .pointer ∧ a ≠ b then .error 0x03
      else .ok (vBool ((a == b) == (cc == 0)))

def execSwqCmp (wide : Bool) (d a b : Half) (cc : Byte) (s : State) : Host.Outcome State Fault Refusal :=
  .next (s.plain (.swqCmp wide d a b cc) [d.toNat, a.toNat, b.toNat]
    ((getS a.toNat).bind fun x => (getS b.toNat).bind fun y => (orExit (cmpOf cc.toNat x y)).bind (putS d.toNat)))

/-- NOT of a value. -/
def notOf (v : Word) : Except Nat Word :=
  match numOf v with
  | some (.int n) => .ok (vBool (n == 0))
  | some (.f32 b) => .ok (vBool (b % 2 ^ 31 == 0))
  | none => if vKind v = .special then .ok (vBool (v != vTrue)) else .error 0x03

def execSwqNot (wide : Bool) (d a : Half) (s : State) : Host.Outcome State Fault Refusal :=
  .next (s.plain (.swqNot wide d a) [d.toNat, a.toNat]
    ((getS a.toNat).bind fun x => (orExit (notOf x)).bind (putS d.toNat)))

-- Jumps (R218) ---------------------------------------------------------------------------------------------------------------------------------

def execSwqJmp (wide : Bool) (off : Half) (s : State) : Host.Outcome State Fault Refusal :=
  .next (s.bytecode none [] fun _ => jumpIf (.swqJmp wide off) true off)

/-- JT and JF: anything but True and False fails. -/
def State.jumpOn (s : State) (i : Instr) (want : Word) (a off : Half) : State :=
  s.bytecode none [a.toNat] fun _ => (getS a.toNat).bind fun v =>
    (Swq.need (v == vTrue || v == vFalse) 0x03).andThen (jumpIf i (v == want) off)

def execSwqJt (wide : Bool) (a off : Half) (s : State) : Host.Outcome State Fault Refusal :=
  .next (s.jumpOn (.swqJt wide a off) vTrue a off)

def execSwqJf (wide : Bool) (a off : Half) (s : State) : Host.Outcome State Fault Refusal :=
  .next (s.jumpOn (.swqJf wide a off) vFalse a off)

-- Inline caches (R206) ----------------------------------------------------------------------------------------------------------------------------

/-- Fields of a way. -/
def wayKind (e0 : Word) : Nat := (fld e0 48 8).toNat
def wayGen (e0 : Word) : Half := fld e0 32 16
def wayShape (e0 : Word) : W32 := fld e0 0 32

/-- The first way from way k on that a test accepts, by its two words. -/
def firstWay (site : Word) (p : Word → Word → Swq Bool) : Nat → Nat → Swq (Option (Word × Word))
  | 0, _ => .pure none
  | n + 1, k =>
    (Swq.get fun s => wayAddr s (fld site 0 32) k).bind fun a => (swqLoad a).bind fun e0 => (swqLoad (a + 8)).bind fun e1 =>
      (p e0 e1).bind fun hit => if hit then .pure (some (e0, e1)) else firstWay site p n (k + 1)

/-- The way that hits, or exit 0x02. -/
def hitWay (site : Word) (p : Word → Word → Swq Bool) : Swq (Word × Word) :=
  (firstWay site p 4 0).bind fun
    | some e => .pure e
    | none => .exit 0x02

/-- "As kind 1": the object's shape is the way's, and the way carries its cell's generation (R205). -/
def shapeHit (w0 e0 : Word) : Swq Bool :=
  if hdrShape w0 ≠ wayShape e0 then .pure false
  else (cellAddr (wayShape e0)).bind fun
    | none => .pure false
    | some a => (swqLoad16 a).bind fun g => .pure (g == wayGen e0 && g != 0xFFFF)

/-- The test of a way for an attribute bytecode that uses kinds of a list. -/
def attrHit (kinds : List Nat) (w0 : Word) (e0 e1 : Word) : Swq Bool :=
  if !kinds.contains (wayKind e0) then .pure false
  else
    let cap := 2 * hdrClass w0
    let fits : Bool := match wayKind e0 with
      | 1 => decide ((fld e1 0 16).toNat < cap)
      | 3 => decide ((fld e1 32 16).toNat < cap) && (fld e1 48 8).toNat == hdrClass w0
      | _ => true
    if fits then shapeHit w0 e0 else .pure false

-- Attributes (R219) ----------------------------------------------------------------------------------------------------------------------------------

/-- Reads an attribute of an object through a site into a slot. -/
def readAttr (site o : Word) (d : Nat) : Swq Unit :=
  (objectOf o [0] 0x03).bind fun w0 => (hitWay site (attrHit [1, 2] w0)).bind fun (e0, e1) =>
    if wayKind e0 = 1 then (slotOf o (fld e1 0 16).toNat).bind (putS d) else putS d e1

/-- Writes an attribute of an object through a site; a watched object fails first. -/
def writeAttr (site o v : Word) : Swq Unit :=
  (if vKind o = .pointer then (swqLoad o).bind fun w0 => Swq.need (!hdrWatched w0) 0x07 else .pure ()).andThen <|
  (objectOf o [0] 0x03).bind fun w0 => (hitWay site (attrHit [1, 3] w0)).bind fun (e0, e1) =>
    if wayKind e0 = 1 then put (slotAddr o (fld e1 0 16).toNat) v
    else (swqStore o (setFld w0 0 (fld e1 0 32 : W32))).andThen (put (slotAddr o (fld e1 32 16).toNat) v)

/-- The function's globals object. -/
def globals : Swq Word := theFn.bind fun f => slotOf f 3

def execSwqLdg (wide : Bool) (d site : Half) (s : State) : Host.Outcome State Fault Refusal :=
  .next (s.bytecode (some site) [d.toNat] fun w =>
    (globals.bind fun o => readAttr w o d.toNat).andThen (goOn (.swqLdg wide d site)))

def execSwqStg (wide : Bool) (a site : Half) (s : State) : Host.Outcome State Fault Refusal :=
  .next (s.bytecode (some site) [a.toNat] fun w =>
    (globals.bind fun o => (getS a.toNat).bind (writeAttr w o)).andThen (goOn (.swqStg wide a site)))

def execSwqGeta (wide : Bool) (d a site : Half) (s : State) : Host.Outcome State Fault Refusal :=
  .next (s.bytecode (some site) [d.toNat, a.toNat] fun w =>
    ((getS a.toNat).bind fun o => readAttr w o d.toNat).andThen (goOn (.swqGeta wide d a site)))

def execSwqGetm (wide : Bool) (d a site : Half) (s : State) : Host.Outcome State Fault Refusal :=
  .next (s.bytecode (some site) [d.toNat, a.toNat] fun w =>
    ((getS a.toNat).bind fun o => readAttr w o d.toNat).andThen (goOn (.swqGetm wide d a site)))

def execSwqSeta (wide : Bool) (a b site : Half) (s : State) : Host.Outcome State Fault Refusal :=
  .next (s.bytecode (some site) [a.toNat, b.toNat] fun w =>
    ((getS a.toNat).bind fun o => (getS b.toNat).bind (writeAttr w o)).andThen (goOn (.swqSeta wide a b site)))

def execSwqGuard (wide : Bool) (a site : Half) (s : State) : Host.Outcome State Fault Refusal :=
  .next (s.bytecode (some site) [a.toNat] fun w =>
    ((getS a.toNat).bind fun o => (objectOf o (List.range 9) 0x03).bind fun w0 =>
      (hitWay w (attrHit [6] w0)).bind fun _ => Swq.pure ()).andThen (goOn (.swqGuard wide a site)))

-- Tensors (R202, R219) ------------------------------------------------------------------------------------------------------------------------------------

/-- A tensor object as read: slots 0 to 10. -/
structure Tensor where
  format : Half
  rank : Nat
  data : Word
  dims : List Word
  strides : List Word
  storage : Word
  deriving DecidableEq, Repr

/-- Reads slots of an object, from slot i on. -/
def slotsFrom (o : Word) : Nat → Nat → Swq (List Word)
  | 0, _ => .pure []
  | n + 1, i => (slotOf o i).bind fun v => (slotsFrom o n (i + 1)).bind fun l => .pure (v :: l)

/-- The tensor that a value points to: rank 1 to 4, anything else fails 0x03. -/
def tensorOf (v : Word) : Swq Tensor :=
  (objectOf v [4] 0x03).bind fun _ => (slotsFrom v 11 0).bind fun l =>
    let w := nthD 0 l 0
    let rank := (fld w 16 4).toNat
    if rank = 0 ∨ 4 < rank then .exit 0x03
    else .pure { format := fld w 0 16, rank := rank, data := nthD 0 l 1, dims := (l.drop 2).take 4, strides := (l.drop 6).take 4,
                 storage := nthD 0 l 10 }

/-- An f32 tensor of rank 1 with scale kind 0; anything else fails 0x03. -/
def vectorF32 (v : Word) : Swq Tensor :=
  (tensorOf v).bind fun t =>
    if t.rank = 1 ∧ elemOf t.format = 11 ∧ (fld t.format 4 4 : BitVec 4) = 0 then .pure t else .exit 0x03

/-- The address of an element of a rank 1 f32 tensor. -/
def Tensor.elem (t : Tensor) (i : Nat) : Word := t.data + BitVec.ofNat 64 (4 * i) * nthD 0 t.strides 0

def execSwqGeti (wide : Bool) (d a b : Half) (s : State) : Host.Outcome State Fault Refusal :=
  .next (s.plain (.swqGeti wide d a b) [d.toNat, a.toNat, b.toNat]
    ((getS a.toNat).bind fun o => (getS b.toNat).bind fun j => (objectOf o [1, 2, 4] 0x03).bind fun w0 =>
      if hdrKind w0 = 4 then
        (vectorF32 o).bind fun t => (indexOf j).bind fun i => (indexIn i (nthD 0 t.dims 0).toNat).bind fun n =>
          (swqBytes (t.elem n) 4).bind fun bs => putS d.toNat (mkF32 (BitVec.ofNat 32 (bytesNat bs)))
      else
        (indexOf j).bind fun i => (seqOf o w0).bind fun (len, first) => (indexIn i len).bind fun n =>
          (slotOf o (first + n)).bind (putS d.toNat)))

def execSwqSeti (wide : Bool) (a b c : Half) (s : State) : Host.Outcome State Fault Refusal :=
  .next (s.plain (.swqSeti wide a b c) [a.toNat, b.toNat, c.toNat]
    ((getS a.toNat).bind fun o => (getS b.toNat).bind fun j => (getS c.toNat).bind fun v =>
      (objectOf o [1, 4] 0x03).bind fun w0 =>
      if hdrKind w0 = 4 then
        (vectorF32 o).bind fun t => (indexOf j).bind fun i => (Swq.need (vKind v == .f32) 0x03).andThen <|
          (indexIn i (nthD 0 t.dims 0).toNat).bind fun n =>
          (swqLoad (t.storage + 8)).bind fun w1 => (Swq.need (hdrHold w1 == 0) 0x06).andThen <|
          swqStoreBytes (t.elem n) (natBytes 4 (fld v 32 32 : W32).toNat)
      else
        (indexOf j).bind fun i => (seqOf o w0).bind fun (len, first) => (indexIn i len).bind fun n =>
          put (slotAddr o (first + n)) v))

-- Calls (R218) ------------------------------------------------------------------------------------------------------------------------------------------------

/-- Stores values into fresh slots of a frame, from slot i on: each takes its count. -/
def freshSlots (f : Word) : List Word → Nat → Swq Unit
  | [], _ => .pure ()
  | v :: l, i => (takeCount v).andThen ((swqStore (frameSlot f i) v).andThen (freshSlots f l (i + 1)))

/-- Reads n slots from slot i on. -/
def slotValues : Nat → Nat → Swq (List Word)
  | 0, _ => .pure []
  | n + 1, i => (getS i).bind fun v => (slotValues n (i + 1)).bind fun l => .pure (v :: l)

/-- Enters a callee with its arguments: a new frame behind the caller's (R208). -/
def enterFn (i : Instr) (callee : Word) (d : Half) (args : List Word) : Swq Unit :=
  (objectOf callee [5] 0x03).bind fun _ => (slotOf callee 1).bind fun info =>
  (Swq.need ((fld info 16 8).toNat == args.length) 0x03).andThen <|
  frameBase.bind fun f => slotCount.bind fun n => (siteWord 2).bind fun limit =>
    let slots := (fld info 0 16).toNat
    let new := frameSlot f n
    (Swq.need (decide (new.toNat + 32 + 8 * slots ≤ limit.toNat)) 0x0C).andThen <|
    (afterOf i).bind fun ret =>
    (swqStore new callee).andThen <| (swqStore (new + 8) f).andThen <| (swqStore (new + 16) ret).andThen <|
    (swqStore (new + 24) (d.setWidth 64)).andThen <|
    (freshSlots new (args ++ List.replicate (slots - args.length) vNone) 0).andThen <|
    (slotOf callee 0).bind fun code =>
    Swq.modify fun s => s.setMyHart { s.myHart with swq := { s.myHart.swq with frame := new, bpc := code } }

/-- Slots a, a + 1, … of n. -/
def slotRun (a : Half) (n : Nat) : List Nat := (List.range n).map (a.toNat + ·)

def execSwqCall (wide : Bool) (d f a n site : Half) (s : State) : Host.Outcome State Fault Refusal :=
  .next (s.bytecode (some site) (d.toNat :: f.toNat :: slotRun a n.toNat) fun w =>
    (getS f.toNat).bind fun callee =>
    (hitWay w fun e0 e1 => .pure (wayKind e0 == 4 && e1 == callee)).bind fun (_, e1) =>
    (slotValues n.toNat a.toNat).bind fun args => enterFn (.swqCall wide d f a n site) e1 d args)

def execSwqCallm (wide : Bool) (d a n site : Half) (s : State) : Host.Outcome State Fault Refusal :=
  .next (s.bytecode (some site) (d.toNat :: slotRun a (n.toNat + 1)) fun w =>
    (getS a.toNat).bind fun o => (objectOf o (List.range 9) 0x02).bind fun w0 => (hitWay w (attrHit [4] w0)).bind fun (_, e1) =>
    (slotValues (n.toNat + 1) a.toNat).bind fun args => enterFn (.swqCallm wide d a n site) e1 d args)

/-- Releases n slots of a frame, from slot i on. -/
def releaseSlots (f : Word) : Nat → Nat → Swq Unit
  | 0, _ => .pure ()
  | n + 1, i => (swqLoad (frameSlot f i)).bind fun v => (releaseAll v).andThen (releaseSlots f n (i + 1))

/-- The return from the entry frame completes swq.run (R211). -/
def finishRun (r : Word) : Swq Unit :=
  Swq.modify fun s =>
    let x := s.myHart
    s.setMyHart { x.setX x.swq.rd r with pc := x.pc + 4, swq := { x.swq with running := false } }

def execSwqRet (_wide : Bool) (a : Half) (s : State) : Host.Outcome State Fault Refusal :=
  .next (s.bytecode none [a.toNat] fun _ =>
    (getS a.toNat).bind fun r => (takeCount r).andThen <|
    frameBase.bind fun f => slotCount.bind fun n => (frameWord 1).bind fun caller => (frameWord 2).bind fun ret =>
    (frameWord 3).bind fun res =>
    (releaseSlots f n 0).andThen <|
    if caller = 0 then finishRun r
    else (putOwned (frameSlot caller (fld res 0 16).toNat) r).andThen <|
      Swq.modify fun s => s.setMyHart { s.myHart with swq := { s.myHart.swq with frame := caller, bpc := ret } })

def execSwqRaise (wide : Bool) (a : Half) (s : State) : Host.Outcome State Fault Refusal :=
  .next (s.bytecode none [if wide then a.toNat else (fld a 0 8).toNat] fun _ => .exit 0x0A)

def execSwqExit (wide : Bool) (s : State) : Host.Outcome State Fault Refusal :=
  .next (swqExit s 0x01 0xFFFFFFFF (s.myHart.swq.bpc + BitVec.ofNat 64 (encodeBytes (.swqExit wide)).length))

def execUnknownOpcode (op : Byte) (s : State) : Host.Outcome State Fault Refusal :=
  .next (let _ := op; swqExit s 0x0B 0xFFFFFFFF s.myHart.swq.bpc)

-- Construction (R220, 20 R318) ------------------------------------------------------------------------------------------------------------------------------------

/-- Takes a block from a pool; none left fails 0x08. -/
def allocBlock (pool : Nat) : Swq Word := fun s =>
  if allocBusy s (swqDie s) pool then .error .waits
  else
    let r := poolAllocNow s (swqDie s) pool
    if r.1 ≠ 0 then .ok (BitVec.ofNat 64 r.1, r.2) else .error (.exit 0x08 (newlyDisabled s r.2))

/-- Stores words from an address up. -/
def storeWords (a : Word) : List Word → Swq Unit
  | [] => .pure ()
  | w :: l => (swqStore a w).andThen (storeWords (a + 8) l)

/-- A new object of a class, kind and shape, with count 1, and its slots. -/
def newObject (cls kind : Nat) (shape : W32) (slots : List Word) : Swq Word :=
  if 127 < cls then .exit 0x08
  else (allocBlock cls).bind fun a =>
    (storeWords a ([BitVec.ofNat 24 cls ++ BitVec.ofNat 8 kind ++ shape, 1] ++ slots)).andThen (.pure a)

def execSwqNewo (wide : Bool) (d k : Half) (s : State) : Host.Outcome State Fault Refusal :=
  .next (s.plain (.swqNewo wide d k) [d.toNat]
    ((constant k.toNat).bind fun sh => (objectOf sh [7] 0x03).bind fun _ => (slotOf sh 0).bind fun w =>
      (newObject (fld w 32 8).toNat 0 (fld w 0 32) (List.replicate (2 * (fld w 32 8).toNat) vNone)).bind fun o =>
      frameBase.bind fun f => putOwned (frameSlot f d.toNat) o))

/-- Every value of a list takes its count. -/
def takeCounts' : List Word → Swq Unit
  | [] => .pure ()
  | v :: l => (takeCount v).andThen (takeCounts' l)

/-- NEWL and NEWT: raw slots first, then the values; the rest of the block is None. -/
def newSeq (kind : Nat) (raw : List Word) (d a n : Half) : Swq Unit :=
  (slotValues n.toNat a.toNat).bind fun vs =>
    let used := raw.length + n.toNat
    let cls := (16 + 8 * used + 15) / 16 - 1
    (Swq.need (decide (cls ≤ 127)) 0x08).andThen <|
    (takeCounts' vs).andThen <|
    (newObject cls kind 0 (raw ++ vs ++ List.replicate (2 * cls - used) vNone)).bind fun o =>
    frameBase.bind fun f => putOwned (frameSlot f d.toNat) o

def execSwqNewl (wide : Bool) (d a n : Half) (s : State) : Host.Outcome State Fault Refusal :=
  .next (s.plain (.swqNewl wide d a n) (d.toNat :: slotRun a n.toNat)
    (newSeq 1 [n.setWidth 64, n.setWidth 64] d a n))

def execSwqNewt (wide : Bool) (d a n : Half) (s : State) : Host.Outcome State Fault Refusal :=
  .next (s.plain (.swqNewt wide d a n) (d.toNat :: slotRun a n.toNat) (newSeq 2 [n.setWidth 64] d a n))

/-- The length of a list, tuple or string, or dim 0 of a tensor. -/
def lengthVal (v : Word) : Swq Nat :=
  (objectOf v [1, 2, 3, 4] 0x03).bind fun w0 =>
    if hdrKind w0 = 4 then (tensorOf v).bind fun t => .pure (nthD 0 t.dims 0).toNat
    else (slotOf v 0).bind fun n => .pure n.toNat

def execSwqLen (wide : Bool) (d a : Half) (s : State) : Host.Outcome State Fault Refusal :=
  .next (s.plain (.swqLen wide d a) [d.toNat, a.toNat]
    ((getS a.toNat).bind fun v => (lengthVal v).bind fun n =>
      (Swq.need (smallOk n) 0x04).andThen (putS d.toNat (mkInt n))))

def execSwqIter (wide : Bool) (d a : Half) (s : State) : Host.Outcome State Fault Refusal :=
  .next (s.plain (.swqIter wide d a) [d.toNat, a.toNat]
    ((getS a.toNat).bind fun v => (objectOf v [1, 2] 0x03).bind fun _ => putS d.toNat (mkInt 0)))

def execSwqNext (wide : Bool) (d a b off : Half) (s : State) : Host.Outcome State Fault Refusal :=
  .next (s.bytecode none [d.toNat, a.toNat, b.toNat] fun _ =>
    (getS a.toNat).bind fun v => (getS b.toNat).bind fun j => (indexOf j).bind fun i =>
    (objectOf v [1, 2] 0x03).bind fun w0 => (seqOf v w0).bind fun (len, first) =>
    (Swq.need (decide (0 ≤ i)) 0x0D).andThen <|
    if i < len then
      ((slotOf v (first + i.toNat)).bind (putS d.toNat)).andThen <|
      (putS b.toNat (mkInt (i + 1))).andThen (goOn (.swqNext wide d a b off))
    else jumpIf (.swqNext wide d a b off) true off)

-- TNEW (R221) -------------------------------------------------------------------------------------------------------------------------------------------------------

/-- The element width in bits of a format that TNEW takes. -/
def tnewBits (e : Nat) : Option Nat :=
  match e with
  | 0 | 1 | 12 | 13 => some 8
  | 2 | 9 | 10 => some 16
  | 4 | 11 => some 32
  | _ => none

/-- The dims that a tuple names: 1 to 4 ints, each 0 to 2^32 - 1. -/
def tupleDims (v : Word) : Swq (List Nat) :=
  (objectOf v [2] 0x03).bind fun _ => (slotOf v 0).bind fun n =>
    if n.toNat = 0 ∨ 4 < n.toNat then .exit 0x03
    else (slotsFrom v n.toNat 1).bind fun l =>
      if l.all (fun x => vKind x == .int && decide (0 ≤ vInt x ∧ vInt x < 2 ^ 32)) then .pure (l.map fun x => (vInt x).toNat)
      else .exit 0x03

/-- The product of dims. -/
def product (l : List Nat) : Nat := l.foldr (· * ·) 1

/-- Row-major strides. -/
def rowMajor : List Nat → List Nat
  | [] => []
  | _ :: l => product l :: rowMajor l

/-- The least k with 64 * 2^k at least n, from k on. -/
def leastPool (n : Nat) : Nat → Nat → Nat
  | 0, k => k
  | m + 1, k => if n ≤ 64 * 2 ^ k then k else leastPool n m (k + 1)

def execSwqTnew (wide : Bool) (d a b : Half) (s : State) : Host.Outcome State Fault Refusal :=
  .next (s.plain (.swqTnew wide d a b) [d.toNat, a.toNat, b.toNat]
    ((getS a.toNat).bind fun x => (indexOf x).bind fun f => (getS b.toNat).bind fun y => (tupleDims y).bind fun ds =>
      let w : Half := BitVec.ofInt 16 f
      match tnewBits (elemOf w) with
      | none => .exit 0x03
      | some bits =>
        (Swq.need (decide (0 ≤ f ∧ f < 65536) && !illFormed w true && (fld w 4 4 : BitVec 4) == 0) 0x03).andThen <|
        let k := leastPool (product ds * bits / 8) 16 0
        (Swq.need (decide (k ≤ 14)) 0x08).andThen <|
        (allocBlock 6).bind fun t => (allocBlock 3).bind fun st => (allocBlock (128 + k)).bind fun data =>
        let dims := takePad 1 4 ds
        let nums (l : List Nat) : List Word := l.map (BitVec.ofNat 64)
        (storeWords st [BitVec.ofNat 24 3 ++ (8 : Byte) ++ (0 : W32), 1, data, BitVec.ofNat 64 (128 + k), 0, 0, 0]).andThen <|
        (storeWords t ([BitVec.ofNat 24 6 ++ (4 : Byte) ++ (0 : W32), 1, (BitVec.ofNat 16 ds.length ++ w).setWidth 64, data] ++
          nums dims ++ nums (rowMajor dims) ++ [st])).andThen <|
        frameBase.bind fun fr => putOwned (frameSlot fr d.toNat) t))

-- TCALL, TCOPY, TWAIT (R222, R223) ------------------------------------------------------------------------------------------------------------------------------------------

/-- The tensors of a list of slots. -/
def tensorsOf : List Nat → Swq (List Tensor)
  | [] => .pure []
  | i :: l => (getS i).bind fun v => (tensorOf v).bind fun t => (tensorsOf l).bind fun r => .pure (t :: r)

/-- Every storage object takes the holds of this bytecode: hold + uses is at most 65,535, else 0x03. -/
def holdsFit (all : List Tensor) : List Tensor → Swq Unit
  | [] => .pure ()
  | t :: l => (objectOf t.storage [8] 0x03).bind fun _ => (swqLoad (t.storage + 8)).bind fun w1 =>
    (Swq.need (decide (hdrHold w1 + all.countP (fun u => u.storage == t.storage) ≤ 65535)) 0x03).andThen (holdsFit all l)

/-- Each operand's storage takes one hold. -/
def takeHolds : List Tensor → Swq Unit
  | [] => .pure ()
  | t :: l => (swqLoad (t.storage + 8)).bind fun w1 =>
    (swqStore (t.storage + 8) (setFld w1 32 (BitVec.ofNat 16 (hdrHold w1 + 1)))).andThen (takeHolds l)

/-- The owned tags: first and number. -/
def ownedTags : Swq (Half × Nat) := (siteWord 1).bind fun w => .pure (fld w 0 16, (fld w 16 16).toNat)

/-- The address of the launch block of an owned tag, by its place. -/
def blockAt (i : Nat) : Swq Word := (siteWord 0).bind fun b => .pure (b + BitVec.ofNat 64 (128 * i))

/-- The first place from place i on whose block is free, of n places still to try; none is exit 0x09. -/
def freeTag (tags : Nat) : Nat → Nat → Swq Nat
  | 0, _ => .exit 0x09
  | n + 1, i => (blockAt (i % tags)).bind fun a => (swqLoad a).bind fun st =>
    if st = 0 then .pure (i % tags) else freeTag tags n (i + 1)

/-- The free owned tag that a launch takes, with its block; next moves behind it. -/
def takeTag : Swq (Half × Word) :=
  ownedTags.bind fun (first, tags) => (siteWord 1).bind fun w =>
    let start := if tags = 0 then 0 else ((fld w 32 16 : Half) - first).toNat % tags
    (freeTag tags tags start).bind fun i => (blockAt i).bind fun blk =>
    let next : Half := first + BitVec.ofNat 16 ((i + 1) % tags)
    (setSiteWord 1 (setFld w 32 next)).andThen (.pure (first + BitVec.ofNat 16 i, blk))

/-- The words of a launch block (R222). -/
def blockWords (ts : List Tensor) : List Word :=
  let dims (t : Tensor) : Word := (fld (nthD 0 t.dims 1) 0 32 : W32) ++ (fld (nthD 0 t.dims 0) 0 32 : W32)
  [1] ++ takePad 0 3 (ts.map Tensor.data) ++ takePad 0 3 (ts.map dims) ++ takePad 0 3 (ts.map fun t => t.storage + 8)

/-- Posts a launch record: the launch unit takes it in a step of its own (log entry 1). -/
def postLaunch (r : LaunchRec) : Swq Unit :=
  Swq.modify fun s => { s with agenda := s.agenda ++ [.event (.launch s.hart false r)] }
def postCopy (r : LaunchRec) : Swq Unit :=
  Swq.modify fun s => { s with agenda := s.agenda ++ [.event (.copyLaunch s.hart false r)] }

/-- What TCALL and TCOPY share: holds, tag, block; then the record for the tag and the block goes out, and slot d takes the tag. -/
def launchWith (ts : List Tensor) (d : Half) (f : Half → Word → Word → Word → Swq Unit) : Swq Unit :=
  (holdsFit ts ts).andThen <| takeTag.bind fun (tag, blk) =>
  (storeWords blk (blockWords ts)).andThen <| (takeHolds ts).andThen <|
  (siteWord 4).bind fun w4 => (siteWord 7).bind fun w7 =>
  (f tag blk ((fld w4 32 16 : Half) ++ tag ++ (0 : W32)) w7).andThen <| putS d.toNat (mkInt tag.toNat)

/-- Word 1 of a launch record: kind, priority 0, count. -/
def launchWord1 (kind : Nat) (count : W32) : Word := BitVec.ofNat 30 kind ++ (0 : BitVec 2) ++ count

def execSwqTcall (wide : Bool) (d a b c site : Half) (s : State) : Host.Outcome State Fault Refusal :=
  .next (s.bytecode (some site) [d.toNat, a.toNat, b.toNat, c.toNat] fun w =>
    (tensorsOf [a.toNat, b.toNat, c.toNat]).bind fun ts =>
    let fmt (i : Nat) : Half := ((ts[i]?).map Tensor.format).getD 0
    (hitWay w fun e0 _ => .pure (wayKind e0 == 5 && wayShape e0 == fmt 1 ++ fmt 0 && wayGen e0 == fmt 2)).bind fun (_, e1) =>
    (launchWith ts d fun _ blk head w7 =>
      (match ts with
        | [_, t, y] => (slotOf t.storage 2).bind fun scale =>
          let n : W32 := fld e1 32 32
          let count : W32 := if n = BitVec.allOnes 32 then fld (nthD 0 y.dims 0) 0 32 else n
          postLaunch { w0 := head ||| (fld e1 0 32 : W32).setWidth 64, w1 := launchWord1 0 count,
                       w2 := ((0 : Half) ++ fmt 2 ++ fmt 1 ++ fmt 0), w3 := scale, w4 := w7, w5 := blk, w6 := 0, w7 := 0 }
        | _ => .pure ())).andThen (goOn (.swqTcall wide d a b c site)))

/-- The bytes that TCOPY copies for p elements; none for a reserved element (R222). -/
def copyBytes (e p : Nat) : Option Nat :=
  match e with
  | 0 | 1 | 12 | 13 => some p
  | 2 | 9 | 10 => some (2 * p)
  | 3 | 4 | 11 => some (4 * p)
  | 5 => some (8 * p)
  | 6 => some ((2 * p + 7) / 8)
  | 8 => some ((4 * p + 7) / 8)
  | 7 => some p
  | _ => none

/-- The dims that a tensor uses. -/
def Tensor.used (t : Tensor) : List Nat := (t.dims.take t.rank).map BitVec.toNat
/-- Whether a tensor is row-major contiguous. -/
def Tensor.contiguous (t : Tensor) : Bool := t.strides.take t.rank == (rowMajor t.used).map (BitVec.ofNat 64)

def execSwqTcopy (wide : Bool) (d a b : Half) (s : State) : Host.Outcome State Fault Refusal :=
  .next (s.plain (.swqTcopy wide d a b) [d.toNat, a.toNat, b.toNat]
    ((tensorsOf [a.toNat, b.toNat]).bind fun ts =>
      match ts with
      | [x, y] =>
        (Swq.need (x.format == y.format && x.rank == y.rank && x.used == y.used && x.contiguous && y.contiguous) 0x03).andThen <|
        match copyBytes (elemOf x.format) (product x.used) with
        | none => .exit 0x03
        | some n => launchWith ts d fun _ blk head w7 =>
          postCopy { w0 := head, w1 := launchWord1 1 0, w2 := BitVec.ofNat 64 n, w3 := x.data, w4 := w7, w5 := blk, w6 := y.data, w7 := 0 }
      | _ => .pure ()))

def execSwqTwait (wide : Bool) (a : Half) (s : State) : Host.Outcome State Fault Refusal :=
  .next (s.bytecode none [a.toNat] fun _ =>
    (getS a.toNat).bind fun v => (indexOf v).bind fun t => ownedTags.bind fun (first, tags) =>
    let i := (BitVec.ofInt 16 t - first).toNat
    (Swq.need (decide (0 ≤ t ∧ t < 65536 ∧ i < tags)) 0x03).andThen <|
    (blockAt i).bind fun blk => (swqLoad blk).bind fun st =>
    if st = 1 then .pure ()
    else
      (Swq.need (st == 2 || st == 3) 0x03).andThen <| (swqStore blk 0).andThen <|
      (putS a.toNat (vBool (st == 2))).andThen (goOn (.swqTwait wide a)))

end Sys2Proof.Machine
end

