-- ==== Sys2Proof/Machine/Pound.lean ====
section
/-! DEFINITION. Rafting (08 R151, R152), what a pound accepts and chooses (R153-R155), the deque, the ordered lane and the creation of threads
(01 R9; 08 R157-R163; 16 R266, R267). -/

namespace Sys2Proof.Machine

open Sys2Proof

-- Raft operators (R151) ------------------------------------------------------------------------------------------------------

/-- Sums that lie inside their format. -/
def sumI32 (x y : W32) : Option W32 :=
  let n := x.toInt + y.toInt
  if -(2 ^ 31 : Int) ≤ n ∧ n < 2 ^ 31 then some (BitVec.ofInt 32 n) else none
def sumI64 (x y : Word) : Option Word :=
  let n := x.toInt + y.toInt
  if -(2 ^ 63 : Int) ≤ n ∧ n < 2 ^ 63 then some (BitVec.ofInt 64 n) else none

/-- Signed extremes. -/
def laneMax (x y : W32) : W32 := if x.toInt < y.toInt then y else x
def laneMin (x y : W32) : W32 := if y.toInt < x.toInt then y else x

/-- An operator on the two 32-bit lanes of a word. -/
def bothLanes (f : W32 → W32 → W32) (x y : Word) : Word :=
  f (fld x 32 32) (fld y 32 32) ++ f (fld x 0 32) (fld y 0 32)

/-- One word merged by operators 1 to 9; none where the merge is refused. -/
def raftWord (op : Nat) (x y : Word) : Option Word :=
  match op with
  | 1 => match sumI32 (fld x 0 32) (fld y 0 32), sumI32 (fld x 32 32) (fld y 32 32) with
    | some a, some b => some (b ++ a)
    | _, _ => none
  | 2 => sumI64 x y
  | 3 => some (bothLanes addF32 x y)
  | 4 => some (bothLanes laneMax x y)
  | 5 => some (bothLanes laneMin x y)
  | 6 => some (x ||| y)
  | 7 => some (x &&& y)
  | 8 => some y
  | 9 => some x
  | _ => none

/-- Words merged one by one. -/
def raftWords (op : Nat) : List Word → List Word → Option (List Word)
  | x :: l, y :: m =>
    match raftWord op x y, raftWords op l m with
    | some w, some r => some (w :: r)
    | _, _ => none
  | _, _ => some []

/-- The number of waiters of a fault record, and one of them (13 R243). -/
def waiterCount (p : List Word) : Nat := (fld (nthD 0 p 0) 52 4).toNat
def waiterAt (p : List Word) (j : Nat) : BitVec 25 := fld (nthD 0 p (1 + j / 2)) (32 * (j % 2)) 25

/-- The payload of a fault record with a list of waiters. -/
def waiterWords (w0 : Word) (l : List (BitVec 25)) : List Word :=
  setFld w0 52 (BitVec.ofNat 4 l.length) ::
    (List.range 7).map fun i => (0 : BitVec 7) ++ nthD 0 l (2 * i + 1) ++ (0 : BitVec 7) ++ nthD 0 l (2 * i)

/-- The join of two fault records: the waiting one's waiters, then the arriving one's. -/
def joinWords (x y : List Word) : Option (List Word) :=
  let l := (List.range (waiterCount x)).map (waiterAt x) ++ (List.range (waiterCount y)).map (waiterAt y)
  if 14 < l.length then none else some (waiterWords (nthD 0 x 0) l)

/-- The count of two records. -/
def countWords (x y : List Word) : Option (List Word) :=
  let n := (fld (nthD 0 x 0) 0 32 : W32).toNat + (fld (nthD 0 y 0) 0 32 : W32).toNat
  if 2 ^ 31 - 1 < n then none else some (setFld (nthD 0 x 0) 0 (BitVec.ofNat 32 n) :: x.tail)

/-- The merged payload of a waiting record x and an arriving record y. -/
def raft (op : Nat) (x y : List Word) : Option (List Word) :=
  match op with
  | 10 => joinWords x y
  | 11 => countWords x y
  | _ => raftWords op x y

/-- A word of local store updated by an operator. A sum outside its format is a free value: the spec gives a merge's refusal, and no
result for the application (log entry 38). -/
def updateWord (op : Nat) (free old y : Word) : Word :=
  match op with
  | 1 => (sumI32 (fld old 32 32) (fld y 32 32)).getD (fld free 32 32) ++ (sumI32 (fld old 0 32) (fld y 0 32)).getD (fld free 0 32)
  | 2 => (sumI64 old y).getD free
  | 8 => y
  | 9 => y
  | _ => (raftWord op old y).getD old

/-- The words that a U record leaves (R156): count adds to the i32 at the key. free gives the free values. -/
def updateWords (op : Nat) (free : Nat → Word) (old pay : List Word) : List Word :=
  if op = 11 then
    let w := nthD 0 old 0
    setFld w 0 ((sumI32 (fld w 0 32) (fld (nthD 0 pay 0) 0 32)).getD (fld (free 0) 0 32)) :: old.tail
  else (List.range pay.length).map fun i => updateWord op (free i) (nthD 0 old i) (nthD 0 pay i)

-- Entries and arrivals (R152-R154) ----------------------------------------------------------------------------------------------

/-- Whether an arrival may merge into a waiting record: the same target, kind, key, operator, tag and length. -/
def sameRaft (x y : Record) : Bool :=
  x.ta == y.ta && x.kind == y.kind && x.key == y.key && x.op == y.op && x.tag == y.tag && x.len == y.len

/-- Merges an arrival into the newest record of a list that matches; none if there is none or the merge is refused. -/
def mergeInto (now : Nat) (r : Record) : List Entry → Option (List Entry)
  | [] => none
  | e :: l =>
    if l.any fun f => sameRaft f.r r then (mergeInto now r l).map (e :: ·)
    else if sameRaft e.r r then (raft r.op e.r.pay r.pay).map fun p => { e with r := { e.r with pay := p }, mergedAt := now + 1 } :: l
    else none

/-- Whether a pound of a size, which holds eight entries for kinds of a test, has an entry for a kind. A C record keeps its entry until it is
applied (R161); an entry freed by a dispatch is usable from the next cycle (R154). DESIGN CHOICE (log entry 50): records of those kinds take the
eight entries first, and the others only when these are taken. -/
def Pound.room (p : Pound) (size now : Nat) (special : Nat → Bool) (kind : Nat) : Bool :=
  let busy := p.entries.map (fun e => e.r.kind) ++ (p.applying.filter fun a => a.1.kind == kC).map (fun a => a.1.kind) ++
    (if p.dispatchedAt = now + 1 ∧ p.lastKind ≠ kC then [p.lastKind] else [])
  let spec := busy.countP special
  let gen := busy.length - spec
  if special kind then decide (busy.length < size) else decide (gen + (spec - 8) < size - 8)

/-- A pound takes an arrival: merged, or in an entry of its own; none if it refuses. The Bool says whether it merged. -/
def Pound.take (p : Pound) (size now : Nat) (special : Nat → Bool) (r : Record) : Option (Bool × Pound) :=
  match mergeInto now r p.entries with
  | some es => some (true, { p with entries := es, arrivedAt := now + 1 })
  | none =>
    if p.room size now special r.kind then
      some (false, { p with entries := p.entries ++ [{ r := r, at' := now }], arrivedAt := now + 1 })
    else none

/-- A pound that dispatches the record at a place: the record is sealed and leaves (R153). -/
def Pound.dispatch (p : Pound) (n now kind : Nat) : Pound :=
  { p with entries := dropAt p.entries n, dispatchedAt := now + 1, lastKind := kind }

/-- Whether a record has waited the two cycles after its arrival (11 R225). One into which an arrival merged in this cycle is not sealed in it: an
arrival in the cycle of the seal comes after it (08 R153; log entry 49). -/
def ripe (now : Nat) (e : Entry) : Bool := decide (e.at' + 2 ≤ now) && e.mergedAt != now + 1

-- The deque and the lane (R163; 16 R266) ------------------------------------------------------------------------------------------

/-- Word 0 of a task record and its flags (R157). -/
def word0 (r : Record) : Word := nthD 0 r.pay 0
def isOrdered (r : Record) : Bool := bit (word0 r) 48
def isBarrier (r : Record) : Bool := bit (word0 r) 49
def taskPriority (r : Record) : Nat := (fld (word0 r) 50 2).toNat
def noSteal (r : Record) : Bool := bit (word0 r) 53

/-- Whether a tag is pre-empted, which stops its tasks and messages (16 R275). -/
def isPreempted (s : State) (tag : Half) : Bool := (s.launch tag).state == 2

/-- The bytes of the deque entries beyond the 128 on chip, at their places in the spill area (R266; log entry 12). -/
def spillDeque (s : State) (c : Nat) (n : Nat) : List Entry → State
  | [] => s
  | e :: l => spillDeque (if n < 128 then s else lsWrite s c ((s.getCore c).kca.toNat + 21504 + 48 * (n - 128)) (wordsBytes e.r.pay)) c (n + 1) l

/-- Sets the deque of a core. -/
def State.setDeque (s : State) (c : Nat) (l : List Entry) : State :=
  spillDeque (s.setCore c { s.getCore c with deque := l }) c 0 l

/-- The place of the first record that a test accepts, of those of a priority and those above it, lowest priority first. -/
def topFrom (p : Record → Bool) (l : List Entry) : Nat → Nat → Option Nat
  | 0, _ => none
  | n + 1, q =>
    match findIdx1 (fun e : Entry => p e.r && taskPriority e.r == q) l with
    | some i => some i
    | none => topFrom p l n (q + 1)

/-- The top: the oldest entry of the lowest priority that theft may take; entries of a pre-empted tag stay (R266, R275). -/
def topOf (s : State) (l : List Entry) : Option Nat := topFrom (fun r => !noSteal r && !isPreempted s r.tag) l 4 0

/-- The place of the last record that a test accepts. -/
def lastIdx (p : Record → Bool) (l : List Entry) : Option Nat := (findIdx1 (fun e : Entry => p e.r) l.reverse).map fun i => l.length - 1 - i

/-- The bottom: the newest entry of the highest priority present; entries of a pre-empted tag stay. n counts priorities down. -/
def bottomFrom (p : Record → Bool) (l : List Entry) : Nat → Option Nat
  | 0 => none
  | n + 1 =>
    match lastIdx (fun r => p r && taskPriority r == n) l with
    | some i => some i
    | none => bottomFrom p l n

def bottomOf (s : State) (l : List Entry) : Option Nat := bottomFrom (fun r => !isPreempted s r.tag) l 4

/-- A task's record on its way to another core: it is no spawn, so its operator is 0 (R149). -/
def moved (s : State) (c : Nat) (r : Record) : Record := mkRec (coreTa (coreAddress s c)) kT 0 r.tag r.key r.pay

/-- The neighbours of a core, ascending: in its cluster's ring, and in the clusters next to its own in the 4 by 6 mesh (R267). -/
def neighbours (c : Nat) : List Nat :=
  let cl := clusterIn c
  let at' (k : Nat) : Nat := dieOf c * 512 + k * 16 + c % 16
  let up := if 6 ≤ cl then [at' (cl - 6)] else []
  let left := if cl % 6 ≠ 0 then [at' (cl - 1)] else []
  let right := if cl % 6 ≠ 5 then [at' (cl + 1)] else []
  let down := if cl < 18 then [at' (cl + 6)] else []
  let a := c / 16 * 16 + (c + 15) % 16
  let b := c / 16 * 16 + (c + 1) % 16
  up ++ left ++ [min a b, max a b] ++ right ++ down

/-- The present neighbours, and the one whose figure, as last received, is smallest; ties go to the lower address. -/
def presentNeighbours (s : State) (c : Nat) : List Nat := (neighbours c).filter (present s)
def leastLoaded (s : State) (c : Nat) : Option (Nat × Nat) :=
  (presentNeighbours s c).foldl (fun best n =>
    let f := SMap.getD (s.getCore c).figures n 0
    match best with
    | none => some (n, f)
    | some (m, g) => if f < g then some (n, f) else some (m, g)) none

/-- A core ships its top entry to a core; none if it has none. -/
def shipTop (s : State) (c target : Nat) : Option State :=
  let l := (s.getCore c).deque
  match topOf s l with
  | none => none
  | some i =>
    match l[i]? with
    | none => none
    | some e => some ((s.setDeque c (dropAt l i)).post (senderCore c) (moved s target e.r))

/-- A full deque, of 512 entries, ships its top to the least-loaded neighbour; none if it cannot. -/
def dequeRoom (s : State) (c : Nat) : Option State :=
  if (s.getCore c).deque.length < 512 then some s
  else match leastLoaded s c with
    | none => none
    | some (n, _) => shipTop s c n

/-- A task is pushed: an ordered one onto the lane, another onto the deque; none if there is no room (R156). -/
def pushTask (s : State) (c : Nat) (r : Record) : Option State :=
  if isOrdered r then
    let x := s.getCore c
    if x.lane.length < 16 then some (s.setCore c { x with lane := x.lane ++ [(r, s.clk)] }) else none
  else (dequeRoom s c).map fun s => s.setDeque c ((s.getCore c).deque ++ [{ r := r, at' := s.clk }])

-- Free slots and the creation of threads (01 R9; 08 R158) ---------------------------------------------------------------------------

/-- Whether a slot is Empty, since an earlier cycle (R9). -/
def slotFree (s : State) (c : Nat) (k : Fin 16) : Bool := (s.thread c k).st == .empty && decide ((s.thread c k).freeAt ≤ s.clk)

/-- The lowest free general slot. -/
def freeGeneral (s : State) (c : Nat) : Option (Fin 16) :=
  ((List.range 14).map fun i => (Fin.ofNat 16 (i + 2) : Fin 16)).find? (slotFree s c)

/-- Whether a core may create a thread in this cycle (R266). -/
def mayCreate (s : State) (c : Nat) : Bool := (s.getCore c).createdAt != s.clk + 1

/-- Whether a range of a core's local store was written in this cycle. -/
def writtenNow (s : State) (c off n : Nat) : Bool := s.written.any fun p => decide (lsKey c off < p.1 + p.2 ∧ p.1 < lsKey c off + n)

/-- Whether a barrier's counter lets it go: it reads zero, and was not written in this cycle; a counter elsewhere is none (R163). -/
def barrierOpen (s : State) (c : Nat) (r : Record) : Bool :=
  let a := nthD 0 r.pay 4
  let off := (fld a 0 18).toNat
  a == 0 || (fld a 48 16 : Half) != coreAddress s c || (!writtenNow s c off 4 && bytesNat (lsRead s c off 4) == 0)

/-- The lane's head, if it may leave now. -/
def laneHead (s : State) (c : Nat) : Option Record :=
  match (s.getCore c).lane with
  | [] => none
  | (r, _) :: _ =>
    if mayCreate s c && (freeGeneral s c).isSome && !isPreempted s r.tag && (!isBarrier r || barrierOpen s c r) then some r else none

/-- A core that has created a thread, or claimed a slot, in this cycle. -/
def State.created (s : State) (c : Nat) : State := s.setCore c { s.getCore c with createdAt := s.clk + 1 }

/-- The segment registers that a new thread gets: the template, with sg1 as its window stack (01 R18). -/
def newSegs (x : Core) (k : Fin 16) : Vector Seg 8 :=
  let b : BitVec 18 := (x.stackBase + BitVec.ofNat 64 (2048 * k.val)).setWidth 18
  x.template.set 1 { w0 := b.setWidth 64, w1 := (0 : BitVec 5) ++ (0 : BitVec 3) ++ (3 : BitVec 3) ++ BitVec.ofNat 53 2048 }

/-- A new thread of a slot at a code address: it may issue from the next cycle, and after the slot's return interval (R9, R22). -/
def freshThread (s : State) (c : Nat) (k : Fin 16) (pc : Word) (tag : Half) : Thread :=
  let t := s.thread c k
  { st := .runnable, pc := pc, tag := tag, sg := newSegs (s.getCore c) k, nextIssue := max t.nextIssue (s.clk + 1), joined := s.clk,
    saveInUse := t.saveInUse, saved := t.saved }

/-- The Basin offset of a node's descriptor, by the directory of a die; none for a bad template or node (R158). -/
def nodeAt (s : State) (d template node : Nat) : Option Nat :=
  let w := basinWord s d (16 * template)
  if template < 4096 ∧ node < (fld w 32 16).toNat then some ((fld w 0 27).toNat + 128 * node) else none

/-- The argument registers of a task: base i + instance * stride i, and the instance in w6 (R9). -/
def taskArgs (s : State) (d off : Nat) (inst : W32) : Vector Word 24 :=
  Vector.ofFn fun i : Fin 24 =>
    if i.val < 6 then basinWord s d (off + 24 + 16 * i.val) + inst.setWidth 64 * basinWord s d (off + 32 + 16 * i.val)
    else if i.val = 6 then inst.setWidth 64 else 0

/-- A task claims a slot: it becomes a thread, or is reported and counts as retired (R9, R158). The report's PC is open (log entry 19). -/
def State.startTask (s : State) (c : Nat) (k : Fin 16) (r : Record) : State :=
  let s := s.created c
  let d := dieOf c
  match nodeAt s d (fld (word0 r) 0 16).toNat (fld (word0 r) 16 16).toNat with
  | none =>
    let s := s.count c r.tag 0 1
    { s with fresh := s.fresh + 1 }.postTrap c k r.tag true 0x05 0 (Config.freeWord s.fresh) r.key 0
  | some off =>
    let inst : W32 := fld (nthD 0 r.pay 1) 0 32
    let w2 := nthD 0 r.pay 2
    let t := freshThread s c k (basinWord s d off) r.tag
    s.setThread c k { t with
      w := taskArgs s d off inst
      fa := fld w2 0 16
      fw := fld w2 16 16
      fo := fld w2 32 16
      fsc := nthD 0 r.pay 3
      inst := inst
      isTask := true
      parent := nthD 0 r.pay 5
      succ := (fld (basinWord s d (off + 16)) 0 27).toNat }

/-- A message claims a slot (R9, R156). -/
def State.startMessage (s : State) (c : Nat) (k : Fin 16) (r : Record) : State :=
  let s := s.created c
  let t := freshThread s c k r.key r.tag
  s.setThread c k { t with w := Vector.ofFn fun i : Fin 24 => if i.val < 8 then nthD 0 r.pay i.val else 0 }

/-- A remote-access record starts the handler in slot 1, or is answered 0xFE where there is none (13 R232). -/
def State.startRemote (s : State) (c : Nat) (r : Record) : State :=
  let x := s.getCore c
  if x.slot1 = 0 then s.post (senderThread c 1) (accessReply r.key r.tag 0xFE {})
  else
    let s := s.created c
    let t := freshThread s c 1 x.slot1 r.tag
    s.setThread c 1 { t with
      w := Vector.ofFn fun i : Fin 24 => if i.val < 8 then nthD 0 r.pay i.val else if i.val = 8 then r.key else 0
      serving := some r.key }

-- What a pound chooses (R155, R156, R232; 16 R266) -----------------------------------------------------------------------------------

/-- The kinds in the order of dispatch. -/
def kindOrder : List Nat := [kK, kF, kW, kP, kC, kM, kU, kT]

/-- Whether a message or a task is eligible, apart from its age. -/
def taskEligible (s : State) (c : Nat) (r : Record) : Bool :=
  let x := s.getCore c
  !isPreempted s r.tag &&
    (if isOrdered r then decide (x.lane.length < 16)
     else decide (x.deque.length < 512) || ((topOf s x.deque).isSome && (leastLoaded s c).isSome))
def messageEligible (s : State) (c : Nat) (r : Record) : Bool :=
  mayCreate s c && (laneHead s c).isNone &&
    !isPreempted s r.tag && (if isRemote r then slotFree s c 1 else (freeGeneral s c).isSome)

/-- The oldest record that a test accepts, if it is eligible. -/
def oldestOf (s : State) (es : List Entry) (p elig : Record → Bool) : Option Nat :=
  match findIdx1 (fun e => p e.r) es with
  | none => none
  | some i => match es[i]? with
    | some e => if ripe s.clk e && elig e.r then some i else none
    | none => none

/-- The lesser of two places. -/
def firstPlace (a b : Option Nat) : Option Nat :=
  match a, b with
  | some i, some j => some (min i j)
  | some i, none => some i
  | none, j => j

/-- The place of the record of a kind that a core's pound may dispatch. Remote-access records and other M records are ordered apart (R232). -/
def candidate (s : State) (c kind : Nat) : Option Nat :=
  let es := (s.getCore c).pound.entries
  if kind = kM then
    firstPlace (oldestOf s es (fun r => r.kind == kM && isRemote r) (messageEligible s c))
      (oldestOf s es (fun r => r.kind == kM && !isRemote r) (messageEligible s c))
  else if kind = kT then oldestOf s es (fun r => r.kind == kT) (taskEligible s c)
  else oldestOf s es (fun r => r.kind == kind) (fun _ => true)

/-- The first kind of a list that has a candidate. -/
def chooseFrom (s : State) (c : Nat) : List Nat → Option Nat
  | [] => none
  | k :: l =>
    match candidate s c k with
    | some i => some i
    | none => chooseFrom s c l

/-- The record that a core's pound dispatches in this cycle, with its place. -/
def chosen (s : State) (c : Nat) : Option (Nat × Record) :=
  if !present s c || (s.getCore c).pound.dispatchedAt == s.clk + 1 then none
  else match chooseFrom s c kindOrder with
    | none => none
    | some i => ((s.getCore c).pound.entries[i]?).map fun e => (i, e.r)

/-- The dispatch of the chosen record, if a test accepts it: it leaves the pound, and its effect follows. -/
def State.dispatch (s : State) (c : Nat) (p : Record → Bool) (f : Record → State → State) : State :=
  match chosen s c with
  | none => s
  | some (i, r) =>
    if p r then
      let x := s.getCore c
      f r (s.setCore c { x with pound := x.pound.dispatch i s.clk r.kind })
    else s

/-- The oldest remote-access record, or the oldest other M record, of a pound: it blocks the younger ones (08 R155, 13 R232). -/
def oldestMessage (es : List Entry) (remote : Bool) : Option Entry := es.find? fun e => e.r.kind == kM && isRemote e.r == remote

/-- Whether a message is ready but for a slot. -/
def messageReady (s : State) (e : Entry) : Bool := ripe s.clk e && !isPreempted s e.r.tag

/-- Whether an M record that is ready waits for the slot or the cycle that the deque would take (R266). -/
def messageWaits (s : State) (c : Nat) : Bool :=
  let es := (s.getCore c).pound.entries
  (oldestMessage es false).any (messageReady s) || (slotFree s c 1 && (oldestMessage es true).any (messageReady s))

end Sys2Proof.Machine
end

