-- ==== Sys2Proof/Machine/PoundEvents.lean ====
section
/-! DEFINITION. The events of the network and the pounds: arrivals, dispatches and what they do, the lane, the deque and aborts (08 R152-R163;
09 R190; 13 R231, R232, R245, R246; 16 R266). -/

namespace Sys2Proof.Machine

open Sys2Proof

-- Arrival (R150-R154, R162; 13 R248; 19 R315) --------------------------------------------------------------------------------

/-- Kinds that may take the eight held entries of a core's pound. -/
def heldKind (kind : Nat) : Bool := ownClass kind
/-- Kinds that may take the eight held entries of a helm pound (19 R305). -/
def helmHeldKind (kind : Nat) : Bool := kind == kW || kind == kP

/-- Whether the pound of a record on the network would refuse it for want of an entry: it waits at the port. -/
def heldAtPort (s : State) (f : Flight) : Bool :=
  if f.die4 then ((s.getHart f.target).pound.take 128 s.clk helmHeldKind f.r).isNone
  else present s f.target && ((s.getCore f.target).pound.take 64 s.clk heldKind f.r).isNone

/-- The records of the same sender for the same pound that were posted before the one at a place, oldest first. -/
def postedBefore (s : State) (n : Nat) (f : Flight) : List Flight :=
  (s.net.take n).filter fun g => g.sender == f.sender && g.die4 == f.die4 && g.target == f.target

/-- Whether a record waits for records of its sender: they arrive in the order posted (R150). Only kinds K, F, W and P pass records of other kinds,
where a full pound holds up the first of these and so those behind it (R154). -/
def isBehind (s : State) (n : Nat) (f : Flight) : Bool :=
  let l := postedBefore s n f
  if ownClass f.r.kind then
    (l.any fun g => ownClass g.r.kind) || (l.find? fun g => !ownClass g.r.kind).any fun g => !heldAtPort s g
  else !l.isEmpty

/-- A core's pound takes an arrival, or discards it by its tag; none if its port holds it. The record that the pound chooses in this cycle is sealed
first, so that an arrival comes after it (R153). A task that merges by keep counts as retired (R164). -/
def State.arriveCore (s : State) (c : Nat) (r : Record) : Option State :=
  let x := s.getCore c
  if !present s c then some (loseRecord s r)
  else if x.marks.contains r.tag && discardable r.tag r then some (if countsAsTask r then s.count c r.tag 0 1 else s)
  else if x.pound.arrivedAt = s.clk + 1 ∨ (chosen s c).isSome then none
  else match x.pound.take 64 s.clk heldKind r with
    | none => none
    | some (merged, p) =>
      let s := s.setCore c { x with pound := p }
      some (if merged && r.kind == kT then s.count c r.tag 0 1 else s)

/-- The entries of a hart's inbox ring. -/
def inboxEntries (x : Hart) : Nat := 2 ^ (min 8 (fld x.inboxBase 0 4).toNat + 4)

/-- Whether the inbox is full. -/
def inboxFull (x : Hart) : Bool := decide (inboxEntries x ≤ (x.head - x.tail).toNat)

/-- The place of the record of a kind that a helm pound may dispatch: a full inbox holds the records that go there, and those behind them. -/
def helmCandidate (s : State) (h kind : Nat) : Option Nat :=
  let x := s.getHart h
  match findIdx1 (fun e : Entry => e.r.kind == kind) x.pound.entries with
  | none => none
  | some i => match x.pound.entries[i]? with
    | some e => if ripe s.clk e && !(inboxFull x && (x.pound.entries.take (i + 1)).any fun f => f.r.kind != kU) then some i else none
    | none => none

/-- The first kind of a list that has a candidate. -/
def helmChoose (s : State) (h : Nat) : List Nat → Option Nat
  | [] => none
  | k :: l =>
    match helmCandidate s h k with
    | some i => some i
    | none => helmChoose s h l

/-- The record that a helm pound dispatches in this cycle, with its place. -/
def helmChosen (s : State) (h : Nat) : Option (Nat × Record) :=
  if (s.getHart h).pound.dispatchedAt == s.clk + 1 then none
  else match helmChoose s h kindOrder with
    | none => none
    | some i => ((s.getHart h).pound.entries[i]?).map fun e => (i, e.r)

/-- A helm pound takes an arrival, behind the record that it chooses in this cycle (19 R306; 08 R153). -/
def State.arriveHelm (s : State) (h : Nat) (r : Record) : Option State :=
  let x := s.getHart h
  if x.pound.arrivedAt = s.clk + 1 ∨ (helmChosen s h).isSome then none
  else match x.pound.take 128 s.clk helmHeldKind r with
    | none => none
    | some (merged, p) =>
      let s := s.setHart h { x with pound := p }
      some (if merged && countsAsTask r then s.countOwn r.tag 0 1 else s)

/-- A record from another device has reached this one: it goes to the pound that it names, and is refused if its target names no present
core (R315). -/
def State.fromFar (s : State) (r : Record) : State :=
  if (fld r.ta 16 4 : BitVec 4) = s.wharf.device ∧ namesPound s r.ta then s.post senderFar r else s

/-- Writes a tag's launch-state entry to every die's copy (16 R272). -/
def writeLaunch (s : State) (tag : Half) : State :=
  let x := s.launch tag
  let w0 : Word := (0 : Half) ++ x.asid ++ BitVec.ofNat 32 x.state
  let bs := wordsBytes [w0, x.slotCycles, x.weirCycles, x.engineCycles]
  iter (fun d s => rawWrite s (basinKey d (s.wharf.tableBase.toNat * 0x200000 + 32 * tag.toNat)) bs) 4 s

/-- The launch-state table at a place of the Basins, written whole: zero but for the tags that have been launched (16 R272). -/
def writeTable (s : State) : State :=
  let s := iter (fun d s => rawZero s (basinKey d (s.wharf.tableBase.toNat * 0x200000)) 0x200000) 4 s
  s.wharf.launches.foldl (fun s p => writeLaunch s (BitVec.ofNat 16 p.1)) s

/-- A write to the table base: the identical copies lie at the new offset (16 R272, R273). -/
def State.setTableBase (s : State) (b : BitVec 6) : State := writeTable { s with wharf := { s.wharf with tableBase := b } }

/-- A tag's launch state changes: every copy is written, and every keeper wakes with bit 2 (R272). -/
def State.setLaunchState (s : State) (tag : Half) (x : Launch) : State := (writeLaunch (s.setLaunch tag x) tag).wakeAll 4

/-- The cores that are present. -/
def presentCores (s : State) : List Nat := (List.range 2048).filter (present s)

/-- An abort notice reaches every core of this device (R162). -/
def State.relayAbort (s : State) (tag : Half) : State :=
  { s with notices := s.notices ++ (presentCores s).map fun c => { tag := tag, core := some c } }

/-- The launch unit learns that a tag is aborted: the first notice sets state 3, and it is relayed to every core. -/
def State.abortHere (s : State) (tag : Half) : State :=
  let x := s.launch tag
  if x.state = 3 then s
  else (tagCallsAbort (if x.state = 0 then s else s.setLaunchState tag { x with state := 3 }) tag).relayAbort tag

/-- The launch unit receives an abort notice of this device: the first of a tag also goes to every other device of the board (19 R315). -/
def State.noticed (s : State) (tag : Half) : State :=
  if (s.launch tag).state = 3 then s
  else
    let s := s.abortHere tag
    { s with wharf := { s.wharf with told := s.wharf.told ++ [(true, tag)] } }

/-- Every core clears its abort mark for a tag, and no notice of it is left (16 R271). -/
def clearMarks (s : State) (tag : Half) : State :=
  { s with cores := s.cores.map fun p => (p.1, { p.2 with marks := p.2.marks.filter (· != tag) }),
           notices := s.notices.filter fun n => n.tag != tag }

/-- Counts that another device holds of a live tag, for the next sweep. -/
def State.farCounts (s : State) (dev : Fin 16) (tag : Half) (n : Counts) (held : Bool) : State :=
  let x := s.launch tag
  if x.state = 0 then s else s.setLaunch tag { x with others := SMap.set x.others dev.val (n, held) }

/-- What another device sends reaches this one (R315). -/
def State.arriveFar (s : State) (f : Far) : State :=
  match f with
  | .record r => s.fromFar r
  | .abort tag => s.abortHere tag
  | .clear tag => clearMarks s tag
  | .counts dev tag created retired held => s.farCounts dev tag { created := created, retired := retired } held

/-- The record at a place of the network arrives at its pound, or something from another device reaches this one. -/
def execRecordArrival (n : Nat) (far : Option Far) (s : State) : Host.Outcome State Fault Refusal :=
  .next (
    match far, s.net[n]? with
    | some f, _ => s.arriveFar f
    | none, none => s
    | none, some f =>
      if isBehind s n f then s
      else
        let s1 := { s with net := dropAt s.net n }
        ((if f.die4 then s1.arriveHelm f.target f.r else s1.arriveCore f.target f.r).getD s))

-- K and F (09 R190, 13 R245) ---------------------------------------------------------------------------------------------------

/-- A wake of a core's keeper. -/
def State.wakeKeeper (s : State) (c : Nat) (bits : Word) : State := s.wake c 0 bits

/-- A trap record goes into the trap ring, and the keeper wakes. A report for which the ring is short of room counts as lost. DESIGN CHOICE (log entry
52): it then wakes nobody. -/
def State.trapRing (s : State) (c : Nat) (pay : List Word) : State :=
  let b := (s.getCore c).ringBase.toNat
  let head := lsWord s c b
  let full := 48 ≤ (head - lsWord s c (b + 8)).toNat
  if bit (nthD 0 pay 0) 8 && decide full then setLsWord s c (b + 16) (lsWord s c (b + 16) + 1)
  else
    let s := lsWrite s c (b + 64 + 32 * (head.toNat % 64)) (wordsBytes (takePad 0 4 pay))
    (setLsWord s c b (head + 1)).wakeKeeper c 1

/-- A trap in slot 0 sets the keeper's PC to its trap vector; without one the lockhouse fences the core (R190). -/
def State.keeperTrap (s : State) (c : Nat) : State :=
  let x := s.getCore c
  match (s.thread c 0).st with
  | .parked _ => if x.vector = 0 then s.fence c else s.setThread c 0 { s.thread c 0 with pc := x.vector, st := .runnable }
  | _ => s

def execTrapRecordDispatch (c : Nat) (s : State) : Host.Outcome State Fault Refusal :=
  .next (s.dispatch c (fun r => r.kind == kK) fun r s =>
    let w := nthD 0 r.pay 0
    let s := s.trapRing c r.pay
    if (fld w 16 4 : BitVec 4) = 0 ∧ !bit w 8 then s.keeperTrap c else s)

/-- The bytes of a fault-ring entry: key, tag, payload, zeros. -/
def faultEntry (r : Record) : List Byte :=
  wordsBytes ([r.key, r.tag.setWidth 64] ++ takePad 0 8 r.pay ++ List.replicate 6 0)

def execFaultRecordDispatch (c : Nat) (s : State) : Host.Outcome State Fault Refusal :=
  .next (s.dispatch c (fun r => r.kind == kF) fun r s =>
    let b := (s.getCore c).faultBase.toNat
    let head := lsWord s c b
    let s := lsWrite s c (b + 64 + 128 * (head.toNat % 256)) (faultEntry r)
    (setLsWord s c b (head + 1)).wakeKeeper c 2)

-- W (01 R21, 13 R246) ------------------------------------------------------------------------------------------------------------

/-- The slot that a key names. -/
def keySlot (r : Record) : Fin 16 := ⟨(fld r.key 0 4).toNat, (fld r.key 0 4).isLt⟩

def execWakeDispatch (c : Nat) (s : State) : Host.Outcome State Fault Refusal :=
  .next (s.dispatch c (fun r => r.kind == kW && !bit r.key 63) fun r s => s.wake c (keySlot r) (nthD 0 r.pay 0))

/-- A replay of an engine's command that a fault parked: it resumes, or ends with status 2 once the work below is done (17 R280). Of two parts that
failing replays end, the lower counts; the other is over, and is not performed. -/
def Cmd.replayed (m : Cmd) (fail : Bool) : Cmd :=
  match m.parked with
  | none => m
  | some (i, _) =>
    if fail then
      match m.failAt with
      | none => { m with parked := none, failAt := some i }
      | some f => { m with parked := none, failAt := some (min f i), done := max f i :: m.done }
    else { m with parked := none }

/-- A replay wake for an engine: the command in progress at its index. -/
def Engine.replay (x : Engine) (index : Nat) (fail : Bool) : Engine :=
  { x with cmds := x.cmds.map fun m => if m.started && m.index == index then m.replayed fail else m }

/-- A replay wake for the thread in a slot: it reaches a thread that is Parked by a fault or an in-lock page, and is an ordinary wake for any
other (R246). -/
def State.replayThread (s : State) (c : Nat) (k : Fin 16) (fail : Bool) (bits : Word) : State :=
  match (s.thread c k).st with
  | .parked p =>
    if p.fault.isSome then (if fail then s.replayFails c k p else s.onThread c k fun s => s.replay p) else s.wake c k bits
  | _ => s.wake c k bits

def execReplayWake (c : Nat) (s : State) : Host.Outcome State Fault Refusal :=
  .next (s.dispatch c (fun r => r.kind == kW && bit r.key 63) fun r s =>
    let fail := bit r.key 62
    if bit r.key 57 then
      let e := portEngine c (fld r.key 58 2).toNat
      s.setEngine e ((s.engine e).replay (fld r.key 60 2).toNat fail)
    else s.replayThread c (keySlot r) fail (nthD 0 r.pay 0))

-- P (R156, 13 R232) -----------------------------------------------------------------------------------------------------------------

/-- A reply loads w16 and w17 of a thread that awaits one. -/
def State.replyTo (s : State) (c : Nat) (k : Fin 16) (r : Record) : State :=
  match (s.thread c k).st with
  | .removed .reply =>
    s.onThread c k fun s =>
      (s.setMe ((s.me.setW 16 (nthD 0 r.pay 0)).setW 17 (nthD 0 r.pay 1))).completePc none
  | _ => s

def execReplyDispatch (c : Nat) (s : State) : Host.Outcome State Fault Refusal :=
  .next (s.dispatch c (fun r => r.kind == kP && !bit r.key 63) fun r s => s.replyTo c (keySlot r) r)

/-- What a remote access reads from a reply: masked-off lanes are zero (13 R231). -/
def replyValue (op : MemOp) (pay : List Word) : Vec :=
  match op with
  | .vld sz mask _ =>
    let v := ofLanes 64 (fun i => nthD 0 pay i) 8
    (enabledLanes mask sz.bytes).foldr (fun i w => setFld w (8 * sz.bytes * i) (BitVec.ofNat (8 * sz.bytes) (v.toNat / 2 ^ (8 * sz.bytes * i)))) 0
  | _ => (nthD 0 pay 0).setWidth 512

/-- Whether a relaxed access through kind 1 awaits its reply. -/
def Relaxed.awaits (r : Relaxed) : Bool := r.sent && r.status.isNone

/-- The next relaxed access through kind 1, if there is one, posts its record (log entry 32). -/
def State.nextRemote (s : State) (c : Nat) (k : Fin 16) : State :=
  let t := s.thread c k
  match findIdx1 (fun r : Relaxed => r.acc.kind == 1 && !r.sent) t.relaxed with
  | none => s
  | some n => match t.relaxed[n]? with
    | none => s
    | some r =>
      (s.setThread c k { t with relaxed := setAt t.relaxed n { r with sent := true } }).post (senderThread c k) (remoteRecord s c k r.acc)

/-- A reply for a relaxed access: it is performed, or fails with the owner's status. -/
def State.relaxedReply (s : State) (c : Nat) (k : Fin 16) (status : Byte) (pay : List Word) : State :=
  let t := s.thread c k
  match findIdx1 Relaxed.awaits t.relaxed with
  | none => s
  | some n => match t.relaxed[n]? with
    | none => s
    | some r =>
      if status = 0 then
        ((s.onThread c k fun s => (s.setMe (s.me.dropRelaxed n)).land r.acc.op (replyValue r.acc.op pay) none).nextRemote c k).keeperFence c
      else (s.failRelaxed c k n { r with status := some status }).nextRemote c k

/-- An access reply: the access completes, or takes trap 0x04 with the status (R232). -/
def State.accessReplyTo (s : State) (c : Nat) (k : Fin 16) (status : Byte) (pay : List Word) : State :=
  match (s.thread c k).st with
  | .removed (.remote x) =>
    if status = 0 then
      s.onThread c k fun s =>
        let s := { s with iword := x.iword }
        ((s.setMe { s.me with st := .runnable }).land x.op (replyValue x.op pay) (some (x.pc + BitVec.ofNat 64 x.len))).settleDone
    else s.trapThread c k 0x04 x.iword x.pc x.off (status.setWidth 64)
  | _ => s.relaxedReply c k status pay

def execAccessReply (c : Nat) (s : State) : Host.Outcome State Fault Refusal :=
  .next (s.dispatch c (fun r => r.kind == kP && bit r.key 63) fun r s => s.accessReplyTo c (keySlot r) (fld r.key 8 8) r.pay)

-- C and U (R156, R161) ------------------------------------------------------------------------------------------------------------------

/-- A C or U record is sealed; it is applied in a later cycle. -/
def State.toApply (s : State) (c : Nat) (r : Record) : State :=
  let x := s.getCore c
  s.setCore c { x with pound := { x.pound with applying := x.pound.applying ++ [(r, s.clk)] } }

def execCounterDispatch (c : Nat) (s : State) : Host.Outcome State Fault Refusal :=
  .next (s.dispatch c (fun r => r.kind == kC) fun r s => s.toApply c r)

def execUpdateDispatch (c : Nat) (s : State) : Host.Outcome State Fault Refusal :=
  .next (s.dispatch c (fun r => r.kind == kU) fun r s => s.toApply c r)

/-- The first record of a kind that awaits its application, which begins no earlier than the cycle after the dispatch (R156). -/
def State.applyNext (s : State) (c kind : Nat) (f : Record → State → State) : State :=
  let x := s.getCore c
  match findIdx1 (fun p : Record × Nat => p.1.kind == kind) x.pound.applying with
  | none => s
  | some n => match x.pound.applying[n]? with
    | none => s
    | some (r, t) =>
      if s.clk ≤ t then s
      else f r (s.setCore c { x with pound := { x.pound with applying := dropAt x.pound.applying n } })

/-- The task record of a frame, with its own tag (R160). -/
def frameTask (s : State) (c off : Nat) : Record :=
  let ws := (List.range 6).map fun i => lsWord s c (off + 16 + 8 * i)
  { taskRecord (coreAddress s c) (fld (nthD 0 ws 0) 32 16) ws with
    hdr := header (coreTa (coreAddress s c)) kT 0 6 (fld (nthD 0 ws 0) 32 16) }

/-- An armed frame's record is pushed and counts as created. A tag that the core has marked discards it. Where there is no room it waits in the
pound, in the entry of the C record (R161). -/
def State.pushFrame (s : State) (c : Nat) (r : Record) : State :=
  let s := s.count c r.tag 1 0
  if (s.getCore c).marks.contains r.tag then s.count c r.tag 0 1
  else match pushTask s c r with
    | some s => s
    | none =>
      let x := s.getCore c
      s.setCore c { x with pound := { x.pound with entries := x.pound.entries ++ [{ r := r, at' := s.clk }] } }

/-- A decrement of the counter at an offset (R161). -/
def State.counter (s : State) (c off : Nat) (dec : W32) : State :=
  let old : W32 := BitVec.ofNat 32 (bytesNat (lsRead s c off 4))
  let new := old - dec
  let s := lsWrite s c off (natBytes 4 new.toNat)
  let ctl := (lsRead s c (off + 4) 1).headD 0
  let r := frameTask s c off
  if new = 0 ∧ bit ctl 0 then (lsWrite s c (off + 4) [ctl &&& 0xFE]).pushFrame c r
  else if new.slt 0 ∧ bit (word0 r) 52 then s.abort c r.tag
  else s

def execCounterApply (c : Nat) (s : State) : Host.Outcome State Fault Refusal :=
  .next (s.applyNext c kC fun r s => s.counter c (fld r.key 0 18).toNat (fld (nthD 0 r.pay 0) 0 32))

/-- An update of local store (R156). -/
def State.update (s : State) (c : Nat) (r : Record) : State :=
  let off := (fld r.key 0 18).toNat
  let old := (List.range r.pay.length).map fun i => lsWord s c (off + 8 * i)
  let new := updateWords r.op (fun i => Config.freeWord (s.fresh + i)) old r.pay
  lsWrite { s with fresh := s.fresh + r.pay.length } c off (wordsBytes new)

def execUpdateApply (c : Nat) (s : State) : Host.Outcome State Fault Refusal :=
  .next (s.applyNext c kU fun r s => s.update c r)

-- M and T (R156, R163; 16 R266) ----------------------------------------------------------------------------------------------------------

def execMessageDispatch (c : Nat) (s : State) : Host.Outcome State Fault Refusal :=
  .next (s.dispatch c (fun r => r.kind == kM && !isRemote r) fun r s =>
    match freeGeneral s c with
    | some k => s.startMessage c k r
    | none => s)

def execRemoteAccessDispatch (c : Nat) (s : State) : Host.Outcome State Fault Refusal :=
  .next (s.dispatch c (fun r => r.kind == kM && isRemote r) fun r s => s.startRemote c r)

def execTaskDispatch (c : Nat) (s : State) : Host.Outcome State Fault Refusal :=
  .next (s.dispatch c (fun r => r.kind == kT) fun r s => (pushTask s c { r with pay := takePad 0 6 r.pay }).getD s)

def execOrderedLaneRelease (c : Nat) (s : State) : Host.Outcome State Fault Refusal :=
  .next (
    if !present s c then s
    else match laneHead s c, freeGeneral s c with
      | some r, some k =>
        let x := s.getCore c
        (s.setCore c { x with lane := x.lane.tail }).startTask c k r
      | _, _ => s)

def execDequeThreadCreate (c : Nat) (s : State) : Host.Outcome State Fault Refusal :=
  .next (
    let l := (s.getCore c).deque
    if !present s c || !mayCreate s c || (laneHead s c).isSome || messageWaits s c then s
    else match freeGeneral s c, bottomOf s l with
      | some k, some i => match l[i]? with
        | some e => (s.setDeque c (dropAt l i)).startTask c k e.r
        | none => s
      | _, _ => s)

-- Aborts (R162, 16 R272) ------------------------------------------------------------------------------------------------------------------

def execAbortNotice (tag : Half) (s : State) : Host.Outcome State Fault Refusal :=
  .next (
    match findIdx1 (fun n : Notice => n.tag == tag && n.core.isNone) s.notices with
    | none => s
    | some i => { s with notices := dropAt s.notices i }.noticed tag)

def execAbortRelay (c : Nat) (tag : Half) (s : State) : Host.Outcome State Fault Refusal :=
  .next (
    match findIdx1 (fun n : Notice => n.tag == tag && n.core == some c) s.notices with
    | none => s
    | some i =>
      let s := { s with notices := dropAt s.notices i }
      if present s c then s.markAborted c tag else s)

end Sys2Proof.Machine
end

