-- ==== Sys2Proof/Machine/ThreadEvents.lean ====
section
/-! DEFINITION. Events of threads: retirement (01 R9), starvation (16 R277), bells (09 R184) and the park of a pre-empted thread (16 R275, R278). -/

namespace Sys2Proof.Machine

open Sys2Proof

/-- A thread that has executed end retires once its relaxed accesses are complete. -/
def execThreadRetire (c : Nat) (k : Fin 16) (s : State) : Host.Outcome State Fault Refusal :=
  .next (
    let t := s.thread c k
    match t.st with
    | .removed .ending => if t.relaxed.isEmpty then s.retire c k else s
    | _ => s)

-- Starvation (R277) -----------------------------------------------------------------------------------------------------------

/-- Whether something has waited a number of cycles since a cycle. -/
def waited (s : State) (since n : Nat) : Bool := decide (since + n ≤ s.clk)

/-- Whether the lane's head could leave but for a free slot (08 R163). -/
def laneReady (s : State) (c : Nat) (r : Record) : Bool := !isPreempted s r.tag && (!isBarrier r || barrierOpen s c r)
/-- Whether a task of the deque could become a thread but for a free slot. -/
def taskReady (s : State) (e : Entry) : Bool := !isPreempted s e.r.tag

/-- An entry as a cycle begins: the first cycle from which it has been ready. -/
def Entry.note (e : Entry) (now : Nat) (ready : Bool) : Entry := { e with readyAt := if ready then some (e.readyAt.getD now) else none }

/-- A lane as a cycle begins: the head keeps its cycle while it is ready, and nothing behind it is. -/
def noteLane (s : State) (c : Nat) : List (Record × Nat) → List (Record × Nat)
  | [] => []
  | (r, t) :: l => (r, if laneReady s c r then t else s.clk) :: l.map fun p => (p.1, s.clk)

/-- The entries of a pound as a cycle begins: only the oldest message can be ready (08 R155). seen: an older message was met. -/
def noteMessages (s : State) (seen : Bool) : List Entry → List Entry
  | [] => []
  | e :: l =>
    let m : Bool := e.r.kind == kM && !isRemote e.r
    e.note s.clk (m && !seen && messageReady s e) :: noteMessages s (seen || m) l

/-- A core as a cycle begins: since when its work has been ready, and the slots that show in kwd (01 R15). -/
def noteCore (s : State) (c : Nat) (x : Core) : Core :=
  { x with
    lane := noteLane s c x.lane
    kwd := kwdNow x s.clk
    pound := { x.pound with entries := noteMessages s false x.pound.entries }
    deque := x.deque.map fun e => e.note s.clk (taskReady s e) }

/-- Every core as a cycle begins. -/
def State.noteReady (s : State) : State := { s with cores := s.cores.map fun p => (p.1, noteCore s p.1 p.2) }

/-- Whether an entry has been ready for 4,096 cycles. -/
def Entry.overdue (s : State) (e : Entry) : Bool :=
  match e.readyAt with
  | some t => waited s t 4096
  | none => false

/-- Whether the lane's head, a message or a task has been ready for 4,096 cycles, with no general slot free. -/
def starves (s : State) (c : Nat) : Bool :=
  let x := s.getCore c
  (freeGeneral s c).isNone &&
    ((match x.lane with
      | (r, t) :: _ => waited s t 4096 && laneReady s c r
      | [] => false) ||
     ((oldestMessage x.pound.entries false).any fun e => messageReady s e && e.overdue s) ||
     (x.deque.any fun e => taskReady s e && e.overdue s))

def execSlotStarvation (c : Nat) (s : State) : Host.Outcome State Fault Refusal :=
  .next (
    let x := s.getCore c
    if present s c && starves s c && (x.starvedAt == 0 || waited s x.starvedAt 4096) then
      (s.setCore c { x with starvedAt := s.clk }).wakeKeeper c 8
    else s)

-- Bells (R184) -------------------------------------------------------------------------------------------------------------------

/-- Whether a thread takes a bell at this boundary. -/
def Thread.takesBell (t : Thread) : Bool :=
  let atBoundary : Bool := match t.st with
    | .runnable => !t.midway
    | .blocked (.wait _ _) => true
    | _ => false
  atBoundary && t.bh != 0 && !misaligned t.bh && !t.inHandler && t.tow == .none && (failedRelaxed t).isNone

/-- A command whose bell is taken stays outstanding while its element has not been popped (R176). -/
def Port.bellTaken (y : Port) (id : Nat) : Port :=
  let out := y.out.map fun o => if o.cmd = id then { o with bell := false } else o
  { y with out := out.filter fun o => !o.done || o.element || o.bell }

def execBellTaken (c : Nat) (k : Fin 16) (s : State) : Host.Outcome State Fault Refusal :=
  .next (
    let t := s.thread c k
    match t.bells with
    | [] => s
    | (p, id, tid) :: l =>
      if t.takesBell then
        let t := t.setPort p ((t.ports.get p).bellTaken id)
        s.setThread c k { t with bells := l, bpc := t.pc, bid := tid, inHandler := true, pc := t.bh, st := .runnable }
      else s)

-- Pre-emption parks (16 R275, R278) ------------------------------------------------------------------------------------------------

/-- Whether a thread is at a boundary: it has no operation in progress. -/
def Thread.atBoundary (t : Thread) : Bool :=
  match t.st with
  | .runnable => !t.midway
  | .blocked _ => true
  | .removed .held => true
  | _ => false

/-- A thread of slots 2 to 15 at a boundary parks as kpark would; one whose operation is in progress meets the park at its next boundary. -/
def State.preemptThread (s : State) (c : Nat) (k : Fin 16) (tag : Half) : State :=
  let t := s.thread c k
  if 2 ≤ k.val ∧ t.tag = tag ∧ t.atBoundary then s.setThread c k t.kpark else s

def execPreemptionPark (c : Nat) (k : Fin 16) (s : State) : Host.Outcome State Fault Refusal :=
  .next (
    let tag := (s.thread c k).tag
    if present s c && graceOver s tag then s.preemptThread c k tag else s)

end Sys2Proof.Machine
end

