-- ==== Sys2Proof/Machine/EngineEvents.lean ====
section
/-! DEFINITION. The events of the engines: chunks, elements and lines, collectives, multicasts, completion (09 R176-R183; 13 R244, R246; 17
R279-R291). -/

namespace Sys2Proof.Machine

open Sys2Proof

-- Commands in progress (17 R279) ---------------------------------------------------------------------------------------------

/-- The port number of an engine, the sender that its records name, and the die it lies on. -/
def engPort : Eng → Nat
  | .copy _ => 0
  | .gather _ => 1
  | .coll _ => 2
  | .basin _ => 3
def engSender : Eng → Nat
  | .copy cl => senderCopy cl
  | .gather cl => senderGather cl
  | .coll d => senderColl d
  | .basin d => senderBasin d
def engDie : Eng → Nat
  | .copy cl => cl / 32
  | .gather cl => cl / 32
  | .coll d => d
  | .basin d => d

/-- The cluster whose CTU a command's accesses use: the engine's own, or the issuing thread's. -/
def cmdCluster (e : Eng) (m : Cmd) : Nat :=
  match e with
  | .copy cl => cl
  | .gather cl => cl
  | .coll _ => clusterOf m.core
  | .basin _ => clusterOf m.core

/-- Whether a command's tag is aborted: no further chunk of it is performed (17 R279). -/
def cmdAborted (s : State) (m : Cmd) : Bool :=
  (s.launch m.tag).state == 3 || (m.helm.isNone && (s.getCore m.core).marks.contains m.tag)

/-- Replaces the command at a place of an engine. -/
def State.setCmd (s : State) (e : Eng) (n : Nat) (m : Cmd) : State :=
  s.setEngine e { s.engine e with cmds := setAt (s.engine e).cmds n m }

/-- The command at a place of an engine, if it is in progress and its tag is not aborted. -/
def liveCmd (s : State) (e : Eng) (n : Nat) : Option Cmd :=
  match (s.engine e).cmds[n]? with
  | none => none
  | some m => if m.started && !cmdAborted s m then some m else none

/-- Whether a part of a command, by its number, may be performed: it is not done, not parked, and not the one that a failing replay ended. -/
def Cmd.mayDo (m : Cmd) (i : Nat) : Bool := !m.done.contains i && m.parked.map Prod.fst != some i && m.failAt != some i

/-- A part of a command meets a translation fault: the command parks, unless a fault of it is outstanding already; then the part is held
(13 R244). The record names the issuing thread, or slot 0 of core 0 of the performing cluster. -/
def State.parkCmd (s : State) (e : Eng) (n : Nat) (m : Cmd) (i code access dva : Nat) : State :=
  if m.parked.isSome then s
  else
    let cl := cmdCluster e m
    let pager := if m.helm.isSome then coreIn cl 0 else pagerOf m.core
    let ta := if m.helm.isSome then taOf s (coreIn cl 0) 0 else taOf s m.core m.slot
    postFault (s.setCmd e n { m with parked := some (i, dva) }) (engSender e) pager m.asid code access dva
      (waiterField ta true (engPort e) m.index) m.tag

/-- A range of a command: where it lies, or the fault of its first page that does not translate. -/
inductive Placed where
  | at' (h : Home) (s : State)
  | waits
  | fault (s : State) (code dva : Nat)

/-- Translates n bytes at an offset of a place for an access. -/
def placeRange (s : State) (cl asid : Nat) (p : Nat × Nat) (off n access : Nat) : Placed :=
  if p.1 ≠ 3 then .at' (.raw (p.2 + off)) s
  else
    let a := p.2 + off
    match ensurePages s cl asid access (pagesOf a n) with
    | (s, some (c, q)) => .fault s c (max a (q * pageBytes))
    | (s, none) => if dvaBusy s cl asid a n then .waits else .at' (.dva cl asid a) s

/-- Looks a range of a home up in the home-side caches (13 R234). -/
def homeTouch (s : State) (h : Home) (n : Nat) : State :=
  match h with
  | .raw _ => s
  | .dva cl asid a => dvaTouch s (pieces s cl asid a n)
  | .held ps => dvaTouch s (cutPieces ps 0 n)

/-- The home of n bytes as an access that goes on keeps it: with the translation that it was given. -/
def Home.hold (h : Home) (s : State) (n : Nat) : Home :=
  match h with
  | .dva cl asid a => .held (pieces s cl asid a n)
  | h => h

/-- The first write through a translation that was kept sets dirty, at the entry's home and in the copies of the CTU (13 R240). -/
def Home.dirtied (h : Home) (s : State) (cl : Nat) : State :=
  match h with
  | .held ps => ps.foldl (fun s p =>
      if p.1.dirty then s
      else
        let s := orEntry s p.1.entry 0x40
        let x := s.cluster cl
        s.setCluster cl { x with leaves := x.leaves.map fun l => if l.entry = p.1.entry then { l with dirty := true } else l }) s
  | _ => s

/-- Whether a kept home lies on a die whose home-side cache is being flushed: a write to it waits (13 R234). -/
def Home.busy (h : Home) (s : State) : Bool :=
  match h with
  | .held ps => piecesBusy s ps
  | _ => false

/-- Marks lines of physical pieces as poisoned. -/
def markPieces (s : State) : List (Leaf × Nat × Nat) → State
  | [] => s
  | (_, a, n) :: l => markPieces (markRange s a n) l

/-- Marks every line that a range of a home touches as poisoned. -/
def homeMark (s : State) (h : Home) (off n : Nat) : State :=
  match h with
  | .raw a => markRange s (a + off) n
  | .dva cl asid a => markPieces s (pieces s cl asid (a + off) n)
  | .held ps => markPieces s (cutPieces ps off n)

/-- A unit of a chunk carries its poison mark before the chunk has been written whole, when its lines are marked and counted. -/
def homeShade (s : State) (h : Home) (off : Nat) : State :=
  match h with
  | .raw a => { s with poison := insertNat s.poison ((a + off) / 64) }
  | .dva _ _ _ => s
  | .held ps => { s with poison := (cutPieces ps off 1).foldl (fun l p => insertNat l (p.2.1 / 64)) s.poison }

/-- Two ranges translated, source first: both homes, or what stops the part. -/
inductive Both where
  | at' (src dst : Home) (s : State)
  | waits
  | fault (s : State) (code access dva : Nat)

/-- Translates a source and a destination of a part. access is the kind of the destination's access. -/
def placeBoth (s : State) (cl asid : Nat) (p q : Nat × Nat) (po pn qo qn access : Nat) : Both :=
  match placeRange s cl asid p po pn 0 with
  | .fault s c a => .fault s c 0 a
  | .waits => .waits
  | .at' h s =>
    match placeRange s cl asid q qo qn access with
    | .fault s c a => .fault s c access a
    | .waits => .waits
    | .at' g s => .at' h g s

/-- A place of a command's ranges. -/
def Cmd.range (m : Cmd) (i : Nat) : Nat × Nat := nthD (0, 0) m.ranges i

-- Copies (R280, R281, R289) ---------------------------------------------------------------------------------------------------------

/-- Bytes of a copy. -/
def Cmd.copyLen (m : Cmd) : Nat := if m.helm.isSome then m.limit else (blkWord m.words 4).toNat

/-- The chunks of a copy of n bytes to an address: their number, and the offset and bytes of one. -/
def chunkCount (a n : Nat) : Nat := if n = 0 then 0 else (a + n - 1) / 4096 - a / 4096 + 1
def chunkOff (a i : Nat) : Nat := if i = 0 then 0 else (a / 4096 + i) * 4096 - a
def chunkLen (a n i : Nat) : Nat := min n ((a / 4096 + i + 1) * 4096 - a) - chunkOff a i

/-- Adds mismatches to the chunk-check counter of a die. -/
def countChecks (s : State) (d n : Nat) : State :=
  iter (fun _ s => s.setDie d { s.die d with chunks := satInc (s.die d).chunks }) n s

/-- The lines, at a destination address d, that get poison from the n bytes of a source: each once. -/
def badLines (s : State) (src : Home) (d n : Nat) : List Nat :=
  if s.poison.isEmpty then []
  else (((List.range n).filter fun i => homePoisoned s src i 1).map fun i => (d + i) / 64).eraseDups

/-- Marks lines of a range that lies at a destination address d. -/
def markLines (dst : Home) (d : Nat) (ls : List Nat) (s : State) : State := ls.foldl (fun s l => homeMark s dst (64 * l - d) 1) s

/-- Clears the poison of every line that a range of a home covers whole (21 R320). -/
def homeClean (s : State) (h : Home) (n : Nat) : State :=
  let ps : List (Nat × Nat) := match h with
    | .raw a => [(a, n)]
    | .dva cl asid a => (pieces s cl asid a n).map Prod.snd
    | .held ps => ps.map Prod.snd
  { s with poison := s.poison.filter fun l => !(ps.any fun p => decide (p.1 ≤ l * 64 ∧ l * 64 + 64 ≤ p.1 + p.2)) }

/-- A poisoned source is read, or a check fails twice: source 65 fires for the former, and the status becomes 7. -/
def Cmd.poisoned (m : Cmd) : Cmd := { m with status := 7 }

/-- The wake of a chunk: operator 6, event bit chunk mod 64 (R289). -/
def chunkWake (m : Cmd) (i : Nat) : Record :=
  let ta : BitVec 20 := fld (blkWord m.words 5) 0 20
  mkRec ta kW 6 m.tag ((fld ta 0 4 : BitVec 4).setWidth 64) [(1 : Word) <<< (i % 64)]

/-- The 8-byte units of a chunk of n bytes at a destination address, and the offset and bytes of one (R280). -/
def unitCount (d n : Nat) : Nat := if n = 0 then 0 else (d + n - 1) / 8 - d / 8 + 1
def unitOff (d u : Nat) : Nat := 8 * (d / 8 + u) - d
def unitLen (d n u : Nat) : Nat := min n (8 * (d / 8 + u + 1) - d) - unitOff d u

/-- Chunks, or elements, that the commands of an engine have in flight: at most 8 (R280). -/
def Engine.inFlight (x : Engine) : Nat := (x.cmds.map fun m => (m.flight.map Chunk.no).eraseDups.length).sum

/-- Whether a command has a part in flight. -/
def Cmd.flies (m : Cmd) (i : Nat) : Bool := m.flight.any fun x => x.no == i

/-- A chunk is read whole: mismatches says how many of its checks fail, of the first read and of the second (R281). -/
def State.readChunk (s : State) (e : Eng) (n : Nat) (m : Cmd) (i : Nat) (mismatches : Nat) (src dst : Home) (d len : Nat) : State :=
  let bad := homePoisoned s src 0 len
  let all : Bool := decide (2 ≤ mismatches)
  let c : Chunk :=
    { no := i, bytes := homeRead s src 0 len, left := List.range (unitCount d len), dst := dst.hold s len
      bad := if all then (List.range ((d + len - 1) / 64 - d / 64 + 1)).map (fun j => d / 64 + j) else badLines s src d len }
  let s := countChecks (homeTouch s src len) (engDie e) (min mismatches 2)
  let s := if bad then fire s 65 else s
  s.setCmd e n { (if bad || all then m.poisoned else m) with flight := m.flight ++ [c] }

/-- The bytes of a unit of a chunk go to their home, with their poison mark. -/
def State.putUnit (s : State) (cl : Nat) (c : Chunk) (u d : Nat) : State :=
  let len := c.bytes.length
  let s := if c.left.length = unitCount d len then c.dst.dirtied s cl else s
  let s := homeWrite s c.dst (unitOff d u) ((c.bytes.drop (unitOff d u)).take (unitLen d len u))
  if c.bad.contains ((d + unitOff d u) / 64) then homeShade s c.dst (unitOff d u) else s

/-- A unit of a chunk, whose destination address is d, is written. With the last one, the chunk's lines lose or get their poison marks, and the part
is performed unless it still goes to another core: a copy with the wake bit posts its wake (R289). -/
def State.writeUnit (s : State) (e : Eng) (n : Nat) (m : Cmd) (c : Chunk) (u d : Nat) : State :=
  let len := c.bytes.length
  let s := s.putUnit (cmdCluster e m) c u d
  let left := c.left.filter (· != u)
  let others := m.flight.filter fun x => x.no != c.no || x.core != c.core
  if left.isEmpty then
    let s := markLines c.dst d c.bad (homeClean (homeTouch s c.dst len) c.dst len)
    let s := s.setCmd e n { m with flight := others, done := if others.any (fun x => x.no == c.no) then m.done else c.no :: m.done }
    if m.helm.isSome && !m.isCopy && bit (blkWord m.words 5) 20 then s.post (engSender e) (chunkWake m c.no) else s
  else s.setCmd e n { m with flight := { c with left := left } :: others }

/-- An engine writes an 8-byte unit of a chunk that it has read, whose destination address is d, to a core (0 but for a multicast): the units of
a chunk go in any order (R280, 14 R256), and an abort lets the chunk end (R279). -/
def State.unitWritten (s : State) (e : Eng) (n : Nat) (i core u : Nat) (d : Cmd → Nat) : State :=
  match (s.engine e).cmds[n]? with
  | none => s
  | some m =>
    match m.flight.find? fun x => x.no == i && x.core == core with
    | none => s
    | some c => if m.started && c.left.contains u && !c.dst.busy s then s.writeUnit e n m c u (d m) else s

/-- Whether a command of a copy engine is a multicast (R287). -/
def Cmd.isMulticast (m : Cmd) : Bool := m.helm.isSome && !m.isCopy && m.opcode == 1

/-- The destination address of a chunk of a command. -/
def Cmd.chunkAt (i : Nat) (m : Cmd) : Nat := (m.range 1).2 + chunkOff (m.range 1).2 i

/-- A copy engine reads a chunk, up to 8 at a time, or writes one 8-byte unit of a chunk that it has read: chunks go in any order (R280). -/
def execCopyChunk (cl n chunk : Nat) (part : ChunkPart) (s : State) : Host.Outcome State Fault Refusal :=
  .next (
    let e : Eng := .copy cl
    match part with
    | .write piece => s.unitWritten e n chunk 0 piece (Cmd.chunkAt chunk)
    | .read mismatches =>
      match liveCmd s e n with
      | none => s
      | some m =>
        let a := (m.range 1).2
        let off := chunkOff a chunk
        let len := chunkLen a m.copyLen chunk
        if m.isMulticast || !m.mayDo chunk || m.flies chunk || decide (chunkCount a m.copyLen ≤ chunk ∨ 8 ≤ (s.engine e).inFlight) then s
        else match placeBoth s cl m.asid (m.range 0) (m.range 1) off len off len 1 with
          | .waits => s
          | .fault s c x dva => s.parkCmd e n m chunk c x dva
          | .at' src dst s => s.readChunk e n m chunk mismatches.toNat src dst (a + off) len)

-- Gather and scatter (R178, R282) -----------------------------------------------------------------------------------------------------

/-- The elements of a gather or scatter, their size, and whether it gathers. -/
def Cmd.count (m : Cmd) : Nat := (fld (blkWord m.words 5) 0 32 : W32).toNat
def Cmd.elem (m : Cmd) : Nat := elemSize (fld (blkWord m.words 5) 32 3).toNat
def Cmd.gathers (m : Cmd) : Bool := m.opcode == 0

/-- Bytes that remain from a place to the top of its tier: an element beyond it is out of range too (log entry 39). -/
def placeRoom (s : State) (p : Nat × Nat) : Nat :=
  match p.1 with
  | 0 => localBytes - (p.2 - 2 ^ 52) % localBytes
  | 2 => basinBytes - (s.die ((p.2 - basinBase) / basinBytes)).size * 0x100000 - (p.2 - basinBase) % basinBytes
  | _ => 2 ^ 52 - p.2

/-- Reads the index words up to that of element i, in ascending order (R282); a poisoned one makes the status 7 (R181; 21 R320). The Bool says
whether that one has been read. The last argument is at least the number still to read. -/
def readIndexes (s : State) (cl n i : Nat) : Nat → Bool × State
  | 0 => (true, s)
  | f + 1 =>
    match (s.engine (.gather cl)).cmds[n]? with
    | none => (false, s)
    | some m =>
      let j := m.idx.length
      if i < j then (true, s)
      else match placeRange s cl m.asid (m.range 0) (4 * j) 4 0 with
        | .waits => (false, s)
        | .fault s c dva => (false, s.parkCmd (.gather cl) n m j c 0 dva)
        | .at' h s =>
          let bad := homePoisoned s h 0 4
          let s1 := (homeTouch s h 4).setCmd (.gather cl) n
            { (if bad then m.poisoned else m) with idx := m.idx ++ [(bytesNat (homeRead s h 0 4), bad)] }
          readIndexes (if bad then fire s1 65 else s1) cl n i f

/-- Whether a scatter's element waits for one before it that has the same index. -/
def scatterWaits (m : Cmd) (i : Nat) : Bool :=
  !m.gathers && (List.range i).any fun j =>
    !m.done.contains j && (m.idx[j]?).map Prod.fst == (m.idx[i]?).map Prod.fst

/-- Copies one element of at most 8 bytes, or reads one of 64, to be written by 8-byte units (14 R256); poison of the index or the source goes with
it, and the status becomes 7 (R181, R320). DESIGN CHOICE (log entry 54): where one command also skips an index, status 7 stands before status 1. -/
def State.movePart (s : State) (e : Eng) (n : Nat) (m : Cmd) (i : Nat) (badIndex : Bool) (src dst : Home) (len : Nat) : State :=
  let poison := homePoisoned s src 0 len
  let bad := badIndex || poison
  let bytes := homeRead s src 0 len
  let m := if bad then m.poisoned else m
  let s1 := if poison then fire (homeTouch s src len) 65 else homeTouch s src len
  if len ≤ 8 then
    let s1 := homeWrite (homeTouch s1 dst len) dst 0 bytes
    (if bad then homeMark s1 dst 0 len else s1).setCmd e n { m with done := i :: m.done }
  else
    s1.setCmd e n { m with flight := m.flight ++ [
      { no := i, bytes := bytes, bad := if bad then [0] else [], left := List.range (unitCount 0 len), dst := dst.hold s len }] }

/-- A gather engine performs an element, whose index has been read: it is copied, or skipped if it lies out of range (R178, R282). -/
def State.element (s : State) (cl n i : Nat) (m : Cmd) : State :=
  let e : Eng := .gather cl
  let z := m.elem
  let (x, badIndex) := (m.idx[i]?).getD (0, false)
  if scatterWaits m i then s
  else if min m.limit (placeRoom s (m.range 2)) < x * z + z then
    s.setCmd e n { m with status := if m.status = 0 then 1 else m.status, done := i :: m.done }
  else
    let src := if m.gathers then m.range 2 else m.range 1
    let dst := if m.gathers then m.range 1 else m.range 2
    match placeBoth s cl m.asid src dst (if m.gathers then x * z else i * z) z (if m.gathers then i * z else x * z) z 1 with
    | .waits => s
    | .fault s c a dva => s.parkCmd e n m i c a dva
    | .at' src dst s => s.movePart e n m i badIndex src dst z

/-- A gather engine performs an element, or writes a unit of one: elements go in any order, their indexes are read in ascending order. -/
def execGatherElement (cl n : Nat) (el : ElementPart) (s : State) : Host.Outcome State Fault Refusal :=
  .next (
    match el.unit with
    | some u => s.unitWritten (.gather cl) n el.no 0 u fun _ => 0
    | none =>
      match liveCmd s (.gather cl) n with
      | none => s
      | some m =>
        if !m.mayDo el.no || m.flies el.no || decide (m.count ≤ el.no) then s
        else match readIndexes s cl n el.no (el.no + 1) with
          | (false, s) => s
          | (true, s) => match (s.engine (.gather cl)).cmds[n]? with
            | none => s
            | some m => s.element cl n el.no m)

-- Basin operations (R283) ------------------------------------------------------------------------------------------------------------------

/-- A bank operation by its code. -/
def bopNumbered (n : Nat) : BopOp :=
  match n with
  | 0 => .addI32
  | 1 => .addF32
  | 2 => .addBf16
  | 3 => .maxF32
  | 4 => .maxBf16
  | _ => .minF32

/-- Applies a source line to a destination line at its bank, all lanes enabled; poison of either stays with the result (R181). -/
def State.linePart (s : State) (e : Eng) (n : Nat) (m : Cmd) (i : Nat) (src dst : Home) : State :=
  let bad := homePoisoned s src 0 64 || homePoisoned s dst 0 64
  let op := bopNumbered (fld (blkWord m.words 5) 0 4).toNat
  let new := bopLine op (BitVec.allOnes 64) (lineVec (homeRead s dst 0 64)) (lineVec (homeRead s src 0 64))
  let s1 := homeWrite (homeTouch s src 64) dst 0 (natBytes 64 new.toNat)
  let s1 := if bad then fire (homeMark s1 dst 0 64) 65 else s1
  s1.setCmd e n { (if bad then m.poisoned else m) with done := i :: m.done }

/-- The Basin operation engine performs a line. -/
def execBasinOpLine (die n line : Nat) (s : State) : Host.Outcome State Fault Refusal :=
  .next (
    let e : Eng := .basin die
    match liveCmd s e n with
    | none => s
    | some m =>
      if !m.mayDo line || decide ((blkWord m.words 4).toNat / 64 ≤ line) then s
      else match placeBoth s (cmdCluster e m) m.asid (m.range 0) (m.range 1) (64 * line) 64 (64 * line) 64 2 with
        | .waits => s
        | .fault s c a dva => s.parkCmd e n m line c a dva
        | .at' src dst s => s.linePart e n m line src dst)

-- Collectives (R285, R286) --------------------------------------------------------------------------------------------------------------------

/-- Fields of an all-reduce. -/
def Cmd.collType (m : Cmd) : BitVec 2 := fld (blkWord m.words 5) 0 2
def Cmd.collOp (m : Cmd) : BitVec 2 := fld (blkWord m.words 5) 2 2
def Cmd.mask (m : Cmd) : Half := fld (blkWord m.words 5) 16 16
def Cmd.elems (m : Cmd) : Nat := (blkWord m.words 4).toNat

/-- The devices of a mask other than this one, ascending. -/
def otherDevices (s : State) (m : Cmd) : List Nat :=
  (List.range 16).filter fun d => bit m.mask d && d != s.wharf.device.toNat

/-- Whether a mask omits this device, or names one that no valid routing entry reaches (log entry 23). -/
def maskRefused (s : State) (m : Cmd) : Bool :=
  !bit m.mask s.wharf.device.toNat || (otherDevices s m).any fun d => (route s d).isNone

/-- Whether the ring of a mask uses a link that is down. -/
def ringDown (s : State) (m : Cmd) : Bool :=
  (otherDevices s m).any fun d => match route s d with
    | some p => s.wharf.linksDown.contains p
    | none => false

/-- The shares of the mask's other devices, one each and in ascending order, or none: commands match by transfer id and device mask (R285). -/
def sharesOf (m : Cmd) (ds : List Nat) (peers : List PeerShare) : Option (List PeerShare) :=
  match ds with
  | [] => some []
  | d :: l =>
    match peers.find? (fun p => p.device.toNat == d && p.id == fld (blkWord m.words 0) 0 32 && p.mask == m.mask), sharesOf m l peers with
    | some p, some r => some (p :: r)
    | _, _ => none

/-- One step of the fold: f32 and bf16 by R60 and R61, i32 modulo 2^32. -/
def collStep (typ op : Nat) (a b : W32) : W32 :=
  if typ = 2 then
    (match op with
     | 0 => a + b
     | 1 => laneMax a b
     | _ => laneMin a b)
  else
    BitVec.ofNat 32 (match op with
      | 0 => fF32.addOf a.toNat b.toNat
      | 1 => fF32.maxOf a.toNat b.toNat
      | _ => fF32.minOf a.toNat b.toNat)

/-- An element as the fold takes it: bf16 widens exactly to f32. -/
def collWiden (typ : Nat) (x : W32) : W32 := if typ = 1 then (fld x 0 16 : Half) ++ (0 : Half) else x

/-- The result of a fold: NaN canonical, bf16 rounded once. -/
def collNarrow (typ : Nat) (x : W32) : W32 :=
  match typ with
  | 0 => BitVec.ofNat 32 (fF32.pack .rne (fF32.value x.toNat))
  | 1 => BitVec.ofNat 32 (fBf16.pack .rne (fF32.value x.toNat))
  | _ => x

/-- The fold of the elements of the devices of a mask, in ascending order. -/
def collFold (typ op : Nat) : List W32 → W32
  | [] => 0
  | x :: l => collNarrow typ ((l.map (collWiden typ)).foldl (collStep typ op) (collWiden typ x))

/-- The elements number j of every device, ascending: this device's among the others'. -/
def collColumn (own : Nat) (mine : W32) (peers : List PeerShare) (j : Nat) : List W32 :=
  (peers.filter fun p => p.device.toNat < own).map (fun p => nthD 0 p.elems j) ++ [mine] ++
    (peers.filter fun p => own < p.device.toNat).map (fun p => nthD 0 p.elems j)

/-- The bytes of n elements of the result from element j on, from the own elements' bytes. -/
def collBytes (own typ op : Nat) (src : List Byte) (peers : List PeerShare) (j n : Nat) : List Byte :=
  let z := collSize typ
  (List.range n).flatMap fun i =>
    natBytes z (collFold typ op (collColumn own (BitVec.ofNat 32 (bytesNat ((src.drop (z * i)).take z))) peers (j + i))).toNat

/-- Bytes of an all-reduce, and its parts: chunks of the destination. -/
def Cmd.collLen (m : Cmd) : Nat := m.elems * collSize m.collType.toNat
def Cmd.collParts (m : Cmd) : List Nat := List.range (chunkCount (m.range 1).2 m.collLen)

/-- A collective ends with a status. -/
def State.endColl (s : State) (e : Eng) (n : Nat) (m : Cmd) (status : Nat) : State :=
  s.setCmd e n { m with status := status, done := m.collParts, flight := [], parked := none }

/-- Whether a collective has still something to do. -/
def Cmd.collOpen (m : Cmd) : Bool := m.elems != 0 && !m.collParts.all (m.done.contains ·)

/-- A chunk of a matched all-reduce is read and reduced, up to 8 at a time; it is written unit by unit (14 R256). -/
def State.reduceChunk (s : State) (e : Eng) (n : Nat) (m : Cmd) (i : Nat) : State :=
  let a := (m.range 1).2
  let off := chunkOff a i
  let len := chunkLen a m.collLen i
  let z := collSize m.collType.toNat
  if m.shares.isNone || !m.mayDo i || m.flies i || decide (m.collParts.length ≤ i ∨ 8 ≤ (s.engine e).inFlight) then s
  else match placeBoth s (cmdCluster e m) m.asid (m.range 0) (m.range 1) off len off len 1 with
    | .waits => s
    | .fault s c x dva => s.parkCmd e n m i c x dva
    | .at' src dst s =>
      let bad := homePoisoned s src 0 len
      let c : Chunk :=
        { no := i, left := List.range (unitCount (a + off) len), bad := badLines s src (a + off) len, dst := dst.hold s len
          bytes := collBytes s.wharf.device.toNat m.collType.toNat m.collOp.toNat (homeRead s src 0 len) (m.shares.getD []) (off / z) (len / z) }
      let s1 := homeTouch s src len
      (if bad then fire s1 65 else s1).setCmd e n { (if bad then m.poisoned else m) with flight := m.flight ++ [c] }

/-- Whether the submissions of an all-reduce lie 10 ms or more apart: the last came too late (R285). -/
def tooLate (s : State) (m : Cmd) (ps : List PeerShare) : Bool :=
  let at' := ps.map fun p => min p.since s.mtime
  decide (at'.foldl min m.since + 1000000 ≤ at'.foldl max m.since)

/-- Every device of the mask has submitted: the all-reduce matches, or is refused. -/
def State.submitted (s : State) (e : Eng) (n : Nat) (m : Cmd) (peers : List PeerShare) : State :=
  if m.shares.isSome then s
  else match sharesOf m (otherDevices s m) peers with
    | none => s
    | some ps =>
      if tooLate s m ps || ps.any fun p => p.typ != m.collType || p.op != m.collOp || p.count.toNat != m.elems then s.endColl e n m 4
      else if ps.any fun p => p.elems.length != m.elems then s
      else s.setCmd e n { m with shares := some ps }

/-- What a collective engine does: it matches a command, reads and reduces a chunk, or writes a unit. A mask that is refused ends it with status 4,
a link of the ring that fails with 5: of this device, or between two other devices of the mask, which the ring reports (R285; log entry 23). -/
def execCollectiveMatch (die n : Nat) (part : CollPart) (s : State) : Host.Outcome State Fault Refusal :=
  .next (
    let e : Eng := .coll die
    match part with
    | .write chunk piece => s.unitWritten e n chunk 0 piece (Cmd.chunkAt chunk)
    | part =>
      match liveCmd s e n with
      | none => s
      | some m =>
        if !m.collOpen then s
        else if m.shares.isNone && maskRefused s m then s.endColl e n m 4
        else if ringDown s m then s.endColl e n m 5
        else match part with
          | .submitted peers => s.submitted e n m peers
          | .linkFailed => if 2 ≤ (otherDevices s m).length then s.endColl e n m 5 else s
          | .read chunk => s.reduceChunk e n m chunk
          | .write _ _ => s)

/-- 10 ms have passed since the first submission, which may be another device's, and the command has not matched. late holds the mtime of the
earliest submission that the ring reports (log entry 23). -/
def execCollectiveTimeout (die : Nat) (late : Late) (s : State) : Host.Outcome State Fault Refusal :=
  .next (
    let e : Eng := .coll die
    match liveCmd s e late.n with
    | none => s
    | some m =>
      if m.done.isEmpty && m.shares.isNone && m.elems != 0 && decide (min late.first m.since + 1000000 ≤ s.mtime) then
        s.endColl e late.n m 4
      else s)

-- Multicasts (R288) -----------------------------------------------------------------------------------------------------------------------------

/-- The present cores of a multicast's round: those of the core mask in the clusters of a mask. -/
def castCores (s : State) (die : Nat) (m : Cmd) (clusters : BitVec 24) : List Nat :=
  ((List.range 384).filter fun i => bit clusters (i / 16) && bit (fld (blkWord m.words 4) 24 16 : Half) (i % 16)).map
    (fun i => coreIn (die * 32 + i / 16) (i % 16)) |>.filter (present s)

/-- The cores of the refusals of a list, as a mask of clusters. -/
def refusalMask (l : List Nat) : BitVec 24 := l.foldl (fun w c => w ||| (1 : BitVec 24) <<< clusterIn c) 0

/-- A chunk of len bytes, number i, on its way to a core's local store at an offset d, with its poison, or poisoned whole. -/
def castTo (s : State) (src : Home) (d len i : Nat) (all : Bool) (c : Nat) : Chunk :=
  { no := i, bytes := homeRead s src 0 len, left := List.range (unitCount d len), core := c, dst := .raw (lsKey c d)
    bad := if all then (List.range ((d + len - 1) / 64 - d / 64 + 1)).map (fun j => d / 64 + j) else badLines s src d len }

/-- Chunk i of a multicast's round is read once and goes to each core of the round. A core that refuses it keeps its bytes, or in the last round gets
it poisoned. -/
def State.castRead (s : State) (cl n : Nat) (m : Cmd) (i : Nat) (cores refusing : List Nat) : State :=
  let off := chunkOff (m.range 1).2 i
  let len := chunkLen (m.range 1).2 m.copyLen i
  match placeRange s cl m.asid (m.range 0) off len 0 with
  | .waits => s
  | .fault s c dva => s.parkCmd (.copy cl) n m i c 0 dva
  | .at' src s =>
    let no := cores.filter (refusing.contains ·)
    let last : Bool := m.rounds == 3
    let bad := homePoisoned s src 0 len
    let goes := cores.filter fun c => last || !no.contains c
    let s1 := countChecks (homeTouch s src len) (cl / 32) no.length
    (if bad then fire s1 65 else s1).setCmd (.copy cl) n { (if bad || (last && !no.isEmpty) then m.poisoned else m) with
      refusing := m.refusing ||| refusalMask no
      flight := m.flight ++ goes.map fun c => castTo s src ((m.range 1).2 + off) len i (no.contains c) c
      done := if goes.isEmpty then i :: m.done else m.done }

/-- A round of a multicast is over once every chunk has gone out: it was the last, or the next one serves the clusters that refused. -/
def endRound (cl n : Nat) (s : State) : State :=
  match liveCmd s (.copy cl) n with
  | none => s
  | some m =>
    if (List.range (chunkCount (m.range 1).2 m.copyLen)).all (m.done.contains ·) then
      let ended := m.refusing == 0 || m.rounds == 3
      s.setCmd (.copy cl) n { m with refused := m.refusing, refusing := 0, rounds := m.rounds + 1, done := if ended then m.done else [] }
    else s

/-- A round of a multicast goes on: a chunk that has not gone out in it is read, up to 8 at a time, or a unit of one is written to a core. -/
def execMulticastRound (cl n : Nat) (part : CastPart) (s : State) : Host.Outcome State Fault Refusal :=
  .next (
    match part with
    | .write chunk core piece => endRound cl n (s.unitWritten (.copy cl) n chunk core piece (Cmd.chunkAt chunk))
    | .read chunk refusing =>
      match liveCmd s (.copy cl) n with
      | none => s
      | some m =>
        if !m.isMulticast || !m.mayDo chunk || m.flies chunk || decide (chunkCount (m.range 1).2 m.copyLen ≤ chunk ∨ 8 ≤ (s.engine (.copy cl)).inFlight)
        then s
        else
          let cores := castCores s (cl / 32) m (if m.rounds = 0 then fld (blkWord m.words 4) 0 24 else m.refused)
          endRound cl n (s.castRead cl n m chunk cores refusing))

-- Completion (09 R176, R180; 16 R269) -------------------------------------------------------------------------------------------------------------

/-- The parts of a command. -/
def cmdParts (e : Eng) (m : Cmd) : Nat :=
  match e with
  | .copy _ => chunkCount (m.range 1).2 m.copyLen
  | .gather _ => m.count
  | .coll _ => m.collParts.length
  | .basin _ => (blkWord m.words 4).toNat / 64

/-- The status of a command that ends now, if it does. The parts in flight are written first, and a completion record that has faulted is
outstanding. Then it ends aborted, ended by a failing replay with the work below it done, or done whole. -/
def endStatus (s : State) (e : Eng) (m : Cmd) : Option Nat :=
  if !m.started || !m.flight.isEmpty || m.parked.map Prod.fst == some (cmdParts e m) then none
  else if cmdAborted s m then some 3
  else match m.failAt with
    | some i => if (List.range (min i (cmdParts e m))).all (m.done.contains ·) then some 2 else none
    | none => if m.parked.isNone && (List.range (cmdParts e m)).all (m.done.contains ·) then some m.status else none

/-- A completion element (R180). -/
def elementWord (e : Eng) (m : Cmd) (status : Nat) : Word :=
  (1 : BitVec 1) ++ (0 : BitVec 7) ++ BitVec.ofNat 8 status ++ BitVec.ofNat 4 (engPort e) ++ (0 : BitVec 12) ++ (fld (blkWord m.words 0) 0 32 : W32)

/-- The store of a completion element at a local-store address; one on another device is no memory of this one. -/
def State.storeWord (s : State) (a v : Word) : State :=
  if a = 0 ∨ (fld a 60 4 : BitVec 4) ≠ s.wharf.device ∨ !present s (fld a 48 12).toNat then s
  else setLsWord s (fld a 48 12).toNat (fld a 0 18).toNat v

/-- The C record of a command's counter. -/
def State.postCounterOf (s : State) (sender : Nat) (tag : Half) (a : Word) : State :=
  if a = 0 then s else s.post sender (mkRec (coreTa (fld a 48 16)) kC 1 tag a [1])

/-- A command retires: at the core that pushed it, or with the launch unit for a copy of a launch record or a fenced core. -/
def State.retireCmd (s : State) (m : Cmd) : State :=
  if m.isCopy then s.countOwn m.tag 0 1
  else if m.helm.isSome then s
  else if present s m.core then s.count m.core m.tag 0 1 else s.countOwn m.tag 0 1

/-- A thread's side of a completion: its element, its bell, and the place of the command among those outstanding. -/
def Thread.delivered (t : Thread) (p : Fin 4) (id : Nat) (word : Word) : Thread :=
  let y := t.ports.get p
  match y.out.find? fun o => o.cmd == id with
  | none => t
  | some o =>
    let out := y.out.map fun o => if o.cmd = id then { o with done := true } else o
    let t := t.setPort p
      { y with out := out.filter (fun o => !o.done || o.element || o.bell),
               elems := if o.element then y.elems ++ [(id, word)] else y.elems }
    if o.bell then { t with bells := t.bells ++ [(p, id, fld word 0 32)] } else t

/-- Delivers a completion to the slot of its command; a thread that awaits an element issues its instruction again, which ends its operation (R182). -/
def State.deliverCmd (s : State) (m : Cmd) (word : Word) : State :=
  if m.orphan || m.helm.isSome then s
  else
    let p : Fin 4 := Fin.ofNat 4 m.port
    let t := (s.thread m.core m.slot).delivered p m.id word
    let s := s.setThread m.core m.slot t
    match t.st with
    | .removed (.pop q) =>
      if q = p ∧ !(t.ports.get p).elems.isEmpty then s.setThread m.core m.slot { t with st := .runnable, midway := true } else s
    | _ => s

/-- Where the completion record of a helm command goes, 16 bytes at the DVA of word 7 (R287); none without one. -/
def recordAt (s : State) (e : Eng) (m : Cmd) : Option Placed :=
  let a := (fld (blkWord m.words 7) 0 52).toNat
  if m.helm.isNone || m.isCopy || a == 0 then none else some (placeRange s (cmdCluster e m) m.asid (3, a) 0 16 1)

/-- The completion of a command, in the order of R180. -/
def State.endCmd (s : State) (e : Eng) (n : Nat) (m : Cmd) (word : Word) : State :=
  let x := s.engine e
  let s := s.setEngine e ({ x with cmds := dropAt x.cmds n } : Engine).fill
  let s := if m.helm.isSome then s else s.storeWord (blkWord m.words 7) word
  let s := if m.isCopy then s else s.postCounterOf (engSender e) m.tag (blkWord m.words 6)
  (s.retireCmd m).deliverCmd m word

/-- The journal entry of a collective that ends: aborted with status 3, else done (21 R322; log entry 39). -/
def State.endJournal (s : State) (e : Eng) (m : Cmd) (status : Nat) : State :=
  match e with
  | .coll _ => (restatus s m.j (if status = 3 then stAborted else stDone)).2
  | _ => s

/-- Whether a failing replay has ended a command's completion record, its last part. -/
def Cmd.recordLost (m : Cmd) (parts : Nat) : Bool := m.failAt == some parts || m.done.contains parts

/-- An engine's command completes. A helm command whose completion record faults parks for it as its last part, unless another fault of it is
outstanding (13 R244; log entry 39). -/
def execEngineCommandComplete (eng : Eng) (n : Nat) (s : State) : Host.Outcome State Fault Refusal :=
  .next (
    match (s.engine eng).cmds[n]? with
    | none => s
    | some m =>
      match endStatus s eng m with
      | none => s
      | some st =>
        let word := elementWord eng m st
        if m.recordLost (cmdParts eng m) then s.endCmd eng n m word
        else match recordAt s eng m with
          | none => (s.endCmd eng n m word).endJournal eng m st
          | some .waits => s
          | some (.fault s c a) => s.parkCmd eng n m (cmdParts eng m) c 1 a
          | some (.at' h s) => (homeWrite (homeTouch s h 16) h 0 (wordsBytes [word, m.refused.setWidth 64])).endCmd eng n m word)

-- The allocator (R290, R291) --------------------------------------------------------------------------------------------------------------------------

def execAllocatorRefill (die pool : Nat) (s : State) : Host.Outcome State Fault Refusal :=
  .next (refill s die pool)

def execAllocatorSpill (die pool : Nat) (s : State) : Host.Outcome State Fault Refusal :=
  .next (spillPool s die pool)

def execAllocatorReload (die pool : Nat) (s : State) : Host.Outcome State Fault Refusal :=
  .next (if pool < 256 ∧ !reloadBusy s die pool then reloadPool s die pool else s)

end Sys2Proof.Machine
end

