-- ==== Sys2Proof/Machine/LaunchEvents.lean ====
section
/-! DEFINITION. The launch unit and the spread of work: load figures, stealing and levelling (16 R267, R268), launches and copies (R263-R265),
termination (R269-R271, 10 R223), deadlines and pre-emption (R274, R275), and the home-side cache's size (13 R234). -/

namespace Sys2Proof.Machine

open Sys2Proof

-- Load figures, stealing, levelling (R267, R268) ---------------------------------------------------------------------------------

/-- T and M records that wait in a pound. -/
def waitingWork (x : Core) : Nat := x.pound.entries.countP fun e => e.r.kind == kT || e.r.kind == kM

/-- Occupied general slots. -/
def busySlots (x : Core) : Nat := (x.slots.toList.drop 2).countP fun t => t.st != .empty

/-- The load figure of a core. -/
def loadFigure (x : Core) : Nat := busySlots x + x.deque.length + x.lane.length + waitingWork x

/-- A core's figure reaches a list of neighbours. -/
def tellFigure (s : State) (c f : Nat) : List Nat → State
  | [] => s
  | n :: l => tellFigure (s.setCore n { s.getCore n with figures := SMap.set (s.getCore n).figures c f }) c f l

def execLoadFigureReport (c : Nat) (s : State) : Host.Outcome State Fault Refusal :=
  .next (
    let x := s.getCore c
    if present s c && waited s x.reportedAt 256 then
      let f := loadFigure x
      let s := tellFigure (s.setCore c { x with reportedAt := s.clk }) c f (presentNeighbours s c)
      { s with wharf := { s.wharf with figures := SMap.set s.wharf.figures c f } }
    else s)

/-- Whether a core is idle. -/
def isIdle (s : State) (c : Nat) : Bool :=
  let x := s.getCore c
  (freeGeneral s c).isSome && x.deque.isEmpty && x.lane.isEmpty && waitingWork x == 0

/-- The neighbour that a core asks next: the first at or above its cursor, wrapping. -/
def nextVictim (s : State) (c : Nat) : Option Nat :=
  match (presentNeighbours s c).find? fun n => decide ((s.getCore c).stealNext ≤ n) with
  | some n => some n
  | none => (presentNeighbours s c).head?

def execStealRequest (c : Nat) (s : State) : Host.Outcome State Fault Refusal :=
  .next (
    let x := s.getCore c
    if present s c && isIdle s c && x.lvl != 0 && waited s x.stealAt 64 then
      match nextVictim s c with
      | none => s
      | some n =>
        let s := s.setCore c { x with stealAt := s.clk, stealNext := n + 1 }
        { s with steals := s.steals ++ [{ thief := c, asked := n }] }
    else s)

/-- The asked core posts its top entry to the thief, or answers that it has nothing. -/
def execStealAnswer (c : Nat) (s : State) : Host.Outcome State Fault Refusal :=
  .next (
    match findIdx1 (fun q : Steal => q.asked == c) s.steals with
    | none => s
    | some i =>
      match s.steals[i]? with
      | none => s
      | some q =>
        let s := { s with steals := dropAt s.steals i }
        if present s c && (s.getCore c).lvl != 0 then (shipTop s c q.thief).getD s else s)

/-- A core compares its figure with the smallest of its neighbours', and ships what the difference allows. -/
def execLevelling (c : Nat) (s : State) : Host.Outcome State Fault Refusal :=
  .next (
    let x := s.getCore c
    if present s c && x.lvl != 0 && waited s x.levelAt x.lvl.toNat then
      let s := s.setCore c { x with levelAt := s.clk }
      match leastLoaded s c with
      | none => s
      | some (n, m) =>
        if m + 2 ≤ loadFigure x ∧ 2 ≤ x.deque.length then
          iter (fun _ s => (shipTop s c n).getD s) (min 8 ((loadFigure x - m) / 2)) s
        else s
    else s)

-- Launch records (R263, R264) ----------------------------------------------------------------------------------------------------------

/-- The fields of a launch record. -/
def lrAsid (r : LaunchRec) : Half := fld r.w0 48 16
def lrTag (r : LaunchRec) : Half := fld r.w0 32 16
def lrNode (r : LaunchRec) : Nat := (fld r.w0 16 16).toNat
def lrTemplate (r : LaunchRec) : Nat := (fld r.w0 0 16).toNat
def lrKind (r : LaunchRec) : Nat := (fld r.w1 34 2).toNat
def lrPriority (r : LaunchRec) : BitVec 2 := fld r.w1 32 2
def lrCount (r : LaunchRec) : W32 := fld r.w1 0 32

/-- A field whose zero means a default. -/
def orDefault (x : Half) (d : Nat) : Nat := if x = 0 then d else x.toNat

/-- The deadlines, in ms, and the grace period, in µs. -/
def lrFirst (r : LaunchRec) : Nat := orDefault (fld r.w4 0 16) 100
def lrSecond (r : LaunchRec) : Nat := orDefault (fld r.w4 16 16) 110
def lrThird (r : LaunchRec) : Nat := orDefault (fld r.w4 32 16) 120
def lrGrace (r : LaunchRec) : Nat := orDefault (fld r.w4 48 16) 20

/-- Whether a reserved field is not zero, the kind is reserved, or a template or node is where none may be. -/
def lrMalformed (r : LaunchRec) : Bool :=
  (fld r.w1 36 28 : BitVec 28) != 0 || (fld r.w2 48 16 : BitVec 16) != 0 || r.w7 != 0 || decide (2 ≤ lrKind r) ||
    (if lrKind r = 1 then lrTemplate r != 0 || lrNode r != 0 else r.w6 != 0 || decide (4096 ≤ lrTemplate r))

/-- Whether an address space has no root entry on a die. -/
def noRoot (s : State) (asid : Nat) (d : Nat) : Bool := typeOf (physWord s (asTable s d + 8 * asid)) == 0

/-- The number of nodes of a template in the directory of reach die 0 (08 R158). -/
def nodeCount (s : State) (template : Nat) : Nat := (fld (basinWord s 0 (16 * template)) 32 16).toNat

/-- The first check that a record fails, by its code; 0 if it is accepted (R264). -/
def launchRefusal (s : State) (r : LaunchRec) : Nat :=
  if (s.launch (lrTag r)).state ≠ 0 then 1
  else if lrMalformed r then 2
  else if lrAsid r = 0 ∨ (List.range 4).any (noRoot s (lrAsid r).toNat) then 3
  else if lrKind r = 0 ∧ nodeCount s (lrTemplate r) ≤ lrNode r then 4
  else if !(decide (lrFirst r < lrSecond r ∧ lrSecond r < lrThird r)) then 5
  else 0

-- Completion records (R271, 10 R223) ------------------------------------------------------------------------------------------------------

/-- The storage words of a launch block, by fresh walks of asid 2; none if a read faults or returns poison. -/
def blockHolds (s : State) (block : Nat) : Option (List Word) × State :=
  [56, 64, 72].foldl (fun p i => match p.1, walkWord p.2 0 2 (block + i) with
    | some l, (.ok w, s) => (some (if w = 0 then l else l ++ [w]), s)
    | some _, (.error _, s) => (none, s)
    | none, _ => p) (some [], s)

/-- The records that end a launch: the hold releases, then the status (R223). DEDUCED (log entry 67): a hold release carries tag 0, since holds of one
object from several launches raft, and records raft under equal tags only (08 R152). -/
def completionRecords (s : State) (h : Fin 32) (tag : Half) (block : Word) (status : Nat) (holds : List Word) : List Record :=
  let ta := hartTa s h
  holds.map (fun a => mkRec ta kU 1 0 a [0xFFFFFFFF00000000]) ++ [mkRec ta kU 8 tag block [BitVec.ofNat 64 status]]

/-- The launch unit posts the completion records of a block; one whose storage words cannot be read gets its status alone. -/
def postCompletion (s : State) (h : Fin 32) (tag : Half) (block : Word) (status : Nat) : State :=
  match blockHolds s (fld block 0 52).toNat with
  | (some l, s) => s.postAll senderLaunch (completionRecords s h tag block status l)
  | (none, s) => (fire s 65).postAll senderLaunch (completionRecords s h tag block status [])

/-- Every core of the board clears its abort mark for a tag (R271): those of this device at once, the other devices by a notice. -/
def clearBoard (s : State) (tag : Half) : State :=
  let s := clearMarks s tag
  { s with wharf := { s.wharf with told := s.wharf.told ++ [(false, tag)] } }

/-- Whether any core marked a tag aborted, or the launch unit has. -/
def wasAborted (s : State) (tag : Half) : Bool :=
  (s.launch tag).state == 3 || s.cores.any fun p => present s p.1 && p.2.marks.contains tag

/-- A launch completes: the journal, the marks, the state and the binding of its address space (13 R237), the completion records and, without a
status record to be applied, the interrupt (R271, 19 R310). -/
def State.completeLaunch (s : State) (tag : Half) : State :=
  let x := s.launch tag
  let bad := wasAborted s tag
  let (j, s) := restatus s x.journal (if bad then stAborted else stDone)
  let s := (clearBoard s tag).setLaunchState tag
    { s.launch tag with state := 0, asid := 0, journal := j, sweep := none, graceEnd := none, others := [] }
  if x.block = 0 then fire s (32 + x.hart.val)
  else
    let s := postCompletion s x.hart tag x.block (if bad then 3 else 2)
    { s with wharf := { s.wharf with ending := s.wharf.ending ++ [(x.hart.val, x.block, tag)] } }

-- Accepting (R265) ---------------------------------------------------------------------------------------------------------------------------

/-- The core that takes the next root: the present core with the smallest figure. -/
def rootCore (s : State) : Option Nat :=
  ((presentCores s).foldl (fun best c =>
    let f := SMap.getD s.wharf.figures c 0
    match best with
    | none => some (c, f)
    | some (b, g) => if f < g then some (c, f) else some (b, g)) none).map Prod.fst

/-- The task record of a root. -/
def rootRecord (s : State) (r : LaunchRec) (core i : Nat) : Record :=
  taskRecord (coreAddress s core) (lrTag r)
    [(0 : BitVec 12) ++ lrPriority r ++ (0 : BitVec 2) ++ (0 : BitVec 16) ++ (fld r.w0 0 32 : W32),
     BitVec.ofNat 64 (i % 2 ^ 32), (fld r.w2 0 48 : BitVec 48).setWidth 64, r.w3, 0, 0]

/-- Posts a root, which counts as created. -/
def postRoot (s : State) (r : LaunchRec) (i : Nat) : State :=
  match rootCore s with
  | none => s
  | some c =>
    let s := (s.post senderLaunch (rootRecord s r c i)).countOwn (lrTag r) 1 0
    { s with wharf := { s.wharf with figures := SMap.set s.wharf.figures c (SMap.getD s.wharf.figures c 0 + 1) } }

/-- The number of roots: a count of all ones takes the node descriptor's (R158). -/
def rootCount (s : State) (r : LaunchRec) : Nat :=
  if lrCount r = BitVec.allOnes 32 then
    match nodeAt s 0 (lrTemplate r) (lrNode r) with
    | some off => (fld (basinWord s 0 (off + 8)) 0 32).toNat
    | none => 0
  else (lrCount r).toNat

/-- The bytes of a copy, its source and its destination. -/
def lrBytes (r : LaunchRec) : Nat := (fld r.w2 0 48).toNat
def lrSource (r : LaunchRec) : Nat := (fld r.w3 0 52).toNat
def lrTarget (r : LaunchRec) : Nat := (fld r.w6 0 52).toNat

/-- The reach die whose copy engine performs a copy: the one where the destination's first byte lies, or 0. -/
def copyDie (s : State) (r : LaunchRec) : Nat :=
  match walk s (asTable s 0) (lrAsid r).toNat (lrTarget r) 1 with
  | .ok l => dieOfKey (l.pa (lrTarget r))
  | .error _ => 0

/-- A copy of a launch record as its engine's command. -/
def copyCmd (s : State) (h : Fin 32) (r : LaunchRec) (cl : Nat) : Cmd where
  id := 0
  port := 0
  opcode := 0
  core := coreIn cl 0
  slot := 0
  helm := some h
  orphan := false
  asid := (lrAsid r).toNat
  tag := lrTag r
  words := []
  ranges := [(3, lrSource r), (3, lrTarget r)]
  limit := lrBytes r
  started := false
  since := s.mtime
  done := []
  parked := none
  failAt := none
  status := 0
  refused := 0
  rounds := 0
  isCopy := true

/-- Starts a copy: one task created. -/
def startCopy (s : State) (h : Fin 32) (r : LaunchRec) : State :=
  let cl := copyDie s r * 32 + (lrTag r).toNat % 24
  (s.setEngine (.copy cl) ((s.engine (.copy cl)).add (copyCmd s h r cl))).countOwn (lrTag r) 1 0

/-- The words that the journal holds of a record. -/
def launchDetail (r : LaunchRec) : List Word := [r.w0, r.w1, r.w5]

/-- The entry of an accepted record. Milliseconds and microseconds are 100,000 and 100 ticks of mtime. -/
def acceptedLaunch (s : State) (h : Fin 32) (r : LaunchRec) (j : JRef) : Launch :=
  { state := 1, asid := lrAsid r, hart := h, isCopy := lrKind r == 1, block := r.w5,
    words := [r.w0, r.w1, r.w2, r.w3, r.w4, r.w5, r.w6, r.w7], accepted := s.mtime,
    first := 100000 * lrFirst r, second := 100000 * lrSecond r, third := 100000 * lrThird r, grace := 100 * lrGrace r,
    journal := j, own := (s.launch (lrTag r)).own }

/-- The record that a launch keeps. -/
def Launch.record (x : Launch) : LaunchRec where
  w0 := nthD 0 x.words 0
  w1 := nthD 0 x.words 1
  w2 := nthD 0 x.words 2
  w3 := nthD 0 x.words 3
  w4 := nthD 0 x.words 4
  w5 := nthD 0 x.words 5
  w6 := nthD 0 x.words 6
  w7 := nthD 0 x.words 7

/-- A launch is journaled as started. -/
def State.journalStarted (s : State) (tag : Half) : State :=
  let (j, s) := restatus s (s.launch tag).journal stStarted
  s.setLaunch tag { s.launch tag with journal := j }

/-- The next roots of a launch, n of them, in ascending instance order; the last is followed by the journal (R265). -/
def postRoots (s : State) (tag : Half) (n : Nat) : State :=
  let x := s.launch tag
  let s := iter (fun i s => postRoot s x.record (x.rootNext + i)) n s
  let s := s.setLaunch tag { s.launch tag with rootNext := x.rootNext + n, rootsLeft := x.rootsLeft - n }
  if n = x.rootsLeft then s.journalStarted tag else s

/-- The launch unit goes on with a tag's roots. How many it posts at a time is a free value, at least one (log entry 41). Once the tag is aborted it
posts no further one. -/
def State.moreRoots (s : State) (tag : Half) : State :=
  let x := s.launch tag
  if x.rootsLeft = 0 then s
  else if x.state = 3 then (s.setLaunch tag { x with rootsLeft := 0 }).journalStarted tag
  else postRoots { s with fresh := s.fresh + 1 } tag (1 + (Config.freeWord s.fresh).toNat % x.rootsLeft)

/-- Whether an accepted record has nothing to do: no roots, or no bytes. -/
def isEmptyLaunch (s : State) (r : LaunchRec) : Bool :=
  if lrKind r = 1 then lrBytes r == 0 else rootCount s r == 0

/-- Posts the first roots, or starts the copy; without either the launch is over (R265). -/
def beginWork (s : State) (h : Fin 32) (r : LaunchRec) : State :=
  let tag := lrTag r
  if isEmptyLaunch s r then (s.journalStarted tag).completeLaunch tag
  else if lrKind r = 1 then (startCopy s h r).journalStarted tag
  else (s.setLaunch tag { s.launch tag with rootsLeft := rootCount s r }).moreRoots tag

/-- An accepted record: journaled, state running, its work begun (R265). -/
def State.acceptLaunch (s : State) (h : Fin 32) (r : LaunchRec) : State :=
  let tag := lrTag r
  let (j, s) := journal s (hartTa s h) (if lrKind r = 1 then jCopy else jLaunch) stAccepted 0 tag (launchDetail r)
  beginWork (s.setLaunchState tag (acceptedLaunch s h r j)) h r

/-- A refused record: journaled, its status there being a free value; one with a block gets the records of an aborted launch unless its tag
was not free (R264). -/
def State.refuseLaunch (s : State) (h : Fin 32) (r : LaunchRec) (code : Nat) : State :=
  let st : BitVec 2 := fld (Config.freeWord s.fresh) 0 2
  let s := { s with fresh := s.fresh + 1 }
  let (_, s) := journal s (hartTa s h) (if lrKind r = 1 then jCopy else jLaunch) st.toNat code (lrTag r) (launchDetail r)
  if code ≠ 1 ∧ r.w5 ≠ 0 then postCompletion s h (lrTag r) r.w5 3 else s

/-- A launch record reaches the launch unit. A port write reads back the code (R264, 19 R305). -/
def State.launchRecord (s : State) (h : Fin 32) (viaPort : Bool) (r : LaunchRec) : State :=
  let code := launchRefusal s r
  let s := if code = 0 then s.acceptLaunch h r else s.refuseLaunch h r code
  if viaPort then
    let x := s.getHart h.val
    s.setHart h.val { x with port := { x.port with result := BitVec.ofNat 64 code } }
  else s

def execLaunch (h : Fin 32) (viaPort : Bool) (r : LaunchRec) (s : State) : Host.Outcome State Fault Refusal :=
  .next (if lrKind r = 1 then s else s.launchRecord h viaPort r)

def execCopyLaunch (h : Fin 32) (viaPort : Bool) (r : LaunchRec) (s : State) : Host.Outcome State Fault Refusal :=
  .next (if lrKind r = 1 then s.launchRecord h viaPort r else s)

-- The termination sweep (R269, R270) -----------------------------------------------------------------------------------------------------------

/-- The records that a thread's slot holds for the outbound port. -/
def portRecords (t : Thread) : List Record :=
  match t.st with
  | .removed (.port r _) => [r]
  | _ => []

/-- The records of a pound. -/
def poundRecords (p : Pound) : List Record := p.entries.map Entry.r ++ p.applying.map Prod.fst

/-- The records of a core: pound, deque, lane and outbound port. -/
def coreRecords (x : Core) : List Record :=
  poundRecords x.pound ++ x.deque.map Entry.r ++ x.lane.map Prod.fst ++ x.slots.toList.flatMap portRecords

/-- Every record that a pound, a deque, a lane, a network port or a link holds. -/
def allRecords (s : State) : List Record :=
  (s.cores.filter fun p => present s p.1).flatMap (fun p => coreRecords p.2) ++ s.harts.flatMap (fun p => poundRecords p.2.pound) ++
    s.net.map Flight.r ++ s.wharf.unacked.map Prod.snd ++ s.wharf.waiting.map Prod.snd

/-- Whether a record of a tag, of any kind but K, is held anywhere. -/
def tagHeld (s : State) (tag : Half) : Bool := (allRecords s).any fun r => r.tag == tag && r.kind != kK

/-- The sum of two counts. -/
def Counts.plus (n m : Counts) : Counts := { created := n.created + m.created, retired := n.retired + m.retired }

/-- The created and retired totals of a tag, over every present core, the launch unit and the other devices. -/
def tagTotals (s : State) (tag : Half) : Counts :=
  let x := s.launch tag
  x.others.foldl (fun n p => n.plus p.2.1) <|
    (s.cores.filter fun p => present s p.1).foldl (fun n p => n.plus (SMap.getD p.2.counts tag.toNat {})) x.own

/-- Whether every other device that a route leads to has been read for a tag since the last sweep (19 R315). -/
def othersRead (s : State) (tag : Half) : Bool :=
  (List.range 16).all fun d => d == s.wharf.device.toNat || (route s d).isNone || (SMap.find (s.launch tag).others d).isSome

/-- One tag's part of a sweep, once the other devices are read: its counters are brought up to date, and two clean sweeps with one created total
complete it. A launch with roots still to be posted is not over (DEDUCED, log entry 41). -/
def sweepTag (s : State) (tag : Half) : State :=
  let x := s.launch tag
  let n := tagTotals s tag
  let clean := n.created == n.retired && !tagHeld s tag && x.rootsLeft == 0 && x.others.all fun p => !p.2.2
  if !othersRead s tag then s
  else if clean && x.sweep == some n.created then s.completeLaunch tag
  else writeLaunch (s.setLaunch tag { x with sweep := if clean then some n.created else none, others := [] }) tag

/-- The live tags, ascending. -/
def liveTags (s : State) : List Half := (s.wharf.launches.filter fun p => p.2.state != 0).map fun p => BitVec.ofNat 16 p.1

/-- Sweeps each tag of a list. -/
def sweepTags (s : State) : List Half → State
  | [] => s
  | t :: l => sweepTags (sweepTag s t) l

def execTerminationSweep (s : State) : Host.Outcome State Fault Refusal :=
  .next (
    if waited s s.wharf.sweptAt 256 then sweepTags { s with wharf := { s.wharf with sweptAt := s.clk } } (liveTags s)
    else s)

-- Pre-emption and deadlines (R274, R275) -----------------------------------------------------------------------------------------------------------

/-- A pre-emption of a tag: ignored unless it is running. -/
def State.preemptTag (s : State) (tag : Half) : State :=
  let x := s.launch tag
  if x.state = 1 then s.setLaunchState tag { x with state := 2, preempted := true, graceEnd := some (s.mtime + x.grace) } else s

/-- A resume of a tag: ignored unless it is pre-empted. -/
def State.resumeTag (s : State) (tag : Half) : State :=
  let x := s.launch tag
  if x.state = 2 then s.setLaunchState tag { x with state := 1, graceEnd := none } else s

def execPreempt (tag : Half) (s : State) : Host.Outcome State Fault Refusal := .next (s.preemptTag tag)

def execResume (tag : Half) (s : State) : Host.Outcome State Fault Refusal := .next (s.resumeTag tag)

/-- The slots of every present core, in order. -/
def allSlots (s : State) : List (Nat × Fin 16) :=
  (presentCores s).flatMap fun c => (List.range 16).map fun i => (c, Fin.ofNat 16 i)

def execPreemptionGraceExpiry (tag : Half) (s : State) : Host.Outcome State Fault Refusal :=
  .next (
    let x := s.launch tag
    match x.graceEnd with
    | none => s
    | some t =>
      if x.state = 2 ∧ t ≤ s.mtime then
        (allSlots s).foldl (fun s p => s.preemptThread p.1 p.2 tag) (s.setLaunch tag { x with graceEnd := none })
      else s)

/-- Whether a deadline of a live launch, that has not acted yet, has come. -/
def deadlineDue (s : State) (x : Launch) (d : Nat) (done : Bool) : Bool :=
  x.state != 0 && !done && decide (x.accepted + d ≤ s.mtime)

def execFirstDeadline (tag : Half) (s : State) : Host.Outcome State Fault Refusal :=
  .next (
    let x := s.launch tag
    if deadlineDue s x x.first x.firstDone then
      let s := s.setLaunch tag { x with firstDone := true }
      if x.preempted then s else s.preemptTag tag
    else s)

/-- A thread of an aborted tag that is not Parked takes trap 0x0F, at once or at the boundary that ends its operation. The keeper has no tag
of a launch. -/
def dogThread (tag : Half) (s : State) (p : Nat × Fin 16) : State :=
  let t := s.thread p.1 p.2
  if p.2.val = 0 ∨ t.tag ≠ tag then s
  else match t.st with
    | .empty => s
    | .parked _ => s
    | _ =>
      if t.atBoundary then s.trapThread p.1 p.2 0x0F (fetchedWord s p.1 p.2) t.pc (tag.setWidth 64) 0
      else s.setThread p.1 p.2 { t with dogDue := true }

def execSecondDeadline (tag : Half) (s : State) : Host.Outcome State Fault Refusal :=
  .next (
    let x := s.launch tag
    if deadlineDue s x x.second x.secondDone then
      let s := (s.setLaunch tag { x with secondDone := true }).noticed tag
      (allSlots s).foldl (dogThread tag) s
    else s)

/-- Whether a core holds a thread, a saved thread or a record of a tag. -/
def holdsTag (s : State) (tag : Half) (c : Nat) : Bool :=
  let x := s.getCore c
  ((List.range 15).any fun i =>
    let k : Fin 16 := Fin.ofNat 16 (i + 1)
    let t := s.thread c k
    (t.st != .empty && t.tag == tag) ||
      (t.saveInUse && (fld (lsWord s c (saveArea x.kca k + 1496)) 32 16 : Half) == tag)) ||
    (coreRecords x).any fun r => r.tag == tag

def execThirdDeadline (tag : Half) (s : State) : Host.Outcome State Fault Refusal :=
  .next (
    let x := s.launch tag
    if deadlineDue s x x.third x.thirdDone then
      let s := s.setLaunch tag { x with thirdDone := true }
      ((presentCores s).filter (holdsTag s tag)).foldl State.fence s
    else s)

-- The home-side cache (13 R234) ------------------------------------------------------------------------------------------------------------------------

/-- A write to the size of a die's home-side cache sets busy. -/
def State.setCacheSize (s : State) (d : Nat) (v : Word) : State :=
  if d < 4 then s.setDie d { s.die d with busy := true, newSize := min 64 (fld v 0 7).toNat } else s

def execCacheSizeWrite (die : Nat) (v : Word) (s : State) : Host.Outcome State Fault Refusal := .next (s.setCacheSize die v)

/-- Basin bytes that passed between the cache and ordinary use take what the flush left in them. -/
def passedBytes (s : State) (d lo hi : Nat) : List (Nat × Byte) → State
  | [] => s
  | (a, b) :: l => passedBytes (if lo ≤ a ∧ a < hi then rawWrite s (basinKey d a) [b] else s) d lo hi l

def execCacheFlushComplete (die : Nat) (contents : List (Nat × Byte)) (s : State) : Host.Outcome State Fault Refusal :=
  .next (
    let x := s.die die
    if die < 4 ∧ x.busy then
      passedBytes (s.setDie die { x with busy := false, size := x.newSize, held := [] }) die
        (basinBytes - 0x100000 * max x.size x.newSize) (basinBytes - 0x100000 * min x.size x.newSize) contents
    else s)

end Sys2Proof.Machine
end

