-- ==== Sys2Proof/Machine/HelmEvents.lean ====
section
/-! DEFINITION. The helm side and the outside world: helm pounds and inboxes (19 R306, R307; 10 R215), command ports (17 R287, R288), routing
and links (17 R293, R294; 19 R315, R316), PCIe (19 R308-R310) and a hart's pool and timebase loads (19 R304, R311). -/

namespace Sys2Proof.Machine

open Sys2Proof

-- Helm pounds (R306) -----------------------------------------------------------------------------------------------------

/-- The dispatch of the chosen record, if a test accepts it. -/
def State.helmDispatch (s : State) (h : Nat) (p : Record → Bool) (f : Record → State → State) : State :=
  match helmChosen s h with
  | none => s
  | some (i, r) =>
    if p r then
      let x := s.getHart h
      f r (s.setHart h { x with pound := x.pound.dispatch i s.clk r.kind })
    else s

-- U records (R306; 10 R215) --------------------------------------------------------------------------------------------------

/-- The physical places of n words from a DVA of the helm object space up, each by a fresh walk for an update: leaf and address; none if one faults. A
leaf that was delivered keeps its accessed bit (13 R240). -/
def updatePlaces (s : State) (d dva : Nat) : Nat → Option (List (Leaf × Nat)) × State
  | 0 => (some [], s)
  | n + 1 =>
    match walked s d 2 dva 2 with
    | .error _ => (none, s)
    | .ok (l, s) =>
      let r := updatePlaces s d (dva + 8) n
      (r.1.map ((l, l.pa dva) :: ·), r.2)

/-- Writes words at places, coherently with the helm caches, each under the key of its leaf. -/
def writePlaces (s : State) : List (Leaf × Nat) → List Word → State
  | (l, a) :: ps, w :: ws =>
    writePlaces (helmPut (dropReserved s a 8) (keyGen s (keyOfLeaf l.leaf)) a (natBytes 8 w.toNat) 1) ps ws
  | _, _ => s

/-- The lines of places are looked up, each once: those that the helm caches hold need no home (13 R234). -/
def touchPlaces (s : State) : List (Leaf × Nat) → List Nat → State
  | [], _ => s
  | (l, a) :: ps, seen =>
    touchPlaces (if seen.contains (a / 64) || (SMap.find s.helmCache (a / 64)).isSome then s else leafLines s l a 8) ps (a / 64 :: seen)

/-- Drops the held lines of places that were taken under another key generation. -/
def syncPlaces (s : State) (ps : List (Leaf × Nat)) : State := ps.foldl (fun s p => syncLines s (keyGen s (keyOfLeaf p.1.leaf)) p.2 8) s

/-- The words at places. -/
def readPlaces (s : State) (ps : List (Leaf × Nat)) : List Word :=
  ps.map fun p => BitVec.ofNat 64 (bytesNat (helmRead s (keyGen s (keyOfLeaf p.1.leaf)) p.2 8))

/-- Whether a U record has the form of a hold release, after which the pound checks for reclaim (10 R215). -/
def isHoldRelease (r : Record) : Bool := r.op == 1 && r.pay.length == 1 && decide (r.key.toNat % 16 = 8)

/-- Reclaims a moored storage object whose count and hold are zero. -/
def reclaimMoored (x : Word) : Swq Unit :=
  (swqLoad x).bind fun w0 => (swqLoad (x + 8)).bind fun w1 =>
    if hdrKind w0 = 8 ∧ hdrMoored w0 ∧ hdrCount w1 = 0 ∧ hdrHold w1 = 0 then
      (reclaim x).bind fun l => todoAll todoFuel l
    else .pure ()

/-- Runs a part of a Sweiq engine's work for a hart's pound, in the helm object space; one that stops changes nothing and fires source 65 (log
entry 11). None: an access waits for the flush of a home-side cache. -/
def State.forPound (s : State) (h : Fin 32) (m : Swq Unit) : Option State :=
  match m { s with hart := h, viaPound := true } with
  | .ok (_, t) => some { t with hart := s.hart, viaPound := s.viaPound }
  | .error .waits => none
  | .error _ => some (fire s 65)

/-- The launch-completion sources that a status record's application fires (R310). -/
def endLaunches (s : State) (h : Nat) (r : Record) : State :=
  let mine := s.wharf.ending.filter fun e => e.1 == h && e.2.1 == r.key && e.2.2 == r.tag
  if r.op ≠ 8 ∨ mine = [] then s
  else iter (fun _ s => fire s (32 + h)) mine.length
    { s with wharf := { s.wharf with ending := s.wharf.ending.filter fun e => !(e.1 == h && e.2.1 == r.key && e.2.2 == r.tag) } }

/-- A U record is applied at the places of its words, as one update. -/
def applyAt (s : State) (r : Record) (ps : List (Leaf × Nat)) : State :=
  let s := touchPlaces (syncPlaces s ps) ps []
  let new := updateWords r.op (fun i => Config.freeWord (s.fresh + i)) (readPlaces s ps) r.pay
  writePlaces { s with fresh := s.fresh + r.pay.length } ps new

/-- A helm pound applies a U record in place; one whose translation faults is discarded and counted, and source 65 fires. None: it waits for the
flush of a home-side cache (13 R234). -/
def State.helmUpdate (s : State) (h : Fin 32) (r : Record) : Option State :=
  match updatePlaces s (h.val / 8) (fld r.key 0 52).toNat r.pay.length with
  | (none, s) =>
    let x := s.getHart h.val
    some (fire (s.setHart h.val { x with discarded := x.discarded + 1 }) 65)
  | (some ps, s) =>
    if ps.any fun p => leafBusy s p.1 p.2 then none
    else
      let s := applyAt s r ps
      (if isHoldRelease r then s.forPound h (reclaimMoored (r.key - 8)) else some s).map (endLaunches · h.val r)

def execHelmUpdateApply (h : Fin 32) (s : State) : Host.Outcome State Fault Refusal :=
  .next (s.helmDispatch h.val (fun r => r.kind == kU) fun r s1 => (s1.helmUpdate h r).getD s)

-- Inboxes (R306, R307; 21 R322) -----------------------------------------------------------------------------------------------------

/-- Whether a record is a system call's, of eight payload words (09 R187; 21 R322). -/
def isCall (r : Record) : Bool := r.call && r.kind == kM && r.pay.length == 8

/-- A system call that reaches a helm pound is journaled, and awaits its reply; one of a tag that is aborted is journaled aborted (21 R323). -/
def State.journalCall (s : State) (r : Record) : State :=
  let w6 := nthD 0 r.pay 6
  let w7 := nthD 0 r.pay 7
  let (j, s) := journal s (fld w7 0 20) jSystem stAccepted 0 r.tag [r.key, w6, w7]
  if (s.launch r.tag).state = 3 then (restatus s j stAborted).2
  else { s with wharf := { s.wharf with calls := s.wharf.calls ++ [{ j := j, ta := (fld w7 0 20 : BitVec 20).toNat, tag := r.tag }] } }

/-- The bytes of an inbox entry. -/
def inboxBytes (r : Record) : List Byte := wordsBytes ([r.hdr, r.key] ++ takePad 0 8 r.pay ++ List.replicate 6 0)

/-- Writes an entry into a hart's inbox; an armed inbox fires its source and is no longer armed. -/
def State.inboxEntry (s : State) (h : Nat) (r : Record) : State :=
  let x := s.getHart h
  let base := (fld x.inboxBase 12 40).toNat * 4096
  let s := helmWrite s (keyGen s 0) (base + 128 * (x.head.toNat % inboxEntries x)) (inboxBytes r)
  let s := s.setHart h { s.getHart h with head := x.head + 1, arm := false }
  let s := if countsAsTask r then s.countOwn r.tag 0 1 else s
  let s := if isCall r then s.journalCall r else s
  if x.arm then fire s h else s

def execInboxWrite (h : Fin 32) (s : State) : Host.Outcome State Fault Refusal :=
  .next (s.helmDispatch h.val (fun r => r.kind != kU) fun r s => s.inboxEntry h.val r)

/-- A write to arm: 1 fires at once while entries are unread. -/
def State.setArm (s : State) (h : Nat) (b : Bool) : State :=
  let x := s.getHart h
  if b && x.head != x.tail then fire (s.setHart h { x with arm := false }) h else s.setHart h { x with arm := b }

def execInboxArm (h : Fin 32) (s : State) : Host.Outcome State Fault Refusal := .next (s.setArm h.val true)

-- Command ports (17 R287, R288) ------------------------------------------------------------------------------------------------------------

/-- The words of a block. -/
def portWords (b : PortBlock) : List Word := [b.w0, b.w1, b.w2, b.w3, b.w4, b.w5, b.w6, b.w7] ++ b.rest

/-- The opcode of a command block. -/
def portOpcode (w : List Word) : Nat := (fld (blkWord w 0) 56 8).toNat

/-- Whether a block has a reserved field, a reserved opcode, or a chunk wake where none may be. -/
def portMalformed (w : List Word) : Bool :=
  let cast : Bool := portOpcode w == 1
  let high (i : Nat) : Bool := (fld (blkWord w i) 52 12 : BitVec 12) != 0
  let wake := bit (blkWord w 5) 20
  (fld (blkWord w 0) 48 8 : Byte) != 0 || decide (2 ≤ portOpcode w) || high 1 || high 2 || high 3 || high 7 ||
    (if cast then (fld (blkWord w 2) 18 34 : BitVec 34) != 0 else (fld (blkWord w 4) 0 40 : BitVec 40) != 0) ||
    (fld (blkWord w 4) 40 8 : Byte) != 0 || (fld (blkWord w 5) 21 43 : BitVec 43) != 0 || (w.drop 8).any (· != 0) ||
    (wake && (cast || decide (4 ≤ (fld (blkWord w 5) 13 3).toNat)))

/-- Whether a range passes the top of its space, or the completion record is not aligned. -/
def portOutside (w : List Word) : Bool :=
  let n := (fld (blkWord w 3) 0 52).toNat
  let top : Nat := if portOpcode w = 1 then localBytes else 2 ^ 52
  decide (2 ^ 52 < (fld (blkWord w 1) 0 52).toNat + n) || decide (top < (fld (blkWord w 2) 0 52).toNat + n) ||
    (fld (blkWord w 7) 0 4 : BitVec 4) != 0

/-- The lowest cluster of a mask; 0 if it names none. -/
def lowestCluster (m : BitVec 24) : Nat := ((List.range 24).find? fun i => bit m i).getD 0

/-- The cluster whose copy engine performs a block. -/
def portCluster (die : Nat) (w : List Word) : Nat :=
  die * 32 + (if portOpcode w = 1 then lowestCluster (fld (blkWord w 4) 0 24) else 0)

/-- The result of a block (R287). -/
def portResult (s : State) (die : Nat) (w : List Word) : Nat :=
  if portMalformed w then 1
  else if noRoot s (fld (blkWord w 4) 48 16).toNat die then 2
  else if portOutside w then 3
  else if !(s.engine (.copy (portCluster die w))).room then 4
  else 0

/-- A block as its engine's command. -/
def portCmd (s : State) (h : Fin 32) (cl : Nat) (w : List Word) : Cmd where
  id := 0
  port := 0
  opcode := portOpcode w
  core := coreIn cl 0
  slot := 0
  helm := some h
  orphan := false
  asid := (fld (blkWord w 4) 48 16).toNat
  tag := fld (blkWord w 0) 32 16
  words := w
  ranges := [(3, (fld (blkWord w 1) 0 52).toNat), (3, (fld (blkWord w 2) 0 52).toNat)]
  limit := (fld (blkWord w 3) 0 52).toNat
  started := false
  since := s.mtime
  done := []
  parked := none
  failAt := none
  status := 0
  refused := 0
  rounds := 0
  isCopy := false

/-- A hart submits a block to a die's command port and reads back its result. -/
def State.portBlock (s : State) (h : Fin 32) (die : Nat) (w : List Word) : State :=
  let code := portResult s die w
  let cl := portCluster die w
  let s := if code = 0 then s.setEngine (.copy cl) ((s.engine (.copy cl)).add (portCmd s h cl w)) else s
  let d := s.die die
  let p := SMap.getD d.ports h.val {}
  s.setDie die { d with ports := SMap.set d.ports h.val { p with result := BitVec.ofNat 64 code } }

def execHelmCopyCommand (h : Fin 32) (die : Nat) (blk : PortBlock) (s : State) : Host.Outcome State Fault Refusal :=
  .next (if die < 4 ∧ portOpcode (portWords blk) ≠ 1 then s.portBlock h die (portWords blk) else s)

def execHelmMulticastCommand (h : Fin 32) (die : Nat) (blk : PortBlock) (s : State) : Host.Outcome State Fault Refusal :=
  .next (if die < 4 ∧ portOpcode (portWords blk) = 1 then s.portBlock h die (portWords blk) else s)

-- A hart's own loads and stores (R304, R311; log entry 10) --------------------------------------------------------------------------------------

/-- Whether a hart may execute an instruction of its own: the package is running, and its Sweiq engine is not. -/
def State.helmReady (s : State) (h : Fin 32) : Bool := s.lock.ready && !(s.getHart h.val).swq.running

/-- A hart's instruction is done: the pc is behind it. -/
def State.helmNext (s : State) (h : Fin 32) : State :=
  let x := s.getHart h.val
  s.setHart h.val { x with running := true, pc := x.pc + BitVec.ofNat 64 x.len }

/-- A load of a hart is done, with its value. -/
def State.helmLoad (s : State) (h : Fin 32) (rd : Fin 32) (v : Word) : State :=
  (s.setHart h.val ((s.getHart h.val).setX rd v)).helmNext h

def execPoolAllocLoad (h : Fin 32) (die pool : Nat) (rd : Fin 32) (s : State) : Host.Outcome State Fault Refusal :=
  .next (
    if s.helmReady h ∧ die < 4 ∧ pool < 256 then
      match allocAnswer s die pool with
      | some (a, s) => s.helmLoad h rd (BitVec.ofNat 64 a)
      | none => s
    else s)

/-- A store frees the address; one that is no block of the pool, or of a disabled pool, is ignored: a helm hart takes no trap 0x0C. -/
def State.helmFree (s : State) (die pool : Nat) (addr : Word) : State :=
  if blockOf (getPool s die pool) addr.toNat then poolFree s die pool addr.toNat else s

/-- Whether a pool has room for an address that is freed. -/
def poolRoom (s : State) (die pool : Nat) : Bool := decide ((getPool s die pool).held.length < 16)

def execPoolFreeStore (h : Fin 32) (die pool : Nat) (addr : Word) (s : State) : Host.Outcome State Fault Refusal :=
  .next (
    if s.helmReady h ∧ die < 4 ∧ pool < 256 ∧ poolRoom s die pool then (s.helmFree die pool addr).helmNext h else s)

/-- A load of the snapshot register: the clk of reach die 0, with mtime latched. -/
def State.snapshot (s : State) : Word × State :=
  (BitVec.ofNat 64 s.clk, { s with wharf := { s.wharf with latch := BitVec.ofNat 64 s.mtime } })

def execTimebaseSnapshot (h : Fin 32) (rd : Fin 32) (s : State) : Host.Outcome State Fault Refusal :=
  .next (if s.helmReady h then s.snapshot.2.helmLoad h rd s.snapshot.1 else s)

-- Routing (R316) ------------------------------------------------------------------------------------------------------------------------------------

/-- Whether a record sent to a device has not been acknowledged. -/
def sentTo (s : State) (dev : Nat) : Bool := s.wharf.unacked.any fun p => p.1 == dev

/-- Records that waited for a route to a device are sent, in order, if the entry is valid. -/
def sendWaiting (s : State) (dev : Nat) : State :=
  if (route s dev).isNone then s
  else
    let mine := s.wharf.waiting.filter fun p => p.1 == dev
    { s with wharf := { s.wharf with
        waiting := s.wharf.waiting.filter fun p => p.1 != dev
        unacked := s.wharf.unacked ++ mine } }

/-- A routing entry takes effect. -/
def State.setRoute (s : State) (dev : Nat) (v : BitVec 4) : State :=
  sendWaiting { s with wharf := { s.wharf with
    routing := setFld s.wharf.routing (4 * dev) v
    routingNew := SMap.erase s.wharf.routingNew dev } } dev

/-- A write to one entry: it takes effect at once, or once every record sent to the device is acknowledged. Bit 3 is reserved. -/
def routeWrite (s : State) (v : Word) (dev : Nat) : State :=
  let e : BitVec 4 := (fld v (4 * dev) 3 : BitVec 3).setWidth 4
  if dev = s.wharf.device.toNat then s
  else if sentTo s dev then { s with wharf := { s.wharf with routingNew := SMap.set s.wharf.routingNew dev e } }
  else s.setRoute dev e

/-- A write to the routing register. -/
def State.setRouting (s : State) (v : Word) : State := (List.range 16).foldl (fun s d => routeWrite s v d) s

def execRoutingWrite (v : Word) (s : State) : Host.Outcome State Fault Refusal := .next (s.setRouting v)

/-- Whether the port that a device's traffic takes is down (17 R294). -/
def routeDown (s : State) (dev : Nat) : Bool :=
  match route s dev with
  | some p => s.wharf.linksDown.contains p
  | none => false

/-- The peer has acknowledged every record sent to a device, unless the port is down; a route change that waited for it takes effect. -/
def execRouteChangeEffect (dev : Fin 16) (s : State) : Host.Outcome State Fault Refusal :=
  .next (
    let s := if routeDown s dev.val then s else { s with wharf := { s.wharf with unacked := s.wharf.unacked.filter fun p => p.1 != dev.val } }
    if sentTo s dev.val then s else
    match SMap.find s.wharf.routingNew dev.val with
    | some e => s.setRoute dev.val e
    | none => s)

/-- A record that was sent to another device is lost: a task or message of it counts as retired (DESIGN CHOICE, log entry 70), and its tag is aborted. -/
def loseSent (s : State) (r : Record) : State :=
  (if countsAsTask r then s.countOwn r.tag 0 1 else s).abortTag r.tag

/-- A receiving device refuses a record: its target names no present core there (R315). -/
def execRemoteRecordRefused (tag : Half) (s : State) : Host.Outcome State Fault Refusal :=
  .next (
    match findIdx1 (fun p : Nat × Record => p.2.tag == tag) s.wharf.unacked with
    | none => s
    | some i =>
      match s.wharf.unacked[i]? with
      | none => s
      | some (_, r) => loseSent { s with wharf := { s.wharf with unacked := dropAt s.wharf.unacked i } } r)

-- Links (17 R293, R294; log entry 40) -----------------------------------------------------------------------------------------------------------------

/-- The clusters of a die whose routes within it use a mesh link: 20 links of rows, then 18 of columns. A row link carries what the clusters
of its row send, a column link what any cluster of the die sends. -/
def meshClusters (j : Nat) : List Nat :=
  if j < 20 then (List.range 6).map fun x => j / 5 * 6 + x else List.range 24

/-- The cores of clusters of a die. -/
def coresOf (d : Nat) (cls : List Nat) : List Nat := cls.flatMap fun k => (List.range 16).map fun i => coreIn (d * 32 + k) i

/-- The cores whose routes use a package-internal link: 4 to 7 join reach die d to the wharf; 8 to 11 join die d to the next; from 12 on come
38 mesh links a die; from 164 on the crossbar of each cluster. -/
def linkCores (link : Nat) : List Nat :=
  if link < 4 then []
  else if link < 8 then coresOf (link - 4) (List.range 24)
  else if link < 12 then [link - 8, (link - 7) % 4, (link - 5) % 4].flatMap fun d => coresOf d (List.range 24)
  else if link < 164 then coresOf ((link - 12) / 38) (meshClusters ((link - 12) % 38))
  else if link < 292 then coresOf ((link - 164) / 32) [(link - 164) % 32]
  else []

/-- A collective whose ring uses a link that went down ends with status 5. -/
def endRings (s : State) (e : Eng) : Nat → State
  | 0 => s
  | n + 1 =>
    let s := endRings s e n
    match (s.engine e).cmds[n]? with
    | none => s
    | some m => if m.started && m.collOpen && ringDown s m then s.endColl e n m 5 else s

/-- The records on an aqueduct port that is down are lost: they are counted, and abort their tags. -/
def losePort (s : State) (port : Nat) : State :=
  let gone := (s.wharf.unacked.filter fun p => route s p.1 == some port).map Prod.snd
  let s := { s with wharf := { s.wharf with
    unacked := s.wharf.unacked.filter fun p => route s p.1 != some port
    lost := s.wharf.lost + gone.length } }
  gone.foldl loseSent s

/-- An aqueduct port goes down: its records are lost, collectives end, and source 65 fires. -/
def aqueductDown (s : State) (port : Nat) : State :=
  let s := losePort s port
  fire ((List.range 4).foldl (fun s d => endRings s (.coll d) (s.engine (.coll d)).cmds.length) s) 65

/-- A link is down. -/
def State.linkDown (s : State) (link : Nat) : State :=
  let s := { s with wharf := { s.wharf with linksDown := insertNat s.wharf.linksDown link, replays := SMap.erase s.wharf.replays link } }
  if link < 4 then aqueductDown s link
  else fire (((linkCores link).filter (present s)).foldl State.fence s) 65

/-- A flit failed its check and is replayed; 16 failed replays of one flit take the link down. -/
def flitReplayed (s : State) (link : Nat) (ok : Bool) : State :=
  if s.wharf.linksDown.contains link then s
  else if ok then { s with wharf := { s.wharf with replays := SMap.erase s.wharf.replays link } }
  else
    let n := SMap.getD s.wharf.replays link 0 + 1
    if n = 16 then s.linkDown link
    else { s with wharf := { s.wharf with replays := SMap.set s.wharf.replays link n } }

/-- A check fails where data crosses a boundary (21 R319): a flit is replayed, a single-bit error is corrected in the data and at its home and
counted, or a line is marked poisoned. -/
def execLinkFlitError (link : Nat) (what : CheckError) (s : State) : Host.Outcome State Fault Refusal :=
  .next (
    match what with
    | .flit ok => flitReplayed s link ok
    | .corrected d => s.setDie d.val { s.die d.val with corrected := satInc (s.die d.val).corrected }
    | .poisoned l => markPoison s l)

-- PCIe (R308-R310) ----------------------------------------------------------------------------------------------------------------------------------------

/-- The IMSIC files of the helm harts. -/
def isImsic (a : Nat) : Bool := decide (0x7C100000000 ≤ a ∧ a < 0x7C100200000)

/-- Adds to a list without repeats. -/
def addOnce {α : Type} [BEq α] (x : α) (l : List α) : List α := if l.contains x then l else x :: l

/-- An MSI reaches an IMSIC file: page 0 of a hart's files is the machine file, page 1 the supervisor file, page 1 + g guest file g. -/
def State.msi (s : State) (a : Nat) (id : Nat) : State :=
  let h := (a - 0x7C100000000) / 0x10000
  let page := a % 0x10000 / 4096
  let x := s.getHart h
  if id = 0 ∨ 255 < id ∨ 8 < page ∨ a % 4096 ≠ 0 then s
  else
    let b := BitVec.ofNat 8 id
    s.setHart h (
      if page = 0 then { x with msiM := addOnce b x.msiM }
      else if page = 1 then { x with msiS := addOnce b x.msiS }
      else { x with msiG := addOnce (page - 1, b) x.msiG })

/-- The key index of a requester in the DMA key table. -/
def dmaKey (s : State) (rid : Half) : Nat :=
  bytesNat (physRead s (keyGen s 0) (s.wharf.dmaBase.toNat + 2 * rid.toNat) 2) % 4096

/-- Whether all of a range lies in memory that DMA may reach: main memory, or the Basin windows. -/
def dmaReaches (a n : Nat) : Bool := (isMain a && isMain (a + n - 1)) || (isBasin a && isBasin (a + n - 1))

/-- A posted write is performed at its home (R309); a line of it that the helm caches hold is written back and dropped first, so that they are
coherent with it (R299). -/
def dmaWrite (s : State) (g a : Nat) (bs : List Byte) : State :=
  let s := iter (fun i s => dropLine s (a / 64 + i)) (lineCount a bs.length) (dropReserved s a bs.length)
  helmHomeWrite s g a bs

/-- The memory windows of the root ports, which peer-to-peer transfers reach (R308). -/
def isPeer (a : Nat) : Bool := decide (0x7A000000000 ≤ a ∧ a < 0x7A800000000)

/-- An endpoint's access, after the IOMMU's translation. Only a write changes the device, but for the home-side cache that a read goes
through; an MSI write goes to its file, and a transfer to an endpoint of a port ends there (log entry 17). -/
def execDmaAccess (rid : Half) (pa : BitVec 56) (isWrite : Bool) (data : List Byte) (s : State) : Host.Outcome State Fault Refusal :=
  .next (
    let a := pa.toNat
    if data.isEmpty then s
    else if dmaReaches a data.length then
      (if !isWrite then homeLines s (keyGen s (dmaKey s rid)) a data.length
       else if isBasin a then rawWrite s a data
       else dmaWrite s (keyGen s (dmaKey s rid)) a data)
    else if isImsic a ∧ isWrite ∧ data.length = 4 then s.msi a (bytesNat data)
    else if isPeer a && isPeer (a + data.length - 1) then s
    else { s with wharf := { s.wharf with iommuFaults := s.wharf.iommuFaults ++ [(rid, pa)] } })


end Sys2Proof.Machine
end

