-- ==== Sys2Proof/Machine/Cycle.lean ====
section
/-! DEFINITION. When a cycle may end, and what a new one brings (log entry 1). -/

namespace Sys2Proof.Machine

open Sys2Proof

/-- Whether something of a thread is due by a cycle and has not come: the end of an operation of a fixed count of cycles (04 R83, 06 R115), of a window
spill or fill, 20 cycles after the call or return at the latest (01 R14, 04 R95), or its alarm (04 R94). -/
def Thread.overdue (now : Nat) (t : Thread) : Bool :=
  t.alarmDue now || (match t.st with
    | .removed (.divide _ _ n) => decide (n ≤ now)
    | .removed (.iterative _ _ n) => decide (n ≤ now)
    | .removed (.window _ _) => decide (t.issuedAt + 20 ≤ now)
    | _ => false)

/-- Whether a pound has still to dispatch a record in this cycle (08 R155), or holds a C or U record that it dispatched four cycles ago and has not
applied (R156). -/
def poundDue (s : State) (c : Nat) : Bool :=
  (chosen s c).isSome || (s.getCore c).pound.applying.any fun p => decide (p.2 + 4 ≤ s.clk)

/-- Whether a keeper's ksave, kload or ctuinv has still to end: after 24 cycles and any spill, once the relaxed accesses of the thread saved are
complete (09 R193), or after 1,024 cycles where no link has failed (R195). -/
def keeperDue (s : State) (c : Nat) : Bool :=
  let t := s.thread c (s.getCore c).selected
  match (s.thread c 0).st with
  | .removed (.saveLoad true _ n) => decide (n ≤ s.clk)
  | .removed (.saveLoad false _ n) => decide (n + 20 * t.older.length ≤ s.clk) && (t.relaxed.isEmpty || (saveRefusal (s.getCore c).selected t).isSome)
  | .removed (.ctuinv n asid lo hi) => decide (n ≤ s.clk) && s.wharf.linksDown.isEmpty && !rangeInUse s asid lo hi
  | _ => false

/-- Whether a core has still to issue in this cycle, its pound has still to act, or it holds an operation that ends in it (01 R22, R31; 06 R115; 07
R146; 08 R155, R156; 09 R193, R195). -/
def busyCore (s : State) (c : Nat) : Bool :=
  let x := s.getCore c
  present s c && ((s.opens (issueShare s.lock.level) && x.issuedAt != s.clk + 1 && (turn s c).1.isSome) || poundDue s c || keeperDue s c ||
    x.slots.toList.any (Thread.overdue s.clk) ||
    (match x.weir.exec with
     | some e => decide (e.doneAt ≤ s.clk)
     | none => false))

/-- Whether a cycle may end: every core with an eligible slot has issued in it, and what ends in it has ended. -/
def cycleOver (s : State) : Bool := (List.range 2048).all fun c => !busyCore s c

/-- Records sent over a port that is down are lost as a cycle ends. -/
def loseOnDown (s : State) : State := (s.wharf.linksDown.filter (· < 4)).foldl losePort s

/-- What a new cycle brings: work that has become ready is noted (16 R277), the launch unit goes on with the roots of its launches (16 R265), and
records on a dead port are lost (17 R294). -/
def newCycle (s : State) : State := loseOnDown ((liveTags s).foldl State.moreRoots s.noteReady)

end Sys2Proof.Machine
end

