-- ==== Sys2Proof/Machine/Sha512.lean ====
section
/-! DEFINITION. SHA-512 (21 R332, R334 name the algorithm, FIPS 180-4 defines it; log entry 16). -/

namespace Sys2Proof.Machine

open Sys2Proof

/-- The hash value before the first block. -/
def shaStart : List Word :=
  [0x6A09E667F3BCC908, 0xBB67AE8584CAA73B, 0x3C6EF372FE94F82B, 0xA54FF53A5F1D36F1,
   0x510E527FADE682D1, 0x9B05688C2B3E6C1F, 0x1F83D9ABFB41BD6B, 0x5BE0CD19137E2179]

/-- One constant for each round. -/
def shaRound : List Word :=
  [0x428A2F98D728AE22, 0x7137449123EF65CD, 0xB5C0FBCFEC4D3B2F, 0xE9B5DBA58189DBBC,
   0x3956C25BF348B538, 0x59F111F1B605D019, 0x923F82A4AF194F9B, 0xAB1C5ED5DA6D8118,
   0xD807AA98A3030242, 0x12835B0145706FBE, 0x243185BE4EE4B28C, 0x550C7DC3D5FFB4E2,
   0x72BE5D74F27B896F, 0x80DEB1FE3B1696B1, 0x9BDC06A725C71235, 0xC19BF174CF692694,
   0xE49B69C19EF14AD2, 0xEFBE4786384F25E3, 0x0FC19DC68B8CD5B5, 0x240CA1CC77AC9C65] ++
  [0x2DE92C6F592B0275, 0x4A7484AA6EA6E483, 0x5CB0A9DCBD41FBD4, 0x76F988DA831153B5,
   0x983E5152EE66DFAB, 0xA831C66D2DB43210, 0xB00327C898FB213F, 0xBF597FC7BEEF0EE4,
   0xC6E00BF33DA88FC2, 0xD5A79147930AA725, 0x06CA6351E003826F, 0x142929670A0E6E70,
   0x27B70A8546D22FFC, 0x2E1B21385C26C926, 0x4D2C6DFC5AC42AED, 0x53380D139D95B3DF,
   0x650A73548BAF63DE, 0x766A0ABB3C77B2A8, 0x81C2C92E47EDAEE6, 0x92722C851482353B] ++
  [0xA2BFE8A14CF10364, 0xA81A664BBC423001, 0xC24B8B70D0F89791, 0xC76C51A30654BE30,
   0xD192E819D6EF5218, 0xD69906245565A910, 0xF40E35855771202A, 0x106AA07032BBD1B8,
   0x19A4C116B8D2D0C8, 0x1E376C085141AB53, 0x2748774CDF8EEB99, 0x34B0BCB5E19B48A8,
   0x391C0CB3C5C95A63, 0x4ED8AA4AE3418ACB, 0x5B9CCA4F7763E373, 0x682E6FF3D6B2B8A3,
   0x748F82EE5DEFB2FC, 0x78A5636F43172F60, 0x84C87814A1F0AB72, 0x8CC702081A6439EC] ++
  [0x90BEFFFA23631E28, 0xA4506CEBDE82BDE9, 0xBEF9A3F7B2C67915, 0xC67178F2E372532B,
   0xCA273ECEEA26619C, 0xD186B8C721C0C207, 0xEADA7DD6CDE0EB1E, 0xF57D4F7FEE6ED178,
   0x06F067AA72176FBA, 0x0A637DC5A2C898A6, 0x113F9804BEF90DAE, 0x1B710B35131C471B,
   0x28DB77F523047D84, 0x32CAAB7B40C72493, 0x3C9EBE0A15C9BEBC, 0x431D67C49C100D4C,
   0x4CC5D4BECB3E42B6, 0x597F299CFC657E2A, 0x5FCB6FAB3AD6FAEC, 0x6C44198C4A475817]

/-- A word turned right. -/
def turn64 (x : Word) (n : Nat) : Word := x >>> n ||| x <<< (64 - n)

/-- The four mixing functions of one word. -/
def bigSigma0 (x : Word) : Word := turn64 x 28 ^^^ turn64 x 34 ^^^ turn64 x 39
def bigSigma1 (x : Word) : Word := turn64 x 14 ^^^ turn64 x 18 ^^^ turn64 x 41
def smallSigma0 (x : Word) : Word := turn64 x 1 ^^^ turn64 x 8 ^^^ x >>> 7
def smallSigma1 (x : Word) : Word := turn64 x 19 ^^^ turn64 x 61 ^^^ x >>> 6

/-- The message schedule, newest word first: n more words after those given. -/
def schedule : Nat → List Word → List Word
  | 0, l => l
  | n + 1, l =>
    schedule n ((smallSigma1 (nthD 0 l 1) + nthD 0 l 6 + smallSigma0 (nthD 0 l 14) + nthD 0 l 15) :: l)

/-- The eight working variables. -/
structure ShaVars where
  a : Word
  b : Word
  c : Word
  d : Word
  e : Word
  f : Word
  g : Word
  h : Word
  deriving DecidableEq, Repr

/-- A round with its constant and its word of the schedule. -/
def ShaVars.round (v : ShaVars) (k w : Word) : ShaVars :=
  let t := v.h + bigSigma1 v.e + ((v.e &&& v.f) ^^^ (~~~v.e &&& v.g)) + k + w
  let u := bigSigma0 v.a + ((v.a &&& v.b) ^^^ (v.a &&& v.c) ^^^ (v.b &&& v.c))
  { a := t + u, b := v.a, c := v.b, d := v.c, e := v.d + t, f := v.e, g := v.f, h := v.g }

/-- The rounds of a block. -/
def shaRounds : List Word → List Word → ShaVars → ShaVars
  | k :: ks, w :: ws, v => shaRounds ks ws (v.round k w)
  | _, _, v => v

/-- A word of a message: its first byte is the highest. -/
def bigWord (bs : List Byte) : Word := BitVec.ofNat 64 (bytesNat bs.reverse)

/-- A block of 128 bytes into the hash value. -/
def shaBlock (hash : List Word) (bs : List Byte) : List Word :=
  let ws := (List.range 16).map fun i => bigWord ((bs.drop (8 * i)).take 8)
  let x (i : Nat) : Word := nthD 0 hash i
  let v := shaRounds shaRound (schedule 64 ws.reverse).reverse { a := x 0, b := x 1, c := x 2, d := x 3, e := x 4, f := x 5, g := x 6, h := x 7 }
  [x 0 + v.a, x 1 + v.b, x 2 + v.c, x 3 + v.d, x 4 + v.e, x 5 + v.f, x 6 + v.g, x 7 + v.h]

/-- The blocks of a message, n of them. -/
def shaBlocks : Nat → List Word → List Byte → List Word
  | 0, hash, _ => hash
  | n + 1, hash, bs => shaBlocks n (shaBlock hash (bs.take 128)) (bs.drop 128)

/-- A message with its padding: a one bit, zeros, and its length in bits as 16 bytes. -/
def shaPadded (bs : List Byte) : List Byte :=
  bs ++ 0x80 :: List.replicate ((111 + 128 - bs.length % 128) % 128) 0 ++ (natBytes 16 (8 * bs.length)).reverse

/-- SHA-512 of bytes: 64 bytes as one vector, the first byte lowest. -/
def sha512 (bs : List Byte) : Vec :=
  let m := shaPadded bs
  BitVec.ofNat 512 (bytesNat ((shaBlocks (m.length / 128) shaStart m).flatMap fun w => (natBytes 8 w.toNat).reverse))

end Sys2Proof.Machine
end

