-- ==== Sys2Proof/Machine/LockEvents.lean ====
section
/-! DEFINITION. The lockhouse: control blocks and its watchdog (21 R325, R326), the mailbox (R327, R331, R334), the governor (R335) and bring-up
(R332, R333). -/

namespace Sys2Proof.Machine

open Sys2Proof

-- Control blocks (R325) ----------------------------------------------------------------------------------------------------

/-- A sequence word before and after an update: made odd, then one above it. -/
def seqOdd (w : Word) : Word := w ||| 1
def seqEven (w : Word) : Word := seqOdd w + 1

/-- The address of a key-binding block: 64 KiB of them end at the journal. -/
def bindingAt (s : State) (i : Nat) : Nat := s.wharf.jBase.toNat - 65536 + 16 * i

/-- Writes the sequence word of a key-binding block, made odd. -/
def bindingOdd (s : State) (i : Nat) : State := setPhysWord s (bindingAt s i) (seqOdd (physWord s (bindingAt s i)))
/-- Writes the sequence word of a key-binding block again, made even. -/
def bindingEven (s : State) (i : Nat) : State := setPhysWord s (bindingAt s i) (seqEven (physWord s (bindingAt s i)))

-- Management commands (R327) --------------------------------------------------------------------------------------------------

/-- Whether a word is a key index that a command may name. -/
def keyIndexOk (w : Word) : Bool := decide (1 ≤ w.toNat ∧ w.toNat ≤ 4095)

/-- A key index gets a key that no other index has had (log entry 24). -/
def freshKey (s : State) (i : Nat) : State :=
  { s with lock := { s.lock with gens := SMap.set s.lock.gens i s.lock.nextGen, nextGen := s.lock.nextGen + 1 } }

/-- The fields of the binding block of command 1: a fresh key, valid and the asid. -/
def State.keyGenerate (s : State) (index asid : Word) : State :=
  setPhysWord (freshKey s index.toNat) (bindingAt s index.toNat + 8) ((1 : BitVec 48) ++ (fld asid 0 16 : Half))

/-- The fields of the binding block of command 2: a key that is never disclosed; valid is cleared. -/
def State.keyErase (s : State) (index : Word) : State :=
  setPhysWord (freshKey s index.toNat) (bindingAt s index.toNat + 8) (setFld (physWord s (bindingAt s index.toNat + 8)) 16 (0 : BitVec 1))

/-- The report of R334 without its signature. -/
def reportBody (s : State) (nonce0 nonce1 : Word) : List Byte :=
  wordsBytes [1, nonce0, nonce1] ++ s.lock.digests.flatMap (fun d => natBytes 64 d.toNat) ++
    natBytes 64 (sha512 (physRead s (keyGen s 0) (bindingAt s 0) 65536)).toNat ++ takePad 0 512 Config.identityModulus

/-- The attestation report: 2,048 bytes. -/
def report (s : State) (nonce0 nonce1 : Word) : List Byte :=
  let b := reportBody s nonce0 nonce1
  takePad 0 2048 (b ++ takePad 0 512 (Config.signature b))

/-- Command 3: the report is written, under key 0 (log entry 16). -/
def State.attestTo (s : State) (pa nonce0 nonce1 : Word) : State := helmWrite s (keyGen s 0) pa.toNat (report s nonce0 nonce1)

/-- Whether a buffer of 2,048 bytes lies in populated HBM. -/
def bufferOk (s : State) (pa : Word) : Bool := decide (pa.toNat + 2048 ≤ 24 * 2 ^ 37) && populated s pa.toNat 2048

/-- The result of a command before it acts: 0 if it may (R327). -/
def commandResult (s : State) (c : Word) (args : List Word) : Nat :=
  let a := nthD 0 args 0
  let b := nthD 0 args 1
  match c.toNat with
  | 1 => if keyIndexOk a then 0 else 2
  | 2 => if keyIndexOk a then 0 else 2
  | 3 => if bufferOk s a then 0 else 2
  | 4 => if 600 ≤ a.toNat ∧ a.toNat ≤ 2400 ∧ 1200 ≤ b.toNat ∧ b.toNat ≤ 5000 then 0 else 3
  | 5 => if (fld a 12 4 : BitVec 4) = s.wharf.device ∧ present s (fld a 0 12).toNat then 0 else 2
  | _ => 1

/-- Whether a command writes a control block, which takes three steps (R325). -/
def writesBlock (c : Word) : Bool := c == 1 || c == 2 || c == 4

/-- Step 1 of a control block: its sequence word, made odd. -/
def blockOdd (s : State) (c a : Word) : State :=
  if c = 4 then { s with lock := { s.lock with sequence := seqOdd s.lock.sequence } } else bindingOdd s a.toNat

/-- Step 3 of a control block: its sequence word again, made even. -/
def blockEven (s : State) (c a : Word) : State :=
  if c = 4 then { s with lock := { s.lock with sequence := seqEven s.lock.sequence } } else bindingEven s a.toNat

/-- What a command that may act does; for a control block, step 2: the fields. -/
def commandEffect (s : State) (c : Word) (args : List Word) : State :=
  let a := nthD 0 args 0
  let b := nthD 0 args 1
  match c.toNat with
  | 1 => s.keyGenerate a b
  | 2 => s.keyErase a
  | 3 => s.attestTo a b (nthD 0 args 2)
  | 4 => { s with lock := { s.lock with power := a, current := b } }
  | 5 => s.fence (fld a 0 12).toNat
  | _ => s

/-- A command is submitted: journaled, and in progress until it finishes. One that is submitted before the previous one has finished does
nothing (result 4). Its journal status is open when it is refused. -/
def State.submitCommand (s : State) (h : Fin 32) (c : Word) (args : List Word) : State :=
  let detail := [c, nthD 0 args 0, nthD 0 args 1]
  let st : BitVec 2 := fld (Config.freeWord s.fresh) 0 2
  if s.lock.busy then
    let (_, s) := journal { s with fresh := s.fresh + 1 } (hartTa s h) jCommand st.toNat 4 0 detail
    { s with lock := { s.lock with result := 4 } }
  else
    let code := commandResult s c args
    if code ≠ 0 then
      let (_, s) := journal { s with fresh := s.fresh + 1 } (hartTa s h) jCommand st.toNat code 0 detail
      lockEvent { s with lock := { s.lock with command := c, args := args, result := BitVec.ofNat 64 code } } 0
    else
      let (j, s) := journal s (hartTa s h) jCommand stAccepted 0 0 detail
      { s with lock := { s.lock with
          command := c, args := args, busy := true, owner := h, jobArgs := args, job := j, jobStage := 0, result := BitVec.allOnes 64 } }

/-- The command in progress is finished: its entry is done, its result is 0, and event bit 0 is set (R328). -/
def State.finishCommand (s : State) : State :=
  let (_, s) := restatus s s.lock.job stDone
  lockEvent { s with lock := { s.lock with busy := false, jobStage := 0, result := 0 } } 0

/-- The command in progress begins: its entry is started, and the sequence word of the block that it writes is odd. -/
def State.beginCommand (s : State) : State :=
  let (j, s) := restatus s s.lock.job stStarted
  blockOdd { s with lock := { s.lock with job := j, jobStage := 1 } } s.lock.command (nthD 0 s.lock.jobArgs 0)

/-- The command in progress takes its next step: one that writes a control block begins, writes the fields, and finishes with an even sequence word;
any other acts and finishes. -/
def State.advanceCommand (s : State) : State :=
  let c := s.lock.command
  if !s.lock.busy then s
  else if !writesBlock c then (commandEffect s c s.lock.jobArgs).finishCommand
  else if s.lock.jobStage = 0 then s.beginCommand
  else if s.lock.jobStage = 1 then
    let s := commandEffect s c s.lock.jobArgs
    { s with lock := { s.lock with jobStage := 2 } }
  else (blockEven s c (nthD 0 s.lock.jobArgs 0)).finishCommand

/-- A command's step: it goes on if it is the one in progress; otherwise it is submitted, by a hart in machine or supervisor mode, and begins if it was
accepted. -/
def State.command (s : State) (h : Fin 32) (c : Word) (args : List Word) : State :=
  if !s.lock.ready then s
  else if s.lock.busy ∧ s.lock.owner = h ∧ s.lock.command = c ∧ s.lock.jobArgs.take args.length = args then s.advanceCommand
  else if (s.getHart h.val).mode = .u then s
  else if s.lock.busy then s.submitCommand h c args
  else (s.submitCommand h c (takePad 0 3 args)).advanceCommand

def execGenerateKey (h : Fin 32) (index asid : Word) (s : State) : Host.Outcome State Fault Refusal := .next (s.command h 1 [index, asid])

def execEraseKey (h : Fin 32) (index : Word) (s : State) : Host.Outcome State Fault Refusal := .next (s.command h 2 [index])

def execAttest (h : Fin 32) (pa nonce0 nonce1 : Word) (s : State) : Host.Outcome State Fault Refusal :=
  .next (s.command h 3 [pa, nonce0, nonce1])

def execSetGovernor (h : Fin 32) (power current : Word) (s : State) : Host.Outcome State Fault Refusal :=
  .next (s.command h 4 [power, current])

def execFenceCore (h : Fin 32) (core : Word) (s : State) : Host.Outcome State Fault Refusal := .next (s.command h 5 [core])

-- The lockhouse watchdog (R326) ------------------------------------------------------------------------------------------------------

/-- A word of a journal entry, by sequence number. -/
def entryWord (s : State) (n i : Nat) : Word := physWord s (s.wharf.jBase.toNat + 64 * (n % 2 ^ 20) + 8 * i)

/-- Whether an entry is an accepted management command that is not done, of a command that a test accepts. -/
def openCommand (s : State) (p : Word → Word → Bool) (n : Nat) : Bool :=
  let w1 := entryWord s n 1
  (fld w1 40 4).toNat == jCommand && (fld w1 36 4).toNat != stDone && (fld w1 32 4 : BitVec 4) == 0 && p (entryWord s n 4) (entryWord s n 5)

/-- The newest such entry, of the last ones before a number. -/
def newestOpen (s : State) (p : Word → Word → Bool) : Nat → Nat → Option Nat
  | 0, _ => none
  | _, 0 => none
  | k + 1, n + 1 => if openCommand s p n then some n else newestOpen s p k n

/-- Executes an entry's command again, which finishes its block, and marks the entry done; the command in progress with it (R326). -/
def redo (s : State) (n : Nat) : State :=
  let c := entryWord s n 4
  let args := [entryWord s n 5, entryWord s n 6, 0]
  let j : JRef := { seq := n, w1 := entryWord s n 1, accepted := (entryWord s n 2).toNat, detail := c :: args.take 2 }
  let a := nthD 0 args 0
  let mine := s.lock.busy && s.lock.job.seq == n
  let s := if commandResult s c args = 0 then blockEven (commandEffect (blockOdd s c a) c args) c a else s
  if mine then { s with lock := { s.lock with job := j } }.finishCommand else (restatus s j stDone).2

/-- Finishes a block whose sequence word is odd. -/
def finishBlock (s : State) (odd : Bool) (p : Word → Word → Bool) : State :=
  if odd then
    match newestOpen s p (2 ^ 20) s.wharf.jHead.toNat with
    | some n => redo s n
    | none => s
  else s

/-- The firmware watchdog restarts the lockhouse: it finishes the blocks that it was writing, and sets event bit 1. A command that was in
progress stays so. -/
def execLockhouseRestart (s : State) : Host.Outcome State Fault Refusal :=
  .next (
    if !s.lock.ready then s
    else
      let s := finishBlock s (bit s.lock.sequence 0) fun c _ => c == 4
      lockEvent ((List.range 4096).foldl (fun s i =>
        finishBlock s (bit (physWord s (bindingAt s i)) 0) fun c a => (c == 1 || c == 2) && a.toNat == i) s) 1)

-- The governor (R335) --------------------------------------------------------------------------------------------------------------------

/-- The throttle level changes: event bit 3. -/
def State.setLevel (s : State) (n : Nat) : State :=
  if n = s.lock.level then s else lockEvent { s with lock := { s.lock with level := n, calmSince := s.mtime } } 3

/-- The hottest die. -/
def hottest (s : State) : Nat := (s.lock.temps.map BitVec.toNat).foldr max 0

/-- What the temperatures ask for: level 7 and event bit 4 from 105 °C on; at 115 °C the lockhouse removes power. -/
def State.thermal (s : State) : State :=
  let s := if 105 ≤ hottest s then lockEvent (s.setLevel 7) 4 else s
  if 115 ≤ hottest s then { s with power := false } else s

/-- The governor measures: up one level on an excess, down one after 1 ms without; the temperatures come first. -/
def execGovernorSample (current power : Half) (t0 t1 t2 t3 t4 : Byte) (s : State) : Host.Outcome State Fault Refusal :=
  .next (
    let s := { s with lock := { s.lock with nowCurrent := current, nowPower := power, temps := [t0, t1, t2, t3, t4] } }
    let excess : Bool := decide (s.lock.current.toNat < current.toNat) || decide (s.lock.power.toNat < power.toNat)
    let s := if excess then { s with lock := { s.lock with calmSince := s.mtime } } else s
    if 105 ≤ hottest s then s.thermal
    else if excess then s.setLevel (min 7 (s.lock.level + 1))
    else if s.lock.calmSince + 100000 ≤ s.mtime then s.setLevel (s.lock.level - 1) else s)

/-- A die's temperature. -/
def State.setTemp (s : State) (die : Fin 5) (temp : Byte) : State :=
  { s with lock := { s.lock with temps := setAt s.lock.temps die.val temp } }

def execThermalThrottle (die : Fin 5) (temp : Byte) (s : State) : Host.Outcome State Fault Refusal := .next (s.setTemp die temp).thermal

def execThermalShutdown (die : Fin 5) (temp : Byte) (s : State) : Host.Outcome State Fault Refusal := .next (s.setTemp die temp).thermal

-- Bring-up (R332, R333) ------------------------------------------------------------------------------------------------------------------------

/-- Where bring-up stops, with its error code: its stage and the code, or nothing. -/
def bringUpError (f : BringUp) : Option (Nat × Nat) :=
  if !f.imagesOk then some (0, 1)
  else if !f.calibrationOk then some (0, 2)
  else if !f.linksOk then some (1, 3)
  else if f.hbm = 0 then some (2, 4)
  else none

/-- The segment registers with which a keeper starts. -/
def keeperSegs : Vector Seg 8 :=
  ((Vector.replicate 8 ({} : Seg)).set 0 { w0 := 0, w1 := (0 : BitVec 8) ++ (3 : BitVec 3) ++ BitVec.ofNat 53 262144 }).set 1
    { w0 := 0x3F800, w1 := (0 : BitVec 8) ++ (3 : BitVec 3) ++ BitVec.ofNat 53 2048 }

/-- A keeper as the lockhouse starts it. -/
def keeperThread (entry : Word) : Thread := { st := .runnable, pc := entry, sg := keeperSegs }

/-- A core as the lockhouse starts it. -/
def startedCore (entry : Word) : Core := { slots := (Vector.replicate 16 ({} : Thread)).set 0 (keeperThread entry) }

/-- The journal's base: the top 64 MiB of second-tier interface 0, or of HBM stack 0 (R322). -/
def journalBase (f : BringUp) : Nat :=
  if bit f.ifaces 0 then 0x40000000000 + f.gibPerIface.toNat * 2 ^ 30 - 2 ^ 26 else f.pagesPerStack.toNat * pageBytes - 2 ^ 26

/-- The boot region: the keeper image, the address-space table and the level-1 node that maps it. -/
def bootMemory (f : BringUp) : List Host.Cell :=
  let root : Word := (0 : BitVec 6) ++ BitVec.ofNat 36 (0x2000000 / pageBytes) ++ (0 : BitVec 20) ++ (1 : BitVec 2)
  let m := Memory.write [] 0 (f.keeperImage.take (16 * 2 ^ 20))
  Memory.write (Memory.write m (0x1000000 + 8) (natBytes 8 root.toNat)) 0x2000000 (natBytes 8 31)

/-- Every reach die after bring-up: its address-space table. -/
def startedDies : SMap Die := (List.range 4).map fun d => (d, ({ asBase := 0x1000000 } : Die))

/-- The package after stage 5. -/
def State.started (s : State) (f : BringUp) : State :=
  let entry : Word := BitVec.ofNat 64 (bytesNat (takePad 0 8 f.keeperImage))
  { State.reset with
    coreInit := startedCore entry
    dies := startedDies
    mem := bootMemory f
    wharf := { State.reset.wharf with device := f.device, jBase := BitVec.ofNat 64 (journalBase f) }
    lock := { State.reset.lock with
      stage := 6
      fenced := f.failed.foldl insertNat []
      hbm := f.hbm
      pagesPerStack := f.pagesPerStack
      ifaces := f.ifaces
      gibPerIface := f.gibPerIface
      pcie := f.pcie
      digests := [f.firmware, f.keeperImage, f.bootImage, f.calibration].map sha512 }
    clk := s.clk
    agenda := s.agenda
    picks := s.picks
    fresh := s.fresh }

/-- Stage 6: journal entry 0, READY, and hart 0 is released. -/
def State.released (s : State) (f : BringUp) : State :=
  let (_, s) := journal s 0xFFFFF jLock stDone 0 0 []
  ({ s with lock := { s.lock with ready := true } }).setHart 0 { running := true, pc := f.bootPc }

/-- Power is applied: the lockhouse runs bring-up, once. -/
def execPowerOn (found : BringUp) (s : State) : Host.Outcome State Fault Refusal :=
  .next (
    if s.lock.ready ∨ s.lock.error ≠ 0 then s
    else match bringUpError found with
      | some (stage, code) => { s with lock := { s.lock with stage := stage, error := code } }
      | none => (s.started found).released found)

end Sys2Proof.Machine
end

