-- ==== Sys2Proof/Machine/HelmRegs.lean ====
section
/-! DEFINITION. A helm hart's accesses: the device registers (19 R301, R304-R316; 13 R234; 16 R263, R273; 17 R287, R290; 21 R321-R336), main
memory and the Basin windows (19 R299-R303, 14 R258), IMSIC files and MTIMER. -/

namespace Sys2Proof.Machine

open Sys2Proof

-- Reading a register (R304) ------------------------------------------------------------------------------------------------

/-- A word of a hart's port. -/
def HelmPort.setWord (p : HelmPort) (n i : Nat) (v : Word) : HelmPort := { p with words := setAt (takePad 0 n p.words) i v }

/-- The routing entries that wait for acknowledgements, one bit each. -/
def pendingRoutes (s : State) : Word :=
  s.wharf.routingNew.foldl (fun w p => w ||| (1 : Word) <<< p.1) 0

/-- The lockhouse status register (21 R332). -/
def lockStatus (s : State) : Word :=
  (0 : BitVec 37) ++ BitVec.ofNat 11 s.lock.fenced.length ++ BitVec.ofNat 8 s.lock.error ++ BitVec.ofNat 4 s.lock.stage ++ (0 : BitVec 3) ++
    BitVec.ofBool s.lock.ready

/-- The governor status and temperature registers (21 R336). -/
def governorStatus (s : State) : Word :=
  (0 : Half) ++ s.lock.nowCurrent ++ s.lock.nowPower ++ (0 : BitVec 13) ++ BitVec.ofNat 3 s.lock.level
def temperatures (s : State) : Word := BitVec.ofNat 64 (bytesNat (takePad 0 5 s.lock.temps))

/-- The home-side cache control register: a size that waits for its flush reads as written. -/
def cacheControl (x : Die) : Word :=
  (0 : BitVec 31) ++ BitVec.ofBool x.busy ++ (0 : BitVec 25) ++ BitVec.ofNat 7 (if x.busy then x.newSize else x.size)

/-- A register of a reach die's block, by its offset; pools and write-only registers apart. -/
def dieRegister (s : State) (d off : Nat) : Word :=
  let x := s.die d
  if off = 0 then cacheControl x
  else if off = 0x8 then x.hits
  else if off = 0x10 then x.misses
  else if off = 0x100 then x.allocBase.setWidth 64
  else if off = 0x110 then x.asBase
  else if off = 0x200 then x.corrected
  else if off = 0x208 then x.poisoned
  else if off = 0x210 then x.chunks
  else if off = 0x218 then x.lastPoison
  else if 0x1000 ≤ off ∧ off < 0x3000 ∧ off % 0x100 = 0x80 then (SMap.getD x.ports ((off - 0x1000) / 0x100) {}).result
  else 0

/-- A register of a hart's inbox (R306). -/
def inboxRegister (x : Hart) (off : Nat) : Word :=
  if off = 0 then x.inboxBase
  else if off = 8 then x.head
  else if off = 0x10 then x.tail
  else ofBit 64 x.arm

/-- A register of the wharf block, by its offset; the snapshot register apart. -/
def wharfRegister (s : State) (off : Nat) : Word :=
  let x := s.wharf
  if off = 0 then x.device.setWidth 64
  else if off = 0x8 then (x.tableBase ++ (0 : BitVec 21)).setWidth 64
  else if off = 0x18 then x.watchdog.setWidth 64
  else if off = 0x28 then x.latch
  else if off = 0x30 then x.dmaBase
  else if 0x40 ≤ off ∧ off < 0x60 then nthD 0 x.steering ((off - 0x40) / 8)
  else if off = 0x80 then x.routing
  else if off = 0x88 then pendingRoutes s
  else if 0x100 ≤ off ∧ off ≤ 0x320 then SMap.getD x.sources ((off - 0x100) / 8) 0
  else if 0x400 ≤ off ∧ off < 0x800 then inboxRegister (s.getHart ((off - 0x400) / 0x20)) (off % 0x20)
  else if 0x800 ≤ off ∧ off < 0x2800 ∧ off % 0x100 = 0x40 then (s.getHart ((off - 0x800) / 0x100)).port.result
  else if off = 0x3000 then lockStatus s
  else if off = 0x3008 then s.lock.events.setWidth 64
  else if off = 0x3010 then x.jBase
  else if off = 0x3018 then x.jHead
  else if off = 0x3020 then x.jRead
  else if off = 0x3028 then x.jThreshold.setWidth 64
  else if off = 0x3030 then s.lock.sequence
  else if off = 0x3038 then Config.governorWord s.lock.power s.lock.current
  else if off = 0x3040 then governorStatus s
  else if off = 0x3048 then temperatures s
  else if 0x3108 ≤ off ∧ off ≤ 0x3118 then nthD 0 s.lock.args ((off - 0x3108) / 8)
  else if off = 0x3120 then s.lock.result
  else 0

/-- What the I3C/SMBus management interface reads at an index (21 R336); it changes nothing. -/
def managementRead (s : State) (k : Nat) : Word :=
  match k with
  | 0 => lockStatus s
  | 1 => s.wharf.jHead
  | 2 => governorStatus s
  | 3 => temperatures s
  | 4 => s.lock.power
  | _ => 0

/-- The block of a register address, 0 to 3 for reach dies and 4 for the wharf, and its offset. -/
def regBlock (a : Nat) : Nat := (a - 0x7C000000000) / 0x10000
def regOff (a : Nat) : Nat := (a - 0x7C000000000) % 0x10000

/-- A load of a device register by a hart: its value and what it changes; none while the allocator has no answer yet. -/
def regLoad (s : State) (a : Nat) : Option (Word × State) :=
  let off := regOff a
  if regBlock a = 4 then
    (if off = 0x20 then some s.snapshot else some (wharfRegister s off, s))
  else if 0x800 ≤ off ∧ off < 0x1000 then (allocAnswer s (regBlock a) ((off - 0x800) / 8)).map fun r => (BitVec.ofNat 64 r.1, r.2)
  else some (dieRegister s (regBlock a) off, s)

-- Writing a register ---------------------------------------------------------------------------------------------------------

/-- A store to a hart's command port: word 15 submits the block (R305). -/
def portStore (s : State) (d h i : Nat) (v : Word) : State :=
  let x := s.die d
  let p := (SMap.getD x.ports h {}).setWord 16 i v
  let s := s.setDie d { x with ports := SMap.set x.ports h p }
  if i = 15 then s.portBlock (Fin.ofNat 32 h) d p.words else s

/-- A store to a reach die's block; none while a pool has no room for a freed address. -/
def dieStore (s : State) (d off : Nat) (v : Word) : Option State :=
  let x := s.die d
  if off = 0 then some (s.setCacheSize d v)
  else if off = 0x100 then some (s.setDie d { x with allocBase := (fld v 5 22 : BitVec 22) ++ (0 : BitVec 5) })
  else if off = 0x108 then (if 255 < v.toNat then some s else if reloadBusy s d v.toNat then none else some (reloadPool s d v.toNat))
  else if off = 0x110 then some (s.setDie d { x with asBase := ((fld v 19 33 : BitVec 33) ++ (0 : BitVec 19)).setWidth 64 })
  else if 0x800 ≤ off ∧ off < 0x1000 then
    (if poolRoom s d ((off - 0x800) / 8) then some (s.helmFree d ((off - 0x800) / 8) v) else none)
  else if 0x1000 ≤ off ∧ off < 0x3000 ∧ off % 0x100 < 0x80 then some (portStore s d ((off - 0x1000) / 0x100) (off % 0x100 / 8) v)
  else some s

/-- A store to a hart's inbox registers (R306, R307). -/
def inboxStore (s : State) (h off : Nat) (v : Word) : State :=
  let x := s.getHart h
  if off = 0 then
    let n := (fld v 0 4).toNat
    s.setHart h { x with inboxBase := ((fld v 12 40 : BitVec 40) ++ (0 : Byte) ++ BitVec.ofNat 4 (if 8 < n then 8 else n)).setWidth 64 }
  else if off = 0x10 then s.setHart h { x with tail := v }
  else if off = 0x18 then s.setArm h (bit v 0)
  else s

/-- The launch record that a port's words make. -/
def portLaunch (w : List Word) : LaunchRec :=
  { w0 := nthD 0 w 0, w1 := nthD 0 w 1, w2 := nthD 0 w 2, w3 := nthD 0 w 3, w4 := nthD 0 w 4, w5 := nthD 0 w 5, w6 := nthD 0 w 6,
    w7 := nthD 0 w 7 }

/-- A store to a hart's launch port: word 7 submits the record (R305). -/
def launchStore (s : State) (h i : Nat) (v : Word) : State :=
  let x := s.getHart h
  let p := x.port.setWord 8 i v
  let s := s.setHart h { x with port := p }
  if i = 7 then s.launchRecord (Fin.ofNat 32 h) true (portLaunch p.words) else s

/-- A store to the wharf block. h is the hart that stores. -/
def wharfStore (s : State) (h : Fin 32) (off : Nat) (v : Word) : State :=
  let x := s.wharf
  if off = 0x8 then s.setTableBase (fld v 21 6)
  else if off = 0x10 then (if bit v 16 then s.resumeTag (fld v 0 16) else s.preemptTag (fld v 0 16))
  else if off = 0x18 then { s with wharf := { x with watchdog := fld v 0 32 } }
  else if off = 0x30 then { s with wharf := { x with dmaBase := v } }
  else if 0x40 ≤ off ∧ off < 0x60 then
    { s with wharf := { x with steering := setAt x.steering ((off - 0x40) / 8) (v &&& 0x1F1F1F1F1F1F1F1F) } }
  else if off = 0x80 then s.setRouting v
  else if 0x100 ≤ off ∧ off ≤ 0x320 then
    { s with wharf := { x with sources := SMap.set x.sources ((off - 0x100) / 8) (v &&& 0x803F00FF) } }
  else if 0x400 ≤ off ∧ off < 0x800 then inboxStore s ((off - 0x400) / 0x20) (off % 0x20) v
  else if 0x800 ≤ off ∧ off < 0x2800 ∧ off % 0x100 < 0x40 then launchStore s ((off - 0x800) / 0x100) (off % 0x100 / 8) v
  else if off = 0x3008 then { s with lock := { s.lock with events := s.lock.events &&& ~~~(fld v 0 5) } }
  else if off = 0x3020 then { s with wharf := { x with jRead := v } }
  else if off = 0x3028 then { s with wharf := { x with jThreshold := fld v 0 21 } }
  else if off = 0x3100 then (if (s.getHart h.val).mode = .u then s else s.submitCommand h v s.lock.args)
  else if 0x3108 ≤ off ∧ off ≤ 0x3118 then { s with lock := { s.lock with args := setAt s.lock.args ((off - 0x3108) / 8) v } }
  else s

/-- A store to a device register by a hart; none while it waits. -/
def regStore (s : State) (h : Fin 32) (a : Nat) (v : Word) : Option State :=
  if regBlock a = 4 then some (wharfStore s h (regOff a) v) else dieStore s (regBlock a) (regOff a) v

/-- A hart takes an exception of an access. -/
def State.accessFault (s : State) (h : Fin 32) (cause : Nat) (pa : BitVec 56) : State :=
  { State.exception { s with hart := h } cause (pa.setWidth 64) with hart := s.hart }

def execRegisterWrite (h : Fin 32) (pa : BitVec 56) (v : Word) (s : State) : Host.Outcome State Fault Refusal :=
  .next (
    if !s.helmReady h || !isRegister pa.toNat then s
    else if pa.toNat % 8 ≠ 0 then s.accessFault h causeStore pa
    else match regStore s h pa.toNat v with
      | some s => s.helmNext h
      | none => s)

-- Accesses (R299-R303) -----------------------------------------------------------------------------------------------------------

/-- Where a helm access of n bytes lies. -/
inductive HelmPlace where
  | main | basin | register | imsic | timer | aplic | device | nowhere
  deriving DecidableEq, Repr

/-- MTIMER. -/
def isTimer (a : Nat) : Bool := decide (0x7C201000000 ≤ a ∧ a < 0x7C201008000)
/-- The APLIC. -/
def isAplic (a : Nat) : Bool := decide (0x7C200000000 ≤ a ∧ a < 0x7C201000000)
/-- ECAM and the port windows, whose devices the spec does not describe. -/
def isDevice (a : Nat) : Bool :=
  decide ((0x78000000000 ≤ a ∧ a < 0x78020000000) ∨ (0x7A000000000 ≤ a ∧ a < 0x7A800000000))

/-- The place of an access; one that leaves its range, or has bits 55 to 52 set, lies nowhere. -/
def placeOf (a n : Nat) : HelmPlace :=
  let b := a + n - 1
  if isMain a && isMain b then .main
  else if isBasin a && isBasin b then .basin
  else if isRegister a then .register
  else if isImsic a && isImsic b then .imsic
  else if isTimer a && isTimer b then .timer
  else if isAplic a && isAplic b then .aplic
  else if isDevice a && isDevice b then .device
  else .nowhere

/-- Whether a place takes no access of n bytes at an address. -/
def HelmPlace.refuses (p : HelmPlace) (a n : Nat) : Bool :=
  match p with
  | .nowhere => true
  | .register => n != 8 || a % 8 != 0
  | .timer => a % n != 0
  | .aplic => n != 4 || a % 4 != 0
  | _ => false

/-- The value of a load of n bytes. -/
def extended (signed : Bool) (n : Nat) (v : Nat) : Word := if signed then sext64 (8 * n) (BitVec.ofNat 64 v) else BitVec.ofNat 64 v

/-- Whether an access may use the helm caches: main memory, mapped as PMA. -/
def isCached (p : HelmPlace) (m : Pbmt) : Bool := p == .main && m == .pma

/-- Takes the lines of a range into the helm caches. -/
def takeLines (s : State) (g a n : Nat) : State := iter (fun i s => takeLine s g (a / 64 + i)) (lineCount a n) s

/-- Reads bytes for a hart: through the helm caches, or at the home. -/
def hartBytes (s : State) (cached : Bool) (g a n : Nat) : List Byte × State :=
  if cached then
    let s := takeLines s g a n
    (helmRead s g a n, s)
  else helmHomeRead s g a n

/-- Writes bytes for a hart. -/
def hartWrite (s : State) (cached : Bool) (g a : Nat) (bs : List Byte) : State :=
  let s := dropReserved s a bs.length
  if cached then helmPut (takeLines s g a bs.length) g a bs (lineCount a bs.length) else helmHomeWrite s g a bs

/-- The value that an AMO writes, on w bits. -/
def amoValue (op : HelmAmo) (w : Nat) (old v : Word) : Word :=
  let so := signedOf w old
  let sv := signedOf w v
  let uo := unsignedOf w old
  let uv := unsignedOf w v
  match op with
  | .swap => v
  | .add => old + v
  | .xor => old ^^^ v
  | .and => old &&& v
  | .or => old ||| v
  | .min => if so ≤ sv then old else v
  | .max => if sv ≤ so then old else v
  | .minu => if uo ≤ uv then old else v
  | .maxu => if uv ≤ uo then old else v

/-- What a load comes to: a value and the state behind it, or no value yet. -/
inductive Loaded where
  | value (v : Word) (s : State)
  | none (s : State)

/-- A load from main memory or a Basin. -/
def memLoad (s : State) (h : Fin 32) (p : HelmPlace) (m : Pbmt) (signed : Bool) (pa : BitVec 56) (n : Nat) : Loaded :=
  if meetsPoison s (isCached p m) pa.toNat n then .none (fire (s.accessFault h causeLoad pa) 65)
  else
    let (bs, s) := hartBytes s (isCached p m) (helmGen s h.val) pa.toNat n
    .value (extended signed n (bytesNat bs)) s

/-- An AMO on main memory or a Basin, of 32 or 64 bits; a misaligned one, or one that meets poison, faults. -/
def memAmo (s : State) (h : Fin 32) (p : HelmPlace) (m : Pbmt) (op : HelmAmo) (rd : Fin 32) (v : Word) (pa : BitVec 56) (n : Nat) : State :=
  if n < 4 then s.accessFault h causeIllegal 0
  else if pa.toNat % n ≠ 0 then s.accessFault h 6 pa
  else if meetsPoison s (isCached p m) pa.toNat n then fire (s.accessFault h causeStore pa) 65
  else
    let g := helmGen s h.val
    let (bs, s) := hartBytes s (isCached p m) g pa.toNat n
    let old := extended true n (bytesNat bs)
    (hartWrite s (isCached p m) g pa.toNat (natBytes n (amoValue op (8 * n) old v).toNat)).helmLoad h rd old

/-- A word of MTIMER: mtimecmp of hart h at 8h, mtime at 0x7FF8. -/
def timerWord (s : State) (a : Nat) : Word :=
  let i := (a - 0x7C201000000) / 8
  if i = 0xFFF then BitVec.ofNat 64 s.mtime else if i < 32 then mtimecmpOf s i else 0

/-- Writes mtimecmp, or mtime, which counts on from there (ACLINT; log entry 10). -/
def timerStore (s : State) (a n : Nat) (v : Word) : State :=
  let i := (a - 0x7C201000000) / 8
  let w := bytesNat ((natBytes 8 (timerWord s a).toNat).take (a % 8) ++ natBytes n v.toNat ++ (natBytes 8 (timerWord s a).toNat).drop (a % 8 + n))
  if i < 32 then { s with wharf := { s.wharf with mtimecmp := SMap.set s.wharf.mtimecmp i (BitVec.ofNat 64 w) } }
  else if i = 0xFFF then { s with mtime := w }
  else s

-- The APLIC (R299, R300; log entry 10) ----------------------------------------------------------------------------------------------

/-- A pending source that is enabled and active in an enabled domain sends its MSI, to the hart and with the identity of its target, and is pending
no more. -/
def aplicSend (s : State) (i : Nat) : State :=
  let x := s.wharf
  if x.aplicOn && x.aplicPending.contains i && x.aplicEnabled.contains i && (fld (SMap.getD x.aplicConfig i 0) 0 3 : BitVec 3) != 0 then
    let t := SMap.getD x.aplicTarget i 0
    State.msi { s with wharf := { x with aplicPending := x.aplicPending.filter (· != i) } }
      (0x7C100000000 + 0x10000 * (fld t 18 5 : BitVec 5).toNat) (fld t 0 11 : BitVec 11).toNat
  else s

/-- Sends what each source of a list has pending. -/
def aplicSendAll (s : State) (l : List Nat) : State := l.foldl aplicSend s

/-- An INTx line changes: its source becomes pending where it is configured for the line's rise or high level, and a level that ends is pending no
more (log entry 17). -/
def aplicInput (s : State) (i : Nat) (on : Bool) : State :=
  let m : BitVec 3 := fld (SMap.getD s.wharf.aplicConfig i 0) 0 3
  let pending := s.wharf.aplicPending
  if (on && (m == 4 || m == 6)) || (!on && (m == 5 || m == 7)) then
    aplicSend { s with wharf := { s.wharf with aplicPending := insertNat pending i } } i
  else if m = 6 ∨ m = 7 then { s with wharf := { s.wharf with aplicPending := pending.filter (· != i) } }
  else s

/-- A root port's event fires source 67 or 68; an INTx line drives its source of the APLIC (R308, R310). -/
def execPciePortEvent (ev : PciEvent) (s : State) : Host.Outcome State Fault Refusal :=
  .next (
    match ev with
    | .event port => fire s (67 + port.val)
    | .intx port line on => aplicInput s ((Config.intxSource port.val line.val).val + 1) on)

/-- The sources of a word of 32 bits, by the word's number; source 0 does not exist. -/
def aplicBits (i : Nat) (v : W32) : List Nat := ((List.range 32).filter fun b => v.getLsbD b && (32 * i + b != 0)).map (32 * i + ·)

/-- Sets and clears members of an ascending list. -/
def withAll (l more : List Nat) : List Nat := more.foldl insertNat l
def without (l less : List Nat) : List Nat := l.filter fun i => !less.contains i

/-- A word of bits that a list of sources makes. -/
def aplicWord (l : List Nat) (i : Nat) : W32 :=
  l.foldl (fun w j => if j / 32 = i then w ||| (1 : W32) <<< (j % 32) else w) 0

/-- A word of the APLIC. -/
def aplicLoad (s : State) (off : Nat) : W32 :=
  let x := s.wharf
  if off = 0 then 0x80000004 ||| (if x.aplicOn then 0x100 else 0)
  else if 4 ≤ off ∧ off < 0x1000 then SMap.getD x.aplicConfig (off / 4) 0
  else if 0x1C00 ≤ off ∧ off < 0x1C80 then aplicWord x.aplicPending ((off - 0x1C00) / 4)
  else if 0x1E00 ≤ off ∧ off < 0x1E80 then aplicWord x.aplicEnabled ((off - 0x1E00) / 4)
  else if 0x3004 ≤ off ∧ off < 0x4000 then SMap.getD x.aplicTarget ((off - 0x3000) / 4) 0
  else 0

/-- A store of a word to the APLIC: configuration, pending and enable bits by word or by number, targets, and an MSI of software's own. -/
def aplicStore (s : State) (off : Nat) (v : W32) : State :=
  let x := s.wharf
  let one : List Nat := if v = 0 then [] else [v.toNat % 1024]
  let pend (l : List Nat) : State := aplicSendAll { s with wharf := { x with aplicPending := withAll x.aplicPending l } } l
  let unpend (l : List Nat) : State := { s with wharf := { x with aplicPending := without x.aplicPending l } }
  let enable (l : List Nat) : State := aplicSendAll { s with wharf := { x with aplicEnabled := withAll x.aplicEnabled l } } l
  let disable (l : List Nat) : State := { s with wharf := { x with aplicEnabled := without x.aplicEnabled l } }
  if off = 0 then aplicSendAll { s with wharf := { x with aplicOn := bit v 8 } } x.aplicPending
  else if 4 ≤ off ∧ off < 0x1000 then
    { s with wharf := { x with aplicConfig := SMap.set x.aplicConfig (off / 4) (v &&& 7) } }
  else if 0x1C00 ≤ off ∧ off < 0x1C80 then pend (aplicBits ((off - 0x1C00) / 4) v)
  else if off = 0x1CDC then pend one
  else if 0x1D00 ≤ off ∧ off < 0x1D80 then unpend (aplicBits ((off - 0x1D00) / 4) v)
  else if off = 0x1DDC then unpend one
  else if 0x1E00 ≤ off ∧ off < 0x1E80 then enable (aplicBits ((off - 0x1E00) / 4) v)
  else if off = 0x1EDC then enable one
  else if 0x1F00 ≤ off ∧ off < 0x1F80 then disable (aplicBits ((off - 0x1F00) / 4) v)
  else if off = 0x1FDC then disable one
  else if off = 0x2000 then pend one
  else if off = 0x3000 then s.msi (0x7C100000000 + 0x10000 * (fld v 18 5 : BitVec 5).toNat) (fld v 0 11 : BitVec 11).toNat
  else if 0x3004 ≤ off ∧ off < 0x4000 then { s with wharf := { x with aplicTarget := SMap.set x.aplicTarget ((off - 0x3000) / 4) (v &&& 0xFFFC07FF) } }
  else s

/-- A load of a hart, by place. What a device that the spec does not describe returns is a free value (log entry 17). -/
def helmReadAt (s : State) (h : Fin 32) (p : HelmPlace) (m : Pbmt) (signed : Bool) (pa : BitVec 56) (n : Nat) : Loaded :=
  let a := pa.toNat
  if p.refuses a n then .none (s.accessFault h causeLoad pa)
  else match p with
  | .main => memLoad s h p m signed pa n
  | .basin => memLoad s h p m signed pa n
  | .register =>
    match regLoad s a with
    | some (v, s) => .value v s
    | none => .none s
  | .imsic => .value 0 s
  | .timer => .value (extended signed n (bytesNat (((natBytes 8 (timerWord s a).toNat).drop (a % 8)).take n))) s
  | .aplic => .value (extended signed 4 (aplicLoad s (a - 0x7C200000000)).toNat) s
  | .device => .value (extended signed n ((Config.freeWord s.fresh).toNat % 2 ^ (8 * n))) { s with fresh := s.fresh + 1 }
  | .nowhere => .none (s.accessFault h causeLoad pa)

/-- A load into an integer register. -/
def helmLoadAt (s : State) (h : Fin 32) (p : HelmPlace) (m : Pbmt) (rd : Fin 32) (signed : Bool) (pa : BitVec 56) (n : Nat) : State :=
  match helmReadAt s h p m signed pa n with
  | .value v s => s.helmLoad h rd v
  | .none s => s

/-- What a store of a hart does at a place that takes it; none while it waits. -/
def helmWriteAt (s : State) (h : Fin 32) (p : HelmPlace) (m : Pbmt) (v : Word) (a n : Nat) : Option State :=
  match p with
  | .main => some (hartWrite s (isCached p m) (helmGen s h.val) a (natBytes n v.toNat))
  | .basin => some (hartWrite s false (helmGen s h.val) a (natBytes n v.toNat))
  | .register => regStore s h a v
  | .imsic => some (if n = 4 then s.msi a (v.toNat % 2 ^ 32) else s)
  | .timer => some (timerStore s a n v)
  | .aplic => some (aplicStore s (a - 0x7C200000000) (v.setWidth 32))
  | .device => some s
  | .nowhere => some s

/-- A store of a hart, by place. -/
def helmStoreAt (s : State) (h : Fin 32) (p : HelmPlace) (m : Pbmt) (v : Word) (pa : BitVec 56) (n : Nat) : State :=
  if p.refuses pa.toNat n then s.accessFault h causeStore pa
  else match helmWriteAt s h p m v pa.toNat n with
    | some s => s.helmNext h
    | none => s

/-- Bytes of an access size. -/
def helmBytes (z : Size) : Nat :=
  match z with
  | .s8 => 1
  | .s16 => 2
  | .s32 => 4
  | .s64 => 8

/-- A cache-block instruction on the block of an address: clean, flush and inval, which write a dirty line back, and zero (R303). -/
def blockOp (s : State) (h : Fin 32) (p : HelmPlace) (m : Pbmt) (op : HelmOp) (pa : BitVec 56) : State :=
  let l := pa.toNat / 64
  if p = .nowhere ∨ p = .register then s.accessFault h causeStore pa
  else
    let s := match op with
      | .clean => if isCached p m then cleanLine s l else s
      | .flush => if isCached p m then dropLine s l else s
      | .inval => if isCached p m then dropLine s l else s
      | .zero => if p = HelmPlace.main ∨ p = HelmPlace.basin then hartWrite s (isCached p m) (helmGen s h.val) (64 * l) (List.replicate 64 0) else s
      | _ => s
    s.helmNext h

def execHelmAccess (h : Fin 32) (op : HelmOp) (pa : BitVec 56) (sz : Size) (pbmt : Pbmt) (s : State) : Host.Outcome State Fault Refusal :=
  .next (
    if !s.helmReady h then s
    else
      let p := placeOf pa.toNat (helmBytes sz)
      match op with
      | .load rd signed => helmLoadAt s h p pbmt rd signed pa (helmBytes sz)
      | .store v => helmStoreAt s h p pbmt v pa (helmBytes sz)
      | .amo o rd v =>
        if p = HelmPlace.main ∨ p = HelmPlace.basin then memAmo s h p pbmt o rd v pa (helmBytes sz) else s.accessFault h causeStore pa
      | .clean => blockOp s h (placeOf pa.toNat 1) pbmt op pa
      | .flush => blockOp s h (placeOf pa.toNat 1) pbmt op pa
      | .inval => blockOp s h (placeOf pa.toNat 1) pbmt op pa
      | .zero => blockOp s h (placeOf pa.toNat 1) pbmt op pa
      | .evict => dropLine s (pa.toNat / 64))

end Sys2Proof.Machine
end

