-- ==== Sys2Proof/Machine/Dispatch.lean ====
section
/-! DEFINITION. One arm a constructor: which meaning each row of the table has. -/

namespace Sys2Proof.Machine

open Sys2Proof

/-- The meaning of each row. -/
def exec (i : Instr) (s : State) : Host.Outcome State Fault Refusal :=
  match i with
  | .add d a b w => Sys2Proof.Machine.execAdd d a b w s
  | .sub d a b w => Sys2Proof.Machine.execSub d a b w s
  | .minI d a b w => Sys2Proof.Machine.execMinI d a b w s
  | .maxI d a b w => Sys2Proof.Machine.execMaxI d a b w s
  | .minN d a b w => Sys2Proof.Machine.execMinN d a b w s
  | .maxN d a b w => Sys2Proof.Machine.execMaxN d a b w s
  | .and d a b w => Sys2Proof.Machine.execAnd d a b w s
  | .or d a b w => Sys2Proof.Machine.execOr d a b w s
  | .xor d a b w => Sys2Proof.Machine.execXor d a b w s
  | .andn d a b w => Sys2Proof.Machine.execAndn d a b w s
  | .shl d a b w => Sys2Proof.Machine.execShl d a b w s
  | .shrN d a b w => Sys2Proof.Machine.execShrN d a b w s
  | .shrI d a b w => Sys2Proof.Machine.execShrI d a b w s
  | .rot d a b w => Sys2Proof.Machine.execRot d a b w s
  | .cmp cc d a b w => Sys2Proof.Machine.execCmp cc d a b w s
  | .sel d a b w => Sys2Proof.Machine.execSel d a b w s
  | .mul d a b w => Sys2Proof.Machine.execMul d a b w s
  | .mulhI d a b w => Sys2Proof.Machine.execMulhI d a b w s
  | .mulhN d a b w => Sys2Proof.Machine.execMulhN d a b w s
  | .divI d a b w => Sys2Proof.Machine.execDivI d a b w s
  | .divN d a b w => Sys2Proof.Machine.execDivN d a b w s
  | .remI d a b w => Sys2Proof.Machine.execRemI d a b w s
  | .remN d a b w => Sys2Proof.Machine.execRemN d a b w s
  | .clz d a w => Sys2Proof.Machine.execClz d a w s
  | .ctz d a w => Sys2Proof.Machine.execCtz d a w s
  | .popc d a w => Sys2Proof.Machine.execPopc d a w s
  | .extI d a b w => Sys2Proof.Machine.execExtI d a b w s
  | .extN d a b w => Sys2Proof.Machine.execExtN d a b w s
  | .ins d a b w => Sys2Proof.Machine.execIns d a b w s
  | .lea sc d a b w => Sys2Proof.Machine.execLea sc d a b w s
  | .mov d a w => Sys2Proof.Machine.execMov d a w s
  | .rds d r => Sys2Proof.Machine.execRds d r s
  | .wrs r a => Sys2Proof.Machine.execWrs r a s
  | .b off => Sys2Proof.Machine.execB off s
  | .call off => Sys2Proof.Machine.execCall off s
  | .br cc a b off => Sys2Proof.Machine.execBr cc a b off s
  | .bz a off => Sys2Proof.Machine.execBz a off s
  | .bnz a off => Sys2Proof.Machine.execBnz a off s
  | .jmp a => Sys2Proof.Machine.execJmp a s
  | .callr a => Sys2Proof.Machine.execCallr a s
  | .ret => Sys2Proof.Machine.execRet s
  | .endT => Sys2Proof.Machine.execEndT s
  | .yield => Sys2Proof.Machine.execYield s
  | .wait a => Sys2Proof.Machine.execWait a s
  | .alarm a => Sys2Proof.Machine.execAlarm a s
  | .ld sz signed rlx sg d o disp => Sys2Proof.Machine.execLd sz signed rlx sg d o disp s
  | .st sz rlx sg a o disp => Sys2Proof.Machine.execSt sz rlx sg a o disp s
  | .vld sz m rlx sg vd o disp => Sys2Proof.Machine.execVld sz m rlx sg vd o disp s
  | .vst sz m rlx sg va o disp => Sys2Proof.Machine.execVst sz m rlx sg va o disp s
  | .amo op wide sg d o disp => Sys2Proof.Machine.execAmo op wide sg d o disp s
  | .bop op sg va o m => Sys2Proof.Machine.execBop op sg va o m s
  | .fenceRx => Sys2Proof.Machine.execFenceRx s
  | .fenceSc sc => Sys2Proof.Machine.execFenceSc sc s
  | .sgnarrow sg a o keep => Sys2Proof.Machine.execSgnarrow sg a o keep s
  | .sgrd sg d word => Sys2Proof.Machine.execSgrd sg d word s
  | .vadd t vd va vb m => Sys2Proof.Machine.execVadd t vd va vb m s
  | .vsub t vd va vb m => Sys2Proof.Machine.execVsub t vd va vb m s
  | .vmul t vd va vb m => Sys2Proof.Machine.execVmul t vd va vb m s
  | .vfma t vd va vb vc m => Sys2Proof.Machine.execVfma t vd va vb vc m s
  | .vfms t vd va vb vc m => Sys2Proof.Machine.execVfms t vd va vb vc m s
  | .vmax t vd va vb m => Sys2Proof.Machine.execVmax t vd va vb m s
  | .vmin t vd va vb m => Sys2Proof.Machine.execVmin t vd va vb m s
  | .vabs t vd va m => Sys2Proof.Machine.execVabs t vd va m s
  | .vneg t vd va m => Sys2Proof.Machine.execVneg t vd va m s
  | .vdiv t vd va vb m => Sys2Proof.Machine.execVdiv t vd va vb m s
  | .vrcp t vd va m => Sys2Proof.Machine.execVrcp t vd va m s
  | .vrsq t vd va m => Sys2Proof.Machine.execVrsq t vd va m s
  | .vexp2 t vd va m => Sys2Proof.Machine.execVexp2 t vd va m s
  | .vlog2 t vd va m => Sys2Proof.Machine.execVlog2 t vd va m s
  | .viadd t vd va vb m sat => Sys2Proof.Machine.execViadd t vd va vb m sat s
  | .visub t vd va vb m sat => Sys2Proof.Machine.execVisub t vd va vb m sat s
  | .vimul t vd va vb m => Sys2Proof.Machine.execVimul t vd va vb m s
  | .vimax t vd va vb m => Sys2Proof.Machine.execVimax t vd va vb m s
  | .vimin t vd va vb m => Sys2Proof.Machine.execVimin t vd va vb m s
  | .vshl t vd va vb m => Sys2Proof.Machine.execVshl t vd va vb m s
  | .vshrN t vd va vb m => Sys2Proof.Machine.execVshrN t vd va vb m s
  | .vshrI t vd va vb m => Sys2Proof.Machine.execVshrI t vd va vb m s
  | .vand vd va vb m => Sys2Proof.Machine.execVand vd va vb m s
  | .vor vd va vb m => Sys2Proof.Machine.execVor vd va vb m s
  | .vxor vd va vb m => Sys2Proof.Machine.execVxor vd va vb m s
  | .vcmp cc t md va vb m => Sys2Proof.Machine.execVcmp cc t md va vb m s
  | .vsel t vd va vb m => Sys2Proof.Machine.execVsel t vd va vb m s
  | .vcvt td ts vd va part m r => Sys2Proof.Machine.execVcvt td ts vd va part m r s
  | .vpermB vd va vb m => Sys2Proof.Machine.execVpermB vd va vb m s
  | .vshuf vd va vb vc m => Sys2Proof.Machine.execVshuf vd va vb vc m s
  | .vsplat sz vd a m => Sys2Proof.Machine.execVsplat sz vd a m s
  | .vextr sz lane va d => Sys2Proof.Machine.execVextr sz lane va d s
  | .vinsr sz lane vd a => Sys2Proof.Machine.execVinsr sz lane vd a s
  | .vredAdd t vd va m => Sys2Proof.Machine.execVredAdd t vd va m s
  | .vredMax t vd va m => Sys2Proof.Machine.execVredMax t vd va m s
  | .vredMin t vd va m => Sys2Proof.Machine.execVredMin t vd va m s
  | .vdot4 vd va vb vc m => Sys2Proof.Machine.execVdot4 vd va vb vc m s
  | .mset md a => Sys2Proof.Machine.execMset md a s
  | .mand md ma mb => Sys2Proof.Machine.execMand md ma mb s
  | .mor md ma mb => Sys2Proof.Machine.execMor md ma mb s
  | .mnot md ma => Sys2Proof.Machine.execMnot md ma s
  | .mmov md ma => Sys2Proof.Machine.execMmov md ma s
  | .wld sg a b => Sys2Proof.Machine.execWld sg a b s
  | .wrun kt n a b => Sys2Proof.Machine.execWrun kt n a b s
  | .wrunO kt a => Sys2Proof.Machine.execWrunO kt a s
  | .wrunC kt a b => Sys2Proof.Machine.execWrunC kt a b s
  | .waccS col d => Sys2Proof.Machine.execWaccS col d s
  | .waccU col d a => Sys2Proof.Machine.execWaccU col d a s
  | .waccD col d a => Sys2Proof.Machine.execWaccD col d a s
  | .waccP col d a => Sys2Proof.Machine.execWaccP col d a s
  | .wstat d a => Sys2Proof.Machine.execWstat d a s
  | .wclr => Sys2Proof.Machine.execWclr s
  | .spawn a b => Sys2Proof.Machine.execSpawn a b s
  | .postCnt b => Sys2Proof.Machine.execPostCnt b s
  | .postCntSolo b => Sys2Proof.Machine.execPostCntSolo b s
  | .postWake a => Sys2Proof.Machine.execPostWake a s
  | .postWakeSolo a => Sys2Proof.Machine.execPostWakeSolo a s
  | .postUpd op len b => Sys2Proof.Machine.execPostUpd op len b s
  | .msg len a b => Sys2Proof.Machine.execMsg len a b s
  | .join d a => Sys2Proof.Machine.execJoin d a s
  | .leave d a => Sys2Proof.Machine.execLeave d a s
  | .bar a => Sys2Proof.Machine.execBar a s
  | .tow a b => Sys2Proof.Machine.execTow a b s
  | .moor d a => Sys2Proof.Machine.execMoor d a s
  | .castoff => Sys2Proof.Machine.execCastoff s
  | .qcfg a b => Sys2Proof.Machine.execQcfg a b s
  | .qeos a => Sys2Proof.Machine.execQeos a s
  | .push p a => Sys2Proof.Machine.execPush p a s
  | .pop d p => Sys2Proof.Machine.execPop d p s
  | .poll d p => Sys2Proof.Machine.execPoll d p s
  | .alloc d a => Sys2Proof.Machine.execAlloc d a s
  | .free a b => Sys2Proof.Machine.execFree a b s
  | .bellh d a => Sys2Proof.Machine.execBellh d a s
  | .bret => Sys2Proof.Machine.execBret s
  | .sys a b => Sys2Proof.Machine.execSys a b s
  | .trap a => Sys2Proof.Machine.execTrap a s
  | .rdcap d a b => Sys2Proof.Machine.execRdcap d a b s
  | .kpark d => Sys2Proof.Machine.execKpark d s
  | .kresume d => Sys2Proof.Machine.execKresume d s
  | .kkill d => Sys2Proof.Machine.execKkill d s
  | .ksave d => Sys2Proof.Machine.execKsave d s
  | .kload d => Sys2Proof.Machine.execKload d s
  | .sgset sg a b => Sys2Proof.Machine.execSgset sg a b s
  | .sgsetK sg a b => Sys2Proof.Machine.execSgsetK sg a b s
  | .ctuinv a b => Sys2Proof.Machine.execCtuinv a b s
  | .kret r a => Sys2Proof.Machine.execKret r a s
  | .kfence => Sys2Proof.Machine.execKfence s
  | .kpost a => Sys2Proof.Machine.execKpost a s
  | .kcfg a b => Sys2Proof.Machine.execKcfg a b s
  | .swqRun rd rs1 rs2 => Sys2Proof.Machine.execSwqRun rd rs1 rs2 s
  | .swqIcw rs1 rs2 => Sys2Proof.Machine.execSwqIcw rs1 rs2 s
  | .swqIcinv rs1 => Sys2Proof.Machine.execSwqIcinv rs1 s
  | .swqGen rd rs1 => Sys2Proof.Machine.execSwqGen rd rs1 s
  | .swqPost rd rs1 => Sys2Proof.Machine.execSwqPost rd rs1 s
  | .swqHold rd rs1 rs2 => Sys2Proof.Machine.execSwqHold rd rs1 rs2 s
  | .swqNop wide => Sys2Proof.Machine.execSwqNop wide s
  | .swqMov wide d a => Sys2Proof.Machine.execSwqMov wide d a s
  | .swqLdc wide d k => Sys2Proof.Machine.execSwqLdc wide d k s
  | .swqLdi wide d imm => Sys2Proof.Machine.execSwqLdi wide d imm s
  | .swqLdn wide d => Sys2Proof.Machine.execSwqLdn wide d s
  | .swqLdg wide d site => Sys2Proof.Machine.execSwqLdg wide d site s
  | .swqStg wide a site => Sys2Proof.Machine.execSwqStg wide a site s
  | .swqGeta wide d a site => Sys2Proof.Machine.execSwqGeta wide d a site s
  | .swqSeta wide a b site => Sys2Proof.Machine.execSwqSeta wide a b site s
  | .swqGeti wide d a b => Sys2Proof.Machine.execSwqGeti wide d a b s
  | .swqSeti wide a b c => Sys2Proof.Machine.execSwqSeti wide a b c s
  | .swqGetm wide d a site => Sys2Proof.Machine.execSwqGetm wide d a site s
  | .swqAdd wide d a b => Sys2Proof.Machine.execSwqAdd wide d a b s
  | .swqSub wide d a b => Sys2Proof.Machine.execSwqSub wide d a b s
  | .swqMul wide d a b => Sys2Proof.Machine.execSwqMul wide d a b s
  | .swqDiv wide d a b => Sys2Proof.Machine.execSwqDiv wide d a b s
  | .swqMod wide d a b => Sys2Proof.Machine.execSwqMod wide d a b s
  | .swqNeg wide d a => Sys2Proof.Machine.execSwqNeg wide d a s
  | .swqCmp wide d a b cc => Sys2Proof.Machine.execSwqCmp wide d a b cc s
  | .swqNot wide d a => Sys2Proof.Machine.execSwqNot wide d a s
  | .swqJmp wide off => Sys2Proof.Machine.execSwqJmp wide off s
  | .swqJt wide a off => Sys2Proof.Machine.execSwqJt wide a off s
  | .swqJf wide a off => Sys2Proof.Machine.execSwqJf wide a off s
  | .swqCall wide d f a n site => Sys2Proof.Machine.execSwqCall wide d f a n site s
  | .swqCallm wide d a n site => Sys2Proof.Machine.execSwqCallm wide d a n site s
  | .swqRet wide a => Sys2Proof.Machine.execSwqRet wide a s
  | .swqRaise wide a => Sys2Proof.Machine.execSwqRaise wide a s
  | .swqNewo wide d k => Sys2Proof.Machine.execSwqNewo wide d k s
  | .swqNewl wide d a n => Sys2Proof.Machine.execSwqNewl wide d a n s
  | .swqNewt wide d a n => Sys2Proof.Machine.execSwqNewt wide d a n s
  | .swqLen wide d a => Sys2Proof.Machine.execSwqLen wide d a s
  | .swqIter wide d a => Sys2Proof.Machine.execSwqIter wide d a s
  | .swqNext wide d a b off => Sys2Proof.Machine.execSwqNext wide d a b off s
  | .swqTnew wide d a b => Sys2Proof.Machine.execSwqTnew wide d a b s
  | .swqTcall wide d a b c site => Sys2Proof.Machine.execSwqTcall wide d a b c site s
  | .swqTcopy wide d a b => Sys2Proof.Machine.execSwqTcopy wide d a b s
  | .swqTwait wide a => Sys2Proof.Machine.execSwqTwait wide a s
  | .swqDrop wide a => Sys2Proof.Machine.execSwqDrop wide a s
  | .swqGuard wide a site => Sys2Proof.Machine.execSwqGuard wide a site s
  | .swqGcstep wide n => Sys2Proof.Machine.execSwqGcstep wide n s
  | .swqExit wide => Sys2Proof.Machine.execSwqExit wide s
  | .powerOn found => Sys2Proof.Machine.execPowerOn found s
  | .reservedEncoding word => Sys2Proof.Machine.execReservedEncoding word s
  | .unknownOpcode op => Sys2Proof.Machine.execUnknownOpcode op s
  | .launch h viaPort r => Sys2Proof.Machine.execLaunch h viaPort r s
  | .copyLaunch h viaPort r => Sys2Proof.Machine.execCopyLaunch h viaPort r s
  | .recordArrival n far => Sys2Proof.Machine.execRecordArrival n far s
  | .postPortAccept c k => Sys2Proof.Machine.execPostPortAccept c k s
  | .trapRecordDispatch c => Sys2Proof.Machine.execTrapRecordDispatch c s
  | .faultRecordDispatch c => Sys2Proof.Machine.execFaultRecordDispatch c s
  | .wakeDispatch c => Sys2Proof.Machine.execWakeDispatch c s
  | .replayWake c => Sys2Proof.Machine.execReplayWake c s
  | .replyDispatch c => Sys2Proof.Machine.execReplyDispatch c s
  | .accessReply c => Sys2Proof.Machine.execAccessReply c s
  | .counterDispatch c => Sys2Proof.Machine.execCounterDispatch c s
  | .counterApply c => Sys2Proof.Machine.execCounterApply c s
  | .messageDispatch c => Sys2Proof.Machine.execMessageDispatch c s
  | .remoteAccessDispatch c => Sys2Proof.Machine.execRemoteAccessDispatch c s
  | .updateDispatch c => Sys2Proof.Machine.execUpdateDispatch c s
  | .updateApply c => Sys2Proof.Machine.execUpdateApply c s
  | .taskDispatch c => Sys2Proof.Machine.execTaskDispatch c s
  | .orderedLaneRelease c => Sys2Proof.Machine.execOrderedLaneRelease c s
  | .dequeThreadCreate c => Sys2Proof.Machine.execDequeThreadCreate c s
  | .threadRetire c k => Sys2Proof.Machine.execThreadRetire c k s
  | .abortNotice tag => Sys2Proof.Machine.execAbortNotice tag s
  | .abortRelay c tag => Sys2Proof.Machine.execAbortRelay c tag s
  | .memoryReply c k => Sys2Proof.Machine.execMemoryReply c k s
  | .relaxedAccessComplete c k n => Sys2Proof.Machine.execRelaxedAccessComplete c k n s
  | .relaxedFaultFound c k => Sys2Proof.Machine.execRelaxedFaultFound c k s
  | .windowSpillFillComplete c k => Sys2Proof.Machine.execWindowSpillFillComplete c k s
  | .divideComplete c k => Sys2Proof.Machine.execDivideComplete c k s
  | .iterativeComplete c k => Sys2Proof.Machine.execIterativeComplete c k s
  | .alarmExpiry c k => Sys2Proof.Machine.execAlarmExpiry c k s
  | .kwdTimeout c k => Sys2Proof.Machine.execKwdTimeout c k s
  | .slotStarvation c => Sys2Proof.Machine.execSlotStarvation c s
  | .bellTaken c k => Sys2Proof.Machine.execBellTaken c k s
  | .forwardedInstruction n => Sys2Proof.Machine.execForwardedInstruction n s
  | .moorRejoin c k => Sys2Proof.Machine.execMoorRejoin c k s
  | .groupReply c k => Sys2Proof.Machine.execGroupReply c k s
  | .barrierRoundComplete gid => Sys2Proof.Machine.execBarrierRoundComplete gid s
  | .barrierWatchdogExpiry gid => Sys2Proof.Machine.execBarrierWatchdogExpiry gid s
  | .weirRunGrant c => Sys2Proof.Machine.execWeirRunGrant c s
  | .weirRunComplete c => Sys2Proof.Machine.execWeirRunComplete c s
  | .weirOperandFault c => Sys2Proof.Machine.execWeirOperandFault c s
  | .wldComplete c k => Sys2Proof.Machine.execWldComplete c k s
  | .scFenceComplete c k => Sys2Proof.Machine.execScFenceComplete c k s
  | .ctuinvComplete c => Sys2Proof.Machine.execCtuinvComplete c s
  | .keeperSaveLoadComplete c => Sys2Proof.Machine.execKeeperSaveLoadComplete c s
  | .allocatorReply c k => Sys2Proof.Machine.execAllocatorReply c k s
  | .engineQueueRoom c k => Sys2Proof.Machine.execEngineQueueRoom c k s
  | .copyChunk cl n chunk part => Sys2Proof.Machine.execCopyChunk cl n chunk part s
  | .gatherElement cl n el => Sys2Proof.Machine.execGatherElement cl n el s
  | .basinOpLine die n line => Sys2Proof.Machine.execBasinOpLine die n line s
  | .engineCommandComplete eng n => Sys2Proof.Machine.execEngineCommandComplete eng n s
  | .collectiveMatch die n part => Sys2Proof.Machine.execCollectiveMatch die n part s
  | .collectiveTimeout die late => Sys2Proof.Machine.execCollectiveTimeout die late s
  | .multicastRound cl n part => Sys2Proof.Machine.execMulticastRound cl n part s
  | .allocatorRefill die pool => Sys2Proof.Machine.execAllocatorRefill die pool s
  | .allocatorSpill die pool => Sys2Proof.Machine.execAllocatorSpill die pool s
  | .allocatorReload die pool => Sys2Proof.Machine.execAllocatorReload die pool s
  | .poolAllocLoad h die pool rd => Sys2Proof.Machine.execPoolAllocLoad h die pool rd s
  | .poolFreeStore h die pool addr => Sys2Proof.Machine.execPoolFreeStore h die pool addr s
  | .loadFigureReport c => Sys2Proof.Machine.execLoadFigureReport c s
  | .stealRequest c => Sys2Proof.Machine.execStealRequest c s
  | .stealAnswer c => Sys2Proof.Machine.execStealAnswer c s
  | .levelling c => Sys2Proof.Machine.execLevelling c s
  | .instructionFetch c k => Sys2Proof.Machine.execInstructionFetch c k s
  | .pageWalk cl asid page => Sys2Proof.Machine.execPageWalk cl asid page s
  | .terminationSweep => Sys2Proof.Machine.execTerminationSweep s
  | .firstDeadline tag => Sys2Proof.Machine.execFirstDeadline tag s
  | .secondDeadline tag => Sys2Proof.Machine.execSecondDeadline tag s
  | .thirdDeadline tag => Sys2Proof.Machine.execThirdDeadline tag s
  | .preempt tag => Sys2Proof.Machine.execPreempt tag s
  | .resume tag => Sys2Proof.Machine.execResume tag s
  | .preemptionGraceExpiry tag => Sys2Proof.Machine.execPreemptionGraceExpiry tag s
  | .preemptionPark c k => Sys2Proof.Machine.execPreemptionPark c k s
  | .cacheSizeWrite die v => Sys2Proof.Machine.execCacheSizeWrite die v s
  | .cacheFlushComplete die contents => Sys2Proof.Machine.execCacheFlushComplete die contents s
  | .helmUpdateApply h => Sys2Proof.Machine.execHelmUpdateApply h s
  | .inboxWrite h => Sys2Proof.Machine.execInboxWrite h s
  | .inboxArm h => Sys2Proof.Machine.execInboxArm h s
  | .helmCopyCommand h die blk => Sys2Proof.Machine.execHelmCopyCommand h die blk s
  | .helmMulticastCommand h die blk => Sys2Proof.Machine.execHelmMulticastCommand h die blk s
  | .timebaseSnapshot h rd => Sys2Proof.Machine.execTimebaseSnapshot h rd s
  | .routingWrite v => Sys2Proof.Machine.execRoutingWrite v s
  | .routeChangeEffect dev => Sys2Proof.Machine.execRouteChangeEffect dev s
  | .remoteRecordRefused tag => Sys2Proof.Machine.execRemoteRecordRefused tag s
  | .linkFlitError link replayed => Sys2Proof.Machine.execLinkFlitError link replayed s
  | .dmaAccess rid pa isWrite data => Sys2Proof.Machine.execDmaAccess rid pa isWrite data s
  | .pciePortEvent ev => Sys2Proof.Machine.execPciePortEvent ev s
  | .generateKey h index asid => Sys2Proof.Machine.execGenerateKey h index asid s
  | .eraseKey h index => Sys2Proof.Machine.execEraseKey h index s
  | .attest h pa nonce0 nonce1 => Sys2Proof.Machine.execAttest h pa nonce0 nonce1 s
  | .setGovernor h power current => Sys2Proof.Machine.execSetGovernor h power current s
  | .fenceCore h core => Sys2Proof.Machine.execFenceCore h core s
  | .lockhouseRestart => Sys2Proof.Machine.execLockhouseRestart s
  | .governorSample current power t0 t1 t2 t3 t4 => Sys2Proof.Machine.execGovernorSample current power t0 t1 t2 t3 t4 s
  | .thermalThrottle die temp => Sys2Proof.Machine.execThermalThrottle die temp s
  | .thermalShutdown die temp => Sys2Proof.Machine.execThermalShutdown die temp s
  | .registerWrite h pa v => Sys2Proof.Machine.execRegisterWrite h pa v s
  | .helmAccess h op pa sz pbmt => Sys2Proof.Machine.execHelmAccess h op pa sz pbmt s

end Sys2Proof.Machine
end

