-- ==== Sys2Proof/Machine/Csrs.lean ====
section
/-! DEFINITION. The control and status registers of a helm hart (10 R209; 19 R299, R302, R311), and its returns from traps. All but swqh, swqic,
swqfl and hkey are PRESUMED: 19 R299 names the RISC-V standards, which lay them out (log entry 10). -/

namespace Sys2Proof.Machine

open Sys2Proof

/-- What a register number stands for: a register with its value, one whose count is not stated, or none. -/
inductive CsrRead where
  | value (w : Word)
  | counter
  | absent
  deriving DecidableEq, Repr

/-- The fields of mstatus that software writes: SIE MIE SPIE MPIE SPP VS MPP FS MPRV SUM MXR TVM TW TSR GVA MPV. -/
def mstatusMask : Word := 0xC0007E7FAA
/-- The part of mstatus that sstatus shows, with UXL and SD. -/
def sstatusMask : Word := 0x80000003000C6722
/-- The interrupts that may be delegated beside a guest's, which always are; those that mie holds; a guest's; and those S mode may delegate. -/
def midelegMask : Word := 0x2222
def mieMask : Word := 0x3EEE
def guestMask : Word := 0x1444
def hidelegMask : Word := 0x2444
/-- What hstatus holds: GVA SPV SPVP HU VGEIN VTVM VTW VTSR HUPMM. -/
def hstatusMask : Word := 0x300000073F3C0

/-- SD: FS or VS is dirty. -/
def dirtyBit (st : Word) : Word := if (fld st 13 2 : BitVec 2) = 3 ∨ (fld st 9 2 : BitVec 2) = 3 then (1 : Word) <<< 63 else 0
/-- mstatus as it reads: UXL and SXL are 2. -/
def Hart.status (x : Hart) : Word := x.mstatus ||| 0xA00000000 ||| dirtyBit x.mstatus

/-- Whether the floating-point unit, or the vector unit, is on for the hart: in mstatus and, for a guest, in vsstatus too. -/
def Hart.unitOn (x : Hart) (lo : Nat) : Bool :=
  (fld x.mstatus lo 2 : BitVec 2) != 0 && (!x.virt || (fld x.hyp.vsstatus lo 2 : BitVec 2) != 0)
def Hart.floatOn (x : Hart) : Bool := x.unitOn 13
def Hart.vectorOn (x : Hart) : Bool := x.unitOn 9
/-- Marks a unit dirty. -/
def Hart.dirty (x : Hart) (lo : Nat) : Hart :=
  { x with mstatus := setFld x.mstatus lo (3 : BitVec 2),
           hyp := { x.hyp with vsstatus := if x.virt then setFld x.hyp.vsstatus lo (3 : BitVec 2) else x.hyp.vsstatus } }

/-- mtopi, stopi: the interrupt of highest priority that is pending and enabled for M or for S mode, with priority 1. -/
def topInterrupt (s : State) (h : Nat) (delegated : Bool) : Word :=
  let x := s.getHart h
  match interruptOrder.find? fun i =>
    (mipOf s h &&& x.csrs.mie).toNat.testBit i && x.csrs.mideleg.toNat.testBit i == delegated && !x.isGuests i with
  | some i => BitVec.ofNat 64 (i * 65536 + 1)
  | none => 0

/-- mtopei, stopei: the identity of highest priority of a file, twice. -/
def topIdWord (pending : List Byte) (f : MsiFile) : Word :=
  match topIdentity pending f with
  | some b => BitVec.ofNat 64 (b.toNat * 65537)
  | none => 0

/-- A word of 64 identity bits. -/
def identityWord (l : List Byte) (i : Nat) : Word := l.foldl (fun w b => if b.toNat / 64 = i then w ||| (1 : Word) <<< (b.toNat % 64) else w) 0

/-- A register of an interrupt file, by its select value: delivery, threshold, pending and enable bits. -/
def fileRead (pending : List Byte) (f : MsiFile) (sel : Nat) : Word :=
  if sel = 0x70 then ofBit 64 f.delivery
  else if sel = 0x72 then f.threshold.setWidth 64
  else if 0x80 ≤ sel ∧ sel < 0xC0 then identityWord pending ((sel - 0x80) / 2)
  else if 0xC0 ≤ sel ∧ sel < 0x100 then identityWord f.enabled ((sel - 0xC0) / 2)
  else 0

/-- A list of identities with word i of 64 replaced; identity 0 does not exist. -/
def setIdentities (l : List Byte) (i : Nat) (v : Word) : List Byte :=
  (l.filter fun b => b.toNat / 64 != i) ++
    ((List.range 64).filter fun j => v.getLsbD j && decide (0 < 64 * i + j ∧ 64 * i + j < 256)).map fun j => BitVec.ofNat 8 (64 * i + j)

/-- Writes a register of an interrupt file. -/
def fileWrite (pending : List Byte) (f : MsiFile) (sel : Nat) (v : Word) : List Byte × MsiFile :=
  if sel = 0x70 then (pending, { f with delivery := bit v 0 })
  else if sel = 0x72 then (pending, { f with threshold := fld v 0 8 })
  else if 0x80 ≤ sel ∧ sel < 0xC0 then (setIdentities pending ((sel - 0x80) / 2) v, f)
  else if 0xC0 ≤ sel ∧ sel < 0x100 then (pending, { f with enabled := setIdentities f.enabled ((sel - 0xC0) / 2) v })
  else (pending, f)

/-- Claims the identity of highest priority: it is pending no more. -/
def claim (pending : List Byte) (f : MsiFile) : List Byte :=
  match topIdentity pending f with
  | some b => pending.filter (· != b)
  | none => pending

/-- vstopi: as guestTop says; with IPRIOM clear the priority reads 1. -/
def guestTopWord (s : State) (h : Nat) : Word :=
  match guestTop s h with
  | some (i, p) => BitVec.ofNat 64 (i * 65536 + if bit (s.getHart h).hyp.hvictl 8 then min p 255 else 1)
  | none => 0

/-- The environment enables of guests: PBMTE and STCE only where M mode has them. -/
def Hart.henvcfg (x : Hart) : Word := x.hyp.henvcfg &&& (x.csrs.menvcfg ||| ~~~(0xC000000000000000 : Word))
/-- hstateen word i: only what M mode's allows. -/
def Hart.hstateen (x : Hart) (i : Nat) : Word := nthD 0 x.hyp.hstateen i &&& nthD 0 x.hyp.mstateen i
/-- What a word of mstateen or hstateen holds: SE0, and in word 0 ENVCFG, CSRIND, AIA and IMSIC. -/
def stateenMask (i : Nat) : Word := if i = 0 then 0xDC00000000000000 else 0x8000000000000000

/-- The machine-level registers with fixed addresses. -/
def machineCsr (s : State) (x : Hart) (n : Nat) : CsrRead :=
  match n with
  | 0x300 => .value x.status
  | 0x301 => .value 0x80000000003411AF
  | 0x302 => .value x.csrs.medeleg
  | 0x303 => .value x.csrs.mideleg
  | 0x304 => .value x.csrs.mie
  | 0x305 => .value x.mtvec
  | 0x306 => .value x.csrs.mcounteren
  | 0x308 => .value 0
  | 0x309 => .value (x.csrs.mip &&& (if bit x.csrs.menvcfg 63 then 0x202 else 0x222))
  | 0x30A => .value x.csrs.menvcfg
  | 0x30C => .value (nthD 0 x.hyp.mstateen 0)
  | 0x30D => .value (nthD 0 x.hyp.mstateen 1)
  | 0x30E => .value (nthD 0 x.hyp.mstateen 2)
  | 0x30F => .value (nthD 0 x.hyp.mstateen 3)
  | 0x320 => .value x.csrs.mcountinhibit
  | 0x340 => .value x.csrs.mscratch
  | 0x341 => .value x.mepc
  | 0x342 => .value x.mcause
  | 0x343 => .value x.mtval
  | 0x344 => .value (mipOf s s.hart.val)
  | 0x34A => .value x.hyp.mtinst
  | 0x34B => .value x.hyp.mtval2
  | 0x350 => .value x.csrs.miselect
  | 0x351 => .value (fileRead x.msiM x.csrs.fileM x.csrs.miselect.toNat)
  | 0x35C => .value (topIdWord x.msiM x.csrs.fileM)
  | 0xFB0 => .value (topInterrupt s s.hart.val false)
  | 0xF11 => .value (Config.helmIdentity 0)
  | 0xF12 => .value (Config.helmIdentity 1)
  | 0xF13 => .value (Config.helmIdentity 2)
  | 0xF14 => .value (BitVec.ofNat 64 s.hart.val)
  | 0xF15 => .value 0
  | _ => .absent

/-- The supervisor-level registers with fixed addresses. -/
def supervisorCsr (s : State) (x : Hart) (n : Nat) : CsrRead :=
  match n with
  | 0x100 => .value (x.status &&& sstatusMask)
  | 0x104 => .value (x.csrs.mie &&& x.csrs.mideleg &&& ~~~guestMask)
  | 0x105 => .value x.csrs.stvec
  | 0x106 => .value x.csrs.scounteren
  | 0x10A => .value x.csrs.senvcfg
  | 0x10C => .value 0
  | 0x10D => .value 0
  | 0x10E => .value 0
  | 0x10F => .value 0
  | 0x140 => .value x.csrs.sscratch
  | 0x141 => .value x.csrs.sepc
  | 0x142 => .value x.csrs.scause
  | 0x143 => .value x.csrs.stval
  | 0x144 => .value (mipOf s s.hart.val &&& x.csrs.mideleg &&& ~~~guestMask)
  | 0x14D => .value x.csrs.stimecmp
  | 0x150 => .value x.csrs.siselect
  | 0x151 => .value (fileRead x.msiS x.csrs.fileS x.csrs.siselect.toNat)
  | 0x15C => .value (topIdWord x.msiS x.csrs.fileS)
  | 0x180 => .value x.csrs.satp
  | 0xDB0 => .value (topInterrupt s s.hart.val true)
  | _ => .absent

/-- The hypervisor's registers. The priorities of Ssaia and hvien read zero. -/
def hyperCsr (s : State) (x : Hart) (n : Nat) : CsrRead :=
  match n with
  | 0x600 => .value (x.hyp.hstatus ||| 0x200000000)
  | 0x602 => .value x.hyp.hedeleg
  | 0x603 => .value x.hyp.hideleg
  | 0x604 => .value (x.csrs.mie &&& guestMask)
  | 0x605 => .value x.hyp.htimedelta
  | 0x606 => .value x.hyp.hcounteren
  | 0x607 => .value x.hyp.hgeie
  | 0x608 => .value 0
  | 0x609 => .value x.hyp.hvictl
  | 0x60A => .value x.henvcfg
  | 0x60C => .value (x.hstateen 0)
  | 0x60D => .value (x.hstateen 1)
  | 0x60E => .value (x.hstateen 2)
  | 0x60F => .value (x.hstateen 3)
  | 0x643 => .value x.hyp.htval
  | 0x644 => .value (mipOf s s.hart.val &&& guestMask)
  | 0x645 => .value (x.csrs.mip &&& 0x444)
  | 0x646 => .value 0
  | 0x647 => .value 0
  | 0x64A => .value x.hyp.htinst
  | 0x680 => .value x.hyp.hgatp
  | 0xE12 => .value x.hgeip
  | _ => .absent

/-- The registers of a guest's S mode. -/
def guestCsr (s : State) (x : Hart) (n : Nat) : CsrRead :=
  match n with
  | 0x200 => .value (x.hyp.vsstatus ||| 0x200000000 ||| dirtyBit x.hyp.vsstatus)
  | 0x204 => .value (x.guestBits x.csrs.mie)
  | 0x205 => .value x.hyp.vstvec
  | 0x240 => .value x.hyp.vsscratch
  | 0x241 => .value x.hyp.vsepc
  | 0x242 => .value x.hyp.vscause
  | 0x243 => .value x.hyp.vstval
  | 0x244 => .value (x.guestBits (mipOf s s.hart.val))
  | 0x24D => .value x.csrs.vstimecmp
  | 0x250 => .value x.hyp.vsiselect
  | 0x251 => .value (fileRead (x.guestPending x.guest) (x.guestFile x.guest) x.hyp.vsiselect.toNat)
  | 0x25C => .value (topIdWord (x.guestPending x.guest) (x.guestFile x.guest))
  | 0x280 => .value x.hyp.vsatp
  | 0xEB0 => .value (guestTopWord s s.hart.val)
  | _ => .absent

/-- The counters that counter enables let a mode read: for S mode mcounteren's, for a guest hcounteren's too. -/
def Hart.counterBits (x : Hart) : Word :=
  if x.mode = .m then 0xFFFFFFFF else if x.virt then x.csrs.mcounteren &&& x.hyp.hcounteren else x.csrs.mcounteren
/-- The overflow bits of the event selectors (Sscofpmf). -/
def Hart.overflows (x : Hart) : Word :=
  (List.range 8).foldl (fun w i => if bit (nthD 0 x.csrs.hpmevent i) 63 then w ||| (1 : Word) <<< (i + 3) else w) 0

/-- The counters: mtime, for a guest with htimedelta; cycles, retired instructions and eight programmable events, whose counts are not stated; 21 that
read zero; the event selectors and their overflow bits. -/
def counterCsr (s : State) (x : Hart) (n : Nat) : CsrRead :=
  if n = 0xC01 then .value (BitVec.ofNat 64 s.mtime + if x.virt then x.hyp.htimedelta else 0)
  else if n = 0xDA0 then .value (x.overflows &&& x.counterBits)
  else if (0xC00 ≤ n ∧ n < 0xC0B) ∨ (0xB00 ≤ n ∧ n < 0xB0B ∧ n ≠ 0xB01) then .counter
  else if (0xC0B ≤ n ∧ n < 0xC20) ∨ (0xB0B ≤ n ∧ n < 0xB20) then .value 0
  else if 0x323 ≤ n ∧ n < 0x32B then .value (nthD 0 x.csrs.hpmevent (n - 0x323))
  else if 0x32B ≤ n ∧ n < 0x340 then .value 0
  else .absent

/-- The floating-point registers, which do not exist while the unit is off. -/
def floatCsr (x : Hart) (n : Nat) : CsrRead :=
  if !x.floatOn then .absent
  else match n with
    | 1 => .value ((fld x.fcsr 0 5 : BitVec 5).setWidth 64)
    | 2 => .value ((fld x.fcsr 5 3 : BitVec 3).setWidth 64)
    | 3 => .value (x.fcsr.setWidth 64)
    | _ => .absent

/-- The registers of the vector unit, likewise: vstart, vxsat, vxrm, vcsr, vl, vtype and vlenb. -/
def vectorCsr (x : Hart) (n : Nat) : CsrRead :=
  if !x.vectorOn then .absent
  else match n with
    | 0x008 => .value x.vec.vstart
    | 0x009 => .value (ofBit 64 x.vec.vxsat)
    | 0x00A => .value (x.vec.vxrm.setWidth 64)
    | 0x00F => .value ((x.vec.vxrm ++ BitVec.ofBool x.vec.vxsat).setWidth 64)
    | 0xC20 => .value x.vec.vl
    | 0xC21 => .value x.vec.vtype
    | 0xC22 => .value 32
    | _ => .absent

/-- The custom registers of the helm harts (10 R209, 19 R302). -/
def customCsr (x : Hart) (n : Nat) : CsrRead :=
  match n with
  | 0x8C0 => .value x.swqh
  | 0x8C1 => .value x.swqic
  | 0x8C2 => .value x.swqfl
  | 0x5C0 => .value (x.hkey.setWidth 64)
  | _ => .absent

/-- The first of two finds that is no absence. -/
def CsrRead.orElse (a b : CsrRead) : CsrRead :=
  match a with
  | .absent => b
  | _ => a

/-- The register that a number names: in a guest's modes most of S mode's stand for the guest's own. -/
def Hart.csrNumber (x : Hart) (n : Nat) : Nat :=
  if x.virt && [0x100, 0x104, 0x105, 0x140, 0x141, 0x142, 0x143, 0x144, 0x14D, 0x150, 0x151, 0x15C, 0x180, 0xDB0].contains n then n + 0x100 else n

/-- What the hart whose instruction executes finds under a register's number. -/
def State.csr (s : State) (n : Nat) : CsrRead :=
  let x := s.myHart
  (customCsr x n).orElse <| (machineCsr s x n).orElse <| (supervisorCsr s x n).orElse <| (hyperCsr s x n).orElse <| (guestCsr s x n).orElse <|
    (counterCsr s x n).orElse <| (floatCsr x n).orElse (vectorCsr x n)

/-- mstatus after a write of some of its bits; a reserved previous mode stays as it was. -/
def Hart.setStatus (x : Hart) (mask v : Word) : Hart :=
  let w := (x.mstatus &&& ~~~mask) ||| (v &&& mask)
  { x with mstatus := if (fld w 11 2 : BitVec 2) = 2 then setFld w 11 (fld x.mstatus 11 2 : BitVec 2) else w }

/-- A register after a write of the bits of a mask. -/
def masked (old mask v : Word) : Word := (old &&& ~~~mask) ||| (v &&& mask)

/-- satp after a write: one with a mode that is not supported changes nothing. -/
def satpWrite (old v : Word) : Word := if (fld v 60 4 : BitVec 4) = 0 ∨ satpLevels v ≠ 0 then v else old

/-- Writes a machine-level register. -/
def Hart.setMachine (x : Hart) (n : Nat) (v : Word) : Hart :=
  let c := x.csrs
  match n with
  | 0x300 => x.setStatus mstatusMask v
  | 0x302 => { x with csrs := { c with medeleg := v &&& 0xF0B7FF } }
  | 0x303 => { x with csrs := { c with mideleg := v &&& midelegMask ||| guestMask } }
  | 0x304 => { x with csrs := { c with mie := v &&& mieMask } }
  | 0x305 => { x with mtvec := v &&& ~~~(2 : Word) }
  | 0x306 => { x with csrs := { c with mcounteren := v &&& 0xFFFFFFFF } }
  | 0x309 => { x with csrs := { c with mip := masked c.mip (if bit c.menvcfg 63 then 0x202 else 0x222) v } }
  | 0x30A => { x with csrs := { c with menvcfg := v &&& 0xC0000000000000F1 } }
  | 0x30C => { x with hyp := { x.hyp with mstateen := setAt (takePad 0 4 x.hyp.mstateen) 0 (v &&& stateenMask 0) } }
  | 0x30D => { x with hyp := { x.hyp with mstateen := setAt (takePad 0 4 x.hyp.mstateen) 1 (v &&& stateenMask 1) } }
  | 0x30E => { x with hyp := { x.hyp with mstateen := setAt (takePad 0 4 x.hyp.mstateen) 2 (v &&& stateenMask 2) } }
  | 0x30F => { x with hyp := { x.hyp with mstateen := setAt (takePad 0 4 x.hyp.mstateen) 3 (v &&& stateenMask 3) } }
  | 0x320 => { x with csrs := { c with mcountinhibit := v &&& 0x7FD } }
  | 0x340 => { x with csrs := { c with mscratch := v } }
  | 0x341 => { x with mepc := v &&& ~~~(1 : Word) }
  | 0x342 => { x with mcause := v }
  | 0x343 => { x with mtval := v }
  | 0x344 => { x with csrs := { c with mip := masked c.mip (if bit c.menvcfg 63 then 0x2206 else 0x2226) v } }
  | 0x34A => { x with hyp := { x.hyp with mtinst := v } }
  | 0x34B => { x with hyp := { x.hyp with mtval2 := v } }
  | 0x350 => { x with csrs := { c with miselect := v &&& 0xFFF } }
  | 0x351 =>
    let r := fileWrite x.msiM c.fileM c.miselect.toNat v
    { x with msiM := r.1, csrs := { c with fileM := r.2 } }
  | 0x35C => { x with msiM := claim x.msiM c.fileM }
  | _ => x

/-- Writes a supervisor-level register. -/
def Hart.setSupervisor (x : Hart) (n : Nat) (v : Word) : Hart :=
  let c := x.csrs
  match n with
  | 0x100 => x.setStatus (mstatusMask &&& sstatusMask) v
  | 0x104 => { x with csrs := { c with mie := masked c.mie (c.mideleg &&& ~~~guestMask) v } }
  | 0x105 => { x with csrs := { c with stvec := v &&& ~~~(2 : Word) } }
  | 0x106 => { x with csrs := { c with scounteren := v &&& 0xFFFFFFFF } }
  | 0x10A => { x with csrs := { c with senvcfg := v &&& (if (fld v 32 2 : BitVec 2) = 1 then 0xF1 else 0x3000000F1) } }
  | 0x140 => { x with csrs := { c with sscratch := v } }
  | 0x141 => { x with csrs := { c with sepc := v &&& ~~~(1 : Word) } }
  | 0x142 => { x with csrs := { c with scause := v } }
  | 0x143 => { x with csrs := { c with stval := v } }
  | 0x144 => { x with csrs := { c with mip := masked c.mip (c.mideleg &&& 0x2002) v } }
  | 0x14D => { x with csrs := { c with stimecmp := v } }
  | 0x150 => { x with csrs := { c with siselect := v &&& 0xFFF } }
  | 0x151 =>
    let r := fileWrite x.msiS c.fileS c.siselect.toNat v
    { x with msiS := r.1, csrs := { c with fileS := r.2 } }
  | 0x15C => { x with msiS := claim x.msiS c.fileS }
  | 0x180 => { x with csrs := { c with satp := satpWrite c.satp v } }
  | _ => x

/-- hstatus after a write; a guest number beyond the guest files (GEILEN is 7) changes nothing of VGEIN. -/
def hstatusWrite (old v : Word) : Word :=
  let w := v &&& hstatusMask
  if 7 < (fld w 12 6 : BitVec 6).toNat then setFld w 12 (fld old 12 6 : BitVec 6) else w
/-- hgatp after a write: the VMID has 14 bits and the root table 16 KiB; a mode that is not supported is Bare. -/
def hgatpWrite (v : Word) : Word :=
  let w := v &&& 0xF3FFFFFFFFFFFFFC
  if satpLevels w = 0 then setFld w 60 (0 : BitVec 4) else w
/-- vsstatus after a write: the fields of sstatus that software writes. -/
def vsstatusWrite (old v : Word) : Word := masked old (mstatusMask &&& sstatusMask) v

/-- Writes a register of the hypervisor. -/
def Hart.setHyper (x : Hart) (n : Nat) (v : Word) : Hart :=
  let c := x.csrs
  let y := x.hyp
  match n with
  | 0x600 => { x with hyp := { y with hstatus := hstatusWrite y.hstatus v } }
  | 0x602 => { x with hyp := { y with hedeleg := v &&& 0xB1FF } }
  | 0x603 => { x with hyp := { y with hideleg := v &&& hidelegMask } }
  | 0x604 => { x with csrs := { c with mie := masked c.mie guestMask v } }
  | 0x605 => { x with hyp := { y with htimedelta := v } }
  | 0x606 => { x with hyp := { y with hcounteren := v &&& 0xFFFFFFFF } }
  | 0x607 => { x with hyp := { y with hgeie := v &&& 0xFE } }
  | 0x609 => { x with hyp := { y with hvictl := v &&& 0x4FFF03FF } }
  | 0x60A => { x with hyp := { y with henvcfg := v &&& (if (fld v 32 2 : BitVec 2) = 1 then 0xC0000000000000F1 else 0xC0000003000000F1) } }
  | 0x60C => { x with hyp := { y with hstateen := setAt (takePad 0 4 y.hstateen) 0 (v &&& stateenMask 0 &&& nthD 0 y.mstateen 0) } }
  | 0x60D => { x with hyp := { y with hstateen := setAt (takePad 0 4 y.hstateen) 1 (v &&& stateenMask 1 &&& nthD 0 y.mstateen 1) } }
  | 0x60E => { x with hyp := { y with hstateen := setAt (takePad 0 4 y.hstateen) 2 (v &&& stateenMask 2 &&& nthD 0 y.mstateen 2) } }
  | 0x60F => { x with hyp := { y with hstateen := setAt (takePad 0 4 y.hstateen) 3 (v &&& stateenMask 3 &&& nthD 0 y.mstateen 3) } }
  | 0x643 => { x with hyp := { y with htval := v } }
  | 0x644 => { x with csrs := { c with mip := masked c.mip 4 v } }
  | 0x645 => { x with csrs := { c with mip := masked c.mip 0x444 v } }
  | 0x64A => { x with hyp := { y with htinst := v } }
  | 0x680 => { x with hyp := { y with hgatp := hgatpWrite v } }
  | _ => x

/-- A guest's interrupt bits in their own places. -/
def guestPlaced (v : Word) : Word := (v &&& 0x222) <<< 1 ||| (v &&& 0x2000)

/-- Sets the pending identities of a guest file. -/
def Hart.setGuestPending (x : Hart) (g : Nat) (l : List Byte) : Hart := { x with msiG := (x.msiG.filter fun p => p.1 != g) ++ l.map fun b => (g, b) }

/-- Writes a register of a guest's S mode. -/
def Hart.setGuest (x : Hart) (n : Nat) (v : Word) : Hart :=
  let c := x.csrs
  let y := x.hyp
  match n with
  | 0x200 => { x with hyp := { y with vsstatus := vsstatusWrite y.vsstatus v } }
  | 0x204 => { x with csrs := { c with mie := masked c.mie (c.mideleg &&& y.hideleg) (guestPlaced v) } }
  | 0x205 => { x with hyp := { y with vstvec := v &&& ~~~(2 : Word) } }
  | 0x240 => { x with hyp := { y with vsscratch := v } }
  | 0x241 => { x with hyp := { y with vsepc := v &&& ~~~(1 : Word) } }
  | 0x242 => { x with hyp := { y with vscause := v } }
  | 0x243 => { x with hyp := { y with vstval := v } }
  | 0x244 => { x with csrs := { c with mip := masked c.mip (c.mideleg &&& y.hideleg &&& 0x2004) (guestPlaced v) } }
  | 0x24D => { x with csrs := { c with vstimecmp := v } }
  | 0x250 => { x with hyp := { y with vsiselect := v &&& 0xFFF } }
  | 0x251 =>
    let r := fileWrite (x.guestPending x.guest) (x.guestFile x.guest) y.vsiselect.toNat v
    Hart.setGuestPending { x with hyp := { y with files := SMap.set y.files x.guest r.2 } } x.guest r.1
  | 0x25C => x.setGuestPending x.guest (claim (x.guestPending x.guest) (x.guestFile x.guest))
  | 0x280 => { x with hyp := { y with vsatp := satpWrite y.vsatp v } }
  | _ => x

/-- Writes a floating-point or vector register; its unit becomes dirty. -/
def Hart.setUnit (x : Hart) (n : Nat) (v : Word) : Hart :=
  match n with
  | 1 => Hart.dirty { x with fcsr := setFld x.fcsr 0 (fld v 0 5 : BitVec 5) } 13
  | 2 => Hart.dirty { x with fcsr := setFld x.fcsr 5 (fld v 0 3 : BitVec 3) } 13
  | 3 => Hart.dirty { x with fcsr := fld v 0 8 } 13
  | 0x008 => Hart.dirty { x with vec := { x.vec with vstart := v &&& 0xFF } } 9
  | 0x009 => Hart.dirty { x with vec := { x.vec with vxsat := bit v 0 } } 9
  | 0x00A => Hart.dirty { x with vec := { x.vec with vxrm := fld v 0 2 } } 9
  | 0x00F => Hart.dirty { x with vec := { x.vec with vxsat := bit v 0, vxrm := fld v 1 2 } } 9
  | _ => x

/-- Writes a register: swqh reads zero in bits 1 and 0, swqic in bits 5 to 0, hkey holds 12 bits. A counter takes no value. -/
def Hart.setCsr (x : Hart) (n : Nat) (v : Word) : Hart :=
  match n with
  | 0x8C0 => { x with swqh := v &&& ~~~(3 : Word) }
  | 0x8C1 => { x with swqic := v &&& ~~~(63 : Word) }
  | 0x8C2 => { x with swqfl := v }
  | 0x5C0 => { x with hkey := fld v 0 12 }
  | _ =>
    if 0x323 ≤ n ∧ n < 0x32B then { x with csrs := { x.csrs with hpmevent := setAt (takePad 0 8 x.csrs.hpmevent) (n - 0x323) v } }
    else match n / 256 with
      | 0 => x.setUnit n v
      | 2 => x.setGuest n v
      | 3 => x.setMachine n v
      | 6 => x.setHyper n v
      | _ => x.setSupervisor n v

/-- What becomes of an instruction that a mode may not execute. -/
inductive Verdict where
  | ok | illegal | virtual
  deriving DecidableEq, Repr

/-- The bit of the state enables that closes a register, by word and bit. -/
def stateenBit (n : Nat) : Option (Nat × Nat) :=
  if (0x10C ≤ n ∧ n < 0x110) ∨ (0x60C ≤ n ∧ n < 0x610) then some (n % 4, 63)
  else if n = 0x10A ∨ n = 0x60A then some (0, 62)
  else if n = 0x150 ∨ n = 0x151 ∨ n = 0x250 ∨ n = 0x251 then some (0, 60)
  else if n = 0xDB0 ∨ n = 0xEB0 ∨ n = 0x608 ∨ n = 0x609 ∨ n = 0x646 ∨ n = 0x647 then some (0, 59)
  else if n = 0x15C ∨ n = 0x25C then some (0, 58)
  else none
/-- Whether state enables leave a register open. -/
def stateenOpen (word : Nat → Word) (n : Nat) : Bool :=
  match stateenBit n with
  | some (i, b) => (word i).toNat.testBit b
  | none => true

/-- Whether a number is a counter's. -/
def isCounter (n : Nat) : Bool := n / 32 == 0x60
/-- Whether a number names the guest's interrupt file: vsireg with a file's register selected, and vstopei. -/
def Hart.namesFile (x : Hart) (n : Nat) : Bool := n == 0x25C || (n == 0x251 && decide (0x70 ≤ x.hyp.vsiselect.toNat))

/-- Whether M mode's settings let lower modes access a register: state enables, Sstc and the counter enables; TVM closes satp and hgatp in S mode. -/
def Hart.opens (x : Hart) (n : Nat) : Bool :=
  stateenOpen (nthD 0 x.hyp.mstateen ·) n && (x.virt || !((n == 0x180 || n == 0x680) && bit x.mstatus 20)) &&
    ((n != 0x14D && n != 0x24D) || (bit x.csrs.menvcfg 63 && bit x.csrs.mcounteren 1)) &&
    (!isCounter n || x.csrs.mcounteren.toNat.testBit (n % 32))

/-- Whether S mode's settings let a guest access a register: state enables, VTVM, Sstc, the counter enables, an injected interrupt (VTI), and a guest
file to access. n is the number as written. -/
def Hart.opensGuest (x : Hart) (n : Nat) : Bool :=
  stateenOpen x.hstateen n && !(n == 0x180 && bit x.hyp.hstatus 20) && (n != 0x14D || (bit x.hyp.henvcfg 63 && bit x.hyp.hcounteren 1)) &&
    (!isCounter n || (x.hyp.hcounteren.toNat.testBit (n % 32) && (x.mode == .s || x.csrs.scounteren.toNat.testBit (n % 32)))) &&
    !((n == 0x104 || n == 0x144) && bit x.hyp.hvictl 30) && !(x.namesFile (x.csrNumber n) && x.guest == 0)

/-- Whether a mode may access a register: bits 9 and 8 of its number are the lowest mode, where 2 is S mode outside a guest. A guest's access that S mode
could make is a virtual-instruction exception, every other an illegal instruction. -/
def Hart.mayAccess (x : Hart) (n : Nat) (writes : Bool) : Verdict :=
  let lowest := n / 256 % 4
  if (writes && decide (0xC00 ≤ n)) || (!x.virt && x.namesFile n && x.guest == 0) then .illegal
  else if x.mode = .m then .ok
  else if lowest = 3 ∨ !x.opens n then .illegal
  else if x.virt then (if lowest = 2 ∨ (lowest = 1 ∧ x.mode = .u) ∨ !x.opensGuest n then .virtual else .ok)
  else if x.mode = .u then (if lowest ≠ 0 ∨ (isCounter n ∧ !x.csrs.scounteren.toNat.testBit (n % 32)) then .illegal else .ok)
  else .ok

/-- Zicsr: rd takes the old value, and the new one is the operand, or the old one with its bits set or cleared; set and clear with field rs1 zero
write nothing. An access that the mode may not make, or a write to a read-only register, is an exception. -/
def State.csrAccess (s : State) (w : W32) : State :=
  let x := s.myHart
  let num := (fld w 20 12 : BitVec 12).toNat
  let n := x.csrNumber num
  let rs1 : BitVec 5 := fld w 15 5
  let v : Word := if bit w 14 then rs1.setWidth 64 else x.getX (Fin.ofNat 32 rs1.toNat)
  let how := (fld w 12 2 : BitVec 2).toNat
  let writes : Bool := how == 1 || rs1 != 0
  let put (s : State) (old : Word) : State :=
    let x := s.myHart
    let new := if how = 1 then v else if how = 2 then old ||| v else old &&& ~~~v
    let y := if writes then x.setCsr n new else x
    s.setMyHart { y.setX (Fin.ofNat 32 (fld w 7 5 : BitVec 5).toNat) old with pc := x.pc + BitVec.ofNat 64 x.len }
  match s.csr n, x.mayAccess num writes with
  | .absent, _ => s.exception causeIllegal (w.setWidth 64)
  | _, .illegal => s.exception causeIllegal (w.setWidth 64)
  | _, .virtual => s.exception causeVirtual (w.setWidth 64)
  | .value old, .ok => put s old
  | .counter, .ok => put { s with fresh := s.fresh + 1 } (Config.freeWord s.fresh)

/-- The return from a trap to M mode: the mode and the interrupt enable are unstacked, and the hart goes on at mepc. -/
def State.mret (s : State) : State :=
  let x := s.myHart
  if x.mode ≠ .m then s.exception causeIllegal 0x30200073
  else
    let dest := codeMode (fld x.mstatus 11 2)
    let st := setFld (setFld (setFld (setFld x.mstatus 3 (fld x.mstatus 7 1 : BitVec 1)) 7 (1 : BitVec 1)) 11 (0 : BitVec 2)) 39 (0 : BitVec 1)
    s.setMyHart { x with mstatus := if dest = .m then st else setFld st 17 (0 : BitVec 1), mode := dest, virt := dest != .m && bit x.mstatus 39,
                         pc := x.mepc }

/-- sstatus after a return from a trap to S mode. -/
def unstacked (st : Word) : Word := setFld (setFld (setFld st 1 (fld st 5 1 : BitVec 1)) 5 (1 : BitVec 1)) 8 (0 : BitVec 1)

/-- The return from a trap to S mode, outside a guest or in one; TSR closes it in S mode, VTSR in a guest's. -/
def State.sret (s : State) : State :=
  let x := s.myHart
  if x.virt then
    (if x.mode = .u ∨ bit x.hyp.hstatus 22 then s.exception causeVirtual 0x10200073
     else s.setMyHart { x with hyp := { x.hyp with vsstatus := unstacked x.hyp.vsstatus }, mode := if bit x.hyp.vsstatus 8 then .s else .u, pc := x.hyp.vsepc })
  else if x.mode = .u ∨ (x.mode = .s ∧ bit x.mstatus 22) then s.exception causeIllegal 0x10200073
  else
    s.setMyHart { x with mstatus := setFld (unstacked x.mstatus) 17 (0 : BitVec 1), mode := if bit x.mstatus 8 then .s else .u, virt := bit x.hyp.hstatus 7,
                         hyp := { x.hyp with hstatus := setFld x.hyp.hstatus 7 (0 : BitVec 1) }, pc := x.csrs.sepc }

end Sys2Proof.Machine
end

