-- ==== Sys2Proof/Machine/HelmFloat.lean ====
section
/-! DEFINITION. The floating-point arithmetic of a helm hart: F, D, Zfhmin and Zfa, which RVA23 mandates (19 R299). PRESUMED from the RISC-V
standard (log entry 10). A result is a pattern with the flags it raises: NX 1, UF 2, OF 4, DZ 8, NV 16. -/

namespace Sys2Proof.Machine

open Sys2Proof

/-- Double precision. -/
def fF64 : Fmt := ⟨11, 52, 1023, false⟩

/-- The rounding modes: the four of the compute side, and ties away from zero. -/
inductive Frm where
  | as (r : Rounding)
  | rmm
  deriving DecidableEq, Repr

/-- A rounding mode by its code. -/
def frmOf (n : Nat) : Option Frm :=
  match n with
  | 0 => some (.as .rne)
  | 1 => some (.as .rtz)
  | 2 => some (.as .rdn)
  | 3 => some (.as .rup)
  | 4 => some .rmm
  | _ => none

/-- m / 2^d rounded to an integer. -/
def Frm.shift (r : Frm) (neg : Bool) (m d : Nat) : Nat :=
  match r with
  | .as r => roundShift r neg m d
  | .rmm => (2 * m + 2 ^ d) / 2 ^ (d + 1)

/-- A result beyond the largest finite value. -/
def Frm.overflow (r : Frm) (f : Fmt) (neg : Bool) : Nat :=
  match r with
  | .as r => f.overflow r neg
  | .rmm => f.inf

/-- ±m * 2^e rounded once, with its flags; a result is tiny if it would be after rounding without a least exponent. -/
def Fmt.roundFlags (f : Fmt) (r : Frm) (neg : Bool) (m : Nat) (e : Int) : Nat × Nat :=
  if m = 0 then (f.sign neg, 0)
  else
    let top : Int := e + (Nat.log2 m : Int)
    let at_ (u : Int) : Nat := if u ≤ e then m * 2 ^ (e - u).toNat else r.shift neg m (u - e).toNat
    let u : Int := max f.emin (top - f.mb)
    let b := (u - f.emin).toNat * 2 ^ f.mb + at_ u
    let exact : Bool := decide (u ≤ e) || m % 2 ^ (u - e).toNat == 0
    let tiny : Bool := decide (top < 1 - (f.bias : Int)) && !(decide (top = -(f.bias : Int)) && at_ (top - f.mb) == 2 ^ (f.mb + 1))
    if f.top < b then (f.sign neg + r.overflow f neg, 5) else (f.sign neg + b, if exact then 0 else if tiny then 3 else 1)

/-- An exact value as a pattern with its flags; one that is no number is invalid. -/
def Fmt.finish (f : Fmt) (r : Frm) : FVal → Nat × Nat
  | .nan => (f.nan, 16)
  | .inf neg => (f.sign neg + f.inf, 0)
  | .fin neg m e => f.roundFlags r neg m e

/-- Whether a pattern is a signalling NaN. -/
def Fmt.isSignal (f : Fmt) (b : Nat) : Bool := (f.value b).isNan && !b.testBit (f.mb - 1)

/-- The result of an operation on operands: a NaN operand gives the canonical NaN, invalid only if it signals. -/
def Fmt.arith (f : Fmt) (r : Frm) (l : List Nat) (v : FVal) : Nat × Nat :=
  if l.any f.isSignal then (f.nan, 16) else if l.any fun b => (f.value b).isNan then (f.nan, 0) else f.finish r v

/-- The exact sum; a zero from unlike signs is -0 toward minus infinity. -/
def Frm.add (r : Frm) (a b : FVal) : FVal :=
  match a, b, a.add b with
  | .fin x _ _, .fin y _ _, .fin n 0 e => .fin (if x = y then n else decide (r = .as .rdn)) 0 e
  | _, _, v => v

/-- The quotient, exact but for a sticky bit far below every rounding point. -/
def quotient (a b : FVal) : FVal :=
  match a, b with
  | .fin x m e, .fin y n g =>
    if n = 0 then a.div b else .fin (x != y) (sticky (m * 2 ^ 160 / n) (m * 2 ^ 160 % n == 0)) (e - g - 161)
  | a, b => a.div b

/-- The square root, likewise. -/
def rootOf (a : FVal) : FVal :=
  match a with
  | .inf false => .inf false
  | .fin x m e =>
    if m = 0 then a else if x then .nan
    else
      let n := if e % 2 = 0 then m * 2 ^ 160 else m * 2 ^ 161
      .fin false (sticky (isqrt n) (isqrt n * isqrt n == n)) ((if e % 2 = 0 then e - 160 else e - 161) / 2 - 1)
  | _ => .nan

def isZero : FVal → Bool
  | .fin _ 0 _ => true
  | _ => false

/-- a / b: a finite number by zero raises DZ. -/
def Fmt.divide (f : Fmt) (r : Frm) (a b : Nat) : Nat × Nat :=
  let x := f.arith r [a, b] (quotient (f.value a) (f.value b))
  match f.value a, isZero (f.value b) with
  | .fin _ m _, true => if m = 0 then x else (x.1, 8)
  | _, _ => x

/-- a * b + c, rounded once; infinity times zero is invalid whatever c is. -/
def Fmt.fused (f : Fmt) (r : Frm) (negProduct negAddend : Bool) (a b c : Nat) : Nat × Nat :=
  let p := (f.value a).mul (f.value b)
  let p := if negProduct then p.neg else p
  let z := if negAddend then (f.value c).neg else f.value c
  let invalid := p.isNan && !(f.value a).isNan && !(f.value b).isNan
  let x := f.arith r [a, b, c] (r.add p z)
  if invalid then (f.nan, 16) else x

/-- The smaller or larger; quiet says that a NaN operand is passed over. -/
def Fmt.minMax (f : Fmt) (isMax quiet : Bool) (a b : Nat) : Nat × Nat :=
  let x := f.value a
  let y := f.value b
  let flags := if f.isSignal a || f.isSignal b then 16 else 0
  let v := if x.isNan || y.isNan then (if !quiet || (x.isNan && y.isNan) then f.nan else if x.isNan then b else a)
    else if x.lt true y == isMax then b else a
  (v, flags)

/-- The comparisons: 0 at most, 1 less, 2 equal; a quiet one, as equality is, is invalid only for a signalling NaN. -/
def Fmt.compare (f : Fmt) (kind : Nat) (quiet : Bool) (a b : Nat) : Bool × Nat :=
  let x := f.value a
  let y := f.value b
  if x.isNan || y.isNan then (false, if !quiet || f.isSignal a || f.isSignal b then 16 else 0)
  else (match kind with
    | 0 => !y.lt false x
    | 1 => x.lt false y
    | _ => !x.lt false y && !y.lt false x, 0)

/-- The class mask of a pattern. -/
def Fmt.classOf (f : Fmt) (b : Nat) : Nat :=
  let neg := b.testBit (f.eb + f.mb)
  let m := b % 2 ^ (f.eb + f.mb)
  if (f.value b).isNan then (if f.isSignal b then 2 ^ 8 else 2 ^ 9)
  else if m = f.inf then (if neg then 1 else 2 ^ 7)
  else if m = 0 then (if neg then 2 ^ 3 else 2 ^ 4)
  else if m < 2 ^ f.mb then (if neg then 2 ^ 2 else 2 ^ 5)
  else if neg then 2 ^ 1 else 2 ^ 6

/-- A finite magnitude rounded to an integer, and whether it was one. -/
def Frm.toNat (r : Frm) (neg : Bool) (m : Nat) (e : Int) : Nat × Bool :=
  if 0 ≤ e then (m * 2 ^ e.toNat, true) else (r.shift neg m (-e).toNat, m % 2 ^ (-e).toNat == 0)

/-- A value as an integer between bounds: what lies beyond, and NaN as the upper, is invalid. -/
def toInteger (r : Frm) (lo hi : Int) (v : FVal) : Int × Nat :=
  match v with
  | .nan => (hi, 16)
  | .inf neg => (if neg then lo else hi, 16)
  | .fin neg m e =>
    let x := r.toNat neg m e
    let i := sgn neg x.1
    if i < lo then (lo, 16) else if hi < i then (hi, 16) else (i, if x.2 then 0 else 1)

/-- The bounds of the integer that a conversion's code names: w, wu, l, lu. -/
def intBounds (code : Nat) : Int × Int :=
  match code with
  | 0 => (-(2 ^ 31 : Nat), (2 ^ 31 : Nat) - 1)
  | 1 => (0, (2 ^ 32 : Nat) - 1)
  | 2 => (-(2 ^ 63 : Nat), (2 ^ 63 : Nat) - 1)
  | _ => (0, (2 ^ 64 : Nat) - 1)

/-- A conversion to an integer register; 32-bit results are sign-extended. -/
def Fmt.toIntReg (f : Fmt) (r : Frm) (code a : Nat) : Word × Nat :=
  let x := toInteger r (intBounds code).1 (intBounds code).2 (f.value a)
  let v := BitVec.ofInt 64 x.1
  (if code < 2 then sext64 32 v else v, x.2)

/-- The integer of a register that a conversion's code names. -/
def intOf (code : Nat) (v : Word) : Int :=
  match code with
  | 0 => (v.setWidth 32).toInt
  | 1 => (v.setWidth 32).toNat
  | 2 => v.toInt
  | _ => v.toNat

/-- fcvtmod.w.d: toward zero, modulo 2^32. -/
def modularWord (a : Nat) : Word × Nat :=
  match fF64.value a with
  | .fin neg m e =>
    let x := (Frm.as .rtz).toNat neg m e
    let i := sgn neg x.1
    (sext64 32 (BitVec.ofInt 64 i), if i < -(2 ^ 31 : Nat) ∨ (2 ^ 31 : Nat) ≤ i then 16 else if x.2 then 0 else 1)
  | _ => (0, 16)

/-- A rounding to an integral value; one of the two forms raises NX. -/
def Fmt.integral (f : Fmt) (r : Frm) (tells : Bool) (a : Nat) : Nat × Nat :=
  match f.value a with
  | .nan => (f.nan, if f.isSignal a then 16 else 0)
  | .inf _ => (a, 0)
  | .fin neg m e =>
    let x := r.toNat neg m e
    ((f.roundFlags r neg x.1 0).1, if tells && !x.2 then 1 else 0)

/-- A conversion between formats. -/
def Fmt.convert (f g : Fmt) (r : Frm) (a : Nat) : Nat × Nat :=
  if (g.value a).isNan then (f.nan, if g.isSignal a then 16 else 0) else f.finish r (g.value a)

/-- The constants of fli: significand and exponent. -/
def fliTable : List (Nat × Int) :=
  [(1, -16), (1, -15), (1, -8), (1, -7), (1, -4), (1, -3), (1, -2), (5, -4), (3, -3), (7, -4), (1, -1), (5, -3), (3, -2), (7, -3)] ++
  [(1, 0), (5, -2), (3, -1), (7, -2), (1, 1), (5, -1), (3, 0), (1, 2), (1, 3), (1, 4), (1, 7), (1, 8), (1, 15), (1, 16)]

/-- A constant of fli, by its number. -/
def Fmt.constant (f : Fmt) (n : Nat) : Nat :=
  if n = 0 then (f.roundFlags (.as .rne) true 1 0).1
  else if n = 1 then 2 ^ f.mb
  else if n = 30 then f.inf
  else if n = 31 then f.nan
  else
    let p := nthD (1, (0 : Int)) fliTable (n - 2)
    (f.roundFlags (.as .rne) false p.1 p.2).1

-- Registers (Zfinx is absent) --------------------------------------------------------------------------------------------------------

/-- The pattern that a register holds in a format: one that is not boxed in ones reads as the canonical NaN. -/
def Fmt.unbox (f : Fmt) (v : Word) : Nat :=
  if v.toNat / 2 ^ f.width = 2 ^ (64 - f.width) - 1 then v.toNat % 2 ^ f.width else if f.width = 64 then v.toNat else f.nan
/-- A pattern boxed in ones. -/
def Fmt.box (f : Fmt) (b : Nat) : Word := BitVec.ofNat 64 ((2 ^ (64 - f.width) - 1) * 2 ^ f.width + b % 2 ^ f.width)

/-- The flags that an operation raises, and the unit's state: dirty. -/
def Hart.raise (x : Hart) (flags : Nat) : Hart :=
  Hart.dirty { x with fcsr := x.fcsr ||| BitVec.ofNat 8 flags } 13
/-- Writes a floating-point register. -/
def Hart.setF (x : Hart) (r : Fin 32) (v : Word) : Hart := { x with f := x.f.set r.val v r.isLt }
/-- The pattern of a floating-point register in a format. -/
def Hart.getF (x : Hart) (f : Fmt) (r : Fin 32) : Nat := f.unbox (x.f.get r)

end Sys2Proof.Machine
end

