-- ==== Sys2Proof/Machine/RiscvOps.lean ====
section
/-! DEFINITION. The standard instructions of a helm hart but the vector unit's (19 R299): RV64I, M, A, F, D, B, Zicond, Zimop, Zawrs, Zfhmin, Zfa, the fences
(14 R257, R258), the cache-block operations, the hypervisor's accesses, the traps and their returns. 19 R299 names the profile and no instruction
of it, so all of this file is PRESUMED from the RISC-V standards (log entry 10). -/

namespace Sys2Proof.Machine

open Sys2Proof

/-- What becomes of a standard word: done, an illegal instruction, or a virtual-instruction exception of a guest. -/
inductive Std where
  | done (s : State)
  | illegal
  | virtual

-- The fields of a word ---------------------------------------------------------------------------------------------------------

/-- A register number of a word, from the bit it begins at. -/
def regAt (w : W32) (lo : Nat) : Fin 32 := Fin.ofNat 32 (fld w lo 5 : BitVec 5).toNat
def funct3 (w : W32) : Nat := (fld w 12 3 : BitVec 3).toNat
def funct7 (w : W32) : Nat := (fld w 25 7 : BitVec 7).toNat
/-- The immediates of the I, S, B, U and J forms, sign-extended. -/
def immI (w : W32) : Word := (fld w 20 12 : BitVec 12).signExtend 64
def immS (w : W32) : Word := ((fld w 25 7 : BitVec 7) ++ (fld w 7 5 : BitVec 5)).signExtend 64
def immB (w : W32) : Word :=
  ((fld w 31 1 : BitVec 1) ++ (fld w 7 1 : BitVec 1) ++ (fld w 25 6 : BitVec 6) ++ (fld w 8 4 : BitVec 4) ++ (0 : BitVec 1)).signExtend 64
def immU (w : W32) : Word := ((fld w 12 20 : BitVec 20) ++ (0 : BitVec 12)).signExtend 64
def immJ (w : W32) : Word :=
  ((fld w 31 1 : BitVec 1) ++ (fld w 12 8 : BitVec 8) ++ (fld w 20 1 : BitVec 1) ++ (fld w 21 10 : BitVec 10) ++ (0 : BitVec 1)).signExtend 64

-- Register arithmetic --------------------------------------------------------------------------------------------------------------

/-- A Bool as a word. -/
def boolWord (b : Bool) : Word := ofBit 64 b
/-- A 32-bit result, sign-extended. -/
def word32 (v : Word) : Word := sext64 32 v
/-- One bit of a word. -/
def bitMask (i : Nat) : Word := (1 : Word) <<< (i % 64)
/-- Rotations of the low n bits to the left. -/
def rotl (n : Nat) (v : Word) (k : Nat) : Word :=
  let u := zext64 n v
  u <<< (k % n) ||| u >>> ((n - k % n) % n)
/-- Every byte with a bit set becomes all ones (orc.b), and the bytes turned around (rev8). -/
def orcB (v : Word) : Word := BitVec.ofNat 64 (bytesNat ((natBytes 8 v.toNat).map fun b => if b = 0 then 0 else 0xFF))
def rev8 (v : Word) : Word := BitVec.ofNat 64 (bytesNat (natBytes 8 v.toNat).reverse)

/-- The bit counts and extensions of OP-IMM and OP-IMM-32, by their immediate, at a width. -/
def countOp (n : Nat) (imm : Nat) (x : Word) : Option Word :=
  match imm with
  | 0x600 => some (BitVec.ofNat 64 (clzN n x.toNat))
  | 0x601 => some (BitVec.ofNat 64 (ctzN n x.toNat))
  | 0x602 => some (BitVec.ofNat 64 (popN n x.toNat))
  | 0x604 => if n = 64 then some (sext64 8 x) else none
  | 0x605 => if n = 64 then some (sext64 16 x) else none
  | _ => none

/-- OP-IMM. -/
def opImm (w : W32) (x : Word) : Option Word :=
  let i := immI w
  let sh := (fld w 20 6 : BitVec 6).toNat
  let n := (fld w 20 12 : BitVec 12).toNat
  match funct3 w with
  | 0 => some (x + i)
  | 1 =>
    match n / 64 with
    | 0x00 => some (x <<< sh)
    | 0x0A => some (x ||| bitMask sh)
    | 0x12 => some (x &&& ~~~bitMask sh)
    | 0x1A => some (x ^^^ bitMask sh)
    | _ => countOp 64 n x
  | 2 => some (boolWord (x.slt i))
  | 3 => some (boolWord (decide (x < i)))
  | 4 => some (x ^^^ i)
  | 5 =>
    match n / 64 with
    | 0x00 => some (x >>> sh)
    | 0x10 => some (x.sshiftRight sh)
    | 0x12 => some (x >>> sh &&& 1)
    | 0x18 => some (rotl 64 x (64 - sh))
    | _ => if n = 0x287 then some (orcB x) else if n = 0x6B8 then some (rev8 x) else none
  | 6 => some (x ||| i)
  | _ => some (x &&& i)

/-- OP-IMM-32. -/
def opImm32 (w : W32) (x : Word) : Option Word :=
  let sh := (fld w 20 5 : BitVec 5).toNat
  let n := (fld w 20 12 : BitVec 12).toNat
  match funct3 w with
  | 0 => some (word32 (x + immI w))
  | 1 =>
    if n / 32 = 0 then some (word32 (x <<< sh))
    else if n / 64 = 2 then some (zext64 32 x <<< (fld w 20 6 : BitVec 6).toNat)
    else countOp 32 n x
  | 5 =>
    if n / 32 = 0 then some (word32 (zext64 32 x >>> sh))
    else if n / 32 = 0x20 then some (word32 ((sext64 32 x).sshiftRight sh))
    else if n / 32 = 0x30 then some (word32 (rotl 32 x (32 - sh)))
    else none
  | _ => none

/-- The M extension: multiplies and divides at a width; 64 has all eight forms. -/
def opM (n : Nat) (f3 : Nat) (x y : Word) : Option Word :=
  match f3 with
  | 0 => some (x * y)
  | 1 => if n = 64 then some (BitVec.ofInt 64 (x.toInt * y.toInt / 2 ^ 64)) else none
  | 2 => if n = 64 then some (BitVec.ofInt 64 (x.toInt * y.toNat / 2 ^ 64)) else none
  | 3 => if n = 64 then some (BitVec.ofNat 64 (x.toNat * y.toNat / 2 ^ 64)) else none
  | 4 => some (quotI n x y)
  | 5 => some (quotN n x y)
  | 6 => some (remainI n x y)
  | _ => some (remainN n x y)

/-- OP. -/
def opReg (w : W32) (x y : Word) : Option Word :=
  let sh := y.toNat % 64
  match funct7 w, funct3 w with
  | 0x00, 0 => some (x + y)
  | 0x00, 1 => some (x <<< sh)
  | 0x00, 2 => some (boolWord (x.slt y))
  | 0x00, 3 => some (boolWord (decide (x < y)))
  | 0x00, 4 => some (x ^^^ y)
  | 0x00, 5 => some (x >>> sh)
  | 0x00, 6 => some (x ||| y)
  | 0x00, 7 => some (x &&& y)
  | 0x01, f => opM 64 f x y
  | 0x20, 0 => some (x - y)
  | 0x20, 4 => some (~~~(x ^^^ y))
  | 0x20, 5 => some (x.sshiftRight sh)
  | 0x20, 6 => some (x ||| ~~~y)
  | 0x20, 7 => some (x &&& ~~~y)
  | 0x05, 4 => some (if x.slt y then x else y)
  | 0x05, 5 => some (if x < y then x else y)
  | 0x05, 6 => some (if x.slt y then y else x)
  | 0x05, 7 => some (if x < y then y else x)
  | 0x07, 5 => some (if y = 0 then 0 else x)
  | 0x07, 7 => some (if y = 0 then x else 0)
  | 0x10, 2 => some (y + x <<< 1)
  | 0x10, 4 => some (y + x <<< 2)
  | 0x10, 6 => some (y + x <<< 3)
  | 0x14, 1 => some (x ||| bitMask sh)
  | 0x24, 1 => some (x &&& ~~~bitMask sh)
  | 0x24, 5 => some (x >>> sh &&& 1)
  | 0x34, 1 => some (x ^^^ bitMask sh)
  | 0x30, 1 => some (rotl 64 x sh)
  | 0x30, 5 => some (rotl 64 x (64 - sh))
  | _, _ => none

/-- OP-32. -/
def opReg32 (w : W32) (x y : Word) : Option Word :=
  let sh := y.toNat % 32
  match funct7 w, funct3 w with
  | 0x00, 0 => some (word32 (x + y))
  | 0x20, 0 => some (word32 (x - y))
  | 0x00, 1 => some (word32 (x <<< sh))
  | 0x00, 5 => some (word32 (zext64 32 x >>> sh))
  | 0x20, 5 => some (word32 ((sext64 32 x).sshiftRight sh))
  | 0x01, f => if f = 0 ∨ 4 ≤ f then (opM 32 f x y).map word32 else none
  | 0x04, 0 => some (y + zext64 32 x)
  | 0x04, 4 => if regAt w 20 = 0 then some (zext64 16 x) else none
  | 0x10, 2 => some (y + zext64 32 x <<< 1)
  | 0x10, 4 => some (y + zext64 32 x <<< 2)
  | 0x10, 6 => some (y + zext64 32 x <<< 3)
  | 0x30, 1 => some (word32 (rotl 32 x sh))
  | 0x30, 5 => some (word32 (rotl 32 x (32 - sh)))
  | _, _ => none

/-- The branch conditions; two codes have none. -/
def branchHolds (f3 : Nat) (x y : Word) : Option Bool :=
  match f3 with
  | 0 => some (x == y)
  | 1 => some (x != y)
  | 4 => some (x.slt y)
  | 5 => some (!x.slt y)
  | 6 => some (decide (x < y))
  | 7 => some (!decide (x < y))
  | _ => none

-- Running on -----------------------------------------------------------------------------------------------------------------------

/-- The address behind the hart's instruction. -/
def Hart.nextPc (x : Hart) : Word := x.pc + BitVec.ofNat 64 x.len

/-- The instruction of the hart in turn is done without a result. -/
def State.hartSkip (s : State) : State := s.helmNext s.hart

/-- A register result: its value, or an illegal instruction. -/
def State.hartResult (s : State) (w : W32) (v : Option Word) : Std :=
  match v with
  | some v => .done (s.helmLoad s.hart (regAt w 7) v)
  | none => .illegal

/-- A jump that leaves the address behind it in a register. -/
def State.hartJump (s : State) (rd : Fin 32) (t : Word) : State :=
  let x := s.myHart
  s.setMyHart { x.setX rd x.nextPc with pc := t &&& ~~~(1 : Word) }

/-- A branch. -/
def State.hartBranch (s : State) (w : W32) : Std :=
  let x := s.myHart
  match branchHolds (funct3 w) (x.getX (regAt w 15)) (x.getX (regAt w 20)) with
  | some b => .done (if b then s.setMyHart { x with pc := x.pc + immB w } else s.hartSkip)
  | none => .illegal

-- Accesses ----------------------------------------------------------------------------------------------------------------------------

/-- The pointer masking of an access (Ssnpm): senvcfg's in U mode, henvcfg's in a guest's S mode, and hstatus's for a hypervisor's access made in U mode.
None for one that asks for execute permission, or where that serves for loads (MXR). -/
def Hart.pmm (x : Hart) (e : Eye) : BitVec 2 :=
  if e.exec || x.mxr e true then 0
  else if e.virt && !x.virt && x.mode == .u then fld x.hyp.hstatus 48 2
  else match e.mode with
    | .u => fld x.csrs.senvcfg 32 2
    | .s => if e.virt then fld x.hyp.henvcfg 32 2 else 0
    | .m => 0

/-- An address with pointer masking: its 7 or 16 high bits ignored. -/
def Hart.pointer (x : Hart) (e : Eye) (a : Word) : Word :=
  let keep := match (x.pmm e).toNat with
    | 2 => 57
    | 3 => 48
    | _ => 64
  if x.firstBare e then zext64 keep a else sext64 keep a

/-- A physical address as the accesses take it. -/
def physOf (a : Nat) : BitVec 56 := BitVec.ofNat 56 a

/-- The access fault of an access at an address, and that of one that met poison (21 R320, 19 R310); and a misaligned one's exception. -/
def Eye.fault (e : Eye) (cause : Nat) (a : Word) : HelmFault := { cause := cause, val := a, guest := e.virt }
def Eye.poison (e : Eye) (cause : Nat) (a : Word) : HelmFault := { e.fault cause a with poison := true }

/-- The place of a hart's data access. -/
def State.hartPlace (s : State) (e : Eye) (acc : HelmAcc) (a : Word) : Except HelmFault (Nat × Pbmt × State) :=
  helmTranslate s s.myHart e (helmGen s s.hart.val) acc a

/-- Places of the pieces of an access; the fault of the first that has one. -/
def State.hartPlaces (s : State) (e : Eye) (acc : HelmAcc) : List (Word × Nat) → Except HelmFault (List (Nat × Pbmt × Nat) × State)
  | [] => .ok ([], s)
  | (a, n) :: l =>
    match s.hartPlace e acc a with
    | .error f => .error f
    | .ok (pa, m, t) =>
      match t.hartPlaces e acc l with
      | .error f => .error f
      | .ok (r, t) => .ok ((pa, m, n) :: r, t)

/-- Whether a piece lies in main memory or a Basin, where an access may cross from page to page. -/
def pieceOk (p : Nat × Pbmt × Nat) : Bool := placeOf p.1 p.2.2 == .main || placeOf p.1 p.2.2 == .basin
/-- Whether a piece meets poison. -/
def pieceBad (s : State) (p : Nat × Pbmt × Nat) : Bool := meetsPoison s (isCached (placeOf p.1 p.2.2) p.2.1) p.1 p.2.2
/-- Reads and writes the pieces. -/
def hartReadPieces (s : State) (g : Nat) : List (Nat × Pbmt × Nat) → List Byte × State
  | [] => ([], s)
  | (pa, m, n) :: l =>
    let r := hartBytes s (isCached (placeOf pa n) m) g pa n
    let t := hartReadPieces r.2 g l
    (r.1 ++ t.1, t.2)
def hartWritePieces (s : State) (g : Nat) (bs : List Byte) : List (Nat × Pbmt × Nat) → State
  | [] => s
  | (pa, m, n) :: l => hartWritePieces (hartWrite s (isCached (placeOf pa n) m) g pa (bs.take n)) g (bs.drop n) l

/-- What a data access comes to: it is performed, it waits, or it has an exception. -/
inductive Moved (α : Type) where
  | value (v : α) (s : State)
  | waits
  | fault (f : HelmFault)

/-- A read of n bytes. -/
def State.hartRead (s : State) (e : Eye) (signed : Bool) (a : Word) (n : Nat) : Moved Word :=
  let a := s.myHart.pointer e a
  match s.hartPlaces e .load (spans a n) with
  | .error f => .fault f
  | .ok ([(pa, m, _)], t) =>
    let p := placeOf pa n
    if p.refuses pa n then .fault (e.fault causeLoad a)
    else if (p == .main || p == .basin) && meetsPoison t (isCached p m) pa n then .fault (e.poison causeLoad a)
    else match helmReadAt t s.hart p m signed (physOf pa) n with
      | .value v t => .value v t
      | .none _ => .waits
  | .ok (l, t) =>
    if !l.all pieceOk then .fault (e.fault causeLoad a)
    else if l.any (pieceBad t) then .fault (e.poison causeLoad a)
    else
      let r := hartReadPieces t (helmGen s s.hart.val) l
      .value (extended signed n (bytesNat r.1)) r.2

/-- A write of n bytes. -/
def State.hartPut (s : State) (e : Eye) (a v : Word) (n : Nat) : Moved Unit :=
  let a := s.myHart.pointer e a
  match s.hartPlaces e .store (spans a n) with
  | .error f => .fault f
  | .ok ([(pa, m, _)], t) =>
    let p := placeOf pa n
    if p.refuses pa n then .fault (e.fault causeStore a)
    else match helmWriteAt t s.hart p m v pa n with
      | some t => .value () t
      | none => .waits
  | .ok (l, t) =>
    if !l.all pieceOk then .fault (e.fault causeStore a)
    else .value () (hartWritePieces t (helmGen s s.hart.val) (natBytes n v.toNat) l)

/-- An access's end: what it leaves, nothing while it waits, or its exception. -/
def State.moved {α : Type} (s : State) (r : Moved α) (put : α → State → State) : State :=
  match r with
  | .value v t => put v t
  | .waits => s
  | .fault f => s.faults f

/-- A load of n bytes; put takes its value. -/
def State.hartLoad (s : State) (put : Word → State → State) (signed : Bool) (a : Word) (n : Nat) : State :=
  s.moved (s.hartRead s.myHart.dataEye signed a n) put

/-- A store of n bytes. -/
def State.hartStore (s : State) (a v : Word) (n : Nat) : State :=
  s.moved (s.hartPut s.myHart.dataEye a v n) fun _ t => t.helmNext t.hart

/-- An AMO on n bytes, in main memory or a Basin: elsewhere it takes an access fault (R300, R301), and there a misaligned one an
address-misaligned exception. -/
def State.hartAmo (s : State) (op : HelmAmo) (rd : Fin 32) (a v : Word) (n : Nat) : State :=
  let e := s.myHart.dataEye
  let a := s.myHart.pointer e a
  match s.hartPlace e .store a with
  | .error f => s.faults f
  | .ok (pa, m, t) =>
    let p := placeOf pa 1
    if p ≠ .main ∧ p ≠ .basin then s.faults (e.fault causeStore a)
    else if a.toNat % n ≠ 0 then s.faults (e.fault 6 a)
    else if meetsPoison t (isCached p m) pa n then s.faults (e.poison causeStore a)
    else memAmo t s.hart p m op rd v (physOf pa) n

/-- Load-reserved: a load of main memory that reserves its line. -/
def State.loadReserved (s : State) (rd : Fin 32) (a : Word) (n : Nat) : State :=
  let e := s.myHart.dataEye
  let a := s.myHart.pointer e a
  match s.hartPlace e .load a with
  | .error f => s.faults f
  | .ok (pa, m, t) =>
      if placeOf pa 1 ≠ .main then s.faults (e.fault causeLoad a)
      else if a.toNat % n ≠ 0 then s.faults (e.fault 4 a)
      else if meetsPoison t (isCached .main m) pa n then s.faults (e.poison causeLoad a)
      else (helmLoadAt t s.hart .main m rd true (physOf pa) n).setMyHart
        { (helmLoadAt t s.hart .main m rd true (physOf pa) n).myHart with reserved := some (pa / 64) }

/-- Store-conditional: it stores and gives 0 if the line is still reserved, else 1; the reservation ends. -/
def State.storeConditional (s : State) (rd : Fin 32) (a v : Word) (n : Nat) : State :=
  let e := s.myHart.dataEye
  let a := s.myHart.pointer e a
  match s.hartPlace e .store a with
  | .error f => s.faults f
  | .ok (pa, m, t) =>
      if placeOf pa 1 ≠ .main then s.faults (e.fault causeStore a)
      else if a.toNat % n ≠ 0 then s.faults (e.fault 6 a)
      else
        let held := decide (s.myHart.reserved = some (pa / 64))
        let t := if held then hartWrite t (isCached .main m) (helmGen s s.hart.val) pa (natBytes n v.toNat) else t
        (t.setMyHart { t.myHart with reserved := none }).helmLoad s.hart rd (boolWord (!held))

/-- The operation of an AMO's code. -/
def amoOf (code : Nat) : Option HelmAmo :=
  match code with
  | 0x00 => some .add
  | 0x01 => some .swap
  | 0x04 => some .xor
  | 0x08 => some .or
  | 0x0C => some .and
  | 0x10 => some .min
  | 0x14 => some .max
  | 0x18 => some .minu
  | 0x1C => some .maxu
  | _ => none

/-- The A extension. -/
def State.atomicWord (s : State) (w : W32) : Std :=
  let x := s.myHart
  let n := 2 ^ funct3 w
  let code := (fld w 27 5 : BitVec 5).toNat
  let a := x.getX (regAt w 15)
  let v := x.getX (regAt w 20)
  if funct3 w ≠ 2 ∧ funct3 w ≠ 3 then .illegal
  else if code = 2 then (if regAt w 20 = 0 then .done (s.loadReserved (regAt w 7) a n) else .illegal)
  else if code = 3 then .done (s.storeConditional (regAt w 7) a v n)
  else match amoOf code with
    | some op => .done (s.hartAmo op (regAt w 7) a v n)
    | none => .illegal

/-- Whether an environment enable is given to the hart's mode: by menvcfg below M mode, by henvcfg in a guest, and by senvcfg in U mode. -/
def Hart.envAllows (x : Hart) (f : Word → Bool) : Verdict :=
  if x.mode = .m then .ok
  else if !f x.csrs.menvcfg then .illegal
  else if x.virt then (if f x.hyp.henvcfg && (x.mode == .s || f x.csrs.senvcfg) then .ok else .virtual)
  else if x.mode == .s || f x.csrs.senvcfg then .ok else .illegal

/-- An instruction that a mode may execute, or its exception. -/
def Verdict.run (v : Verdict) (s : State) : Std :=
  match v with
  | .ok => .done s
  | .illegal => .illegal
  | .virtual => .virtual

/-- A cache-block operation on the block of an address. Clean, flush and inval need a page that may be read or written, zero one that may be written. -/
def State.blockWord (s : State) (op : HelmOp) (a : Word) : State :=
  let e := s.myHart.dataEye
  let a := s.myHart.pointer e a
  let read := match op, s.hartPlace e .load a with
    | .zero, _ => none
    | _, .ok r => some r
    | _, .error _ => none
  match read, s.hartPlace e .store a with
  | some (pa, m, t), _ =>
    if placeOf pa 1 = .nowhere ∨ placeOf pa 1 = .register then s.faults (e.fault causeStore a) else blockOp t s.hart (placeOf pa 1) m op (physOf pa)
  | none, .ok (pa, m, t) =>
    if placeOf pa 1 = .nowhere ∨ placeOf pa 1 = .register then s.faults (e.fault causeStore a) else blockOp t s.hart (placeOf pa 1) m op (physOf pa)
  | none, .error f => s.faults f

/-- Fences order nothing that the one order of steps leaves open (14 R257, R258), and fence.i finds nothing held; the cache-block operations. -/
def State.fenceWord (s : State) (w : W32) : Std :=
  let x := s.myHart
  let a := x.getX (regAt w 15)
  match funct3 w with
  | 0 => .done s.hartSkip
  | 1 => .done s.hartSkip
  | 2 =>
    if regAt w 7 ≠ 0 then .illegal
    else match (fld w 20 12 : BitVec 12).toNat with
      | 0 => (x.envAllows fun e => bit e 4).run (s.blockWord .inval a)
      | 1 => (x.envAllows fun e => bit e 6).run (s.blockWord .clean a)
      | 2 => (x.envAllows fun e => bit e 6).run (s.blockWord .flush a)
      | 4 => (x.envAllows fun e => bit e 7).run (s.blockWord .zero a)
      | _ => .illegal
  | _ => .illegal

-- System words ------------------------------------------------------------------------------------------------------------------------------

/-- The exception cause of ecall in a mode. -/
def Hart.ecallCause (x : Hart) : Nat :=
  match x.mode with
  | .u => 8
  | .s => if x.virt then 10 else 9
  | .m => 11

/-- A fence of the translations: no translation is held, so it only must be allowed. TVM closes sfence.vma and sinval.vma in S mode, VTVM in a
guest's. -/
def Hart.mayFence (x : Hart) (byTvm : Bool) : Verdict :=
  if x.virt then (if x.mode = .u ∨ (byTvm ∧ bit x.hyp.hstatus 20) then .virtual else .ok)
  else if x.mode = .u ∨ (byTvm ∧ x.mode = .s ∧ bit x.mstatus 20) then .illegal else .ok

/-- The same for a fence of a guest's translations, which S mode makes; TVM closes those of the second stage. -/
def Hart.mayHyperFence (x : Hart) (second : Bool) : Verdict :=
  if x.virt then .virtual
  else if x.mode = .u ∨ (second ∧ x.mode = .s ∧ bit x.mstatus 20) then .illegal else .ok

/-- A wait for an interrupt: TW closes it below M mode, VTW in a guest's S mode. -/
def Hart.mayWait (x : Hart) : Verdict :=
  if x.mode ≠ .m ∧ bit x.mstatus 21 then .illegal
  else if x.virt ∧ x.mode = .s ∧ bit x.hyp.hstatus 21 then .virtual else .ok

/-- SYSTEM words without a CSR. A wait for an interrupt ends at once, as the standard allows. -/
def State.privileged (s : State) (w : W32) : Std :=
  let x := s.myHart
  match w.toNat with
  | 0x00000073 => .done (s.exception x.ecallCause 0)
  | 0x00100073 => .done (s.exception 3 0)
  | 0x10200073 => .done s.sret
  | 0x30200073 => .done s.mret
  | 0x10500073 => x.mayWait.run s.hartSkip
  | 0x00D00073 => .done s.hartSkip
  | 0x01D00073 => .done s.hartSkip
  | 0x18000073 => (x.mayFence false).run s.hartSkip
  | 0x18100073 => (x.mayFence false).run s.hartSkip
  | _ =>
    if regAt w 7 ≠ 0 then .illegal
    else if funct7 w = 0x09 ∨ funct7 w = 0x0B then (x.mayFence true).run s.hartSkip
    else if funct7 w = 0x11 ∨ funct7 w = 0x13 then (x.mayHyperFence false).run s.hartSkip
    else if funct7 w = 0x31 ∨ funct7 w = 0x33 then (x.mayHyperFence true).run s.hartSkip
    else .illegal

/-- A hypervisor's load of guest memory by function and form: bytes, whether it is sign-extended, and whether it asks for execute permission (HLVX). -/
def hyperLoad (f7 form : Nat) : Option (Nat × Bool × Bool) :=
  match f7, form with
  | 0x30, 0 => some (1, true, false)
  | 0x30, 1 => some (1, false, false)
  | 0x32, 0 => some (2, true, false)
  | 0x32, 1 => some (2, false, false)
  | 0x32, 3 => some (2, false, true)
  | 0x34, 0 => some (4, true, false)
  | 0x34, 1 => some (4, false, false)
  | 0x34, 3 => some (4, false, true)
  | 0x36, 0 => some (8, true, false)
  | _, _ => none
/-- The bytes of a hypervisor's store. -/
def hyperStore (f7 : Nat) : Option Nat :=
  match f7 with
  | 0x31 => some 1
  | 0x33 => some 2
  | 0x35 => some 4
  | 0x37 => some 8
  | _ => none

/-- Whether a hart may access guest memory as a hypervisor: in M and S mode, and in U mode where HU is set. -/
def Hart.mayHyper (x : Hart) : Verdict :=
  if x.virt then .virtual else if x.mode = .u ∧ !bit x.hyp.hstatus 9 then .illegal else .ok

/-- SYSTEM words with function 4: the may-be-operations write zero; and the hypervisor's loads and stores of guest memory. -/
def State.mayBe (s : State) (w : W32) : Std :=
  let x := s.myHart
  let a := x.getX (regAt w 15)
  if bit w 31 && (fld w 28 2 : BitVec 2) == 0 && (bit w 25 || (fld w 22 4 : BitVec 4) == 7) then .done (s.helmLoad s.hart (regAt w 7) 0)
  else match hyperLoad (funct7 w) (regAt w 20).val, hyperStore (funct7 w) with
    | some (n, g, exec), _ => x.mayHyper.run (s.moved (s.hartRead (x.hyperEye exec) g a n) fun v t => t.helmLoad t.hart (regAt w 7) v)
    | none, some n =>
      if regAt w 7 ≠ 0 then .illegal
      else x.mayHyper.run (s.moved (s.hartPut (x.hyperEye false) a (x.getX (regAt w 20)) n) fun _ t => t.helmNext t.hart)
    | none, none => .illegal

/-- SYSTEM. -/
def State.systemWord (s : State) (w : W32) : Std :=
  match funct3 w with
  | 0 => s.privileged w
  | 4 => s.mayBe w
  | _ => .done (s.csrAccess w)

-- All 32-bit words -------------------------------------------------------------------------------------------------------------------------------

/-- Loads and stores by function: bytes, and whether the value is sign-extended. -/
def loadForm (f3 : Nat) : Option (Nat × Bool) :=
  match f3 with
  | 0 => some (1, true)
  | 1 => some (2, true)
  | 2 => some (4, true)
  | 3 => some (8, true)
  | 4 => some (1, false)
  | 5 => some (2, false)
  | 6 => some (4, false)
  | _ => none

-- Floating point ---------------------------------------------------------------------------------------------------------------------------------

/-- The format of a code: single, double, half. -/
def floatFmt (code : Nat) : Option Fmt :=
  match code with
  | 0 => some fF32
  | 1 => some fF64
  | 2 => some fF16
  | _ => none

/-- The rounding mode of a word: its own, or the one in fcsr. -/
def Hart.rounding (x : Hart) (w : W32) : Option Frm := if funct3 w = 7 then frmOf (x.fcsr.toNat / 32) else frmOf (funct3 w)

/-- A floating-point result, with its flags; and one in an integer register. -/
def State.floatDone (s : State) (w : W32) (f : Fmt) (v : Nat × Nat) : Std :=
  .done ((s.setMyHart ((s.myHart.setF (regAt w 7) (f.box v.1)).raise v.2)).helmNext s.hart)
def State.floatInt (s : State) (w : W32) (v : Word × Nat) : Std := .done (State.helmLoad (s.setMyHart (s.myHart.raise v.2)) s.hart (regAt w 7) v.1)

/-- The operations of OP-FP that round, by their code, in single or double precision. -/
def State.floatRounded (s : State) (w : W32) (f : Fmt) (r : Frm) (op : Nat) : Std :=
  let x := s.myHart
  let a := x.getF f (regAt w 15)
  let b := x.getF f (regAt w 20)
  let sel := (regAt w 20).val
  match op with
  | 0x00 => s.floatDone w f (f.arith r [a, b] (r.add (f.value a) (f.value b)))
  | 0x01 => s.floatDone w f (f.arith r [a, b] (r.add (f.value a) (f.value b).neg))
  | 0x02 => s.floatDone w f (f.arith r [a, b] ((f.value a).mul (f.value b)))
  | 0x03 => s.floatDone w f (f.divide r a b)
  | 0x0B => if sel = 0 then s.floatDone w f (f.arith r [a] (rootOf (f.value a))) else .illegal
  | 0x08 =>
    if sel = 4 ∨ sel = 5 then s.floatDone w f (f.integral r (sel == 5) a)
    else match floatFmt sel with
      | some g => if g = f then .illegal else s.floatDone w f (f.convert g r (x.getF g (regAt w 15)))
      | none => .illegal
  | 0x18 =>
    if sel < 4 then s.floatInt w (f.toIntReg r sel a)
    else if sel = 8 ∧ f = fF64 ∧ funct3 w = 1 then s.floatInt w (modularWord a)
    else .illegal
  | 0x1A => if sel < 4 then s.floatDone w f (f.finish r (FVal.ofInt (intOf sel (x.getX (regAt w 15))))) else .illegal
  | _ => .illegal

/-- The moves between registers and the other operations of OP-FP that do not round. -/
def State.floatPlain (s : State) (w : W32) (f : Fmt) (op : Nat) : Std :=
  let x := s.myHart
  let a := x.getF f (regAt w 15)
  let b := x.getF f (regAt w 20)
  let n := f.eb + f.mb
  let sign (neg : Bool) : Nat × Nat := (a % 2 ^ n + f.sign neg, 0)
  match op, funct3 w with
  | 0x04, 0 => s.floatDone w f (sign (b.testBit n))
  | 0x04, 1 => s.floatDone w f (sign !b.testBit n)
  | 0x04, 2 => s.floatDone w f (sign (a.testBit n != b.testBit n))
  | 0x05, k => if k < 4 then s.floatDone w f (f.minMax (k % 2 == 1) (decide (k < 2)) a b) else .illegal
  | 0x14, k =>
    if k < 3 ∨ k = 4 ∨ k = 5 then
      let v := f.compare (k % 4) (k == 2 || decide (4 ≤ k)) a b
      s.floatInt w (boolWord v.1, v.2)
    else .illegal
  | 0x1C, 1 => if regAt w 20 = 0 then s.floatInt w (BitVec.ofNat 64 (f.classOf a), 0) else .illegal
  | 0x1E, 0 => if regAt w 20 = 1 then s.floatDone w f (f.constant (regAt w 15).val, 0) else .illegal
  | _, _ => .illegal

/-- A move between an integer register and a floating-point one, which takes the bits as they are. -/
def State.floatMove (s : State) (w : W32) (f : Fmt) (out : Bool) : Std :=
  let x := s.myHart
  if out then .done (s.helmLoad s.hart (regAt w 7) (sext64 f.width (x.f.get (regAt w 15))))
  else s.floatDone w f ((x.getX (regAt w 15)).toNat, 0)

/-- Whether an operation code has a rounding mode. -/
def hasRounding (op : Nat) : Bool := op < 4 || op == 0x0B || op == 0x08 || op == 0x18 || op == 0x1A

/-- OP-FP. In half precision only the moves and the conversions between formats exist (Zfhmin). -/
def State.floatOp (s : State) (w : W32) : Std :=
  let x := s.myHart
  let op := (fld w 27 5 : BitVec 5).toNat
  match floatFmt (fld w 25 2 : BitVec 2).toNat with
  | none => .illegal
  | some f =>
    if (op = 0x1C ∨ op = 0x1E) ∧ funct3 w = 0 ∧ regAt w 20 = 0 then s.floatMove w f (op == 0x1C)
    else if f = fF16 ∧ ¬ (op = 8 ∧ (regAt w 20).val < 2) then .illegal
    else if hasRounding op then
      match x.rounding w with
      | some r => s.floatRounded w f r op
      | none => .illegal
    else s.floatPlain w f op

/-- The fused multiply-adds, by major opcode: fmadd, fmsub, fnmsub, fnmadd. -/
def State.floatFused (s : State) (w : W32) (negProduct negAddend : Bool) : Std :=
  let x := s.myHart
  match floatFmt (fld w 25 2 : BitVec 2).toNat, x.rounding w with
  | some f, some r =>
    if f = fF16 then .illegal
    else s.floatDone w f (f.fused r negProduct negAddend (x.getF f (regAt w 15)) (x.getF f (regAt w 20)) (x.getF f (regAt w 27)))
  | _, _ => .illegal

/-- A floating-point word, while the unit is on. -/
def State.floatWord (s : State) (t : Std) : Std := if s.myHart.floatOn then t else .illegal

/-- The format that a load or store of the unit moves, by its function. -/
def floatWidth (f3 : Nat) : Option Fmt :=
  match f3 with
  | 1 => some fF16
  | 2 => some fF32
  | 3 => some fF64
  | _ => none

/-- A load into a floating-point register, boxed. -/
def State.floatLoad (s : State) (w : W32) (a : Word) : Std :=
  match floatWidth (funct3 w) with
  | some f =>
    .done (s.hartLoad (fun v t => (t.setMyHart ((t.myHart.setF (regAt w 7) (f.box v.toNat)).raise 0)).helmNext t.hart) false a (f.width / 8))
  | none => .illegal

/-- A store of a floating-point register's low bits. -/
def State.floatStore (s : State) (w : W32) (a : Word) : Std :=
  match floatWidth (funct3 w) with
  | some f => .done (s.hartStore a (s.myHart.f.get (regAt w 20)) (f.width / 8))
  | none => .illegal

end Sys2Proof.Machine
end

