-- ==== Sys2Proof/Machine/VectorBase.lean ====
section
/-! DEFINITION. The vector unit of a helm hart: elements, register groups, vector length and type, and how a result is written (19 R299: V with VLEN 256).
PRESUMED from the RISC-V standard (log entry 10). -/

namespace Sys2Proof.Machine

open Sys2Proof

-- Elements and types -------------------------------------------------------------------------------------------------------------

/-- Element i, of e bits, of the group at register r. -/
def VecUnit.elem (u : VecUnit) (e r i : Nat) : Nat := (u.v.get (Fin.ofNat 32 (r + i * e / 256))).toNat / 2 ^ (i * e % 256) % 2 ^ e

/-- Writes an element. -/
def VecUnit.setElem (u : VecUnit) (e r i v : Nat) : VecUnit :=
  let k : Fin 32 := Fin.ofNat 32 (r + i * e / 256)
  { u with v := u.v.set k.val (setFld (u.v.get k) (i * e % 256) (BitVec.ofNat e v)) k.isLt }

/-- The element width, eight times the group multiplier, and the two policies of a vtype. -/
def sewOf (vtype : Word) : Nat := 8 * 2 ^ (fld vtype 3 3 : BitVec 3).toNat
def lmul8Of (vtype : Word) : Nat :=
  match (fld vtype 0 3 : BitVec 3).toNat with
  | 0 => 8
  | 1 => 16
  | 2 => 32
  | 3 => 64
  | 5 => 1
  | 6 => 2
  | 7 => 4
  | _ => 0
def VecUnit.sew (u : VecUnit) : Nat := sewOf u.vtype
def VecUnit.lmul8 (u : VecUnit) : Nat := lmul8Of u.vtype
/-- VLMAX. -/
def vlmaxOf (vtype : Word) : Nat := 32 * lmul8Of vtype / sewOf vtype
def VecUnit.vlmax (u : VecUnit) : Nat := vlmaxOf u.vtype
/-- Whether a vtype is supported: no reserved bit or code, and elements that fit the group. -/
def typeOk (vtype : Word) : Bool :=
  (fld vtype 8 56 : BitVec 56) == 0 && decide (sewOf vtype ≤ 64) && lmul8Of vtype != 0 && decide (8 * sewOf vtype ≤ 64 * lmul8Of vtype)

/-- Eight times the multiplier of a group whose elements have e bits; 0 if there is none. -/
def VecUnit.emul8 (u : VecUnit) (e : Nat) : Nat :=
  if u.lmul8 * e % u.sew = 0 ∧ u.lmul8 * e / u.sew ≤ 64 then u.lmul8 * e / u.sew else 0

/-- A register group: its first register, element width (1 for a mask) and eight times its multiplier. -/
structure VGroup where
  reg : Nat
  eew : Nat
  emul8 : Nat
  deriving DecidableEq, Repr

/-- The group of elements of e bits at a register; a mask; and one register that holds a scalar. -/
def VecUnit.group (u : VecUnit) (r e : Nat) : VGroup := ⟨r, e, u.emul8 e⟩
def maskGroup (r : Nat) : VGroup := ⟨r, 1, 8⟩
def oneGroup (r e : Nat) : VGroup := ⟨r, e, 8⟩

/-- The registers of a group. -/
def VGroup.size (g : VGroup) : Nat := max 1 (g.emul8 / 8)
/-- Whether a group exists. -/
def VGroup.fits (g : VGroup) : Bool := g.emul8 != 0 && g.reg % g.size == 0 && decide (g.eew ≤ 64)
/-- Whether two groups share no register. -/
def VGroup.apart (a b : VGroup) : Bool := decide (a.reg + a.size ≤ b.reg ∨ b.reg + b.size ≤ a.reg)
/-- Whether a destination may share registers with a source: elements of one width, a narrower source in the highest registers of the destination,
or a wider one whose lowest registers are the destination. -/
def VGroup.mayShare (d g : VGroup) : Bool :=
  d.apart g || d.eew == g.eew || (if g.eew < d.eew then decide (8 ≤ g.emul8) && g.reg + g.size == d.reg + d.size else d.reg == g.reg)

/-- Whether no register serves for sources of two widths. -/
def oneWidth : List VGroup → Bool
  | [] => true
  | g :: l => (l.all fun h => g.apart h || g.eew == h.eew) && oneWidth l

/-- Whether groups may serve an instruction. masked: v0 is its mask; free: the destination is a mask or a scalar. -/
def VecUnit.mayRun (u : VecUnit) (masked free : Bool) (d : VGroup) (srcs : List VGroup) : Bool :=
  !bit u.vtype 63 && d.fits && srcs.all VGroup.fits && ((free && d.eew != 1) || srcs.all d.mayShare) && oneWidth (if masked then maskGroup 0 :: srcs else srcs) &&
    (!masked || free || d.reg != 0)

/-- The mask bit of an element. -/
def VecUnit.maskBit (u : VecUnit) (i : Nat) : Bool := u.elem 1 0 i == 1

-- Results --------------------------------------------------------------------------------------------------------------------------

/-- The elements from vstart to vl that are active. -/
def VecUnit.active (u : VecUnit) (masked : Bool) : List Nat :=
  (List.range u.vl.toNat).filter fun i => decide (u.vstart.toNat ≤ i) && (!masked || u.maskBit i)

/-- The registers after a result: active elements take f, and inactive and tail elements stay or, where the policy is agnostic, may become all ones. A mask's
tail is agnostic always. n counts the elements of the vector. -/
def VecUnit.written (u : VecUnit) (fresh : Nat) (masked : Bool) (d : VGroup) (n : Nat) (f : Nat → Nat) : VecUnit :=
  let ones (v : VecUnit) (agnostic : Bool) (i : Nat) : VecUnit :=
    if agnostic && Config.agnosticOnes fresh i then v.setElem d.eew d.reg i (2 ^ d.eew - 1) else v
  if n ≤ u.vstart.toNat then u
  else (List.range (d.size * 256 / d.eew)).foldl (fun v i =>
    if i < u.vstart.toNat then v
    else if i < n then (if !masked || u.maskBit i then v.setElem d.eew d.reg i (f i) else ones v (bit u.vtype 7) i)
    else ones v (bit u.vtype 6 || d.eew == 1) i) u

/-- A vector instruction is done: vstart is zero again and the unit is dirty. -/
def State.vecDone (s : State) (u : VecUnit) : State :=
  let x := s.myHart
  State.helmNext ({ s with fresh := s.fresh + 1 }.setMyHart (Hart.dirty { x with vec := { u with vstart := 0 } } 9)) s.hart

/-- What an operation on elements gives: a value, and flags: of floating point, or saturation in fixed point. -/
abbrev VResult := Nat × Nat

/-- The flags that the active elements raise. -/
def VecUnit.flags (u : VecUnit) (masked : Bool) (f : Nat → VResult) : Nat := (u.active masked).foldl (fun a i => a ||| (f i).2) 0

/-- An operation on elements, into a group. -/
def State.vecMap (s : State) (masked free float : Bool) (d : VGroup) (srcs : List VGroup) (f : Nat → VResult) : Std :=
  let u := s.myHart.vec
  if !u.mayRun masked free d srcs then .illegal
  else
    let fl := u.flags masked f
    let s := if float then s.setMyHart (s.myHart.raise fl) else s
    let v := u.written s.fresh masked d u.vl.toNat fun i => (f i).1
    .done (s.vecDone (if float then v else { v with vxsat := v.vxsat || fl != 0 }))

/-- A scalar into element 0 of a register, unless the vector is empty; the other elements are tail. -/
def State.vecScalar (s : State) (d e v : Nat) : State :=
  let u := s.myHart.vec
  s.vecDone (if u.vl = 0 then u else VecUnit.written { u with vl := 1 } s.fresh false (oneGroup d e) 1 (fun _ => v)
    |> fun w => { w with vl := u.vl })

-- Configuration --------------------------------------------------------------------------------------------------------------------

/-- The vector length for a request: all of it up to VLMAX, VLMAX from twice that on, and between them at least half of the request. -/
def lengthFor (avl vlmax : Nat) : Nat :=
  if avl ≤ vlmax then avl
  else if 2 * vlmax ≤ avl then vlmax
  else vlmax - Config.shortVl avl vlmax % (vlmax - (avl + 1) / 2 + 1)

/-- vsetvli, vsetivli and vsetvl: the type, and the length for a request; none keeps the length, which the new type must allow. A type that is
not supported is left as vill, with no element. -/
def State.vecSet (s : State) (w : W32) (vtype : Word) (avl : Option Nat) : State :=
  let x := s.myHart
  let u := x.vec
  let ok := typeOk vtype && (avl.isSome || (!bit u.vtype 63 && vlmaxOf vtype == u.vlmax))
  let vl : Nat := if !ok then 0 else match avl with
    | some n => lengthFor n (vlmaxOf vtype)
    | none => u.vl.toNat
  let u := { u with vtype := if ok then vtype else (1 : Word) <<< 63, vl := BitVec.ofNat 64 vl, vstart := 0 }
  (s.setMyHart (Hart.dirty { x with vec := u } 9)).helmLoad s.hart (regAt w 7) (BitVec.ofNat 64 vl)

/-- The configuration instructions. -/
def State.vecConfig (s : State) (w : W32) : Std :=
  let x := s.myHart
  let rs1 := regAt w 15
  let avl : Option Nat := if rs1 ≠ 0 then some (x.getX rs1).toNat else if regAt w 7 ≠ 0 then some (2 ^ 64 - 1) else none
  if !bit w 31 then .done (s.vecSet w ((fld w 20 11 : BitVec 11).setWidth 64) avl)
  else if bit w 30 then .done (s.vecSet w ((fld w 20 10 : BitVec 10).setWidth 64) (some rs1.val))
  else if funct7 w = 0x40 then .done (s.vecSet w (x.getX (regAt w 20)) avl)
  else .illegal

/-- A word of the vector extension, while the unit is on. -/
def State.vectorWord (s : State) (t : Std) : Std := if s.myHart.vectorOn then t else .illegal

end Sys2Proof.Machine
end

