-- ==== Sys2Proof/Machine/VectorInt.lean ====
section
/-! DEFINITION. The integer, fixed-point, mask and permutation instructions of a helm hart's vector unit, with Zvbb (19 R299). PRESUMED from the RISC-V standard
(log entry 10). -/

namespace Sys2Proof.Machine

open Sys2Proof

-- Values ---------------------------------------------------------------------------------------------------------------------------

/-- The integer of an element, and an element from an integer. -/
def signedElem (e v : Nat) : Int := if v < 2 ^ (e - 1) then v else (v : Int) - 2 ^ e
def wrapElem (e : Nat) (v : Int) : Nat := (v % 2 ^ e).toNat

/-- v / 2^d rounded as vxrm says: up at half, to even at half, down, or to odd. -/
def roundOff (rm : BitVec 2) (v : Int) (d : Nat) : Int :=
  let q := v / 2 ^ d
  let m := (v % 2 ^ d).toNat
  let up : Bool := match rm.toNat with
    | 0 => decide (2 ^ d ≤ 2 * m ∧ d ≠ 0)
    | 1 => decide (2 ^ d < 2 * m) || (decide (2 * m = 2 ^ d ∧ d ≠ 0) && q % 2 == 1)
    | 2 => false
    | _ => q % 2 == 0 && m != 0
  if up then q + 1 else q

/-- A value kept within bounds, and whether it was beyond them. -/
def clampTo (lo hi v : Int) : Int × Bool := if v < lo then (lo, true) else if hi < v then (hi, true) else (v, false)
/-- Saturated to a signed or unsigned element. -/
def saturated (signed : Bool) (e : Nat) (v : Int) : VResult :=
  let r := if signed then clampTo (-(2 ^ (e - 1) : Nat)) ((2 ^ (e - 1) : Nat) - 1) v else clampTo 0 ((2 ^ e : Nat) - 1) v
  (wrapElem e r.1, if r.2 then 1 else 0)

/-- Bytes of an element turned around, and bits of each byte, and all bits. -/
def reverseBits (n v : Nat) : Nat := (List.range n).foldl (fun a i => if v.testBit i then a + 2 ^ (n - 1 - i) else a) 0
def reverseBytes (e v : Nat) : Nat := bytesNat (natBytes (e / 8) v).reverse
def reverseInBytes (e v : Nat) : Nat := bytesNat ((natBytes (e / 8) v).map fun b => BitVec.ofNat 8 (reverseBits 8 b.toNat))

/-- A rotation to the left. -/
def rotlElem (e v k : Nat) : Nat := v * 2 ^ (k % e) % 2 ^ e + v / 2 ^ (e - k % e)

/-- Quotients and remainders: by zero all ones and the dividend; the one overflow wraps. -/
def divElem (signed : Bool) (e a b : Nat) : Nat :=
  if b = 0 then 2 ^ e - 1 else if signed then wrapElem e ((signedElem e a).tdiv (signedElem e b)) else a / b
def remElem (signed : Bool) (e a b : Nat) : Nat :=
  if b = 0 then a else if signed then wrapElem e ((signedElem e a).tmod (signedElem e b)) else a % b

/-- Operations of OPI whose operands and result have one width, by code: a is vs2's element, b the other operand. -/
def opiValue (rm : BitVec 2) (code e a b : Nat) : Option VResult :=
  let sa := signedElem e a
  let sb := signedElem e b
  match code with
  | 0x00 => some ((a + b) % 2 ^ e, 0)
  | 0x01 => some (a &&& (2 ^ e - 1 - b), 0)
  | 0x02 => some (wrapElem e (a - b), 0)
  | 0x03 => some (wrapElem e (b - a), 0)
  | 0x04 => some (min a b, 0)
  | 0x05 => some (if sa ≤ sb then a else b, 0)
  | 0x06 => some (max a b, 0)
  | 0x07 => some (if sa ≤ sb then b else a, 0)
  | 0x09 => some (a &&& b, 0)
  | 0x0A => some (a ||| b, 0)
  | 0x0B => some (a ^^^ b, 0)
  | 0x14 => some (rotlElem e a (e - b % e), 0)
  | 0x15 => some (rotlElem e a b, 0)
  | 0x20 => some (saturated false e (a + b))
  | 0x21 => some (saturated true e (sa + sb))
  | 0x22 => some (saturated false e (a - b))
  | 0x23 => some (saturated true e (sa - sb))
  | 0x25 => some (a * 2 ^ (b % e) % 2 ^ e, 0)
  | 0x27 => some (saturated true e (roundOff rm (sa * sb) (e - 1)))
  | 0x28 => some (a / 2 ^ (b % e), 0)
  | 0x29 => some (wrapElem e (sa / 2 ^ (b % e)), 0)
  | 0x2A => some (wrapElem e (roundOff rm a (b % e)), 0)
  | 0x2B => some (wrapElem e (roundOff rm sa (b % e)), 0)
  | _ => none

/-- Whether an operation of OPI has a form: with a vector, a register or an immediate. -/
def opiForm (code form : Nat) : Bool :=
  match form with
  | 0 => code != 0x03
  | 4 => true
  | _ => !([0x01, 0x02, 0x04, 0x05, 0x06, 0x07, 0x22, 0x23, 0x27].contains code)

/-- Narrowing operations of OPI: a has twice the width e. -/
def narrowValue (rm : BitVec 2) (code e a b : Nat) : Option VResult :=
  let k := b % (2 * e)
  let sa := signedElem (2 * e) a
  match code with
  | 0x2C => some (a / 2 ^ k % 2 ^ e, 0)
  | 0x2D => some (wrapElem e (sa / 2 ^ k), 0)
  | 0x2E => some (saturated false e (roundOff rm a k))
  | 0x2F => some (saturated true e (roundOff rm sa k))
  | _ => none

/-- Comparisons of OPI. -/
def compareValue (code e a b : Nat) : Option Bool :=
  match code with
  | 0x18 => some (a == b)
  | 0x19 => some (a != b)
  | 0x1A => some (decide (a < b))
  | 0x1B => some (decide (signedElem e a < signedElem e b))
  | 0x1C => some (decide (a ≤ b))
  | 0x1D => some (decide (signedElem e a ≤ signedElem e b))
  | 0x1E => some (decide (b < a))
  | 0x1F => some (decide (signedElem e b < signedElem e a))
  | _ => none
/-- Whether a comparison has a form. -/
def compareForm (code form : Nat) : Bool :=
  match form with
  | 0 => decide (code < 0x1E)
  | 3 => code != 0x1A && code != 0x1B
  | _ => true

/-- Operations of OPM on one width; the multiply-adds among them take the destination's element d too. -/
def opmValue (rm : BitVec 2) (code e d a b : Nat) : Option VResult :=
  let sa := signedElem e a
  let sb := signedElem e b
  match code with
  | 0x08 => some (wrapElem e (roundOff rm (a + b) 1), 0)
  | 0x09 => some (wrapElem e (roundOff rm (sa + sb) 1), 0)
  | 0x0A => some (wrapElem e (roundOff rm (a - b) 1), 0)
  | 0x0B => some (wrapElem e (roundOff rm (sa - sb) 1), 0)
  | 0x20 => some (divElem false e a b, 0)
  | 0x21 => some (divElem true e a b, 0)
  | 0x22 => some (remElem false e a b, 0)
  | 0x23 => some (remElem true e a b, 0)
  | 0x24 => some (a * b / 2 ^ e, 0)
  | 0x25 => some (a * b % 2 ^ e, 0)
  | 0x26 => some (wrapElem e (sa * b / 2 ^ e), 0)
  | 0x27 => some (wrapElem e (sa * sb / 2 ^ e), 0)
  | 0x29 => some ((b * d + a) % 2 ^ e, 0)
  | 0x2B => some (wrapElem e (a - b * d), 0)
  | 0x2D => some ((b * a + d) % 2 ^ e, 0)
  | 0x2F => some (wrapElem e (d - b * a), 0)
  | _ => none
/-- Whether an operation of OPM is a multiply-add. -/
def isMacc (code : Nat) : Bool := [0x29, 0x2B, 0x2D, 0x2F, 0x3C, 0x3D, 0x3E, 0x3F].contains code

/-- Widening operations of OPM: operands as integers by their signs, from elements of e bits; the .w forms take a of twice the width. -/
def wideValue (code e d a b : Nat) : Option VResult :=
  let x (signed : Bool) (n v : Nat) : Int := if signed then signedElem n v else v
  let w := wrapElem (2 * e)
  match code with
  | 0x30 => some (w (a + b), 0)
  | 0x31 => some (w (x true e a + x true e b), 0)
  | 0x32 => some (w (a - b), 0)
  | 0x33 => some (w (x true e a - x true e b), 0)
  | 0x34 => some (w (a + b), 0)
  | 0x35 => some (w (x true (2 * e) a + x true e b), 0)
  | 0x36 => some (w (a - b), 0)
  | 0x37 => some (w (x true (2 * e) a - x true e b), 0)
  | 0x38 => some (w (a * b), 0)
  | 0x3A => some (w (x true e a * b), 0)
  | 0x3B => some (w (x true e a * x true e b), 0)
  | 0x3C => some (w (a * b + d), 0)
  | 0x3D => some (w (x true e a * x true e b + d), 0)
  | 0x3E => some (w (x true e a * b + d), 0)
  | 0x3F => some (w (a * x true e b + d), 0)
  | _ => none

/-- Operations on one element of VXUNARY0 (Zvbb). -/
def unaryValue (code e a : Nat) : Option Nat :=
  match code with
  | 8 => some (reverseInBytes e a)
  | 9 => some (reverseBytes e a)
  | 10 => some (reverseBits e a)
  | 12 => some (clzN e a)
  | 13 => some (ctzN e a)
  | 14 => some (popN e a)
  | _ => none

/-- Reductions by code: the scalar so far and an element. -/
def foldValue (code e a b : Nat) : Nat :=
  match code with
  | 0 => (a + b) % 2 ^ e
  | 1 => a &&& b
  | 2 => a ||| b
  | 3 => a ^^^ b
  | 4 => min a b
  | 5 => if signedElem e a ≤ signedElem e b then a else b
  | 6 => max a b
  | _ => if signedElem e a ≤ signedElem e b then b else a

-- Operands -------------------------------------------------------------------------------------------------------------------------

/-- The operand beside vs2: elements of a group, or one value for all. -/
structure VOperand where
  group : Option VGroup
  at_ : Nat → Nat

/-- The fields of a vector word: vd, vs2, and whether it is masked. -/
def vdOf (w : W32) : Nat := (regAt w 7).val
def vs1Of (w : W32) : Nat := (regAt w 15).val
def vs2Of (w : W32) : Nat := (regAt w 20).val
def isMasked (w : W32) : Bool := !bit w 25
def functV (w : W32) : Nat := (fld w 26 6 : BitVec 6).toNat

/-- Whether an operation of OPI takes its immediate without a sign. -/
def plainImm (code : Nat) : Bool := [0x0C, 0x0E, 0x0F, 0x14, 0x15, 0x25, 0x28, 0x29, 0x2A, 0x2B, 0x2C, 0x2D, 0x2E, 0x2F, 0x35].contains code

/-- The operand of a word by its form, with elements of e bits. -/
def State.vecOperand (s : State) (w : W32) (e : Nat) : VOperand :=
  let x := s.myHart
  let imm : BitVec 5 := fld w 15 5
  match funct3 w with
  | 0 => ⟨some (x.vec.group (vs1Of w) e), fun i => x.vec.elem e (vs1Of w) i⟩
  | 2 => ⟨some (x.vec.group (vs1Of w) e), fun i => x.vec.elem e (vs1Of w) i⟩
  | 3 => ⟨none, fun _ => if plainImm (functV w) then imm.toNat else wrapElem e imm.toInt⟩
  | _ => ⟨none, fun _ => (x.getX (regAt w 15)).toNat % 2 ^ e⟩

/-- The groups of an operand. -/
def VOperand.groups (o : VOperand) : List VGroup := o.group.toList

-- Permutations -----------------------------------------------------------------------------------------------------------------------

/-- A permutation: element i of vd by element numbers of vs2, which it may not overlap where apart says so. -/
def State.vecPermute (s : State) (w : W32) (apart : Bool) (idx : List VGroup) (f : Nat → Nat) : Std :=
  let u := s.myHart.vec
  let d := u.group (vdOf w) u.sew
  let srcs := u.group (vs2Of w) u.sew :: idx
  if apart && !srcs.all d.apart then .illegal else s.vecMap (isMasked w) false false d srcs fun i => (f i, 0)

/-- Element i of vs2; beyond VLMAX zero. -/
def VecUnit.pick (u : VecUnit) (w : W32) (i : Nat) : Nat := if i < u.vlmax then u.elem u.sew (vs2Of w) i else 0

/-- vrgather, vrgatherei16 and the slides by a number. A slide up leaves the elements below its number alone. -/
def State.vecGather (s : State) (w : W32) : Std :=
  let u := s.myHart.vec
  let o := s.vecOperand w u.sew
  let k := if funct3 w = 4 then (s.myHart.getX (regAt w 15)).toNat else o.at_ 0
  match functV w, funct3 w with
  | 0x0C, 0 => s.vecPermute w true o.groups fun i => u.pick w (o.at_ i)
  | 0x0C, _ => s.vecPermute w true [] fun _ => u.pick w k
  | 0x0E, 0 => s.vecPermute w true [u.group (vs1Of w) 16] fun i => u.pick w (u.elem 16 (vs1Of w) i)
  | 0x0E, _ =>
    let lo := max u.vstart.toNat (min k u.vl.toNat)
    if !u.mayRun (isMasked w) false (u.group (vdOf w) u.sew) [u.group (vs2Of w) u.sew] || !(u.group (vdOf w) u.sew).apart (u.group (vs2Of w) u.sew) then .illegal
    else .done (s.vecDone (VecUnit.written { u with vstart := BitVec.ofNat 64 lo } s.fresh (isMasked w) (u.group (vdOf w) u.sew) u.vl.toNat
      fun i => u.elem u.sew (vs2Of w) (i - k)))
  | 0x0F, 0 => .illegal
  | _, _ => s.vecPermute w false [] fun i => u.pick w (i + k)

/-- The slides by one, which take a scalar in. -/
def State.vecSlideOne (s : State) (w : W32) (up : Bool) (v : Nat) : Std :=
  let u := s.myHart.vec
  if up then s.vecPermute w true [] fun i => if i = 0 then v else u.elem u.sew (vs2Of w) (i - 1)
  else s.vecPermute w false [] fun i => if i + 1 = u.vl.toNat then v else u.pick w (i + 1)

/-- vcompress: the elements of vs2 whose bit is set in vs1, one behind the other. -/
def State.vecCompress (s : State) (w : W32) : Std :=
  let u := s.myHart.vec
  let d := u.group (vdOf w) u.sew
  let chosen := (List.range u.vl.toNat).filter fun i => u.elem 1 (vs1Of w) i == 1
  if isMasked w || u.vstart != 0 || !u.mayRun false false d [u.group (vs2Of w) u.sew, maskGroup (vs1Of w)] ||
      !d.apart (u.group (vs2Of w) u.sew) || !d.apart (maskGroup (vs1Of w)) then .illegal
  else if u.vl = 0 then .done (s.vecDone u)
  else
    let v := VecUnit.written { u with vl := BitVec.ofNat 64 chosen.length } s.fresh false d chosen.length fun i => u.elem u.sew (vs2Of w) (nthD 0 chosen i)
    .done (s.vecDone { v with vl := u.vl })

/-- vmv1r to vmv8r: whole registers. -/
def State.vecMove (s : State) (w : W32) : Std :=
  let u := s.myHart.vec
  let n := vs1Of w + 1
  let e := u.sew
  if isMasked w || bit u.vtype 63 || !([1, 2, 4, 8].contains n) || vdOf w % n != 0 || vs2Of w % n != 0 then .illegal
  else .done (s.vecDone ((List.range (n * 256 / e)).foldl (fun v i => if i < u.vstart.toNat then v else v.setElem e (vdOf w) i (u.elem e (vs2Of w) i)) u))

-- OPI ----------------------------------------------------------------------------------------------------------------------------

/-- vadc, vmadc, vsbc and vmsbc: with v0 as carries where the word is masked. -/
def State.vecCarry (s : State) (w : W32) (sub toMask : Bool) : Std :=
  let u := s.myHart.vec
  let e := u.sew
  let o := s.vecOperand w e
  let srcs := u.group (vs2Of w) e :: o.groups
  let c (i : Nat) : Int := if isMasked w && u.maskBit i then 1 else 0
  let sum (i : Nat) : Int := if sub then u.elem e (vs2Of w) i - o.at_ i - c i else u.elem e (vs2Of w) i + o.at_ i + c i
  let readsCarry : Bool := !isMasked w || oneWidth (maskGroup 0 :: srcs)
  if (sub && funct3 w == 3) || !readsCarry then .illegal
  else if toMask then s.vecMap false false false (maskGroup (vdOf w)) srcs fun i => (if sum i < 0 ∨ 2 ^ e ≤ sum i then 1 else 0, 0)
  else if !isMasked w || vdOf w == 0 then .illegal
  else s.vecMap false false false (u.group (vdOf w) e) srcs fun i => (wrapElem e (sum i), 0)

/-- vmerge, which chooses by v0, and vmv.v. -/
def State.vecMerge (s : State) (w : W32) (o : VOperand) : Std :=
  let u := s.myHart.vec
  let e := u.sew
  let d := u.group (vdOf w) e
  let two := u.group (vs2Of w) e
  if isMasked w then
    (if vdOf w = 0 ∨ !oneWidth (maskGroup 0 :: two :: o.groups) then .illegal
     else s.vecMap false false false d (two :: o.groups) fun i => (if u.maskBit i then o.at_ i else u.elem e (vs2Of w) i, 0))
  else if vs2Of w ≠ 0 then .illegal
  else s.vecMap false false false d o.groups fun i => (o.at_ i, 0)

/-- A reduction: the scalar in vs1's element 0, with every active element of vs2, into vd's element 0. -/
def State.vecReduce (s : State) (w : W32) (eD : Nat) (f : Nat → Nat → Nat) : Std :=
  let u := s.myHart.vec
  let srcs := [u.group (vs2Of w) u.sew, oneGroup (vs1Of w) eD]
  if u.vstart != 0 || !u.mayRun (isMasked w) true (oneGroup (vdOf w) eD) srcs then .illegal
  else .done (s.vecScalar (vdOf w) eD ((u.active (isMasked w)).foldl (fun a i => f a (u.elem u.sew (vs2Of w) i)) (u.elem eD (vs1Of w) 0)))

/-- OPIVV, OPIVX and OPIVI. -/
def State.vecOpi (s : State) (w : W32) : Std :=
  let u := s.myHart.vec
  let e := u.sew
  let code := functV w
  let o := s.vecOperand w e
  let a (n i : Nat) : Nat := u.elem n (vs2Of w) i
  let two := u.group (vs2Of w) e
  if code = 0x0C ∨ code = 0x0E ∨ code = 0x0F then s.vecGather w
  else if code = 0x17 then s.vecMerge w o
  else if 0x10 ≤ code ∧ code ≤ 0x13 then s.vecCarry w (code / 2 == 9) (code % 2 == 1)
  else if code = 0x27 ∧ funct3 w = 3 then s.vecMove w
  else if (code = 0x14 ∨ code = 0x15) ∧ funct3 w = 3 then
    s.vecMap (isMasked w) false false (u.group (vdOf w) e) [two] fun i => (rotlElem e (a e i) (e - (o.at_ i + 32 * (code % 2)) % e), 0)
  else if code = 0x30 ∨ code = 0x31 then
    (if funct3 w ≠ 0 then .illegal
     else s.vecReduce w (2 * e) fun x y => wrapElem (2 * e) (x + if code = 0x31 then signedElem e y else y))
  else if code = 0x35 then
    s.vecMap (isMasked w) false false (u.group (vdOf w) (2 * e)) (two :: o.groups) fun i => (a e i * 2 ^ (o.at_ i % (2 * e)) % 2 ^ (2 * e), 0)
  else if 0x2C ≤ code ∧ code ≤ 0x2F then
    s.vecMap (isMasked w) false false (u.group (vdOf w) e) (u.group (vs2Of w) (2 * e) :: o.groups) fun i =>
      (narrowValue u.vxrm code e (a (2 * e) i) (o.at_ i)).getD (0, 0)
  else if 0x18 ≤ code ∧ code ≤ 0x1F then
    (if !compareForm code (funct3 w) then .illegal
     else s.vecMap (isMasked w) true false (maskGroup (vdOf w)) (two :: o.groups) fun i =>
      (if (compareValue code e (a e i) (o.at_ i)).getD false then 1 else 0, 0))
  else if (opiValue u.vxrm code e 0 0).isSome && opiForm code (funct3 w) then
    s.vecMap (isMasked w) false false (u.group (vdOf w) e) (two :: o.groups) fun i => (opiValue u.vxrm code e (a e i) (o.at_ i)).getD (0, 0)
  else .illegal

-- Masks --------------------------------------------------------------------------------------------------------------------------

/-- The logical operations on masks, by code. -/
def maskValue (code : Nat) (a b : Bool) : Bool :=
  match code with
  | 0x18 => a && !b
  | 0x19 => a && b
  | 0x1A => a || b
  | 0x1B => a != b
  | 0x1C => a || !b
  | 0x1D => !(a && b)
  | 0x1E => !(a || b)
  | _ => a == b

/-- The active elements of a mask source that are set. -/
def VecUnit.setBits (u : VecUnit) (w : W32) : List Nat := (u.active (isMasked w)).filter fun i => u.elem 1 (vs2Of w) i == 1

/-- vmsbf, vmsof, vmsif, viota and vid. -/
def State.vecMaskUnary (s : State) (w : W32) : Std :=
  let u := s.myHart.vec
  let d := u.group (vdOf w) u.sew
  let set := u.setBits w
  let first := (set.head?).getD u.vl.toNat
  let find (f : Nat → Bool) : Std :=
    if u.vstart ≠ 0 ∨ vdOf w = vs2Of w ∨ (isMasked w ∧ vdOf w = 0) then .illegal
    else s.vecMap (isMasked w) true false (maskGroup (vdOf w)) [maskGroup (vs2Of w)] fun i => (if f i then 1 else 0, 0)
  match vs1Of w with
  | 1 => find fun i => decide (i < first)
  | 2 => find fun i => i == first
  | 3 => find fun i => decide (i ≤ first)
  | 16 =>
    if u.vstart ≠ 0 ∨ !d.apart (maskGroup (vs2Of w)) then .illegal
    else s.vecMap (isMasked w) false false d [maskGroup (vs2Of w)] fun i => ((set.filter (· < i)).length % 2 ^ u.sew, 0)
  | 17 => if vs2Of w ≠ 0 then .illegal else s.vecMap (isMasked w) false false d [] fun i => (i % 2 ^ u.sew, 0)
  | _ => .illegal

/-- vmv.x.s, vcpop and vfirst: into an integer register. -/
def State.vecToX (s : State) (w : W32) : Std :=
  let u := s.myHart.vec
  let put (v : Word) : Std := .done ((s.setMyHart (Hart.dirty { s.myHart with vec := { u with vstart := 0 } } 9)).helmLoad s.hart (regAt w 7) v)
  if bit u.vtype 63 then .illegal
  else match vs1Of w with
    | 0 => if isMasked w then .illegal else put (BitVec.ofInt 64 (signedElem u.sew (u.elem u.sew (vs2Of w) 0)))
    | 16 => if u.vstart ≠ 0 then .illegal else put (BitVec.ofNat 64 (u.setBits w).length)
    | 17 => if u.vstart ≠ 0 then .illegal else put (match (u.setBits w).head? with
      | some i => BitVec.ofNat 64 i
      | none => BitVec.allOnes 64)
    | _ => .illegal

-- OPM ----------------------------------------------------------------------------------------------------------------------------

/-- VXUNARY0: extensions from a half, a quarter or an eighth of the width, and Zvbb's operations. -/
def State.vecUnary (s : State) (w : W32) : Std :=
  let u := s.myHart.vec
  let e := u.sew
  let d := u.group (vdOf w) e
  let code := vs1Of w
  let part := e / 2 ^ (4 - code / 2)
  if 2 ≤ code ∧ code ≤ 7 then
    (if part < 8 then .illegal
     else s.vecMap (isMasked w) false false d [u.group (vs2Of w) part] fun i =>
      (if code % 2 = 1 then wrapElem e (signedElem part (u.elem part (vs2Of w) i)) else u.elem part (vs2Of w) i, 0))
  else if (unaryValue code e 0).isSome then
    s.vecMap (isMasked w) false false d [u.group (vs2Of w) e] fun i => ((unaryValue code e (u.elem e (vs2Of w) i)).getD 0, 0)
  else .illegal

/-- OPMVV and OPMVX. -/
def State.vecOpm (s : State) (w : W32) : Std :=
  let u := s.myHart.vec
  let e := u.sew
  let code := functV w
  let byX : Bool := funct3 w == 6
  let o := s.vecOperand w e
  let d := u.group (vdOf w) e
  let wide := u.group (vdOf w) (2 * e)
  let a (n i : Nat) : Nat := u.elem n (vs2Of w) i
  let v := (s.myHart.getX (regAt w 15)).toNat % 2 ^ e
  if code < 8 then (if byX then .illegal else s.vecReduce w e (foldValue code e))
  else if code = 0x0E ∨ code = 0x0F then (if byX then s.vecSlideOne w (code == 0x0E) v else .illegal)
  else if code = 0x10 then
    (if !byX then s.vecToX w
     else if isMasked w || vs2Of w != 0 || bit u.vtype 63 then .illegal else .done (s.vecScalar (vdOf w) e v))
  else if code = 0x12 then (if byX then .illegal else s.vecUnary w)
  else if code = 0x14 then (if byX then .illegal else s.vecMaskUnary w)
  else if code = 0x17 then (if byX then .illegal else s.vecCompress w)
  else if 0x18 ≤ code ∧ code ≤ 0x1F then
    (if byX || isMasked w then .illegal
     else s.vecMap false true false (maskGroup (vdOf w)) [maskGroup (vs2Of w), maskGroup (vs1Of w)] fun i =>
      (if maskValue code (u.elem 1 (vs2Of w) i == 1) (u.elem 1 (vs1Of w) i == 1) then 1 else 0, 0))
  else if (wideValue code e 0 0 0).isSome then
    (if code = 0x3E ∧ !byX then .illegal
     else
      let n := if 0x34 ≤ code ∧ code ≤ 0x37 then 2 * e else e
      s.vecMap (isMasked w) false false wide (u.group (vs2Of w) n :: o.groups ++ if isMacc code then [wide] else []) fun i =>
        (wideValue code e (u.elem (2 * e) (vdOf w) i) (a n i) (o.at_ i)).getD (0, 0))
  else if (opmValue u.vxrm code e 0 0 0).isSome then
    s.vecMap (isMasked w) false false d (u.group (vs2Of w) e :: o.groups) fun i =>
      (opmValue u.vxrm code e (u.elem e (vdOf w) i) (a e i) (o.at_ i)).getD (0, 0)
  else .illegal

end Sys2Proof.Machine
end

