-- ==== Sys2Proof/Machine/VectorFloat.lean ====
section
/-! DEFINITION. The floating-point instructions of a helm hart's vector unit, with Zvfhmin's conversions (19 R299). PRESUMED from the RISC-V standard (log
entry 10). -/

namespace Sys2Proof.Machine

open Sys2Proof

-- Values ---------------------------------------------------------------------------------------------------------------------------

/-- The format of elements of e bits that the unit computes in; half precision it only converts (Zvfhmin). -/
def vecFmt (e : Nat) : Option Fmt := if e = 32 then some fF32 else if e = 64 then some fF64 else none
def convFmt (e : Nat) : Option Fmt := if e = 16 then some fF16 else vecFmt e

/-- The seven-bit estimates of a reciprocal, and of a reciprocal square root. -/
def recTable : List Nat :=
  [127, 125, 123, 121, 119, 117, 116, 114, 112, 110, 109, 107, 105, 104, 102, 100, 99, 97, 96, 94, 93, 91, 90, 88, 87, 85, 84, 83, 81, 80, 79, 77] ++
  [76, 75, 74, 72, 71, 70, 69, 68, 66, 65, 64, 63, 62, 61, 60, 59, 58, 57, 56, 55, 54, 53, 52, 51, 50, 49, 48, 47, 46, 45, 44, 43] ++
  [42, 41, 40, 40, 39, 38, 37, 36, 35, 35, 34, 33, 32, 31, 31, 30, 29, 28, 28, 27, 26, 25, 25, 24, 23, 23, 22, 21, 21, 20, 19, 19] ++
  [18, 17, 17, 16, 15, 15, 14, 14, 13, 12, 12, 11, 11, 10, 9, 9, 8, 8, 7, 7, 6, 5, 5, 4, 4, 3, 3, 2, 2, 1, 1, 0]
def rootTable7 : List Nat :=
  [52, 51, 50, 48, 47, 46, 44, 43, 42, 41, 40, 39, 38, 36, 35, 34, 33, 32, 31, 30, 30, 29, 28, 27, 26, 25, 24, 23, 23, 22, 21, 20] ++
  [19, 19, 18, 17, 16, 16, 15, 14, 14, 13, 12, 12, 11, 10, 10, 9, 9, 8, 7, 7, 6, 6, 5, 4, 4, 3, 3, 2, 2, 1, 1, 0] ++
  [127, 125, 123, 121, 119, 118, 116, 114, 113, 111, 109, 108, 106, 105, 103, 102, 100, 99, 97, 96, 95, 93, 92, 91, 90, 88, 87, 86, 85, 84, 83, 82] ++
  [80, 79, 78, 77, 76, 75, 74, 73, 72, 71, 70, 70, 69, 68, 67, 66, 65, 64, 63, 63, 62, 61, 60, 59, 59, 58, 57, 56, 56, 55, 54, 53]

/-- A finite non-zero pattern's exponent field and fraction, a subnormal one normalized. -/
def Fmt.normal (f : Fmt) (a : Nat) : Int × Nat :=
  let e := a / 2 ^ f.mb % 2 ^ f.eb
  let m := a % 2 ^ f.mb
  if e = 0 then ((Nat.log2 m : Int) + 1 - f.mb, m * 2 ^ (f.mb - Nat.log2 m) % 2 ^ f.mb) else (e, m)

/-- vfrsqrt7. -/
def Fmt.rootEstimate (f : Fmt) (a : Nat) : VResult :=
  match f.value a with
  | .nan => (f.nan, if f.isSignal a then 16 else 0)
  | .inf neg => if neg then (f.nan, 16) else (0, 0)
  | .fin neg m _ =>
    if m = 0 then (f.sign neg + f.inf, 8)
    else if neg then (f.nan, 16)
    else
      let x := f.normal a
      let i := (x.1 % 2).toNat * 64 + x.2 / 2 ^ (f.mb - 6)
      (((3 * (f.bias : Int) - 1 - x.1) / 2).toNat * 2 ^ f.mb + nthD 0 rootTable7 i * 2 ^ (f.mb - 7), 0)

/-- vfrec7. -/
def Fmt.recEstimate (f : Fmt) (r : Frm) (a : Nat) : VResult :=
  match f.value a with
  | .nan => (f.nan, if f.isSignal a then 16 else 0)
  | .inf neg => (f.sign neg, 0)
  | .fin neg m _ =>
    if m = 0 then (f.sign neg + f.inf, 8)
    else
      let x := f.normal a
      let o : Int := 2 * (f.bias : Int) - 1 - x.1
      let frac := nthD 0 recTable (x.2 / 2 ^ (f.mb - 7)) * 2 ^ (f.mb - 7)
      if x.1 < -1 then (f.sign neg + r.overflow f neg, 5)
      else if 0 < o then (f.sign neg + o.toNat * 2 ^ f.mb + frac, 0)
      else (f.sign neg + (2 ^ f.mb + frac) / (if o = 0 then 2 else 4), 0)

/-- Operations of OPF on two operands, by code: a is vs2's element. -/
def opfValue (f : Fmt) (r : Frm) (code a b : Nat) : Option VResult :=
  let n := f.eb + f.mb
  let sign (neg : Bool) : VResult := (a % 2 ^ n + f.sign neg, 0)
  match code with
  | 0x00 => some (f.arith r [a, b] (r.add (f.value a) (f.value b)))
  | 0x02 => some (f.arith r [a, b] (r.add (f.value a) (f.value b).neg))
  | 0x04 => some (f.minMax false true a b)
  | 0x06 => some (f.minMax true true a b)
  | 0x08 => some (sign (b.testBit n))
  | 0x09 => some (sign !b.testBit n)
  | 0x0A => some (sign (a.testBit n != b.testBit n))
  | 0x20 => some (f.divide r a b)
  | 0x21 => some (f.divide r b a)
  | 0x24 => some (f.arith r [a, b] ((f.value a).mul (f.value b)))
  | 0x27 => some (f.arith r [a, b] (r.add (f.value b) (f.value a).neg))
  | _ => none

/-- The fused forms by the low bits of their code: plain, both negated, the addend negated, the product negated. -/
def fusedBy (f : Fmt) (r : Frm) (code a b c : Nat) : VResult := f.fused r (code % 4 == 1 || code % 4 == 3) (code % 4 == 1 || code % 4 == 2) a b c

/-- The multiply-adds: 0x28 to 0x2B multiply the destination's element d, the others add it. -/
def maddValue (f : Fmt) (r : Frm) (code d a b : Nat) : VResult := if code < 0x2C then fusedBy f r code d b a else fusedBy f r code b a d

/-- A narrow operand in the format of twice the width, with the flag of a signalling NaN. -/
def widened (f g : Fmt) (r : Frm) (a : Nat) : VResult := f.convert g r a

/-- The widening operations of OPF, from format g to f; the .w forms take a wide a. -/
def wideFloat (f g : Fmt) (r : Frm) (code d a b : Nat) : Option VResult :=
  let y := widened f g r b
  let x := if code = 0x34 ∨ code = 0x36 then (a, 0) else widened f g r a
  let flag (v : VResult) : VResult := (v.1, v.2 ||| x.2 ||| y.2)
  match code with
  | 0x30 => (opfValue f r 0x00 x.1 y.1).map flag
  | 0x32 => (opfValue f r 0x02 x.1 y.1).map flag
  | 0x34 => (opfValue f r 0x00 x.1 y.1).map flag
  | 0x36 => (opfValue f r 0x02 x.1 y.1).map flag
  | 0x38 => (opfValue f r 0x24 x.1 y.1).map flag
  | 0x3C => some (flag (fusedBy f r 0 y.1 x.1 d))
  | 0x3D => some (flag (fusedBy f r 1 y.1 x.1 d))
  | 0x3E => some (flag (fusedBy f r 2 y.1 x.1 d))
  | 0x3F => some (flag (fusedBy f r 3 y.1 x.1 d))
  | _ => none

/-- Comparisons of OPF by code. -/
def compareFloat (f : Fmt) (code a b : Nat) : Option (Bool × Nat) :=
  match code with
  | 0x18 => some (f.compare 2 true a b)
  | 0x19 => some (f.compare 0 false a b)
  | 0x1B => some (f.compare 1 false a b)
  | 0x1C => let v := f.compare 2 true a b
    some (!v.1, v.2)
  | 0x1D => some (f.compare 1 false b a)
  | 0x1F => some (f.compare 0 false b a)
  | _ => none

/-- A conversion to an integer element, and from one. -/
def toIntElem (f : Fmt) (r : Frm) (signed : Bool) (e a : Nat) : VResult :=
  let x := if signed then toInteger r (-(2 ^ (e - 1) : Nat)) ((2 ^ (e - 1) : Nat) - 1) (f.value a) else toInteger r 0 ((2 ^ e : Nat) - 1) (f.value a)
  (wrapElem e x.1, x.2)
def ofIntElem (f : Fmt) (r : Frm) (signed : Bool) (e a : Nat) : VResult := f.finish r (FVal.ofInt (if signed then signedElem e a else a))

/-- A conversion to a narrower format that rounds to odd. -/
def toOdd (f g : Fmt) (a : Nat) : VResult :=
  let x := f.convert g (.as .rtz) a
  (if x.2 % 2 = 1 then x.1 ||| 1 else x.1, x.2)

/-- What a conversion of VFUNARY0 does, from elements of eA bits to elements of eD: by code, one width, widening from 8 and narrowing from 16. -/
def convertElem (r : Frm) (code eD eA a : Nat) : Option VResult :=
  match code % 8, vecFmt eA, vecFmt eD with
  | 0, some g, _ => some (toIntElem g r false eD a)
  | 1, some g, _ => some (toIntElem g r true eD a)
  | 2, _, some f => some (ofIntElem f r false eA a)
  | 3, _, some f => some (ofIntElem f r true eA a)
  | 4, _, _ => match convFmt eA, convFmt eD with
    | some g, some f => if 8 ≤ code then some (f.convert g r a) else none
    | _, _ => none
  | 5, some g, some f => if 16 ≤ code then some (toOdd f g a) else none
  | 6, some g, _ => some (toIntElem g (.as .rtz) false eD a)
  | 7, some g, _ => some (toIntElem g (.as .rtz) true eD a)
  | _, _, _ => none

-- OPF ----------------------------------------------------------------------------------------------------------------------------

/-- The floating-point operand beside vs2: elements, or a register of the scalar unit. -/
def State.vecFloatOperand (s : State) (w : W32) (f : Fmt) : VOperand :=
  let x := s.myHart
  if funct3 w = 1 then ⟨some (x.vec.group (vs1Of w) f.width), fun i => x.vec.elem f.width (vs1Of w) i⟩ else ⟨none, fun _ => x.getF f (regAt w 15)⟩

/-- A reduction with flags, into elements of eD bits. -/
def State.vecFloatReduce (s : State) (w : W32) (eD : Nat) (f : Nat → Nat → VResult) : Std :=
  let u := s.myHart.vec
  let step (a : VResult) (i : Nat) : VResult :=
    let v := f a.1 (u.elem u.sew (vs2Of w) i)
    (v.1, a.2 ||| v.2)
  if u.vstart != 0 || !u.mayRun (isMasked w) true (oneGroup (vdOf w) eD) [u.group (vs2Of w) u.sew, oneGroup (vs1Of w) eD] then .illegal
  else
    let v := (u.active (isMasked w)).foldl step (u.elem eD (vs1Of w) 0, 0)
    .done (State.vecScalar (s.setMyHart (s.myHart.raise v.2)) (vdOf w) eD v.1)

/-- VFUNARY0: the conversions. -/
def State.vecConvert (s : State) (w : W32) (r : Frm) : Std :=
  let u := s.myHart.vec
  let e := u.sew
  let code := vs1Of w
  let eD := if 8 ≤ code ∧ code < 16 then 2 * e else e
  let eA := if 16 ≤ code then 2 * e else e
  if 24 ≤ code ∨ (convertElem r code eD eA 0).isNone then .illegal
  else s.vecMap (isMasked w) false true (u.group (vdOf w) eD) [u.group (vs2Of w) eA] fun i =>
    (convertElem r code eD eA (u.elem eA (vs2Of w) i)).getD (0, 0)

/-- VFUNARY1: square root, estimates and classes. -/
def unaryFloat (f : Fmt) (r : Frm) (code a : Nat) : Option VResult :=
  match code with
  | 0 => some (f.arith r [a] (rootOf (f.value a)))
  | 4 => some (f.rootEstimate a)
  | 5 => some (f.recEstimate r a)
  | 16 => some (f.classOf a, 0)
  | _ => none

/-- The moves of a scalar between element 0 and a floating-point register. -/
def State.vecFloatMove (s : State) (w : W32) (f : Fmt) : Std :=
  let x := s.myHart
  if isMasked w then .illegal
  else if funct3 w = 1 then
    (if vs1Of w ≠ 0 then .illegal
     else
      let y := (x.setF (regAt w 7) (f.box (x.vec.elem f.width (vs2Of w) 0))).raise 0
      .done (State.helmNext (s.setMyHart (Hart.dirty { y with vec := { x.vec with vstart := 0 } } 9)) s.hart))
  else if vs2Of w ≠ 0 then .illegal
  else .done (s.vecScalar (vdOf w) f.width (x.getF f (regAt w 15)))

/-- OPFVV and OPFVF in a format, but for the conversions and the widening forms. -/
def State.vecFloatPlain (s : State) (w : W32) (f : Fmt) (r : Frm) : Std :=
  let u := s.myHart.vec
  let e := f.width
  let code := functV w
  let byF : Bool := funct3 w == 5
  let o := s.vecFloatOperand w f
  let d := u.group (vdOf w) e
  let srcs := u.group (vs2Of w) e :: o.groups
  let a (i : Nat) : Nat := u.elem e (vs2Of w) i
  if code = 0x01 ∨ code = 0x03 ∨ code = 0x05 ∨ code = 0x07 then
    (if byF then .illegal
     else s.vecFloatReduce w e fun x y => if code < 0x05 then f.arith r [x, y] (r.add (f.value x) (f.value y)) else f.minMax (code == 0x07) true x y)
  else if code = 0x0E ∨ code = 0x0F then (if byF then s.vecSlideOne w (code == 0x0E) (o.at_ 0) else .illegal)
  else if code = 0x10 then s.vecFloatMove w f
  else if code = 0x13 then
    (if byF || (unaryFloat f r (vs1Of w) 0).isNone then .illegal
     else s.vecMap (isMasked w) false true d [u.group (vs2Of w) e] fun i => (unaryFloat f r (vs1Of w) (a i)).getD (0, 0))
  else if code = 0x17 then (if byF then s.vecMerge w o else .illegal)
  else if (compareFloat f code 0 0).isSome then
    (if !byF && (code == 0x1D || code == 0x1F) then .illegal
     else s.vecMap (isMasked w) true true (maskGroup (vdOf w)) srcs fun i =>
      let v := (compareFloat f code (a i) (o.at_ i)).getD (false, 0)
      (if v.1 then 1 else 0, v.2))
  else if 0x28 ≤ code ∧ code ≤ 0x2F then
    s.vecMap (isMasked w) false true d srcs fun i => maddValue f r code (u.elem e (vdOf w) i) (a i) (o.at_ i)
  else if (opfValue f r code 0 0).isSome then
    (if !byF && (code == 0x21 || code == 0x27) then .illegal
     else s.vecMap (isMasked w) false true d srcs fun i => (opfValue f r code (a i) (o.at_ i)).getD (0, 0))
  else .illegal

/-- The widening forms, from single to double precision. -/
def State.vecFloatWide (s : State) (w : W32) (r : Frm) : Std :=
  let u := s.myHart.vec
  let code := functV w
  let o := s.vecFloatOperand w fF32
  let wide := u.group (vdOf w) 64
  let eA := if code = 0x34 ∨ code = 0x36 then 64 else 32
  if code = 0x31 ∨ code = 0x33 then
    (if funct3 w ≠ 1 then .illegal
     else s.vecFloatReduce w 64 fun x y =>
      let z := widened fF64 fF32 r y
      let v := fF64.arith r [x, z.1] (r.add (fF64.value x) (fF64.value z.1))
      (v.1, v.2 ||| z.2))
  else if (wideFloat fF64 fF32 r code 0 0 0).isNone then .illegal
  else s.vecMap (isMasked w) false true wide (u.group (vs2Of w) eA :: o.groups ++ if 0x3C ≤ code then [wide] else []) fun i =>
    (wideFloat fF64 fF32 r code (u.elem 64 (vdOf w) i) (u.elem eA (vs2Of w) i) (o.at_ i)).getD (0, 0)

/-- OPFVV and OPFVF, while the scalar unit is on and fcsr holds a rounding mode. -/
def State.vecOpf (s : State) (w : W32) : Std :=
  let x := s.myHart
  let u := x.vec
  let code := functV w
  match frmOf (x.fcsr.toNat / 32) with
  | none => .illegal
  | some r =>
    if !x.floatOn || bit u.vtype 63 then .illegal
    else if code = 0x12 then (if funct3 w = 1 then s.vecConvert w r else .illegal)
    else match vecFmt u.sew with
      | none => .illegal
      | some f => if 0x30 ≤ code then (if u.sew = 32 then s.vecFloatWide w r else .illegal) else s.vecFloatPlain w f r

/-- A word of OP-V: configuration, or arithmetic by its form. -/
def State.vecArith (s : State) (w : W32) : Std :=
  match funct3 w with
  | 7 => s.vecConfig w
  | 1 => s.vecOpf w
  | 5 => s.vecOpf w
  | 2 => s.vecOpm w
  | 6 => s.vecOpm w
  | _ => s.vecOpi w

end Sys2Proof.Machine
end

