-- ==== Sys2Proof/Machine/VectorMem.lean ====
section
/-! DEFINITION. The loads and stores of a helm hart's vector unit (19 R299): each element an access of its own, in element order, so that one with an exception, or
one that waits, leaves its number in vstart and the elements before it done. PRESUMED from the RISC-V standard (log entry 10). -/

namespace Sys2Proof.Machine

open Sys2Proof

/-- A vector access: whether it is masked, the element width, the registers from one field of a segment to the next, the fields, the first register,
the elements, the address of element i of field f, and whether only element 0 may have an exception. -/
structure VAccess where
  masked : Bool
  e : Nat
  step : Nat
  fields : Nat
  reg : Nat
  count : Nat
  addr : Nat → Nat → Word
  firstOnly : Bool

/-- The hart's vector state. -/
def State.setVec (s : State) (u : VecUnit) : State := s.setMyHart { s.myHart with vec := u }
/-- An instruction interrupted at element i. -/
def State.vecStopped (s : State) (i : Nat) : State :=
  s.setMyHart (Hart.dirty { s.myHart with vec := { s.myHart.vec with vstart := BitVec.ofNat 64 i } } 9)

/-- How a walk over elements went: done, done with the vector cut short, or stopped at an element, where it waits or has an exception. -/
inductive VWalk where
  | done (s : State)
  | short (s : State) (n : Nat)
  | stopped (s : State)

/-- The end of one access in a walk. -/
def VWalk.of {α : Type} (c : VAccess) (s : State) (i : Nat) (r : Moved α) (put : α → State → State) : VWalk :=
  match r with
  | .value v t => .done (put v t)
  | .waits => .stopped (s.vecStopped i)
  | .fault f => if c.firstOnly && i != 0 then .short s i else .stopped ((s.vecStopped i).faults f)

/-- Goes on with a walk that is not over. -/
def VWalk.bind (r : VWalk) (f : State → VWalk) : VWalk :=
  match r with
  | .done s => f s
  | .short s n => .short s n
  | .stopped s => .stopped s

/-- One field of one element, loaded or stored. -/
def State.vecOne (s : State) (c : VAccess) (store : Bool) (i f : Nat) : VWalk :=
  let e := s.myHart.dataEye
  let r := c.reg + f * c.step
  if store then VWalk.of c s i (s.hartPut e (c.addr i f) (BitVec.ofNat 64 (s.myHart.vec.elem c.e r i)) (c.e / 8)) fun _ t => t
  else VWalk.of c s i (s.hartRead e false (c.addr i f) (c.e / 8)) fun v t => t.setVec (t.myHart.vec.setElem c.e r i v.toNat)

/-- The fields of one element; the last argument counts those left. -/
def vecFields (c : VAccess) (store : Bool) (i : Nat) : Nat → State → VWalk
  | 0, s => .done s
  | n + 1, s => (s.vecOne c store i (c.fields - (n + 1))).bind (vecFields c store i n)

/-- The elements; the last argument counts those left. -/
def vecWalk (c : VAccess) (store : Bool) : Nat → State → VWalk
  | 0, s => .done s
  | n + 1, s =>
    let i := c.count - (n + 1)
    (if c.masked && !s.myHart.vec.maskBit i then VWalk.done s else vecFields c store i c.fields s).bind (vecWalk c store n)

/-- The registers of a load after its elements: inactive and tail elements as the policies say. u is the unit before it. -/
def VecUnit.settled (u now : VecUnit) (c : VAccess) (fresh n : Nat) : VecUnit :=
  (List.range c.fields).foldl (fun v f =>
    let g : VGroup := ⟨c.reg + f * c.step, c.e, 8 * c.step⟩
    VecUnit.written { v with vstart := u.vstart } fresh c.masked g n fun i => v.elem c.e g.reg i) now

/-- A vector access runs: all of it, or up to the element that stops it. -/
def State.vecAccess (s : State) (c : VAccess) (store : Bool) : State :=
  let u := s.myHart.vec
  let ended (t : State) (n : Nat) : State :=
    let now := t.myHart.vec
    t.vecDone (if store then now else u.settled now c t.fresh n)
  match vecWalk c store (c.count - u.vstart.toNat) s with
  | .done t => ended t c.count
  | .short t n => ended (t.setVec { t.myHart.vec with vl := BitVec.ofNat 64 n }) n
  | .stopped t => t

/-- The element width that a word's function gives. -/
def vecWidth (w : W32) : Option Nat :=
  match funct3 w with
  | 0 => some 8
  | 5 => some 16
  | 6 => some 32
  | 7 => some 64
  | _ => none

/-- The fields of a segment. -/
def fieldsOf (w : W32) : Nat := (fld w 29 3 : BitVec 3).toNat + 1

/-- Whether the groups of a segment's fields exist, and a masked load leaves v0 alone. -/
def segmentOk (g : VGroup) (fields : Nat) (maskedLoad : Bool) : Bool :=
  g.fits && decide (fields * g.size ≤ 8 ∧ g.reg + fields * g.size ≤ 32) && (!maskedLoad || g.reg != 0)

/-- Whole registers, whatever the type and length are. -/
def State.vecWhole (s : State) (w : W32) (e : Nat) (store : Bool) : Std :=
  let n := fieldsOf w
  let a := s.myHart.getX (regAt w 15)
  if isMasked w || !([1, 2, 4, 8].contains n) || vdOf w % n != 0 || (store && e != 8) then .illegal
  else .done (s.vecAccess { masked := false, e := e, step := n, fields := 1, reg := vdOf w, count := n * 256 / e,
                            addr := fun i _ => a + BitVec.ofNat 64 (i * (e / 8)), firstOnly := false } store)

/-- A mask: the bytes that hold vl bits. -/
def State.vecMaskMem (s : State) (w : W32) (e : Nat) (store : Bool) : Std :=
  let u := s.myHart.vec
  let a := s.myHart.getX (regAt w 15)
  if isMasked w || fieldsOf w != 1 || e != 8 || bit u.vtype 63 then .illegal
  else .done (s.vecAccess { masked := false, e := 8, step := 1, fields := 1, reg := vdOf w, count := (u.vl.toNat + 7) / 8,
                            addr := fun i _ => a + BitVec.ofNat 64 i, firstOnly := false } store)

/-- Elements at unit stride, or at a stride. -/
def State.vecStrided (s : State) (w : W32) (e : Nat) (store firstOnly : Bool) (stride : Word) : Std :=
  let u := s.myHart.vec
  let g := u.group (vdOf w) e
  let a := s.myHart.getX (regAt w 15)
  if bit u.vtype 63 || !segmentOk g (fieldsOf w) (isMasked w && !store) || (isMasked w && !oneWidth (maskGroup 0 :: if store then [g] else [])) then .illegal
  else .done (s.vecAccess { masked := isMasked w, e := e, step := g.size, fields := fieldsOf w, reg := vdOf w, count := u.vl.toNat,
                            addr := fun i f => a + BitVec.ofNat 64 i * stride + BitVec.ofNat 64 (f * (e / 8)), firstOnly := firstOnly } store)

/-- Elements of the type's width at indexes of e bits. -/
def State.vecIndexed (s : State) (w : W32) (e : Nat) (store : Bool) : Std :=
  let u := s.myHart.vec
  let g := u.group (vdOf w) u.sew
  let idx := u.group (vs2Of w) e
  let a := s.myHart.getX (regAt w 15)
  let all : VGroup := { g with emul8 := 8 * g.size * fieldsOf w }
  let share : Bool := if store then oneWidth [g, idx] else if fieldsOf w = 1 then g.mayShare idx else all.apart idx
  if bit u.vtype 63 || !segmentOk g (fieldsOf w) (isMasked w && !store) || !idx.fits || !share ||
      (isMasked w && !oneWidth (maskGroup 0 :: idx :: if store then [g] else [])) then .illegal
  else .done (s.vecAccess { masked := isMasked w, e := u.sew, step := g.size, fields := fieldsOf w, reg := vdOf w, count := u.vl.toNat,
                            addr := fun i f => a + BitVec.ofNat 64 (u.elem e (vs2Of w) i) + BitVec.ofNat 64 (f * (u.sew / 8)), firstOnly := false } store)

/-- A vector load or store, by its addressing mode. -/
def State.vecMem (s : State) (w : W32) (store : Bool) : Std :=
  match vecWidth w, (fld w 26 2 : BitVec 2).toNat with
  | none, _ => .illegal
  | some e, m =>
    if bit w 28 then .illegal
    else match m with
      | 0 =>
        let unit := (BitVec.ofNat 64 (fieldsOf w * (e / 8)) : Word)
        match vs2Of w with
        | 0 => s.vecStrided w e store false unit
        | 8 => s.vecWhole w e store
        | 11 => s.vecMaskMem w e store
        | 16 => if store then .illegal else s.vecStrided w e store true unit
        | _ => .illegal
      | 2 => s.vecStrided w e store false (s.myHart.getX (regAt w 20))
      | _ => s.vecIndexed w e store

def State.vecLoad (s : State) (w : W32) : Std := s.vecMem w false
def State.vecStore (s : State) (w : W32) : Std := s.vecMem w true

end Sys2Proof.Machine
end

