-- ==== Sys2Proof/Machine/Riscv.lean ====
section
/-! DEFINITION. A standard word of a helm hart, of 32 bits or compressed (C, Zcb, Zcmop), by its fields (19 R299). PRESUMED from the RISC-V standards (log
entry 10). -/

namespace Sys2Proof.Machine

open Sys2Proof

/-- Whether a load or store of LOAD-FP or STORE-FP is the vector extension's, by its function. -/
def vectorWidth (f3 : Nat) : Bool := f3 == 0 || decide (5 ≤ f3)

/-- A 32-bit standard word, by its major opcode. -/
def State.fullWord (s : State) (w : W32) : Std :=
  let x := s.myHart
  let a := x.getX (regAt w 15)
  let b := x.getX (regAt w 20)
  match (fld w 0 7 : BitVec 7).toNat with
  | 0x03 =>
    match loadForm (funct3 w) with
    | some (n, g) => .done (s.hartLoad (fun v t => t.helmLoad t.hart (regAt w 7) v) g (a + immI w) n)
    | none => .illegal
  | 0x07 => if vectorWidth (funct3 w) then s.vectorWord (s.vecLoad w) else s.floatWord (s.floatLoad w (a + immI w))
  | 0x0F => s.fenceWord w
  | 0x13 => s.hartResult w (opImm w a)
  | 0x17 => s.hartResult w (some (x.pc + immU w))
  | 0x1B => s.hartResult w (opImm32 w a)
  | 0x23 => if funct3 w < 4 then .done (s.hartStore (a + immS w) b (2 ^ funct3 w)) else .illegal
  | 0x27 => if vectorWidth (funct3 w) then s.vectorWord (s.vecStore w) else s.floatWord (s.floatStore w (a + immS w))
  | 0x2F => s.atomicWord w
  | 0x33 => s.hartResult w (opReg w a b)
  | 0x37 => s.hartResult w (some (immU w))
  | 0x3B => s.hartResult w (opReg32 w a b)
  | 0x43 => s.floatWord (s.floatFused w false false)
  | 0x47 => s.floatWord (s.floatFused w false true)
  | 0x4B => s.floatWord (s.floatFused w true false)
  | 0x4F => s.floatWord (s.floatFused w true true)
  | 0x53 => s.floatWord (s.floatOp w)
  | 0x57 => s.vectorWord (s.vecArith w)
  | 0x63 => s.hartBranch w
  | 0x67 => if funct3 w = 0 then .done (s.hartJump (regAt w 7) (a + immI w)) else .illegal
  | 0x6F => .done (s.hartJump (regAt w 7) (x.pc + immJ w))
  | 0x73 => s.systemWord w
  | _ => .illegal

-- Compressed words ------------------------------------------------------------------------------------------------------------------------------------

/-- Words of the R, I, S, B and J forms from their fields. -/
def rForm (f7 : BitVec 7) (rs2 rs1 : BitVec 5) (f3 : BitVec 3) (rd : BitVec 5) (op : BitVec 7) : W32 := f7 ++ rs2 ++ rs1 ++ f3 ++ rd ++ op
def iForm (imm : BitVec 12) (rs1 : BitVec 5) (f3 : BitVec 3) (rd : BitVec 5) (op : BitVec 7) : W32 := imm ++ rs1 ++ f3 ++ rd ++ op
def sForm (imm : BitVec 12) (rs2 rs1 : BitVec 5) (f3 : BitVec 3) (op : BitVec 7) : W32 :=
  (fld imm 5 7 : BitVec 7) ++ rs2 ++ rs1 ++ f3 ++ (fld imm 0 5 : BitVec 5) ++ op
def bForm (imm : BitVec 13) (rs1 : BitVec 5) (f3 : BitVec 3) : W32 :=
  (fld imm 12 1 : BitVec 1) ++ (fld imm 5 6 : BitVec 6) ++ (0 : BitVec 5) ++ rs1 ++ f3 ++ (fld imm 1 4 : BitVec 4) ++ (fld imm 11 1 : BitVec 1) ++
    (0x63 : BitVec 7)
def jForm (imm : BitVec 21) (rd : BitVec 5) : W32 :=
  (fld imm 20 1 : BitVec 1) ++ (fld imm 1 10 : BitVec 10) ++ (fld imm 11 1 : BitVec 1) ++ (fld imm 12 8 : BitVec 8) ++ rd ++ (0x6F : BitVec 7)

/-- The six-bit immediate of a compressed word. -/
def immC (h : Half) : BitVec 6 := (fld h 12 1 : BitVec 1) ++ (fld h 2 5 : BitVec 5)

/-- The first quadrant: c.addi4spn, loads and stores with three-bit register fields; the form without an immediate is reserved. -/
def expand0 (h : Half) : Option W32 :=
  let rd : BitVec 5 := (1 : BitVec 2) ++ (fld h 2 3 : BitVec 3)
  let rs : BitVec 5 := (1 : BitVec 2) ++ (fld h 7 3 : BitVec 3)
  let w4 : BitVec 12 := ((fld h 5 1 : BitVec 1) ++ (fld h 10 3 : BitVec 3) ++ (fld h 6 1 : BitVec 1) ++ (0 : BitVec 2)).setWidth 12
  let w8 : BitVec 12 := ((fld h 5 2 : BitVec 2) ++ (fld h 10 3 : BitVec 3) ++ (0 : BitVec 3)).setWidth 12
  let b2 : BitVec 12 := ((fld h 5 1 : BitVec 1) ++ (fld h 6 1 : BitVec 1)).setWidth 12
  let h2 : BitVec 12 := ((fld h 5 1 : BitVec 1) ++ (0 : BitVec 1)).setWidth 12
  match (fld h 13 3 : BitVec 3).toNat with
  | 0 =>
    let i : BitVec 12 :=
      ((fld h 7 4 : BitVec 4) ++ (fld h 11 2 : BitVec 2) ++ (fld h 5 1 : BitVec 1) ++ (fld h 6 1 : BitVec 1) ++ (0 : BitVec 2)).setWidth 12
    if i = 0 then none else some (iForm i 2 0 rd 0x13)
  | 1 => some (iForm w8 rs 3 rd 0x07)
  | 2 => some (iForm w4 rs 2 rd 0x03)
  | 3 => some (iForm w8 rs 3 rd 0x03)
  | 4 =>
    match (fld h 10 3 : BitVec 3).toNat with
    | 0 => some (iForm b2 rs 4 rd 0x03)
    | 1 => some (iForm h2 rs (if bit h 6 then 1 else 5) rd 0x03)
    | 2 => some (sForm b2 rd rs 0 0x23)
    | 3 => if bit h 6 then none else some (sForm h2 rd rs 1 0x23)
    | _ => none
  | 5 => some (sForm w8 rd rs 3 0x27)
  | 6 => some (sForm w4 rd rs 2 0x23)
  | _ => some (sForm w8 rd rs 3 0x23)

/-- c.addi16sp, c.lui, and the may-be-operations in the space of c.lui. -/
def expandLui (h : Half) : Option W32 :=
  let rd : BitVec 5 := fld h 7 5
  let i := immC h
  if i = 0 then (if bit h 7 && !bit h 11 then some 0x13 else none)
  else if rd = 2 then
    some (iForm (((fld h 12 1 : BitVec 1) ++ (fld h 3 2 : BitVec 2) ++ (fld h 5 1 : BitVec 1) ++ (fld h 2 1 : BitVec 1) ++ (fld h 6 1 : BitVec 1) ++
      (0 : BitVec 4)).signExtend 12) 2 0 2 0x13)
  else some ((i.signExtend 20) ++ rd ++ (0x37 : BitVec 7))

/-- The register arithmetic of the second quadrant. -/
def expandArith (h : Half) : Option W32 :=
  let rd : BitVec 5 := (1 : BitVec 2) ++ (fld h 7 3 : BitVec 3)
  let rs : BitVec 5 := (1 : BitVec 2) ++ (fld h 2 3 : BitVec 3)
  match (fld h 10 2 : BitVec 2).toNat with
  | 0 => some (iForm ((immC h).setWidth 12) rd 5 rd 0x13)
  | 1 => some (iForm (0x400 ||| (immC h).setWidth 12) rd 5 rd 0x13)
  | 2 => some (iForm ((immC h).signExtend 12) rd 7 rd 0x13)
  | _ =>
    match bit h 12, (fld h 5 2 : BitVec 2).toNat with
    | false, 0 => some (rForm 0x20 rs rd 0 rd 0x33)
    | false, 1 => some (rForm 0 rs rd 4 rd 0x33)
    | false, 2 => some (rForm 0 rs rd 6 rd 0x33)
    | false, _ => some (rForm 0 rs rd 7 rd 0x33)
    | true, 0 => some (rForm 0x20 rs rd 0 rd 0x3B)
    | true, 1 => some (rForm 0 rs rd 0 rd 0x3B)
    | true, 2 => some (rForm 1 rs rd 0 rd 0x33)
    | true, _ =>
      match (fld h 2 3 : BitVec 3).toNat with
      | 0 => some (iForm 0xFF rd 7 rd 0x13)
      | 1 => some (iForm 0x604 rd 1 rd 0x13)
      | 2 => some (rForm 4 0 rd 4 rd 0x3B)
      | 3 => some (iForm 0x605 rd 1 rd 0x13)
      | 4 => some (rForm 4 0 rd 0 rd 0x3B)
      | 5 => some (iForm 0xFFF rd 4 rd 0x13)
      | _ => none

/-- The second quadrant. -/
def expand1 (h : Half) : Option W32 :=
  let rd : BitVec 5 := fld h 7 5
  let i : BitVec 12 := (immC h).signExtend 12
  let rs : BitVec 5 := (1 : BitVec 2) ++ (fld h 7 3 : BitVec 3)
  let b : BitVec 13 := ((fld h 12 1 : BitVec 1) ++ (fld h 5 2 : BitVec 2) ++ (fld h 2 1 : BitVec 1) ++ (fld h 10 2 : BitVec 2) ++ (fld h 3 2 : BitVec 2) ++
    (0 : BitVec 1)).signExtend 13
  let j : BitVec 21 := ((fld h 12 1 : BitVec 1) ++ (fld h 8 1 : BitVec 1) ++ (fld h 9 2 : BitVec 2) ++ (fld h 6 1 : BitVec 1) ++ (fld h 7 1 : BitVec 1) ++
    (fld h 2 1 : BitVec 1) ++ (fld h 11 1 : BitVec 1) ++ (fld h 3 3 : BitVec 3) ++ (0 : BitVec 1)).signExtend 21
  match (fld h 13 3 : BitVec 3).toNat with
  | 0 => some (iForm i rd 0 rd 0x13)
  | 1 => if rd = 0 then none else some (iForm i rd 0 rd 0x1B)
  | 2 => some (iForm i 0 0 rd 0x13)
  | 3 => expandLui h
  | 4 => expandArith h
  | 5 => some (jForm j 0)
  | 6 => some (bForm b rs 0)
  | _ => some (bForm b rs 1)

/-- The third quadrant: shifts, loads and stores on the stack, jumps and moves. -/
def expand2 (h : Half) : Option W32 :=
  let rd : BitVec 5 := fld h 7 5
  let rs : BitVec 5 := fld h 2 5
  let l4 : BitVec 12 := ((fld h 2 2 : BitVec 2) ++ (fld h 12 1 : BitVec 1) ++ (fld h 4 3 : BitVec 3) ++ (0 : BitVec 2)).setWidth 12
  let l8 : BitVec 12 := ((fld h 2 3 : BitVec 3) ++ (fld h 12 1 : BitVec 1) ++ (fld h 5 2 : BitVec 2) ++ (0 : BitVec 3)).setWidth 12
  let s4 : BitVec 12 := ((fld h 7 2 : BitVec 2) ++ (fld h 9 4 : BitVec 4) ++ (0 : BitVec 2)).setWidth 12
  let s8 : BitVec 12 := ((fld h 7 3 : BitVec 3) ++ (fld h 10 3 : BitVec 3) ++ (0 : BitVec 3)).setWidth 12
  match (fld h 13 3 : BitVec 3).toNat with
  | 0 => some (iForm ((immC h).setWidth 12) rd 1 rd 0x13)
  | 1 => some (iForm l8 2 3 rd 0x07)
  | 2 => if rd = 0 then none else some (iForm l4 2 2 rd 0x03)
  | 3 => if rd = 0 then none else some (iForm l8 2 3 rd 0x03)
  | 4 =>
    if rs ≠ 0 then some (rForm 0 rs (if bit h 12 then rd else 0) 0 rd 0x33)
    else if rd ≠ 0 then some (iForm 0 rd 0 (if bit h 12 then 1 else 0) 0x67)
    else if bit h 12 then some 0x00100073 else none
  | 5 => some (sForm s8 rs 2 3 0x27)
  | 6 => some (sForm s4 rs 2 2 0x23)
  | _ => some (sForm s8 rs 2 3 0x23)

/-- The 32-bit word that a compressed one stands for; none for a reserved encoding. -/
def expandWord (h : Half) : Option W32 :=
  match (fld h 0 2 : BitVec 2).toNat with
  | 0 => expand0 h
  | 1 => expand1 h
  | _ => expand2 h

/-- The hart in turn executes words of n bytes. -/
def State.withLen (s : State) (n : Nat) : State := s.setMyHart { s.myHart with len := n }

/-- The end of a standard word: what it did, or its exception. -/
def State.stdEnd (s : State) (w : W32) (r : Std) : State :=
  match r with
  | .done t => t
  | .illegal => s.exception causeIllegal (w.setWidth 64)
  | .virtual => s.exception causeVirtual (w.setWidth 64)

/-- A standard word, compressed or not, at a hart's pc: what becomes of it, an exception included. -/
def State.standardWord (s : State) (w : W32) : State :=
  if (fld w 0 2 : BitVec 2) = 3 then s.stdEnd w (s.fullWord w)
  else match expandWord (fld w 0 16) with
    | none => s.exception causeIllegal (w.setWidth 64)
    | some v => ((s.withLen 2).stdEnd w ((s.withLen 2).fullWord v)).withLen 4

end Sys2Proof.Machine
end

