-- ==== Sys2Proof/Machine/Turn.lean ====
section
/-! DEFINITION. What each agent does when its turn comes: a core that issues from a slot (01 R22, R26), a helm hart, a Sweiq engine (10 R210, R211), an event and the
end of a cycle. -/

namespace Sys2Proof.Machine

open Sys2Proof

/-- An instruction that was fetched executes, or is no instruction (02 R46); a motor forwards it (01 R26). DESIGN CHOICE (log entry 29): a word that does
not decode traps at once; every other waits first while a butty's buffer is full, also one that will trap 0x02. -/
def runWord (s : State) (w l0 l1 : W32) : Host.Outcome State Fault Refusal :=
  match decode32 w l0 l1 with
  | .error _ => exec (.reservedEncoding w) s
  | .ok i =>
    match s.me.tow with
    | .motor gid _ =>
      if buttyFull s gid then .next (s.remove .motor) else mapNext (exec i s) fun u => forward s u i gid
    | _ => exec i s

/-- A core's turn for a slot: nothing happens unless R22 gives the slot this cycle. -/
def issueStep (s : State) (c : Nat) (k : Fin 16) : Host.Outcome State Fault Refusal :=
  if !issues s c k then .next s
  else match (if (s.thread c k).midway then none else failedRelaxed (s.thread c k)), (s.thread c k).tow, (s.thread c k).fwd with
    | some r, _, _ => .next (parkRelaxed (begin s c k 0) c k r)
    | none, .butty _, f :: _ => exec f.ins (beginButty s c k f)
    | none, .draining _, f :: _ => exec f.ins (beginButty s c k f)
    | none, .butty _, [] => .next s
    | none, .draining _, [] => .next s
    | none, _, _ =>
      match fetch s c k with
      | .ins w l0 l1 => runWord (begin (rejoin s c k) c k w) w l0 l1
      | .absent _ => .next s
      | .beyond _ => .next s

/-- A helm hart's turn: the word at its pc, one of custom-0 (10 R210) or a standard one (19 R299). -/
def hartStep (s : State) (h : Fin 32) : Host.Outcome State Fault Refusal :=
  match helmFetch s h with
  | .idle => .next s
  | .fault s => .next s
  | .word w s =>
    match decodeHelm w with
    | .ok i => exec i s
    | .error .notCustom0 =>
      if isCustom0 w then .next (s.exception causeIllegal (w.setWidth 64))
      else .next (s.standardWord w)
    | .error _ => .next (s.exception causeIllegal (w.setWidth 64))

/-- A Sweiq engine's turn: up to 16 worklist entries, then one bytecode (10 R211). -/
def swqStep (s : State) (h : Fin 32) : Host.Outcome State Fault Refusal :=
  match swqFetch s h with
  | .idle => .next s
  | .fault s => .next s
  | .bytes op bs s =>
    match decodeBytes bs with
    | .ok i => exec i s
    | .error _ => exec (.unknownOpcode op) s

/-- What an act does. -/
def actStep (p : Act × State) : Host.Outcome State Fault Refusal :=
  match p with
  | (.issue c k, s) => mapNext (issueStep s c k) fun t => t.afterIssue c k (s.thread c k).midway
  | (.hart h, s) => hartStep s h
  | (.swq h, s) => swqStep s h
  | (.event i, s) => if isEvent i then exec i s else .next s
  | (.tick, s) => .next (if cycleOver s then newCycle (tickClock s) else s)

end Sys2Proof.Machine
end

