-- ==== Sys2Proof/Machine/Step.lean ====
section
/-! DEFINITION. One step: the next act of the agenda, run. -/

namespace Sys2Proof.Machine

open Sys2Proof

/-- One step: the next act, and what follows it in the tows. -/
def step (s : State) : Host.Outcome State Fault Refusal :=
  if !s.power then .fault .powerRemoved else mapNext (actStep (nextAct s)) settleTows

/-- s with an instruction of the opcode table stored where the next step fetches (log entry 2). -/
def State.withFetchWord (s : State) (nbits w : Nat) : State :=
  match readerOf nbits w with
  | .core => placeCore s (tableBytes nbits w)
  | .helm => placeHelm s (tableBytes nbits w)
  | .swq => placeSwq s (tableBytes nbits w)

end Sys2Proof.Machine
end

