-- ==== Sys2Proof/Safety.lean ====
section
/-! DEFINITION. The terms in which claims are stated: when an instruction executes, what its operands are, exact results at a width, what a
step leaves unchanged, and the invariant of a safe run. -/

namespace Sys2Proof.Machine

open Sys2Proof

-- Kinds of instructions ---------------------------------------------------------------------------------------------------

/-- A helm custom word (10 R210). -/
def isHelm : Instr → Bool
  | .swqRun .. | .swqIcw .. | .swqIcinv _ | .swqGen .. | .swqPost .. | .swqHold .. => true
  | _ => false

/-- A compute instruction (02). -/
def isCompute (i : Instr) : Bool := headWord i != 0 && !isHelm i

/-- A Sweiq bytecode (10 R213). -/
def isBytecode (i : Instr) : Bool := !(encodeBytes i).isEmpty

/-- The instructions of majors 0x01 to 0x07 but wrs (04). -/
def isScalar : Instr → Bool
  | .add .. | .sub .. | .minI .. | .maxI .. | .minN .. | .maxN .. | .and .. | .or .. | .xor .. | .andn .. | .shl .. | .shrN ..
  | .shrI .. | .rot .. | .cmp .. | .sel .. | .mul .. | .mulhI .. | .mulhN .. | .divI .. | .divN .. | .remI .. | .remN .. | .clz ..
  | .ctz .. | .popc .. | .extI .. | .extN .. | .ins .. | .lea .. | .mov .. | .rds .. => true
  | _ => false

/-- Majors 0x10 to 0x17 (05). -/
def isMemory : Instr → Bool
  | .ld .. | .st .. | .vld .. | .vst .. | .amo .. | .bop .. | .fenceRx | .fenceSc _ | .sgnarrow .. | .sgrd .. => true
  | _ => false

/-- The vector register that an instruction of majors 0x18 to 0x20 writes (06). -/
def vecDst : Instr → Option (Fin 16)
  | .vadd _ d _ _ _ | .vsub _ d _ _ _ | .vmul _ d _ _ _ | .vmax _ d _ _ _ | .vmin _ d _ _ _ | .vdiv _ d _ _ _ => some d
  | .vfma _ d _ _ _ _ | .vfms _ d _ _ _ _ => some d
  | .vabs _ d _ _ | .vneg _ d _ _ | .vrcp _ d _ _ | .vrsq _ d _ _ | .vexp2 _ d _ _ | .vlog2 _ d _ _ => some d
  | .viadd _ d _ _ _ _ | .visub _ d _ _ _ _ => some d
  | .vimul _ d _ _ _ | .vimax _ d _ _ _ | .vimin _ d _ _ _ | .vshl _ d _ _ _ | .vshrN _ d _ _ _ | .vshrI _ d _ _ _ => some d
  | .vand d _ _ _ | .vor d _ _ _ | .vxor d _ _ _ => some d
  | .vsel _ d _ _ _ | .vcvt _ _ d _ _ _ _ | .vpermB d _ _ _ | .vshuf d _ _ _ _ | .vsplat _ d _ _ | .vinsr _ _ d _ => some d
  | .vredAdd _ d _ _ | .vredMax _ d _ _ | .vredMin _ d _ _ | .vdot4 d _ _ _ _ => some d
  | _ => none

/-- The mask register that an instruction writes (06 R118, R128). -/
def maskDst : Instr → Option (Fin 4)
  | .vcmp _ _ d _ _ _ | .mset d _ | .mand d _ _ | .mor d _ _ | .mnot d _ | .mmov d _ => some d
  | _ => none

/-- Majors 0x18 to 0x21 (06). -/
def isVector (i : Instr) : Bool :=
  (vecDst i).isSome || (maskDst i).isSome || (match i with
    | .vextr .. => true
    | _ => false)

/-- Instructions of majors 0x28 to 0x31 that act on their own thread and its queues, ports, groups and records (08, 09). -/
def isSystem : Instr → Bool
  | .spawn .. | .postCnt _ | .postCntSolo _ | .postWake _ | .postWakeSolo _ | .postUpd .. | .msg .. | .join .. | .leave .. | .bar _
  | .qcfg .. | .qeos _ | .push .. | .pop .. | .poll .. | .alloc .. | .free .. | .bellh .. | .bret | .sys .. | .trap _ | .rdcap .. => true
  | _ => false

/-- Majors 0x24 to 0x27 (07). -/
def isWeir : Instr → Bool
  | .wld .. | .wrun .. | .wrunO .. | .wrunC .. | .waccS .. | .waccU .. | .waccD .. | .waccP .. | .wstat .. | .wclr => true
  | _ => false

/-- Majors 0x08 to 0x0D (04). -/
def isControl : Instr → Bool
  | .b _ | .br .. | .bz .. | .bnz .. | .jmp _ | .call _ | .callr _ | .ret | .endT | .yield | .wait _ | .alarm _ => true
  | _ => false

/-- The instructions that only slot 0 may execute (02 R46, 09). -/
def isKeeperOnly : Instr → Bool
  | .kpark _ | .kresume _ | .kkill _ | .ksave _ | .kload _ | .sgset .. | .sgsetK .. | .ctuinv .. | .kret .. | .kfence | .kpost _
  | .kcfg .. => true
  | _ => false

-- When an instruction executes, and on what -------------------------------------------------------------------------------

/-- Nothing stops an instruction before it reads its operands: no relaxed access holds it, and its queue and port operands are ready (05
R102; 08 R174; 09 R176). -/
def Ready (s : State) (i : Instr) : Prop := gate s i = .go

/-- The value of a first source, and the state after it is read (02 R35). -/
def val1 (s : State) (a : Src) : Word := (s.read a).1
def after1 (s : State) (a : Src) : State := (s.read a).2
/-- The value of a second source, read after the first. -/
def val2 (s : State) (a b : Src) : Word := val1 (after1 s a) b
def after2 (s : State) (a b : Src) : State := after1 (after1 s a) b
/-- The value of a third source, read after the second. -/
def val3 (s : State) (a b c : Src) : Word := val1 (after2 s a b) c
def after3 (s : State) (a b c : Src) : State := after1 (after2 s a b) c

/-- An operand that is a register or a literal: reading or writing it touches nothing else (02 R33). -/
def plainSrc (a : Src) : Bool := !a.isQE
def plainDst (d : Dst) : Bool := !d.isQE

/-- A register as a destination. -/
def Thread.putReg (t : Thread) (d : Dst) (v : Word) : Thread :=
  match d with
  | .g i => t.setG i v
  | .w i => t.setW i v
  | _ => t

/-- A register or literal as a source. -/
def Thread.reg (t : Thread) (a : Src) : Word :=
  match a with
  | .g i => t.g.get i
  | .w i => t.w.get i
  | .lit32 v => v.signExtend 64
  | .lit64 v => v
  | .small v => v.setWidth 64
  | _ => 0

-- Exact results at a width (04 R76, R77) -------------------------------------------------------------------------------------

/-- An integer cut to n bits and sign-extended. -/
def cutS (n : Nat) (z : Int) : Word := sext64 n (BitVec.ofInt 64 z)
/-- An integer cut to n bits and zero-extended. -/
def cutZ (n : Nat) (z : Int) : Word := zext64 n (BitVec.ofInt 64 z)
/-- S(v) and U(v) at a width. -/
def sOf (w : Width) (v : Word) : Int := signedOf (Width.bits w) v
def uOf (w : Width) (v : Word) : Nat := unsignedOf (Width.bits w) v

/-- What a condition says of two values at a width (04 R80). -/
def ConditionHolds (cc : Cond) (w : Width) (x y : Word) : Prop :=
  match cc with
  | .eq => uOf w x = uOf w y
  | .ne => uOf w x ≠ uOf w y
  | .ltI => sOf w x < sOf w y
  | .geI => sOf w y ≤ sOf w x
  | .ltN => uOf w x < uOf w y
  | .geN => uOf w y ≤ uOf w x

-- Safe runs ---------------------------------------------------------------------------------------------------------------------------

/-- The invariant of every run: memory is in its canonical form. -/
def Inv (s : State) : Prop := Memory.wf s.mem = true

-- What a step leaves unchanged ------------------------------------------------------------------------------------------------

/-- What software can see of a thread beside its pc, and its g, w, v, m and sg registers. -/
structure Special where
  older : List (List Word)
  depth : Nat
  wsp : Half
  fa : Half
  fw : Half
  fo : Half
  fsc : Word
  tag : Half
  inst : W32
  ev : Word
  wb : Half
  bh : Word
  bid : W32
  bpc : Word
  alarm : Word
  deriving DecidableEq

def Thread.special (t : Thread) : Special :=
  { older := t.older, depth := t.depth, wsp := t.wsp, fa := t.fa, fw := t.fw, fo := t.fo, fsc := t.fsc, tag := t.tag, inst := t.inst,
    ev := t.ev, wb := t.wb, bh := t.bh, bid := t.bid, bpc := t.bpc, alarm := t.alarm }

/-- Every register of a thread, its pc included. -/
def Thread.sameRegs (t u : Thread) : Prop :=
  u.g = t.g ∧ u.w = t.w ∧ u.v = t.v ∧ u.m = t.m ∧ u.sg = t.sg ∧ u.pc = t.pc ∧ u.special = t.special

/-- Every thread but the one that executes keeps its registers. -/
def OthersKeep (s t : State) : Prop :=
  ∀ c k, (c, k) ≠ (s.core, s.slot) → (s.thread c k).sameRegs (t.thread c k)

/-- Every byte of memory reads as before: local stores, weight buffers, Basins and physical memory. -/
def MemoryKeeps (s t : State) : Prop := ∀ a, Memory.get t.mem a = Memory.get s.mem a

/-- Every byte of memory outside n bytes from a key up reads as before. -/
def MemoryKeepsOutside (s t : State) (key n : Nat) : Prop :=
  ∀ a, a < key ∨ key + n ≤ a → Memory.get t.mem a = Memory.get s.mem a

/-- The parts of the device that no compute instruction of a thread writes: the helm side, the lockhouse, the wharf but for records on their
way to other devices, time and power. -/
def DeviceKeeps (s t : State) : Prop :=
  t.harts = s.harts ∧ t.lock = s.lock ∧ t.helmCache = s.helmCache ∧ t.clk = s.clk ∧ t.mtime = s.mtime ∧ t.power = s.power ∧
    t.wharf.launches = s.wharf.launches ∧ t.wharf.routing = s.wharf.routing ∧ t.wharf.jHead = s.wharf.jHead

/-- Whether an instruction may submit a command to the collective engine, which journals it as it accepts it (09 R176; 21 R322). -/
def mayCollect (i : Instr) : Bool :=
  instrDst i == some (.e 2) || (match i with
    | .push p _ => p == 2
    | _ => false)

/-- A byte lies in a line of the journal entry that is written next. -/
def InEntry (s : State) (a : Nat) : Prop :=
  let key := s.wharf.jBase.toNat + 64 * (s.wharf.jHead.toNat % 2 ^ 20)
  key / 64 ≤ a / 64 ∧ a / 64 ≤ (key + 63) / 64

/-- Memory keeps every byte, but for a journal entry where the instruction may submit a collective command. -/
def MemoryKeepsBy (s t : State) (i : Instr) : Prop :=
  if mayCollect i then Inv s → ∀ a, ¬ InEntry s a → Memory.get t.mem a = Memory.get s.mem a else MemoryKeeps s t

/-- So do the parts of the device that no compute instruction writes: the entry moves the journal's head and may fire source 66 (21 R324). -/
def DeviceKeepsBy (s t : State) (i : Instr) : Prop :=
  if mayCollect i then
    (t.wharf.jHead = s.wharf.jHead ∨ t.wharf.jHead = s.wharf.jHead + 1) ∧ DeviceKeeps s { t with harts := s.harts, wharf := { t.wharf with jHead := s.wharf.jHead } }
  else DeviceKeeps s t

/-- The bytes that a store or an atomic through a kind 0 segment is made to as it executes: the key of the first and how many, by the check
that its meaning makes (05 R97, R100-R104). -/
def storedAt (s : State) (i : Instr) : Option (Nat × Nat) :=
  let at' (u : State) (sg : Fin 8) (op : MemOp) (off : Word) (disp n : Nat) : Option (Nat × Nat) :=
    if (u.me.sg.get sg).kind = 0 then
      match checkAccess u (u.me.sg.get sg) op off disp with
      | .ok a => some (lsKey u.core a, n)
      | .error _ => none
    else none
  match i with
  | .st sz _ sg a o c => at' (after2 s a o) sg (.st sz) (val2 s a o) (c.toNat * sz.bytes) sz.bytes
  | .vst sz m _ sg _ o c => at' (after1 s o) sg (.vst sz m 0) (val1 s o) (c.toNat * sz.bytes) 64
  | .amo op wide sg d o c =>
    at' (after2 s d.asSrc o) sg (.amo op wide d) (val2 s d.asSrc o) (c.toNat * if wide then 8 else 4) (if wide then 8 else 4)
  | _ => none

/-- A vector's lanes are those read from a key on where the mask is set, and zero elsewhere (05 R103). -/
def LanesLoaded (s : State) (key : Nat) (sz : Size) (mask : Word) (v : Vec) : Prop :=
  ∀ i, i < 64 / sz.bytes → v.toNat / 2 ^ (8 * sz.bytes * i) % 2 ^ (8 * sz.bytes) =
    if bit mask i then bytesNat (rawRead s (key + sz.bytes * i) sz.bytes) else 0

/-- The 64 bytes from a key on are a vector's where the mask is set for their lane, and as before elsewhere; so is every byte outside (R103). -/
def LanesStored (s t : State) (key : Nat) (sz : Size) (mask : Word) (v : Vec) : Prop :=
  MemoryKeepsOutside s t key 64 ∧ ∀ j, j < 64 →
    Memory.get t.mem (key + j) = if bit mask (j / sz.bytes) then v.extractLsb' (8 * j) 8 else Memory.get s.mem (key + j)

/-- A vector's lanes are those read through a kind 3 segment from a device virtual address on where the mask is set, and zero elsewhere (05 R103). -/
def DvaLanesLoaded (s : State) (cl asid a : Nat) (sz : Size) (mask : Word) (v : Vec) : Prop :=
  ∀ i, i < 64 / sz.bytes → v.toNat / 2 ^ (8 * sz.bytes * i) % 2 ^ (8 * sz.bytes) =
    if bit mask i then bytesNat (dvaBytes s cl asid (a + sz.bytes * i) sz.bytes) else 0

/-- The lanes of a vector whose mask is set read back from a device virtual address on (05 R103). -/
def DvaLanesStored (t : State) (cl asid a : Nat) (sz : Size) (mask : Word) (v : Vec) : Prop :=
  ∀ i, i < 64 / sz.bytes → bit mask i = true →
    dvaBytes t cl asid (a + sz.bytes * i) sz.bytes = natBytes sz.bytes (v.toNat / 2 ^ (8 * sz.bytes * i))

/-- What an atomic writes: x is its operand, e the value that cas expects, on n bytes (05 R104). -/
def amoWrites (op : AmoOp) (n old x e : Nat) : Nat :=
  match op with
  | .add => (old + x) % 2 ^ (8 * n)
  | .and => old &&& x
  | .or => old ||| x
  | .xor => old ^^^ x
  | .minI => if sval (8 * n) old ≤ sval (8 * n) x then old else x
  | .maxI => if sval (8 * n) x ≤ sval (8 * n) old then old else x
  | .swap => x
  | .cas => if old = e then x else old

-- Records ---------------------------------------------------------------------------------------------------------------------------

/-- The record that a trap posts to the keeper of the thread's core (09 R189). -/
def trapRecord (s : State) (cause : Nat) (a b : Word) : Record :=
  mkRec (coreTa (coreAddress s s.core)) kK 0 s.me.tag 0 (trapPayload cause s.slot.val false s.iword s.me.pc a b)

/-- The thread that executes has taken a trap: it is Parked with its pc and registers as they were, and the trap record is on its way (01
R8, 09 R189). -/
def Trapped (s t : State) (cause : Nat) (a b : Word) : Prop :=
  t = (s.setMe { s.me with st := .parked { cause := cause }, dogDue := false }).post (senderThread s.core s.slot) (trapRecord s cause a b)

/-- A trap with info words that the spec does not state. -/
def TrappedOpen (s t : State) (cause : Nat) : Prop := ∃ s' a b, s' = { s with fresh := s'.fresh } ∧ Trapped s' t cause a b

/-- A record is put on its way, whichever device it is for. -/
def OnItsWay (t : State) (sender : Nat) (r : Record) : Prop :=
  (∃ f ∈ t.net, f.sender = sender ∧ f.r = r) ∨ (∃ p ∈ t.wharf.unacked, p.2 = r) ∨ (∃ p ∈ t.wharf.waiting, p.2 = r)

/-- A thread takes a trap for an instruction that it no longer executes: it is Parked, and the trap record that names the instruction's word
and address is on its way to its keeper (01 R8, 09 R189). -/
def TrapTaken (s t : State) (c : Nat) (k : Fin 16) (cause : Nat) (iword : W32) (pc a b : Word) : Prop :=
  (t.thread c k) = { s.thread c k with st := .parked { cause := cause }, dogDue := false } ∧
    OnItsWay t (senderThread c k)
      (mkRec (coreTa (coreAddress s c)) kK 0 (s.thread c k).tag 0 (trapPayload cause k.val false iword pc a b))

/-- The fault record of an access or fetch of a thread (13 R243). -/
def threadFault (s : State) (c : Nat) (k : Fin 16) (code access dva : Nat) : Record :=
  mkRec (coreTa (coreAddress s (pagerOf c))) kF 10 (s.thread c k).tag
    ((0 : BitVec 12) ++ BitVec.ofNat 16 (asidOf s (s.thread c k) k) ++ BitVec.ofNat 36 (dva / pageBytes))
    ([BitVec.ofNat 4 code ++ BitVec.ofNat 2 access ++ (0 : BitVec 2) ++ (1 : BitVec 4) ++ BitVec.ofNat 52 dva,
      (waiterField (taOf s c k) false 0 0).setWidth 64] ++ List.replicate 6 0)

/-- Nothing is due at a thread's next boundary: no watchdog trap, no failed relaxed access, no pre-emption (05 R102; 16 R274, R275, R278). -/
def Calm (s : State) (c : Nat) (k : Fin 16) : Prop :=
  (s.thread c k).dogDue = false ∧ (s.thread c k).parkDue = false ∧ failedRelaxed (s.thread c k) = none ∧
    graceOver s (s.thread c k).tag = false

/-- A thread that is Runnable, whatever it was. -/
def Thread.run (t : Thread) : Thread := { t with st := .runnable }

-- The Sweiq engine (10) ------------------------------------------------------------------------------------------------------------

/-- The engine of the hart that executes reads a word at an address, and nothing changes. -/
def Holds (s : State) (a v : Word) : Prop := swqLoad a s = .ok (v, s)

/-- A frame slot lies below its function's slot count. -/
def SlotBelow (s : State) (i : Nat) : Prop := ∃ n, slotCount s = .ok (n, s) ∧ i < n

/-- A slot of the current frame holds a value. -/
def SlotIs (s : State) (i : Half) (v : Word) : Prop := SlotBelow s i.toNat ∧ Holds s (frameSlot s.myHart.swq.frame i.toNat) v

/-- The engine may write a word at an address. -/
def Storable (s : State) (a : Word) : Prop := ∀ v, ∃ t, swqStore a v s = .ok ((), t)

/-- The engine has written a word. -/
def State.stored (s : State) (a v : Word) : State :=
  match swqStore a v s with
  | .ok (_, t) => t
  | .error _ => s

/-- A slot of the current frame may be written, and holds no object pointer, so that writing it releases nothing (10 R214). -/
def SlotPlain (s : State) (i : Half) : Prop :=
  (∃ v, SlotIs s i v ∧ vKind v ≠ .pointer) ∧ Storable s (frameSlot s.myHart.swq.frame i.toNat)

/-- A slot of the current frame has been written. -/
def State.wrote (s : State) (i : Half) (v : Word) : State := s.stored (frameSlot s.myHart.swq.frame i.toNat) v

/-- The engine is at a bytecode address. -/
def State.atCode (s : State) (a : Word) : State := s.setMyHart { s.myHart with swq := { s.myHart.swq with bpc := a } }

/-- The engine is behind a bytecode (10 R213). -/
def State.behind (s : State) (i : Instr) : State := s.atCode (s.myHart.swq.bpc + BitVec.ofNat 64 (encodeBytes i).length)

/-- The engine has left a bytecode with an exit: the hart is at swqh with a0 to a3 set, and no memory word has changed (10 R211, R212). -/
def Exited (s t : State) (cause : Nat) (site : Word) : Prop :=
  t.mem = s.mem ∧ t.helmCache = s.helmCache ∧ t.myHart.swq.running = false ∧ t.myHart.pc = s.myHart.swqh ∧
    t.myHart.getX 10 = BitVec.ofNat 64 cause ∧ t.myHart.getX 11 = site ∧ t.myHart.getX 12 = s.myHart.swq.frame ∧
    t.myHart.getX 13 = s.myHart.swq.bpc

/-- The absolute site of a bytecode's site operand (10 R208). -/
def SiteIs (s : State) (site : Half) (w : Word) : Prop :=
  ∃ info, fnInfo s = .ok (info, s) ∧ w = ((fld info 32 32 : W32) + site.setWidth 32).setWidth 64

/-- A way of a site holds two words (10 R206). -/
def WayIs (s : State) (w : Word) (k : Nat) (e0 e1 : Word) : Prop :=
  Holds s (wayAddr s (fld w 0 32) k) e0 ∧ Holds s (wayAddr s (fld w 0 32) k + 8) e1

/-- A way of a site does not fit an object: it is empty, or for another shape, or its cell's generation is not the way's (10 R205, R206). -/
def WayMisses (s : State) (w w0 : Word) (k : Nat) : Prop :=
  ∃ e0 e1, WayIs s w k e0 e1 ∧ (wayKind e0 = 0 ∨ wayShape e0 ≠ hdrShape w0 ∨
    (wayShape e0 = hdrShape w0 ∧ ∃ a g, cellAddr (wayShape e0) s = .ok (some a, s) ∧ swqLoad16 a s = .ok (g, s) ∧ (g ≠ wayGen e0 ∨ g = 0xFFFF)))

/-- The first way of a site that fits an object's shape holds an entry of a kind, with its cell's generation (10 R205, R206). -/
def WayHits (s : State) (w w0 : Word) (kind : Nat) (e1 : Word) : Prop :=
  ∃ k e0 a, k < 4 ∧ (∀ j, j < k → WayMisses s w w0 j) ∧ WayIs s w k e0 e1 ∧ wayKind e0 = kind ∧ wayShape e0 = hdrShape w0 ∧
    cellAddr (wayShape e0) s = .ok (some a, s) ∧ swqLoad16 a s = .ok (wayGen e0, s) ∧ wayGen e0 ≠ 0xFFFF

/-- The engine has written words from an address up. -/
def State.storedAll (s : State) (a : Word) : List Word → State
  | [] => s
  | v :: l => (s.stored a v).storedAll (a + 8) l

/-- The engine has written slots of a frame, from slot i on. -/
def State.storedSlots (s : State) (f : Word) : List Word → Nat → State
  | [], _ => s
  | v :: l, i => (s.stored (frameSlot f i) v).storedSlots f l (i + 1)

/-- The engine may write words from an address up, one after another. -/
def State.Writable (s : State) (a : Word) : List Word → Prop
  | [] => True
  | v :: l => Storable s a ∧ (s.stored a v).Writable (a + 8) l

/-- The engine takes the newest address that a pool of its die's allocator holds (17 R291; 20 R317). -/
def BlockTaken (s : State) (pool : Nat) (o : Word) (t : State) : Prop :=
  ∃ l p, (getPool s (swqDie s) pool).enabled = true ∧ (getPool s (swqDie s) pool).held = l ++ [p] ∧ p ≠ 0 ∧ o = BitVec.ofNat 64 p ∧
    t = setPool s (swqDie s) pool { getPool s (swqDie s) pool with held := l }

end Sys2Proof.Machine
end

