-- ==== Sys2Proof/Certificates/Slice0/Obligations.lean ====
section
/-! DEFINITION. The statements for the provers, one definition each, with the rules of spec/ that they formalise. -/

open Sys2Proof Sys2Proof.Machine

/-- The four words worked through in 02 (add with a small constant, add with a literal word, ld, br) decode to what they are named, and a
reserved operand code in the third place is refused; a custom word of 10 R210 and a bytecode of 10 R213 decode too. -/
def Claims.DecodeWords : Prop :=
  decode32 0x0402CCD4 0 0 = .ok (.add (.w 3) (.w 4) (.small 5) .x64) ∧
  decode32 0x0402CCB0 0x000186A0 0 = .ok (.add (.w 3) (.w 4) (.lit32 100000) .x64) ∧
  decode32 0x0402CCB8 0 0 = .error .reservedOperand ∧
  decode32 0x4288B304 0 0 = .ok (.ld .s32 true false 2 (.w 3) (.w 4) 4) ∧
  decode32 0x288D0BFD 0 0 = .ok (.br .ltI (.w 5) (.g 2) 0x3FD) ∧
  decodeHelm 0x0073028B = .ok (.swqRun 5 6 7) ∧
  decodeBytes [0x0C, 1, 2, 3] = .ok (.swqAdd false 1 2 3)

/-- Major codes 0x00, 0x0E, 0x0F, 0x22, 0x23 and 0x38 to 0x3F hold no instruction, whatever the other bits and words (02 R38). -/
def Claims.ReservedMajorsRefused : Prop :=
  ∀ (w l0 l1 : W32), (fld w 26 6).toNat ∈ [0x00, 0x0E, 0x0F, 0x22, 0x23] ∨ 0x38 ≤ (fld w 26 6).toNat →
    decode32 w l0 l1 = .error .reservedMajor

/-- Words written out from the spec decode to what they stand for; reserved major codes hold no instruction: the claims above. -/
def Obligations.DecodedWords : Prop := Claims.DecodeWords ∧ Claims.ReservedMajorsRefused

/-- Decoding the words of a well-formed compute instruction gives it back, whatever follows them (02 R32-R45). -/
def Obligations.EncodeDecodeCompute : Prop :=
  ∀ (i : Instr) (l0 l1 : W32), wellFormed i = true → isCompute i = true → (literals i).isPrefixOf [l0, l1] = true →
    decode32 (headWord i) l0 l1 = .ok i

/-- Decoding the bytes of a well-formed bytecode gives it back, whatever follows them (10 R213). -/
def Claims.EncodeDecodeBytecode : Prop :=
  ∀ (i : Instr) (rest : List Byte), wellFormed i = true → isBytecode i = true → decodeBytes (encodeBytes i ++ rest) = .ok i

/-- Decoding the word of a helm custom instruction gives it back (10 R210). -/
def Claims.EncodeDecodeHelm : Prop :=
  ∀ (i : Instr), isHelm i = true → decodeHelm (headWord i) = .ok i

/-- Decoding a well-formed bytecode and a helm custom word gives it back: the claims above. -/
def Obligations.EncodeDecodeHelmSide : Prop := Claims.EncodeDecodeBytecode ∧ Claims.EncodeDecodeHelm

/-- A step runs the instruction that its agent fetches, and then settles the threads in tow. A core that issues from a slot executes the decoded
word, once the barrel pointer has moved, unless the thread has a relaxed access that failed and is not inside an operation; a park or watchdog trap that is
due meets it behind that. A word that is no instruction traps. A motor forwards what it executes, unless a butty's buffer is full, which removes
it (log entry 29); a butty executes the first of its buffer. A hart executes a custom word, a standard word or takes the interrupt or fault that its fetch
met; an engine executes a bytecode; an event happens; and a cycle ends once every core has issued and done what falls into it (01 R22, R26, R27; 02
R46; 10 R211; log entries 1, 21). -/
def Claims.StepRunsDecoded : Prop :=
  (∀ (s : State) (c : Nat) (k : Fin 16) (l : List Act) (w l0 l1 : W32) (i : Instr),
    s.power = true → s.agenda = .issue c k :: l → issues { s with agenda := l } c k = true →
    ((s.thread c k).midway = true ∨ failedRelaxed (s.thread c k) = none) → (s.thread c k).tow = .none → fetch { s with agenda := l } c k = .ins w l0 l1 →
    decode32 w l0 l1 = .ok i →
    step s = mapNext (exec i (begin { s with agenda := l } c k w)) fun t => settleTows (t.afterIssue c k (s.thread c k).midway)) ∧
  (∀ (s : State) (c : Nat) (k : Fin 16) (l : List Act) (w l0 l1 : W32) (e : DecodeError),
    s.power = true → s.agenda = .issue c k :: l → issues { s with agenda := l } c k = true →
    ((s.thread c k).midway = true ∨ failedRelaxed (s.thread c k) = none) →
    ((s.thread c k).tow = .none ∨ ∃ gid a, (s.thread c k).tow = .motor gid a ∧ a ≠ (s.thread c k).pc) →
    fetch { s with agenda := l } c k = .ins w l0 l1 → decode32 w l0 l1 = .error e →
    step s = mapNext (exec (.reservedEncoding w) (begin { s with agenda := l } c k w)) fun t => settleTows (t.afterIssue c k (s.thread c k).midway)) ∧
  (∀ (s : State) (c : Nat) (k : Fin 16) (l : List Act) (w l0 l1 : W32) (i : Instr) (gid : Half) (a : Word),
    s.power = true → s.agenda = .issue c k :: l → issues { s with agenda := l } c k = true →
    ((s.thread c k).midway = true ∨ failedRelaxed (s.thread c k) = none) → (s.thread c k).tow = .motor gid a → a ≠ (s.thread c k).pc →
    fetch { s with agenda := l } c k = .ins w l0 l1 → decode32 w l0 l1 = .ok i →
    let b := begin { s with agenda := l } c k w
    step s = if buttyFull b gid then .next (settleTows ((b.remove .motor).afterIssue c k (s.thread c k).midway))
      else mapNext (exec i b) fun t => settleTows ((forward b t i gid).afterIssue c k (s.thread c k).midway)) ∧
  (∀ (s : State) (c : Nat) (k : Fin 16) (l : List Act) (gid : Half) (f : Forwarded) (r : List Forwarded),
    s.power = true → s.agenda = .issue c k :: l → issues { s with agenda := l } c k = true →
    ((s.thread c k).midway = true ∨ failedRelaxed (s.thread c k) = none) → ((s.thread c k).tow = .butty gid ∨ (s.thread c k).tow = .draining gid) → (s.thread c k).fwd = f :: r →
    step s = mapNext (exec f.ins (beginButty { s with agenda := l } c k f)) fun t => settleTows (t.afterIssue c k (s.thread c k).midway)) ∧
  (∀ (s t : State) (h : Fin 32) (l : List Act) (w : W32) (i : Instr),
    s.power = true → s.agenda = .hart h :: l → helmFetch { s with agenda := l } h = .word w t → decodeHelm w = .ok i →
    step s = mapNext (exec i t) settleTows) ∧
  (∀ (s t : State) (h : Fin 32) (l : List Act) (w : W32),
    s.power = true → s.agenda = .hart h :: l → helmFetch { s with agenda := l } h = .word w t → isCustom0 w = false →
    step s = .next (settleTows (t.standardWord w))) ∧
  (∀ (s t : State) (h : Fin 32) (l : List Act),
    s.power = true → s.agenda = .hart h :: l → helmFetch { s with agenda := l } h = .fault t → step s = .next (settleTows t)) ∧
  (∀ (s t : State) (h : Fin 32) (l : List Act) (op : Byte) (bs : List Byte) (i : Instr),
    s.power = true → s.agenda = .swq h :: l → swqFetch { s with agenda := l } h = .bytes op bs t → decodeBytes bs = .ok i →
    step s = mapNext (exec i t) settleTows) ∧
  (∀ (s : State) (l : List Act) (i : Instr), s.power = true → s.agenda = .event i :: l → isEvent i = true →
    step s = mapNext (exec i { s with agenda := l }) settleTows) ∧
  (∀ (s : State) (l : List Act), s.power = true → s.agenda = .tick :: l → cycleOver { s with agenda := l } = true →
    step s = .next (settleTows (newCycle (tickClock { s with agenda := l }))))

/-- In a cycle in which a core may issue, the barrel gives the cycle to the eligible slot that follows the last one most closely, and to no other; if that
thread has yielded and another slot is eligible, the next eligible one takes the cycle, and the yield is spent. Without an eligible slot nothing
issues (01 R22; 04 R92). -/
def Claims.SlotTurns : Prop :=
  ∀ (s : State) (c : Nat) (a : Fin 16),
    let far (j : Fin 16) : Nat := (j.val + 15 - (s.getCore c).last.val) % 16
    let open_ : Prop := present s c = true ∧ s.opens (issueShare s.lock.level) = true ∧ (s.getCore c).issuedAt ≠ s.clk + 1
    (open_ → eligible s c a = true → (∀ j, eligible s c j = true → far a ≤ far j) →
      ((s.thread c a).yielding = false ∨ ∀ j, eligible s c j = true → j = a) → (issues s c a = true ∧ ∀ j, issues s c j = true → j = a) ∧
        ∀ w, ((begin s c a w).thread c a).yielding = false) ∧
    (∀ b, open_ → eligible s c a = true → (∀ j, eligible s c j = true → far a ≤ far j) → (s.thread c a).yielding = true → b ≠ a →
      eligible s c b = true → (∀ j, eligible s c j = true → j ≠ a → far b ≤ far j) →
      (issues s c b = true ∧ ∀ j, issues s c j = true → j = b) ∧ ∀ w, ((begin s c b w).thread c a).yielding = false) ∧
    (¬ open_ ∨ (∀ j, eligible s c j = false) → ∀ j, issues s c j = false)

/-- A step runs the instruction that its agent fetches, and the barrel picks the slot: the claims above. -/
def Obligations.StepRunsDecoded : Prop := Claims.StepRunsDecoded ∧ Claims.SlotTurns

/-- A word that is no instruction traps: 0x02 for a keeper-only major from slots 1 to 15, 0x01 otherwise (02 R46). A byte that is no
bytecode stops the engine with cause 0x0B and site all ones (10 R213). -/
def Claims.NoInstructionTraps : Prop :=
  (∀ (s : State) (w : W32), ∃ t, exec (.reservedEncoding w) s = .next t ∧
    Trapped s t (if 0x32 ≤ (fld w 26 6).toNat ∧ (fld w 26 6).toNat ≤ 0x37 ∧ s.slot ≠ 0 then 0x02 else 0x01) 0 0) ∧
  (∀ (s : State) (op : Byte), ∃ t, exec (.unknownOpcode op) s = .next t ∧
    t.myHart.swq.running = false ∧ t.myHart.pc = s.myHart.swqh ∧ t.myHart.getX 10 = 0x0B ∧ t.myHart.getX 11 = 0xFFFFFFFF ∧ t.myHart.getX 12 = s.myHart.swq.frame ∧
      t.myHart.getX 13 = s.myHart.swq.bpc)

/-- No instruction and no event stops the machine: each answers a next state in every state (the one stop is that of a step once power is gone). -/
def Claims.NothingStops : Prop := ∀ (i : Instr) (s : State), ∃ t, exec i s = .next t

/-- While there is power every step answers a next state, whoever's turn it is and whatever word it finds. -/
def Claims.StepGoesOn : Prop := ∀ (s : State), s.power = true → ∃ t, step s = .next t

/-- Once power is removed, every step stops (21 R335). -/
def Claims.PowerRemovedStops : Prop :=
  (∀ (s : State), s.power = false → step s = .fault .powerRemoved) ∧
  (∀ (s : State) (die : Fin 5) (temp : Byte), 115 ≤ temp.toNat →
    ∃ t, exec (.thermalShutdown die temp) s = .next t ∧ t.power = false)

/-- Every instruction and event answers a next state; words that are no instruction trap or exit; a step stops once power is gone: the claims above. -/
def Obligations.NoInstructionStops : Prop := Claims.NoInstructionTraps ∧ Claims.NothingStops ∧ Claims.StepGoesOn ∧ Claims.PowerRemovedStops

/-- What a source operand gives, and what reading it changes: a register or a literal, the head of a queue (a value that waits for its
room enters behind), the oldest element of a port (02 R33; 08 R174; 09 R182). -/
def Claims.OperandReads : Prop :=
  ∀ (s : State),
    (∀ a, plainSrc a = true → s.read a = (s.me.reg a, s)) ∧
    (∀ q v l, (s.myCore.queue q).entries = v :: l → val1 s (.q q) = v ∧
      ((after1 s (.q q)).myCore.queue q).entries = l ++ (s.myCore.slots.toList.findSome? (Thread.pushing q)).toList) ∧
    (∀ q, (s.myCore.queue q).entries = [] → val1 s (.q q) = 0 ∧ ((after1 s (.q q)).myCore.queue q).entries = []) ∧
    (∀ p n v l, (s.me.ports.get p).elems = (n, v) :: l → val1 s (.e p) = v ∧ ((after1 s (.e p)).me.ports.get p).elems = l)

/-- An instruction whose operands are registers and literals is ready unless a relaxed access in flight holds it (05 R102). -/
def Claims.PlainOperandsReady : Prop :=
  ∀ (s : State) (i : Instr), (instrSrcs i).all plainSrc = true → (∀ d, instrDst i = some d → plainDst d = true) →
    s.me.relaxed = [] → Ready s i

/-- A mov from or to a queue or a port: a slot that is not the queue's consumer, or no declared producer, traps 0x0B with the queue's number;
an empty queue blocks its reader and a full one its writer, with the pc at the instruction; a port with no element traps 0x0C, or removes
the thread while one is due (08 R172, R174; 09 R182). -/
def Claims.QueueAndPortStops : Prop :=
  ∀ (s : State) (d : Dst) (a : Src) (w : Width) (q : Fin 8) (p : Fin 4), s.me.relaxed = [] →
    (((s.myCore.queue q).enabled = false ∨ (s.myCore.queue q).consumer ≠ s.slot) → plainDst d = true →
      ∃ t, exec (.mov d (.q q) w) s = .next t ∧ Trapped s t 0x0B (BitVec.ofNat 64 q.val) 0) ∧
    ((s.myCore.queue q).enabled = true → (s.myCore.queue q).consumer = s.slot → (s.myCore.queue q).entries = [] →
      (s.myCore.queue q).drained = false → plainDst d = true →
      exec (.mov d (.q q) w) s = .next (s.setMe { s.me with st := .blocked (.queueRead q), since := s.clk })) ∧
    (mayWrite (s.myCore.queue q) s.slot = false → plainSrc a = true →
      ∃ t, exec (.mov (.q q) a w) s = .next t ∧ Trapped s t 0x0B (BitVec.ofNat 64 q.val) 0) ∧
    (mayWrite (s.myCore.queue q) s.slot = true → 16 ≤ (s.myCore.queue q).entries.length → plainSrc a = true →
      exec (.mov (.q q) a w) s = .next (s.setMe { s.me with st := .blocked (.queueWrite q), since := s.clk })) ∧
    ((s.me.ports.get p).elems = [] → (s.me.ports.get p).out.any Outstanding.element = false → plainDst d = true →
      ∃ t, exec (.mov d (.e p) w) s = .next t ∧ Trapped s t 0x0C (BitVec.ofNat 64 p.val) 0) ∧
    ((s.me.ports.get p).elems = [] → (s.me.ports.get p).out.any Outstanding.element = true → plainDst d = true →
      exec (.mov d (.e p) w) s = .next (s.setMe { s.me with st := .removed (.pop p) }))

/-- Where a result goes: a register, the tail of a queue with room, the staging buffer of a port; then the pc is behind the instruction (02
R33, R35; 08 R174; 09 R176). -/
def Claims.ResultGoes : Prop :=
  ∀ (s : State) (i : Instr) (d : Dst) (v : Word),
    (plainDst d = true → s.result i d v = s.setMe ((s.me.putReg d v).performed (nextPc s.me (lengthOf i)))) ∧
    (∀ q, (s.myCore.queue q).entries.length < 16 →
      ((s.result i (.q q) v).myCore.queue q).entries = (s.myCore.queue q).entries ++ [v] ∧
        (s.result i (.q q) v).me.pc = nextPc s.me (lengthOf i)) ∧
    (∀ p, (s.me.ports.get p).staging.length < 7 →
      ((s.result i (.e p) v).me.ports.get p).staging = (s.me.ports.get p).staging ++ [v] ∧
        (s.result i (.e p) v).me.pc = nextPc s.me (lengthOf i))

/-- An ordinary memory instruction, a fence, a push, a call and the other instructions that wait for relaxed accesses are held while one is in
flight: the thread is Removed and nothing else changes, so that it issues again (05 R102). -/
def Claims.RelaxedAccessHolds : Prop :=
  ∀ (s : State) (i : Instr) (f : State → State), s.me.relaxed ≠ [] → waitsRelaxed i = true →
    s.gated i f = s.setMe { s.me with st := .removed .held }

/-- What operands give, where results go, and when queue, port and relaxed-access conditions hold an instruction: the claims above. -/
def Obligations.OperandsAndResults : Prop := Claims.OperandReads ∧ Claims.PlainOperandsReady ∧ Claims.QueueAndPortStops ∧ Claims.ResultGoes ∧ Claims.RelaxedAccessHolds

/-- add, sub, mul and the high products are exact integer results cut to the width, and min and max choose an operand; signed results are
sign-extended and unsigned ones zero-extended (04 R77, R78, R81). -/
def Claims.ArithmeticResults : Prop :=
  ∀ (s : State) (d : Dst) (a b : Src) (w : Width),
    let x := val1 s a
    let y := val2 s a b
    let t := after2 s a b
    let n := Width.bits w
    (Ready s (.add d a b w) → exec (.add d a b w) s = .next (t.result (.add d a b w) d (cutS n (sOf w x + sOf w y)))) ∧
    (Ready s (.sub d a b w) → exec (.sub d a b w) s = .next (t.result (.sub d a b w) d (cutS n (sOf w x - sOf w y)))) ∧
    (Ready s (.mul d a b w) → exec (.mul d a b w) s = .next (t.result (.mul d a b w) d (cutS n (sOf w x * sOf w y)))) ∧
    (Ready s (.mulhI d a b w) → exec (.mulhI d a b w) s = .next (t.result (.mulhI d a b w) d (cutS n (sOf w x * sOf w y / 2 ^ n)))) ∧
    (Ready s (.mulhN d a b w) → exec (.mulhN d a b w) s = .next (t.result (.mulhN d a b w) d (cutZ n (uOf w x * uOf w y / 2 ^ n)))) ∧
    (Ready s (.minI d a b w) → exec (.minI d a b w) s = .next (t.result (.minI d a b w) d (cutS n (min (sOf w x) (sOf w y))))) ∧
    (Ready s (.maxI d a b w) → exec (.maxI d a b w) s = .next (t.result (.maxI d a b w) d (cutS n (max (sOf w x) (sOf w y))))) ∧
    (Ready s (.minN d a b w) → exec (.minN d a b w) s = .next (t.result (.minN d a b w) d (cutZ n (min (uOf w x) (uOf w y) : Nat)))) ∧
    (Ready s (.maxN d a b w) → exec (.maxN d a b w) s = .next (t.result (.maxN d a b w) d (cutZ n (max (uOf w x) (uOf w y) : Nat))))

/-- Logic works bit by bit, and a shift or a rotation moves by the amount modulo the width: left and right shifts as multiplication and as
flooring division by a power of two (04 R79). -/
def Claims.LogicAndShiftResults : Prop :=
  ∀ (s : State) (d : Dst) (a b : Src) (w : Width),
    let x := val1 s a
    let y := val2 s a b
    let t := after2 s a b
    let n := Width.bits w
    let k := uOf w y % n
    (Ready s (.and d a b w) → exec (.and d a b w) s = .next (t.result (.and d a b w) d (cutS n ((x &&& y).toNat)))) ∧
    (Ready s (.or d a b w) → exec (.or d a b w) s = .next (t.result (.or d a b w) d (cutS n ((x ||| y).toNat)))) ∧
    (Ready s (.xor d a b w) → exec (.xor d a b w) s = .next (t.result (.xor d a b w) d (cutS n ((x ^^^ y).toNat)))) ∧
    (Ready s (.andn d a b w) → exec (.andn d a b w) s = .next (t.result (.andn d a b w) d (cutS n ((x &&& ~~~y).toNat)))) ∧
    (Ready s (.shl d a b w) → exec (.shl d a b w) s = .next (t.result (.shl d a b w) d (cutS n (uOf w x * 2 ^ k : Nat)))) ∧
    (Ready s (.shrN d a b w) → exec (.shrN d a b w) s = .next (t.result (.shrN d a b w) d (cutZ n (uOf w x / 2 ^ k : Nat)))) ∧
    (Ready s (.shrI d a b w) → exec (.shrI d a b w) s = .next (t.result (.shrI d a b w) d (cutS n (sOf w x / 2 ^ k)))) ∧
    (Ready s (.rot d a b w) →
      exec (.rot d a b w) s = .next (t.result (.rot d a b w) d (cutS n (uOf w x / 2 ^ k + uOf w x * 2 ^ (n - k) : Nat))))

/-- Arithmetic, logic and shifts give the exact result at the width: the claims above. -/
def Obligations.ArithmeticLogicShift : Prop := Claims.ArithmeticResults ∧ Claims.LogicAndShiftResults

/-- A comparison writes 1 or 0, and sel chooses its first source when its destination's old value is not zero (04 R80). -/
def Claims.CompareAndSelectResults : Prop :=
  ∀ (s : State) (d : Dst) (a b : Src) (w : Width),
    (∀ cc, Ready s (.cmp cc d a b w) → ∃ r : Bool,
      exec (.cmp cc d a b w) s = .next ((after2 s a b).result (.cmp cc d a b w) d (if r then 1 else 0)) ∧
      (r = true ↔ ConditionHolds cc w (val1 s a) (val2 s a b))) ∧
    (Ready s (.sel d a b w) →
      exec (.sel d a b w) s = .next ((after3 s d.asSrc a b).result (.sel d a b w) d
        (cutS (Width.bits w) (if uOf w (val1 s d.asSrc) ≠ 0 then (val2 s d.asSrc a).toNat else (val3 s d.asSrc a b).toNat))))

/-- Bit counts, bit fields, lea and mov (04 R84-R87): a field is cut at the width, and ins replaces it in its destination. -/
def Claims.BitAndFieldResults : Prop :=
  ∀ (s : State) (d : Dst) (a b : Src) (w : Width),
    let n := Width.bits w
    let x := val1 s a
    let c := val2 s a b
    let p := (fld c 0 6 : BitVec 6).toNat
    let l := min (fld c 8 7 : BitVec 7).toNat (n - p)
    (Ready s (.clz d a w) → ∃ z, exec (.clz d a w) s = .next ((after1 s a).result (.clz d a w) d (BitVec.ofNat 64 z)) ∧ z ≤ n ∧
      (∀ j, n - z ≤ j → j < n → x.toNat.testBit j = false) ∧ (z < n → x.toNat.testBit (n - 1 - z) = true)) ∧
    (Ready s (.ctz d a w) → ∃ z, exec (.ctz d a w) s = .next ((after1 s a).result (.ctz d a w) d (BitVec.ofNat 64 z)) ∧ z ≤ n ∧
      (∀ j, j < z → x.toNat.testBit j = false) ∧ (z < n → x.toNat.testBit z = true)) ∧
    (Ready s (.popc d a w) → exec (.popc d a w) s = .next ((after1 s a).result (.popc d a w) d
      (BitVec.ofNat 64 ((List.range n).countP fun j => x.toNat.testBit j)))) ∧
    (Ready s (.extN d a b w) → exec (.extN d a b w) s = .next ((after2 s a b).result (.extN d a b w) d
      (BitVec.ofNat 64 (x.toNat / 2 ^ p % 2 ^ l)))) ∧
    (Ready s (.extI d a b w) → exec (.extI d a b w) s = .next ((after2 s a b).result (.extI d a b w) d
      (BitVec.ofInt 64 (if l = 0 then 0 else sval l (x.toNat / 2 ^ p))))) ∧
    (Ready s (.ins d a b w) → ∃ v, exec (.ins d a b w) s = .next ((after3 s d.asSrc a b).result (.ins d a b w) d (cutS n v)) ∧
      let p' := (fld (val3 s d.asSrc a b) 0 6 : BitVec 6).toNat
      let l' := min (fld (val3 s d.asSrc a b) 8 7 : BitVec 7).toNat (n - p')
      ∀ j, j < n → (BitVec.ofInt 64 v).getLsbD j =
        (if p' ≤ j ∧ j < p' + l' then (val2 s d.asSrc a).getLsbD (j - p') else (val1 s d.asSrc).getLsbD j)) ∧
    (∀ sc, Ready s (.lea sc d a b w) → exec (.lea sc d a b w) s = .next ((after2 s a b).result (.lea sc d a b w) d
      (cutZ n (uOf w x + uOf w c * 2 ^ sc.toNat : Nat)))) ∧
    (Ready s (.mov d a w) → exec (.mov d a w) s = .next ((after1 s a).result (.mov d a w) d (cutS n (sOf w x))))

/-- A divide takes the divider for 2 + w/2 cycles once it is free, its thread Removed and its pc moved; when they are over it writes the
quotient toward zero or the remainder with the dividend's sign, and by zero all ones or the dividend, and the thread may issue from the next cycle on
(04 R82, R83). -/
def Claims.DivideResults : Prop :=
  (∀ (s : State) (d : Dst) (a b : Src) (w : Width),
    let n := Width.bits w
    let x := val1 s a
    let y := val2 s a b
    let done (i : Instr) (v : Word) (t : State) : Prop :=
      t.me.st = .removed (.divide d v (max (after2 s a b).myCore.divideFree (after2 s a b).clk + 2 + n / 2)) ∧
        t.me.pc = nextPc (after2 s a b).me (lengthOf i) ∧
        t.myCore.divideFree = max (after2 s a b).myCore.divideFree (after2 s a b).clk + 2 + n / 2
    (Ready s (.divI d a b w) → ∃ t, exec (.divI d a b w) s = .next t ∧
      done (.divI d a b w) (cutS n (if uOf w y = 0 then -1 else (sOf w x).tdiv (sOf w y))) t) ∧
    (Ready s (.remI d a b w) → ∃ t, exec (.remI d a b w) s = .next t ∧
      done (.remI d a b w) (cutS n (if uOf w y = 0 then sOf w x else (sOf w x).tmod (sOf w y))) t) ∧
    (Ready s (.divN d a b w) → ∃ t, exec (.divN d a b w) s = .next t ∧
      done (.divN d a b w) (cutZ n (if uOf w y = 0 then -1 else (uOf w x / uOf w y : Nat))) t) ∧
    (Ready s (.remN d a b w) → ∃ t, exec (.remN d a b w) s = .next t ∧
      done (.remN d a b w) (cutZ n (if uOf w y = 0 then (uOf w x : Int) else (uOf w x % uOf w y : Nat))) t)) ∧
  (∀ (s : State) (c : Nat) (k : Fin 16) (d : Dst) (v : Word) (n : Nat), (s.thread c k).st = .removed (.divide d v n) → n ≤ s.clk →
    plainDst d = true →
    exec (.divideComplete c k) s =
      .next ((State.setMe { s.as c k with iword := (s.thread c k).issuedWord } ({ s.thread c k with st := .runnable, nextIssue := max (s.thread c k).nextIssue (s.clk + 1) }.putReg d v)).settleDone))

/-- Comparison, selection, bit counts, fields, lea, mov and division: the claims above. -/
def Obligations.CompareFieldsDivide : Prop := Claims.CompareAndSelectResults ∧ Claims.BitAndFieldResults ∧ Claims.DivideResults

/-- rds reads a special register's value: among them the thread's TA, tag and event latch, the cycle counter, the weir's status
and the queues', each with its fields; kwd shows the slots whose bit the timeout set and that are still blocked in wait or bar. Slots 1 to 15
may not name the keeper's. wrs writes wb, bh and bpc, clears event bits that are one in its operand but not those that a wake
sets in the same cycle, and for the keeper selects a slot, sets the save areas and the level, and sets the pc of a Parked slot (01 R8, R15; 04
R88; 07 R143; 08 R172; 09 R196). -/
def Obligations.SpecialRegisters : Prop :=
  (∀ (s : State) (d : Dst) (r : SReg), (r.keeperOnly = false ∨ s.slot = 0) → Ready s (.rds d r) →
    exec (.rds d r) s = .next (s.result (.rds d r) d (readSpecial s r))) ∧
  (∀ (s : State), readSpecial s .tid = (taOf s s.core s.slot).setWidth 64 ∧ readSpecial s .tag = s.me.tag.setWidth 64 ∧
    readSpecial s .inst = s.me.inst.setWidth 64 ∧ readSpecial s .clk = BitVec.ofNat 64 s.clk ∧ readSpecial s .ev = s.me.ev ∧
    readSpecial s .wb = s.me.wb.setWidth 64 ∧ readSpecial s .bh = s.me.bh ∧ readSpecial s .bid = s.me.bid.setWidth 64 ∧
    readSpecial s .bpc = s.me.bpc ∧ readSpecial s .wsp = s.me.wsp.setWidth 64 ∧ readSpecial s .fa = s.me.fa.setWidth 64 ∧
    readSpecial s .fw = s.me.fw.setWidth 64 ∧ readSpecial s .fo = s.me.fo.setWidth 64 ∧ readSpecial s .fsc = s.me.fsc ∧
    readSpecial s .kca = s.myCore.kca.setWidth 64 ∧ readSpecial s .ksl = s.myCore.ksl.setWidth 64 ∧
    readSpecial s .lvl = s.myCore.lvl.setWidth 64 ∧ readSpecial s .kpc = (s.myCore.slots.get s.myCore.selected).pc) ∧
  (∀ (s : State), let w := readSpecial s .wst
    (fld w 32 32 : W32) = s.myCore.weir.data.row ∧ (fld w 24 8 : Byte) = 0 ∧ (fld w 20 4 : BitVec 4) = s.myCore.weir.data.reason ∧
    (fld w 16 4 : BitVec 4) = s.myCore.weir.data.slot ∧ bit w 15 = s.myCore.weir.owner.isSome ∧ bit w 14 = s.myCore.weir.held ∧
    (∀ k : Fin 16, s.myCore.weir.owner = some k → (fld w 8 4 : BitVec 4) = BitVec.ofNat 4 k.val) ∧ (fld w 12 2 : BitVec 2) = 0 ∧
    (fld w 5 3 : BitVec 3) = 0 ∧ (fld w 0 5 : BitVec 5) = s.myCore.weir.data.sticky) ∧
  (∀ (s : State) (q : Fin 8), let w := readSpecial s .qst
    (fld w (8 * q.val + 3) 5 : BitVec 5) = BitVec.ofNat 5 (s.myCore.queue q).entries.length ∧
    bit w (8 * q.val + 2) = (s.myCore.queue q).drained ∧ bit w (8 * q.val + 1) = (s.myCore.queue q).eos ∧
    bit w (8 * q.val) = (s.myCore.queue q).enabled) ∧
  (∀ (s : State) (i : Nat), bit (readSpecial s .kwd) i =
    (decide (i < 16) && bit s.myCore.kwd i && blockedLong (s.myCore.slots.get (Fin.ofNat 16 i)) &&
      decide ((s.myCore.slots.get (Fin.ofNat 16 i)).since + 4096 < s.clk))) ∧
  (∀ (s : State) (r : SReg) (a : Src), (r.keeperOnly = false ∨ s.slot = 0) → Ready s (.wrs r a) →
    exec (.wrs r a) s = .next ((writeSpecial (after1 s a) r (val1 s a)).advance (.wrs r a))) ∧
  (∀ (s : State) (v : Word), writeSpecial s .wb v = s.setMe { s.me with wb := fld v 0 16 } ∧
    writeSpecial s .bh v = s.setMe { s.me with bh := v } ∧ writeSpecial s .bpc v = s.setMe { s.me with bpc := v } ∧
    writeSpecial s .ev v = s.setMe { s.me with ev := (s.me.ev &&& ~~~v) ||| (if s.me.wokeAt = s.clk + 1 then s.me.woke else 0) } ∧
    writeSpecial s .kca v = s.setMyCore { s.myCore with kca := fld v 0 18 } ∧
    writeSpecial s .ksl v = s.setMyCore { s.myCore with ksl := fld v 0 4 } ∧
    writeSpecial s .lvl v = s.setMyCore { s.myCore with lvl := lvlWritten (fld v 0 32) }) ∧
  (∀ (s : State) (v : Word) (k : Fin 16), s.myCore.selected = k →
    (∀ p, (s.myCore.slots.get k).st = .parked p →
      writeSpecial s .kpc v = s.setThread s.core k { s.myCore.slots.get k with pc := v }) ∧
    ((∀ p, (s.myCore.slots.get k).st ≠ .parked p) → writeSpecial s .kpc v = s)) ∧
  (∀ v : W32, lvlWritten v = (if v.toNat = 0 then 0 else if v.toNat < 256 then 256 else if 65535 < v.toNat then 65535 else v)) ∧
  (∀ (s : State) (d : Dst) (r : SReg) (a : Src), r.keeperOnly = true → s.slot ≠ 0 →
    (∃ t, exec (.rds d r) s = .next t ∧ Trapped s t 0x02 0 0) ∧ (∃ t, exec (.wrs r a) s = .next t ∧ Trapped s t 0x02 0 0))

/-- The instructions of majors 0x01 to 0x07 but wrs: whatever forms their operands have, no byte of memory changes (but the journal entry of a collective
command that a port destination submits), no other thread's
registers, nothing of the helm side, the lockhouse or time, no vector, mask, segment or special register of the thread, and of its general
registers none but the destination. -/
def Claims.ScalarFrame : Prop :=
  ∀ (s t : State) (i : Instr), isScalar i = true → exec i s = .next t →
    MemoryKeepsBy s t i ∧ OthersKeep s t ∧ DeviceKeepsBy s t i ∧
    t.me.v = s.me.v ∧ t.me.m = s.me.m ∧ t.me.sg = s.me.sg ∧ t.me.special = s.me.special ∧
    (∀ j, instrDst i ≠ some (.g j) → t.me.g.get j = s.me.g.get j) ∧ (∀ j, instrDst i ≠ some (.w j) → t.me.w.get j = s.me.w.get j)

/-- Majors 0x18 to 0x21: whether the instruction completes, waits or traps, no byte of memory changes (but the journal entry of
a collective command that a port destination submits), no other thread's registers, no general
register but the destination of vextr, no vector register but the one named as destination, no mask register but that of vcmp and the mask
instructions, no segment and no special register (06 R112, R129). -/
def Claims.VectorFrame : Prop :=
  ∀ (s t : State) (i : Instr), isVector i = true → exec i s = .next t →
    MemoryKeepsBy s t i ∧ OthersKeep s t ∧ DeviceKeepsBy s t i ∧ t.me.sg = s.me.sg ∧ t.me.special = s.me.special ∧
    (∀ j, instrDst i ≠ some (.g j) → t.me.g.get j = s.me.g.get j) ∧ (∀ j, instrDst i ≠ some (.w j) → t.me.w.get j = s.me.w.get j) ∧
    (∀ j, vecDst i ≠ some j → t.me.v.get j = s.me.v.get j) ∧ (∀ j, maskDst i ≠ some j → t.me.m.get j = s.me.m.get j)

/-- What scalar and vector instructions leave unchanged: the claims above. -/
def Obligations.ComputeFrames : Prop := Claims.ScalarFrame ∧ Claims.VectorFrame

/-- A branch goes to the word offset from its own word if it is taken, and to the next instruction otherwise; a jump to a misaligned address
traps 0x06 (04 R89; 02 R37). A branch's outcome is whether it is taken: a butty whose motor's
outcome was another casts off (01 R28). -/
def Claims.Branches : Prop :=
  (∀ (s : State) (off : BitVec 26), exec (.b off) s = .next (s.setMe (s.me.decided (s.me.pc + BitVec.ofInt 64 (4 * off.toInt)) true))) ∧
  (∀ (s : State) (cc : Cond) (a b : Src) (off : BitVec 10), Ready s (.br cc a b off) → ∃ t, exec (.br cc a b off) s = .next t ∧
    (ConditionHolds cc .x64 (val1 s a) (val2 s a b) → t = (after2 s a b).setMe
      ((after2 s a b).me.decided ((after2 s a b).me.pc + BitVec.ofInt 64 (4 * off.toInt)) true)) ∧
    (¬ ConditionHolds cc .x64 (val1 s a) (val2 s a b) →
      t = (after2 s a b).setMe ((after2 s a b).me.decided (nextPc (after2 s a b).me (lengthOf (.br cc a b off))) false))) ∧
  (∀ (s : State) (a : Src) (off : BitVec 10), Ready s (.bz a off) →
    exec (.bz a off) s = .next ((after1 s a).setMe ((after1 s a).me.decided (if val1 s a = 0 then
      (after1 s a).me.pc + BitVec.ofInt 64 (4 * off.toInt) else nextPc (after1 s a).me (lengthOf (.bz a off))) (decide (val1 s a = 0))))) ∧
  (∀ (s : State) (a : Src) (off : BitVec 10), Ready s (.bnz a off) →
    exec (.bnz a off) s = .next ((after1 s a).setMe ((after1 s a).me.decided (if val1 s a ≠ 0 then
      (after1 s a).me.pc + BitVec.ofInt 64 (4 * off.toInt) else nextPc (after1 s a).me (lengthOf (.bnz a off))) (decide (val1 s a ≠ 0))))) ∧
  (∀ (t : Thread) (pc : Word) (taken : Bool) (f : Forwarded) (l : List Forwarded), t.isButty = true → t.fwd = f :: l →
    (t.decided pc taken).pc = pc ∧ ((t.decided pc taken).tow = .none ↔ f.taken ≠ taken)) ∧
  (∀ (s : State) (a : Src), Ready s (.jmp a) →
    ((val1 s a).toNat % 4 = 0 → exec (.jmp a) s = .next ((after1 s a).goTo (val1 s a))) ∧
    ((val1 s a).toNat % 4 ≠ 0 → ∃ t, exec (.jmp a) s = .next t ∧ TrappedOpen s t 0x06))

/-- A call with fewer than four windows on chip enters a new one: the link goes to the caller's w15, w16 to w23 become w0 to w7 and the others
are zero. A return to a window on chip restores it, with w0 to w7 as its w16 to w23, and goes to its w15; a return at depth 0 traps 0x09. A call
or return to a misaligned address traps 0x06, with every register and queue as it was (01 R13; 04 R90). -/
def Claims.CallsAndReturns : Prop :=
  (∀ (s : State) (i : Instr) (dest : Word) (u : State), s.me.older.length < 3 →
    ((∃ off, i = .call off ∧ Ready s i ∧ u = s ∧ dest = s.me.pc + BitVec.ofInt 64 (4 * off.toInt)) ∨
      (∃ a, i = .callr a ∧ Ready s i ∧ u = after1 s a ∧ dest = val1 s a ∧ dest.toNat % 4 = 0 ∧ u.me.older.length < 3)) →
    ∃ t, exec i s = .next t ∧ t.me.pc = dest ∧ t.me.depth = u.me.depth + 1 ∧
      (∀ j : Fin 24, t.me.w.get j = if h : j.val < 8 then u.me.w.get ⟨16 + j.val, by omega⟩ else 0) ∧
      t.me.older = ((u.me.setW 15 (nextPc u.me (lengthOf i))).w.toList.take 16) :: u.me.older ∧ t.me.g = u.me.g) ∧
  (∀ (s : State) (f : List Word) (l : List (List Word)), Ready s .ret → s.me.depth ≠ 0 → s.me.older = f :: l →
    (f.getD 15 0).toNat % 4 = 0 →
    ∃ t, exec .ret s = .next t ∧ t.me.pc = f.getD 15 0 ∧ t.me.depth = s.me.depth - 1 ∧ t.me.older = l ∧ t.me.g = s.me.g ∧
      (∀ j : Fin 24, t.me.w.get j = if h : j.val < 16 then f.getD j.val 0 else s.me.w.get ⟨j.val - 16, by omega⟩)) ∧
  (∀ (s : State), Ready s .ret → s.me.depth = 0 →
    ∃ t, exec .ret s = .next t ∧ Trapped s t 0x09 (s.me.wsp.setWidth 64) 0) ∧
  (∀ (s : State) (a : Src), Ready s (.callr a) → (val1 s a).toNat % 4 ≠ 0 → ∃ t, exec (.callr a) s = .next t ∧ TrappedOpen s t 0x06) ∧
  (∀ (s : State) (f : List Word) (l : List (List Word)), Ready s .ret → s.me.depth ≠ 0 → s.me.older = f :: l → (f.getD 15 0).toNat % 4 ≠ 0 →
    ∃ t, exec .ret s = .next t ∧ TrappedOpen s t 0x06)

/-- Branches, jumps, calls and returns: the claims above. -/
def Obligations.BranchesAndCalls : Prop := Claims.Branches ∧ Claims.CallsAndReturns

/-- With four windows on chip a call removes its thread while the oldest older window is spilled at wsp of sg1, and a return without one while
the frame below wsp is filled; on completion wsp has moved by 128, the spilled words stand in the local store, and the call or return is done.
A spill needs sg1 to be kind 0 with read and write rights and its frame to lie inside sg1 and the store, a fill read rights and a frame inside the
store; otherwise the call or return traps 0x09 with every register and queue as it was (01 R13, R14; 04 R90). -/
def Obligations.WindowSpillAndFill : Prop :=
  (∀ (s : State) (off : BitVec 26) (a : Nat), Ready s (.call off) → 3 ≤ s.me.older.length → s.me.spillAt = some a →
    exec (.call off) s = .next (s.setMe { s.me with
      st := .removed (.window (.spill (s.me.pc + BitVec.ofInt 64 (4 * off.toInt)) (s.me.pc + 4)) s.iword) })) ∧
  (∀ (s : State) (b : Src) (a : Nat), Ready s (.callr b) → 3 ≤ (after1 s b).me.older.length → (after1 s b).me.spillAt = some a →
    (val1 s b).toNat % 4 = 0 →
    exec (.callr b) s = .next ((after1 s b).setMe { (after1 s b).me with
      st := .removed (.window (.spill (val1 s b) (nextPc (after1 s b).me (lengthOf (.callr b)))) (after1 s b).iword) })) ∧
  (∀ (s : State) (off : BitVec 26), Ready s (.call off) → 3 ≤ s.me.older.length → s.me.spillAt = none →
    ∃ t, exec (.call off) s = .next t ∧ Trapped s t 0x09 (s.me.wsp.setWidth 64) (BitVec.ofNat 64 s.me.depth)) ∧
  (∀ (s : State) (b : Src), Ready s (.callr b) → 3 ≤ (after1 s b).me.older.length → (after1 s b).me.spillAt = none → (val1 s b).toNat % 4 = 0 →
    ∃ t, exec (.callr b) s = .next t ∧ Trapped s t 0x09 (s.me.wsp.setWidth 64) (BitVec.ofNat 64 s.me.depth)) ∧
  (∀ (s : State), Ready s .ret → s.me.depth ≠ 0 → s.me.older = [] → s.me.fillAt = none →
    ∃ t, exec .ret s = .next t ∧ Trapped s t 0x09 (s.me.wsp.setWidth 64) (BitVec.ofNat 64 s.me.depth)) ∧
  (∀ (t : Thread) (a : Nat), t.spillAt = some a ↔ a = (fld (t.sg.get 1).w0 0 18 : BitVec 18).toNat + t.wsp.toNat ∧ (t.sg.get 1).kind = 0 ∧
    bit (t.sg.get 1).rights 0 = true ∧ bit (t.sg.get 1).rights 1 = true ∧ t.wsp.toNat + 128 ≤ (t.sg.get 1).limit ∧ a + 128 ≤ localBytes) ∧
  (∀ (t : Thread) (a : Nat), t.fillAt = some a ↔ a = (fld (t.sg.get 1).w0 0 18 : BitVec 18).toNat + (t.wsp - 128).toNat ∧ (t.sg.get 1).kind = 0 ∧
    bit (t.sg.get 1).rights 0 = true ∧ a + 128 ≤ localBytes) ∧
  (∀ (s : State) (a : Nat), Ready s .ret → s.me.depth ≠ 0 → s.me.older = [] → s.me.fillAt = some a →
    exec .ret s = .next (s.setMe { s.me with st := .removed (.window .fill s.iword) })) ∧
  (∀ (s : State) (c : Nat) (k : Fin 16) (dest link : Word) (w : W32) (a : Nat),
    (s.thread c k).st = .removed (.window (.spill dest link) w) → (s.thread c k).spillAt = some a →
    (s.thread c k).older.getLast?.map List.length = some 16 → (s.thread c k).dogDue = false → (s.thread c k).parkDue = false →
    failedRelaxed (s.thread c k) = none → graceOver s (s.thread c k).tag = false → Inv s →
    ∃ t, exec (.windowSpillFillComplete c k) s = .next t ∧ (t.thread c k).pc = dest ∧ (t.thread c k).st = .runnable ∧
      (t.thread c k).wsp = (s.thread c k).wsp + 128 ∧ (t.thread c k).depth = (s.thread c k).depth + 1 ∧
      rawRead t (lsKey c a) 128 = wordsBytes ((s.thread c k).older.getLastD []) ∧ MemoryKeepsOutside s t (lsKey c a) 128) ∧
  (∀ (s : State) (c : Nat) (k : Fin 16) (w : W32) (a : Nat),
    (s.thread c k).st = .removed (.window .fill w) → (s.thread c k).fillAt = some a →
    ((frameWords s c a).getD 15 0).toNat % 4 = 0 → (s.thread c k).dogDue = false → (s.thread c k).parkDue = false →
    failedRelaxed (s.thread c k) = none → graceOver s (s.thread c k).tag = false →
    ∃ t, exec (.windowSpillFillComplete c k) s = .next t ∧ (t.thread c k).pc = (frameWords s c a).getD 15 0 ∧
      (t.thread c k).st = .runnable ∧ (t.thread c k).wsp = (s.thread c k).wsp - 128 ∧ MemoryKeeps s t ∧
      (∀ j : Fin 24, (t.thread c k).w.get j = if h : j.val < 16 then (frameWords s c a).getD j.val 0
        else (s.thread c k).w.get ⟨j.val - 16, by omega⟩))

/-- end removes its thread until it retires and is a yield in slot 0, where it dissolves a motor's tow (log entry 43); yield gives its next turn away; wait goes on at once if an awaited bit is
set and blocks otherwise, a zero operand awaiting any bit; alarm sets the alarm (04 R91-R94). -/
def Claims.ThreadControl : Prop :=
  (∀ (s : State), Ready s .endT → s.slot ≠ 0 → exec .endT s = .next (s.setMe { s.me with st := .removed .ending })) ∧
  (∀ (s : State), Ready s .endT → s.slot = 0 → s.me.st = .runnable → ∃ t, exec .endT s = .next t ∧ t.me.yielding = true ∧
    t.me.pc = s.me.pc + 4 ∧ t.me.st = .runnable ∧ (∀ gid a, s.me.tow = .motor gid a → t.me.tow = .none ∧ (t.group gid).tow = 2)) ∧
  (∀ (s : State), ∃ t, exec .yield s = .next t ∧ t.me.yielding = true ∧ t.me.pc = s.me.pc + 4 ∧ t.me.st = s.me.st) ∧
  (∀ (s : State) (a : Src), Ready s (.wait a) →
    let m := if val1 s a = 0 then BitVec.allOnes 64 else val1 s a
    ((after1 s a).me.ev &&& m ≠ 0 → exec (.wait a) s = .next ((after1 s a).goTo (nextPc (after1 s a).me (lengthOf (.wait a))))) ∧
    ((after1 s a).me.ev &&& m = 0 → exec (.wait a) s = .next ((after1 s a).setMe
      { (after1 s a).me with st := .blocked (.wait m (lengthOf (.wait a))), since := (after1 s a).clk }))) ∧
  (∀ (s : State) (a : Src), Ready s (.alarm a) → ∃ t, exec (.alarm a) s = .next t ∧ t.me.alarm = val1 s a ∧
    t.me.pc = nextPc (after1 s a).me (lengthOf (.alarm a)))

/-- An alarm that has come, from the cycle after its issue on, is cleared and posts a wake of bit 63 to its own slot; a slot that stays Blocked in wait or bar for more than 4,096
cycles shows in kwd; a thread whose end and relaxed accesses are over retires: its slot is Empty, free from the next cycle on, and one retired task is counted (04 R91, R94;
01 R9, R15; 16 R269). -/
def Claims.AlarmTimeoutAndRetirement : Prop :=
  (∀ (s : State) (c : Nat) (k : Fin 16), (s.thread c k).st ≠ .empty → (s.thread c k).alarm ≠ 0 → (s.thread c k).alarm.toNat ≤ s.clk →
    (s.thread c k).alarmFrom ≤ s.clk →
    ∃ t, exec (.alarmExpiry c k) s = .next t ∧ (t.thread c k).alarm = 0 ∧
      OnItsWay t (senderThread c k) (mkRec (taOf s c k) kW 6 (s.thread c k).tag (BitVec.ofNat 64 k.val) [0x8000000000000000])) ∧
  (∀ (s : State) (c : Nat) (k : Fin 16) (m : Word) (n : Nat), (s.thread c k).st = .blocked (.wait m n) →
    (s.thread c k).since + 4096 < s.clk →
    ∃ t, exec (.kwdTimeout c k) s = .next t ∧ (t.getCore c).kwd.getLsbD k.val = true) ∧
  (∀ (s : State) (c : Nat) (k : Fin 16) (gid : Half) (n : Nat), (s.thread c k).st = .blocked (.bar gid n) →
    (s.thread c k).since + 4096 < s.clk →
    ∃ t, exec (.kwdTimeout c k) s = .next t ∧ (t.getCore c).kwd.getLsbD k.val = true) ∧
  (∀ (s : State) (c : Nat) (k : Fin 16), blockedLong (s.thread c k) = false ∨ s.clk ≤ (s.thread c k).since + 4096 →
    exec (.kwdTimeout c k) s = .next s) ∧
  (∀ (s : State) (c : Nat) (k : Fin 16), freeGeneral s c = some k → (s.thread c k).st = .empty ∧ (s.thread c k).freeAt ≤ s.clk) ∧
  (∀ (s : State) (c : Nat) (k : Fin 16), (s.thread c k).st = .removed .ending → (s.thread c k).relaxed = [] →
    (s.thread c k).serving = none → (s.thread c k).tow = .none → (s.thread c 0).st ≠ .removed .kfence →
    ∃ t, exec (.threadRetire c k) s = .next t ∧ (t.thread c k).st = .empty ∧ (t.thread c k).freeAt = s.clk + 1 ∧
      (SMap.getD (t.getCore c).counts (s.thread c k).tag.toNat {}).retired =
        (SMap.getD (s.getCore c).counts (s.thread c k).tag.toNat {}).retired + 1)

/-- A task that retires posts a decrement of 1 under its own tag to its parent counter, if it has one, and then to each counter of its node's successor
list, up to a zero entry and 15 in all, in that order; an address that names no present core is reported to the retiring core's keeper with cause 0x05
instead (08 R159; 01 R9). -/
def Claims.RetirementDecrements : Prop :=
  (∀ (s : State) (c : Nat) (k : Fin 16), (s.thread c k).st = .removed .ending → (s.thread c k).relaxed = [] →
    (s.thread c k).serving = none → (s.thread c k).tow = .none → (s.thread c 0).st ≠ .removed .kfence → (s.thread c k).isTask = true →
    let x := s.thread c k
    let l := (if x.parent = 0 then [] else [x.parent]) ++ (if x.succ = 0 then [] else succList s (dieOf c) x.succ 15)
    let dec (a : Word) : Record := mkRec (coreTa (fld a 48 16)) kC 1 x.tag a [1]
    let bad (a : Word) : Record := mkRec (coreTa (coreAddress s c)) kK 0 x.tag 0 (trapPayload 0x05 k.val true 0 x.pc a 0)
    (∀ a ∈ l, ∃ t, exec (.threadRetire c k) s = .next t ∧
      OnItsWay t (senderThread c k) (if namesCore s (fld a 48 16) = true then dec a else bad a)) ∧
    ((∀ a ∈ l, namesCore s (fld a 48 16) = true ∧ (fld a 60 4 : BitVec 4) = s.wharf.device) →
      ∃ t r, exec (.threadRetire c k) s = .next t ∧
        (t.net.map fun f => (f.sender, f.r)) = (s.net.map fun f => (f.sender, f.r)) ++ l.map (fun a => (senderThread c k, dec a)) ++ r)) ∧
  (∀ (s : State) (d off n : Nat), succList s d off 0 = [] ∧
    succList s d off (n + 1) = if basinWord s d off = 0 then [] else basinWord s d off :: succList s d (off + 8) n)

/-- end, yield, wait, alarm; alarms, timeouts and retirement: the claims above. -/
def Obligations.ThreadControlAndRetirement : Prop := Claims.ThreadControl ∧ Claims.AlarmTimeoutAndRetirement ∧ Claims.RetirementDecrements

/-- Every access checks its segment in one order: kind and rights, limit, the top of the space and the owner or die, alignment; a check that fails
traps with the offset operand, and with the data of st and amo, and changes no memory; the Basin lines that a home-side cache takes trap 0x05 before
alignment (log entry 45; 05 R97, R98, R105; 13 R231, R234). -/
def Obligations.SegmentChecks : Prop :=
  (∀ (s : State) (g : Seg) (op : MemOp) (off : Word) (disp : Nat),
    let n := op.span
    let x := off.toNat + disp
    let a := x + (if g.kind ≤ 1 then (fld g.w0 0 18 : BitVec 18).toNat else if g.kind = 2 then (fld g.w0 0 27 : BitVec 27).toNat
      else (fld g.w0 0 52 : BitVec 52).toNat)
    let top := if g.kind ≤ 1 then 262144 else if g.kind = 2 then 134217728 else 2 ^ 52
    let wrong := 4 ≤ g.kind ∨ op.need &&& ~~~g.rights ≠ 0 ∨ op.allowed g.kind = false
    let nowhere := top < a + n ∨
      (g.kind = 1 ∧ ¬ ((fld g.w0 60 4 : BitVec 4) = s.wharf.device ∧ present s (fld g.w0 48 12 : BitVec 12).toNat = true)) ∨
      (g.kind = 2 ∧ 3 < (fld g.w0 27 3 : BitVec 3).toNat) ∨
      (g.kind = 2 ∧ 0 < n ∧ 134217728 - (s.die (fld g.w0 27 3 : BitVec 3).toNat).size * 0x100000 < a + n)
    (wrong → checkAccess s g op off disp = .error 0x04) ∧
    (¬ wrong → g.limit < x + n → checkAccess s g op off disp = .error 0x03) ∧
    (¬ wrong → x + n ≤ g.limit → nowhere → checkAccess s g op off disp = .error 0x05) ∧
    (¬ wrong → x + n ≤ g.limit → ¬ nowhere → a % op.align ≠ 0 → checkAccess s g op off disp = .error 0x06) ∧
    (¬ wrong → x + n ≤ g.limit → ¬ nowhere → a % op.align = 0 → checkAccess s g op off disp = .ok a)) ∧
  (∀ (s : State) (sg : Fin 8) (o : Src) (disp : BitVec 6) (c : Nat),
    (∀ sz signed rlx d, Ready s (.ld sz signed rlx sg d o disp) →
      checkAccess (after1 s o) ((after1 s o).me.sg.get sg) (.ld sz signed d) (val1 s o) (disp.toNat * sz.bytes) = .error c →
      ∃ t, exec (.ld sz signed rlx sg d o disp) s = .next t ∧ Trapped (after1 s o) t c (val1 s o) 0) ∧
    (∀ sz rlx a, Ready s (.st sz rlx sg a o disp) →
      checkAccess (after2 s a o) ((after2 s a o).me.sg.get sg) (.st sz) (val2 s a o) (disp.toNat * sz.bytes) = .error c →
      ∃ t, exec (.st sz rlx sg a o disp) s = .next t ∧ Trapped (after2 s a o) t c (val2 s a o) (val1 s a)) ∧
    (∀ sz m rlx v, Ready s (.vld sz m rlx sg v o disp) →
      checkAccess (after1 s o) ((after1 s o).me.sg.get sg) (.vld sz 0 v) (val1 s o) (disp.toNat * sz.bytes) = .error c →
      ∃ t, exec (.vld sz m rlx sg v o disp) s = .next t ∧ Trapped (after1 s o) t c (val1 s o) 0) ∧
    (∀ sz m rlx v, Ready s (.vst sz m rlx sg v o disp) →
      checkAccess (after1 s o) ((after1 s o).me.sg.get sg) (.vst sz m 0) (val1 s o) (disp.toNat * sz.bytes) = .error c →
      ∃ t, exec (.vst sz m rlx sg v o disp) s = .next t ∧ Trapped (after1 s o) t c (val1 s o) 0) ∧
    (∀ op wide d, Ready s (.amo op wide sg d o disp) →
      checkAccess (after2 s d.asSrc o) ((after2 s d.asSrc o).me.sg.get sg) (.amo op wide d) (val2 s d.asSrc o)
        (disp.toNat * if wide then 8 else 4) = .error c →
      ∃ t, exec (.amo op wide sg d o disp) s = .next t ∧ Trapped (after2 s d.asSrc o) t c (val2 s d.asSrc o) (val1 s d.asSrc)) ∧
    (∀ op v m, Ready s (.bop op sg v o m) →
      checkAccess (after1 s o) ((after1 s o).me.sg.get sg) (.bop op 0) (val1 s o) 0 = .error c →
      ∃ t, exec (.bop op sg v o m) s = .next t ∧ Trapped (after1 s o) t c (val1 s o) 0))

/-- Through a kind 0 segment loads complete at once, relaxed or not: ld extends what it reads, vld reads its enabled lanes and zeroes the others;
one that meets poison in a byte that it reads traps 0x0A with the address (05 R99-R103). -/
def Claims.LocalLoads : Prop :=
  ∀ (s : State) (rlx : Bool) (sg : Fin 8) (o : Src) (disp : BitVec 6) (sz : Size) (a : Nat),
    let u := after1 s o
    let key := lsKey s.core a
    let n := sz.bytes
    (∀ signed d, Ready s (.ld sz signed rlx sg d o disp) → (u.me.sg.get sg).kind = 0 →
      checkAccess u (u.me.sg.get sg) (.ld sz signed d) (val1 s o) (disp.toNat * n) = .ok a →
      let v : Int := bytesNat (rawRead u key n)
      (poisoned u key n = false → exec (.ld sz signed rlx sg d o disp) s =
        .next (u.result (.ld sz signed rlx sg d o disp) d (if signed then cutS (8 * n) v else cutZ (8 * n) v))) ∧
      (poisoned u key n = true → ∃ t, exec (.ld sz signed rlx sg d o disp) s = .next t ∧
        Trapped (fire u 65) t 0x0A (BitVec.ofNat 64 a) 0)) ∧
    (∀ m vd, Ready s (.vld sz m rlx sg vd o disp) → (u.me.sg.get sg).kind = 0 →
      checkAccess u (u.me.sg.get sg) (.vld sz 0 vd) (val1 s o) (disp.toNat * n) = .ok a →
      ((∀ i, i < 64 / n → bit (u.me.mask m) i = true → poisoned u (key + n * i) n = false) →
        ∃ v : Vec, exec (.vld sz m rlx sg vd o disp) s = .next ((u.setMe (u.me.setV vd v)).advance (.vld sz m rlx sg vd o disp)) ∧
          LanesLoaded u key sz (u.me.mask m) v) ∧
      (∀ i, i < 64 / n → bit (u.me.mask m) i = true → poisoned u (key + n * i) n = true →
        ∃ t, exec (.vld sz m rlx sg vd o disp) s = .next t ∧ Trapped (fire u 65) t 0x0A (BitVec.ofNat 64 a) 0))

/-- Through a kind 0 segment stores and atomics complete at once: st writes the low bytes of its data, vst its enabled lanes, an atomic its new
value (a cas that compares unequal nothing), and its destination receives the old value, sign-extended; an atomic that meets poison
traps 0x0A with the address; every byte outside is as before (05 R99-R104). -/
def Claims.LocalStoresAndAtomics : Prop :=
  ∀ (s : State) (rlx : Bool) (sg : Fin 8) (o : Src) (disp : BitVec 6) (a : Nat), Inv s →
    let key := lsKey s.core a
    (∀ sz x, Ready s (.st sz rlx sg x o disp) →
      let u := after2 s x o
      (u.me.sg.get sg).kind = 0 → checkAccess u (u.me.sg.get sg) (.st sz) (val2 s x o) (disp.toNat * sz.bytes) = .ok a →
      ∃ t, exec (.st sz rlx sg x o disp) s = .next t ∧ bytesNat (rawRead t key sz.bytes) = (val1 s x).toNat % 2 ^ (8 * sz.bytes) ∧
        MemoryKeepsOutside u t key sz.bytes ∧ t.me = u.me.performed (nextPc u.me (lengthOf (.st sz rlx sg x o disp)))) ∧
    (∀ sz m v, Ready s (.vst sz m rlx sg v o disp) →
      let u := after1 s o
      (u.me.sg.get sg).kind = 0 → checkAccess u (u.me.sg.get sg) (.vst sz m 0) (val1 s o) (disp.toNat * sz.bytes) = .ok a →
      ∃ t, exec (.vst sz m rlx sg v o disp) s = .next t ∧ LanesStored u t key sz (u.me.mask m) (u.me.v.get v) ∧
        t.me = u.me.performed (nextPc u.me (lengthOf (.vst sz m rlx sg v o disp)))) ∧
    (∀ op wide d, Ready s (.amo op wide sg d o disp) →
      let u := after2 s d.asSrc o
      let n := if wide then 8 else 4
      let w := 2 ^ (8 * n)
      let x := (val1 s d.asSrc).toNat % w
      let old := bytesNat (rawRead u key n)
      (u.me.sg.get sg).kind = 0 → checkAccess u (u.me.sg.get sg) (.amo op wide d) (val2 s d.asSrc o) (disp.toNat * n) = .ok a →
      (poisoned u key n = false → plainDst d = true →
        ∃ t, exec (.amo op wide sg d o disp) s = .next t ∧
          bytesNat (rawRead t key n) = amoWrites op n old x ((s.read (nextSrc d)).1.toNat % w) ∧ MemoryKeepsOutside u t key n ∧
          t.me = (u.me.putReg d (cutS (8 * n) old)).performed (nextPc u.me (lengthOf (.amo op wide sg d o disp)))) ∧
      (poisoned u key n = true → ∃ t, exec (.amo op wide sg d o disp) s = .next t ∧ Trapped (fire u 65) t 0x0A (BitVec.ofNat 64 a) 0))

/-- Loads, stores and atomics through kind 0 segments: the claims above. -/
def Obligations.LocalAccesses : Prop := Claims.LocalLoads ∧ Claims.LocalStoresAndAtomics

/-- Through the other kinds an ordinary access removes its thread: a remote-access record goes to the owner of kind 1, the others wait for
their reply. A relaxed one goes into flight and the pc moves on (05 R101, R102, R105; 13 R231). -/
def Claims.DistantAccesses : Prop :=
  ∀ (s : State) (i : Instr) (op : MemOp) (rlx : Bool) (sg : Fin 8) (off : Word) (disp a : Nat) (data : Vec) (e : Word) (u : State),
    Ready s i →
    ((∃ sz signed d o c, i = .ld sz signed rlx sg d o c ∧ op = .ld sz signed d ∧ off = val1 s o ∧ disp = c.toNat * sz.bytes ∧ data = 0 ∧
        e = 0 ∧ u = after1 s o) ∨
      (∃ sz x o c, i = .st sz rlx sg x o c ∧ op = .st sz ∧ off = val2 s x o ∧ disp = c.toNat * sz.bytes ∧
        data = (val1 s x).setWidth 512 ∧ e = 0 ∧ u = after2 s x o) ∨
      (∃ sz m v o c, i = .vld sz m rlx sg v o c ∧ op = .vld sz (u.me.mask m) v ∧ off = val1 s o ∧ disp = c.toNat * sz.bytes ∧ data = 0 ∧
        e = 0 ∧ u = after1 s o) ∨
      (∃ sz m v o c, i = .vst sz m rlx sg v o c ∧ op = .vst sz m (u.me.mask m) ∧ off = val1 s o ∧ disp = c.toNat * sz.bytes ∧
        data = u.me.v.get v ∧ e = 0 ∧ u = after1 s o) ∨
      (∃ q wide d o c, i = .amo q wide sg d o c ∧ rlx = false ∧ op = .amo q wide d ∧ off = val2 s d.asSrc o ∧
        disp = c.toNat * (if wide then 8 else 4) ∧ data = (val1 s d.asSrc).setWidth 512 ∧ e = expected s q d ∧ u = after2 s d.asSrc o) ∨
      (∃ q v o m, i = .bop q sg v o m ∧ rlx = false ∧ op = .bop q (u.me.mask m) ∧ off = val1 s o ∧ disp = 0 ∧ data = u.me.v.get v ∧ e = 0 ∧
        u = after1 s o)) →
    let g := u.me.sg.get sg
    let x : Access := { op := op, sg := sg, off := off, disp := disp, data := data, exp := e, kind := g.kind, addr := a,
                        owner := g.owner u.core, pc := u.me.pc, iword := u.iword, len := lengthOf i }
    g.kind ≠ 0 → checkAccess u g op off disp = .ok a →
    (rlx = false → g.kind = 1 → ∃ t, exec i s = .next t ∧ t = (u.setMe { u.me with st := .removed (.remote x) }).post (senderThread u.core u.slot)
      (remoteRecord u u.core u.slot x)) ∧
    (rlx = false → g.kind ≠ 1 → exec i s = .next (u.setMe { u.me with st := .removed (.mem x) })) ∧
    (rlx = true → ∃ t, exec i s = .next t ∧ t.me.relaxed = u.me.relaxed ++
        [{ acc := x, joined := u.clk, sent := decide (g.kind = 1) && !u.me.remoteBusy }] ∧ t.me.st = u.me.st ∧
      t.me.pc = u.me.pc + BitVec.ofNat 64 (lengthOf i) ∧ t.mem = u.mem ∧
      (g.kind = 1 → u.me.remoteBusy = false → ∃ l, t.net = u.net ++ l ∧ OnItsWay t (senderThread u.core u.slot) (remoteRecord u u.core u.slot x)))

/-- The reply of an ordinary access through kind 2 or 3 performs it and makes its thread Runnable behind it: a load extends what it read, vector forms move
their enabled lanes, a store and a bank operation leave the bytes outside alone, an atomic writes its value and returns the old one. A vector access that touches two
lines is performed as two, one at a time; the order is open, and that the rest is performed whole as its reply comes is DEDUCED (log entry 6). A translation that faults parks the thread and posts a
fault record (a trap 0x0E in slot 1); poison traps 0x0A (05 R99-R105; 13 R232, R243, R244). -/
def Claims.MemoryReplies : Prop :=
  ∀ (s : State) (c : Nat) (k : Fin 16) (x : Access), (s.thread c k).st = .removed (.mem x) →
    let half (v : Vec) (first : Bool) (h : Home) : Thread :=
      { s.thread c k with st := .removed (.mem { x with half := some { upper := !first, got := v, home := h } }) }
    let T := (s.thread c k).run
    let pc := x.pc + BitVec.ofNat 64 x.len
    let key := basinKey x.owner x.addr
    let cl := clusterOf c
    let asid := asidOf s (s.thread c k) k
    let pages := x.pages
    (x.kind = 2 → x.half = none → Calm s c k →
      (∀ sz signed d, x.op = .ld sz signed d → plainDst d = true → poisoned s key sz.bytes = false →
        let v : Int := bytesNat (rawRead s key sz.bytes)
        ∃ t, exec (.memoryReply c k) s = .next t ∧ MemoryKeeps s t ∧
          t.thread c k = (T.putReg d (if signed then cutS (8 * sz.bytes) v else cutZ (8 * sz.bytes) v)).performed pc) ∧
      (∀ sz, x.op = .st sz → Inv s → ∃ t, exec (.memoryReply c k) s = .next t ∧ MemoryKeepsOutside s t key sz.bytes ∧
        bytesNat (rawRead t key sz.bytes) = x.data.toNat % 2 ^ (8 * sz.bytes) ∧ t.thread c k = T.performed pc) ∧
      (∀ sz mask d, x.op = .vld sz mask d → x.splits = false → (∀ i, i < 64 / sz.bytes → bit mask i = true → poisoned s (key + sz.bytes * i) sz.bytes = false) →
        ∃ t v, exec (.memoryReply c k) s = .next t ∧ MemoryKeeps s t ∧ t.thread c k = (T.setV d v).performed pc ∧
          LanesLoaded s key sz mask v) ∧
      (∀ sz m mask, x.op = .vst sz m mask → x.splits = false → Inv s → ∃ t, exec (.memoryReply c k) s = .next t ∧
        t.thread c k = T.performed pc ∧ LanesStored s t key sz mask x.data) ∧
      (∀ sz mask d, x.splits = true → x.op.onLine x.addr (Config.upperFirst s.fresh) = .vld sz mask d →
        (∀ i, i < 64 / sz.bytes → bit mask i = true → poisoned s (key + sz.bytes * i) sz.bytes = false) →
        ∃ t v, exec (.memoryReply c k) s = .next t ∧ MemoryKeeps s t ∧ LanesLoaded s key sz mask v ∧
          t.thread c k = half v (Config.upperFirst s.fresh) (.raw key)) ∧
      (∀ sz m mask, x.splits = true → x.op.onLine x.addr (Config.upperFirst s.fresh) = .vst sz m mask → Inv s →
        ∃ t, exec (.memoryReply c k) s = .next t ∧ LanesStored s t key sz mask x.data ∧
          t.thread c k = half 0 (Config.upperFirst s.fresh) (.raw key)) ∧
      (∀ op wide d, x.op = .amo op wide d → Inv s → plainDst d = true →
        let n := if wide then 8 else 4
        let old := bytesNat (rawRead s key n)
        poisoned s key n = false →
        ∃ t, exec (.memoryReply c k) s = .next t ∧ MemoryKeepsOutside s t key n ∧
          bytesNat (rawRead t key n) = amoWrites op n old (x.data.toNat % 2 ^ (8 * n)) (x.exp.toNat % 2 ^ (8 * n)) ∧
          t.thread c k = (T.putReg d (cutS (8 * n) old)).performed pc) ∧
      (∀ op mask, x.op = .bop op mask → Inv s → poisoned s key 64 = false →
        ∃ t, exec (.memoryReply c k) s = .next t ∧ MemoryKeepsOutside s t key 64 ∧ t.thread c k = T.performed pc ∧
          ∀ i, i < 16 →
            let old : W32 := BitVec.ofNat 32 (bytesNat (rawRead s (key + 4 * i) 4))
            let v : W32 := x.data.extractLsb' (32 * i) 32
            BitVec.ofNat 32 (bytesNat (rawRead t (key + 4 * i) 4)) = (if bit mask i then bopLane op old v else old)) ∧
      (∀ sz signed d, x.op = .ld sz signed d → poisoned s key sz.bytes = true →
        ∃ t, exec (.memoryReply c k) s = .next t ∧ TrapTaken s t c k 0x0A x.iword x.pc (BitVec.ofNat 64 x.addr) 0)) ∧
    (∀ h, x.half = some h → h.home = .raw key → Calm s c k →
      (∀ sz mask d, x.op.onLine x.addr h.upper = .vld sz mask d →
        (∀ i, i < 64 / sz.bytes → bit mask i = true → poisoned s (key + sz.bytes * i) sz.bytes = false) →
        ∃ t v, exec (.memoryReply c k) s = .next t ∧ MemoryKeeps s t ∧ LanesLoaded s key sz mask v ∧
          t.thread c k = (T.setV d (v ||| h.got)).performed pc) ∧
      (∀ sz m mask, x.op.onLine x.addr h.upper = .vst sz m mask → Inv s →
        ∃ t, exec (.memoryReply c k) s = .next t ∧ LanesStored s t key sz mask x.data ∧ t.thread c k = T.performed pc)) ∧
    (x.kind = 3 → x.half = none → firstBad s cl asid x.op.code pages = none → x.busy s cl asid = false → x.splits = false → Calm s c k →
      (∀ sz signed d, x.op = .ld sz signed d → plainDst d = true → dvaPoisoned s cl asid x.addr sz.bytes = false →
        let v : Int := bytesNat (dvaBytes s cl asid x.addr sz.bytes)
        ∃ t, exec (.memoryReply c k) s = .next t ∧ MemoryKeeps s t ∧
          t.thread c k = (T.putReg d (if signed then cutS (8 * sz.bytes) v else cutZ (8 * sz.bytes) v)).performed pc) ∧
      (∀ sz, x.op = .st sz → x.addr % 65536 + sz.bytes ≤ 65536 → Inv s →
        ∃ t, exec (.memoryReply c k) s = .next t ∧ dvaBytes t cl asid x.addr sz.bytes = natBytes sz.bytes x.data.toNat ∧
          t.thread c k = T.performed pc) ∧
      (∀ sz mask d, x.op = .vld sz mask d →
        (∀ i, i < 64 / sz.bytes → bit mask i = true → dvaPoisoned s cl asid (x.addr + sz.bytes * i) sz.bytes = false) →
        ∃ t v, exec (.memoryReply c k) s = .next t ∧ MemoryKeeps s t ∧ t.thread c k = (T.setV d v).performed pc ∧
          DvaLanesLoaded s cl asid x.addr sz mask v) ∧
      (∀ sz m mask, x.op = .vst sz m mask → x.addr % 65536 + 64 ≤ 65536 → Inv s →
        ∃ t, exec (.memoryReply c k) s = .next t ∧ t.thread c k = T.performed pc ∧ DvaLanesStored t cl asid x.addr sz mask x.data) ∧
      (∀ op wide d, x.op = .amo op wide d → plainDst d = true → Inv s →
        let n := if wide then 8 else 4
        let old := bytesNat (dvaBytes s cl asid x.addr n)
        x.addr % 65536 + n ≤ 65536 → dvaPoisoned s cl asid x.addr n = false →
        ∃ t, exec (.memoryReply c k) s = .next t ∧
          bytesNat (dvaBytes t cl asid x.addr n) = amoWrites op n old (x.data.toNat % 2 ^ (8 * n)) (x.exp.toNat % 2 ^ (8 * n)) ∧
          t.thread c k = (T.putReg d (cutS (8 * n) old)).performed pc)) ∧
    (x.kind = 3 → x.half = none → firstBad s cl asid x.op.code pages = none → x.splits = true → (∃ sz mask d, x.op = .vld sz mask d) →
      dvaPoisoned s cl asid x.addr 64 = false → (∀ d, (s.die d).busy = false) →
      ∃ t v, exec (.memoryReply c k) s = .next t ∧ MemoryKeeps s t ∧
        t.thread c k = half v (Config.upperFirst s.fresh) (.held (pieces s cl asid x.addr 64))) ∧
    (x.kind = 3 → x.half = none → firstBad s cl asid x.op.code pages = none → x.busy s cl asid = true → exec (.memoryReply c k) s = .next s) ∧
    (∀ p code, x.kind = 3 → x.half = none → firstBad s cl asid x.op.code pages = some (p, some code) →
      ∃ t, exec (.memoryReply c k) s = .next t ∧
        (k.val ≠ 1 → OnItsWay t (senderCtu cl) (threadFault s c k code x.op.code (max x.addr (p * 65536))) ∧
          t.thread c k = { s.thread c k with st := .parked { fault := some (code, max x.addr (p * 65536)), acc := some (false, x) } }) ∧
        (k.val = 1 → TrapTaken s t c k 0x0E x.iword x.pc (BitVec.ofNat 64 (max x.addr (p * 65536))) 0)) ∧
    (∀ p, x.kind = 3 → x.half = none → firstBad s cl asid x.op.code pages = some (p, none) → exec (.memoryReply c k) s = .next s)

/-- Accesses through kinds 1 to 3 remove the thread and are performed when they complete: the claims above. -/
def Obligations.DistantAccesses : Prop := Claims.DistantAccesses ∧ Claims.MemoryReplies

/-- A relaxed access is performed when no earlier one overlaps it, writes its register and leaves flight; one through kind 1 waits for its reply
record. Bytes are compared by the addresses that the thread uses (log entry 63); a vector access that touches two lines is performed as two, and any other whole as it
completes (log entry 6); one record of a thread through kind 1 is on its way at a time (log entry 32). One whose translation faults posts a fault record, unless another fault of its thread is outstanding, and keeps its place until its
thread parks for it: at once if the thread is held or Blocked; in slot 1 it posts none and traps 0x0E (05 R102, R103; 13 R232, R244). -/
def Obligations.RelaxedAccesses : Prop :=
  (∀ (s : State) (c : Nat) (k : Fin 16) (n : Nat) (r : Relaxed), (s.thread c k).relaxed[n]? = some r →
    r.found = none → r.poison = false → r.status = none → r.acc.kind = 2 → r.acc.half = none → (s.thread c 0).st ≠ .removed .kfence →
    let T := { s.thread c k with relaxed := (s.thread c k).relaxed.eraseIdx n,
                                 st := if (s.thread c k).st = .removed .held then .runnable else (s.thread c k).st }
    let key := basinKey r.acc.owner r.acc.addr
    (∀ m x a, m < n → (s.thread c k).relaxed[m]? = some x → ¬ (x.acc.kind = 2 ∧ x.acc.owner = r.acc.owner ∧
      x.acc.covers a = true ∧ r.acc.covers a = true)) →
    (∀ sz signed d, r.acc.op = .ld sz signed d → plainDst d = true → poisoned s key sz.bytes = false →
      let v : Int := bytesNat (rawRead s key sz.bytes)
      ∃ t, exec (.relaxedAccessComplete c k n) s = .next t ∧ MemoryKeeps s t ∧
        t.thread c k = T.putReg d (if signed then cutS (8 * sz.bytes) v else cutZ (8 * sz.bytes) v)) ∧
    (∀ sz mask d, r.acc.op = .vld sz mask d → r.acc.splits = false →
      (∀ i, i < 64 / sz.bytes → bit mask i = true → poisoned s (key + sz.bytes * i) sz.bytes = false) →
      ∃ t v, exec (.relaxedAccessComplete c k n) s = .next t ∧ MemoryKeeps s t ∧ t.thread c k = T.setV d v ∧ LanesLoaded s key sz mask v) ∧
    (∀ sz m mask, r.acc.op = .vst sz m mask → r.acc.splits = false → Inv s → ∃ t, exec (.relaxedAccessComplete c k n) s = .next t ∧
      LanesStored s t key sz mask r.acc.data ∧ t.thread c k = T) ∧
    (∀ sz m mask, r.acc.splits = true → r.acc.op.onLine r.acc.addr (Config.upperFirst s.fresh) = .vst sz m mask → Inv s →
      ∃ t, exec (.relaxedAccessComplete c k n) s = .next t ∧ LanesStored s t key sz mask r.acc.data ∧
        t.thread c k = { s.thread c k with relaxed := setAt (s.thread c k).relaxed n { r with acc :=
          { r.acc with half := some { upper := !Config.upperFirst s.fresh, got := 0, home := .raw key } } } }) ∧
    (∀ sz, r.acc.op = .st sz → Inv s → ∃ t, exec (.relaxedAccessComplete c k n) s = .next t ∧
      MemoryKeepsOutside s t key sz.bytes ∧ bytesNat (rawRead t key sz.bytes) = r.acc.data.toNat % 2 ^ (8 * sz.bytes) ∧
      t.thread c k = T)) ∧
  (∀ (s : State) (c : Nat) (k : Fin 16) (n : Nat) (r : Relaxed), (s.thread c k).relaxed[n]? = some r →
    r.found = none → r.poison = false → r.status = none → r.acc.kind = 3 → r.acc.half = none → r.acc.splits = false → (s.thread c 0).st ≠ .removed .kfence →
    (∀ m x a, m < n → (s.thread c k).relaxed[m]? = some x → ¬ (x.acc.kind = 3 ∧ x.acc.owner = r.acc.owner ∧
      x.acc.covers a = true ∧ r.acc.covers a = true)) →
    let T := { s.thread c k with relaxed := (s.thread c k).relaxed.eraseIdx n,
                                 st := if (s.thread c k).st = .removed .held then .runnable else (s.thread c k).st }
    let cl := clusterOf c
    let asid := asidOf s (s.thread c k) k
    firstBad s cl asid r.acc.op.code r.acc.pages = none → r.acc.busy s cl asid = false →
    (∀ sz signed d, r.acc.op = .ld sz signed d → plainDst d = true → dvaPoisoned s cl asid r.acc.addr sz.bytes = false →
      let v : Int := bytesNat (dvaBytes s cl asid r.acc.addr sz.bytes)
      ∃ t, exec (.relaxedAccessComplete c k n) s = .next t ∧ MemoryKeeps s t ∧
        t.thread c k = T.putReg d (if signed then cutS (8 * sz.bytes) v else cutZ (8 * sz.bytes) v)) ∧
    (∀ sz, r.acc.op = .st sz → r.acc.addr % 65536 + sz.bytes ≤ 65536 → Inv s →
      ∃ t, exec (.relaxedAccessComplete c k n) s = .next t ∧ dvaBytes t cl asid r.acc.addr sz.bytes = natBytes sz.bytes r.acc.data.toNat ∧
        t.thread c k = T) ∧
    (∀ sz mask d, r.acc.op = .vld sz mask d →
      (∀ i, i < 64 / sz.bytes → bit mask i = true → dvaPoisoned s cl asid (r.acc.addr + sz.bytes * i) sz.bytes = false) →
      ∃ t v, exec (.relaxedAccessComplete c k n) s = .next t ∧ MemoryKeeps s t ∧ t.thread c k = T.setV d v ∧
        DvaLanesLoaded s cl asid r.acc.addr sz mask v) ∧
    (∀ sz m mask, r.acc.op = .vst sz m mask → r.acc.addr % 65536 + 64 ≤ 65536 → Inv s →
      ∃ t, exec (.relaxedAccessComplete c k n) s = .next t ∧ t.thread c k = T ∧ DvaLanesStored t cl asid r.acc.addr sz mask r.acc.data)) ∧
  (∀ (s : State) (c : Nat) (k : Fin 16) (n : Nat) (r : Relaxed), (s.thread c k).relaxed[n]? = some r → r.acc.kind = 1 →
    exec (.relaxedAccessComplete c k n) s = .next s) ∧
  (∀ (s : State) (c : Nat) (k : Fin 16) (n m a : Nat) (r x : Relaxed), (s.thread c k).relaxed[n]? = some r → m < n →
    (s.thread c k).relaxed[m]? = some x → x.acc.kind = r.acc.kind → x.acc.owner = r.acc.owner →
    x.acc.covers a = true → r.acc.covers a = true →
    exec (.relaxedAccessComplete c k n) s = .next s) ∧
  (∀ (s : State) (c : Nat) (k : Fin 16) (r : Relaxed) (l : List Relaxed) (p code : Nat), (s.thread c k).relaxed = r :: l →
    (s.thread c k).faulting = false → r.denied = false → r.acc.kind = 3 → r.acc.half = none → (s.thread c 0).st ≠ .removed .kfence →
    firstBad s (clusterOf c) (asidOf s (s.thread c k) k) r.acc.op.code r.acc.pages = some (p, some code) →
    let dva := max r.acc.addr (p * 65536)
    let found := { s.thread c k with relaxed := { r with found := some (code, dva) } :: l }
    (k.val ≠ 1 → ∃ t, exec (.relaxedFaultFound c k) s = .next t ∧
      OnItsWay t (senderCtu (clusterOf c)) (threadFault s c k code r.acc.op.code dva) ∧
      ((s.thread c k).st = .runnable → t.thread c k = found) ∧
      ((s.thread c k).st = .removed .held →
        t.thread c k = { found with parkDue := false, st := .parked { fault := some (code, dva), acc := some (true, r.acc) } }) ∧
      (∀ b, (s.thread c k).st = .blocked b → t.thread c k =
        { found with parkDue := false, st := .parked { fault := some (code, dva), acc := some (true, r.acc), before := some b } })) ∧
    (k.val = 1 → (s.thread c k).st = .runnable → ∃ t, exec (.relaxedFaultFound c k) s = .next t ∧
      t.thread c k = { s.thread c k with relaxed := { r with found := some (code, dva), denied := true } :: l } ∧ t.net = s.net)) ∧
  (∀ (s : State) (c : Nat) (k : Fin 16), (s.thread c k).faulting = true → exec (.relaxedFaultFound c k) s = .next s)

/-- fence.rx completes when nothing is in flight; an SC fence also moves the pc and removes its thread, and completes once its writes are visible
(05 R106, R107; 14 R249, R251). -/
def Claims.Fences : Prop :=
  (∀ (s : State), Ready s .fenceRx → exec .fenceRx s = .next (s.goTo (s.me.pc + 4))) ∧
  (∀ (s : State) (sc : Scope), Ready s (.fenceSc sc) → ∃ t, exec (.fenceSc sc) s = .next t ∧
    t.me.st = .removed (.fence sc) ∧ t.me.pc = s.me.pc + 4 ∧ MemoryKeeps s t) ∧
  (∀ (s : State) (c : Nat) (k : Fin 16) (sc : Scope), (s.thread c k).st = .removed (.fence sc) → Calm s c k →
    ∃ t, exec (.scFenceComplete c k) s = .next t ∧ t.thread c k = (s.thread c k).run ∧ MemoryKeeps s t)

/-- sgnarrow moves a base up, sets a limit inside the old one and keeps the rights named; one that would reach outside traps 0x03, one of a kind
without memory 0x04, one that moves the base of sg1 0x09, and a base that leaves its field 0x05. sgrd reads a word of a segment (05 R108, R109). -/
def Claims.SegmentInstructions : Prop :=
  (∀ (s : State) (sg : Fin 8) (a o : Src) (keep : BitVec 3), Ready s (.sgnarrow sg a o keep) →
    let u := after2 s a o
    let g := u.me.sg.get sg
    let len := val1 s a
    let off := val2 s a o
    let field := if g.kind ≤ 1 then 18 else if g.kind = 2 then 27 else 52
    let outside := g.limit < off.toNat ∨ g.limit - off.toNat < len.toNat
    let leaves := 2 ^ field ≤ g.w0.toNat % 2 ^ field + off.toNat
    (g.kind < 4 → ¬ outside → ¬ (sg = 1 ∧ off ≠ 0) → ¬ leaves → ∃ t h, exec (.sgnarrow sg a o keep) s = .next t ∧
      t = (u.setMe (u.me.setSg sg h)).advance (.sgnarrow sg a o keep) ∧ h.kind = g.kind ∧ h.limit = len.toNat ∧
      h.rights = g.rights &&& keep ∧ h.w0.toNat % 2 ^ field = g.w0.toNat % 2 ^ field + off.toNat ∧ h.w0.toNat / 2 ^ field = g.w0.toNat / 2 ^ field) ∧
    (4 ≤ g.kind → ∃ t, exec (.sgnarrow sg a o keep) s = .next t ∧ TrappedOpen u t 0x04) ∧
    (g.kind < 4 → outside → ∃ t, exec (.sgnarrow sg a o keep) s = .next t ∧ TrappedOpen u t 0x03) ∧
    (g.kind < 4 → ¬ outside → sg = 1 → off ≠ 0 →
      ∃ t, exec (.sgnarrow sg a o keep) s = .next t ∧ Trapped u t 0x09 (u.me.wsp.setWidth 64) (BitVec.ofNat 64 u.me.depth)) ∧
    (g.kind < 4 → ¬ outside → ¬ (sg = 1 ∧ off ≠ 0) → leaves → ∃ t, exec (.sgnarrow sg a o keep) s = .next t ∧ TrappedOpen u t 0x05)) ∧
  (∀ (s : State) (sg : Fin 8) (d : Dst) (word : Bool), Ready s (.sgrd sg d word) →
    exec (.sgrd sg d word) s = .next (s.result (.sgrd sg d word) d
      (if word then (s.me.sg.get sg).w1 else (s.me.sg.get sg).w0)))

/-- Fences and segment instructions: the claims above. -/
def Obligations.FencesAndSegments : Prop := Claims.Fences ∧ Claims.SegmentInstructions

/-- A fetch brings the line of the first word that is missing into the cluster, so that it reads as memory does under the leaf's key; a translation
that faults parks the thread, a poisoned word traps 0x0A and a word at or above 2^52 traps 0x05. A walk serves its waiters in
the order in which they joined it: it caches the leaf that it delivers to one, and posts a fault record for an access that it cannot serve; an
asid without a root entry faults with code 6 (13 R237-R244; 15 R260). -/
def Obligations.FetchAndWalk : Prop :=
  (∀ (s : State) (c : Nat) (k : Fin 16) (a : Nat), (s.thread c k).st = .runnable → (s.thread c k).tow = .none →
    let cl := clusterOf c
    let asid := asidOf s (s.thread c k) k
    (∀ l, fetch s c k = .absent a → look s cl asid (a / 65536) 3 = .hit l → tierOf l.leaf ≠ 2 → poisoned s (l.pa (a / 64 * 64)) 64 = false →
      ∃ t, exec (.instructionFetch c k) s = .next t ∧ t.thread c k = s.thread c k ∧ MemoryKeeps s t ∧
        fetchWord t c k a ≠ .absent ∧
        SMap.find (t.cluster cl).lines (lineKey asid a) =
          some (lineVec (physRead s (keyGen s (keyOfLeaf l.leaf)) (l.pa (a / 64 * 64)) 64))) ∧
    (∀ code r, fetch s c k = .absent a → look s cl asid (a / 65536) 3 = .fault code → failedRelaxed (s.thread c k) = some r →
      exec (.instructionFetch c k) s = .next (parkRelaxed s c k r)) ∧
    (∀ code, fetch s c k = .absent a → look s cl asid (a / 65536) 3 = .fault code → failedRelaxed (s.thread c k) = none → k.val ≠ 1 →
      ∃ t, exec (.instructionFetch c k) s = .next t ∧
        t.thread c k = { s.thread c k with st := .parked { fault := some (code, a) } } ∧
        OnItsWay t (senderCtu cl) (threadFault s c k code 3 a)) ∧
    (fetch s c k = .beyond a → ∃ t, exec (.instructionFetch c k) s = .next t ∧
      TrapTaken s t c k 0x05 (fetchedWord s c k) (s.thread c k).pc (BitVec.ofNat 64 a) 0) ∧
    (∀ l, fetch s c k = .absent a → look s cl asid (a / 65536) 3 = .hit l → tierOf l.leaf ≠ 2 → poisoned s (l.pa (a / 64 * 64)) 64 = true →
      ∃ t, exec (.instructionFetch c k) s = .next t ∧
        TrapTaken s t c k 0x0A (fetchedWord s c k) (s.thread c k).pc (BitVec.ofNat 64 a) 0)) ∧
  (∀ (s : State) (cl : Nat) (asid : Half) (page : BitVec 36) (w : Waiter) (l : Leaf), w ∈ walkWaiters s cl asid.toNat page.toNat →
    walk s (asTable s (cl / 32)) asid.toNat (page.toNat * 65536) w.what.code = .ok l →
    ∃ t, exec (.pageWalk cl asid page) s = .next t ∧ (findLeaf t cl asid.toNat page.toNat).isSome = true) ∧
  (∀ (s : State) (cl : Nat) (asid : Half) (page : BitVec 36) (x : Access) (j c : Nat) (k : Fin 16) (code : Nat),
    walkWaiters s cl asid.toNat page.toNat = [⟨j, c, k, .access x⟩] → x.op.isWld = false → k.val ≠ 1 →
    walk s (asTable s (cl / 32)) asid.toNat (page.toNat * 65536) x.op.code = .error code →
    let dva := max x.addr (page.toNat * 65536)
    ∃ t, exec (.pageWalk cl asid page) s = .next t ∧ OnItsWay t (senderCtu (clusterOf c)) (threadFault s c k code x.op.code dva) ∧
      t.thread c k = { s.thread c k with st := .parked { fault := some (code, dva), acc := some (false, x) } }) ∧
  (∀ (s : State) (cl asid page : Nat), (walkWaiters s cl asid page).Pairwise fun v w => v.joined ≤ w.joined) ∧
  (∀ (s : State) (base asid dva access : Nat) (root : Word), tableRead s (base + 8 * asid) = .ok root → typeOf root = 0 →
    walk s base asid dva access = .error 6)

/-- Majors 0x10 to 0x17: whatever forms the operands have and whether the instruction completes, waits or traps, memory changes only in the bytes
that a store, vector store or atomic through kind 0 is made to and in the journal entry of a collective command that a port destination submits; every other thread keeps its registers, and of the thread's own none changes but
the destination, the segment that sgnarrow names and the pc (05 R97-R109). -/
def Obligations.MemoryFrame : Prop :=
  ∀ (s t : State) (i : Instr), isMemory i = true → Inv s → exec i s = .next t →
    (∀ a, (∀ key n, storedAt s i = some (key, n) → a < key ∨ key + n ≤ a) → (mayCollect i = true → ¬ InEntry s a) → Memory.get t.mem a = Memory.get s.mem a) ∧
    OthersKeep s t ∧ t.lock = s.lock ∧ t.helmCache = s.helmCache ∧ t.clk = s.clk ∧ t.mtime = s.mtime ∧ t.power = s.power ∧
    t.wharf.launches = s.wharf.launches ∧ t.wharf.routing = s.wharf.routing ∧ t.me.m = s.me.m ∧ t.me.special = s.me.special ∧
    (∀ j, instrDst i ≠ some (.g j) → t.me.g.get j = s.me.g.get j) ∧ (∀ j, instrDst i ≠ some (.w j) → t.me.w.get j = s.me.w.get j) ∧
    (∀ j, (∀ sz m rlx sg o c, i ≠ .vld sz m rlx sg j o c) → t.me.v.get j = s.me.v.get j) ∧
    (∀ j, (∀ a o keep, i ≠ .sgnarrow j a o keep) → t.me.sg.get j = s.me.sg.get j)

/-- A pattern of a format that is no NaN keeps its bits when its value is formed and rounded again, in every mode; and rounding to an integer to
nearest leaves less than half a unit, or half and an even result (03 R56-R61). -/
def Obligations.FloatNumbers : Prop :=
  (∀ (f : Fmt) (r : Rounding) (b : Nat), f ∈ [fF32, fBf16, fF16, fE4m3, fE5m2] → b < 2 ^ f.width → f.value b ≠ .nan →
    f.pack r (f.value b) = b) ∧
  (∀ (f : Fmt) (r : Rounding), f ∈ [fF32, fBf16, fF16, fE4m3, fE5m2] → f.pack r .nan = f.nan ∧ f.value f.nan = .nan) ∧
  (∀ (neg : Bool) (m d : Nat),
    let q := roundShift .rne neg m d
    2 * m ≤ 2 * q * 2 ^ d + 2 ^ d ∧ 2 * q * 2 ^ d ≤ 2 * m + 2 ^ d ∧
      (2 * m = 2 * q * 2 ^ d + 2 ^ d ∨ 2 * q * 2 ^ d = 2 * m + 2 ^ d → q % 2 = 0))

/-- Floating lanes: sums, differences, products and fused forms are exact values rounded once to nearest; maximum and minimum choose an operand, with
-0 below +0, and prefer a number to a NaN; vabs and vneg change the sign bit alone; a lane whose mask bit is zero keeps its bits (06 R112, R113;
03 R59-R61). -/
def Claims.FloatLanes : Prop :=
  ∀ (s : State) (t : FType) (vd va vb vc : Fin 16) (m : Fin 4),
    let f := fmtOf t
    let w := f.width
    let old := s.me.v.get vd
    let a := fun j => lane w (s.me.v.get va) j
    let b := fun j => lane w (s.me.v.get vb) j
    let c := fun j => lane w (s.me.v.get vc) j
    let done (i : Instr) (F : Nat → BitVec w) : Prop := Ready s i →
      ∃ v, exec i s = .next ((s.setMe (s.me.setV vd v)).advance i) ∧
        ∀ j, j < 512 / w → lane w v j = if bit (s.me.mask m) j then F j else lane w old j
    let r (x : FVal) : BitVec w := BitVec.ofNat w (f.pack .rne x)
    let value (x : BitVec w) : FVal := f.value x.toNat
    done (.vadd t vd va vb m) (fun j => r ((value (a j)).add (value (b j)))) ∧
    done (.vsub t vd va vb m) (fun j => r ((value (a j)).add (value (b j)).neg)) ∧
    done (.vmul t vd va vb m) (fun j => r ((value (a j)).mul (value (b j)))) ∧
    done (.vfma t vd va vb vc m) (fun j => r (((value (a j)).mul (value (b j))).add (value (c j)))) ∧
    done (.vfms t vd va vb vc m) (fun j => r (((value (a j)).mul (value (b j))).add (value (c j)).neg)) ∧
    done (.vmax t vd va vb m) (fun j =>
      if value (a j) = .nan ∧ value (b j) = .nan then BitVec.ofNat w f.nan
      else if value (a j) = .nan then b j else if value (b j) = .nan then a j
      else if (value (a j)).lt true (value (b j)) then b j else a j) ∧
    done (.vmin t vd va vb m) (fun j =>
      if value (a j) = .nan ∧ value (b j) = .nan then BitVec.ofNat w f.nan
      else if value (a j) = .nan then b j else if value (b j) = .nan then a j
      else if (value (b j)).lt true (value (a j)) then b j else a j) ∧
    done (.vabs t vd va m) (fun j => a j &&& ~~~(1#w <<< (w - 1))) ∧
    done (.vneg t vd va m) (fun j => a j ^^^ (1#w <<< (w - 1)))

/-- An iterative instruction reads its sources, moves its pc and removes its thread for 20, 14, 16, 18 or 18 cycles from when the core's iterative
unit is free, stretched by the governor's share (21 R335); then its result is written, and the thread issues from the next cycle on. The cases that are exact by definition (06 R114, R115; the precision of exp2 and log2 elsewhere is the
model's, log entry 15). -/
def Claims.IterativeResults : Prop :=
  (∀ (s : State) (t : FType) (vd va vb : Fin 16) (m : Fin 4),
    let f := fmtOf t
    let w := f.width
    let done (i : Instr) (n : Nat) (F : FVal → FVal → FVal) : Prop := Ready s i →
      let free := max s.myCore.vectorFree s.clk + n * (vectorShare s.lock.level).2
      ∃ v u, exec i s = .next u ∧ u.me.st = .removed (.iterative vd v free) ∧ u.myCore.vectorFree = free ∧ u.me.pc = nextPc s.me 4 ∧ u.me.v = s.me.v ∧
        ∀ j, j < 512 / w → lane w v j = if bit (s.me.mask m) j then
          BitVec.ofNat w (f.pack .rne (F (f.value (lane w (s.me.v.get va) j).toNat) (f.value (lane w (s.me.v.get vb) j).toNat)))
          else lane w (s.me.v.get vd) j
    done (.vdiv t vd va vb m) 20 FVal.div ∧ done (.vrcp t vd va m) 14 (fun a _ => (FVal.fin false 1 0).div a) ∧
      done (.vrsq t vd va m) 16 (fun a _ => a.rsqrt) ∧ done (.vexp2 t vd va m) 18 (fun a _ => a.exp2) ∧
      done (.vlog2 t vd va m) 18 (fun a _ => a.log2)) ∧
  (∀ (s : State) (c : Nat) (k : Fin 16) (vd : Fin 16) (v : Vec) (n : Nat), (s.thread c k).st = .removed (.iterative vd v n) → n ≤ s.clk →
    Calm s c k → ∃ t, exec (.iterativeComplete c k) s = .next t ∧ t.thread c k =
      { (s.thread c k).run.setV vd v with nextIssue := max (s.thread c k).nextIssue (s.clk + 1) }) ∧
  (∀ (a b : Bool) (m n : Nat) (e g : Int), m ≠ 0 →
    (FVal.fin a m e).div (.fin b 0 g) = .inf (a != b) ∧ (FVal.fin a 0 e).div (.fin b 0 g) = .nan ∧ (FVal.inf a).div (.inf b) = .nan ∧
    (FVal.fin a 0 e).rsqrt = .inf a ∧ (FVal.inf false).rsqrt = .fin false 0 0 ∧ (FVal.inf true).rsqrt = .nan ∧
    (FVal.fin true m e).rsqrt = .nan ∧ (FVal.inf true).exp2 = .fin false 0 0 ∧ (FVal.inf false).exp2 = .inf false ∧
    (FVal.fin a 0 e).exp2 = .fin false 1 0 ∧ (FVal.fin a 0 e).log2 = .inf true ∧ (FVal.inf false).log2 = .inf false ∧
    (FVal.inf true).log2 = .nan ∧ (FVal.fin true m e).log2 = .nan ∧ (FVal.fin false (2 ^ n) (-n)).log2 = .fin false 0 0 ∧
    (FVal.nan).exp2 = .nan ∧ (FVal.nan).log2 = .nan ∧ (FVal.nan).rsqrt = .nan)

/-- Float lane instructions round the exact result: the claims above. -/
def Obligations.FloatLaneResults : Prop := Claims.FloatLanes ∧ Claims.IterativeResults

/-- Integer lanes wrap, or saturate to signed lanes where the modifier says so; a shift counts modulo the width of its lane; logical instructions
work on bytes (06 R112, R116, R117). -/
def Claims.IntegerLanes : Prop :=
  (∀ (s : State) (t : IType) (vd va vb : Fin 16) (m : Fin 4),
    let w := intBits t
    let a := fun j => lane w (s.me.v.get va) j
    let b := fun j => lane w (s.me.v.get vb) j
    let done (i : Instr) (F : Nat → BitVec w) : Prop := Ready s i →
      ∃ v, exec i s = .next ((s.setMe (s.me.setV vd v)).advance i) ∧
        ∀ j, j < 512 / w → lane w v j = if bit (s.me.mask m) j then F j else lane w (s.me.v.get vd) j
    let clamp (z : Int) : BitVec w := BitVec.ofInt w (max (-(2 ^ (w - 1))) (min (2 ^ (w - 1) - 1) z))
    done (.viadd t vd va vb m false) (fun j => a j + b j) ∧
    done (.viadd t vd va vb m true) (fun j => clamp ((a j).toInt + (b j).toInt)) ∧
    done (.visub t vd va vb m false) (fun j => a j - b j) ∧
    done (.visub t vd va vb m true) (fun j => clamp ((a j).toInt - (b j).toInt)) ∧
    done (.vimul t vd va vb m) (fun j => a j * b j) ∧
    done (.vimax t vd va vb m) (fun j => BitVec.ofInt w (max (a j).toInt (b j).toInt)) ∧
    done (.vimin t vd va vb m) (fun j => BitVec.ofInt w (min (a j).toInt (b j).toInt)) ∧
    done (.vshl t vd va vb m) (fun j => BitVec.ofNat w ((a j).toNat * 2 ^ ((b j).toNat % w))) ∧
    done (.vshrN t vd va vb m) (fun j => BitVec.ofNat w ((a j).toNat / 2 ^ ((b j).toNat % w))) ∧
    done (.vshrI t vd va vb m) (fun j => BitVec.ofInt w ((a j).toInt / 2 ^ ((b j).toNat % w)))) ∧
  (∀ (s : State) (vd va vb : Fin 16) (m : Fin 4),
    let done (i : Instr) (F : Nat → Byte) : Prop := Ready s i →
      ∃ v, exec i s = .next ((s.setMe (s.me.setV vd v)).advance i) ∧
        ∀ j, j < 64 → lane 8 v j = if bit (s.me.mask m) j then F j else lane 8 (s.me.v.get vd) j
    done (.vand vd va vb m) (fun j => lane 8 (s.me.v.get va) j &&& lane 8 (s.me.v.get vb) j) ∧
    done (.vor vd va vb m) (fun j => lane 8 (s.me.v.get va) j ||| lane 8 (s.me.v.get vb) j) ∧
    done (.vxor vd va vb m) (fun j => lane 8 (s.me.v.get va) j ^^^ lane 8 (s.me.v.get vb) j))

/-- vcmp writes every bit of its mask register: those of enabled lanes whose condition holds (a NaN makes ne hold and the others not; -0 equals +0);
vsel chooses whole lanes by the stored mask; the mask instructions work on all 64 stored bits, those of m0 included (06 R118, R119, R128). -/
def Claims.CompareSelectAndMasks : Prop :=
  (∀ (s : State) (cc : Cond) (t : CmpType) (md : Fin 4) (va vb : Fin 16) (m : Fin 4), Ready s (.vcmp cc t md va vb m) →
    let w := cmpBits t
    let a := fun j => lane w (s.me.v.get va) j
    let b := fun j => lane w (s.me.v.get vb) j
    ∃ r : Word, exec (.vcmp cc t md va vb m) s = .next ((s.setMe (s.me.setM md r)).advance (.vcmp cc t md va vb m)) ∧
      ∀ j, j < 64 → (bit r j = true ↔ j < 512 / w ∧ bit (s.me.mask m) j = true ∧
        (t ∈ [.i8, .i16, .i32, .i64] → ((cc = .eq ∧ a j = b j) ∨ (cc = .ne ∧ a j ≠ b j) ∨ (cc = .ltI ∧ (a j).toInt < (b j).toInt) ∨
          (cc = .geI ∧ (b j).toInt ≤ (a j).toInt) ∨ (cc = .ltN ∧ (a j).toNat < (b j).toNat) ∨ (cc = .geN ∧ (b j).toNat ≤ (a j).toNat))) ∧
        (∀ f : Fmt, (t = .f32 ∧ f = fF32 ∨ t = .bf16 ∧ f = fBf16 ∨ t = .f16 ∧ f = fF16) →
          let x := f.value (a j).toNat
          let y := f.value (b j).toNat
          (x = .nan ∨ y = .nan → cc = .ne) ∧
          (x ≠ .nan → y ≠ .nan → (cc = .eq ∧ x.lt false y = false ∧ y.lt false x = false) ∨
            (cc = .ne ∧ (x.lt false y = true ∨ y.lt false x = true)) ∨ (cc = .ltI ∧ x.lt false y = true) ∨
            (cc = .geI ∧ x.lt false y = false))))) ∧
  (∀ (s : State) (t : IType) (vd va vb : Fin 16) (m : Fin 4), Ready s (.vsel t vd va vb m) →
    ∃ v, exec (.vsel t vd va vb m) s = .next ((s.setMe (s.me.setV vd v)).advance (.vsel t vd va vb m)) ∧
      ∀ j, j < 512 / intBits t → lane (intBits t) v j =
        lane (intBits t) (if bit (s.me.mask m) j then s.me.v.get va else s.me.v.get vb) j) ∧
  (∀ (s : State) (md ma mb : Fin 4) (a : Src),
    (Ready s (.mset md a) → exec (.mset md a) s =
      .next (((after1 s a).setMe ((after1 s a).me.setM md (val1 s a))).advance (.mset md a))) ∧
    (Ready s (.mand md ma mb) → exec (.mand md ma mb) s =
      .next ((s.setMe (s.me.setM md (s.me.m.get ma &&& s.me.m.get mb))).advance (.mand md ma mb))) ∧
    (Ready s (.mor md ma mb) → exec (.mor md ma mb) s =
      .next ((s.setMe (s.me.setM md (s.me.m.get ma ||| s.me.m.get mb))).advance (.mor md ma mb))) ∧
    (Ready s (.mnot md ma) → exec (.mnot md ma) s =
      .next ((s.setMe (s.me.setM md (~~~s.me.m.get ma))).advance (.mnot md ma))) ∧
    (Ready s (.mmov md ma) → exec (.mmov md ma) s =
      .next ((s.setMe (s.me.setM md (s.me.m.get ma))).advance (.mmov md ma))))

/-- Integer lane instructions, comparison, selection and masks: the claims above. -/
def Obligations.IntegerLaneResults : Prop := Claims.IntegerLanes ∧ Claims.CompareSelectAndMasks

/-- vcvt converts L lanes: a narrowing one into part P of its destination, whose other elements stay, any other from part P of its source. Between
integers it clamps, from integers and between floating formats it rounds once in the mode named, and from a floating format to an integer it rounds in the
mode named and clamps, a NaN giving zero (06 R120, R121; 03 R62-R65). -/
def Claims.Conversions : Prop :=
  (∀ (s : State) (td ts : CvtType) (vd va : Fin 16) (part : BitVec 4) (m : Fin 4) (r : Rounding), Ready s (.vcvt td ts vd va part m r) →
    wellFormed (.vcvt td ts vd va part m r) = true →
    let wd := 8 * td.bytes
    let ws := 8 * ts.bytes
    let l := 512 / max wd ws
    let p := part.toNat * l
    ∃ v, exec (.vcvt td ts vd va part m r) s = .next ((s.setMe (s.me.setV vd v)).advance (.vcvt td ts vd va part m r)) ∧
      (wd < ws → ∀ j, j < 512 / wd → (lane wd v j).toNat =
        if p ≤ j ∧ j < p + l ∧ bit (s.me.mask m) (j - p) = true then convert td ts r (lane ws (s.me.v.get va) (j - p)).toNat
        else (lane wd (s.me.v.get vd) j).toNat) ∧
      (ws ≤ wd → ∀ j, j < l → (lane wd v j).toNat =
        if bit (s.me.mask m) j then convert td ts r (lane ws (s.me.v.get va) (p + j)).toNat else (lane wd (s.me.v.get vd) j).toNat)) ∧
  (∀ (r : Rounding) (a : Nat),
    convert .i8 .i32 r a = (BitVec.ofInt 8 (max (-128) (min 127 (sval 32 a)))).toNat ∧
    convert .i32 .i8 r a = (BitVec.ofInt 32 (sval 8 a)).toNat ∧
    convert .f32 .i32 r a = fF32.round r (decide (sval 32 a < 0)) (sval 32 a).natAbs 0 ∧
    convert .bf16 .f32 r a = fBf16.pack r (fF32.value a) ∧ convert .e4m3 .f32 r a = fE4m3.pack r (fF32.value a) ∧
    (fF32.value a = .nan → convert .i32 .f32 r a = 0) ∧ (fF32.value a = .inf false → convert .i32 .f32 r a = 0x7FFFFFFF) ∧
    (fF32.value a = .inf true → convert .i32 .f32 r a = 0x80000000)) ∧
  ([CvtType.f32, .bf16, .f16, .e4m3, .e5m2, .i8, .i16, .i32].map cvtFmt =
    [some fF32, some fBf16, some fF16, some fE4m3, some fE5m2, none, none, none]) ∧
  (∀ (td ts : CvtType) (r : Rounding) (a : Nat),
    let w := 8 * td.bytes
    let z := sval (8 * ts.bytes) a
    let clamp (z : Int) : Nat := (BitVec.ofInt w (max (-(2 ^ (w - 1))) (min (2 ^ (w - 1) - 1) z))).toNat
    (cvtFmt td = none → cvtFmt ts = none → convert td ts r a = clamp z) ∧
    (∀ f, cvtFmt td = some f → cvtFmt ts = none → convert td ts r a = f.round r (decide (z < 0)) z.natAbs 0) ∧
    (∀ f g, cvtFmt td = some f → cvtFmt ts = some g → convert td ts r a = f.pack r (g.value a)) ∧
    (∀ g, cvtFmt td = none → cvtFmt ts = some g →
      (g.value a = .nan → convert td ts r a = 0) ∧
      (g.value a = .inf false → convert td ts r a = 2 ^ (w - 1) - 1) ∧
      (g.value a = .inf true → convert td ts r a = 2 ^ (w - 1)) ∧
      (∀ (neg : Bool) (m : Nat) (e : Int), g.value a = .fin neg m e →
        let q : Nat := if 0 ≤ e then m * 2 ^ e.toNat else roundShift r neg m (-e).toNat
        convert td ts r a = clamp (if neg then -(q : Int) else q)))) ∧
  (∀ (neg : Bool) (m d : Nat),
    let down := m / 2 ^ d
    let up := (m + 2 ^ d - 1) / 2 ^ d
    roundShift .rtz neg m d = down ∧ roundShift .rdn neg m d = (if neg then up else down) ∧
      roundShift .rup neg m d = if neg then down else up)

/-- Byte permutation, lane shuffle, splat and lane transfer move bits; a queue or port may be the scalar operand (06 R122-R125). -/
def Claims.LaneMoves : Prop :=
  (∀ (s : State) (vd va vb vc : Fin 16) (m : Fin 4),
    (Ready s (.vpermB vd va vb m) → ∃ v, exec (.vpermB vd va vb m) s = .next ((s.setMe (s.me.setV vd v)).advance (.vpermB vd va vb m)) ∧
      ∀ j, j < 64 → let x := lane 8 (s.me.v.get vb) j
        lane 8 v j = if bit (s.me.mask m) j then (if bit x 7 then 0 else lane 8 (s.me.v.get va) (x.toNat % 64)) else lane 8 (s.me.v.get vd) j) ∧
    (Ready s (.vshuf vd va vb vc m) → ∃ v, exec (.vshuf vd va vb vc m) s =
      .next ((s.setMe (s.me.setV vd v)).advance (.vshuf vd va vb vc m)) ∧
      ∀ j, j < 16 → let x := lane 32 (s.me.v.get vc) j
        lane 32 v j = if bit (s.me.mask m) j then (if bit x 31 then 0 else
          lane 32 (if bit x 4 then s.me.v.get vb else s.me.v.get va) (x.toNat % 16)) else lane 32 (s.me.v.get vd) j)) ∧
  (∀ (s : State) (sz : Size) (vd : Fin 16) (a : Src) (m : Fin 4), Ready s (.vsplat sz vd a m) →
    ∃ v, exec (.vsplat sz vd a m) s = .next (((after1 s a).setMe ((after1 s a).me.setV vd v)).advance (.vsplat sz vd a m)) ∧
      ∀ j, j < 64 / sz.bytes → (lane (8 * sz.bytes) v j).toNat = if bit (s.me.mask m) j then (val1 s a).toNat % 2 ^ (8 * sz.bytes)
        else (lane (8 * sz.bytes) (s.me.v.get vd) j).toNat) ∧
  (∀ (s : State) (sz : Size) (n : BitVec 6) (va : Fin 16) (d : Dst), Ready s (.vextr sz n va d) →
    exec (.vextr sz n va d) s = .next (s.result (.vextr sz n va d) d
      (BitVec.ofNat 64 ((s.me.v.get va).toNat / 2 ^ (8 * sz.bytes * n.toNat) % 2 ^ (8 * sz.bytes))))) ∧
  (∀ (s : State) (sz : Size) (n : BitVec 6) (vd : Fin 16) (a : Src), Ready s (.vinsr sz n vd a) → n.toNat < 64 / sz.bytes →
    ∃ v, exec (.vinsr sz n vd a) s = .next (((after1 s a).setMe ((after1 s a).me.setV vd v)).advance (.vinsr sz n vd a)) ∧
      ∀ j, j < 64 / sz.bytes → (lane (8 * sz.bytes) v j).toNat = if j = n.toNat then (val1 s a).toNat % 2 ^ (8 * sz.bytes)
        else (lane (8 * sz.bytes) (s.me.v.get vd) j).toNat)

/-- Conversions and lane moves: the claims above. -/
def Obligations.ConversionsAndMoves : Prop := Claims.Conversions ∧ Claims.LaneMoves

/-- A reduction pairs neighbours in a tree over 16 lanes, or sums and compares 32 bf16 lanes, with an identity for each disabled lane, and zeroes
the rest of its destination; vdot4 adds four signed byte products to each lane (06 R126, R127; 03 R71-R73). -/
def Obligations.Reductions : Prop :=
  (∀ (s : State) (vd va : Fin 16) (m : Fin 4),
    let x (unit : Nat) (j : Nat) : Nat := if bit (s.me.mask m) j then (lane 32 (s.me.v.get va) j).toNat else unit
    let tree (f : Nat → Nat → Nat) (u : Nat) : Nat :=
      let p (j : Nat) := f (x u (2 * j)) (x u (2 * j + 1))
      let q (j : Nat) := f (p (2 * j)) (p (2 * j + 1))
      f (f (q 0) (q 1)) (f (q 2) (q 3))
    let done (i : Instr) (r : Nat) : Prop := Ready s i → exec i s = .next ((s.setMe (s.me.setV vd (BitVec.ofNat 512 r))).advance i)
    done (.vredAdd .f32 vd va m) (tree fF32.addOf 0x80000000) ∧
    done (.vredMax .f32 vd va m) (tree fF32.maxOf 0xFF800000) ∧
    done (.vredMin .f32 vd va m) (tree fF32.minOf 0x7F800000) ∧
    done (.vredAdd .i32 vd va m) (((List.range 16).map (x 0)).sum % 2 ^ 32) ∧
    (Ready s (.vredMax .i32 vd va m) → ∃ r : W32, exec (.vredMax .i32 vd va m) s =
      .next ((s.setMe (s.me.setV vd (r.setWidth 512))).advance (.vredMax .i32 vd va m)) ∧
      (∀ j, j < 16 → sval 32 (x 0x80000000 j) ≤ r.toInt) ∧ ∃ j, j < 16 ∧ r.toInt = sval 32 (x 0x80000000 j)) ∧
    (Ready s (.vredMin .i32 vd va m) → ∃ r : W32, exec (.vredMin .i32 vd va m) s =
      .next ((s.setMe (s.me.setV vd (r.setWidth 512))).advance (.vredMin .i32 vd va m)) ∧
      (∀ j, j < 16 → r.toInt ≤ sval 32 (x 0x7FFFFFFF j)) ∧ ∃ j, j < 16 ∧ r.toInt = sval 32 (x 0x7FFFFFFF j))) ∧
  (∀ (s : State) (vd va : Fin 16) (m : Fin 4), Ready s (.vredAdd .bf16 vd va m) →
    ∃ x : FVal, exec (.vredAdd .bf16 vd va m) s =
      .next ((s.setMe (s.me.setV vd (BitVec.ofNat 512 (fF32.pack .rne x)))).advance (.vredAdd .bf16 vd va m)) ∧
      x = (List.range 32).foldl (fun y j => if bit (s.me.mask m) j then y.add (fBf16.value (lane 16 (s.me.v.get va) j).toNat)
        else y.add (.fin true 0 fBf16.emin)) (.fin true 0 0)) ∧
  (∀ (s : State) (vd va : Fin 16) (m : Fin 4),
    let y (unit : Nat) (j : Nat) : Nat := if bit (s.me.mask m) j then (lane 16 (s.me.v.get va) j).toNat else unit
    let done (i : Instr) (f : Nat → Nat → Nat) (u : Nat) : Prop := Ready s i → exec i s = .next ((s.setMe (s.me.setV vd (BitVec.ofNat 512
      (fF32.pack .rne (fBf16.value ((List.range 31).foldl (fun z j => f z (y u (j + 1))) (y u 0))))))).advance i)
    done (.vredMax .bf16 vd va m) fBf16.maxOf 0xFF80 ∧ done (.vredMin .bf16 vd va m) fBf16.minOf 0x7F80) ∧
  (∀ (s : State) (vd va vb vc : Fin 16) (m : Fin 4), Ready s (.vdot4 vd va vb vc m) →
    ∃ v, exec (.vdot4 vd va vb vc m) s = .next ((s.setMe (s.me.setV vd v)).advance (.vdot4 vd va vb vc m)) ∧
      ∀ j, j < 16 →
        let p (k : Nat) : Int := (lane 8 (s.me.v.get va) (4 * j + k)).toInt * (lane 8 (s.me.v.get vb) (4 * j + k)).toInt
        lane 32 v j = if bit (s.me.mask m) j then BitVec.ofInt 32 ((lane 32 (s.me.v.get vc) j).toInt + (p 0 + p 1 + p 2 + p 3))
          else lane 32 (s.me.v.get vd) j)

/-- The weir neither loses nor overflows: from a column whose accumulator lies in the band and whose queues hold at most eight terms of their sign,
each within Tmax, a cycle with a term within Tmax leaves such a column again and adds exactly that term to what the column holds; a drain leaves
the queues empty and the sum in S and the ponds (07 R133-R136). -/
def Claims.WeirIsExact : Prop :=
  ∀ (h tmax : Nat) (c : Column), tmax ≤ h →
    let ok (c : Column) : Prop := c.s.natAbs ≤ h ∧ c.u.length ≤ 8 ∧ c.d.length ≤ 8 ∧ (∀ x ∈ c.u, 0 < x ∧ x ≤ tmax) ∧
      (∀ x ∈ c.d, -tmax ≤ x ∧ x < 0)
    let total (c : Column) : Int := c.s + c.u.sum + c.d.sum + c.pp + c.pm
    ok c →
    (∀ t : Int, t.natAbs ≤ tmax → ok (c.cycle h t).1 ∧ total (c.cycle h t).1 = total c + t) ∧
    ok (c.drain h).1 ∧ (c.drain h).1.u = [] ∧ (c.drain h).1.d = [] ∧ (c.drain h).1.value = total c

/-- A run of any form adds to every output column the exact sum of its weights' digits times the activations of a row. wrun.o leaves the sums in the
columns. wrun and wrun.c end a row: while every value fits the output, or the format saturates, the rows are those values, clamped to 16, 24 or 48
bits (all but the last written, the last still to come); the first row with a value outside ends the run by overtopping, with a mask of those columns
and the rows before it written. An i48 output takes half the columns. That all rows but the last are written as the run gains the weir is the model's choice (log entry 14; 07 R131, R132, R136, R139, R140). -/
def Claims.WeirRowExact : Prop :=
  ∀ (s : State) (c : Nat) (k : Fin 16) (mode kt n a b : Nat) (w : W32) (len : Nat),
    let x := s.getCore c
    let g := runCfg (x.slots.get k)
    let outs := if g.width = 48 then 32 else 64
    let bytes := if g.width = 16 then 2 else if g.width = 24 then 4 else 8
    let row := outs * bytes
    let col (m : Nat) := if g.width = 48 then 32 * g.half + m else m
    let place (m : Nat) := if g.width = 48 then 2 * m else m
    let base (t : Nat) := g.base + t * tileBytes g.elem
    let tile (t : Nat) : List Byte := rawRead s (wbKey c (base t)) (tileBytes g.elem)
    let digit (t p j m : Nat) : Int := ((tileDigits g.elem p (tile t)).getD j []).getD (col m) 0
    let act (r t j : Nat) : Int := (Memory.get s.mem (lsKey c (a + 64 * (kt * r + t)) + j)).toInt
    let sum (r m : Nat) : Int := ((List.range kt).map fun t => ((List.range (planes g.elem)).map fun p =>
      4 ^ p * ((List.range 64).map fun j => digit t p j m * act r t j).sum).sum).sum
    let total (y : Column) : Int := y.s + y.u.sum + y.d.sum + y.pp + y.pm
    let goesOn := mode ≠ 0 ∧ x.weir.owner = some k
    let before (m : Nat) : Int := if goesOn then total (x.weir.data.cols.getD (place m) {}) else 0
    let value (r m : Nat) : Int := before m + sum r m
    let lo : Int := -(2 ^ (g.width - 1))
    let hi : Int := 2 ^ (g.width - 1) - 1
    let fits (r m : Nat) : Prop := lo ≤ value r m ∧ value r m ≤ hi
    let rowIs (r : Nat) (bs : List Byte) : Prop := bs.length = row ∧
      ∀ m, m < outs → bytesNat ((bs.drop (bytes * m)).take bytes) = (BitVec.ofInt (8 * bytes) (max lo (min hi (value r m)))).toNat
    let written (t : State) (n : Nat) : Prop := MemoryKeepsOutside s t (lsKey c b) (row * n) ∧
      ∀ r, r < n → rowIs r (rawRead t (lsKey c (b + row * r)) row)
    x.weir.exec = none → nextJob x = some (k, .run mode kt n a b) → (x.slots.get k).st = .removed (.weir w len) → runsStopped s = false →
    Inv s → weightOk g.elem = true → (g.width = 16 ∨ g.width = 24 ∨ g.width = 48) →
    (mode = 0 ∧ 0 < n ∨ (mode = 1 ∨ mode = 2) ∧ n = 1) → (goesOn → x.weir.data.cols.length = 64) →
    a + 64 * kt * n ≤ 262144 → (mode ≠ 1 → b + row * n ≤ 262144 ∧ (a + 64 * kt * n ≤ b ∨ b + row * n ≤ a)) →
    (∀ t, t < kt * n → poisoned s (lsKey c (a + 64 * t)) 64 = false) →
    (∀ t, t < kt → poisoned s (wbKey c (base t)) (tileBytes g.elem) = false ∧ ∀ v ∈ tile t, reservedCode g.elem v = false) →
    ∃ t e, exec (.weirRunGrant c) s = .next t ∧ (t.getCore c).weir.exec = some e ∧
      (mode = 1 → e.fin = .ok ∧ e.last = none ∧ MemoryKeeps s t ∧ e.after.cols.length = 64 ∧
        ∀ m, m < outs → total (e.after.cols.getD (place m) {}) = value 0 m) ∧
      (mode ≠ 1 → (∀ r m, r < n → m < outs → fits r m) ∨ g.sat = true → e.fin = .ok ∧ written t (n - 1) ∧
        ∃ bs, e.last = some (b + row * (n - 1), bs) ∧ rowIs (n - 1) bs) ∧
      (∀ r, mode ≠ 1 → r < n → (∀ q m, q < r → m < outs → fits q m) → (∃ m, m < outs ∧ ¬ fits r m) → g.sat = false →
        ∃ v : Word, e.fin = .overtop r v ∧ e.last = none ∧ written t r ∧ ∀ m, m < 64 → (bit v m = true ↔ m < outs ∧ ¬ fits r m))

/-- Weir runs give the exact sums over their weights, row by row: the claims above. -/
def Obligations.WeirRowExact : Prop := Claims.WeirIsExact ∧ Claims.WeirRowExact

/-- wld checks the weight format, its lines and its segment, and removes its thread until every line is in the buffer; runs over those lines that
issued earlier come first, and then kind 0 moves a line a cycle. A page that faults leaves the lines before it written and parks the thread (07
R137, R138). -/
def Claims.WeightLoads : Prop :=
  (∀ (s : State) (sg : Fin 8) (a b : Src), Ready s (.wld sg a b) →
    let u := after2 s a b
    let ctl := val2 s a b
    let first := (fld ctl 0 10 : BitVec 10).toNat
    let lines := (fld ctl 10 11 : BitVec 11).toNat
    let good := illFormed u.me.fw false = false ∧ weightOk (elemOf u.me.fw) = true
    (¬ good → ∃ t, exec (.wld sg a b) s = .next t ∧ Trapped u t 0x07 1 0) ∧
    (good → 1024 - first < lines → ∃ t, exec (.wld sg a b) s = .next t ∧ TrappedOpen u t 0x03) ∧
    (∀ c, good → lines ≤ 1024 - first → checkAccess u (u.me.sg.get sg) (.wld first lines) (val1 s a) 0 = .error c →
      (u.me.sg.get sg).kind ≠ 1 → ∃ t, exec (.wld sg a b) s = .next t ∧ Trapped u t c (val1 s a) 0) ∧
    (good → lines ≤ 1024 - first → (u.me.sg.get sg).kind = 1 →
      ∃ t, exec (.wld sg a b) s = .next t ∧ Trapped u t 0x04 (val1 s a) 0) ∧
    (∀ p, good → lines ≤ 1024 - first → checkAccess u (u.me.sg.get sg) (.wld first lines) (val1 s a) 0 = .ok p →
      (lines = 0 → exec (.wld sg a b) s = .next (u.advance (.wld sg a b))) ∧
      (lines ≠ 0 → ∃ t x, exec (.wld sg a b) s = .next t ∧ t.me = { u.me with st := .removed (.wld x none), since := u.clk } ∧ t.mem = u.mem ∧
        x.op = .wld first lines ∧ x.addr = p ∧ x.kind = (u.me.sg.get sg).kind ∧ x.owner = (u.me.sg.get sg).owner u.core ∧
        x.pc = u.me.pc ∧ x.len = lengthOf (.wld sg a b)))) ∧
  (∀ (s : State) (c : Nat) (k : Fin 16) (x : Access) (began : Option Nat) (first lines : Nat),
    (s.thread c k).st = .removed (.wld x began) → x.op = .wld first lines → Inv s → Calm s c k →
    let cl := clusterOf c
    let asid := asidOf s (s.thread c k) k
    let found := firstBad s cl asid 0 x.pages
    let loaded (t : State) (n : Nat) (bs : List Byte) : Prop :=
      rawRead t (wbKey c (64 * first)) (64 * n) = bs ∧ MemoryKeepsOutside s t (wbKey c (64 * first)) (64 * n)
    let done (bs : List Byte) : Prop := ∃ t, exec (.wldComplete c k) s = .next t ∧ loaded t lines bs ∧
      t.thread c k = (s.thread c k).run.performed (x.pc + BitVec.ofNat 64 x.len)
    (began = none → runsOver (s.getCore c) (s.thread c k) first lines = true → exec (.wldComplete c k) s = .next s) ∧
    (began = none → runsOver (s.getCore c) (s.thread c k) first lines = false →
      exec (.wldComplete c k) s = .next (s.setThread c k { s.thread c k with st := .removed (.wld x (some s.clk)) })) ∧
    (∀ b, began = some b →
      (x.kind = 0 → s.clk < b + lines → exec (.wldComplete c k) s = .next s) ∧
      (x.kind = 0 → b + lines ≤ s.clk → done (rawRead s (lsKey c x.addr) (64 * lines))) ∧
      (x.kind = 2 → done (rawRead s (basinKey x.owner x.addr) (64 * lines))) ∧
      (x.kind = 3 → found = none → x.busy s cl asid = false → done (dvaBytes s cl asid x.addr (64 * lines))) ∧
      (x.kind = 3 → found = none → x.busy s cl asid = true → exec (.wldComplete c k) s = .next s) ∧
      (∀ p, x.kind = 3 → found = some (p, none) → exec (.wldComplete c k) s = .next s) ∧
      (∀ p code, x.kind = 3 → found = some (p, some code) → k.val ≠ 1 →
        let dva := max x.addr (p * 65536)
        let n := (p * 65536 - x.addr) / 64
        ∃ t, exec (.wldComplete c k) s = .next t ∧ loaded t n (dvaBytes s cl asid x.addr (64 * n)) ∧
          OnItsWay t (senderCtu cl) (threadFault s c k code 0 dva) ∧
          t.thread c k = { s.thread c k with st := .parked { fault := some (code, dva), acc := some (false, x) } })))

/-- The run forms check their run state, formats, strip and ranges in one order, and trap with the offset of the range at fault, then join the queue of the weir with their thread Removed; a wrun
of no rows completes; a run-state fault traps 0x07 with info 3, clears the run-open flag and is recorded, also in what another slot's run leaves (07 R130, R131, R140, R141). -/
def Claims.WeirRunForms : Prop :=
  ∀ (s : State) (i : Instr) (mode kt : Nat) (u : State) (a b n : Word), Ready s i →
    ((∃ kf N A B, i = .wrun kf N A B ∧ mode = 0 ∧ kt = kf.toNat + 1 ∧ a = val1 s A ∧ b = val2 s A B ∧ n = val3 s A B N ∧
        u = after3 s A B N) ∨
      (∃ kf A, i = .wrunO kf A ∧ mode = 1 ∧ kt = kf.toNat + 1 ∧ a = val1 s A ∧ b = 0 ∧ n = 1 ∧ u = after1 s A) ∨
      (∃ kf A B, i = .wrunC kf A B ∧ mode = 2 ∧ kt = kf.toNat + 1 ∧ a = val1 s A ∧ b = val2 s A B ∧ n = 1 ∧ u = after2 s A B)) →
    let t0 := u.me
    let own := u.myCore.weir.owner = some u.slot ∧ u.myCore.weir.tiles + kt ≤ 4096
    let stateOk := (mode = 0 ∧ t0.runOpen = false) ∨ (mode = 1 ∧ (t0.runOpen = true → own)) ∨ (mode = 2 ∧ t0.runOpen = true ∧ own)
    let width := outBits (elemOf t0.fo)
    let low : BitVec 2 := fld t0.wb 0 2
    let wbOk := low = 0 ∨ (width = 48 ∧ low = 1)
    let strip := t0.wb.toNat / 4 * 4 + kt * tileBytes (elemOf t0.fw)
    (¬ stateOk → ∃ t, exec i s = .next t ∧ t.me = { t0 with runOpen := false, dogDue := false, st := .parked { cause := 0x07 } } ∧
      OnItsWay t (senderThread u.core u.slot) (trapRecord u 0x07 3 0) ∧
      (u.myCore.weir.owner = some u.slot → t.myCore.weir.owner = none) ∧ bit t.myCore.weir.data.sticky 4 = true ∧
      (u.myCore.weir.data.reason = 0 → t.myCore.weir.data.reason = 5 ∧ t.myCore.weir.data.slot.toNat = u.slot.val) ∧
      (∀ e, u.myCore.weir.exec = some e → ∃ e', t.myCore.weir.exec = some e' ∧ bit e'.after.sticky 4 = true ∧
        (e.after.reason = 0 → e'.after.reason = 5 ∧ e'.after.slot.toNat = u.slot.val))) ∧
    (stateOk → ∀ f, formatFault t0 = some f → ∃ t, exec i s = .next t ∧ Trapped u t 0x07 (BitVec.ofNat 64 f) 0) ∧
    (stateOk → formatFault t0 = none → ¬ wbOk → ∃ t, exec i s = .next t ∧ TrappedOpen u t 0x06) ∧
    (stateOk → formatFault t0 = none → wbOk → 65536 < strip → ∃ t, exec i s = .next t ∧ TrappedOpen u t 0x03) ∧
    (stateOk → formatFault t0 = none → wbOk → strip ≤ 65536 → n = 0 → exec i s = .next (u.advance i)) ∧
    (stateOk → formatFault t0 = none → wbOk → strip ≤ 65536 → n ≠ 0 → (t0.sg.get 0).kind ≠ 0 →
      ∃ t, exec i s = .next t ∧ Trapped u t 0x04 a 0) ∧
    (∀ cause, stateOk → formatFault t0 = none → wbOk → strip ≤ 65536 → n ≠ 0 → (t0.sg.get 0).kind = 0 →
      segCheck u (t0.sg.get 0) a.toNat (64 * kt * n.toNat) needR 64 true = .error cause →
      ∃ t, exec i s = .next t ∧ Trapped u t cause a 0) ∧
    (∀ x cause, stateOk → formatFault t0 = none → wbOk → strip ≤ 65536 → n ≠ 0 → (t0.sg.get 0).kind = 0 → mode ≠ 1 →
      segCheck u (t0.sg.get 0) a.toNat (64 * kt * n.toNat) needR 64 true = .ok x →
      segCheck u (t0.sg.get 0) b.toNat (outRow width * n.toNat) needW 64 true = .error cause →
      ∃ t, exec i s = .next t ∧ Trapped u t cause b 0) ∧
    (∀ x y, stateOk → formatFault t0 = none → wbOk → strip ≤ 65536 → n ≠ 0 → (t0.sg.get 0).kind = 0 →
      segCheck u (t0.sg.get 0) a.toNat (64 * kt * n.toNat) needR 64 true = .ok x →
      (mode ≠ 1 → segCheck u (t0.sg.get 0) b.toNat (outRow width * n.toNat) needW 64 true = .ok y) → (mode = 1 → y = 0) →
      ∃ t, exec i s = .next t ∧ t.me = { t0 with st := .removed (.weir u.iword (lengthOf i)), since := u.clk } ∧ t.mem = u.mem ∧
        t.myCore.weir = { u.myCore.weir with waiting := u.myCore.weir.waiting ++ [(u.slot, .run mode kt n.toNat x y)] })

/-- Weight loads and the forms of a weir run: the claims above. -/
def Obligations.WeightLoadsAndRuns : Prop := Claims.WeightLoads ∧ Claims.WeirRunForms

/-- The first job in issue order that is not passed over takes a free weir: a run waits while the weir is held or another slot's run is open, and a
wclr of another slot than 0 while it is held. A run that may go, in a cycle that the governor does not gate (21 R335), holds it until its cycles are over; then its last row is written and its thread runs on, or it traps: 0x08
with the row and the columns, the weir held, for overtopping; 0x07 for a reserved code and 0x0A for poison, an open run of its own discarded. A record made
while it executed stays, but for an overtopping fault. That its last row alone is written at its end is the model's choice (log entry 14), as is which cycles the governor gates (log entry 55; 07
R136, R140-R143). -/
def Claims.WeirRunsEnd : Prop :=
  (∀ (s : State) (c : Nat) (k : Fin 16) (mode kt n a b : Nat) (w : W32) (len : Nat),
    (s.getCore c).weir.exec = none → nextJob (s.getCore c) = some (k, .run mode kt n a b) →
    (s.thread c k).st = .removed (.weir w len) →
    (runsStopped s = false → ∃ t e, exec (.weirRunGrant c) s = .next t ∧ (t.getCore c).weir.exec = some e ∧ e.slot = k ∧
      e.job = .run mode kt n a b ∧ s.clk ≤ e.doneAt ∧ (mode = 1 → (t.getCore c).weir.owner = some k ∧ (t.thread c k).runOpen = true)) ∧
    (runsStopped s = true → exec (.weirRunGrant c) s = .next s) ∧ (6 ≤ s.lock.level → runsStopped s = true)) ∧
  (∀ (x : Core) (k : Fin 16) (j : WeirJob), nextJob x = some (k, j) → ∃ pre post, x.weir.waiting = pre ++ (k, j) :: post ∧
    ∀ p ∈ pre, (∃ mode kt n a b, p.2 = .run mode kt n a b ∧ (x.weir.held = true ∨ ∃ o, x.weir.owner = some o ∧ o ≠ p.1)) ∨
      (p.2 = .clr ∧ x.weir.held = true ∧ p.1 ≠ 0)) ∧
  (∀ (s : State) (c : Nat) (e : WeirExec) (mode kt n a b : Nat) (w : W32) (len : Nat), (s.getCore c).weir.exec = some e → Inv s →
    (s.thread c e.slot).st = .removed (.weir w len) → e.job = .run mode kt n a b →
    let live := (s.getCore c).weir.data
    let leaves (d : WeirData) : Prop :=
      d = if live.reason = 0 then e.after
        else { e.after with row := live.row, reason := live.reason, slot := live.slot, columns := live.columns }
    (s.clk < e.doneAt → exec (.weirRunComplete c) s = .next s ∧ exec (.weirOperandFault c) s = .next s) ∧
    (e.doneAt ≤ s.clk → e.fin = .ok → e.last = none → mode = 1 → Calm s c e.slot →
      ∃ t, exec (.weirRunComplete c) s = .next t ∧ (t.getCore c).weir.exec = none ∧ leaves (t.getCore c).weir.data ∧ MemoryKeeps s t ∧
        t.thread c e.slot = (s.thread c e.slot).run.performed (nextPc (s.thread c e.slot) len)) ∧
    (∀ o bs, e.doneAt ≤ s.clk → e.fin = .ok → e.last = some (o, bs) → Calm s c e.slot →
      ∃ t, exec (.weirRunComplete c) s = .next t ∧ (t.getCore c).weir.exec = none ∧ leaves (t.getCore c).weir.data ∧
        (mode = 2 → (t.getCore c).weir.owner = none) ∧ rawRead t (lsKey c o) bs.length = bs ∧ MemoryKeepsOutside s t (lsKey c o) bs.length ∧
        t.thread c e.slot = { (s.thread c e.slot).run with runOpen := if mode = 2 then false else (s.thread c e.slot).runOpen }.performed
          (nextPc (s.thread c e.slot) len)) ∧
    (∀ r m, e.doneAt ≤ s.clk → e.fin = .overtop r m → ∃ t, exec (.weirRunComplete c) s = .next t ∧ (t.getCore c).weir.held = true ∧
      (t.getCore c).weir.data = e.after ∧
      (t.thread c e.slot).st = .parked { cause := 0x08 } ∧ (t.thread c e.slot).pc = (s.thread c e.slot).pc ∧ MemoryKeeps s t ∧
      OnItsWay t (senderThread c e.slot) (mkRec (coreTa (coreAddress s c)) kK 0 (s.thread c e.slot).tag 0
        (trapPayload 0x08 e.slot.val false w (s.thread c e.slot).pc (BitVec.ofNat 64 r) m))) ∧
    (∀ r, e.doneAt ≤ s.clk → e.fin = .code r → ∃ t, exec (.weirOperandFault c) s = .next t ∧ MemoryKeeps s t ∧
      TrapTaken s t c e.slot 0x07 w (s.thread c e.slot).pc 3 (BitVec.ofNat 64 r) ∧ leaves (t.getCore c).weir.data ∧
      ((s.getCore c).weir.owner = some e.slot → (t.getCore c).weir.owner = none)) ∧
    (∀ r x y, e.doneAt ≤ s.clk → e.fin = .poison r x y → ∃ t, exec (.weirOperandFault c) s = .next t ∧ MemoryKeeps s t ∧
      TrapTaken s t c e.slot 0x0A w (s.thread c e.slot).pc x y))

/-- wacc reads S, an entry of a queue, a pond register or a cell of a column, wstat a status word and wclr clears the status: at once while the weir is
free, and otherwise in their turn (07 R142-R145). -/
def Claims.WeirReads : Prop :=
  (∀ (s : State) (col : BitVec 6) (d : Dst) (a : Src),
    let c := (s.myCore.weir.data.cols.getD col.toNat {})
    let u := after1 s a
    let cu := (u.myCore.weir.data.cols.getD col.toNat {})
    let n := (val1 s a).toNat
    (Ready s (.waccS col d) → weirFree s.myCore = true →
      exec (.waccS col d) s = .next (s.result (.waccS col d) d (BitVec.ofInt 64 c.s))) ∧
    (Ready s (.waccU col d a) → weirFree u.myCore = true →
      exec (.waccU col d a) s = .next (u.result (.waccU col d a) d (BitVec.ofInt 64 (cu.u.getD n 0)))) ∧
    (Ready s (.waccD col d a) → weirFree u.myCore = true →
      exec (.waccD col d a) s = .next (u.result (.waccD col d a) d (BitVec.ofInt 64 (cu.d.getD n 0)))) ∧
    (Ready s (.waccP col d a) → weirFree u.myCore = true → ∃ v, exec (.waccP col d a) s = .next (u.result (.waccP col d a) d v) ∧
      (n = 0 → v = BitVec.ofInt 64 cu.pp) ∧ (n = 1 → v = BitVec.ofInt 64 cu.pm) ∧ (2 ≤ n → n < 0x40 ∨ 0x80 ≤ n → v = 0) ∧
      (0x40 ≤ n → n < 0x80 → v.toNat = ((u.myCore.weir.data.cells.getD (n - 0x40) []).getD col.toNat 0).toNat)) ∧
    (Ready s (.wstat d a) → weirFree u.myCore = true → ∃ v, exec (.wstat d a) s = .next (u.result (.wstat d a) d v) ∧
      (n = 0 → v = weirStatus u.myCore.weir) ∧ (n = 1 → v = u.myCore.weir.data.columns) ∧
      (n = 2 → v = u.myCore.weir.data.passes ++ u.myCore.weir.data.diversions) ∧
      (n = 3 → v = u.myCore.weir.data.runs ++ u.myCore.weir.data.clamps) ∧ (4 ≤ n → v = 0)) ∧
    (Ready s .wclr → weirFree s.myCore = true → (s.myCore.weir.held = false ∨ s.slot = 0) →
      ∃ t, exec .wclr s = .next t ∧ t.me.pc = nextPc s.me 4 ∧ t.myCore.weir.data.columns = 0 ∧ t.myCore.weir.data.sticky = 0 ∧
        t.myCore.weir.data.reason = 0 ∧ t.myCore.weir.data.row = 0 ∧ t.myCore.weir.data.slot = 0 ∧ t.myCore.weir.data.passes = 0 ∧
        t.myCore.weir.data.diversions = 0 ∧ t.myCore.weir.data.runs = 0 ∧ t.myCore.weir.data.clamps = 0 ∧
        t.myCore.weir.data.cells = s.myCore.weir.data.cells ∧ t.myCore.weir.held = false ∧ t.myCore.weir.owner = s.myCore.weir.owner ∧
        t.myCore.weir.data.cols = s.myCore.weir.data.cols)) ∧
  (∀ (s u : State) (i : Instr) (a : Src), Ready s i → weirFree u.myCore = false →
    (u = s ∧ (i = .wclr ∨ ∃ col d, i = .waccS col d) ∨
      u = after1 s a ∧ (∃ col d, i = .waccU col d a ∨ i = .waccD col d a ∨ i = .waccP col d a ∨ i = .wstat d a)) →
    ∃ t, exec i s = .next t ∧ t.me.st = .removed (.weir u.iword (lengthOf i)) ∧ t.me.pc = u.me.pc ∧
      t.myCore.weir.waiting.length = u.myCore.weir.waiting.length + 1) ∧
  (∀ (s : State) (c : Nat) (k : Fin 16) (col : Nat) (d : Dst) (a : Word) (w : W32) (len : Nat),
    (s.getCore c).weir.exec = none → nextJob (s.getCore c) = some (k, .acc 0 col d a) → (s.thread c k).st = .removed (.weir w len) →
    Calm s c k → plainDst d = true → ∃ t, exec (.weirRunGrant c) s = .next t ∧
      t.thread c k = ((s.thread c k).run.putReg d (BitVec.ofInt 64 ((s.getCore c).weir.data.cols.getD col {}).s)).performed
        (nextPc (s.thread c k) len))

/-- How weir runs end, and reading the weir: the claims above. -/
def Obligations.WeirRunsEnd : Prop := Claims.WeirRunsEnd ∧ Claims.WeirReads

/-- spawn, post and msg check their operands, build their record, with their thread's tag, and put it on its way, the pc moving on; a T or M record
counts as created. A target that names no present core traps 0x05, a misaligned one 0x06, a range beyond the local store 0x03; when these checks
have passed, the instruction is held while a relaxed access of its thread is in flight; while the outbound port refuses, the thread is Removed (08 R149, R150, R154, R164-R166; 16 R269). -/
def Claims.PostingInstructions : Prop :=
  ∀ (s : State),
    let here (u : State) (key : Word) : Prop := (fld key 18 30 : BitVec 30) = 0 ∧ namesCore u (fld key 48 16) = true
    let onCore (u : State) (ta : Word) : Prop := (fld ta 20 44 : BitVec 44) = 0 ∧ namesCore u (fld ta 4 16) = true
    let sent (u : State) (i : Instr) (r : Record) : Prop :=
      (s.me.relaxed ≠ [] → exec i s = .next (s.setMe { s.me with st := .removed .held })) ∧
      (s.me.relaxed = [] → portAccepts u u.core r = true → ∃ t, exec i s = .next t ∧ OnItsWay t (senderThread u.core u.slot) r ∧
        t.me = u.me.performed (nextPc u.me (lengthOf i)) ∧ t.mem = u.mem ∧
        (SMap.getD t.myCore.counts u.me.tag.toNat {}).created = (SMap.getD u.myCore.counts u.me.tag.toNat {}).created +
          (if r.kind = kT ∨ r.kind = kM ∧ bit r.key 63 = false then 1 else 0)) ∧
      (s.me.relaxed = [] → portAccepts u u.core r = false → ∃ t, exec i s = .next t ∧ t.me.st = .removed (.port r false) ∧
        t.me.pc = nextPc u.me (lengthOf i) ∧ t.net = u.net)
    let traps (u : State) (i : Instr) (c : Nat) : Prop := ∃ t, exec i s = .next t ∧ TrappedOpen u t c
    let w (u : State) (n : Nat) : Word := u.me.w.get (Fin.ofNat 24 (8 + n))
    (∀ b, let u := after1 s b
      let key := val1 s b
      (Ready s (.postCnt b) → here u key → (fld key 0 6 : BitVec 6) = 0 →
        sent u (.postCnt b) (mkRec (coreTa (fld key 48 16)) kC 1 u.me.tag key [w u 0])) ∧
      (Ready s (.postCntSolo b) → here u key → (fld key 0 6 : BitVec 6) = 0 →
        sent u (.postCntSolo b) (mkRec (coreTa (fld key 48 16)) kC 0 u.me.tag key [w u 0])) ∧
      (Ready s (.postCnt b) → ¬ here u key → traps u (.postCnt b) 0x05) ∧
      (Ready s (.postCnt b) → here u key → (fld key 0 6 : BitVec 6) ≠ 0 → traps u (.postCnt b) 0x06) ∧
      (Ready s (.postCntSolo b) → ¬ here u key → traps u (.postCntSolo b) 0x05) ∧
      (Ready s (.postCntSolo b) → here u key → (fld key 0 6 : BitVec 6) ≠ 0 → traps u (.postCntSolo b) 0x06) ∧
      (Ready s (.postWake b) → onCore u key →
        sent u (.postWake b) (mkRec (fld key 0 20) kW 6 u.me.tag ((fld key 0 4 : BitVec 4).setWidth 64) [w u 0])) ∧
      (Ready s (.postWakeSolo b) → onCore u key →
        sent u (.postWakeSolo b) (mkRec (fld key 0 20) kW 0 u.me.tag ((fld key 0 4 : BitVec 4).setWidth 64) [w u 0])) ∧
      (Ready s (.postWake b) → ¬ onCore u key → traps u (.postWake b) 0x05) ∧
      (Ready s (.postWakeSolo b) → ¬ onCore u key → traps u (.postWakeSolo b) 0x05)) ∧
    (∀ op len b, Ready s (.postUpd op len b) →
      let u := after1 s b
      let key := val1 s b
      let n := len.toNat + 1
      let off := (fld key 0 18 : BitVec 18).toNat
      let align := if UpdOp.num op ∈ [1, 3, 4, 5, 11] then 4 else 8
      (here u key → off % align = 0 → off + 8 * n ≤ 262144 → ∃ pay, sent u (.postUpd op len b)
          (mkRec (coreTa (fld key 48 16)) kU (UpdOp.num op) u.me.tag key pay) ∧
        (op ≠ .count → pay = (List.range n).map (w u)) ∧ (op = .count → pay.length = n ∧ (fld (pay.headD 0) 0 32 : W32) = 1)) ∧
      (¬ here u key → traps u (.postUpd op len b) 0x05) ∧
      (here u key → off % align ≠ 0 → traps u (.postUpd op len b) 0x06) ∧
      (here u key → off % align = 0 → 262144 < off + 8 * n → traps u (.postUpd op len b) 0x03)) ∧
    (∀ len a b, Ready s (.msg len a b) →
      let u := after2 s a b
      let ta := val1 s a
      let h := val2 s a b
      (onCore u ta → h.toNat < 2 ^ 52 → h.toNat % 4 = 0 →
        sent u (.msg len a b) (mkRec (coreTa (fld ta 4 16)) kM 0 u.me.tag h ((List.range (len.toNat + 1)).map (w u)))) ∧
      (¬ onCore u ta → traps u (.msg len a b) 0x05) ∧
      (onCore u ta → h.toNat < 2 ^ 52 → h.toNat % 4 ≠ 0 → traps u (.msg len a b) 0x06)) ∧
    (∀ a b, Ready s (.spawn a b) → let u := after2 s a b
      val2 s a b ≠ BitVec.allOnes 64 → ¬ ((fld (val2 s a b) 16 48 : BitVec 48) = 0 ∧ namesCore u (fld (val2 s a b) 0 16) = true) →
      traps u (.spawn a b) 0x05) ∧
    (∀ a b x core, Ready s (.spawn a b) →
      let u := after2 s a b
      let img (i : Nat) : Word := BitVec.ofNat 64 (bytesNat (rawRead u (lsKey u.core x + 8 * i) 8))
      ((val2 s a b = BitVec.allOnes 64 ∧ core = coreAddress u u.core) ∨
        (val2 s a b ≠ BitVec.allOnes 64 ∧ (fld (val2 s a b) 16 48 : BitVec 48) = 0 ∧ core = fld (val2 s a b) 0 16 ∧ namesCore u core = true)) →
      (u.me.sg.get 0).kind = 0 → segCheck u (u.me.sg.get 0) (val1 s a).toNat 48 needR 8 true = .ok x →
      poisoned u (lsKey u.core x) 48 = false →
      ∃ w0 : Word, (fld w0 0 32 : W32) = fld (img 0) 0 32 ∧ (fld w0 32 16 : Half) = u.me.tag ∧ (fld w0 48 7 : BitVec 7) = fld (img 0) 48 7 ∧
        (fld w0 55 9 : BitVec 9) = 0 ∧
        sent u (.spawn a b) (mkRec (coreTa core) kT (if bit (img 0) 54 then 9 else 0) u.me.tag
          ((fld (img 1) 0 32 : W32) ++ (fld (img 0) 0 32 : W32))
          [w0, (fld (img 1) 0 32 : W32).setWidth 64, (fld (img 2) 0 48 : BitVec 48).setWidth 64, img 3, img 4, img 5]))

/-- A port that refused a record takes it once the path has room, and its thread runs on, or awaits the reply that is due (08 R154). -/
def Claims.PortAccepts : Prop :=
  ∀ (s : State) (c : Nat) (k : Fin 16) (r : Record) (awaits : Bool), (s.thread c k).st = .removed (.port r awaits) →
    (portAccepts s c r = true → Calm s c k → ∃ t, exec (.postPortAccept c k) s = .next t ∧ OnItsWay t (senderThread c k) r ∧
      t.thread c k = if awaits then { s.thread c k with st := .removed .reply } else (s.thread c k).run) ∧
    (portAccepts s c r = false → exec (.postPortAccept c k) s = .next s)

/-- Posting instructions and the outbound port: the claims above. -/
def Obligations.Posting : Prop := Claims.PostingInstructions ∧ Claims.PortAccepts

/-- qcfg configures and empties a queue, unless its operands are wrong or the queue is in use; qeos gives the slot's token, after which the slot may
not write (08 R172-R174). -/
def Obligations.QueueInstructions : Prop :=
  (∀ (s : State) (a b : Src), Ready s (.qcfg a b) →
    let u := after2 s a b
    let q := val1 s a
    let cfg := val2 s a b
    let y := u.myCore.queue (Fin.ofNat 8 q.toNat)
    let wrong := 7 < q.toNat ∨ (fld cfg 21 43 : BitVec 43) ≠ 0 ∨ (bit cfg 20 = true ∧ (fld cfg 0 16 : Half) = 0) ∨
      (y.enabled = true ∧ (y.entries ≠ [] ∨ ∃ k : Fin 16, ((u.myCore.slots.get k).blockedOn (Fin.ofNat 8 q.toNat)) = true))
    (wrong → ∃ t, exec (.qcfg a b) s = .next t ∧ Trapped u t 0x0B q 0) ∧
    (¬ wrong → ∃ t z, exec (.qcfg a b) s = .next t ∧ t = (u.setMyCore (u.myCore.setQueue (Fin.ofNat 8 q.toNat) z)).advance (.qcfg a b) ∧
      z.producers = fld cfg 0 16 ∧ z.consumer.val = (fld cfg 16 4 : BitVec 4).toNat ∧ z.enabled = bit cfg 20 ∧ z.entries = [] ∧
      z.tokens = 0)) ∧
  (∀ (s : State) (a : Src), Ready s (.qeos a) →
    let u := after1 s a
    let q := val1 s a
    let y := u.myCore.queue (Fin.ofNat 8 q.toNat)
    let may := y.enabled = true ∧ bit y.producers u.slot.val = true ∧ bit y.tokens u.slot.val = false
    (7 < q.toNat ∨ ¬ may → ∃ t, exec (.qeos a) s = .next t ∧ Trapped u t 0x0B q 0) ∧
    (q.toNat ≤ 7 → may → ∃ t, exec (.qeos a) s = .next t ∧ t.me.pc = nextPc u.me (lengthOf (.qeos a)) ∧
      bit (t.myCore.queue (Fin.ofNat 8 q.toNat)).tokens u.slot.val = true ∧
      (t.myCore.queue (Fin.ofNat 8 q.toNat)).entries = y.entries ∧ mayWrite (t.myCore.queue (Fin.ofNat 8 q.toNat)) u.slot = false))

/-- Rafting: an operator folds an arriving payload into a waiting one word by word; a sum outside its format and a waiter list beyond 14 are
refused; operators 1, 2 and 4 to 7 give the same result in either order (08 R151). -/
def Claims.RaftOperators : Prop :=
  (∀ (l m : List Word), l.length = m.length → raft 6 l m = some (l.zipWith (· ||| ·) m) ∧ raft 7 l m = some (l.zipWith (· &&& ·) m) ∧
    raft 8 l m = some m ∧ raft 9 l m = some l) ∧
  (∀ (op : Nat) (x y : Word) (l m : List Word), op ∈ [1, 2, 3, 4, 5] → l.length = m.length →
    (∀ z r, raft op [x] [y] = some [z] → raft op l m = some r → raft op (x :: l) (y :: m) = some (z :: r)) ∧
    (raft op [x] [y] = none ∨ raft op l m = none → raft op (x :: l) (y :: m) = none)) ∧
  (∀ (x y : Word),
    (raft 2 [x] [y] = if -(2 ^ 63) ≤ x.toInt + y.toInt ∧ x.toInt + y.toInt < 2 ^ 63 then some [x + y] else none)) ∧
  (∀ (a b c d : W32),
    (raft 1 [a ++ b] [c ++ d] = if -(2 ^ 31) ≤ a.toInt + c.toInt ∧ a.toInt + c.toInt < 2 ^ 31 ∧ -(2 ^ 31) ≤ b.toInt + d.toInt ∧
      b.toInt + d.toInt < 2 ^ 31 then some [(a + c) ++ (b + d)] else none) ∧
    raft 3 [a ++ b] [c ++ d] = some [addF32 a c ++ addF32 b d] ∧
    raft 4 [a ++ b] [c ++ d] = some [BitVec.ofInt 32 (max a.toInt c.toInt) ++ BitVec.ofInt 32 (max b.toInt d.toInt)] ∧
    raft 5 [a ++ b] [c ++ d] = some [BitVec.ofInt 32 (min a.toInt c.toInt) ++ BitVec.ofInt 32 (min b.toInt d.toInt)] ∧
    ∀ l m, raft 11 ((a ++ b) :: l) ((c ++ d) :: m) = if b.toNat + d.toNat < 2 ^ 31 then some ((a ++ (b + d)) :: l) else none) ∧
  (∀ (op : Nat) (x y : List Word), op ∈ [1, 2, 4, 5, 6, 7] → x.length = y.length → raft op x y = raft op y x) ∧
  (∀ (x y : List Word), 14 < waiterCount x + waiterCount y → raft 10 x y = none) ∧
  (∀ (x y z : List Word), raft 10 x y = some z → waiterCount z = waiterCount x + waiterCount y ∧
    (∀ j, j < waiterCount x → waiterAt z j = waiterAt x j) ∧ ∀ j, j < waiterCount y → waiterAt z (waiterCount x + j) = waiterAt y j)

/-- An arriving record merges into the newest record that matches it in target, kind, key, operator, tag and length, or takes an entry of its own
behind the others; while there is none, and until the pound has sealed the record that it dispatches in this cycle, it stays in the network; records of one sender for
one pound arrive in order, but K, F, W and P pass others that a full pound holds up (08 R150, R152-R154; that an arrival waits for the seal is DEDUCED, log entry 49). -/
def Claims.RecordsArrive : Prop :=
  (∀ (s : State) (n : Nat) (f : Flight), s.net[n]? = some f → isBehind s n f = true → exec (.recordArrival n none) s = .next s) ∧
  (∀ (s : State) (n : Nat) (f : Flight), s.net[n]? = some f →
    let same (g : Flight) : Prop := g.sender = f.sender ∧ g.die4 = f.die4 ∧ g.target = f.target
    (isBehind s n f = true ↔ ∃ m g, m < n ∧ s.net[m]? = some g ∧ same g ∧ (f.r.kind ∉ [kK, kF, kW, kP] ∨ g.r.kind ∈ [kK, kF, kW, kP] ∨
      (heldAtPort s g = false ∧ ∀ l h, l < m → s.net[l]? = some h → same h → h.r.kind ∈ [kK, kF, kW, kP])))) ∧
  ∀ (s : State) (n : Nat) (f : Flight), s.net[n]? = some f → f.die4 = false → present s f.target = true → isBehind s n f = false →
    let x := s.getCore f.target
    (x.marks.contains f.r.tag && discardable f.r.tag f.r) = false → x.pound.arrivedAt ≠ s.clk + 1 →
    (chosen s f.target ≠ none → exec (.recordArrival n none) s = .next s) ∧
    (chosen s f.target = none →
    (mergeInto s.clk f.r x.pound.entries = none → x.pound.room 64 s.clk heldKind f.r.kind = true → ∃ t, exec (.recordArrival n none) s = .next t ∧ t.net = dropAt s.net n ∧
        (t.getCore f.target).pound.entries = x.pound.entries ++ [{ r := f.r, at' := s.clk }]) ∧
    (mergeInto s.clk f.r x.pound.entries = none → x.pound.room 64 s.clk heldKind f.r.kind = false → exec (.recordArrival n none) s = .next s) ∧
    (∀ a e b p, x.pound.entries = a ++ e :: b → sameRaft e.r f.r = true → (∀ y ∈ b, sameRaft y.r f.r = false) →
      raft f.r.op e.r.pay f.r.pay = some p →
      ∃ t, exec (.recordArrival n none) s = .next t ∧ t.net = dropAt s.net n ∧
        (t.getCore f.target).pound.entries = a ++ { e with r := { e.r with pay := p }, mergedAt := s.clk + 1 } :: b ∧
        ripe s.clk { e with r := { e.r with pay := p }, mergedAt := s.clk + 1 } = false))

/-- Rafting operators and the arrival of records: the claims above. -/
def Obligations.RaftingAndArrival : Prop := Claims.RaftOperators ∧ Claims.RecordsArrive

/-- The pound chooses the oldest eligible record of the first kind that has one, in the order K F W P C M U T: kinds K, F, W, P, C and U are eligible
always, once their record has waited its two cycles and nothing has merged into it in this one (DEDUCED, log entry 49; 08 R153, R155, R156; 11 R225). -/
def Claims.DispatchOrder : Prop :=
  (∀ (s : State) (c i : Nat) (r : Record), chosen s c = some (i, r) →
    (∃ e, (s.getCore c).pound.entries[i]? = some e ∧ e.r = r ∧ e.at' + 2 ≤ s.clk ∧ e.mergedAt ≠ s.clk + 1) ∧
    (∀ (j : Nat) (e : Entry), (s.getCore c).pound.entries[j]? = some e → e.r.kind = r.kind → r.kind ≠ kM → i ≤ j) ∧
    (∀ before after, kindOrder = before ++ r.kind :: after → ∀ kind ∈ before, candidate s c kind = none)) ∧
  (∀ (s : State) (c kind : Nat), kind ∈ [kK, kF, kW, kP, kC, kU] → (candidate s c kind = none ↔
    ∀ (j : Nat) (e : Entry), (s.getCore c).pound.entries[j]? = some e → e.r.kind = kind →
      (∀ (k : Nat) (f : Entry), k < j → (s.getCore c).pound.entries[k]? = some f → f.r.kind ≠ kind) → s.clk < e.at' + 2 ∨ e.mergedAt = s.clk + 1))

/-- The first notice of an abort sets the tag's launch state to 3 and is relayed to every present core and to the other devices; one from another
device stays here, and one that a tag is complete clears its marks (16 R271; 19 R315); a core that receives it marks the tag and
discards the tag's tasks, messages, counters, wakes and updates that wait in its pound, deque and lane (08 R162; 16 R272). -/
def Claims.Aborts : Prop :=
  (∀ (s : State) (tag : Half) (l : List Notice), s.notices = { tag := tag, core := none } :: l → (s.launch tag).state ≠ 0 →
    (s.launch tag).state ≠ 3 → ∃ t, exec (.abortNotice tag) s = .next t ∧ (t.launch tag).state = 3 ∧
      (∀ c, present s c = true → { tag := tag, core := some c } ∈ t.notices) ∧ t.wharf.told = s.wharf.told ++ [(true, tag)]) ∧
  (∀ (s : State) (n : Nat) (tag : Half), (s.launch tag).state ≠ 0 → (s.launch tag).state ≠ 3 →
    ∃ t, exec (.recordArrival n (some (.abort tag))) s = .next t ∧ (t.launch tag).state = 3 ∧
      (∀ c, present s c = true → { tag := tag, core := some c } ∈ t.notices) ∧ t.wharf.told = s.wharf.told) ∧
  (∀ (s : State) (n : Nat) (tag : Half), ∃ t, exec (.recordArrival n (some (.clear tag))) s = .next t ∧
    (∀ p ∈ t.cores, p.2.marks.contains tag = false) ∧ ∀ m ∈ t.notices, m.tag ≠ tag) ∧
  (∀ (s : State) (n : Nat) (tag : Half), (s.launch tag).state = 3 →
    exec (.recordArrival n (some (.abort tag))) s = .next s ∧
    ∀ l, s.notices = { tag := tag, core := none } :: l → exec (.abortNotice tag) s = .next { s with notices := l }) ∧
  (∀ (s : State) (c : Nat) (tag : Half) (l : List Notice), s.notices = { tag := tag, core := some c } :: l → present s c = true →
    (s.getCore c).marks.contains tag = false →
    ∃ t, exec (.abortRelay c tag) s = .next t ∧ t.notices = l ∧ (t.getCore c).marks.contains tag = true ∧
      (∀ e : Entry, e ∈ (t.getCore c).pound.entries → e.r.tag = tag → e.r.kind = kK ∨ e.r.kind = kF ∨ e.r.kind = kP) ∧
      (∀ e : Entry, e ∈ (t.getCore c).deque → e.r.tag ≠ tag) ∧ (∀ e : Record × Nat, e ∈ (t.getCore c).lane → e.1.tag ≠ tag) ∧
      (∀ e : Entry, e ∈ (s.getCore c).pound.entries → e.r.tag ≠ tag → e ∈ (t.getCore c).pound.entries))

/-- The pound's order of dispatch, and aborts: the claims above. -/
def Obligations.DispatchAndAborts : Prop := Claims.DispatchOrder ∧ Claims.Aborts

/-- The dispatch of a trap record writes it at the head of the trap ring, moves head on and wakes the keeper with bit 0 (a report that finds 48 or
more entries waiting is dropped, counted); a trap of slot 0 starts the keeper's handler. That of a fault record writes its key, tag and payload into
the fault ring and wakes with bit 1 (09 R190; 13 R245). -/
def Claims.KeeperDeliveries : Prop :=
  ∀ (s : State) (c i : Nat) (r : Record), chosen s c = some (i, r) → Inv s → (s.thread c 0).saveInUse = false →
    (r.kind = kK →
      let b := (s.getCore c).ringBase.toNat
      let head := lsWord s c b
      let waiting := (head - lsWord s c (b + 8)).toNat
      let w0 := r.pay.headD 0
      let own := (fld w0 16 4 : BitVec 4) = 0 ∧ bit w0 8 = false
      b + 2112 ≤ 262144 →
      (bit w0 8 = false ∨ waiting < 48 → (own → (s.getCore c).vector ≠ 0) → ∃ t, exec (.trapRecordDispatch c) s = .next t ∧
        lsRead t c (b + 64 + 32 * (head.toNat % 64)) 32 = wordsBytes (takePad 0 4 r.pay) ∧ lsWord t c b = head + 1 ∧
        (t.thread c 0).ev = (s.thread c 0).ev ||| (if (s.thread c 0).st = .empty then 0 else 1) ∧
        (∀ a, own → (s.thread c 0).st = .parked a →
          (t.thread c 0).pc = (s.getCore c).vector ∧ (t.thread c 0).st = .runnable)) ∧
      (∀ a, own → (s.thread c 0).st = .parked a → (s.getCore c).vector = 0 → ∃ t, exec (.trapRecordDispatch c) s = .next t ∧
        t.lock.fenced.contains c = true) ∧
      (bit w0 8 = true → 48 ≤ waiting → ∃ t, exec (.trapRecordDispatch c) s = .next t ∧
        lsWord t c (b + 16) = lsWord s c (b + 16) + 1 ∧ lsWord t c b = head)) ∧
    (r.kind = kF →
      let b := (s.getCore c).faultBase.toNat
      let head := lsWord s c b
      b + 32832 ≤ 262144 →
      ∃ t, exec (.faultRecordDispatch c) s = .next t ∧ lsWord t c b = head + 1 ∧
        lsWord t c (b + 64 + 128 * (head.toNat % 256)) = r.key ∧
        lsWord t c (b + 72 + 128 * (head.toNat % 256)) = r.tag.setWidth 64 ∧
        (∀ j, j < 8 → lsWord t c (b + 80 + 128 * (head.toNat % 256) + 8 * j) = r.pay.getD j 0) ∧
        (t.thread c 0).ev = (s.thread c 0).ev ||| (if (s.thread c 0).st = .empty then 0 else 2))

/-- A wake ORs its bits into the latch of the thread in the slot, and completes a wait that awaits one of them; a reply loads w16 and w17 of a thread
that awaits it; an access reply completes the access, a relaxed one too, or traps 0x04 with the owner's status; a replay wake performs a parked access anew or, with
its fail bit, traps 0x0E with the address that faulted; for a thread that no fault has parked it is a wake; one for an engine's command resumes or
fails it (01 R21; 04 R93; 08 R156; 13 R232,
R246). -/
def Claims.WakesAndReplies : Prop :=
  ∀ (s : State) (c i : Nat) (r : Record) (k : Fin 16), chosen s c = some (i, r) → (fld r.key 0 4 : BitVec 4).toNat = k.val →
    let T := s.thread c k
    let w0 := r.pay.headD 0
    let woken := { T with ev := T.ev ||| w0, wokeAt := s.clk + 1, woke := if T.wokeAt = s.clk + 1 then T.woke ||| w0 else w0 }
    (r.kind = kW → bit r.key 63 = false → T.saveInUse = false →
      (T.st = .empty → ∃ t, exec (.wakeDispatch c) s = .next t ∧ t.thread c k = T) ∧
      (T.st ≠ .empty → (∀ m n, T.st ≠ .blocked (.wait m n)) → ∃ t, exec (.wakeDispatch c) s = .next t ∧
        t.thread c k = woken) ∧
      (∀ m n, T.st = .blocked (.wait m n) → ∃ t, exec (.wakeDispatch c) s = .next t ∧
        t.thread c k = if (T.ev ||| w0) &&& m = 0 then woken else
          { (woken.performed (T.pc + BitVec.ofNat 64 n)) with st := .runnable, nextIssue := max T.nextIssue (s.clk + 1) })) ∧
    (r.kind = kP → bit r.key 63 = false →
      (T.st = .removed .reply → Calm s c k → ∃ t, exec (.replyDispatch c) s = .next t ∧
        t.thread c k = (T.run.setW 16 (r.pay.getD 0 0)).setW 17 (r.pay.getD 1 0)) ∧
      (T.st ≠ .removed .reply → ∃ t, exec (.replyDispatch c) s = .next t ∧ t.thread c k = T)) ∧
    (∀ x, r.kind = kP → bit r.key 63 = true → T.st = .removed (.remote x) →
      (∀ sz signed d, (fld r.key 8 8 : Byte) = 0 → x.op = .ld sz signed d → plainDst d = true → Calm s c k →
        ∃ t, exec (.accessReply c) s = .next t ∧ MemoryKeeps s t ∧
          t.thread c k = (T.run.putReg d (if signed then cutS (8 * sz.bytes) w0.toNat else cutZ (8 * sz.bytes) w0.toNat)).performed
            (x.pc + BitVec.ofNat 64 x.len)) ∧
      ((fld r.key 8 8 : Byte) = 0 → Calm s c k →
        ((∃ sz, x.op = .st sz) ∨ (∃ sz m mask, x.op = .vst sz m mask) → ∃ t, exec (.accessReply c) s = .next t ∧ MemoryKeeps s t ∧
          t.thread c k = T.run.performed (x.pc + BitVec.ofNat 64 x.len)) ∧
        (∀ sz mask d, x.op = .vld sz mask d → ∃ t v, exec (.accessReply c) s = .next t ∧ MemoryKeeps s t ∧
          t.thread c k = (T.run.setV d v).performed (x.pc + BitVec.ofNat 64 x.len) ∧
          ∀ j, j < 64 / sz.bytes → (lane (8 * sz.bytes) v j).toNat = if bit mask j then
            (r.pay.getD (sz.bytes * j / 8) 0).toNat / 2 ^ (8 * (sz.bytes * j % 8)) % 2 ^ (8 * sz.bytes) else 0) ∧
        (∀ op wide d, x.op = .amo op wide d → plainDst d = true → ∃ t, exec (.accessReply c) s = .next t ∧ MemoryKeeps s t ∧
          t.thread c k = (T.run.putReg d (cutS (if wide then 64 else 32) w0.toNat)).performed (x.pc + BitVec.ofNat 64 x.len))) ∧
      ((fld r.key 8 8 : Byte) ≠ 0 → ∃ t, exec (.accessReply c) s = .next t ∧
        TrapTaken s t c k 0x04 x.iword x.pc x.off ((fld r.key 8 8 : Byte).setWidth 64))) ∧
    (∀ y l sz signed d, r.kind = kP → bit r.key 63 = true → (fld r.key 8 8 : Byte) = 0 → (∀ x, T.st ≠ .removed (.remote x)) →
      T.relaxed = y :: l → y.sent = true → y.status = none → (∀ z ∈ l, z.acc.kind ≠ 1) → (s.thread c 0).st ≠ .removed .kfence →
      y.acc.op = .ld sz signed d → plainDst d = true → ∃ t, exec (.accessReply c) s = .next t ∧ MemoryKeeps s t ∧
        t.thread c k = Thread.putReg { T with relaxed := l, st := if T.st = .removed .held then .runnable else T.st } d
          (if signed then cutS (8 * sz.bytes) w0.toNat else cutZ (8 * sz.bytes) w0.toNat)) ∧
    (∀ p code dva, r.kind = kW → bit r.key 63 = true → bit r.key 57 = false → T.st = .parked p → p.fault = some (code, dva) →
      (bit r.key 62 = false → p.acc = none → T.dogDue = false → T.parkDue = false → failedRelaxed T = none → graceOver s T.tag = false →
        ∃ t, exec (.replayWake c) s = .next t ∧ t.thread c k = { T.run with joined := s.clk }) ∧
      (∀ x, bit r.key 62 = false → p.acc = some (false, x) → x.op.isWld = false → (T.sg.get x.sg).kind = 3 → T.pc = x.pc →
        ∀ a, checkAccess s (T.sg.get x.sg) x.op x.off x.disp = .ok a → ∃ t, exec (.replayWake c) s = .next t ∧
          t.thread c k = { T with st := .removed (.mem { x with kind := 3, addr := a, owner := (T.sg.get x.sg).owner c }), joined := s.clk }) ∧
      (∀ x, bit r.key 62 = false → p.acc = some (false, x) → T.pc ≠ x.pc → Calm s c k →
        ∃ t, exec (.replayWake c) s = .next t ∧ t.thread c k = { T.run with joined := s.clk }) ∧
      (∀ x rlx, bit r.key 62 = true → p.acc = some (rlx, x) → (s.thread c 0).st ≠ .removed .kfence → ∃ t, exec (.replayWake c) s = .next t ∧
        TrapTaken s t c k 0x0E x.iword x.pc (BitVec.ofNat 64 dva) 0)) ∧
    (r.kind = kW → bit r.key 63 = true → bit r.key 57 = false → T.saveInUse = false → T.st ≠ .empty → (∀ m n, T.st ≠ .blocked (.wait m n)) →
      (∀ p, T.st = .parked p → p.fault = none) → ∃ t, exec (.replayWake c) s = .next t ∧ t.thread c k = woken) ∧
    (r.kind = kW → bit r.key 63 = true → bit r.key 57 = true →
      let e := portEngine c (fld r.key 58 2 : BitVec 2).toNat
      ∃ t, exec (.replayWake c) s = .next t ∧ t.thread c k = T ∧ ∀ (n : Nat) (m : Cmd), (s.engine e).cmds[n]? = some m →
        ∃ m', (t.engine e).cmds[n]? = some m' ∧
          (m.started = false ∨ m.index ≠ (fld r.key 60 2 : BitVec 2).toNat ∨ m.parked = none → m' = m) ∧
          (∀ i f, m.started = true → m.index = (fld r.key 60 2 : BitVec 2).toNat → m.parked = some (i, f) →
            (bit r.key 62 = false → m' = { m with parked := none }) ∧
            (bit r.key 62 = true → m.failAt = none → m' = { m with parked := none, failAt := some i }) ∧
            (∀ j, bit r.key 62 = true → m.failAt = some j →
              m' = { m with parked := none, failAt := some (min j i), done := max j i :: m.done })))

/-- Trap and fault records reach the keeper; wakes and replies reach their threads: the claims above. -/
def Obligations.DeliveriesWakesReplies : Prop := Claims.KeeperDeliveries ∧ Claims.WakesAndReplies

/-- A counter record is sealed and applied in a later cycle as one step: the counter falls by its decrement; at zero an armed frame is disarmed and
its record pushed, counted as created; below zero a frame that asks for it aborts its tag. An update record leaves its operator's result in its words
(08 R156, R160-R162; sums outside their format are free values, log entry 38). -/
def Obligations.CountersAndUpdates : Prop :=
  (∀ (s : State) (c i : Nat) (r : Record), chosen s c = some (i, r) →
    (r.kind = kC → ∃ t, exec (.counterDispatch c) s = .next t ∧ MemoryKeeps s t ∧
      (t.getCore c).pound.applying = (s.getCore c).pound.applying ++ [(r, s.clk)] ∧
      (t.getCore c).pound.entries = dropAt (s.getCore c).pound.entries i) ∧
    (r.kind = kU → ∃ t, exec (.updateDispatch c) s = .next t ∧ MemoryKeeps s t ∧
      (t.getCore c).pound.applying = (s.getCore c).pound.applying ++ [(r, s.clk)] ∧
      (t.getCore c).pound.entries = dropAt (s.getCore c).pound.entries i)) ∧
  (∀ (s : State) (c n : Nat) (r : Record) (l : List (Record × Nat)), (s.getCore c).pound.applying = (r, n) :: l → r.kind = kC → Inv s →
    let off := (fld r.key 0 18 : BitVec 18).toNat
    let old : W32 := BitVec.ofNat 32 (bytesNat (lsRead s c off 4))
    let new := old - (fld (r.pay.headD 0) 0 32 : W32)
    let armed : Bool := (lsWord s c off).getLsbD 32
    let tag : Half := fld (lsWord s c (off + 16)) 32 16
    off % 64 = 0 →
    (s.clk ≤ n → exec (.counterApply c) s = .next s) ∧
    (n < s.clk → (s.getCore c).deque.length < 128 → ∃ t, exec (.counterApply c) s = .next t ∧ BitVec.ofNat 32 (bytesNat (lsRead t c off 4)) = new ∧
      (new ≠ 0 ∨ armed = false → lsWord t c (off + 16) = lsWord s c (off + 16) ∧ (t.getCore c).deque = (s.getCore c).deque ∨ new.toInt < 0) ∧
      (new = 0 → armed = true → (lsWord t c off).getLsbD 32 = false ∧
        (SMap.getD (t.getCore c).counts tag.toNat {}).created = (SMap.getD (s.getCore c).counts tag.toNat {}).created + 1) ∧
      (new = 0 → armed = true → (s.getCore c).marks.contains tag = false → bit (lsWord s c (off + 16)) 48 = false → ∃ e, (t.getCore c).deque = (s.getCore c).deque ++ [e] ∧ e.r.kind = kT ∧ e.r.tag = tag) ∧
      (new.toInt < 0 → bit (lsWord s c (off + 16)) 52 = true → (t.getCore c).marks.contains tag = true ∧
        { tag := tag, core := none } ∈ t.notices))) ∧
  (∀ (s : State) (c n : Nat) (r : Record) (l : List (Record × Nat)), (s.getCore c).pound.applying = (r, n) :: l → r.kind = kU → Inv s →
    n < s.clk → r.pay.length ≤ 8 →
    let off := (fld r.key 0 18 : BitVec 18).toNat
    let old (j : Nat) : Word := lsWord s c (off + 8 * j)
    off + 8 * r.pay.length ≤ 262144 →
    ∃ t, exec (.updateApply c) s = .next t ∧ MemoryKeepsOutside s t (lsKey c off) (8 * r.pay.length) ∧
      (r.op ≠ 11 → ∀ j y, r.pay[j]? = some y →
        let new := lsWord t c (off + 8 * j)
        ((r.op = 8 ∨ r.op = 9) → new = y) ∧ (r.op = 6 → new = (old j ||| y)) ∧ (r.op = 7 → new = (old j &&& y)) ∧
        (∀ a b c d : W32, old j = a ++ b → y = c ++ d →
          (r.op = 4 → new = BitVec.ofInt 32 (max a.toInt c.toInt) ++ BitVec.ofInt 32 (max b.toInt d.toInt)) ∧
          (r.op = 5 → new = BitVec.ofInt 32 (min a.toInt c.toInt) ++ BitVec.ofInt 32 (min b.toInt d.toInt)) ∧
          (r.op = 1 → -(2 ^ 31) ≤ a.toInt + c.toInt → a.toInt + c.toInt < 2 ^ 31 → -(2 ^ 31) ≤ b.toInt + d.toInt → b.toInt + d.toInt < 2 ^ 31 →
            new = (a + c) ++ (b + d))) ∧
        (r.op = 3 → new = (addF32 (fld (old j) 32 32) (fld y 32 32) ++ addF32 (fld (old j) 0 32) (fld y 0 32))) ∧
        (r.op = 2 → -(2 ^ 63) ≤ (old j).toInt + y.toInt → (old j).toInt + y.toInt < 2 ^ 63 → new = old j + y)) ∧
      (r.op = 11 → r.pay.length = 1 →
        let a : W32 := fld (old 0) 0 32
        let b : W32 := fld (r.pay.headD 0) 0 32
        (-(2 ^ 31) : Int) ≤ a.toInt + b.toInt → a.toInt + b.toInt < 2 ^ 31 →
        lsWord t c off = ((fld (old 0) 32 32 : W32) ++ (a + b))))

/-- A message makes a thread in the lowest free general slot, a remote-access record one in slot 1 or, without a handler, the reply 0xFE; a task goes
to the deque, or to the lane if it is ordered. The lane's head, and the newest task of the highest priority, become threads at their node's code
address with their arguments; one whose node is missing is reported with cause 0x05 and counts as retired. A barrier task leaves the lane when its counter reads zero and nothing has
written it in this cycle (01 R9; 08 R156-R158, R163; 13 R232; 16
R266). -/
def Obligations.ThreadsBegin : Prop :=
  let task (s t : State) (c : Nat) (k : Fin 16) (r : Record) (off : Nat) : Prop :=
    let inst : W32 := fld (r.pay.getD 1 0) 0 32
    (t.thread c k).st = .runnable ∧ (t.thread c k).pc = basinWord s (dieOf c) off ∧ (t.thread c k).tag = r.tag ∧
      (∀ j, j < 6 → (t.thread c k).w.get (Fin.ofNat 24 j) =
        basinWord s (dieOf c) (off + 24 + 16 * j) + inst.setWidth 64 * basinWord s (dieOf c) (off + 32 + 16 * j)) ∧
      (t.thread c k).w.get 6 = inst.setWidth 64 ∧ (t.thread c k).g = Vector.replicate 8 0 ∧
      (t.thread c k).fa = fld (r.pay.getD 2 0) 0 16 ∧ (t.thread c k).fw = fld (r.pay.getD 2 0) 16 16 ∧
      (t.thread c k).fo = fld (r.pay.getD 2 0) 32 16 ∧ (t.thread c k).fsc = r.pay.getD 3 0 ∧ (t.thread c k).inst = inst
  (∀ (s : State) (c i : Nat) (r : Record), chosen s c = some (i, r) →
    (∀ k, r.kind = kM → isRemote r = false → freeGeneral s c = some k → ∃ t, exec (.messageDispatch c) s = .next t ∧
      (t.thread c k).st = .runnable ∧ (t.thread c k).pc = r.key ∧ (t.thread c k).tag = r.tag ∧
      ∀ j, j < 8 → (t.thread c k).w.get (Fin.ofNat 24 j) = r.pay.getD j 0) ∧
    (r.kind = kM → isRemote r = true → (s.getCore c).slot1 ≠ 0 → ∃ t, exec (.remoteAccessDispatch c) s = .next t ∧
      (t.thread c 1).st = .runnable ∧ (t.thread c 1).pc = (s.getCore c).slot1 ∧ (t.thread c 1).w.get 8 = r.key ∧
      (t.thread c 1).serving = some r.key) ∧
    (r.kind = kM → isRemote r = true → (s.getCore c).slot1 = 0 → ∃ t p, exec (.remoteAccessDispatch c) s = .next t ∧
      OnItsWay t (senderThread c 1) p ∧ p.kind = kP ∧ p.ta = fld r.key 19 20 ∧ (fld p.key 8 8 : Byte) = 0xFE ∧ bit p.key 63 = true) ∧
    (r.kind = kT → bit (r.pay.headD 0) 48 = true → (s.getCore c).lane.length < 16 → ∃ t, exec (.taskDispatch c) s = .next t ∧
      (t.getCore c).lane = (s.getCore c).lane ++ [({ r with pay := takePad 0 6 r.pay }, s.clk)]) ∧
    (r.kind = kT → bit (r.pay.headD 0) 48 = false → (s.getCore c).deque.length < 512 → ∃ t, exec (.taskDispatch c) s = .next t ∧
      (t.getCore c).deque = (s.getCore c).deque ++ [{ r := { r with pay := takePad 0 6 r.pay }, at' := s.clk }])) ∧
  (∀ (s : State) (c : Nat) (r : Record), laneHead s c = some r → bit (r.pay.headD 0) 49 = true →
    let a := r.pay.getD 4 0
    let off := (fld a 0 18 : BitVec 18).toNat
    a ≠ 0 → (fld a 48 16 : Half) = coreAddress s c →
      bytesNat (lsRead s c off 4) = 0 ∧ ∀ p ∈ s.written, p.1 + p.2 ≤ lsKey c off ∨ lsKey c off + 4 ≤ p.1) ∧
  (∀ (s : State) (c : Nat) (k : Fin 16) (r : Record) (n : Nat) (l : List (Record × Nat)) (off : Nat), (s.getCore c).lane = (r, n) :: l →
    present s c = true → laneHead s c = some r → freeGeneral s c = some k →
    nodeAt s (dieOf c) (fld (word0 r) 0 16 : Half).toNat (fld (word0 r) 16 16 : Half).toNat = some off →
    ∃ t, exec (.orderedLaneRelease c) s = .next t ∧ task s t c k r off ∧ (t.getCore c).lane = l) ∧
  (∀ (s : State) (c : Nat) (k : Fin 16) (e : Entry) (i off : Nat), Inv s → present s c = true → mayCreate s c = true → laneHead s c = none →
    messageWaits s c = false → freeGeneral s c = some k → bottomOf s (s.getCore c).deque = some i → (s.getCore c).deque[i]? = some e →
    (nodeAt s (dieOf c) (fld (word0 e.r) 0 16 : Half).toNat (fld (word0 e.r) 16 16 : Half).toNat = some off →
      ∃ t, exec (.dequeThreadCreate c) s = .next t ∧ task s t c k e.r off ∧ (t.getCore c).deque = dropAt (s.getCore c).deque i) ∧
    (nodeAt s (dieOf c) (fld (word0 e.r) 0 16 : Half).toNat (fld (word0 e.r) 16 16 : Half).toNat = none →
      ∃ t p, exec (.dequeThreadCreate c) s = .next t ∧ (t.thread c k).st = .empty ∧ OnItsWay t (senderThread c k) p ∧ p.kind = kK ∧
        (fld (p.pay.headD 0) 0 8 : Byte) = 0x05 ∧ bit (p.pay.headD 0) 8 = true ∧ p.pay.getD 2 0 = e.r.key ∧
        (SMap.getD (t.getCore c).counts e.r.tag.toNat {}).retired = (SMap.getD (s.getCore c).counts e.r.tag.toNat {}).retired + 1))

/-- join and leave await the group unit's answer, and bar arrives and blocks; an id that names no group, and a bar of a thread that is neither
member nor pending, trap 0x05. The answers are those of R167: a joiner is pending, or a member of the next round where it joins in the cycle in which a round completes; a leaver
is gone (01 R25; 08 R167, R168). -/
def Claims.GroupMembership : Prop :=
  (∀ (s : State) (d : Dst) (a : Src),
    let g : Half := fld (val1 s a) 0 16
    let u := after1 s a
    (Ready s (.join d a) → groupOf g ≠ none →
      exec (.join d a) s = .next ((u.advance (.join d a)).remove (.group false g d))) ∧
    (Ready s (.leave d a) → groupOf g ≠ none →
      exec (.leave d a) s = .next ((u.advance (.leave d a)).remove (.group true g d))) ∧
    (Ready s (.join d a) → groupOf g = none → ∃ t, exec (.join d a) s = .next t ∧ TrappedOpen u t 0x05) ∧
    (Ready s (.leave d a) → groupOf g = none → ∃ t, exec (.leave d a) s = .next t ∧ TrappedOpen u t 0x05) ∧
    (Ready s (.bar a) → groupOf g = none → ∃ t, exec (.bar a) s = .next t ∧ TrappedOpen u t 0x05) ∧
    (Ready s (.bar a) → groupOf g ≠ none → u.myTa ∉ (u.group g).members → u.myTa ∉ (u.group g).pending →
      ∃ t, exec (.bar a) s = .next t ∧ TrappedOpen u t 0x05) ∧
    (Ready s (.bar a) → groupOf g ≠ none → u.myTa ∈ (u.group g).members ∨ u.myTa ∈ (u.group g).pending →
      ∃ t, exec (.bar a) s = .next t ∧ t.me = { u.me with st := .blocked (.bar g (lengthOf (.bar a))), since := u.clk } ∧
        u.myTa ∈ (t.group g).blocked ∧ (u.myTa ∈ (u.group g).roundOf → u.myTa ∈ (t.group g).arrived))) ∧
  (∀ (s : State) (c : Nat) (k : Fin 16) (gid : Half) (d : Dst) (isLeave : Bool),
    (s.thread c k).st = .removed (.group isLeave gid d) → plainDst d = true → Calm s c k →
    let x := s.group gid
    let ta := taNum c k
    ∃ t v, exec (.groupReply c k) s = .next t ∧ t.thread c k = (s.thread c k).run.putReg d v ∧
      (isLeave = false → (ta ∈ x.members ∨ ta ∈ x.pending) → v = 1 ∧ t.group gid = x) ∧
      (isLeave = false → ta ∉ x.members → ta ∉ x.pending → 256 ≤ x.members.length + x.pending.length → v = 2 ∧ t.group gid = x) ∧
      (isLeave = false → ta ∉ x.members → ta ∉ x.pending → x.members.length + x.pending.length < 256 →
        v = 0 ∧ t.group gid = if x.endedAt = s.clk + 1 then { x with members := x.members ++ [ta], roundOf := x.roundOf ++ [ta] }
          else { x with pending := x.pending ++ [ta] }) ∧
      (isLeave = true → (ta ∈ x.members ∨ ta ∈ x.pending) → v = 0 ∧ ta ∉ (t.group gid).members ∧ ta ∉ (t.group gid).pending ∧
        (ta ∈ x.roundOf → ta ∈ (t.group gid).arrived)) ∧
      (isLeave = true → ta ∉ x.members → ta ∉ x.pending → v = 1 ∧ t.group gid = x))

/-- A round completes once every thread that was a member when it began has arrived or left: each Blocked thread of it goes on behind its bar, and
pending joiners are members of the next round; a parked one goes on when it resumes (01 R25; 09 R192). Once a group's watchdog expires, each arrived thread that is still Blocked takes trap 0x0F
with its own tag (16 R276). -/
def Claims.BarrierRounds : Prop :=
  ∀ (s : State) (gid : Half), groupOf gid ≠ none →
    let x := s.group gid
    ((∀ ta ∈ x.roundOf, ta ∈ x.arrived) → x.roundOf ≠ [] ∨ x.pending ≠ [] → (∀ ta ∈ x.blocked, ta < 65536) →
      ∃ t, exec (.barrierRoundComplete gid) s = .next t ∧ (t.group gid).members = x.members ++ x.pending ∧ (t.group gid).pending = [] ∧
        (t.group gid).roundOf = x.members ++ x.pending ∧ (t.group gid).arrived = [] ∧ (t.group gid).round = x.round + 1 ∧
        ∀ c k n, taNum c k ∈ x.blocked → (s.thread c k).st = .blocked (.bar gid n) → Calm s c k →
          t.thread c k = (s.thread c k).run.performed (nextPc (s.thread c k) n)) ∧
    ((∀ ta ∈ x.roundOf, ta ∈ x.arrived) → x.roundOf ≠ [] ∨ x.pending ≠ [] → (∀ ta ∈ x.blocked, ta < 65536) →
      ∃ t, exec (.barrierRoundComplete gid) s = .next t ∧ (t.group gid).endedAt = s.clk + 1 ∧
        ∀ c k n p, taNum c k ∈ x.blocked → (s.thread c k).st = .parked p → p.before = some (.bar gid n) →
          t.thread c k = { s.thread c k with st := .parked { p with done := true } }) ∧
    ((∃ ta ∈ x.roundOf, ta ∉ x.arrived) → exec (.barrierRoundComplete gid) s = .next s) ∧
    (x.dogOn = true → s.wharf.watchdog ≠ 0 → dogTicks s ≤ x.dog →
      ∃ t, exec (.barrierWatchdogExpiry gid) s = .next t ∧ (t.group gid).dogOn = false ∧
        ∀ c k n, taNum c k ∈ x.arrived → (s.thread c k).st = .blocked (.bar gid n) →
          TrapTaken s t c k 0x0F (fetchedWord s c k) (s.thread c k).pc ((s.thread c k).tag.setWidth 64) 0)

/-- Group membership and barrier rounds: the claims above. -/
def Obligations.GroupsAndBarriers : Prop := Claims.GroupMembership ∧ Claims.BarrierRounds

/-- tow makes its thread the motor of a group of which it is a member; members that wait in moor on the group board with status 1 in its cluster and run on with
status 0 elsewhere; moor answers by the tow state of the group or blocks; castoff leaves the tow, a
motor's with it (what a thread in another tow does then is log entry 29). A member check that fails, and tow on a group that is towing, trap 0x05, a misaligned rejoin address 0x06 (08 R169-R171). -/
def Claims.TowInstructions : Prop :=
  (∀ (s : State) (a b : Src), Ready s (.tow a b) →
    let g : Half := fld (val1 s a) 0 16
    let u := after2 s a b
    let r := val2 s a b
    let x := u.group g
    (groupOf g = none → ∃ t, exec (.tow a b) s = .next t ∧ TrappedOpen (after1 s a) t 0x05) ∧
    (groupOf g ≠ none → u.myTa ∉ x.members ∨ x.tow = 1 → ∃ t, exec (.tow a b) s = .next t ∧ TrappedOpen u t 0x05) ∧
    (groupOf g ≠ none → u.myTa ∈ x.members → x.tow ≠ 1 → (fld r 0 2 : BitVec 2) ≠ 0 →
      ∃ t, exec (.tow a b) s = .next t ∧ TrappedOpen u t 0x06) ∧
    (groupOf g ≠ none → u.myTa ∈ x.members → x.tow ≠ 1 → (fld r 0 2 : BitVec 2) = 0 → u.me.st = .runnable →
      (∀ c k (g' : Half) r', (u.thread c k).tow = .motor g' r' → fld g' 0 15 ≠ (fld g 0 15 : BitVec 15)) →
      ∃ t, exec (.tow a b) s = .next t ∧ t.me.tow = .motor g r ∧ t.me.pc = nextPc u.me (lengthOf (.tow a b)) ∧
        (t.group g).tow = 1 ∧ (t.group g).motor = u.myTa ∧ (t.group g).rejoin = r ∧ (t.group g).members = x.members ∧
        ∀ c k d n, taNum c k ∈ x.members → (c, k) ≠ (u.core, u.slot) → (u.thread c k).st = .blocked (.moor g d n) → plainDst d = true →
          Calm u c k → (∀ g' r', (u.thread c k).tow ≠ .motor g' r') → (t.thread c k).pc = nextPc (u.thread c k) n ∧
            (clusterOf c = clusterOf u.core → (t.thread c k).tow = .butty g ∧ (t.thread c k).st = .blocked .butty ∧
              (t.thread c k).fwd = [] ∧ (t.thread c k).reg d.asSrc = 1) ∧
            (clusterOf c ≠ clusterOf u.core → (t.thread c k).st = .runnable ∧ (t.thread c k).reg d.asSrc = 0))) ∧
  (∀ (s : State) (d : Dst) (a : Src), Ready s (.moor d a) →
    let g : Half := fld (val1 s a) 0 16
    let u := after1 s a
    let x := u.group g
    let here := clusterOf (x.motor / 16) = clusterOf u.core
    let aboard := x.motor = u.myTa ∨ u.me.tow = .butty g
    (groupOf g = none → ∃ t, exec (.moor d a) s = .next t ∧ TrappedOpen u t 0x05) ∧
    (groupOf g ≠ none → u.myTa ∉ x.members → ∃ t, exec (.moor d a) s = .next t ∧ TrappedOpen u t 0x05) ∧
    (groupOf g ≠ none → u.myTa ∈ x.members →
      (x.tow = 0 ∨ x.tow = 1 ∧ ¬ aboard ∧ here →
        exec (.moor d a) s = .next (u.setMe { u.me with st := .blocked (.moor g d (lengthOf (.moor d a))), since := u.clk })) ∧
      (x.tow = 1 → aboard → exec (.moor d a) s = .next (u.result (.moor d a) d 1)) ∧
      (x.tow = 1 ∧ ¬ aboard ∧ ¬ here ∨ 2 ≤ x.tow → exec (.moor d a) s = .next (u.result (.moor d a) d 0)))) ∧
  (∀ (s : State),
    (s.me.tow = .none → exec .castoff s = .next (s.setMe { s.me with pc := s.me.pc + 4 })) ∧
    (∀ g, s.me.tow = .draining g → exec .castoff s = .next (s.setMe { s.me with pc := s.me.pc + 4, tow := .none, fwd := [] })) ∧
    (∀ g, s.me.tow = .butty g → exec .castoff s = .next (s.setMe { s.me with pc := s.me.pc + 4, tow := .none, fwd := [] })) ∧
    (∀ g r, s.me.tow = .motor g r → s.me.st = .runnable →
      ∃ t, exec .castoff s = .next t ∧ t.me.tow = .none ∧ t.me.pc = s.me.pc + 4 ∧ (t.group g).tow = 2))

/-- An instruction on the forwarding ring enters its butty's buffer once its hops are over, in order, and a drained butty goes on; a thread that waits
in moor boards with status 1 as its motor issues the instruction at the rejoin address. Between steps a butty with an empty buffer is Blocked, one of a
dissolved tow is on its own once nothing is left for it, and a motor issues again once every buffer has room, what is on the ring counted (log entries 21, 29; 01 R26, R27, R29; 08 R169). -/
def Claims.TowEvents : Prop :=
  (∀ (s : State) (n : Nat) (f : RingFlit), s.ring[n]? = some f →
    (s.clk < f.arrives → exec (.forwardedInstruction n) s = .next s) ∧
    (f.arrives ≤ s.clk → (∀ m, m < n → ∀ h, s.ring[m]? = some h → (h.core, h.slot) ≠ (f.core, f.slot)) →
      ∃ t, exec (.forwardedInstruction n) s = .next t ∧ t.ring = dropAt s.ring n ∧
        ((s.thread f.core f.slot).isButty = true → (t.thread f.core f.slot).fwd = (s.thread f.core f.slot).fwd ++ [f.f] ∧
          ((s.thread f.core f.slot).st = .blocked .butty → (t.thread f.core f.slot).st = .runnable)) ∧
        ((s.thread f.core f.slot).isButty = false → t.thread f.core f.slot = s.thread f.core f.slot))) ∧
  (∀ (s : State) (c : Nat) (k : Fin 16) (g : Half) (d : Dst) (n : Nat), (s.thread c k).st = .blocked (.moor g d n) →
    (motorRejoins s g = false → exec (.moorRejoin c k) s = .next s) ∧
    (motorRejoins s g = true → clusterOf ((s.group g).motor / 16) = clusterOf c → plainDst d = true → Calm s c k →
      (∀ g' r, (s.thread c k).tow ≠ .motor g' r) →
      ∃ t, exec (.moorRejoin c k) s = .next t ∧ (t.thread c k).tow = .butty g ∧ (t.thread c k).st = .blocked .butty ∧
        (t.thread c k).pc = nextPc (s.thread c k) n ∧ (t.thread c k).fwd = [] ∧ (t.thread c k).reg d.asSrc = 1 ∧
        ∀ f ∈ t.ring, (f.core, f.slot) ≠ (c, k))) ∧
  (∀ (s : State) (c : Nat) (k : Fin 16),
    let T := s.thread c k
    (∀ g, T.tow = .butty g → T.fwd = [] → T.st = .runnable → settle s c k = s.setThread c k { T with st := .blocked .butty }) ∧
    (∀ g, T.tow = .draining g → T.fwd = [] → (∀ f ∈ s.ring, (f.core, f.slot) ≠ (c, k)) →
      settle s c k = s.setThread c k { T with tow := .none, st := if T.st = .blocked .butty then .runnable else T.st }) ∧
    (∀ g, T.tow = .draining g → T.fwd = [] → (∃ f ∈ s.ring, (f.core, f.slot) = (c, k)) → T.st = .runnable →
      settle s c k = s.setThread c k { T with st := .blocked .butty }) ∧
    (∀ g r, T.tow = .motor g r → T.st = .removed .motor → buttyFull s g = false →
      settle s c k = s.setThread c k { T with st := .runnable, midway := true }))

/-- Tow instructions and the forwarding of a motor's instructions: the claims above. -/
def Obligations.Tows : Prop := Claims.TowInstructions ∧ Claims.TowEvents

/-- push submits the eight words at its operand through a port: an accepted command is the engine's newest, outstanding for its slot and counted as
created; while the engine is full the thread is Removed; a malformed block or a ninth outstanding command traps 0x0C with the port, a range that
fails its check traps with its word's index and value; one that passes its checks is held while a relaxed access of its thread is in flight (that 0x0C carries the port is log entry 61; 09 R176, R179; 16 R269; 17 R279). -/
def Claims.EngineCommands : Prop :=
  (∀ (s : State) (p : Fin 4) (a : Src) (x : Nat), Ready s (.push p a) →
    let u := after1 s a
    let b := (List.range 8).map fun i => (BitVec.ofNat 64 (bytesNat (rawRead u (lsKey u.core x + 8 * i) 8)) : Word)
    let e := portEngine u.core p.val
    let pc := nextPc u.me (lengthOf (.push p a))
    (u.me.sg.get 0).kind = 0 → segCheck u (u.me.sg.get 0) (val1 s a).toNat 64 needR 64 true = .ok x →
    poisoned u (lsKey u.core x) 64 = false →
    (submission u p b = .misuse → ∃ t, exec (.push p a) s = .next t ∧ Trapped u t 0x0C (BitVec.ofNat 64 p.val) 0) ∧
    (8 ≤ (u.me.ports.get p).out.length → ∃ t, exec (.push p a) s = .next t ∧ Trapped u t 0x0C (BitVec.ofNat 64 p.val) 0) ∧
    (∀ n w, submission u p b = .trap n w → ∃ t, exec (.push p a) s = .next t ∧
      Trapped u t n (BitVec.ofNat 64 w) (b.getD w 0)) ∧
    (∀ c, submission u p b = .ok c → s.me.relaxed ≠ [] → exec (.push p a) s = .next (s.setMe { s.me with st := .removed .held })) ∧
    (∀ c, submission u p b = .ok c → s.me.relaxed = [] → (u.engine e).cmds.length < 64 → ∃ t, exec (.push p a) s = .next t ∧ MemoryKeepsBy u t (.push p a) ∧
      (t.engine e).cmds.map Cmd.words = (u.engine e).cmds.map Cmd.words ++ [b] ∧ t.me.pc = pc ∧ t.me.st = u.me.st ∧
      (∃ o, (t.me.ports.get p).out = (u.me.ports.get p).out ++ [o] ∧ o.element = bit (b.getD 0 0) 48 ∧ o.bell = bit (b.getD 0 0) 49 ∧
        o.done = false) ∧
      (SMap.getD t.myCore.counts u.me.tag.toNat {}).created = (SMap.getD u.myCore.counts u.me.tag.toNat {}).created + 1) ∧
    (∀ c, submission u p b = .ok c → s.me.relaxed = [] → 64 ≤ (u.engine e).cmds.length → ∃ t, exec (.push p a) s = .next t ∧ t.me.st = .removed (.engine c) ∧
      c.words = b ∧ t.me.pc = pc ∧ t.engine e = u.engine e)) ∧
  (∀ (s : State) (c : Nat) (k : Fin 16) (m : Cmd), (s.thread c k).st = .removed (.engine m) → m.core = c → m.slot = k →
    let e := portEngine c m.port
    (64 ≤ (s.engine e).cmds.length → exec (.engineQueueRoom c k) s = .next s) ∧
    ((s.engine e).cmds.length < 64 → Calm s c k → ∃ t, exec (.engineQueueRoom c k) s = .next t ∧
      (t.engine e).cmds.map Cmd.words = (s.engine e).cmds.map Cmd.words ++ [m.words] ∧ (t.thread c k).st = .runnable ∧
      (t.thread c k).pc = (s.thread c k).pc ∧
      (SMap.getD (t.getCore c).counts m.tag.toNat {}).created = (SMap.getD (s.getCore c).counts m.tag.toNat {}).created + 1))

/-- A block is misused if its opcode is none of its port's, a reserved field is set (a Basin operation's length that is no multiple of 64 counts as
one, log entry 53) or eight commands are outstanding; otherwise the first of its ranges, in the table's order, and then of words 6 and 7 that fails its check traps with its word; with
none the command has the block, the thread's tag and address space, and the places of its ranges (09 R176-R179). -/
def Claims.SubmissionChecks : Prop :=
  ∀ (u : State) (p : Fin 4) (b : List Word),
    let t := u.me
    let w (n : Nat) : Word := b.getD n 0
    let op := (fld (w 0) 56 8 : Byte).toNat
    let type := (fld (w 5) 0 2 : BitVec 2).toNat
    let size := (fld (w 5) 32 3 : BitVec 3).toNat
    let z := if p = 2 then (if type = 1 then 2 else 4) else if size = 4 then 64 else 2 ^ size
    let formed := (fld (w 0) 50 6 : BitVec 6) = 0 ∧ (fld (w 0) 32 16 : Half) = 0 ∧ (fld (w 1) 19 45 : BitVec 45) = 0 ∧
      (fld (w 1) 11 5 : BitVec 5) = 0 ∧ (fld (w 1) 3 5 : BitVec 5) = 0 ∧
      (p = 0 → op = 0 ∧ w 5 = 0) ∧ (p = 1 → op ≤ 1 ∧ size ≤ 4 ∧ (fld (w 5) 35 29 : BitVec 29) = 0) ∧
      (p = 2 → op = 0 ∧ type ≤ 2 ∧ (fld (w 5) 2 2 : BitVec 2).toNat ≤ 2 ∧ (fld (w 5) 4 12 : BitVec 12) = 0 ∧ (fld (w 5) 32 32 : W32) = 0) ∧
      (p = 3 → op = 0 ∧ (fld (w 5) 0 4 : BitVec 4).toNat ≤ 5 ∧ (fld (w 5) 4 60 : BitVec 60) = 0 ∧ (w 4).toNat % 64 = 0)
    let sg (i : Nat) : Seg := t.sg.get (Fin.ofNat 8 (fld (w 1) (8 * i) 3 : BitVec 3).toNat)
    let range (i n bytes : Nat) (need : BitVec 3) (align : Nat) (kinds : List Nat) : Nat × Option Nat :=
      (n, if (sg i).kind ∉ kinds then some 0x04 else match segCheck u (sg i) (w n).toNat bytes need align true with
        | .error c => some c
        | .ok _ => none)
    let key (n align : Nat) : Nat × Option Nat :=
      (n, if w n = 0 then none else if (fld (w n) 18 30 : BitVec 30) ≠ 0 ∨ namesCore u (fld (w n) 48 16) = false then some 0x05
        else if (fld (w n) 0 18 : BitVec 18).toNat % align ≠ 0 then some 0x06 else none)
    let n := (w 4).toNat
    let c := (fld (w 5) 0 32 : W32).toNat
    let checks : List (Nat × Option Nat) :=
      (if p = 0 then [range 0 2 n needR 1 [0, 2, 3], range 1 3 n needW 1 [0, 2, 3]]
       else if p = 1 ∧ op = 0 then [range 2 2 (4 * c) needR 4 [0, 2, 3], range 1 4 (c * z) needW z [0, 2, 3], range 0 3 0 needR z [0, 2, 3]]
       else if p = 1 then [range 2 2 (4 * c) needR 4 [0, 2, 3], range 0 3 (c * z) needR z [0, 2, 3], range 1 4 0 needW z [0, 2, 3]]
       else if p = 2 then [range 0 2 (n * z) needR z [3], range 1 3 (n * z) needW z [3]]
       else [range 0 2 n needR 64 [0, 2, 3], range 1 3 n needRW 64 [2]]) ++ [key 6 64, key 7 8]
    (submission u p b = .misuse ↔ ¬ formed ∨ 8 ≤ (t.ports.get p).out.length) ∧
    (formed → (t.ports.get p).out.length < 8 →
      (∀ pre post n c, checks = pre ++ (n, some c) :: post → (∀ x ∈ pre, x.2 = none) → submission u p b = .trap c n) ∧
      ((∀ x ∈ checks, x.2 = none) → ∃ m, submission u p b = .ok m ∧ m.words = b ∧ m.port = p.val ∧ m.opcode = op ∧ m.core = u.core ∧
        m.slot = u.slot ∧ m.tag = t.tag ∧ m.asid = asidOf u t u.slot ∧ m.started = false ∧
        m.ranges = (blockRanges p.val b).map (rangePlace u.core t) ∧
        ∀ i n bytes need align kinds, range i n bytes need align kinds = (n, none) → (sg i).kind ∈ kinds))

/-- pop takes the oldest element of a port, or waits while one is due and traps 0x0C when none is; poll takes one too, or gives zero. bellh sets the
handler and gives the old one, a misaligned one changing nothing; a bell enters it at a boundary, with the pc in bpc and the token in bid, and bret returns (09 R182-R185). -/
def Claims.ElementsAndBells : Prop :=
  (∀ (s : State) (d : Dst) (p : Fin 4),
    let y := s.me.ports.get p
    (Ready s (.pop d p) → y.elems ≠ [] → exec (.pop d p) s = .next ((after1 s (.e p)).result (.pop d p) d (val1 s (.e p)))) ∧
    (Ready s (.pop d p) → y.elems = [] → y.out.any Outstanding.element = true →
      exec (.pop d p) s = .next (s.setMe { s.me with st := .removed (.pop p) })) ∧
    (Ready s (.pop d p) → y.elems = [] → y.out.any Outstanding.element = false →
      ∃ t, exec (.pop d p) s = .next t ∧ Trapped s t 0x0C (BitVec.ofNat 64 p.val) 0) ∧
    (Ready s (.poll d p) → y.elems ≠ [] → exec (.poll d p) s = .next ((after1 s (.e p)).result (.poll d p) d (val1 s (.e p)))) ∧
    (Ready s (.poll d p) → y.elems = [] → plainDst d = true →
      ∃ t, exec (.poll d p) s = .next t ∧ t.me = (s.me.putReg d 0).performed (nextPc s.me (lengthOf (.poll d p))))) ∧
  (∀ (s : State) (d : Dst) (a : Src), Ready s (.bellh d a) →
    let u := after1 s a
    ((fld (val1 s a) 0 2 : BitVec 2) ≠ 0 → ∃ t, exec (.bellh d a) s = .next t ∧ TrappedOpen s t 0x06) ∧
    ((fld (val1 s a) 0 2 : BitVec 2) = 0 → plainDst d = true → u.me.st = .runnable → ∃ t, exec (.bellh d a) s = .next t ∧
      t.me = { (u.me.putReg d u.me.bh).performed (nextPc u.me (lengthOf (.bellh d a))) with bh := val1 s a })) ∧
  (∀ (s : State),
    (s.me.inHandler = false → ∃ t n x, exec .bret s = .next t ∧ Trapped { s with fresh := n } t 0x0C x 0) ∧
    (s.me.inHandler = true → ∃ t, exec .bret s = .next t ∧ t.me = { s.me.performed s.me.bpc with inHandler := false })) ∧
  (∀ (s : State) (c : Nat) (k : Fin 16) (p : Fin 4) (n : Nat) (id : W32) (l : List (Fin 4 × Nat × W32)),
    let T := s.thread c k
    T.bells = (p, n, id) :: l →
    (T.st = .runnable ∨ ∃ m j, T.st = .blocked (.wait m j)) → T.bh ≠ 0 → (fld T.bh 0 2 : BitVec 2) = 0 → T.inHandler = false →
    T.tow = .none → failedRelaxed T = none → T.midway = false →
    ∃ t, exec (.bellTaken c k) s = .next t ∧ (t.thread c k).pc = T.bh ∧ (t.thread c k).bpc = T.pc ∧ (t.thread c k).bid = id ∧
      (t.thread c k).inHandler = true ∧ (t.thread c k).st = .runnable ∧ (t.thread c k).bells = l ∧ (t.thread c k).w = T.w ∧
      (t.thread c k).g = T.g)

/-- Engine commands, elements and bells: the claims above. -/
def Obligations.PortsElementsBells : Prop := Claims.EngineCommands ∧ Claims.SubmissionChecks ∧ Claims.ElementsAndBells

/-- alloc awaits the allocator's answer and free its acceptance; a free of an address that is no block of an enabled pool traps 0x0C. The allocator
answers with the newest held address, or zero when the pool is disabled or exhausted, and takes a freed block as its newest while it holds fewer
than 16 (09 R186; 17 R290, R291). -/
def Claims.AllocatorInstructions : Prop :=
  (∀ (s : State) (d : Dst) (a : Src), Ready s (.alloc d a) →
    exec (.alloc d a) s = .next (((after1 s a).advance (.alloc d a)).remove (.alloc d (val1 s a).toNat))) ∧
  (∀ (s : State) (a b : Src), Ready s (.free a b) →
    let u := after2 s a b
    let x := (val1 s a).toNat
    let p := (val2 s a b).toNat
    let y := getPool u (dieOf u.core) p
    let good := p ≤ 255 ∧ y.enabled = true ∧ y.base ≤ x ∧ x < y.base + y.count * y.size ∧ (x - y.base) % y.size = 0
    (good → exec (.free a b) s = .next ((u.advance (.free a b)).remove (.free (val1 s a) p))) ∧
    (¬ good → ∃ t n v, exec (.free a b) s = .next t ∧ Trapped { u with fresh := n } t 0x0C v 0)) ∧
  (∀ (s : State) (c : Nat) (k : Fin 16) (p : Nat),
    let T := s.thread c k
    let y := getPool s (dieOf c) p
    (∀ d, T.st = .removed (.alloc d p) → plainDst d = true → Calm s c k →
      (255 < p ∨ y.enabled = false ∨ y.held = [] ∧ y.head = 0 →
        ∃ t, exec (.allocatorReply c k) s = .next t ∧ t.thread c k = T.run.putReg d 0) ∧
      (∀ l x, p ≤ 255 → y.enabled = true → y.held = l ++ [x] → ∃ t, exec (.allocatorReply c k) s = .next t ∧
        t.thread c k = T.run.putReg d (BitVec.ofNat 64 x) ∧ getPool t (dieOf c) p = { y with held := l }) ∧
      (p ≤ 255 → y.enabled = true → y.held = [] → y.head ≠ 0 → exec (.allocatorReply c k) s = .next s)) ∧
    (∀ x, T.st = .removed (.free x p) →
      (y.held.length < 16 → Calm s c k → ∃ t, exec (.allocatorReply c k) s = .next t ∧ t.thread c k = T.run ∧
        getPool t (dieOf c) p = { y with held := y.held ++ [x.toNat] }) ∧
      (16 ≤ y.held.length → exec (.allocatorReply c k) s = .next s)))

/-- sys posts its six arguments, a flagged one as the address that it names with its segment's rights, to the hart that its number is steered to, and
awaits the reply; an unreachable argument answers 14 at once. trap takes trap 0x0D with its operand. rdcap reads a word of the capability list,
zero beyond it (09 R187, R188, R191; 19 R312; 21 R329, R330). -/
def Claims.SystemInstructions : Prop :=
  (∀ (s : State) (a b : Src), Ready s (.sys a b) →
    let u := after2 s a b
    let n := val1 s a
    let m := val2 s a b
    let arg (i : Nat) : Word := u.me.w.get (Fin.ofNat 24 (16 + i))
    let sg (i : Nat) : Seg := u.me.sg.get (Fin.ofNat 8 (fld (arg i) 61 3 : BitVec 3).toNat)
    let off (i : Nat) : Nat := (fld (arg i) 0 52 : BitVec 52).toNat
    let reach (i : Nat) : Prop := bit m i = true → (sg i).kind = 3 ∧ (fld (arg i) 52 9 : BitVec 9) = 0 ∧ off i ≤ (sg i).limit
    ((∃ i, i < 6 ∧ ¬ reach i) → exec (.sys a b) s = .next ((u.setMe ((u.me.setW 16 0).setW 17 14)).advance (.sys a b))) ∧
    ((∀ i, i < 6 → reach i) → ∃ t r, exec (.sys a b) s = .next t ∧ t.me.pc = nextPc u.me (lengthOf (.sys a b)) ∧
      (portAccepts u u.core r = true → OnItsWay t (senderThread u.core u.slot) r ∧ t.me.st = .removed .reply) ∧
      (portAccepts u u.core r = false → t.net = u.net ∧ t.me.st = .removed (.port r true)) ∧
      r.kind = kM ∧ r.key = n ∧ r.tag = u.me.tag ∧ r.pay.length = 8 ∧
      (∃ h : Fin 32, r.ta = hartTa u h ∧ h.val =
        (fld (u.wharf.steering.getD (n.toNat % 32 / 8) 0) (8 * (n.toNat % 8)) 5 : BitVec 5).toNat) ∧
      (∀ i, i < 6 → r.pay.getD i 0 = (if bit m i then BitVec.ofNat 64 ((fld (sg i).w0 0 52 : BitVec 52).toNat + off i) else arg i) ∧
        bit (r.pay.getD 6 0) i = bit m i ∧
        (fld (r.pay.getD 6 0) (6 + 3 * i) 3 : BitVec 3) = if bit m i then (sg i).rights else 0) ∧
      r.pay.getD 7 0 = (taOf u u.core u.slot).setWidth 64)) ∧
  (∀ (s : State) (a : Src), Ready s (.trap a) → ∃ t, exec (.trap a) s = .next t ∧ Trapped (after1 s a) t 0x0D (val1 s a) 0) ∧
  (∀ (s : State) (d : Dst) (a b : Src), Ready s (.rdcap d a b) →
    let u := after2 s a b
    let i := (val1 s a).toNat
    let r := capRecord u i
    exec (.rdcap d a b) s = .next (u.result (.rdcap d a b) d (if bit (val2 s a b) 0 then r.2 else r.1)) ∧
    (34 < i → r = (0, 0)) ∧
    (i = 4 → r.2 = BitVec.ofNat 64 ((List.range 2048).countP fun c => present u c)) ∧
    (4 < i → i < 29 → ∀ n, n < 64 → bit r.2 n = present u ((i - 5) / 6 * 512 + (4 * ((i - 5) % 6) + n / 16) * 16 + n % 16)) ∧
    (4 ≤ i → i < 29 → (fld r.1 48 16 : Half) = u.lock.generation ∧ (fld r.1 0 16 : Half) = 5))

/-- alloc and free, sys, trap and rdcap: the claims above. -/
def Obligations.AllocationAndSystem : Prop := Claims.AllocatorInstructions ∧ Claims.SystemInstructions

/-- An instruction of majors 0x28 to 0x31 other than the tow instructions changes no byte of memory but the journal entry of a collective command and,
where its operand is read through a global segment, page table entries; no other thread's registers; and no register of its thread but its
destination, w16 and w17 for sys, and the bell handler for bellh (08 R164-R174; 09 R175-R191; 13 R240). -/
def Claims.SystemFrame : Prop :=
  ∀ (s t : State) (i : Instr), isSystem i = true → exec i s = .next t →
    ((s.me.sg.get 0).kind ≠ 3 → MemoryKeepsBy s t i) ∧
      (Inv s → ∀ a, basinKey 0 0 ≤ a → (mayCollect i = true → ¬ InEntry s a) → Memory.get t.mem a = Memory.get s.mem a) ∧
      OthersKeep s t ∧ t.core = s.core ∧ t.slot = s.slot ∧ t.me.v = s.me.v ∧ t.me.m = s.me.m ∧ t.me.sg = s.me.sg ∧
      (∀ j, t.me.g.get j = s.me.g.get j ∨ instrDst i = some (.g j)) ∧
      (∀ j, t.me.w.get j = s.me.w.get j ∨ instrDst i = some (.w j) ∨ (∃ a b, i = .sys a b) ∧ (j = 16 ∨ j = 17)) ∧
      (t.me.special = s.me.special ∨ ∃ d a, i = .bellh d a ∧ { t.me.special with bh := s.me.bh } = s.me.special)

/-- Majors 0x24 to 0x27: issuing a weir instruction changes no byte of memory (but a journal entry, as above), no other thread's registers, and of its
thread's none but the destination (07 R130-R146). -/
def Claims.WeirFrame : Prop :=
  ∀ (s t : State) (i : Instr), isWeir i = true → exec i s = .next t →
    MemoryKeepsBy s t i ∧ DeviceKeepsBy s t i ∧ OthersKeep s t ∧ t.core = s.core ∧ t.slot = s.slot ∧ t.me.v = s.me.v ∧ t.me.m = s.me.m ∧
      t.me.sg = s.me.sg ∧ t.me.special = s.me.special ∧ (∀ j, t.me.g.get j = s.me.g.get j ∨ instrDst i = some (.g j)) ∧
      (∀ j, t.me.w.get j = s.me.w.get j ∨ instrDst i = some (.w j))

/-- Majors 0x08 to 0x0D, but end in a motor in slot 0: no byte of memory, no other thread's registers, no g, v, m or segment register changes; w
registers and the window change only by calls and returns, the alarm only by alarm, and no other special register (04 R89-R94). wrs changes the
register that it names and no other, and no thread but its own, but for kpc the target's pc (04 R88; 09 R196). -/
def Claims.ControlFrame : Prop :=
  (∀ (s t : State) (i : Instr), isControl i = true → (i = .endT → ∀ g r, s.me.tow ≠ .motor g r) → exec i s = .next t →
    MemoryKeeps s t ∧ OthersKeep s t ∧ DeviceKeeps s t ∧ t.core = s.core ∧ t.slot = s.slot ∧ t.me.g = s.me.g ∧ t.me.v = s.me.v ∧
      t.me.m = s.me.m ∧ t.me.sg = s.me.sg ∧
      ((∀ o, i ≠ .call o) → (∀ a, i ≠ .callr a) → i ≠ .ret → t.me.w = s.me.w ∧
        { t.me.special with alarm := s.me.alarm } = s.me.special ∧ ((∀ a, i ≠ .alarm a) → t.me.alarm = s.me.alarm)) ∧
      { t.me.special with older := s.me.older, depth := s.me.depth, alarm := s.me.alarm } = s.me.special) ∧
  (∀ (s t : State) (r : SReg) (a : Src), exec (.wrs r a) s = .next t →
    MemoryKeeps s t ∧ DeviceKeeps s t ∧ t.core = s.core ∧ t.slot = s.slot ∧ t.me.g = s.me.g ∧ t.me.w = s.me.w ∧ t.me.v = s.me.v ∧
      t.me.m = s.me.m ∧ t.me.sg = s.me.sg ∧
      { t.me.special with wb := s.me.wb, bh := s.me.bh, bpc := s.me.bpc, ev := s.me.ev } = s.me.special ∧
      (r ≠ .wb → t.me.wb = s.me.wb) ∧ (r ≠ .bh → t.me.bh = s.me.bh) ∧ (r ≠ .bpc → t.me.bpc = s.me.bpc) ∧ (r ≠ .ev → t.me.ev = s.me.ev) ∧
      (r ≠ .kca → t.myCore.kca = s.myCore.kca) ∧ (r ≠ .ksl → t.myCore.ksl = s.myCore.ksl) ∧ (r ≠ .lvl → t.myCore.lvl = s.myCore.lvl) ∧
      ∀ c k, (c, k) ≠ (s.core, s.slot) → (s.thread c k).sameRegs { t.thread c k with
        pc := if r = .kpc ∧ (c, k) = (s.core, s.myCore.selected) then (s.thread c k).pc else (t.thread c k).pc })

/-- kpark, ksave, kload, sgset, sgset.k, ctuinv, kfence, kpost and kcfg leave memory as it is (but a journal entry for a port destination and, for kpost
through a global segment, page table entries), and every register of every thread but the keeper's destination and the segment register that is
named (09 R192-R198). -/
def Claims.KeeperFrame : Prop :=
  ∀ (s t : State) (i : Instr), isKeeperOnly i = true → (∀ d, i ≠ .kresume d) → (∀ d, i ≠ .kkill d) → (∀ r a, i ≠ .kret r a) →
    exec i s = .next t →
    ((s.me.sg.get 0).kind ≠ 3 ∨ (∀ a, i ≠ .kpost a) → MemoryKeepsBy s t i) ∧
      (Inv s → ∀ a, basinKey 0 0 ≤ a → (mayCollect i = true → ¬ InEntry s a) → Memory.get t.mem a = Memory.get s.mem a) ∧
      t.core = s.core ∧ t.slot = s.slot ∧ t.me.v = s.me.v ∧ t.me.m = s.me.m ∧ t.me.special = s.me.special ∧
      (∀ c k, (c, k) ≠ (s.core, s.slot) → (∀ sg a b, i ≠ .sgsetK sg a b) → (s.thread c k).sameRegs (t.thread c k)) ∧
      (∀ c k sg a b, i = .sgsetK sg a b → (c, k) ≠ (s.core, s.slot) → (c, k) ≠ (s.core, s.myCore.selected) →
        (s.thread c k).sameRegs (t.thread c k)) ∧
      (∀ j, t.me.g.get j = s.me.g.get j ∨ instrDst i = some (.g j)) ∧ (∀ j, t.me.w.get j = s.me.w.get j ∨ instrDst i = some (.w j)) ∧
      (∀ j, t.me.sg.get j = s.me.sg.get j ∨ ∃ a b, i = .sgset j a b ∨ i = .sgsetK j a b)

/-- tow, moor, castoff and end; kresume, kkill and kret: no byte of memory changes, no register of the thread that executes but its destination, and no
register of a thread that is neither Blocked (it may be in moor on the tow that ends) nor the keeper's target. A thread that completes a moor
into the collective engine's port, and a target with relaxed accesses or a fault to replay, are shut out of the claim on memory (08 R169-R171; 04
R91; 09 R192, R196). -/
def Claims.TowAndResumeFrame : Prop :=
  ∀ (s t : State) (i : Instr) (tows : Bool), s.me.st = .runnable → exec i s = .next t →
    (tows = true ∧ ((∃ a b, i = .tow a b) ∨ (∃ d a, i = .moor d a) ∨ i = .castoff ∨ i = .endT) ∨
      tows = false ∧ ((∃ d, i = .kresume d) ∨ (∃ d, i = .kkill d) ∨ ∃ r a, i = .kret r a)) →
    let k := s.myCore.selected
    let T := s.thread s.core k
    let quiet := tows = true ∨ T.relaxed = [] ∧ ∀ p, T.st = .parked p → p.fault = none
    let moors (t : Thread) (d : Dst) : Prop := ∃ g n, t.st = .blocked (.moor g d n) ∨ ∃ p, t.st = .parked p ∧ p.before = some (.moor g d n)
    (quiet → (∀ c k d, moors (s.thread c k) d → d ≠ .e 2) → MemoryKeepsBy s t i) ∧
      t.core = s.core ∧ t.slot = s.slot ∧ t.me.v = s.me.v ∧ t.me.m = s.me.m ∧ t.me.sg = s.me.sg ∧ t.me.special = s.me.special ∧
      (∀ j, t.me.g.get j = s.me.g.get j ∨ instrDst i = some (.g j)) ∧ (∀ j, t.me.w.get j = s.me.w.get j ∨ instrDst i = some (.w j)) ∧
      ∀ c j, (c, j) ≠ (s.core, s.slot) → (tows = true ∨ (c, j) ≠ (s.core, k)) → (∀ b, (s.thread c j).st ≠ .blocked b) →
        (s.thread c j).sameRegs (t.thread c j)

/-- The helm custom words leave every thread's registers, the other harts' registers and pcs, time and power as they are, and of the hart's integer
registers all but their destination; swq.run no byte of memory (10 R209-R211, R215). -/
def Claims.HelmFrame : Prop :=
  ∀ (s t : State) (i : Instr), isHelm i = true → exec i s = .next t →
    t.hart = s.hart ∧ t.clk = s.clk ∧ t.mtime = s.mtime ∧ t.power = s.power ∧ (∀ c k, (s.thread c k).sameRegs (t.thread c k)) ∧
      (∀ h j : Fin 32, h ≠ s.hart → (t.getHart h.val).getX j = (s.getHart h.val).getX j ∧ (t.getHart h.val).pc = (s.getHart h.val).pc ∧
        (t.getHart h.val).mode = (s.getHart h.val).mode) ∧
      (∀ j, t.myHart.getX j = s.myHart.getX j ∨ (∃ a, i = .swqGen j a) ∨ (∃ a, i = .swqPost j a) ∨ ∃ a b, i = .swqHold j a b) ∧
      ((∃ rd a b, i = .swqRun rd a b) → MemoryKeeps s t ∧ t.helmCache = s.helmCache)

/-- What weir, control, system, tow, keeper and helm instructions leave unchanged: the claims above. -/
def Obligations.SystemFrames : Prop := Claims.SystemFrame ∧ Claims.WeirFrame ∧ Claims.ControlFrame ∧ Claims.KeeperFrame ∧ Claims.TowAndResumeFrame ∧ Claims.HelmFrame

/-- Slots 1 to 15 take trap 0x02 for every keeper instruction, with no other effect (02 R46). -/
def Claims.KeeperOnlyTraps : Prop :=
  ∀ (s : State) (i : Instr), isKeeperOnly i = true → s.slot ≠ 0 → ∃ t, exec i s = .next t ∧ Trapped s t 0x02 0 0

/-- sgset writes a segment register of the keeper, sgset.k one of its target, reserved bits as zero; ctuinv drops the range's leaves in every CTU as it issues
(log entry 59) and completes when no access that has been performed in part uses one; kret writes a register of a parked target and resumes it, at the pc that the
keeper wrote where the target faulted elsewhere; kfence waits for the target's relaxed accesses; kcfg writes its item, and
traps 0x01 for one that is unknown (09 R194-R196, R198). -/
def Claims.KeeperConfiguration : Prop :=
  (∀ (s : State) (sg : Fin 8) (a b : Src), s.slot = 0 →
    let u := after2 s a b
    let g : Seg := { w0 := val1 s a, w1 := (fld (val2 s a b) 0 59 : BitVec 59).setWidth 64 }
    let k := u.myCore.selected
    (Ready s (.sgset sg a b) → exec (.sgset sg a b) s = .next ((u.setMe (u.me.setSg sg g)).advance (.sgset sg a b))) ∧
    (Ready s (.sgsetK sg a b) → exec (.sgsetK sg a b) s = .next ((if (u.thread u.core k).st = .empty then u
      else u.setThread u.core k ((u.thread u.core k).setSg sg g)).advance (.sgsetK sg a b)))) ∧
  (∀ (s : State) (a b : Src), s.slot = 0 → Ready s (.ctuinv a b) →
    let u := after2 s a b
    let x := val1 s a
    let lo := (fld (val2 s a b) 16 36 : BitVec 36).toNat
    let hi := lo + (fld (val2 s a b) 52 12 : BitVec 12).toNat + 1
    ∃ t, exec (.ctuinv a b) s = .next t ∧ MemoryKeeps u t ∧ t.me.pc = nextPc u.me (lengthOf (.ctuinv a b)) ∧
      (∃ n, n ≤ u.clk + 1024 ∧
        t.me.st = .removed (.ctuinv n (if bit x 16 then none else some (fld x 0 16 : Half).toNat) lo hi)) ∧
      ∀ (cl : Nat) (l : Leaf), l ∈ (t.cluster cl).leaves ↔ l ∈ (u.cluster cl).leaves ∧
        ¬ ((bit x 16 = true ∨ l.asid = (fld x 0 16 : Half).toNat) ∧
          (if l.large then l.page < hi ∧ lo < l.page + 2 ^ 18 else lo ≤ l.page ∧ l.page < hi))) ∧
  (∀ (s : State) (c n lo hi : Nat) (asid : Option Nat), (s.thread c 0).st = .removed (.ctuinv n asid lo hi) →
    (rangeInUse s asid lo hi = true → exec (.ctuinvComplete c) s = .next s) ∧
    (rangeInUse s asid lo hi = false → Calm s c 0 →
      ∃ t, exec (.ctuinvComplete c) s = .next t ∧ t.thread c 0 = (s.thread c 0).run) ∧
    (∀ j k x h ps p, (SMap.find s.cores j).isSome = true → (s.thread j k).st = .removed (.mem x) → x.half = some h → h.home = .held ps →
      p ∈ ps → p.1.inRange asid lo hi = true → rangeInUse s asid lo hi = true)) ∧
  (∀ (s : State) (r : Fin 32) (a : Src), s.slot = 0 → Ready s (.kret r a) →
    let u := after1 s a
    let k := u.myCore.selected
    let T := u.thread u.core k
    let reg : Dst := if r.val < 8 then .g (Fin.ofNat 8 r.val) else .w (Fin.ofNat 24 (r.val - 8))
    (k = 0 ∨ T.st.code ≠ 4 → exec (.kret r a) s = .next (u.advance (.kret r a))) ∧
    (∀ p, k ≠ 0 → T.st = .parked p → p.fault = none → p.before = none → Calm u u.core k →
      ∃ t, exec (.kret r a) s = .next t ∧ t.thread u.core k = { (T.putReg reg (val1 s a)).run with joined := u.clk } ∧
        t.me = u.me.performed (nextPc u.me (lengthOf (.kret r a)))) ∧
    (∀ p x, k ≠ 0 → T.st = .parked p → p.fault ≠ none → p.acc = some (false, x) → T.pc ≠ x.pc → Calm u u.core k →
      ∃ t, exec (.kret r a) s = .next t ∧ t.thread u.core k = { (T.putReg reg (val1 s a)).run with joined := u.clk } ∧
        t.me = u.me.performed (nextPc u.me (lengthOf (.kret r a))))) ∧
  (∀ (s : State), s.slot = 0 → Ready s .kfence →
    let T := s.thread s.core s.myCore.selected
    (T.relaxed = [] → exec .kfence s = .next (s.advance .kfence)) ∧
    ((∃ r ∈ T.relaxed, r.poison = false ∧ r.status = none ∧ r.denied = false) → exec .kfence s = .next ((s.advance .kfence).remove .kfence))) ∧
  (∀ (s : State) (a b : Src), s.slot = 0 → Ready s (.kcfg a b) →
    let u := after2 s a b
    let n := (val1 s a).toNat
    let v := val2 s a b
    (0x15 ≤ n → ∃ t, exec (.kcfg a b) s = .next t ∧ Trapped u t 0x01 (val1 s a) v) ∧
    (n < 0x15 → ∃ z, exec (.kcfg a b) s = .next ((u.setMyCore z).advance (.kcfg a b)) ∧ z.slots = u.myCore.slots ∧
      z.queues = u.myCore.queues ∧ z.pound = u.myCore.pound ∧ z.deque = u.myCore.deque ∧
      (∀ j : Fin 8, (z.template.get j).w0 = (if n = 2 * j.val then v else (u.myCore.template.get j).w0) ∧
        (z.template.get j).w1 = (if n = 2 * j.val + 1 then (fld v 0 59 : BitVec 59).setWidth 64 else (u.myCore.template.get j).w1)) ∧
      z.stackBase = (if n = 0x10 then v else u.myCore.stackBase) ∧ z.ringBase = (if n = 0x11 then v else u.myCore.ringBase) ∧
      z.vector = (if n = 0x12 then v else u.myCore.vector) ∧ z.slot1 = (if n = 0x13 then v else u.myCore.slot1) ∧
      z.faultBase = (if n = 0x14 then v else u.myCore.faultBase)))

/-- kpost posts the record that stands at its operand as it is written, a task's reserved fields as zero (08 R149); kind K, and a target that is no present core and no helm hart, trap 0x05 with
the operand and the header (09 R197). -/
def Claims.KeeperPosts : Prop :=
  (∀ (kind : Nat) (w : List Word), (kind ≠ kT → delivered kind w = w) ∧ (kind = kT → (delivered kind w).length = w.length ∧
    ∀ j, j < w.length → (delivered kind w).getD j 0 = if j = 0 then (fld (w.getD 0 0) 0 55 : BitVec 55).setWidth 64
      else if j = 1 then (fld (w.getD 1 0) 0 32 : W32).setWidth 64 else if j = 2 then (fld (w.getD 2 0) 0 48 : BitVec 48).setWidth 64
      else w.getD j 0)) ∧
  ∀ (s : State) (a : Src) (x : Nat), s.slot = 0 → Ready s (.kpost a) →
    let u := after1 s a
    let w (i : Nat) : Word := BitVec.ofNat 64 (bytesNat (rawRead u (lsKey u.core x + 8 * i) 8))
    let n := (fld (w 0) 30 3 : BitVec 3).toNat + 1
    let r : Record := { hdr := w 0, key := w 1, pay := delivered (fld (w 0) 37 3 : BitVec 3).toNat ((List.range n).map fun i => w (2 + i)) }
    (u.me.sg.get 0).kind = 0 → segCheck u (u.me.sg.get 0) (val1 s a).toNat 8 needR 8 true = .ok x →
    segCheck u (u.me.sg.get 0) (val1 s a).toNat (16 + 8 * n) needR 8 true = .ok x → poisoned u (lsKey u.core x) (16 + 8 * n) = false →
    (r.kind = kK ∨ namesPound u r.ta = false → ∃ t, exec (.kpost a) s = .next t ∧ Trapped u t 0x05 (val1 s a) (w 0)) ∧
    (r.kind ≠ kK → namesPound u r.ta = true → portAccepts u u.core r = true → ∃ t, exec (.kpost a) s = .next t ∧ t.mem = u.mem ∧
      OnItsWay t (senderThread u.core u.slot) r ∧ t.me = u.me.performed (nextPc u.me (lengthOf (.kpost a)))) ∧
    (r.kind ≠ kK → namesPound u r.ta = true → portAccepts u u.core r = false → ∃ t, exec (.kpost a) s = .next t ∧ t.net = u.net ∧
      t.me.st = .removed (.port r false) ∧ t.me.pc = nextPc u.me (lengthOf (.kpost a)))

/-- Keeper-only instructions: their trap outside slot 0, segments, configuration, records: the claims above. -/
def Obligations.KeeperInstructions : Prop := Claims.KeeperOnlyTraps ∧ Claims.KeeperConfiguration ∧ Claims.KeeperPosts

/-- kpark, kresume and kkill write the state code that the target had; kpark parks it at once, or when its operation completes, and remembers what it
was Blocked in (a Runnable thread that issues an instruction anew is inside its operation, log entry 21); kresume returns it to that state, or lets it run if what it waited for has come; kkill empties its slot and counts it as retired, out of its groups,
and dissolves the tow of a motor. With ksl 0, and kpark with ksl 1, they have no other effect (09 R192; 01 R21). -/
def Claims.ParkResumeKill : Prop :=
  (SlotState.empty.code = 0 ∧ SlotState.runnable.code = 1 ∧ (∀ r, (SlotState.removed r).code = 2) ∧ (∀ b, (SlotState.blocked b).code = 3) ∧
    ∀ p, (SlotState.parked p).code = 4) ∧
  ∀ (s : State) (d : Dst), s.slot = 0 → plainDst d = true → s.me.st = .runnable →
    let k := s.myCore.selected
    let T := s.thread s.core k
    let told (i : Instr) : Thread := (s.me.putReg d (BitVec.ofNat 64 T.st.code)).performed (nextPc s.me (lengthOf i))
    (Ready s (.kpark d) → ∃ t, exec (.kpark d) s = .next t ∧ t.me = told (.kpark d) ∧ MemoryKeeps s t ∧
      (k = 1 → t.thread s.core k = T) ∧
      (2 ≤ k.val → (T.st = .runnable ∧ T.midway = false ∨ T.st = .removed .held → t.thread s.core k = { T with st := .parked {} }) ∧
        (∀ b, T.st = .blocked b → t.thread s.core k = { T with st := .parked { before := some b } }) ∧
        (T.st = .runnable → T.midway = true → t.thread s.core k = { T with parkDue := true }) ∧
        (∀ r, T.st = .removed r → r ≠ .held → t.thread s.core k = { T with parkDue := true }) ∧
        (T.st.code = 0 ∨ T.st.code = 4 → t.thread s.core k = T))) ∧
    (Ready s (.kresume d) → k = 0 ∨ T.st.code ≠ 4 → ∃ t, exec (.kresume d) s = .next t ∧ t.me = told (.kresume d) ∧
      (k ≠ 0 → t.thread s.core k = T)) ∧
    (∀ p, Ready s (.kresume d) → k ≠ 0 → T.st = .parked p → p.fault = none → Calm s s.core k →
      ∃ t, exec (.kresume d) s = .next t ∧ t.me = told (.kresume d) ∧
        (p.before = none → t.thread s.core k = { T.run with joined := s.clk }) ∧
        (∀ q, p.before = some (.queueRead q) → t.thread s.core k =
          if (s.myCore.queue q).enabled = true ∧ (s.myCore.queue q).entries = [] ∧ (s.myCore.queue q).drained = false
            then { T with st := .blocked (.queueRead q) } else { T.run with joined := s.clk }) ∧
        (∀ q, p.before = some (.queueWrite q) → t.thread s.core k =
          if (s.myCore.queue q).enabled = true ∧ 16 ≤ (s.myCore.queue q).entries.length
            then { T with st := .blocked (.queueWrite q) } else { T.run with joined := s.clk }) ∧
        (∀ q v, p.before = some (.queuePush q v) → t.thread s.core k =
          if 16 ≤ (s.myCore.queue q).entries.length then { T with st := .blocked (.queuePush q v) } else { T.run with joined := s.clk }) ∧
        (∀ g e n, p.before = some (.moor g e n) → plainDst e = true →
          (∀ v, moorNow (s.as s.core k) g = some v → t.thread s.core k = (T.run.putReg e v).performed (nextPc T n)) ∧
          (moorNow (s.as s.core k) g = none → t.thread s.core k = { T with st := .blocked (.moor g e n) })) ∧
        (p.before = some .butty → t.thread s.core k =
          if T.isButty = true ∧ T.fwd = [] then { T with st := .blocked .butty } else { T.run with joined := s.clk }) ∧
        (∀ m n, p.before = some (.wait m n) → t.thread s.core k =
          if T.ev &&& m = 0 then { T with st := .blocked (.wait m n) } else T.run.performed (nextPc T n)) ∧
        (∀ g n, p.before = some (.bar g n) → t.thread s.core k =
          if p.done then T.run.performed (nextPc T n) else { T with st := .blocked (.bar g n) })) ∧
    (Ready s (.kkill d) → k = 0 ∨ T.st = .empty → ∃ t, exec (.kkill d) s = .next t ∧ t.me = told (.kkill d) ∧
      (k ≠ 0 → t.thread s.core k = T)) ∧
    (Ready s (.kkill d) → k ≠ 0 → T.st ≠ .empty → T.relaxed = [] → T.serving = none → (∀ g r, T.tow ≠ .motor g r) →
      ∃ t, exec (.kkill d) s = .next t ∧ t.me = told (.kkill d) ∧ MemoryKeeps s t ∧ (t.thread s.core k).st = .empty ∧
        (SMap.getD t.myCore.counts T.tag.toNat {}).retired = (SMap.getD s.myCore.counts T.tag.toNat {}).retired + 1 ∧
        (∀ g, taNum s.core k ∉ (t.group g).members ∧ taNum s.core k ∉ (t.group g).pending) ∧ t.net = s.net) ∧
    (∀ g r, Ready s (.kkill d) → k ≠ 0 → T.st ≠ .empty → T.relaxed = [] → T.serving = none → T.tow = .motor g r → groupOf g ≠ none →
      ∃ t, exec (.kkill d) s = .next t ∧ (t.thread s.core k).st = .empty ∧ (t.group g).tow = 2)

/-- ksave and kload remove the keeper for 24 cycles. ksave then writes the thread to its save area, empties the slot and sets its save-in-use flag, or
refuses with 1 to 5; kload restores what the area holds, or refuses with 1 (09 R193; the order of the refusals and slot 1's are log entry 36, what a saved thread's tow does is log entry 47). -/
def Claims.SaveAndLoad : Prop :=
  (∀ (s : State) (d : Dst), s.slot = 0 →
    (Ready s (.ksave d) → exec (.ksave d) s = .next ((s.advance (.ksave d)).remove (.saveLoad false d (s.clk + 24)))) ∧
    (Ready s (.kload d) → exec (.kload d) s = .next ((s.advance (.kload d)).remove (.saveLoad true d (s.clk + 24))))) ∧
  (∀ (s : State) (c : Nat) (isLoad : Bool) (d : Dst) (n : Nat), (s.thread c 0).st = .removed (.saveLoad isLoad d n) →
    (s.clk < n → exec (.keeperSaveLoadComplete c) s = .next s) ∧
    (n ≤ s.clk → plainDst d = true → Calm s c 0 → (s.getCore c).selected ≠ 0 →
      let k := (s.getCore c).selected
      let T := s.thread c k
      let a := saveArea (s.getCore c).kca k
      let answer (v : Word) (t : State) : Prop := t.thread c 0 = (s.thread c 0).run.putReg d v
      let refused (v : Word) : Prop := ∃ t, exec (.keeperSaveLoadComplete c) s = .next t ∧ answer v t ∧ MemoryKeeps s t ∧ t.thread c k = T
      let savable : Prop := 2 ≤ k.val ∧ ((∃ p, T.st = .parked p) ∨ (∃ m j, T.st = .blocked (.wait m j)) ∨ ∃ g j, T.st = .blocked (.bar g j))
      let busy : Prop := (∃ p : Fin 4, (T.ports.get p).out ≠ [] ∨ (T.ports.get p).staging ≠ []) ∨ T.bells ≠ []
      let paging : Prop := ∃ p, T.st = .parked p ∧ p.fault ≠ none
      (isLoad = false → ¬ savable → refused 1) ∧
      (isLoad = false → savable → busy → refused 2) ∧
      (isLoad = false → savable → ¬ busy → paging → refused 4) ∧
      (isLoad = false → savable → ¬ busy → ¬ paging → T.saveInUse = true → refused 5) ∧
      (isLoad = false → savable → ¬ busy → ¬ paging → T.saveInUse = false → T.relaxed = [] → T.older ≠ [] → T.spillAt = none → refused 3) ∧
      (isLoad = false → savable → ¬ busy → ¬ paging → T.saveInUse = false → T.relaxed = [] → T.older = [] → (∀ g r, T.tow ≠ .motor g r) →
        a + 1536 ≤ 262144 → Inv s →
        ∃ t, exec (.keeperSaveLoadComplete c) s = .next t ∧ answer 0 t ∧ MemoryKeepsOutside s t (lsKey c a) 1536 ∧
          (t.thread c k).st = .empty ∧ (t.thread c k).saveInUse = true ∧
          (∀ j : Fin 8, lsWord t c (a + 8 * j.val) = T.g.get j) ∧ (∀ j : Fin 24, lsWord t c (a + 64 + 8 * j.val) = T.w.get j) ∧
          (∀ (j : Fin 16) (i : Fin 8), lsWord t c (a + 256 + 64 * j.val + 8 * i.val) = lane 64 (T.v.get j) i.val) ∧
          (∀ j : Fin 4, lsWord t c (a + 1280 + 8 * j.val) = T.m.get j) ∧
          (∀ j : Fin 8, lsWord t c (a + 1312 + 16 * j.val) = (T.sg.get j).w0 ∧ lsWord t c (a + 1320 + 16 * j.val) = (T.sg.get j).w1) ∧
          lsWord t c (a + 1440) = (0 : Half) ++ T.fo ++ T.fw ++ T.fa ∧ lsWord t c (a + 1448) = T.fsc ∧ lsWord t c (a + 1456) = T.pc ∧
          lsWord t c (a + 1464) = T.ev ∧ lsWord t c (a + 1472) = T.alarm ∧ lsWord t c (a + 1480) = T.bh ∧ lsWord t c (a + 1488) = T.bpc ∧
          (fld (lsWord t c (a + 1496)) 48 16 : Half) = T.wb ∧ (fld (lsWord t c (a + 1496)) 32 16 : Half) = T.tag ∧
          bit (lsWord t c (a + 1496)) 27 = false ∧ bit (lsWord t c (a + 1496)) 22 = T.inHandler ∧ bit (lsWord t c (a + 1496)) 21 = T.runOpen ∧
          (fld (lsWord t c (a + 1496)) 0 16 : Half) = T.wsp ∧ (fld (lsWord t c (a + 1496)) 16 5 : BitVec 5).toNat = T.depth % 32 ∧ lsWord t c (a + 1512) = T.bid ++ T.inst ∧
          (∀ p, T.st = .parked p → (fld (lsWord t c (a + 1496)) 24 3 : BitVec 3) = 0 ∧ lsWord t c (a + 1520) = BitVec.ofNat 64 p.cause) ∧
          (∀ m j, T.st = .blocked (.wait m j) → (fld (lsWord t c (a + 1496)) 24 3 : BitVec 3) = 1 ∧ lsWord t c (a + 1504) = m) ∧
          (∀ g j, T.st = .blocked (.bar g j) →
            (fld (lsWord t c (a + 1496)) 24 3 : BitVec 3) = 2 ∧ lsWord t c (a + 1504) = g.setWidth 64)) ∧
      (∀ g r, isLoad = false → savable → ¬ busy → ¬ paging → T.saveInUse = false → T.relaxed = [] → T.older = [] → T.tow = .motor g r →
        groupOf g ≠ none → ∃ t, exec (.keeperSaveLoadComplete c) s = .next t ∧ answer 0 t ∧ (t.thread c k).st = .empty ∧ (t.group g).tow = 2) ∧
      (isLoad = true → T.st ≠ .empty ∨ T.saveInUse = false → refused 1) ∧
      (isLoad = true → T.st = .empty → T.saveInUse = true →
        let w (j : Nat) : Word := lsWord s c (a + 8 * j)
        let block : BitVec 3 := fld (w 187) 24 3
        ∃ t, exec (.keeperSaveLoadComplete c) s = .next t ∧ answer 0 t ∧ MemoryKeeps s t ∧
          let U := t.thread c k
          U.saveInUse = false ∧ (∀ j : Fin 8, U.g.get j = w j.val) ∧ (∀ j : Fin 24, U.w.get j = w (8 + j.val)) ∧
          (∀ (j : Fin 16) (i : Fin 8), lane 64 (U.v.get j) i.val = w (32 + 8 * j.val + i.val)) ∧ (∀ j : Fin 4, U.m.get j = w (160 + j.val)) ∧
          (∀ j : Fin 8, U.sg.get j = ⟨w (164 + 2 * j.val), (fld (w (165 + 2 * j.val)) 0 59 : BitVec 59).setWidth 64⟩) ∧ (U.fo ++ U.fw ++ U.fa : BitVec 48) = fld (w 180) 0 48 ∧
          U.fsc = w 181 ∧ U.ev = w 183 ∧ U.alarm = w 184 ∧ U.bh = w 185 ∧ U.bpc = w 186 ∧ U.wb = fld (w 187) 48 16 ∧
          U.tag = fld (w 187) 32 16 ∧ U.inHandler = bit (w 187) 22 ∧ U.runOpen = bit (w 187) 21 ∧ U.depth = (fld (w 187) 16 5 : BitVec 5).toNat ∧ U.wsp = fld (w 187) 0 16 ∧
          U.bid ++ U.inst = w 189 ∧
          (block = 0 → U.pc = w 182 ∧ ∃ p, U.st = .parked p ∧ p.cause = (fld (w 190) 0 8 : Byte).toNat) ∧
          (block = 1 → w 183 &&& w 188 = 0 → U.pc = w 182 ∧ ∃ j, U.st = .blocked (.wait (w 188) j)) ∧
          (block = 2 → bit (w 187) 27 = false → U.pc = w 182 ∧ ∃ j, U.st = .blocked (.bar (fld (w 188) 0 16) j)))))

/-- Parking, resuming, killing, saving and loading threads: the claims above. -/
def Obligations.ParkResumeKillSaveLoad : Prop := Claims.ParkResumeKill ∧ Claims.SaveAndLoad

/-- A chunk of a copy, a line of a Basin operation, a chunk of a collective and an element of a gather or scatter is performed once its ranges are translated: a
fault parks the command, unless one of it is outstanding, with a fault record that names the thread and the engine. A chunk, and an element of 64 bytes, is read whole and written one 8-byte unit at a time, with at most 8 in
flight in an engine. Indexes are read in ascending order; an index beyond the segment's limit, or the top of its tier (log entry 39), leaves status 1. A poisoned
source, or a chunk whose check fails twice, leaves status 7 (over 1, log entry 54; 13 R244; 14 R256; 17 R280-R283; 21 R320). -/
def Claims.EngineParts : Prop :=
  (∀ (s : State) (cl asid off n access : Nat) (r : Nat × Nat),
    (r.1 ≠ 3 → placeRange s cl asid r off n access = .at' (.raw (r.2 + off)) s) ∧
    (∀ h u, r.1 = 3 → placeRange s cl asid r off n access = .at' h u → h = .dva cl asid (r.2 + off))) ∧
  (∀ (s u : State) (e : Eng) (n i code access dva : Nat) (m : Cmd) (ev : Instr), liveCmd s e n = some m → m.helm = none → m.mayDo i = true →
    (∀ c ∈ m.flight, c.no ≠ i) → (s.engine e).inFlight < 8 →
    let a := (m.range 1).2
    ((∃ cl mm, e = .copy cl ∧ ev = .copyChunk cl n i (.read mm) ∧ i < chunkCount a m.copyLen ∧ placeBoth s cl m.asid (m.range 0) (m.range 1)
        (chunkOff a i) (chunkLen a m.copyLen i) (chunkOff a i) (chunkLen a m.copyLen i) 1 = .fault u code access dva) ∨
      (∃ die, e = .basin die ∧ ev = .basinOpLine die n i ∧ i < (m.words.getD 4 0).toNat / 64 ∧
        placeBoth s (clusterOf m.core) m.asid (m.range 0) (m.range 1) (64 * i) 64 (64 * i) 64 2 = .fault u code access dva)) →
    ∃ t, exec ev s = .next t ∧
      (m.parked = none → (t.engine e).cmds = setAt (u.engine e).cmds n { m with parked := some (i, dva) } ∧
        OnItsWay t (engSender e) (mkRec (coreTa (coreAddress u (pagerOf m.core))) kF 10 m.tag
          ((0 : BitVec 12) ++ BitVec.ofNat 16 m.asid ++ BitVec.ofNat 36 (dva / 65536))
          ([BitVec.ofNat 4 code ++ BitVec.ofNat 2 access ++ (0 : BitVec 2) ++ (1 : BitVec 4) ++ BitVec.ofNat 52 dva,
            (waiterField (taOf u m.core m.slot) true (engPort e) m.index).setWidth 64] ++ List.replicate 6 0))) ∧
      (m.parked ≠ none → t = u)) ∧
  (∀ (s : State) (cl n chunk : Nat) (mm : BitVec 2) (m : Cmd), liveCmd s (.copy cl) n = some m → m.isMulticast = false →
    let e : Eng := .copy cl
    let dst := (m.range 1).2
    let lo := max dst ((dst / 4096 + chunk) * 4096)
    let hi := min (dst + m.copyLen) ((dst / 4096 + chunk + 1) * 4096)
    (m.helm = none → m.copyLen = (m.words.getD 4 0).toNat) ∧
    (chunk ∈ m.done ∨ (∃ c ∈ m.flight, c.no = chunk) ∨ 8 ≤ ((s.engine e).cmds.map fun x => (x.flight.map Chunk.no).eraseDups.length).sum →
      exec (.copyChunk cl n chunk (.read mm)) s = .next s) ∧
    (∀ src h u, m.mayDo chunk = true → lo < hi → (∀ c ∈ m.flight, c.no ≠ chunk) → (s.engine e).inFlight < 8 →
      placeBoth s cl m.asid (m.range 0) (m.range 1) (lo - dst) (hi - lo) (lo - dst) (hi - lo) 1 = .at' src h u →
      let bad := homePoisoned u src 0 (hi - lo) = true
      ∃ t c, exec (.copyChunk cl n chunk (.read mm)) s = .next t ∧ MemoryKeeps u t ∧ c.no = chunk ∧ c.core = 0 ∧
        c.bytes = homeRead u src 0 (hi - lo) ∧ (∀ k, k ∈ c.left ↔ k ≤ (hi - 1) / 8 - lo / 8) ∧ c.dst = h.hold u (hi - lo) ∧
        (t.engine e).cmds = setAt (u.engine e).cmds n
          { m with flight := m.flight ++ [c], status := if bad ∨ 2 ≤ mm.toNat then 7 else m.status })) ∧
  (∀ (s : State) (e : Eng) (n i piece d : Nat) (m : Cmd) (c : Chunk) (ev : Instr), (s.engine e).cmds[n]? = some m → m.started = true →
    ((∃ cl, e = .copy cl ∧ ev = .copyChunk cl n i (.write piece) ∧ d = (m.range 1).2 + chunkOff (m.range 1).2 i) ∨
      (∃ die, e = .coll die ∧ ev = .collectiveMatch die n (.write i piece) ∧ d = (m.range 1).2 + chunkOff (m.range 1).2 i) ∨
      (∃ cl, e = .gather cl ∧ ev = .gatherElement cl n ⟨i, some piece⟩ ∧ d = 0)) →
    m.flight.find? (fun x => x.no == i && x.core == 0) = some c →
    let x := 8 * (d / 8 + piece) - d
    let y := min c.bytes.length (8 * (d / 8 + piece + 1) - d) - x
    let left := c.left.filter (· != piece)
    let others := m.flight.filter fun f => f.no != i || f.core != 0
    (piece ∉ c.left ∨ c.dst.busy s = true → exec ev s = .next s) ∧
    (piece ∈ c.left → c.dst.busy s = false → ∃ t, exec ev s = .next t ∧ (t.engine e).cmds = setAt (s.engine e).cmds n
        (if left = [] then { m with flight := others, done := if others.any (fun f => f.no == i) then m.done else i :: m.done }
         else { m with flight := { c with left := left } :: others }) ∧
      (Inv s → 0 < c.bytes.length → piece ≤ (d + c.bytes.length - 1) / 8 - d / 8 →
        (∀ a, c.dst = .raw a → rawRead t (a + x) y = (c.bytes.drop x).take y ∧ MemoryKeepsOutside s t (a + x) y) ∧
        (∀ l a, c.dst = .held [(l, a, c.bytes.length)] →
          physRead t (keyGen t (keyOfLeaf l.leaf)) (a + x) y = (c.bytes.drop x).take y)) ∧
      (∀ a j, c.dst = .raw a → a % 64 = d % 64 → left = [] → (d + j) / 64 ∈ c.bad → poisoned t (a + j) 1 = true))) ∧
  (∀ (s : State) (cl n i : Nat) (m : Cmd), liveCmd s (.gather cl) n = some m → m.mayDo i = true → i < m.count → (∀ c ∈ m.flight, c.no ≠ i) →
    let e : Eng := .gather cl
    let ev : Instr := .gatherElement cl n ⟨i, none⟩
    let j := m.idx.length
    let x := (m.idx.getD i (0, false)).1
    let z := m.elem
    let bound := min m.limit (placeRoom s (m.range 2))
    let src := if m.gathers then (m.range 2, x * z) else (m.range 1, i * z)
    let dst := if m.gathers then (m.range 1, i * z) else (m.range 2, x * z)
    (∀ h u, j ≤ i → placeRange s cl m.asid (m.range 0) (4 * j) 4 0 = .at' h u → ∃ v, exec ev s = exec ev v ∧ MemoryKeeps u v ∧
      (v.engine e).cmds = setAt (u.engine e).cmds n { m with
        idx := m.idx ++ [(bytesNat (homeRead u h 0 4), homePoisoned u h 0 4)], status := if homePoisoned u h 0 4 then 7 else m.status }) ∧
    (j ≤ i → placeRange s cl m.asid (m.range 0) (4 * j) 4 0 = .waits → exec ev s = .next s) ∧
    (i < j → scatterWaits m i = true → exec ev s = .next s) ∧
    (i < j → scatterWaits m i = false → bound < x * z + z → exec ev s =
      .next (s.setCmd e n { m with status := if m.status = 0 then 1 else m.status, done := i :: m.done })) ∧
    (∀ g h u, i < j → scatterWaits m i = false → x * z + z ≤ bound → placeBoth s cl m.asid src.1 dst.1 src.2 z dst.2 z 1 = .at' g h u →
      let bad := (m.idx.getD i (0, false)).2 = true ∨ homePoisoned u g 0 z = true
      (z ≤ 8 → ∃ t, exec ev s = .next t ∧
        (t.engine e).cmds = setAt (u.engine e).cmds n { m with done := i :: m.done, status := if bad then 7 else m.status } ∧
        (∀ a, h = .raw a → Inv u → rawRead t a z = homeRead u g 0 z ∧ MemoryKeepsOutside u t a z)) ∧
      (8 < z → ∃ t c, exec ev s = .next t ∧ MemoryKeeps u t ∧ c.no = i ∧ c.core = 0 ∧ c.bytes = homeRead u g 0 z ∧
        (∀ k, k ∈ c.left ↔ k < z / 8) ∧ c.dst = h.hold u z ∧ (bad → c.bad = [0]) ∧
        (t.engine e).cmds = setAt (u.engine e).cmds n { m with flight := m.flight ++ [c], status := if bad then 7 else m.status }))) ∧
  (∀ (s : State) (die n line : Nat) (m : Cmd) (src : Home) (d : Nat) (u : State), liveCmd s (.basin die) n = some m → m.mayDo line = true →
    line < (m.words.getD 4 0).toNat / 64 →
    placeBoth s (clusterOf m.core) m.asid (m.range 0) (m.range 1) (64 * line) 64 (64 * line) 64 2 = .at' src (.raw d) u → Inv u →
    let from' (i : Nat) : W32 := BitVec.ofNat 32 (bytesNat (((homeRead u src 0 64).drop (4 * i)).take 4))
    let word (v : State) (i : Nat) : W32 := BitVec.ofNat 32 (bytesNat (rawRead v (d + 4 * i) 4))
    ∃ t, exec (.basinOpLine die n line) s = .next t ∧ MemoryKeepsOutside u t d 64 ∧
      (∀ i, i < 16 → word t i = bopLane (bopNumbered (fld (m.words.getD 5 0) 0 4 : BitVec 4).toNat) (word u i) (from' i)) ∧
      (t.engine (.basin die)).cmds = setAt (u.engine (.basin die)).cmds n { m with
        done := line :: m.done
        status := if homePoisoned u src 0 64 = true ∨ poisoned u d 64 = true then 7 else m.status })

/-- A command ends once the parts in flight are written and no fault of its completion record is outstanding: aborted with status 3, after a failing replay with 2 once the work below it is done, or with the status gathered once all of it is
done. It leaves its engine and counts as retired; its word is stored, its counter posted, the journal entry of a collective done or aborted (log entry 39), and its
element and bell delivered to the thread, which issues its pop anew if it waits in one (log entry 21; 09 R176, R180, R182; 16 R269; 17 R279; 21 R322). -/
def Claims.EngineCompletion : Prop :=
  (∀ (s : State) (e : Eng) (m : Cmd), m.started = true →
    let settled := m.flight = [] ∧ m.parked.map Prod.fst ≠ some (cmdParts e m)
    (¬ settled → endStatus s e m = none) ∧
    (settled → cmdAborted s m = true → endStatus s e m = some 3) ∧
    (settled → cmdAborted s m = false → ∀ i, m.failAt = some i →
      ((∀ j, j < i → j < cmdParts e m → j ∈ m.done) → endStatus s e m = some 2) ∧
      ((∃ j, j < i ∧ j < cmdParts e m ∧ j ∉ m.done) → endStatus s e m = none)) ∧
    (settled → cmdAborted s m = false → m.failAt = none → m.parked = none → (∀ j, j < cmdParts e m → j ∈ m.done) →
      endStatus s e m = some m.status) ∧
    (cmdAborted s m = false → m.failAt = none → m.parked ≠ none ∨ (∃ j, j < cmdParts e m ∧ j ∉ m.done) → endStatus s e m = none)) ∧
  (∀ (s : State) (e : Eng) (n : Nat) (m : Cmd), (s.engine e).cmds[n]? = some m → endStatus s e m = none →
    exec (.engineCommandComplete e n) s = .next s) ∧
  (∀ (s : State) (e : Eng) (n st : Nat) (m : Cmd), (s.engine e).cmds[n]? = some m → endStatus s e m = some st → m.helm = none →
    m.isCopy = false → m.orphan = false →
    let w (i : Nat) : Word := m.words.getD i 0
    let word : Word := (1 : BitVec 1) ++ (0 : BitVec 7) ++ BitVec.ofNat 8 st ++ BitVec.ofNat 4 (engPort e) ++ (0 : BitVec 12) ++
      (fld (w 0) 0 32 : W32)
    let T := s.thread m.core m.slot
    let p : Fin 4 := Fin.ofNat 4 m.port
    let core := (fld (w 7) 48 12 : BitVec 12).toNat
    let off := (fld (w 7) 0 18 : BitVec 18).toNat
    ∃ t, exec (.engineCommandComplete e n) s = .next t ∧
      (t.engine e).cmds.map Cmd.id = (dropAt (s.engine e).cmds n).map Cmd.id ∧
      (present s m.core = true → (SMap.getD (t.getCore m.core).counts m.tag.toNat {}).retired =
        (SMap.getD (s.getCore m.core).counts m.tag.toNat {}).retired + 1) ∧
      (w 6 ≠ 0 → OnItsWay t (engSender e) (mkRec (coreTa (fld (w 6) 48 16)) kC 1 m.tag (w 6) [1])) ∧
      (∀ d, e = .coll d → m.failAt ≠ some (cmdParts e m) → cmdParts e m ∉ m.done → s.wharf.jHead.toNat < m.j.seq + 2 ^ 20 → Inv s →
        physWord t (s.wharf.jBase.toNat + 64 * (m.j.seq % 2 ^ 20) + 8) = setFld m.j.w1 36 (if st = 3 then (3 : BitVec 4) else 2)) ∧
      (w 7 = 0 → (∀ d, e ≠ .coll d) → MemoryKeeps s t) ∧
      (w 7 ≠ 0 → (∀ d, e ≠ .coll d) → fld (w 7) 60 4 = s.wharf.device → present s core = true → off + 8 ≤ 262144 → Inv s →
        lsWord t core off = word ∧ MemoryKeepsOutside s t (lsKey core off) 8) ∧
      ∀ o : Outstanding, ((T.ports.get p).out.find? fun o => o.cmd == m.id) = some o →
        (o.element = true → ((t.thread m.core m.slot).ports.get p).elems = (T.ports.get p).elems ++ [(m.id, word)]) ∧
        (o.bell = true → (t.thread m.core m.slot).bells = T.bells ++ [(p, m.id, fld (w 0) 0 32)]) ∧
        (o.element = true → T.st = .removed (.pop p) →
          (t.thread m.core m.slot).st = .runnable ∧ (t.thread m.core m.slot).midway = true))

/-- The parts of engine commands and their completion: the claims above. -/
def Obligations.EngineWork : Prop := Claims.EngineParts ∧ Claims.EngineCompletion

/-- An all-reduce ends with status 4 if its mask is refused (log entry 23), its shares differ or were submitted 10 ms or more apart (of mtime, log entries 5, 23), or 10 ms pass from the first submission, with 5 over a link of its ring that fails, of this device or
between two others; it matches by transfer id and device mask, and folds the devices' elements in ascending order into each of its chunks. A multicast sends
each chunk to every present core of its masks; a core that refuses it is served in the next round, and in the fourth gets it poisoned (17 R284-R288). -/
def Claims.CollectivesAndMulticasts : Prop :=
  (∀ (s : State) (die n : Nat) (part : CollPart) (m : Cmd), liveCmd s (.coll die) n = some m → m.elems ≠ 0 →
    (∃ i ∈ m.collParts, i ∉ m.done) → (∀ i piece, part ≠ .write i piece) →
    let e : Eng := .coll die
    let ends (status : Nat) : Prop := ∃ t, exec (.collectiveMatch die n part) s = .next t ∧
      (t.engine e).cmds = setAt (s.engine e).cmds n { m with status := status, done := m.collParts, flight := [], parked := none }
    (m.shares = none → bit m.mask s.wharf.device.toNat = false → ends 4) ∧
    (m.shares = none → maskRefused s m = true → ends 4) ∧
    ((m.shares = none → maskRefused s m = false) → ringDown s m = true → ends 5) ∧
    ((m.shares = none → maskRefused s m = false) → ringDown s m = false → part = .linkFailed →
      (2 ≤ (otherDevices s m).length → ends 5) ∧ ((otherDevices s m).length < 2 → exec (.collectiveMatch die n part) s = .next s)) ∧
    (∀ peers, m.shares = none → maskRefused s m = false → ringDown s m = false → part = .submitted peers →
      let share (p : PeerShare) (d : Nat) : Prop := p.device.toNat = d ∧ p.id = fld (m.words.getD 0 0) 0 32 ∧ p.mask = m.mask
      ((∃ d ∈ otherDevices s m, ∀ p ∈ peers, ¬ share p d) → exec (.collectiveMatch die n part) s = .next s) ∧
      (∀ l : List PeerShare, l.length = (otherDevices s m).length →
        (∀ (j d : Nat), (otherDevices s m)[j]? = some d → ∃ p : PeerShare, l[j]? = some p ∧ share p d ∧ ∀ q ∈ peers, share q d → q = p) →
        (∀ p ∈ l, p ∈ peers) →
        let times := m.since :: l.map fun p => min p.since s.mtime
        let late := ∃ a ∈ times, ∃ b ∈ times, a + 1000000 ≤ b
        (late → ends 4) ∧
        ((∃ p ∈ l, p.typ ≠ m.collType ∨ p.op ≠ m.collOp ∨ p.count.toNat ≠ m.elems) → ends 4) ∧
        (¬ late → (∀ p ∈ l, p.typ = m.collType ∧ p.op = m.collOp ∧ p.count.toNat = m.elems ∧ p.elems.length = m.elems) →
          exec (.collectiveMatch die n part) s = .next (s.setCmd e n { m with shares := some l }))))) ∧
  (∀ (s : State) (die n : Nat) (late : Late) (m : Cmd), late.n = n → liveCmd s (.coll die) n = some m →
    (s.mtime < min late.first m.since + 1000000 → exec (.collectiveTimeout die late) s = .next s) ∧
    (m.shares ≠ none → exec (.collectiveTimeout die late) s = .next s) ∧
    (m.done = [] → m.shares = none → m.elems ≠ 0 → min late.first m.since + 1000000 ≤ s.mtime →
      ∃ t, exec (.collectiveTimeout die late) s = .next t ∧ (t.engine (.coll die)).cmds =
        setAt (s.engine (.coll die)).cmds n { m with status := 4, done := m.collParts, flight := [], parked := none })) ∧
  (∀ (s : State) (die n i : Nat) (m : Cmd) (l : List PeerShare) (src h : Home) (u : State), liveCmd s (.coll die) n = some m →
    m.mayDo i = true → (∀ c ∈ m.flight, c.no ≠ i) → m.elems ≠ 0 → m.shares = some l → ringDown s m = false → i ∈ m.collParts →
    (s.engine (.coll die)).inFlight < 8 → m.collType ≠ 3 →
    let e : Eng := .coll die
    let z := if m.collType = 1 then 2 else 4
    let dst := (m.range 1).2
    let own := s.wharf.device.toNat
    let lo := max dst ((dst / 4096 + i) * 4096)
    let len := min (dst + m.elems * z) ((dst / 4096 + i + 1) * 4096) - lo
    let elem (j : Nat) : W32 := BitVec.ofNat 32 (bytesNat (((homeRead u src 0 len).drop (z * j)).take z))
    dst % z = 0 → placeBoth s (clusterOf m.core) m.asid (m.range 0) (m.range 1) (lo - dst) len (lo - dst) len 1 = .at' src h u →
    ∃ t c, exec (.collectiveMatch die n (.read i)) s = .next t ∧ MemoryKeeps u t ∧ c.no = i ∧ c.core = 0 ∧ c.dst = h.hold u len ∧
      c.bytes.length = len ∧ (∀ k, k ∈ c.left ↔ k ≤ (lo + len - 1) / 8 - lo / 8) ∧
      (∀ j, z * j < len → bytesNat ((c.bytes.drop (z * j)).take z) =
        let g := (lo - dst) / z + j
        (collFold m.collType.toNat m.collOp.toNat ((l.filter fun p => p.device.toNat < own).map (fun p => p.elems.getD g 0) ++
          [elem j] ++ (l.filter fun p => own < p.device.toNat).map (fun p => p.elems.getD g 0))).toNat) ∧
      (t.engine e).cmds = setAt (u.engine e).cmds n
        { m with flight := m.flight ++ [c], status := if homePoisoned u src 0 len then 7 else m.status }) ∧
  (∀ (x : W32) (l : List W32), collFold 2 0 (x :: l) = l.foldl (· + ·) x ∧
    collFold 0 0 (x :: l) = BitVec.ofNat 32 (fF32.pack .rne (fF32.value (l.foldl addF32 x).toNat))) ∧
  (∀ (s : State) (cl n : Nat) (m : Cmd), liveCmd s (.copy cl) n = some m → m.isMulticast = true →
    let e : Eng := .copy cl
    let dst := (m.range 1).2
    let parts := List.range (chunkCount dst m.copyLen)
    let cores := castCores s (cl / 32) m (if m.rounds = 0 then fld (m.words.getD 4 0) 0 24 else m.refused)
    let closed (m : Cmd) : Cmd := if parts.all (m.done.contains ·) then { m with
        refused := m.refusing
        refusing := 0
        rounds := m.rounds + 1
        done := if m.refusing = 0 ∨ m.rounds = 3 then m.done else [] } else m
    (∀ c, c ∈ castCores s (cl / 32) m (fld (m.words.getD 4 0) 0 24) ↔ present s c = true ∧ ∃ a b, a < 24 ∧ b < 16 ∧
      c = coreIn (cl / 32 * 32 + a) b ∧ bit (m.words.getD 4 0) a = true ∧ bit (m.words.getD 4 0) (24 + b) = true) ∧
    (∀ (i : Nat) (refused : List Nat) (src : Home) (u : State), m.mayDo i = true → i ∈ parts → (∀ c ∈ m.flight, c.no ≠ i) →
      (s.engine e).inFlight < 8 →
      let off := chunkOff dst i
      let len := chunkLen dst m.copyLen i
      let no := cores.filter (refused.contains ·)
      let goes := cores.filter fun c => m.rounds == 3 || !refused.contains c
      let m1 := { m with refusing := m.refusing ||| refusalMask no,
                         status := if homePoisoned u src 0 len = true ∨ (m.rounds = 3 ∧ no ≠ []) then 7 else m.status }
      placeRange s cl m.asid (m.range 0) off len 0 = .at' src u → ∃ t, exec (.multicastRound cl n (.read i refused)) s = .next t ∧
        MemoryKeeps u t ∧
        (goes = [] → (t.engine e).cmds = setAt (u.engine e).cmds n (closed { m1 with done := i :: m.done })) ∧
        (goes ≠ [] → ∃ l : List Chunk, l.map Chunk.core = goes ∧
          (t.engine e).cmds = setAt (u.engine e).cmds n { m1 with flight := m.flight ++ l } ∧
          ∀ c ∈ l, c.no = i ∧ c.bytes = homeRead u src 0 len ∧ c.dst = .raw (lsKey c.core (dst + off)) ∧
            (c.core ∈ refused → ∀ k, (dst + off) / 64 ≤ k → k ≤ (dst + off + len - 1) / 64 → k ∈ c.bad))) ∧
    (∀ (i core piece : Nat) (c : Chunk), m.flight.find? (fun x => x.no == i && x.core == core) = some c → piece ∈ c.left →
      let d := dst + chunkOff dst i
      let x := 8 * (d / 8 + piece) - d
      let y := min c.bytes.length (8 * (d / 8 + piece + 1) - d) - x
      let left := c.left.filter (· != piece)
      let others := m.flight.filter fun f => f.no != i || f.core != core
      ∀ a, c.dst = .raw a → Inv s → 0 < c.bytes.length → piece ≤ (d + c.bytes.length - 1) / 8 - d / 8 →
      ∃ t, exec (.multicastRound cl n (.write i core piece)) s = .next t ∧
        rawRead t (a + x) y = (c.bytes.drop x).take y ∧ MemoryKeepsOutside s t (a + x) y ∧
        (t.engine e).cmds = setAt (s.engine e).cmds n (closed
          (if left = [] then { m with flight := others, done := if others.any (fun f => f.no == i) then m.done else i :: m.done }
           else { m with flight := { c with left := left } :: others })) ∧
        (∀ j, left = [] → a % 64 = d % 64 → (d + j) / 64 ∈ c.bad → poisoned t (a + j) 1 = true)))

/-- The allocator engine: a refill pops up to 8 blocks from the head of a pool's list, each the newest held, a spill links the 8 oldest back one at a
time, each the new head, written through to the pool's entry (log entry 30), and a reload reads the entry anew; a walk that faults disables the pool (17 R290, R291). -/
def Claims.AllocatorEngine : Prop :=
  (∀ (s : State) (d p : Nat),
    let y := getPool s d p
    let pop (u v : State) (a b : Nat) : Prop := a ≠ 0 ∧ walkBusy u d y.asid a 0 = false ∧ ∃ w x, walkWord u d y.asid a = (.ok w, x) ∧ b = (fld w 0 52 : BitVec 52).toNat ∧
      v = setHead (setPool x d p { getPool x d p with held := (getPool x d p).held ++ [a] }) d p b
    (y.enabled = false ∨ 4 ≤ y.held.length ∨ y.head = 0 → exec (.allocatorRefill d p) s = .next s) ∧
    (y.enabled = true → y.held.length < 4 → y.head ≠ 0 →
      ∀ (n : Nat) (us : Nat → State) (bs : Nat → Nat), n ≤ 8 → us 0 = s → bs 0 = y.head → (∀ j, j < n → pop (us j) (us (j + 1)) (bs j) (bs (j + 1))) →
        (n = 8 ∨ bs n = 0 → exec (.allocatorRefill d p) s = .next (us n) ∧
          getPool (us n) d p = { y with held := y.held ++ (List.range n).map bs, head := bs n }) ∧
        (n < 8 → bs n ≠ 0 → walkBusy (us n) d y.asid (bs n) 0 = true → exec (.allocatorRefill d p) s = .next (us n)) ∧
        (n < 8 → bs n ≠ 0 → walkBusy (us n) d y.asid (bs n) 0 = false → ∀ c x, walkWord (us n) d y.asid (bs n) = (.error c, x) →
          ∃ t, exec (.allocatorRefill d p) s = .next t ∧ t.mem = x.mem ∧
          getPool t d p = { y with held := y.held ++ (List.range n).map bs, head := bs n, enabled := false })) ∧
    (y.enabled = false ∨ y.held.length ≤ 12 → exec (.allocatorSpill d p) s = .next s) ∧
    (y.enabled = true → 12 < y.held.length → (∀ a ∈ y.held.take 8, walkBusy s d y.asid a 1 = false) →
      ∀ (n : Nat) (us : Nat → State), n ≤ 8 → us 0 = setPool s d p { y with held := y.held.drop 8 } →
        (∀ j, j < n → ∃ x, walkSetWord (us j) d y.asid (y.held.getD j 0) (BitVec.ofNat 64 (getPool (us j) d p).head) = .ok x ∧
          us (j + 1) = setHead x d p (y.held.getD j 0)) →
        (n = 8 → exec (.allocatorSpill d p) s = .next (us 8) ∧
          getPool (us 8) d p = { y with held := y.held.drop 8, head := y.held.getD 7 0 }) ∧
        (n < 8 → ∀ c, walkSetWord (us n) d y.asid (y.held.getD n 0) (BitVec.ofNat 64 (getPool (us n) d p).head) = .error c →
          ∃ t, exec (.allocatorSpill d p) s = .next t ∧ t.mem = (us n).mem ∧
            getPool t d p = { getPool (us n) d p with held := y.held.drop 8, enabled := false })) ∧
    (∀ a, a < 2 ^ 52 → Inv s → (getPool (setHead s d p a) d p).head = a ∧
      basinWord (setHead s d p a) d ((s.die d).allocBase.toNat + 32 * p + 24) = BitVec.ofNat 64 a) ∧
    (256 ≤ p → exec (.allocatorReload d p) s = .next s) ∧
    (p < 256 → reloadBusy s d p = false → ∃ t, exec (.allocatorReload d p) s = .next t ∧ (getPool t d p).held = []) ∧
    (p < 256 → y.held = [] →
      let a := (s.die d).allocBase.toNat + 32 * p
      let w (i : Nat) : Word := basinWord s d (a + 8 * i)
      ∃ t, exec (.allocatorReload d p) s = .next t ∧ MemoryKeeps s t ∧ getPool t d p =
        { base := (fld (w 0) 0 52 : BitVec 52).toNat, count := (fld (w 1) 32 32 : W32).toNat, size := (fld (w 1) 0 24 : BitVec 24).toNat,
          asid := (fld (w 2) 48 16 : Half).toNat, enabled := bit (w 2) 0, head := (fld (w 3) 0 52 : BitVec 52).toNat, held := [] }))

/-- Collectives, multicasts and the allocator engine: the claims above. -/
def Obligations.CollectivesMulticastsPools : Prop := Claims.CollectivesAndMulticasts ∧ Claims.AllocatorEngine

/-- Every 256 cycles a core's load figure reaches its neighbours and the launch unit; an idle core asks a neighbour every 64 cycles, which posts its top
entry as a T record or has nothing; every lvl cycles a core ships half the difference to its least-loaded neighbour, at most 8 entries. Before its
interval is over each leaves the state as it is (16 R267, R268). -/
def Claims.WorkSpreads : Prop :=
  (∀ (s : State) (c n : Nat), n ∈ presentNeighbours s c → c % 512 / 16 < 24 → present s n = true ∧ n ≠ c ∧ n / 512 = c / 512) ∧
  (∀ (s : State) (c : Nat), present s c = true → s.clk < (s.getCore c).reportedAt + 256 → exec (.loadFigureReport c) s = .next s) ∧
  (∀ (s : State) (c : Nat), present s c = true → (s.getCore c).reportedAt + 256 ≤ s.clk →
    let x := s.getCore c
    let figure := ((List.range 16).countP fun i => 2 ≤ i ∧ (s.thread c (Fin.ofNat 16 i)).st ≠ .empty) + x.deque.length + x.lane.length +
      x.pound.entries.countP fun e => e.r.kind = kT ∨ e.r.kind = kM
    ∃ t, exec (.loadFigureReport c) s = .next t ∧ MemoryKeeps s t ∧ SMap.find t.wharf.figures c = some figure ∧
      (t.getCore c).reportedAt = s.clk ∧ ∀ n ∈ presentNeighbours s c, SMap.find (t.getCore n).figures c = some figure) ∧
  (∀ (s : State) (c n : Nat), present s c = true → isIdle s c = true → (s.getCore c).lvl ≠ 0 → (s.getCore c).stealAt + 64 ≤ s.clk →
    nextVictim s c = some n → ∃ t, exec (.stealRequest c) s = .next t ∧ t.steals = s.steals ++ [{ thief := c, asked := n }] ∧
      (t.getCore c).stealAt = s.clk ∧ (t.getCore c).stealNext = n + 1) ∧
  (∀ (s : State) (c : Nat), isIdle s c = false ∨ (s.getCore c).lvl = 0 ∨ s.clk < (s.getCore c).stealAt + 64 ∨ nextVictim s c = none →
    exec (.stealRequest c) s = .next s) ∧
  (∀ (s : State) (c : Nat), (∀ q ∈ s.steals, q.asked ≠ c) → exec (.stealAnswer c) s = .next s) ∧
  (∀ (s : State) (c : Nat), (s.getCore c).lvl = 0 ∨ s.clk < (s.getCore c).levelAt + (s.getCore c).lvl.toNat → exec (.levelling c) s = .next s) ∧
  (∀ (s : State) (q : Steal) (l : List Steal), s.steals = q :: l → present s q.asked = true →
    let x := s.getCore q.asked
    (x.lvl = 0 ∨ topOf s x.deque = none → exec (.stealAnswer q.asked) s = .next { s with steals := l }) ∧
    (∀ i e, x.lvl ≠ 0 → topOf s x.deque = some i → x.deque[i]? = some e → ∃ t r, exec (.stealAnswer q.asked) s = .next t ∧ t.steals = l ∧
      (t.getCore q.asked).deque = dropAt x.deque i ∧ OnItsWay t (senderCore q.asked) r ∧ r.kind = kT ∧ r.tag = e.r.tag ∧ r.key = e.r.key ∧
      r.pay = e.r.pay ∧ r.ta = coreTa (coreAddress s q.thief))) ∧
  (∀ (s : State) (c : Nat), present s c = true → (s.getCore c).lvl ≠ 0 → (s.getCore c).levelAt + (s.getCore c).lvl.toNat ≤ s.clk →
    let x := s.getCore c
    ∀ n m, leastLoaded { s with cores := SMap.set s.cores c { x with levelAt := s.clk } } c = some (n, m) →
      (loadFigure x < m + 2 ∨ x.deque.length < 2 → ∃ t, exec (.levelling c) s = .next t ∧ (t.getCore c).deque = x.deque ∧ t.net = s.net) ∧
      (m + 2 ≤ loadFigure x → 2 ≤ x.deque.length → (∀ e ∈ x.deque, noSteal e.r = false ∧ isPreempted s e.r.tag = false) →
        ∃ t, exec (.levelling c) s = .next t ∧ (t.getCore c).levelAt = s.clk ∧
          (t.getCore c).deque.length = x.deque.length - min 8 ((loadFigure x - m) / 2)))

/-- Work that has been ready for 4,096 cycles, counted from the cycle in which it became ready, without a free general slot wakes the keeper with bit 3, at
most once in 4,096 cycles: the lane's head, a task of the deque, or the pound's oldest message, which blocks the younger ones (08 R155; 16 R277). The
home-side cache's size takes effect when its flush completes; a written size beyond 64 is 64 (13 R234). -/
def Claims.StarvationAndCacheSize : Prop :=
  (∀ (s : State) (c : Nat), present s c = true → starves s c = true →
    ((s.getCore c).starvedAt = 0 ∨ (s.getCore c).starvedAt + 4096 ≤ s.clk) → (s.thread c 0).st ≠ .empty →
    ∃ t, exec (.slotStarvation c) s = .next t ∧ bit (t.thread c 0).ev 3 = true ∧ (t.getCore c).starvedAt = s.clk) ∧
  (∀ (s : State) (c n : Nat) (e : Entry), freeGeneral s c = none → isPreempted s e.r.tag = false →
    (e ∈ (s.getCore c).deque → e.readyAt = some n → n + 4096 ≤ s.clk → starves s c = true) ∧
    ((s.getCore c).pound.entries.find? (fun f => f.r.kind == kM && isRemote f.r == false) = some e → ripe s.clk e = true → e.readyAt = some n →
      n + 4096 ≤ s.clk → starves s c = true) ∧
    (∀ l, (s.getCore c).lane = (e.r, n) :: l → isBarrier e.r = false ∨ barrierOpen s c e.r = true → n + 4096 ≤ s.clk → starves s c = true)) ∧
  (∀ (s : State) (c : Nat) (x : Core), SMap.find s.cores c = some x →
    (s.noteReady.getCore c).deque = x.deque.map fun e =>
      { e with readyAt := if isPreempted s e.r.tag then none else some (e.readyAt.getD s.clk) }) ∧
  (∀ (s : State) (c : Nat), starves s c = false ∨ ((s.getCore c).starvedAt ≠ 0 ∧ s.clk < (s.getCore c).starvedAt + 4096) →
    exec (.slotStarvation c) s = .next s) ∧
  (∀ (s : State) (d : Nat) (v : Word),
    (4 ≤ d → exec (.cacheSizeWrite d v) s = .next s) ∧
    (d < 4 → ∃ t, exec (.cacheSizeWrite d v) s = .next t ∧ (t.die d).busy = true ∧ (t.die d).size = (s.die d).size ∧
      (t.die d).newSize = min 64 (fld v 0 7 : BitVec 7).toNat ∧ MemoryKeeps s t)) ∧
  (∀ (s : State) (d : Nat) (l : List (Nat × Byte)), d < 4 →
    ((s.die d).busy = false → exec (.cacheFlushComplete d l) s = .next s) ∧
    ((s.die d).busy = true → Inv s →
      let lo := 134217728 - 0x100000 * max (s.die d).size (s.die d).newSize
      let hi := 134217728 - 0x100000 * min (s.die d).size (s.die d).newSize
      ∃ t, exec (.cacheFlushComplete d l) s = .next t ∧ (t.die d).busy = false ∧ (t.die d).size = (s.die d).newSize ∧
        (t.die d).held = [] ∧ MemoryKeepsOutside s t (basinKey d lo) (hi - lo)))

/-- Load figures, stealing, levelling, starvation and the home-side cache's size: the claims above. -/
def Obligations.SchedulingOfWork : Prop := Claims.WorkSpreads ∧ Claims.StarvationAndCacheSize

/-- A launch record is refused with the number of the first check that it fails, and leaves its journal entry and, with a block and a code other than 1,
an aborted launch's records; an accepted one sets its tag's state to running in its address space, wakes every keeper and posts its roots, ascending, each
counted and to the present core with the smallest figure, or is a copy, queued on a copy engine of cluster tag mod 24; one with nothing to do completes
at once (16 R263-R265, R271, R272; 13 R237). The number of roots posted at a time is the model's choice (log entry 41). -/
def Claims.Launches : Prop :=
  (∀ (s : State) (h : Fin 32) (v : Bool) (r : LaunchRec),
    let tag := lrTag r
    let code := launchRefusal s r
    let asid : Half := fld r.w0 48 16
    let node := (fld r.w0 16 16 : Half).toNat
    let template := (fld r.w0 0 16 : Half).toNat
    let kind := (fld r.w1 34 2 : BitVec 2).toNat
    let count : W32 := fld r.w1 0 32
    let ms (lo d : Nat) : Nat := if (fld r.w4 lo 16 : Half) = 0 then d else (fld r.w4 lo 16 : Half).toNat
    let malformed : Prop := (fld r.w1 36 28 : BitVec 28) ≠ 0 ∨ (fld r.w2 48 16 : Half) ≠ 0 ∨ r.w7 ≠ 0 ∨ 2 ≤ kind ∨
      (kind = 1 ∧ (template ≠ 0 ∨ node ≠ 0)) ∨ (kind ≠ 1 ∧ (r.w6 ≠ 0 ∨ 4096 ≤ template))
    let noTable : Prop := asid = 0 ∨ ∃ d, d < 4 ∧ typeOf (physWord s (asTable s d + 8 * asid.toNat)) = 0
    let noNode : Prop := kind = 0 ∧ (fld (basinWord s 0 (16 * template)) 32 16 : Half).toNat ≤ node
    let late : Prop := ms 16 110 ≤ ms 0 100 ∨ ms 32 120 ≤ ms 16 110
    let told (t : State) (n : Nat) : Prop := v = true → (t.getHart h.val).port.result = BitVec.ofNat 64 n
    let i : Instr := if lrKind r = 1 then .copyLaunch h v r else .launch h v r
    let accepted := journal s (hartTa s h) (if kind = 1 then jCopy else jLaunch) stAccepted 0 tag [r.w0, r.w1, r.w5]
    let u := accepted.2.setLaunchState tag (acceptedLaunch accepted.2 h r accepted.1)
    (code = 1 ↔ (s.launch tag).state ≠ 0) ∧
    ((s.launch tag).state = 0 →
      (malformed → code = 2) ∧ (¬ malformed → (noTable → code = 3) ∧ (¬ noTable → (noNode → code = 4) ∧
        (¬ noNode → (late → code = 5) ∧ (¬ late → code = 0))))) ∧
    (kind ≠ 1 → exec (.copyLaunch h v r) s = .next s) ∧ (kind = 1 → exec (.launch h v r) s = .next s) ∧
    (code ≠ 0 → ∃ t, exec i s = .next t ∧ told t code ∧ t.wharf.jHead = s.wharf.jHead + 1 ∧ t.wharf.launches = s.wharf.launches ∧
      (code = 1 ∨ r.w5 = 0 → t.net = s.net) ∧
      (code ≠ 1 → r.w5 ≠ 0 → OnItsWay t senderLaunch (mkRec (hartTa s h) kU 8 tag r.w5 [3]))) ∧
    ((u.launch tag).state = 1 ∧ (u.launch tag).asid = asid ∧ (u.launch tag).accepted = s.mtime ∧ (u.launch tag).block = r.w5 ∧
      (u.launch tag).own = (s.launch tag).own ∧ (u.launch tag).first = 100000 * ms 0 100 ∧ (u.launch tag).second = 100000 * ms 16 110 ∧
      (u.launch tag).third = 100000 * ms 32 120 ∧ (u.launch tag).grace = 100 * ms 48 20 ∧ u.wharf.jHead = s.wharf.jHead + 1 ∧
      (u.launch tag).slotCycles = 0 ∧ (u.launch tag).weirCycles = 0 ∧ (u.launch tag).engineCycles = 0 ∧
      ∀ c, (s.thread c 0).st ≠ .empty → bit (u.thread c 0).ev 2 = true) ∧
    (code = 0 → kind = 0 → rootCount u r ≠ 0 → ∃ t, exec i s = .next t ∧ told t 0 ∧ ∃ t',
      t' = (u.setLaunch tag { u.launch tag with rootsLeft := rootCount u r }).moreRoots tag ∧ t.net = t'.net ∧ t.mem = t'.mem ∧
        t.launch tag = t'.launch tag) ∧
    (rootCount u r = if count = BitVec.allOnes 32 then
      match nodeAt u 0 template node with
      | some off => (fld (basinWord u 0 (off + 8)) 0 32 : W32).toNat
      | none => 0
      else count.toNat) ∧
    (code = 0 → kind = 1 → lrBytes r ≠ 0 → ∃ t d m, exec i s = .next t ∧ told t 0 ∧ (t.launch tag).state = 1 ∧
      (t.launch tag).own.created = (s.launch tag).own.created + 1 ∧ m ∈ (t.engine (.copy (d * 32 + tag.toNat % 24))).cmds ∧
      m.isCopy = true ∧ m.tag = tag ∧ m.asid = asid.toNat ∧ m.limit = (fld r.w2 0 48 : BitVec 48).toNat ∧
      m.ranges = [(3, (fld r.w3 0 52 : BitVec 52).toNat), (3, (fld r.w6 0 52 : BitVec 52).toNat)] ∧
      d = match walk u (asTable u 0) asid.toNat (fld r.w6 0 52 : BitVec 52).toNat 1 with
        | .ok l => dieOfKey (l.pa (fld r.w6 0 52 : BitVec 52).toNat)
        | .error _ => 0) ∧
    (code = 0 → (kind = 1 ∧ lrBytes r = 0) ∨ (kind = 0 ∧ rootCount u r = 0) →
      ∃ t, exec i s = .next t ∧ told t 0 ∧ (t.launch tag).state = 0 ∧ (t.launch tag).asid = 0)) ∧
  (∀ a, (a < 24 * 2 ^ 37 → dieOfKey a = a / 2 ^ 37 / 6) ∧
    (∀ i, i < 12 → 0x40000000000 + i * 2 ^ 38 ≤ a → a < 0x40000000000 + (i + 1) * 2 ^ 38 → dieOfKey a = i / 3))

/-- A root goes to the present core with the smallest figure, the lowest of them, whose figure it raises by one; it counts as created. The launch unit
goes on with the next roots until all are posted, and then journals the launch as started; once the tag is aborted it posts no more (16 R265). -/
def Claims.RootsPlaced : Prop :=
  (∀ (s : State) (c : Nat), rootCore s = some c ↔ c < 2048 ∧ present s c = true ∧ ∀ b, b < 2048 → present s b = true →
    let f (n : Nat) : Nat := SMap.getD s.wharf.figures n 0
    f c < f b ∨ (f c = f b ∧ c ≤ b)) ∧
  (∀ (s : State) (r : LaunchRec) (n c : Nat), rootCore s = some c →
    let t := postRoot s r n
    ∃ q, OnItsWay t senderLaunch q ∧ q.ta = coreTa (coreAddress s c) ∧ q.kind = kT ∧ q.op = 0 ∧ q.tag = lrTag r ∧
      q.key = BitVec.ofNat 32 n ++ (fld r.w0 0 32 : W32) ∧ (fld (q.pay.getD 0 0) 50 2 : BitVec 2) = lrPriority r ∧
      q.pay.getD 1 0 = (BitVec.ofNat 32 n).setWidth 64 ∧ q.pay.getD 2 0 = (fld r.w2 0 48 : BitVec 48).setWidth 64 ∧ q.pay.getD 3 0 = r.w3 ∧
      q.pay.getD 4 0 = 0 ∧ q.pay.getD 5 0 = 0 ∧
      (t.launch (lrTag r)).own.created = (s.launch (lrTag r)).own.created + 1 ∧
      SMap.find t.wharf.figures c = some (SMap.getD s.wharf.figures c 0 + 1)) ∧
  (∀ (s : State) (tag : Half),
    let x := s.launch tag
    (x.rootsLeft = 0 → s.moreRoots tag = s) ∧
    (x.rootsLeft ≠ 0 → x.state = 3 → (s.moreRoots tag).net = s.net ∧ ((s.moreRoots tag).launch tag).rootsLeft = 0 ∧
      ((s.moreRoots tag).launch tag).own = x.own) ∧
    (x.rootsLeft ≠ 0 → x.state ≠ 3 → ∃ k u, 1 ≤ k ∧ k ≤ x.rootsLeft ∧
      u = iter (fun i s => postRoot s x.record (x.rootNext + i)) k { s with fresh := s.fresh + 1 } ∧ (s.moreRoots tag).net = u.net ∧
      ((s.moreRoots tag).launch tag).rootsLeft = x.rootsLeft - k ∧ ((s.moreRoots tag).launch tag).rootNext = x.rootNext + k ∧
      ((s.moreRoots tag).launch tag).own = (u.launch tag).own ∧
      (k = x.rootsLeft → (s.moreRoots tag).mem = (restatus u x.journal stStarted).2.mem)))

/-- A sweep adds up every live tag's counts, those of other devices among them. Where they are equal, no record of the tag is left and no root is still to be
posted, after a sweep that found the same created total, the launch completes: its state is free, its address space unbound, and its block's status
record, 2 or after an abort 3, is on its way to its hart. Otherwise the launch stays (16 R269-R271; 13 R237; 19 R315). That a launch with roots left does
not complete is the model's reading (log entry 41, its second half), and how the other devices are read its choice (log entry 23). -/
def Claims.Termination : Prop :=
  (∀ (s : State), s.clk < s.wharf.sweptAt + 256 → exec .terminationSweep s = .next s) ∧
  (∀ (s : State) (tag : Half), s.wharf.sweptAt + 256 ≤ s.clk → tag ∈ liveTags s → (liveTags s).Nodup →
    let x := s.launch tag
    let n := tagTotals s tag
    let clean : Prop := n.created = n.retired ∧ (∀ r ∈ allRecords s, r.tag = tag → r.kind = kK) ∧ x.rootsLeft = 0 ∧
      ∀ p ∈ x.others, p.2.2 = false
    ∃ t, exec .terminationSweep s = .next t ∧ t.wharf.sweptAt = s.clk ∧
      (othersRead s tag = false → t.launch tag = x) ∧
      (othersRead s tag = true → clean → x.sweep = some n.created → (t.launch tag).state = 0 ∧ (t.launch tag).asid = 0 ∧
        (∀ c, tag ∉ (t.getCore c).marks ∨ tag ∈ s.coreInit.marks) ∧
        (x.block ≠ 0 → OnItsWay t senderLaunch (mkRec (hartTa s x.hart) kU 8 tag x.block
          [if wasAborted s tag then 3 else 2])) ∧
        (∀ c, (s.thread c 0).st ≠ .empty → bit (t.thread c 0).ev 2 = true)) ∧
      (othersRead s tag = true → clean → x.sweep ≠ some n.created → t.launch tag = { x with sweep := some n.created, others := [] }) ∧
      (othersRead s tag = true → ¬ clean → t.launch tag = { x with sweep := none, others := [] })) ∧
  (∀ (s : State) (tag : Half),
    let x := s.launch tag
    let total (f : Counts → Nat) : Nat := f x.own + ((s.cores.filter fun p => present s p.1).map fun p => f (SMap.getD p.2.counts tag.toNat {})).sum +
      (x.others.map fun p => f p.2.1).sum
    (tagTotals s tag).created = total Counts.created ∧ (tagTotals s tag).retired = total Counts.retired ∧
    (othersRead s tag = true ↔ ∀ d, d < 16 → d ≠ s.wharf.device.toNat → route s d ≠ none → SMap.find x.others d ≠ none) ∧
    (x.state ≠ 0 → ∀ (d : Fin 16) (a b : Nat) (held : Bool), ∃ t, exec (.recordArrival 0 (some (.counts d tag a b held))) s = .next t ∧
      SMap.find (t.launch tag).others d.val = some ({ created := a, retired := b }, held)))

/-- Launch records, copies and termination: the claims above. -/
def Obligations.LaunchesAndTermination : Prop := Claims.Launches ∧ Claims.RootsPlaced ∧ Claims.Termination

/-- Pre-emption and resume move a tag between running and pre-empted; the grace period's end parks its threads at their boundaries; the first deadline
pre-empts, the second aborts and gives every thread of the tag that is not Parked trap 0x0F at its next boundary, the third fences the cores that still
hold the tag. A Runnable thread with midway set is inside an operation (log entry 21; 16 R274, R275, R278). -/
def Obligations.DeadlinesAndPreemption : Prop :=
  let boundary (t : Thread) : Prop := (t.st = .runnable ∧ t.midway = false) ∨ t.st = .removed .held ∨ ∃ b, t.st = .blocked b
  let inside (t : Thread) : Prop := (t.st = .runnable ∧ t.midway = true) ∨ ∃ r, t.st = .removed r ∧ r ≠ .held
  let parked (t u : Thread) : Prop := u = { t with st := .parked (match t.st with
    | .blocked b => { before := some b }
    | _ => {}) }
  (∀ (s : State) (tag : Half),
    let x := s.launch tag
    (x.state = 1 → ∃ t, exec (.preempt tag) s = .next t ∧ (t.launch tag).state = 2 ∧ (t.launch tag).graceEnd = some (s.mtime + x.grace) ∧
      ∀ c, (s.thread c 0).st ≠ .empty → bit (t.thread c 0).ev 2 = true) ∧
    (x.state ≠ 1 → exec (.preempt tag) s = .next s) ∧
    (x.state = 2 → ∃ t, exec (.resume tag) s = .next t ∧ (t.launch tag).state = 1 ∧ (t.launch tag).graceEnd = none) ∧
    (x.state ≠ 2 → exec (.resume tag) s = .next s) ∧
    (∀ n, x.graceEnd = some n → x.state = 2 → n ≤ s.mtime → ∃ t, exec (.preemptionGraceExpiry tag) s = .next t ∧
      (t.launch tag).graceEnd = none ∧ ∀ c (k : Fin 16), c < 2048 → present s c = true → 2 ≤ k.val → (s.thread c k).tag = tag →
        (boundary (s.thread c k) → parked (s.thread c k) (t.thread c k)) ∧
        (inside (s.thread c k) → t.thread c k = s.thread c k)) ∧
    (∀ n, x.graceEnd = some n → s.mtime < n → exec (.preemptionGraceExpiry tag) s = .next s) ∧
    (x.state ≠ 0 → x.firstDone = false → x.accepted + x.first ≤ s.mtime → ∃ t, exec (.firstDeadline tag) s = .next t ∧
      (t.launch tag).firstDone = true ∧ (t.launch tag).state = if x.preempted = false ∧ x.state = 1 then 2 else x.state) ∧
    (x.state ≠ 0 → x.secondDone = false → x.accepted + x.second ≤ s.mtime → ∃ t, exec (.secondDeadline tag) s = .next t ∧
      (t.launch tag).state = 3 ∧ (x.state ≠ 3 → (true, tag) ∈ t.wharf.told) ∧
      ∀ c (k : Fin 16), c < 2048 → present s c = true → k ≠ 0 → (s.thread c k).tag = tag →
        (boundary (s.thread c k) → TrapTaken s t c k 0x0F (fetchedWord s c k) (s.thread c k).pc (tag.setWidth 64) 0) ∧
        (inside (s.thread c k) → t.thread c k = { s.thread c k with dogDue := true }) ∧
        (∀ p, (s.thread c k).st = .parked p → t.thread c k = s.thread c k)) ∧
    (x.state ≠ 0 → x.thirdDone = false → x.accepted + x.third ≤ s.mtime → ∃ t, exec (.thirdDeadline tag) s = .next t ∧
      ∀ c, c < 2048 → present s c = true → holdsTag s tag c = true → present t c = false) ∧
    (x.state = 0 → exec (.firstDeadline tag) s = .next s ∧ exec (.secondDeadline tag) s = .next s ∧ exec (.thirdDeadline tag) s = .next s)) ∧
  (∀ (s : State) (c : Nat) (k : Fin 16), present s c = true → graceOver s (s.thread c k).tag = true → 2 ≤ k.val →
    (boundary (s.thread c k) → ∃ t, exec (.preemptionPark c k) s = .next t ∧ parked (s.thread c k) (t.thread c k)) ∧
    (inside (s.thread c k) → exec (.preemptionPark c k) s = .next s)) ∧
  (∀ (s : State) (c : Nat) (k : Fin 16), graceOver s (s.thread c k).tag = false ∨ k.val < 2 → exec (.preemptionPark c k) s = .next s)

/-- A bytecode with plain values reads its slots, writes its result and goes on behind itself: moves and constants, exact arithmetic on integers and
correctly rounded f32, comparison, negation, jumps. A slot beyond the count exits 0x0D, a wrong kind 0x03, an integer outside the range 0x04, a
zero divisor 0x05; RAISE and EXIT exit, EXIT at the next bytecode (10 R199, R211-R213, R216-R218). -/
def Claims.BytecodeValues : Prop :=
  ∀ (s : State) (wide : Bool) (d a b : Half),
    (exec (.swqNop wide) s = .next (s.behind (.swqNop wide))) ∧
    (∀ v, SlotIs s a v → vKind v ≠ .pointer → SlotPlain s d →
      exec (.swqMov wide d a) s = .next ((s.wrote d v).behind (.swqMov wide d a))) ∧
    (∀ n, slotCount s = .ok (n, s) → n ≤ a.toNat ∨ n ≤ d.toNat → ∃ t, exec (.swqMov wide d a) s = .next t ∧ Exited s t 0x0D 0xFFFFFFFF) ∧
    (∀ k fn c n v, SlotPlain s d → Holds s s.myHart.swq.frame fn → Holds s (slotAddr fn 2) c → Holds s (slotAddr c 0) n →
      (k.toNat < n.toNat → Holds s (slotAddr c (1 + k.toNat)) v → vKind v ≠ .pointer →
        exec (.swqLdc wide d k) s = .next ((s.wrote d v).behind (.swqLdc wide d k))) ∧
      (n.toNat ≤ k.toNat → ∃ t, exec (.swqLdc wide d k) s = .next t ∧ Exited s t 0x0D 0xFFFFFFFF)) ∧
    (SlotPlain s d →
      exec (.swqLdi wide d b) s = .next ((s.wrote d (BitVec.ofInt 64 (2 * b.toInt + 1))).behind (.swqLdi wide d b)) ∧
      exec (.swqLdn wide d) s = .next ((s.wrote d 0x02).behind (.swqLdn wide d)) ∧
      exec (.swqDrop wide d) s = .next ((s.wrote d 0x02).behind (.swqDrop wide d))) ∧
    (SlotPlain s d →
      let small (x : Int) : Prop := (-(2 ^ 62) : Int) ≤ x ∧ x < 2 ^ 62
      let value (x : Int) : Word := BitVec.ofInt 64 (2 * x + 1)
      let gives (i : Instr) (r : Int) : Prop :=
        (small r → exec i s = .next ((s.wrote d (value r)).behind i)) ∧
        (¬ small r → ∃ t, exec i s = .next t ∧ Exited s t 0x04 0xFFFFFFFF)
      (∀ x y : Int, small x → small y → SlotIs s a (value x) → SlotIs s b (value y) →
        gives (.swqAdd wide d a b) (x + y) ∧ gives (.swqSub wide d a b) (x - y) ∧ gives (.swqMul wide d a b) (x * y) ∧
        (y ≠ 0 → gives (.swqDiv wide d a b) (x.fdiv y) ∧ gives (.swqMod wide d a b) (x.fmod y)) ∧
        (y = 0 → (∃ t, exec (.swqDiv wide d a b) s = .next t ∧ Exited s t 0x05 0xFFFFFFFF) ∧
          ∃ t, exec (.swqMod wide d a b) s = .next t ∧ Exited s t 0x05 0xFFFFFFFF) ∧
        ∀ cc : Byte, (cc.toNat < 6 → ∃ r : Bool, exec (.swqCmp wide d a b cc) s =
            .next ((s.wrote d (if r then 0x12 else 0x0A)).behind (.swqCmp wide d a b cc)) ∧
          (cc = 0 → (r = true ↔ x = y)) ∧ (cc = 1 → (r = true ↔ x ≠ y)) ∧ (cc = 2 → (r = true ↔ x < y)) ∧ (cc = 3 → (r = true ↔ x ≤ y)) ∧
          (cc = 4 → (r = true ↔ y < x)) ∧ (cc = 5 → (r = true ↔ y ≤ x))) ∧
          (6 ≤ cc.toNat → ∃ t, exec (.swqCmp wide d a b cc) s = .next t ∧ Exited s t 0x03 0xFFFFFFFF)) ∧
      (∀ x : Int, small x → SlotIs s a (value x) → gives (.swqNeg wide d a) (-x) ∧
        exec (.swqNot wide d a) s = .next ((s.wrote d (if x = 0 then 0x12 else 0x0A)).behind (.swqNot wide d a))) ∧
      (∀ v, v = 0x02 ∨ v = 0x0A ∨ v = 0x12 → SlotIs s a v →
        exec (.swqNot wide d a) s = .next ((s.wrote d (if v = 0x12 then 0x0A else 0x12)).behind (.swqNot wide d a)) ∧
        (∃ t, exec (.swqNeg wide d a) s = .next t ∧ Exited s t 0x03 0xFFFFFFFF) ∧
        (SlotBelow s b.toNat → (∃ u, SlotIs s b u) → ∃ t, exec (.swqAdd wide d a b) s = .next t ∧ Exited s t 0x03 0xFFFFFFFF)) ∧
      (∀ p q : W32, SlotIs s a (p ++ (6 : W32)) → SlotIs s b (q ++ (6 : W32)) →
        let x := fF32.value p.toNat
        let y := fF32.value q.toNat
        let rounds (i : Instr) (r : FVal) : Prop :=
          exec i s = .next ((s.wrote d (BitVec.ofNat 32 (fF32.pack .rne r) ++ (6 : W32))).behind i)
        rounds (.swqAdd wide d a b) (x.add y) ∧ rounds (.swqSub wide d a b) (x.add y.neg) ∧ rounds (.swqMul wide d a b) (x.mul y) ∧
        rounds (.swqDiv wide d a b) (x.div y) ∧ (∃ t, exec (.swqMod wide d a b) s = .next t ∧ Exited s t 0x03 0xFFFFFFFF) ∧
        exec (.swqNeg wide d a) s = .next ((s.wrote d ((p ^^^ 0x80000000) ++ (6 : W32))).behind (.swqNeg wide d a)))) ∧
    (exec (.swqJmp wide b) s = .next (s.atCode (s.myHart.swq.bpc + b.signExtend 64))) ∧
    (∀ v, SlotIs s a v →
      (v = 0x12 → exec (.swqJt wide a b) s = .next (s.atCode (s.myHart.swq.bpc + b.signExtend 64)) ∧
        exec (.swqJf wide a b) s = .next (s.behind (.swqJf wide a b))) ∧
      (v = 0x0A → exec (.swqJt wide a b) s = .next (s.behind (.swqJt wide a b)) ∧
        exec (.swqJf wide a b) s = .next (s.atCode (s.myHart.swq.bpc + b.signExtend 64))) ∧
      (v ≠ 0x12 → v ≠ 0x0A → (∃ t, exec (.swqJt wide a b) s = .next t ∧ Exited s t 0x03 0xFFFFFFFF) ∧
        ∃ t, exec (.swqJf wide a b) s = .next t ∧ Exited s t 0x03 0xFFFFFFFF)) ∧
    (SlotBelow s (if wide then a.toNat else a.toNat % 256) →
      ∃ t, exec (.swqRaise wide a) s = .next t ∧ Exited s t 0x0A 0xFFFFFFFF) ∧
    (∃ t, exec (.swqExit wide) s = .next t ∧ t.mem = s.mem ∧ t.myHart.swq.running = false ∧ t.myHart.pc = s.myHart.swqh ∧
      t.myHart.getX 10 = 1 ∧ t.myHart.getX 11 = 0xFFFFFFFF ∧ t.myHart.getX 12 = s.myHart.swq.frame ∧
      t.myHart.getX 13 = s.myHart.swq.bpc + BitVec.ofNat 64 (encodeBytes (.swqExit wide)).length)

/-- Numbers of which one is an f32, and values that are no numbers. ADD, SUB, MUL and DIV of an int of magnitude at most 2^24 and an f32 are rounded once in
f32; a larger int, and MOD, exit 0x03. CMP compares numbers by their exact values, a NaN making every condition but ne false; values of which one is
no number compare by identity under eq and ne, two different pointers and the conditions 2 to 5 exit 0x03. NOT of an f32 is whether it is zero (10
R217). -/
def Claims.BytecodeNumbers : Prop :=
  ∀ (s : State) (wide : Bool) (d a b : Half), SlotPlain s d →
    let boxed (p : W32) : Word := p ++ (6 : W32)
    let small (n : Int) : Prop := (-(2 ^ 62) : Int) ≤ n ∧ n < 2 ^ 62
    let value (n : Int) : Word := BitVec.ofInt 64 (2 * n + 1)
    let exits (i : Instr) : Prop := ∃ t, exec i s = .next t ∧ Exited s t 0x03 0xFFFFFFFF
    let rounds (i : Instr) (r : FVal) : Prop := exec i s = .next ((s.wrote d (boxed (BitVec.ofNat 32 (fF32.pack .rne r)))).behind i)
    let tells (i : Instr) (r : Prop) : Prop := (r → exec i s = .next ((s.wrote d 0x12).behind i)) ∧ (¬ r → exec i s = .next ((s.wrote d 0x0A).behind i))
    let mixed (n : Int) (x y : FVal) : Prop :=
      (n.natAbs ≤ 2 ^ 24 → rounds (.swqAdd wide d a b) (x.add y) ∧ rounds (.swqSub wide d a b) (x.add y.neg) ∧
        rounds (.swqMul wide d a b) (x.mul y) ∧ rounds (.swqDiv wide d a b) (x.div y)) ∧
      (2 ^ 24 < n.natAbs → exits (.swqAdd wide d a b) ∧ exits (.swqSub wide d a b) ∧ exits (.swqMul wide d a b) ∧ exits (.swqDiv wide d a b)) ∧
      exits (.swqMod wide d a b)
    let number (v : Word) (x : FVal) : Prop := (∃ n, small n ∧ v = value n ∧ x = FVal.ofInt n) ∨ ∃ p, v = boxed p ∧ x = fF32.value p.toNat
    (∀ (n : Int) (p : W32), small n →
      (SlotIs s a (value n) → SlotIs s b (boxed p) → mixed n (FVal.ofInt n) (fF32.value p.toNat)) ∧
      (SlotIs s a (boxed p) → SlotIs s b (value n) → mixed n (fF32.value p.toNat) (FVal.ofInt n))) ∧
    (∀ (u v : Word) (x y : FVal) (cc : Byte), SlotIs s a u → SlotIs s b v → number u x → number v y → cc.toNat < 6 →
      (x.isNan = true ∨ y.isNan = true → tells (.swqCmp wide d a b cc) (cc = 1)) ∧
      (x.isNan = false → y.isNan = false → tells (.swqCmp wide d a b cc) (match cc.toNat with
        | 0 => x.lt false y = false ∧ y.lt false x = false
        | 1 => x.lt false y = true ∨ y.lt false x = true
        | 2 => x.lt false y = true
        | 3 => y.lt false x = false
        | 4 => y.lt false x = true
        | _ => x.lt false y = false))) ∧
    (∀ (u v : Word) (cc : Byte), SlotIs s a u → SlotIs s b v → vKind u ≠ .invalid → vKind v ≠ .invalid →
      (vKind u ≠ .int ∧ vKind u ≠ .f32) ∨ (vKind v ≠ .int ∧ vKind v ≠ .f32) →
      (2 ≤ cc.toNat ∨ (vKind u = .pointer ∧ vKind v = .pointer ∧ u ≠ v) → exits (.swqCmp wide d a b cc)) ∧
      (¬ (vKind u = .pointer ∧ vKind v = .pointer ∧ u ≠ v) → (cc = 0 → tells (.swqCmp wide d a b cc) (u = v)) ∧
        (cc = 1 → tells (.swqCmp wide d a b cc) (u ≠ v)))) ∧
    (∀ p : W32, SlotIs s a (boxed p) → tells (.swqNot wide d a) (p.toNat % 2 ^ 31 = 0))

/-- Bytecodes on plain values: the claims above. -/
def Obligations.BytecodeValues : Prop := Claims.BytecodeValues ∧ Claims.BytecodeNumbers

/-- Attributes go through the site's first way that hits: a slot of the object, a constant, or with a transition to a new shape; no hit exits 0x02, a
value of another kind 0x03, a write to a watched object 0x07. Elements of lists and tuples are read and written below their length, else 0x0D;
lengths and iteration follow it (10 R205, R206, R219, R220). -/
def Claims.BytecodeObjects : Prop :=
  ∀ (s : State) (wide : Bool) (d a b c site : Half),
    (∀ w o w0, SiteIs s site w → Holds s o w0 → vKind o = .pointer → hdrKind w0 = 0 →
      let slot (e1 : Word) : Nat := (fld e1 0 16 : Half).toNat
      let misses : Prop := ∀ k, k < 4 → WayMisses s w w0 k
      let reads (i : Instr) : Prop := SlotPlain s d →
        (∀ e1 v, WayHits s w w0 1 e1 → slot e1 < 2 * hdrClass w0 → Holds s (slotAddr o (slot e1)) v → vKind v ≠ .pointer →
          exec i s = .next ((s.wrote d v).behind i)) ∧
        (∀ e1, WayHits s w w0 2 e1 → vKind e1 ≠ .pointer → exec i s = .next ((s.wrote d e1).behind i)) ∧
        (misses → ∃ t, exec i s = .next t ∧ Exited s t 0x02 w)
      let writes (i : Instr) (v : Word) : Prop :=
        (hdrWatched w0 = true → ∃ t, exec i s = .next t ∧ Exited s t 0x07 w) ∧
        (hdrWatched w0 = false → vKind v ≠ .pointer →
          (∀ e1 old, WayHits s w w0 1 e1 → slot e1 < 2 * hdrClass w0 → Holds s (slotAddr o (slot e1)) old → vKind old ≠ .pointer →
            Storable s (slotAddr o (slot e1)) → exec i s = .next ((s.stored (slotAddr o (slot e1)) v).behind i)) ∧
          (∀ e1 old, WayHits s w w0 3 e1 →
            let n := (fld e1 32 16 : Half).toNat
            let u := s.stored o (setFld w0 0 (fld e1 0 32 : W32))
            n < 2 * hdrClass w0 → (fld e1 48 8 : Byte).toNat = hdrClass w0 → Holds u (slotAddr o n) old → vKind old ≠ .pointer →
            Storable s o → Storable u (slotAddr o n) → exec i s = .next ((u.stored (slotAddr o n) v).behind i)) ∧
          (misses → ∃ t, exec i s = .next t ∧ Exited s t 0x02 w))
      (SlotIs s a o → reads (.swqGeta wide d a site) ∧ reads (.swqGetm wide d a site)) ∧
      (∀ fn, Holds s s.myHart.swq.frame fn → Holds s (slotAddr fn 3) o → reads (.swqLdg wide d site)) ∧
      (∀ v, SlotIs s a o → SlotIs s b v → writes (.swqSeta wide a b site) v) ∧
      (∀ fn v, Holds s s.myHart.swq.frame fn → Holds s (slotAddr fn 3) o → SlotIs s a v → writes (.swqStg wide a site) v)) ∧
    (∀ w v, SiteIs s site w → SlotIs s a v → vKind v ≠ .pointer → SlotBelow s d.toNat →
      (∃ t, exec (.swqGeta wide d a site) s = .next t ∧ Exited s t 0x03 w) ∧
      (∃ t, exec (.swqGetm wide d a site) s = .next t ∧ Exited s t 0x03 w) ∧
      ∃ t, exec (.swqGuard wide a site) s = .next t ∧ Exited s t 0x03 w) ∧
    (∀ w o w0 e1, SiteIs s site w → SlotIs s a o → vKind o = .pointer → Holds s o w0 → hdrKind w0 ≤ 8 → WayHits s w w0 6 e1 →
      exec (.swqGuard wide a site) s = .next (s.behind (.swqGuard wide a site))) ∧
    (∀ o w0 n (x : Int), SlotIs s a o → vKind o = .pointer → Holds s o w0 → hdrKind w0 = 1 ∨ hdrKind w0 = 2 → Holds s (slotAddr o 0) n →
      (-(2 ^ 62) : Int) ≤ x → x < 2 ^ 62 →
      let first := if hdrKind w0 = 1 then 2 else 1
      let elem (v : Word) : Prop := 0 ≤ x ∧ x < n.toNat ∧ Holds s (slotAddr o (first + x.toNat)) v
      (SlotPlain s d → n.toNat < 2 ^ 62 →
        exec (.swqLen wide d a) s = .next ((s.wrote d (BitVec.ofInt 64 (2 * n.toNat + 1))).behind (.swqLen wide d a))) ∧
      (SlotPlain s d → exec (.swqIter wide d a) s = .next ((s.wrote d 1).behind (.swqIter wide d a))) ∧
      (SlotIs s b (BitVec.ofInt 64 (2 * x + 1)) →
        (∀ v, SlotPlain s d → elem v → vKind v ≠ .pointer →
          exec (.swqGeti wide d a b) s = .next ((s.wrote d v).behind (.swqGeti wide d a b)) ∧
          (∀ off, SlotPlain (s.wrote d v) b → exec (.swqNext wide d a b off) s =
            .next (((s.wrote d v).wrote b (BitVec.ofInt 64 (2 * (x + 1) + 1))).behind (.swqNext wide d a b off)))) ∧
        (x < 0 ∨ n.toNat ≤ x → SlotBelow s d.toNat → ∃ t, exec (.swqGeti wide d a b) s = .next t ∧ Exited s t 0x0D 0xFFFFFFFF) ∧
        (∀ off, n.toNat ≤ x → 0 ≤ x → SlotBelow s d.toNat →
          exec (.swqNext wide d a b off) s = .next (s.atCode (s.myHart.swq.bpc + off.signExtend 64))) ∧
        (∀ old v, hdrKind w0 = 1 → SlotIs s c v → elem old → vKind v ≠ .pointer → vKind old ≠ .pointer →
          Storable s (slotAddr o (first + x.toNat)) → exec (.swqSeti wide a b c) s = .next ((s.stored (slotAddr o (first + x.toNat)) v).behind (.swqSeti wide a b c))) ∧
        (hdrKind w0 = 2 → (∃ v, SlotIs s c v) → ∃ t, exec (.swqSeti wide a b c) s = .next t ∧ Exited s t 0x03 0xFFFFFFFF))) ∧
    (∀ o w0 t w1 (x : Nat), SlotIs s a o → vKind o = .pointer → Holds s o w0 → hdrKind w0 = 4 → vectorF32 o s = .ok (t, s) →
      x < (t.dims.getD 0 0).toNat → x < 2 ^ 62 → SlotIs s b (BitVec.ofInt 64 (2 * x + 1)) → Holds s (t.storage + 8) w1 →
      (∀ bs, SlotPlain s d → swqBytes (t.elem x) 4 s = .ok (bs, s) →
        exec (.swqGeti wide d a b) s = .next ((s.wrote d (BitVec.ofNat 32 (bytesNat bs) ++ (6 : W32))).behind (.swqGeti wide d a b))) ∧
      (∀ p : W32, SlotIs s c (p ++ (6 : W32)) → hdrHold w1 ≠ 0 → ∃ t, exec (.swqSeti wide a b c) s = .next t ∧ Exited s t 0x06 0xFFFFFFFF) ∧
      (∀ (p : W32) u, SlotIs s c (p ++ (6 : W32)) → hdrHold w1 = 0 → swqStoreBytes (t.elem x) (natBytes 4 p.toNat) s = .ok ((), u) →
        exec (.swqSeti wide a b c) s = .next (u.behind (.swqSeti wide a b c))))

/-- A count moves with a value that is a pointer to an object that is not immortal: taking it adds one, and the count that would reach 2^32 - 1 makes the
object immortal instead; releasing it takes one off, and the last release of an object without children frees its block to the pool of its class (10
R200, R204, R214, R215; 20 R317). GCSTEP takes entries off the worklist. -/
def Claims.BytecodeCounts : Prop :=
  ∀ (s : State) (wide : Bool) (d a n : Half),
    (∀ v w0 w1, SlotPlain s d → SlotIs s a v → vKind v = .pointer → Holds s v w0 → Holds s (v + 8) w1 →
      let i : Instr := .swqMov wide d a
      let u : State :=
        if hdrImmortal w0 then s
        else if hdrCount w1 + 1 = 2 ^ 32 - 1 then s.stored v (w0 ||| (1 : Word) <<< 50)
        else s.stored (v + 8) (setFld w1 0 (BitVec.ofNat 32 (hdrCount w1 + 1)))
      Storable s v → Storable s (v + 8) → SlotPlain u d → exec i s = .next ((u.wrote d v).behind i)) ∧
    (∀ v w0 w1, SlotIs s d v → vKind v = .pointer →
      let i : Instr := .swqDrop wide d
      let u := s.wrote d 0x02
      let x := u.stored (v + 8) (setFld w1 0 (BitVec.ofNat 32 (hdrCount w1 - 1)))
      Storable s (frameSlot s.myHart.swq.frame d.toNat) → Storable u (v + 8) → Holds u v w0 →
      (hdrImmortal w0 = true → exec i s = .next (u.behind i)) ∧
      (hdrImmortal w0 = false → Holds u (v + 8) w1 →
        (hdrCount w1 = 0 → exec i s = .next (u.behind i)) ∧
        (2 ≤ hdrCount w1 → exec i s = .next (x.behind i)) ∧
        (∀ w2, hdrCount w1 = 1 → Holds x v w0 → Holds x (v + 8) w2 → hdrKind w0 = 3 → hdrMoored w0 = false →
          exec i s = .next ((poolFreeNow x (swqDie x) (hdrClass w0) v.toNat).behind i)))) ∧
    (∀ w, Holds s (s.myHart.swqic + 48) w →
      let i : Instr := .swqGcstep wide n
      let head := (fld w 16 16 : Half)
      let tail := (fld w 32 16 : Half)
      (head = tail ∨ n = 0 → exec i s = .next (s.behind i)) ∧
      (∀ base e w0 w1, head ≠ tail → n = 1 → Holds s (s.myHart.swqic + 40) base →
        Holds s (base + BitVec.ofNat 64 (8 * (tail.toNat % workSize (fld w 0 16 : Half).toNat))) e → vKind e = .pointer →
        let u := s.stored (s.myHart.swqic + 48) (setFld w 32 (tail + 1))
        Storable s (s.myHart.swqic + 48) → Storable u (e + 8) →
        Holds u e w0 → hdrImmortal w0 = false → Holds u (e + 8) w1 → 2 ≤ hdrCount w1 →
        exec i s = .next ((u.stored (e + 8) (setFld w1 0 (BitVec.ofNat 32 (hdrCount w1 - 1)))).behind i)))

/-- Attributes, elements, iteration and counts: the claims above. -/
def Obligations.BytecodeObjectsAndCounts : Prop := Claims.BytecodeObjects ∧ Claims.BytecodeCounts

/-- CALL of the function that its site names, and CALLM of the method that the object's shape names, open a frame behind the caller's: header, arguments,
then None, and go on at the code; a wrong argument count exits 0x03, a frame beyond the limit 0x0C, no hit 0x02. RET gives the value to the caller's
result slot, or from the entry frame completes swq.run (10 R208, R211, R218). -/
def Obligations.BytecodeCalls : Prop :=
  ∀ (s : State) (wide : Bool) (d f a n site : Half),
    (let enters (i : Instr) (w callee : Word) (args : List Word) : Prop :=
      ∀ c0 info count limit code, vKind callee = .pointer → Holds s callee c0 → hdrKind c0 = 5 → Holds s (slotAddr callee 1) info →
        slotCount s = .ok (count, s) → Holds s (s.myHart.swqic + 16) limit →
        let q := s.myHart.swq
        let slots := (fld info 0 16 : Half).toNat
        let new := frameSlot q.frame count
        let h := (((s.stored new callee).stored (new + 8) q.frame).stored (new + 16)
          (q.bpc + BitVec.ofNat 64 (encodeBytes i).length)).stored (new + 24) (d.setWidth 64)
        let rest := args ++ List.replicate (slots - args.length) vNone
        let u := h.storedSlots new rest 0
        ((fld info 16 8 : Byte).toNat ≠ args.length → ∃ t, exec i s = .next t ∧ Exited s t 0x03 w) ∧
        ((fld info 16 8 : Byte).toNat = args.length → limit.toNat < new.toNat + 32 + 8 * slots →
          ∃ t, exec i s = .next t ∧ Exited s t 0x0C w) ∧
        ((fld info 16 8 : Byte).toNat = args.length → new.toNat + 32 + 8 * slots ≤ limit.toNat → (∀ v ∈ args, vKind v ≠ .pointer) →
          s.Writable new ([callee, q.frame, q.bpc + BitVec.ofNat 64 (encodeBytes i).length, d.setWidth 64] ++ rest) → Holds u (slotAddr callee 0) code →
          exec i s = .next (u.setMyHart { u.myHart with swq := { u.myHart.swq with frame := new, bpc := code } }))
    let skips (w callee : Word) (k : Nat) : Prop := ∃ e0 e1, WayIs s w k e0 e1 ∧ (wayKind e0 ≠ 4 ∨ e1 ≠ callee)
    (∀ w callee args, SiteIs s site w → SlotBelow s d.toNat → SlotIs s f callee → args.length = n.toNat →
      (∀ k, k < n.toNat → SlotBelow s (a.toNat + k) ∧ Holds s (frameSlot s.myHart.swq.frame (a.toNat + k)) (args.getD k 0)) →
      (∀ k e0, k < 4 → (∀ j, j < k → skips w callee j) → WayIs s w k e0 callee → wayKind e0 = 4 →
        enters (.swqCall wide d f a n site) w callee args) ∧
      ((∀ k, k < 4 → skips w callee k) → ∃ t, exec (.swqCall wide d f a n site) s = .next t ∧ Exited s t 0x02 w)) ∧
    (∀ w o w0 args, SiteIs s site w → SlotBelow s d.toNat → SlotIs s a o → vKind o = .pointer → Holds s o w0 → hdrKind w0 ≤ 8 →
      args.length = n.toNat →
      (∀ k, k < n.toNat → SlotBelow s (a.toNat + 1 + k) ∧ Holds s (frameSlot s.myHart.swq.frame (a.toNat + 1 + k)) (args.getD k 0)) →
      (∀ callee, WayHits s w w0 4 callee → ∀ c0 info, vKind callee = .pointer → Holds s callee c0 → hdrKind c0 = 5 →
        Holds s (slotAddr callee 1) info → (fld info 16 8 : Byte).toNat ≠ n.toNat + 1 →
        ∃ t, exec (.swqCallm wide d a n site) s = .next t ∧ Exited s t 0x03 w) ∧
      ((∀ k, k < 4 → WayMisses s w w0 k) → ∃ t, exec (.swqCallm wide d a n site) s = .next t ∧ Exited s t 0x02 w) ∧
      (∀ callee c0 info count limit code v0 w1, WayHits s w w0 4 callee → vKind callee = .pointer → Holds s callee c0 → hdrKind c0 = 5 →
        Holds s (slotAddr callee 1) info → (fld info 16 8 : Byte).toNat = n.toNat + 1 → slotCount s = .ok (count, s) →
        Holds s (s.myHart.swqic + 16) limit →
        let i : Instr := .swqCallm wide d a n site
        let q := s.myHart.swq
        let slots := (fld info 0 16 : Half).toNat
        let new := frameSlot q.frame count
        let h := (((s.stored new callee).stored (new + 8) q.frame).stored (new + 16)
          (q.bpc + BitVec.ofNat 64 (encodeBytes i).length)).stored (new + 24) (d.setWidth 64)
        let c := h.stored (o + 8) (setFld w1 0 (BitVec.ofNat 32 (hdrCount w1 + 1)))
        let rest := args ++ List.replicate (slots - (n.toNat + 1)) vNone
        let u := (c.stored (frameSlot new 0) o).storedSlots new rest 1
        new.toNat + 32 + 8 * slots ≤ limit.toNat → (∀ v ∈ args, vKind v ≠ .pointer) →
        s.Writable new [callee, q.frame, q.bpc + BitVec.ofNat 64 (encodeBytes i).length, d.setWidth 64] → Storable h (o + 8) →
        c.Writable (frameSlot new 0) (o :: rest) → Holds h o v0 → hdrImmortal v0 = false → Holds h (o + 8) w1 → hdrCount w1 + 1 ≠ 2 ^ 32 - 1 → Holds u (slotAddr callee 0) code →
        exec i s = .next (u.setMyHart { u.myHart with swq := { u.myHart.swq with frame := new, bpc := code } })))) ∧
    (∀ r count caller ret res, SlotIs s a r → vKind r ≠ .pointer → slotCount s = .ok (count, s) →
      let q := s.myHart.swq
      Holds s (q.frame + 8) caller → Holds s (q.frame + 16) ret → Holds s (q.frame + 24) res →
      (∀ k, k < count → ∃ v, Holds s (frameSlot q.frame k) v ∧ vKind v ≠ .pointer) →
      (caller = 0 → exec (.swqRet wide a) s = .next (s.setMyHart { s.myHart.setX q.rd r with
        pc := s.myHart.pc + 4, swq := { q with running := false } })) ∧
      (∀ old, caller ≠ 0 → Holds s (frameSlot caller (fld res 0 16 : Half).toNat) old → vKind old ≠ .pointer →
        let u := s.stored (frameSlot caller (fld res 0 16 : Half).toNat) r
        Storable s (frameSlot caller (fld res 0 16 : Half).toNat) →
        exec (.swqRet wide a) s = .next (u.setMyHart { u.myHart with swq := { u.myHart.swq with frame := caller, bpc := ret } })))

/-- NEWO makes an object of its shape with every slot None, NEWL and NEWT a list and a tuple of the values, TNEW a tensor with its storage and a data block
of the least size that holds it; each starts at count 1, which slot d takes over. A pool with no block exits 0x08; the stride of a dimension that is not used is 1 (log entry 58;
10 R200-R204, R220, R221; 20 R317, R318). -/
def Claims.BytecodeConstruction : Prop :=
  ∀ (s : State) (wide : Bool) (d a b n k : Half),
    (let made (i : Instr) (cls kind : Nat) (shape : W32) (slots : List Word) : Prop :=
      let words : List Word := [BitVec.ofNat 24 cls ++ BitVec.ofNat 8 kind ++ shape, 1] ++ slots
      (∀ o s1, BlockTaken s cls o s1 → s1.Writable o words → SlotPlain (s1.storedAll o words) d →
        exec i s = .next (((s1.storedAll o words).wrote d o).behind i)) ∧
      ((getPool s (swqDie s) cls).enabled = false → ∃ t, exec i s = .next t ∧ Exited s t 0x08 0xFFFFFFFF)
    (∀ fn c m sh w0 w, SlotBelow s d.toNat → Holds s s.myHart.swq.frame fn → Holds s (slotAddr fn 2) c → Holds s (slotAddr c 0) m →
      k.toNat < m.toNat → Holds s (slotAddr c (1 + k.toNat)) sh → vKind sh = .pointer → Holds s sh w0 → hdrKind w0 = 7 →
      Holds s (slotAddr sh 0) w →
      let cls := (fld w 32 8 : Byte).toNat
      (cls ≤ 127 → made (.swqNewo wide d k) cls 0 (fld w 0 32) (List.replicate (2 * cls) 0x02)) ∧
      (127 < cls → ∃ t, exec (.swqNewo wide d k) s = .next t ∧ Exited s t 0x08 0xFFFFFFFF)) ∧
    (∀ vs : List Word, SlotBelow s d.toNat → vs.length = n.toNat → (∀ v ∈ vs, vKind v ≠ .pointer) →
      (∀ j, j < n.toNat → SlotBelow s (a.toNat + j) ∧ Holds s (frameSlot s.myHart.swq.frame (a.toNat + j)) (vs.getD j 0)) →
      let list := (16 + 8 * (2 + n.toNat) + 15) / 16 - 1
      let tuple := (16 + 8 * (1 + n.toNat) + 15) / 16 - 1
      (list ≤ 127 → made (.swqNewl wide d a n) list 1 0
        ([n.setWidth 64, n.setWidth 64] ++ vs ++ List.replicate (2 * list - (2 + n.toNat)) 0x02)) ∧
      (127 < list → ∃ t, exec (.swqNewl wide d a n) s = .next t ∧ Exited s t 0x08 0xFFFFFFFF) ∧
      (tuple ≤ 127 → made (.swqNewt wide d a n) tuple 2 0
        ([n.setWidth 64] ++ vs ++ List.replicate (2 * tuple - (1 + n.toNat)) 0x02)) ∧
      (127 < tuple → ∃ t, exec (.swqNewt wide d a n) s = .next t ∧ Exited s t 0x08 0xFFFFFFFF))) ∧
    (∀ (f : Half) (tup w0 : Word) (ds : List Nat) (bits : Nat), SlotBelow s d.toNat → SlotIs s a (BitVec.ofInt 64 (2 * f.toNat + 1)) →
      SlotIs s b tup → vKind tup = .pointer → Holds s tup w0 → hdrKind w0 = 2 → Holds s (slotAddr tup 0) (BitVec.ofNat 64 ds.length) →
      1 ≤ ds.length → ds.length ≤ 4 → (∀ j, j < ds.length → ds.getD j 0 < 2 ^ 32 ∧
        Holds s (slotAddr tup (1 + j)) (BitVec.ofInt 64 (2 * (ds.getD j 0 : Nat) + 1))) →
      tnewBits (elemOf f) = some bits →
      let i : Instr := .swqTnew wide d a b
      let bytes := product ds * bits / 8
      (illFormed f true = true ∨ (fld f 4 4 : BitVec 4) ≠ 0 → ∃ t, exec i s = .next t ∧ Exited s t 0x03 0xFFFFFFFF) ∧
      (illFormed f true = false → (fld f 4 4 : BitVec 4) = 0 →
        (64 * 2 ^ 14 < bytes → ∃ t, exec i s = .next t ∧ Exited s t 0x08 0xFFFFFFFF) ∧
        (∀ (j : Nat) (o st data : Word) (s1 s2 s3 : State), j ≤ 14 → bytes ≤ 64 * 2 ^ j → (j = 0 ∨ 64 * 2 ^ (j - 1) < bytes) →
          BlockTaken s 6 o s1 → BlockTaken s1 3 st s2 → BlockTaken s2 (128 + j) data s3 →
          let num (m : Nat) : Word := BitVec.ofNat 64 m
          let dim (m : Nat) : Nat := ds.getD m 1
          let step (m : Nat) : Word := if ds.length ≤ m then (1 : Word) else num (product (ds.drop (m + 1)))
          let storage : List Word := [0x0000030800000000, 1, data, num (128 + j), 0, 0, 0]
          let tensor : List Word := ([(0x0000060400000000 : Word), 1, (BitVec.ofNat 16 ds.length ++ f).setWidth 64, data] ++
            [num (dim 0), num (dim 1), num (dim 2), num (dim 3)] ++ [step 0, step 1, step 2, step 3] ++ [st])
          let u := s3.storedAll st storage
          let x := u.storedAll o tensor
          s3.Writable st storage → u.Writable o tensor → SlotPlain x d → exec i s = .next ((x.wrote d o).behind i))))

/-- TCALL and TCOPY take the first free owned tag, write its launch block, take a hold of each operand's storage and post the launch record; slot d takes
the tag. Operands that are no tensors, unequal tensors of a copy, or a hold beyond 65,535 exit 0x03, no hit 0x02, no free tag 0x09. TWAIT waits while
the status is 1 and then frees the tag with True for done and False for aborted (10 R202, R222-R224). -/
def Claims.BytecodeTensors : Prop :=
  ∀ (s : State) (wide : Bool) (d a b c site : Half),
    (∀ base w, Holds s s.myHart.swqic base → Holds s (s.myHart.swqic + 8) w →
      let first := (fld w 0 16 : Half)
      let tags := (fld w 16 16 : Half).toNat
      let start := ((fld w 32 16 : Half) - first).toNat % tags
      let place (j : Nat) : Nat := (start + j) % tags
      let block (j : Nat) : Word := base + BitVec.ofNat 64 (128 * place j)
      let busy (j : Nat) : Prop := ∃ st, Holds s (block j) st ∧ st ≠ 0
      (∀ j, j < tags → (∀ k, k < j → busy k) → Holds s (block j) 0 → Storable s (s.myHart.swqic + 8) →
        takeTag s = .ok ((first + BitVec.ofNat 16 (place j), block j),
          s.stored (s.myHart.swqic + 8) (setFld w 32 (first + BitVec.ofNat 16 ((place j + 1) % tags))))) ∧
      ((∀ j, j < tags → busy j) → takeTag s = .error (.exit 0x09))) ∧
    (∀ all l : List Tensor, (∀ t ∈ l, vKind t.storage = .pointer ∧ ∃ w0 w1, Holds s t.storage w0 ∧ hdrKind w0 = 8 ∧ Holds s (t.storage + 8) w1) →
      let fits (t : Tensor) : Prop := ∀ w1, Holds s (t.storage + 8) w1 → hdrHold w1 + all.countP (fun u => u.storage == t.storage) ≤ 65535
      ((∀ t ∈ l, fits t) → holdsFit all l s = .ok ((), s)) ∧ ((∃ t ∈ l, ¬ fits t) → holdsFit all l s = .error (.exit 0x03))) ∧
    (let launched (i : Instr) (ts : List Tensor) (post : Half → Word → Word → Word → Act) (ready : State → Prop) (w : Word) : Prop :=
      (∀ x t, holdsFit ts ts s = .error (.exit x) → exec i s = .next t → Exited s t x w) ∧
      (holdsFit ts ts s = .ok ((), s) →
        (takeTag s = .error (.exit 0x09) → ∃ t, exec i s = .next t ∧ Exited s t 0x09 w) ∧
        (∀ tag blk u1 u3 w4 w7, takeTag s = .ok ((tag, blk), u1) →
          let n (l : List Word) (j : Nat) : Word := l.getD j 0
          let two (t : Tensor) : Word := (fld (t.dims.getD 1 0) 0 32 : W32) ++ (fld (t.dims.getD 0 0) 0 32 : W32)
          let words : List Word := [1, n (ts.map Tensor.data) 0, n (ts.map Tensor.data) 1, n (ts.map Tensor.data) 2, n (ts.map two) 0,
            n (ts.map two) 1, n (ts.map two) 2, n (ts.map fun t => t.storage + 8) 0, n (ts.map fun t => t.storage + 8) 1,
            n (ts.map fun t => t.storage + 8) 2]
          let u2 := u1.storedAll blk words
          u1.Writable blk words → takeHolds ts u2 = .ok ((), u3) → Holds u3 (u3.myHart.swqic + 32) w4 → Holds u3 (u3.myHart.swqic + 56) w7 → ready u3 →
          let u4 := { u3 with agenda := u3.agenda ++ [post tag blk ((fld w4 32 16 : Half) ++ tag ++ (0 : W32)) w7] }
          SlotPlain u4 d → exec i s = .next ((u4.wrote d (BitVec.ofInt 64 (2 * tag.toNat + 1))).behind i)))
    (∀ w e0 e1 x t y scale, SiteIs s site w → SlotBelow s d.toNat → SlotBelow s a.toNat → SlotBelow s b.toNat → SlotBelow s c.toNat →
      tensorsOf [a.toNat, b.toNat, c.toNat] s = .ok ([x, t, y], s) →
      let fits (e0 : Word) : Prop := wayKind e0 = 5 ∧ wayShape e0 = t.format ++ x.format ∧ wayGen e0 = y.format
      let skips (k : Nat) : Prop := ∃ e0 e1, WayIs s w k e0 e1 ∧ ¬ fits e0
      (∀ k, k < 4 → (∀ j, j < k → skips j) → WayIs s w k e0 e1 → fits e0 →
        launched (.swqTcall wide d a b c site) [x, t, y] (fun _ blk head w7 => .event (.launch s.hart false {
          w0 := head ||| (fld e1 0 32 : W32).setWidth 64
          w1 := (if (fld e1 32 32 : W32) = BitVec.allOnes 32 then (fld (y.dims.getD 0 0) 0 32 : W32) else fld e1 32 32).setWidth 64
          w2 := (0 : Half) ++ y.format ++ t.format ++ x.format
          w3 := scale, w4 := w7, w5 := blk, w6 := 0, w7 := 0 }))
          (fun u => Holds u (slotAddr t.storage 2) scale) w) ∧
      ((∀ k, k < 4 → skips k) →
        ∃ u, exec (.swqTcall wide d a b c site) s = .next u ∧ Exited s u 0x02 w)) ∧
    (∀ x y, SlotBelow s d.toNat → SlotBelow s a.toNat → SlotBelow s b.toNat → tensorsOf [a.toNat, b.toNat] s = .ok ([x, y], s) →
      let same : Prop := x.format = y.format ∧ x.rank = y.rank ∧ x.used = y.used ∧ x.contiguous = true ∧ y.contiguous = true
      (¬ same → ∃ u, exec (.swqTcopy wide d a b) s = .next u ∧ Exited s u 0x03 0xFFFFFFFF) ∧
      (∀ bytes, same → copyBytes (elemOf x.format) (product x.used) = some bytes →
        launched (.swqTcopy wide d a b) [x, y] (fun _ blk head w7 => .event (.copyLaunch s.hart false {
          w0 := head, w1 := 0x400000000, w2 := BitVec.ofNat 64 bytes, w3 := x.data, w4 := w7, w5 := blk, w6 := y.data, w7 := 0 }))
          (fun _ => True) 0xFFFFFFFF))) ∧
    (∀ v, SlotIs s a v → vKind v ≠ .pointer →
      (SlotBelow s d.toNat → SlotBelow s b.toNat → ∃ u, exec (.swqTcopy wide d a b) s = .next u ∧ Exited s u 0x03 0xFFFFFFFF) ∧
      (∀ w, SiteIs s site w → SlotBelow s d.toNat → SlotBelow s b.toNat → SlotBelow s c.toNat →
        ∃ u, exec (.swqTcall wide d a b c site) s = .next u ∧ Exited s u 0x03 w) ∧
      (vKind v ≠ .int → ∃ u, exec (.swqTwait wide a) s = .next u ∧ Exited s u 0x03 0xFFFFFFFF)) ∧
    (∀ (t : Half) base w st, SlotIs s a (BitVec.ofInt 64 (2 * t.toNat + 1)) → Holds s s.myHart.swqic base → Holds s (s.myHart.swqic + 8) w →
      let i := (t - (fld w 0 16 : Half)).toNat
      let blk := base + BitVec.ofNat 64 (128 * i)
      (i < (fld w 16 16 : Half).toNat → Holds s blk st →
        (st = 1 → exec (.swqTwait wide a) s = .next s) ∧
        (st = 2 ∨ st = 3 → Storable s blk → SlotPlain (s.stored blk 0) a →
          exec (.swqTwait wide a) s = .next (((s.stored blk 0).wrote a (if st = 2 then 0x12 else 0x0A)).behind (.swqTwait wide a))) ∧
        (st ≠ 1 → st ≠ 2 → st ≠ 3 → ∃ u, exec (.swqTwait wide a) s = .next u ∧ Exited s u 0x03 0xFFFFFFFF)) ∧
      ((fld w 16 16 : Half).toNat ≤ i → ∃ u, exec (.swqTwait wide a) s = .next u ∧ Exited s u 0x03 0xFFFFFFFF))

/-- Construction of objects, and tensor launches: the claims above. -/
def Obligations.BytecodeConstructionAndTensors : Prop := Claims.BytecodeConstruction ∧ Claims.BytecodeTensors

/-- A Sweiq engine's access for its hart lies where the hart's translation puts it, under hkey: at the address itself where no stage translates, else
where its page tables do, at most three levels for Sv39 of a hart that runs no guest; for a helm pound it lies where the helm object space does,
under its leaf's key, and waits while the cache of a second-tier page's home is flushed. It reaches main memory and the Basins only, and a
poisoned line is a load access fault (10 R204, R211; 13 R234; 19 R299, R302, R306; 21 R320; page tables by RISC-V: log entries 10 and 11). -/
def Claims.EngineViews : Prop :=
  (∀ (s : State) (acc : HelmAcc) (a : Word),
    (s.plainView = true → swqPlace s acc a = .ok (a.toNat, keyGen s s.myHart.hkey.toNat, true, s)) ∧
    (s.viaPound = true →
      let dva := (fld a 0 52 : BitVec 52).toNat
      (∀ l u, walked s (s.hart.val / 8) 2 dva (if acc = .store then 2 else 0) = .ok (l, u) →
        let pa := l.pa dva
        let g := keyGen u (keyOfLeaf l.leaf)
        (tierOf l.leaf ≠ 2 → swqPlace s acc a = .ok (pa, g, true, u)) ∧
        (tierOf l.leaf = 2 → (u.die (dieOfKey pa)).busy = true → swqPlace s acc a = .error .waits) ∧
        (tierOf l.leaf = 2 → (u.die (dieOfKey pa)).busy = false → swqPlace s acc a = .ok (pa, g, true, roomFor u g (pa / 64)))) ∧
      (∀ c, walked s (s.hart.val / 8) 2 dva (if acc = .store then 2 else 0) = .error c →
        swqPlace s acc a = .error (.exception (.plain (match acc with
          | .fetch => 12
          | .load => 13
          | .store => 15) a))))) ∧
  (∀ (s : State) (acc : HelmAcc) (a : Word) (t2 t1 t0 : Nat) (p2 p1 p0 : Word),
    let x := s.myHart
    let g := keyGen s x.hkey.toNat
    let pte (t i : Nat) (p : Word) : Prop := let k := t + 8 * (a.toNat / 2 ^ i % 512)
      isMain k = true ∧ SMap.find s.helmCache (k / 64) = none ∧ homeLine s g (k / 64) = s ∧ poisoned s k 8 = false ∧ k % 8 = 0 ∧
        p = BitVec.ofNat 64 (bytesNat (physRead s g k 8))
    let inner (p : Word) (t : Nat) : Prop := (fld p 0 8 : Byte) &&& 0xDF = 1 ∧ (fld p 54 10 : BitVec 10) = 0 ∧ t = (fld p 10 44 : BitVec 44).toNat * 4096
    s.viaPound = false → x.virt = false → x.mode = .u ∨ x.mode = .s → (fld x.csrs.satp 60 4 : BitVec 4) = 8 → t2 = (fld x.csrs.satp 0 44 : BitVec 44).toNat * 4096 →
    (sext64 39 a ≠ a → swqPlace s acc a = .error (.exception (.plain (match acc with
      | .fetch => 12
      | .load => 13
      | .store => 15) a))) ∧
    (sext64 39 a = a → pte t2 30 p2 → inner p2 t1 → pte t1 21 p1 → inner p1 t0 → pte t0 12 p0 → (fld p0 54 10 : BitVec 10) = 0 → acc ≠ .fetch →
      let user : Prop := bit p0 4 = true
      let allowed : Prop := bit p0 0 = true ∧ bit p0 6 = true ∧ (x.mode = .u → user) ∧ (x.mode = .s → user → bit x.mstatus 18 = true) ∧
        ((acc = .load ∧ (bit p0 1 = true ∨ (bit p0 3 = true ∧ bit p0 2 = false ∧ bit x.mstatus 19 = true))) ∨
          (acc = .store ∧ bit p0 1 = true ∧ bit p0 2 = true ∧ bit p0 7 = true))
      allowed → ¬ (bit p0 2 = true ∧ bit p0 1 = false) →
        swqPlace s acc a = .ok ((fld p0 10 44 : BitVec 44).toNat * 4096 + a.toNat % 4096, g, true, s))) ∧
  (∀ (s : State) (a : Word) (n pa g : Nat) (u : State), a.toNat % 4096 + n ≤ 4096 → 1 ≤ n → swqPlace s .load a = .ok (pa, g, true, u) →
    let faults (poison : Bool) : Prop := ∃ f, swqBytes a n s = .error (.exception f) ∧ f.cause = 5 ∧ f.val = a ∧ f.poison = poison
    ((swqAddr pa = false ∨ swqAddr (pa + n - 1) = false) → faults false) ∧
    (swqAddr pa = true → swqAddr (pa + n - 1) = true → syncLines u g pa n = u →
      (meetsPoison u true pa n = true → faults true) ∧
      (meetsPoison u true pa n = false → swqBytes a n s = .ok (helmRead u g pa n, openLines u g pa n))))

/-- A hart takes an interrupt that is pending and enabled before its next word, and its engine at the next bytecode boundary, where rs1 and rs2 of swq.run
take the frame and the bytecode address; a timer's is pending once mtime has reached mtimecmp (10 R211; 19 R310, R311; trap entry by RISC-V: log
entry 10). -/
def Claims.HelmInterrupts : Prop :=
  (∀ (s : State) (h : Fin 32),
    let x := s.getHart h.val
    (bit (mipOf s h.val) 7 = true ↔ (SMap.getD s.wharf.mtimecmp h.val (BitVec.allOnes 64)).toNat ≤ s.mtime) ∧
    (bit x.csrs.menvcfg 63 = true → (bit (mipOf s h.val) 5 = true ↔ x.csrs.stimecmp.toNat ≤ s.mtime)) ∧
    (∀ i, pendingInterrupt s h.val = some i → (mipOf s h.val &&& x.csrs.mie).toNat.testBit i = true ∧ x.enables i = true) ∧
    (x.mode = .m → bit x.mstatus 3 = true → x.csrs.mideleg.toNat.testBit 7 = false → bit x.csrs.mie 7 = true → x.csrs.mie &&& 0x808 = 0 →
      (SMap.getD s.wharf.mtimecmp h.val (BitVec.allOnes 64)).toNat ≤ s.mtime → pendingInterrupt s h.val = some 7) ∧
    (∀ i, pendingInterrupt s h.val = some i → x.running = true → x.csrs.mideleg.toNat.testBit i = false →
      let st0 := setFld (setFld (setFld x.mstatus 11 (modeCode x.mode)) 7 (fld x.mstatus 3 1 : BitVec 1)) 3 (0 : BitVec 1)
      let st := setFld (setFld st0 39 (BitVec.ofBool x.virt)) 38 (0 : BitVec 1)
      let pc : Word := (x.mtvec &&& ~~~(3 : Word)) + if bit x.mtvec 0 then BitVec.ofNat 64 (4 * i) else 0
      let y (z : Hart) : Hart :=
        { z with mepc := x.pc, mcause := BitVec.ofNat 64 i ||| (1 : Word) <<< 63, mtval := 0, mstatus := st, mode := .m, virt := false, pc := pc,
                 hyp := { z.hyp with mtval2 := 0, mtinst := 0 } }
      (x.swq.running = false → hartStep s h = .next ({ s with hart := h }.setMyHart (y x))) ∧
      (x.swq.running = true → swqStep s h = .next ({ s with hart := h }.setMyHart
        (y { (x.setX x.swq.rs1 x.swq.frame).setX x.swq.rs2 x.swq.bpc with swq := { x.swq with running := false } })))) ∧
    (∀ i, pendingInterrupt s h.val = some i → x.running = true → x.swq.running = false → x.csrs.mideleg.toNat.testBit i = true →
      ∃ t, hartStep s h = .next t ∧
        let y := t.getHart h.val
        y.csrs.sepc = x.pc ∧ y.csrs.scause = BitVec.ofNat 64 i ||| (1 : Word) <<< 63 ∧ y.mode = .s ∧ y.virt = false ∧ bit y.mstatus 1 = false ∧
          y.pc = (x.csrs.stvec &&& ~~~(3 : Word)) + if bit x.csrs.stvec 0 then BitVec.ofNat 64 (4 * i) else 0))

/-- Where a Sweiq engine's accesses lie, and the interrupts of the helm harts: the claims above. -/
def Obligations.HelmViewsAndInterrupts : Prop := Claims.EngineViews ∧ Claims.HelmInterrupts

/-- swq.run starts the engine at a frame and a bytecode address, with rs1 and rs2 different and not x0; swq.icw copies an image into a way and swq.icinv
clears the four; swq.gen counts a cell up to 0xFFFF; swq.hold changes a storage object's hold within 0 to 65,535; swq.post posts what is not of kind F
or K and names a pound, a task's reserved fields as zero. Each goes on at pc + 4, or takes the exception of its access (10 R210, R211; that exception's entry, and the
illegal-instruction one of swq.run, are the model's: log entries 9 and 10); while a home-side cache that it needs is flushed it waits (13 R234). -/
def Claims.HelmInstructions : Prop :=
  ∀ (s : State) (rd rs1 rs2 : Fin 32),
    let x := s.myHart
    let a := x.getX rs1
    let b := x.getX rs2
    let next (t : State) : State := t.setMyHart { t.myHart with pc := t.myHart.pc + 4 }
    let gives (t : State) (v : Word) : State := next (t.setMyHart (t.myHart.setX rd v))
    let faults (t : State) (cause : Nat) : Prop := t.mem = s.mem ∧
      if x.mode ≠ .m ∧ bit x.csrs.medeleg cause = true then
        if x.virt = true ∧ bit x.hyp.hedeleg cause = true then
          t.myHart.hyp.vsepc = x.pc ∧ t.myHart.hyp.vscause = BitVec.ofNat 64 cause ∧ t.myHart.mode = .s ∧ t.myHart.virt = true ∧
            t.myHart.pc = x.hyp.vstvec &&& ~~~(3 : Word)
        else t.myHart.csrs.sepc = x.pc ∧ t.myHart.csrs.scause = BitVec.ofNat 64 cause ∧ t.myHart.mode = .s ∧ t.myHart.virt = false ∧
          t.myHart.pc = x.csrs.stvec &&& ~~~(3 : Word)
      else t.myHart.mepc = x.pc ∧ t.myHart.mcause = BitVec.ofNat 64 cause ∧ t.myHart.mode = .m ∧ t.myHart.virt = false ∧
        t.myHart.pc = x.mtvec &&& ~~~(3 : Word)
    (rs1 ≠ rs2 → rs1 ≠ 0 → rs2 ≠ 0 → exec (.swqRun rd rs1 rs2) s = .next (s.setMyHart { x with
      swq := { running := true, frame := a, bpc := b, rd := rd, rs1 := rs1, rs2 := rs2 } })) ∧
    (rs1 = rs2 ∨ rs1 = 0 ∨ rs2 = 0 → ∃ t, exec (.swqRun rd rs1 rs2) s = .next t ∧ faults t 2) ∧
    (let way : Word := x.swqic + 64 + BitVec.ofNat 64 (64 * (fld a 0 32 : W32).toNat);
      (∀ bs u, swqBytes b 16 s = .ok (bs, s) → swqStoreBytes (way + BitVec.ofNat 64 (16 * (fld a 32 2 : BitVec 2).toNat)) bs s = .ok ((), u) →
        exec (.swqIcw rs1 rs2) s = .next (next u)) ∧
      (∀ f ps, swqBytes b 16 s = .error (.exception f ps) → f.cause < 64 → ∃ t, exec (.swqIcw rs1 rs2) s = .next t ∧ faults t f.cause) ∧
      (swqBytes b 16 s = .error .waits → exec (.swqIcw rs1 rs2) s = .next s) ∧
      (∀ w0 w1 w2 w3,
        let clear (w : Word) : Word := setFld w 48 (0 : Byte)
        let s1 := s.stored (way + 0) (clear w0)
        let s2 := s1.stored (way + 16) (clear w1)
        let s3 := s2.stored (way + 32) (clear w2)
        Storable s (way + 0) → Storable s1 (way + 16) → Storable s2 (way + 32) → Storable s3 (way + 48) →
        Holds s (way + 0) w0 → Holds s1 (way + 16) w1 → Holds s2 (way + 32) w2 → Holds s3 (way + 48) w3 →
        exec (.swqIcinv rs1) s = .next (next (s3.stored (way + 48) (clear w3))))) ∧
    (∀ base w, Holds s (x.swqic + 24) base → Holds s (x.swqic + 32) w →
      let cell := base + BitVec.ofNat 64 (2 * (fld a 0 32 : W32).toNat)
      ((fld w 0 32 : W32).toNat ≤ (fld a 0 32 : W32).toNat → exec (.swqGen rd rs1) s = .next (gives s (BitVec.allOnes 64))) ∧
      (∀ g : Half, (fld a 0 32 : W32).toNat < (fld w 0 32 : W32).toNat → swqLoad16 cell s = .ok (g, s) →
        let n : Half := if g = 0xFFFF then g else g + 1
        ∀ u, swqStoreBytes cell (natBytes 2 n.toNat) s = .ok ((), u) → exec (.swqGen rd rs1) s = .next (gives u (n.setWidth 64)))) ∧
    (∀ w0 w1, Holds s a w0 → Holds s (a + 8) w1 → Storable s (a + 8) →
      let n := (hdrHold w1 : Int) + b.toInt
      let u := s.stored (a + 8) (setFld w1 32 (BitVec.ofInt 16 n))
      (hdrKind w0 ≠ 8 ∨ n < 0 ∨ 65535 < n → exec (.swqHold rd rs1 rs2) s = .next (gives s (BitVec.allOnes 64))) ∧
      (hdrKind w0 = 8 → 0 ≤ n → n ≤ 65535 → ¬ (n = 0 ∧ hdrHold w1 ≠ 0 ∧ hdrCount w1 = 0) →
        exec (.swqHold rd rs1 rs2) s = .next (gives u (BitVec.ofInt 64 n))) ∧
      (∀ (d p w2 : Word), hdrKind w0 = 8 → n = 0 → hdrHold w1 ≠ 0 → hdrCount w1 = 0 → hdrMoored w0 = false → Holds u a w0 → Holds u (a + 8) w2 →
        hdrHold w2 = 0 → Holds u (slotAddr a 0) d → Holds u (slotAddr a 1) p →
        let f := poolFreeNow u (swqDie u) (fld p 0 8 : Byte).toNat d.toNat
        exec (.swqHold rd rs1 rs2) s = .next (gives (poolFreeNow f (swqDie f) (hdrClass w0) a.toNat) 0))) ∧
    (∀ r, swqImage a s = .ok (r, s) →
      (r.kind = kF ∨ r.kind = kK ∨ namesPound s r.ta = false → exec (.swqPost rd rs1) s = .next (gives s 1)) ∧
      (r.kind ≠ kF → r.kind ≠ kK → namesPound s r.ta = true →
        let p := s.post (senderHart s.hart.val) r
        (r.kind ≠ kP → exec (.swqPost rd rs1) s =
          .next (gives (if r.kind = kT ∨ (r.kind = kM ∧ isRemote r = false) then p.countOwn r.tag 1 0 else p) 0)) ∧
        (r.kind = kP → exec (.swqPost rd rs1) s = .next (gives (replyLeaves p r) 0)))) ∧
    (∀ (h : Word) (bs : List Byte) (u : State), swqLoad a s = .ok (h, s) → swqBytes a (24 + 8 * (fld h 30 3 : BitVec 3).toNat) s = .ok (bs, u) →
      swqImage a s =
        .ok ({ hdr := h, key := wordAt bs 1, pay := delivered (fld h 37 3 : BitVec 3).toNat ((List.range ((fld h 30 3 : BitVec 3).toNat + 1)).map fun j => wordAt bs (2 + j)) }, u))

/-- The engine's CSRs and hkey: a CSR instruction reads one whole, and writes swqh with bits 1 and 0 zero, swqic with bits 5 to 0 zero, swqfl whole and
the low 12 bits of hkey; user mode may not access hkey (10 R209; 19 R302; the instructions' encodings are RISC-V's: log entry 10). A step that finds
such a word at a hart's pc performs it. -/
def Claims.HelmRegisters : Prop :=
  (∀ (s : State) (w : W32) (rd rs1 : BitVec 5) (csr : BitVec 12),
    let x := s.myHart
    let n : Word := x.getX (Fin.ofNat 32 rs1.toNat)
    let wrote (y : Hart) (old : Word) : State := s.setMyHart { y.setX (Fin.ofNat 32 rd.toNat) old with pc := x.pc + BitVec.ofNat 64 x.len }
    w = csr ++ rs1 ++ (1 : BitVec 3) ++ rd ++ (0x73 : BitVec 7) →
    (csr = 0x8C0 → s.standardWord w = wrote { x with swqh := n &&& ~~~(3 : Word) } x.swqh) ∧
    (csr = 0x8C1 → s.standardWord w = wrote { x with swqic := n &&& ~~~(63 : Word) } x.swqic) ∧
    (csr = 0x8C2 → s.standardWord w = wrote { x with swqfl := n } x.swqfl) ∧
    (csr = 0x5C0 → x.mode ≠ .u → s.standardWord w = wrote { x with hkey := fld n 0 12 } (x.hkey.setWidth 64)) ∧
    (csr = 0x5C0 → x.mode = .u → (s.standardWord w).myHart.hkey = x.hkey ∧
      let y := (s.standardWord w).myHart
      let cause : Nat := if x.virt = true then 22 else 2
      (bit x.csrs.medeleg cause = false → y.mepc = x.pc ∧ y.mcause = BitVec.ofNat 64 cause) ∧
      (bit x.csrs.medeleg cause = true → x.virt = false → y.csrs.sepc = x.pc ∧ y.csrs.scause = 2))) ∧
  (∀ (s t : State) (h : Fin 32) (w : W32), helmFetch s h = .word w t → (fld w 0 7 : BitVec 7) = 0x73 → hartStep s h = .next (t.standardWord w))

/-- The helm harts' custom words and CSRs: the claims above. -/
def Obligations.HelmInstructions : Prop := Claims.HelmInstructions ∧ Claims.HelmRegisters

/-- A helm pound applies a U record in place, by its operator, in the object space of its die, once no home-side cache that it needs is flushed, and discards
and counts one whose translation faults; every other kind goes into the inbox ring, an entry of 128 bytes at head, which moves on, and an armed inbox fires its hart's source once. Arming an inbox
with unread entries fires at once (19 R306, R307; 10 R215, R223; 13 R234, R240). A call's journal entry is log entry 39's (21 R322, R323), the reclaim of a
moored object in asid 2 log entry 11's, a sum outside its format log entry 38's. -/
def Claims.HelmPounds : Prop :=
  (∀ (s : State) (h : Fin 32) (i : Nat) (r : Record), helmChosen s h.val = some (i, r) →
    let x := s.getHart h.val
    let s0 := s.setHart h.val { x with pound := x.pound.dispatch i s.clk r.kind }
    let e := SMap.getD s.wharf.sources h.val 0
    let id := (fld e 0 8 : Byte)
    let place := (fld e 16 5 : BitVec 5).toNat
    (r.kind = kU → exec (.inboxWrite h) s = .next s ∧
      (∀ ps u, updatePlaces s0 (h.val / 8) (fld r.key 0 52 : BitVec 52).toNat r.pay.length = (some ps, u) →
        let busy : Prop := ∃ p ∈ ps, tierOf p.1.leaf = 2 ∧ (u.die (dieOfKey p.2)).busy = true
        let u1 := touchPlaces (syncPlaces u ps) ps []
        let v := writePlaces { u1 with fresh := u1.fresh + r.pay.length } ps
          (updateWords r.op (fun j => Config.freeWord (u1.fresh + j)) (readPlaces u1 ps) r.pay)
        (busy → exec (.helmUpdateApply h) s = .next s) ∧
        (¬ busy → isHoldRelease r = false → exec (.helmUpdateApply h) s = .next (endLaunches v h.val r)) ∧
        (¬ busy → isHoldRelease r = true →
          (v.forPound h (reclaimMoored (r.key - 8)) = none → exec (.helmUpdateApply h) s = .next s) ∧
          (∀ z, v.forPound h (reclaimMoored (r.key - 8)) = some z → exec (.helmUpdateApply h) s = .next (endLaunches z h.val r)))) ∧
      (∀ u, updatePlaces s0 (h.val / 8) (fld r.key 0 52 : BitVec 52).toNat r.pay.length = (none, u) →
        ∃ t, exec (.helmUpdateApply h) s = .next t ∧ t.mem = u.mem ∧ (t.getHart h.val).discarded = (u.getHart h.val).discarded + 1)) ∧
    (r.kind ≠ kU → exec (.helmUpdateApply h) s = .next s ∧
      (isCall r = false → Inv s → s.helmCache = [] →
        let n := 2 ^ (min 8 (fld x.inboxBase 0 4 : BitVec 4).toNat + 4)
        ∃ t, exec (.inboxWrite h) s = .next t ∧
          helmRead t (keyGen t 0) ((fld x.inboxBase 12 40 : BitVec 40).toNat * 4096 + 128 * (x.head.toNat % n)) 128 =
            wordsBytes ([r.hdr, r.key] ++ takePad 0 8 r.pay ++ List.replicate 6 0) ∧
          (t.getHart h.val).head = x.head + 1 ∧ (t.getHart h.val).tail = x.tail) ∧
      (∃ t, exec (.inboxWrite h) s = .next t ∧ (t.getHart h.val).head = x.head + 1 ∧ (t.getHart h.val).arm = false ∧
        (isCall r = true → t.wharf.jHead = s.wharf.jHead + 1 ∧
          t.wharf.calls.length = if (s.launch r.tag).state = 3 then s.wharf.calls.length else s.wharf.calls.length + 1) ∧
        (x.arm = true → bit e 31 = true → id ≠ 0 → if bit e 21 then id ∈ (t.getHart place).msiS else id ∈ (t.getHart place).msiM) ∧
        (x.arm = false → isCall r = false → ∀ k, (t.getHart k).msiS = (s.getHart k).msiS ∧ (t.getHart k).msiM = (s.getHart k).msiM)))) ∧
  (∀ (s : State) (h : Fin 32), let x := s.getHart h.val
    (x.head = x.tail → exec (.inboxArm h) s = .next (s.setHart h.val { x with arm := true })) ∧
    (x.head ≠ x.tail → exec (.inboxArm h) s = .next (fire (s.setHart h.val { x with arm := false }) h.val))) ∧
  (∀ (s : State) (h : Fin 32) (i : Nat) (r : Record), helmChosen s h.val = some (i, r) →
    (∃ e, (s.getHart h.val).pound.entries[i]? = some e ∧ e.r = r ∧ e.at' + 2 ≤ s.clk) ∧
    ((∃ f ∈ (s.getHart h.val).pound.entries.take (i + 1), f.r.kind ≠ kU) → ((s.getHart h.val).head - (s.getHart h.val).tail).toNat < 2 ^ (min 8 (fld (s.getHart h.val).inboxBase 0 4 : BitVec 4).toNat + 4)))

/-- A command block gets the first code of the checks that it fails, or 0 and a place on its copy engine. A load of a pool's register takes the pool's
newest address or gives zero, a store frees, and one of no block leaves the pool (log entry 23); a load of the snapshot register gives clk and latches
mtime (17 R287, R288, R291; 19 R304, R305, R311). -/
def Claims.HelmPorts : Prop :=
  ∀ (s : State) (h rd : Fin 32) (die pool : Nat),
    (∀ (b : PortBlock), die < 4 →
      let w := portWords b
      let i : Instr := if portOpcode w = 1 then .helmMulticastCommand h die b else .helmCopyCommand h die b
      let cl := die * 32 + (if portOpcode w = 1 then lowestCluster (fld (blkWord w 4) 0 24) else 0)
      let told (code : Nat) : Prop := ∃ t, exec i s = .next t ∧ (SMap.getD (t.die die).ports h.val {}).result = BitVec.ofNat 64 code ∧
        (code ≠ 0 → (t.engine (.copy cl)).cmds = (s.engine (.copy cl)).cmds) ∧
        (code = 0 → (t.engine (.copy cl)).cmds.map Cmd.words = (s.engine (.copy cl)).cmds.map Cmd.words ++ [w] ∧
          ∃ m ∈ (t.engine (.copy cl)).cmds, m.helm = some h ∧ m.words = w)
      let root : Prop := noRoot s (fld (blkWord w 4) 48 16 : Half).toNat die = true
      (portMalformed w = true → told 1) ∧
      (portMalformed w = false → root → told 2) ∧
      (portMalformed w = false → ¬ root → portOutside w = true → told 3) ∧
      (portMalformed w = false → ¬ root → portOutside w = false → (s.engine (.copy cl)).room = false → told 4) ∧
      (portMalformed w = false → ¬ root → portOutside w = false → (s.engine (.copy cl)).room = true → told 0) ∧
      (portOpcode w = 1 → exec (.helmCopyCommand h die b) s = .next s) ∧
      (portOpcode w ≠ 1 → exec (.helmMulticastCommand h die b) s = .next s)) ∧
    (s.lock.ready = true → (s.getHart h.val).swq.running = false →
      let pc := (s.getHart h.val).pc
      let P := getPool s die pool
      let loads (i : Instr) (v : Word) : Prop := ∃ t, exec i s = .next t ∧ (t.getHart h.val).pc = pc + BitVec.ofNat 64 (s.getHart h.val).len ∧
        (t.getHart h.val).getX rd = (if rd = 0 then 0 else v) ∧ t.mem = s.mem
      (die < 4 → pool < 256 →
        (∀ l a, P.enabled = true → P.held = l ++ [a] → loads (.poolAllocLoad h die pool rd) (BitVec.ofNat 64 a) ∧
          ∀ t, exec (.poolAllocLoad h die pool rd) s = .next t → (getPool t die pool).held = l) ∧
        (P.enabled = false ∨ (P.held = [] ∧ P.head = 0) → loads (.poolAllocLoad h die pool rd) 0) ∧
        (∀ a : Word, P.held.length < 16 → ∃ t, exec (.poolFreeStore h die pool a) s = .next t ∧ (t.getHart h.val).pc = pc + BitVec.ofNat 64 (s.getHart h.val).len ∧ t.mem = s.mem ∧
          (getPool t die pool).held = if blockOf P a.toNat then P.held ++ [a.toNat] else P.held)) ∧
      loads (.timebaseSnapshot h rd) (BitVec.ofNat 64 s.clk) ∧
      ∀ t, exec (.timebaseSnapshot h rd) s = .next t → t.wharf.latch = BitVec.ofNat 64 s.mtime)

/-- Helm pounds, inboxes, command ports, pools and the snapshot: the claims above. -/
def Obligations.HelmPoundsAndPorts : Prop := Claims.HelmPounds ∧ Claims.HelmPorts

/-- A helm hart's loads, stores and atomics on main memory and the Basin windows are performed under key 0 in M mode and under hkey below it; an
uncached one at its home. A load of a poisoned line, of a place outside the map or of a register not whole is a load access fault, such a store, and an
atomic anywhere else, a store access fault; device registers are 64 bits wide (19 R299-R304; 21 R320; the exceptions' entry is the model's: log entry 10). -/
def Claims.HelmAccesses : Prop :=
  ∀ (s : State) (h rd : Fin 32) (pa : BitVec 56) (sz : Size) (m : Pbmt), s.lock.ready = true → (s.getHart h.val).swq.running = false →
    let x := s.getHart h.val
    let n := helmBytes sz
    let a := pa.toNat
    let g := match x.mode with
      | .m => keyGen s 0
      | _ => keyGen s x.hkey.toNat
    let loads (i : Instr) (v : Word) : Prop := ∃ t, exec i s = .next t ∧ (t.getHart h.val).pc = x.pc + BitVec.ofNat 64 x.len ∧
      (t.getHart h.val).getX rd = if rd = 0 then 0 else v
    let faults (i : Instr) (cause : Nat) : Prop := ∃ t, exec i s = .next t ∧ t.mem = s.mem ∧
      let y := t.getHart h.val
      if x.mode ≠ .m ∧ bit x.csrs.medeleg cause = true then
        if x.virt = true ∧ bit x.hyp.hedeleg cause = true then
          y.hyp.vsepc = x.pc ∧ y.hyp.vscause = BitVec.ofNat 64 cause ∧ y.hyp.vstval = pa.setWidth 64 ∧ y.mode = .s ∧ y.virt = true ∧
            y.pc = x.hyp.vstvec &&& ~~~(3 : Word)
        else y.csrs.sepc = x.pc ∧ y.csrs.scause = BitVec.ofNat 64 cause ∧ y.csrs.stval = pa.setWidth 64 ∧ y.mode = .s ∧ y.virt = false ∧
          y.pc = x.csrs.stvec &&& ~~~(3 : Word)
      else
        y.mepc = x.pc ∧ y.mcause = BitVec.ofNat 64 cause ∧ y.mtval = pa.setWidth 64 ∧ y.mode = .m ∧ y.virt = false ∧ y.pc = x.mtvec &&& ~~~(3 : Word)
    let home : Prop := (placeOf a n = .main ∧ m ≠ .pma) ∨ placeOf a n = .basin
    (home → poisoned s a n = false →
      (∀ signed, loads (.helmAccess h (.load rd signed) pa sz m)
        (if signed then cutS (8 * n) (bytesNat (physRead s g a n)) else cutZ (8 * n) (bytesNat (physRead s g a n)))) ∧
      (∀ o v, 4 ≤ n → a % n = 0 → loads (.helmAccess h (.amo o rd v) pa sz m) (cutS (8 * n) (bytesNat (physRead s g a n))) ∧
        ∃ t, exec (.helmAccess h (.amo o rd v) pa sz m) s = .next t ∧
          t.mem = (physWrite s g a (natBytes n (amoValue o (8 * n) (cutS (8 * n) (bytesNat (physRead s g a n))) v).toNat)).mem)) ∧
    (home → ∀ v, ∃ t, exec (.helmAccess h (.store v) pa sz m) s = .next t ∧ (t.getHart h.val).pc = x.pc + BitVec.ofNat 64 x.len ∧
      t.mem = (physWrite s g a (natBytes n v.toNat)).mem) ∧
    (placeOf a n = .main → m = .pma → SMap.find s.helmCache (a / 64) = none → a % n = 0 → poisoned s a n = false →
      (∀ signed, loads (.helmAccess h (.load rd signed) pa sz m)
        (if signed then cutS (8 * n) (bytesNat (physRead s g a n)) else cutZ (8 * n) (bytesNat (physRead s g a n)))) ∧
      ∀ v, ∃ t, exec (.helmAccess h (.store v) pa sz m) s = .next t ∧ MemoryKeeps s t ∧ helmRead t g a n = natBytes n v.toNat) ∧
    (home → poisoned s a n = true → ∀ signed, faults (.helmAccess h (.load rd signed) pa sz m) 5) ∧
    (placeOf a n = .nowhere ∨ (placeOf a n = .register ∧ (n ≠ 8 ∨ a % 8 ≠ 0)) ∨ (placeOf a n = .timer ∧ a % n ≠ 0) ∨
        (placeOf a n = .aplic ∧ (n ≠ 4 ∨ a % 4 ≠ 0)) →
      (∀ signed, faults (.helmAccess h (.load rd signed) pa sz m) 5) ∧ ∀ v, faults (.helmAccess h (.store v) pa sz m) 7) ∧
    (placeOf a n ≠ .main → placeOf a n ≠ .basin → ∀ o v, faults (.helmAccess h (.amo o rd v) pa sz m) 7) ∧
    (∀ v, home → poisoned s a n = true → a / 64 = (a + n - 1) / 64 → (∃ t, exec (.helmAccess h (.store v) pa sz m) s = .next t ∧ poisoned t a n = true) ∧
      ∀ o, 4 ≤ n → a % n = 0 → faults (.helmAccess h (.amo o rd v) pa sz m) 7) ∧
    (∀ v, placeOf a n = .main → m = .pma → SMap.find s.helmCache (a / 64) = none → a % n = 0 → poisoned s a n = true →
      ∃ t l, exec (.helmAccess h (.store v) pa sz m) s = .next t ∧ SMap.find t.helmCache (a / 64) = some l ∧ l.poison = true) ∧
    (∀ l : HelmLine, SMap.find s.helmCache (a / 64) = some l → placeOf a 1 = .main → m = .pma →
      let back := physWrite { s with helmCache := SMap.erase s.helmCache (a / 64) } l.gen (a / 64 * 64) (natBytes 64 l.bytes.toNat)
      (l.dirty = true → ∀ op, op = .flush ∨ op = .inval ∨ op = .clean → ∃ t, exec (.helmAccess h op pa sz m) s = .next t ∧ t.mem = back.mem) ∧
      (l.dirty = false → ∀ op, op = .flush ∨ op = .inval ∨ op = .clean → ∃ t, exec (.helmAccess h op pa sz m) s = .next t ∧ t.mem = s.mem)) ∧
    (∀ v, placeOf a n = .register → n = 8 → a % 8 = 0 → regBlock a = 4 →
      (regOff a ≠ 0x20 → loads (.helmAccess h (.load rd false) pa sz m) (wharfRegister s (regOff a))) ∧
      exec (.helmAccess h (.store v) pa sz m) s = exec (.registerWrite h pa v) s)

/-- A store to a device register writes the fields that the register has, and nothing of its reserved fields; one in user mode to the lockhouse's command
register is ignored (log entry 42; 13 R234; 16 R273; 17 R290; 19 R304-R312, R316; 21 R322, R328). -/
def Claims.DeviceRegisters : Prop :=
  ∀ (s : State) (h : Fin 32) (v : Word), s.lock.ready = true → (s.getHart h.val).swq.running = false →
    let next (t : State) : State :=
      t.setHart h.val { t.getHart h.val with running := true, pc := (t.getHart h.val).pc + BitVec.ofNat 64 (t.getHart h.val).len }
    let w := s.wharf
    let wharf (off : Nat) (t : State) : Prop := exec (.registerWrite h (BitVec.ofNat 56 (0x7C000040000 + off)) v) s = .next (next t)
    wharf 0x008 (s.setTableBase (fld v 21 6)) ∧ (s.setTableBase (fld v 21 6)).wharf.tableBase = fld v 21 6 ∧
    (Inv s → ∀ d (tag : Half), d < 4 →
      let word (i : Nat) : Word := basinWord (s.setTableBase (fld v 21 6)) d ((fld v 21 6 : BitVec 6).toNat * 0x200000 + 32 * tag.toNat + 8 * i)
      let y := s.launch tag
      word 0 = (0 : Half) ++ y.asid ++ BitVec.ofNat 32 y.state ∧ word 1 = y.slotCycles ∧ word 2 = y.weirCycles ∧ word 3 = y.engineCycles) ∧
    wharf 0x010 (if bit v 16 then s.resumeTag (fld v 0 16) else s.preemptTag (fld v 0 16)) ∧
    wharf 0x080 (s.setRouting v) ∧ ((s.getHart h.val).mode = .u → wharf 0x3100 s) ∧
    wharf 0x018 { s with wharf := { w with watchdog := fld v 0 32 } } ∧
    wharf 0x030 { s with wharf := { w with dmaBase := v } } ∧
    (∀ j, j < 4 → wharf (0x040 + 8 * j) { s with wharf := { w with steering := setAt w.steering j (v &&& 0x1F1F1F1F1F1F1F1F) } }) ∧
    (∀ j, j ≤ 68 → wharf (0x100 + 8 * j) { s with wharf := { w with sources := SMap.set w.sources j (v &&& 0x803F00FF) } }) ∧
    wharf 0x3008 { s with lock := { s.lock with events := s.lock.events &&& ~~~(fld v 0 5) } } ∧
    wharf 0x3020 { s with wharf := { w with jRead := v } } ∧
    wharf 0x3028 { s with wharf := { w with jThreshold := fld v 0 21 } } ∧
    (∀ k, k < 32 →
      let x := s.getHart k
      let n := (fld v 0 4 : BitVec 4)
      let size : BitVec 4 := if 8 < n.toNat then 8 else n
      wharf (0x400 + 0x20 * k) (s.setHart k { x with inboxBase := ((fld v 12 40 : BitVec 40) ++ (0 : Byte) ++ size).setWidth 64 }) ∧
      wharf (0x410 + 0x20 * k) (s.setHart k { x with tail := v }) ∧ wharf (0x408 + 0x20 * k) s) ∧
    wharf 0x000 s ∧ wharf 0x028 s ∧ wharf 0x3018 s ∧
    (∀ d, d < 4 →
      let die (off : Nat) (t : State) : Prop := exec (.registerWrite h (BitVec.ofNat 56 (0x7C000000000 + 0x10000 * d + off)) v) s = .next (next t)
      die 0x100 (s.setDie d { s.die d with allocBase := (fld v 5 22 : BitVec 22) ++ (0 : BitVec 5) }) ∧
      die 0x110 (s.setDie d { s.die d with asBase := ((fld v 19 33 : BitVec 33) ++ (0 : BitVec 19)).setWidth 64 }) ∧
      die 0x008 s ∧ die 0x200 s) ∧
    (∀ pa : BitVec 56, isRegister pa.toNat = false → exec (.registerWrite h pa v) s = .next s)

/-- Helm accesses and device registers: the claims above. -/
def Obligations.HelmAccessesAndRegisters : Prop := Claims.HelmAccesses ∧ Claims.DeviceRegisters

/-- A route entry takes effect at once, or once the records on their way are acknowledged; records that waited are then sent. A refused record is lost and
aborts its tag. 16 failed replays of a flit take a link down: an aqueduct port loses its records, those sent later too, another link fences the cores
behind it (the links' numbers: log entry 40). A refused T or M record counts as retired (log entry 70). A corrected error is counted, one that is not
poisons its line (17 R293, R294; 19 R315, R316; 21 R319, R321). -/
def Claims.RoutesAndLinks : Prop :=
  (∀ (s : State) (v : Word) (d : Nat), d < 16 →
    let e : BitVec 4 := (fld v (4 * d) 3 : BitVec 3).setWidth 4
    ∃ t, exec (.routingWrite v) s = .next t ∧
      (d = s.wharf.device.toNat → (fld t.wharf.routing (4 * d) 4 : BitVec 4) = fld s.wharf.routing (4 * d) 4) ∧
      (d ≠ s.wharf.device.toNat → sentTo s d = false → (fld t.wharf.routing (4 * d) 4 : BitVec 4) = e) ∧
      (d ≠ s.wharf.device.toNat → sentTo s d = true →
        SMap.find t.wharf.routingNew d = some e ∧ (fld t.wharf.routing (4 * d) 4 : BitVec 4) = fld s.wharf.routing (4 * d) 4)) ∧
  (∀ (s : State) (d : Fin 16), sentTo s d.val = true → routeDown s d.val = true → exec (.routeChangeEffect d) s = .next s) ∧
  (∀ (s : State) (d : Fin 16), sentTo s d.val = false ∨ routeDown s d.val = false → ∃ t, exec (.routeChangeEffect d) s = .next t ∧
    (∀ e, SMap.find s.wharf.routingNew d.val = some e → (fld t.wharf.routing (4 * d.val) 4 : BitVec 4) = e ∧
      (bit e 2 = true → t.wharf.unacked.filter (fun p => p.1 == d.val) = s.wharf.waiting.filter (fun p => p.1 == d.val))) ∧
    (SMap.find s.wharf.routingNew d.val = none → t.wharf.routing = s.wharf.routing ∧ sentTo t d.val = false)) ∧
  (∀ (s : State) (tag : Half),
    ((∀ p ∈ s.wharf.unacked, p.2.tag ≠ tag) → exec (.remoteRecordRefused tag) s = .next s) ∧
    (∀ p l, s.wharf.unacked = p :: l → p.2.tag = tag →
      let u := { s with wharf := { s.wharf with unacked := l } }
      exec (.remoteRecordRefused tag) s =
        .next ((if p.2.kind = kT ∨ (p.2.kind = kM ∧ isRemote p.2 = false) then u.countOwn tag 0 1 else u).abortTag tag))) ∧
  (∀ (s : State) (link : Nat),
    let n := SMap.getD s.wharf.replays link 0
    (s.wharf.linksDown.contains link = true → ∀ ok, exec (.linkFlitError link (.flit ok)) s = .next s) ∧
    (s.wharf.linksDown.contains link = false →
      (exec (.linkFlitError link (.flit true)) s = .next { s with wharf := { s.wharf with replays := SMap.erase s.wharf.replays link } }) ∧
      (n ≠ 15 → exec (.linkFlitError link (.flit false)) s = .next { s with wharf := { s.wharf with replays := SMap.set s.wharf.replays link (n + 1) } }) ∧
      (n = 15 → ∃ t, exec (.linkFlitError link (.flit false)) s = .next t ∧ t.wharf.linksDown.contains link = true ∧
        (link < 4 → t.wharf.lost = s.wharf.lost + s.wharf.unacked.countP fun p => route s p.1 == some link) ∧
        (4 ≤ link → ∀ c ∈ linkCores link, present t c = false)))) ∧
  (∀ (s : State) (port : Nat), port < 4 → s.wharf.linksDown.contains port = true →
    (∀ p ∈ (loseOnDown s).wharf.unacked, p ∈ s.wharf.unacked ∧ route s p.1 ≠ some port) ∧
    (∀ p ∈ s.wharf.unacked, route s p.1 = some port → ∃ n ∈ (loseOnDown s).notices, n.tag = p.2.tag)) ∧
  (∀ (s : State) (d : Fin 4) (l link : Nat),
    (exec (.linkFlitError link (.corrected d)) s = .next (s.setDie d.val { s.die d.val with corrected := satInc (s.die d.val).corrected })) ∧
    ∃ t, exec (.linkFlitError link (.poisoned l)) s = .next t ∧ l ∈ t.poison ∧ MemoryKeeps s t)

/-- A DMA write reaches main memory under the requester's key, or a Basin; a read there changes nothing but the home-side cache; a transfer to a port's
window ends there; any other address is an unsupported request that the fault queue records (log entry 17), but for an MSI, which becomes pending in
the IMSIC file that it addresses (log entry 25). A source that is enabled makes its identity pending in the file of its entry, and an INTx line
drives its source of the APLIC (log entries 10, 17; 13 R234; 19 R308-R310). -/
def Claims.OutsideWrites : Prop :=
  (∀ (s : State) (rid : Half) (pa : BitVec 56) (wr : Bool) (bs : List Byte),
    let a := pa.toNat
    let i : Instr := .dmaAccess rid pa wr bs
    (bs = [] → exec i s = .next s) ∧
    (bs ≠ [] → wr = false → dmaReaches a bs.length = true →
      exec i s = .next (homeLines s (keyGen s (dmaKey s rid)) a bs.length) ∧ MemoryKeeps s (homeLines s (keyGen s (dmaKey s rid)) a bs.length)) ∧
    (bs ≠ [] → wr = true → isMain a = true → isMain (a + bs.length - 1) = true →
      let g := keyGen s (dmaKey s rid)
      let held : Prop := ∃ l x, SMap.find s.helmCache l = some x ∧ a / 64 ≤ l ∧ l ≤ (a + bs.length - 1) / 64
      ∃ t, exec i s = .next t ∧
        (s.helmCache.Pairwise (fun p q => p.1 < q.1) → ∀ l, a / 64 ≤ l → l ≤ (a + bs.length - 1) / 64 → SMap.find t.helmCache l = none) ∧
        (Inv s → physRead t g a bs.length = bs) ∧ (¬ held → t.mem = (physWrite s g a bs).mem)) ∧
    (bs ≠ [] → wr = true → isBasin a = true → isBasin (a + bs.length - 1) = true →
      ∃ t, exec i s = .next t ∧ (Inv s → ∀ j, j < bs.length → Memory.get t.mem (a + j) = bs.getD j 0)) ∧
    (bs ≠ [] → dmaReaches a bs.length = false → ¬ (isImsic a = true ∧ wr = true ∧ bs.length = 4) →
      isPeer a = true → isPeer (a + bs.length - 1) = true → exec i s = .next s) ∧
    (bs ≠ [] → dmaReaches a bs.length = false → ¬ (isImsic a = true ∧ wr = true ∧ bs.length = 4) →
      ¬ (isPeer a = true ∧ isPeer (a + bs.length - 1) = true) →
      exec i s = .next { s with wharf := { s.wharf with iommuFaults := s.wharf.iommuFaults ++ [(rid, pa)] } }) ∧
    (wr = true → bs.length = 4 → isImsic a = true → a % 4096 = 0 → 1 ≤ bytesNat bs → bytesNat bs ≤ 255 →
      let h := (a - 0x7C100000000) / 0x10000
      let page := a % 0x10000 / 4096
      ∃ t, exec i s = .next t ∧ (page = 0 → BitVec.ofNat 8 (bytesNat bs) ∈ (t.getHart h).msiM) ∧
        (page = 1 → BitVec.ofNat 8 (bytesNat bs) ∈ (t.getHart h).msiS))) ∧
  (∀ (s : State) (p : Fin 2),
    let e := SMap.getD s.wharf.sources (67 + p.val) 0
    let id := (fld e 0 8 : Byte)
    (bit e 31 = false ∨ id = 0 → exec (.pciePortEvent (.event p)) s = .next s) ∧
    (bit e 31 = true → id ≠ 0 → ∃ t, exec (.pciePortEvent (.event p)) s = .next t ∧
      if bit e 21 then id ∈ (t.getHart (fld e 16 5 : BitVec 5).toNat).msiS else id ∈ (t.getHart (fld e 16 5 : BitVec 5).toNat).msiM)) ∧
  (∀ (s : State) (p : Fin 2) (line : Fin 4) (on : Bool),
    let i := (Config.intxSource p.val line.val).val + 1
    let m : BitVec 3 := fld (SMap.getD s.wharf.aplicConfig i 0) 0 3
    let target := SMap.getD s.wharf.aplicTarget i 0
    let id := (fld target 0 11 : BitVec 11).toNat
    let sends : Prop := s.wharf.aplicOn = true ∧ i ∈ s.wharf.aplicEnabled
    (m.toNat < 4 → exec (.pciePortEvent (.intx p line on)) s = .next s) ∧
    ((on = true ∧ (m = 4 ∨ m = 6)) ∨ (on = false ∧ (m = 5 ∨ m = 7)) → ∃ t, exec (.pciePortEvent (.intx p line on)) s = .next t ∧
      (¬ sends → i ∈ t.wharf.aplicPending) ∧
      (sends → 1 ≤ id → id ≤ 255 → i ∉ t.wharf.aplicPending ∧ BitVec.ofNat 8 id ∈ (t.getHart (fld target 18 5 : BitVec 5).toNat).msiM)) ∧
    ((on = false ∧ m = 6) ∨ (on = true ∧ m = 7) →
      ∃ t, exec (.pciePortEvent (.intx p line on)) s = .next t ∧ i ∉ t.wharf.aplicPending ∧ MemoryKeeps s t))

/-- Routing, links, DMA and interrupt sources: the claims above. -/
def Obligations.RoutesLinksAndOutside : Prop := Claims.RoutesAndLinks ∧ Claims.OutsideWrites

/-- A management command of a hart in machine or supervisor mode whose operands are allowed acts and finishes with result 0 and event bit 0: a core gets
its fence, a buffer its report; a key index gets a key of its own and its binding, an erased one loses valid, the governor its limits, each in three
steps: sequence word odd, the fields, sequence word even. Another gets result 2 or 3, and one that comes while the previous one is in progress gets 4,
with no effect. A restart that finds no block half written changes only event bit 1; one that finds the governor block half written finishes it (21
R325-R328, R331, R334; mailbox readings: log entry 42). -/
def Claims.LockhouseCommands : Prop :=
  ∀ (s : State) (h : Fin 32) (a b c : Word), s.lock.ready = true →
    let bind := bindingAt s a.toNat
    let key : Prop := 1 ≤ a.toNat ∧ a.toNat ≤ 4095
    let limits (p q : Word) : Prop := 600 ≤ p.toNat ∧ p.toNat ≤ 2400 ∧ 1200 ≤ q.toNat ∧ q.toNat ≤ 5000
    let done (i : Instr) (p : State → Prop) : Prop := ∃ t, exec i s = .next t ∧ t.lock.busy = false ∧ t.lock.result = 0 ∧
      bit t.lock.events 0 = true ∧ p t
    let begun (i : Instr) (p : State → Prop) : Prop := ∃ t, exec i s = .next t ∧ t.lock.busy = true ∧ t.lock.jobStage = 1 ∧ t.lock.owner = h ∧
      t.wharf.jHead = s.wharf.jHead + 1 ∧ t.lock.gens = s.lock.gens ∧ t.lock.power = s.lock.power ∧ t.lock.current = s.lock.current ∧ (Inv s → p t)
    let goes (i : Instr) (n : Word) (args : List Word) (p q : State → Prop) : Prop :=
      s.lock.busy = true → s.lock.owner = h → s.lock.command = n → s.lock.jobArgs.take args.length = args →
        (s.lock.jobStage = 1 → ∃ t, exec i s = .next t ∧ t.lock.busy = true ∧ t.lock.jobStage = 2 ∧ (Inv s → p t)) ∧
        (s.lock.jobStage = 2 → done i fun t => t.lock.gens = s.lock.gens ∧ t.lock.power = s.lock.power ∧ t.lock.current = s.lock.current ∧
          (Inv s → 65536 ≤ s.wharf.jBase.toNat → q t))
    let fresh (t : State) : Prop := SMap.find t.lock.gens a.toNat = some s.lock.nextGen ∧ t.lock.nextGen = s.lock.nextGen + 1
    let refused (i : Instr) (code : Word) : Prop := ∃ t, exec i s = .next t ∧ t.lock.busy = false ∧ t.lock.result = code ∧
      t.wharf.jHead = s.wharf.jHead + 1 ∧ t.lock.gens = s.lock.gens ∧ t.lock.fenced = s.lock.fenced ∧ t.lock.power = s.lock.power ∧
      t.lock.current = s.lock.current
    let any (i : Instr) : Prop := i = .generateKey h a b ∨ i = .eraseKey h a ∨ i = .attest h a b c ∨ i = .setGovernor h a b ∨ i = .fenceCore h a
    let even : Prop := ∀ j, j < 4096 → bit (physWord s (bindingAt s j)) 0 = false
    (s.lock.busy = false → (s.getHart h.val).mode ≠ .u →
      (key → begun (.generateKey h a b) (fun t => bit (physWord t bind) 0 = true) ∧ begun (.eraseKey h a) (fun t => bit (physWord t bind) 0 = true)) ∧
      (limits a b → begun (.setGovernor h a b) fun t => bit t.lock.sequence 0 = true) ∧
      (¬ key → refused (.generateKey h a b) 2 ∧ refused (.eraseKey h a) 2) ∧
      (¬ limits a b → refused (.setGovernor h a b) 3) ∧
      (bufferOk s a = true → done (.attest h a b c) fun t => t.lock.gens = s.lock.gens ∧ t.lock.fenced = s.lock.fenced ∧
        t.wharf.jHead = s.wharf.jHead + 1) ∧
      (bufferOk s a = false → refused (.attest h a b c) 2) ∧
      ((fld a 12 4 : BitVec 4) = s.wharf.device → present s (fld a 0 12 : BitVec 12).toNat = true →
        done (.fenceCore h a) fun t => present t (fld a 0 12 : BitVec 12).toNat = false) ∧
      ((fld a 12 4 : BitVec 4) ≠ s.wharf.device ∨ present s (fld a 0 12 : BitVec 12).toNat = false → refused (.fenceCore h a) 2)) ∧
    (key → goes (.generateKey h a b) 1 [a, b]
      (fun t => fresh t ∧ physWord t (bind + 8) = (0x10000 : Word) + (fld b 0 16 : Half).setWidth 64) fun t => bit (physWord t bind) 0 = false) ∧
    (key → goes (.eraseKey h a) 2 [a] (fun t => fresh t ∧ bit (physWord t (bind + 8)) 16 = false) fun t => bit (physWord t bind) 0 = false) ∧
    (limits a b → goes (.setGovernor h a b) 4 [a, b] (fun t => t.lock.power = a ∧ t.lock.current = b) fun t => bit t.lock.sequence 0 = false) ∧
    (s.lock.busy = true → s.lock.owner ≠ h → (s.getHart h.val).mode ≠ .u → ∀ i : Instr, any i → ∃ t, exec i s = .next t ∧ t.lock.result = 4 ∧
      t.lock.busy = true ∧ t.lock.jobStage = s.lock.jobStage ∧ t.lock.gens = s.lock.gens ∧ t.lock.fenced = s.lock.fenced ∧ t.lock.power = s.lock.power) ∧
    (s.lock.busy = false → (s.getHart h.val).mode = .u → ∀ i : Instr, any i → exec i s = .next s) ∧
    ((report s b c).length = 2048 ∧ (report s b c).take 24 = wordsBytes [1, b, c] ∧
      (s.helmCache = [] → Inv s → bufferOk s a = true → physRead (s.attestTo a b c) (keyGen s 0) a.toNat 2048 = report s b c)) ∧
    (bit s.lock.sequence 0 = false → even →
      ∃ t, exec .lockhouseRestart s = .next t ∧ t.mem = s.mem ∧ t.lock = { s.lock with events := s.lock.events ||| 2 }) ∧
    (Inv s → 65536 ≤ s.wharf.jBase.toNat → bit s.lock.sequence 0 = true → even →
      ∀ n, newestOpen s (fun c _ => c == 4) (2 ^ 20) s.wharf.jHead.toNat = some n → limits (entryWord s n 5) (entryWord s n 6) →
        ∃ t, exec .lockhouseRestart s = .next t ∧ bit t.lock.sequence 0 = false ∧ t.lock.power = entryWord s n 5 ∧
          t.lock.current = entryWord s n 6 ∧ bit t.lock.events 1 = true)

/-- The governor goes up one level, at most to 7, when a measurement exceeds its limit, and down one after 1 ms without excess; a die at 105 °C or above
throttles to level 7 with event bit 4, and at 115 °C power is removed, whichever event reports its temperature (21 R335; 1 ms as 100,000 mtime ticks
is the model's: log entry 5). -/
def Claims.Governor : Prop :=
  let hot (l : List Byte) : Nat := (l.map BitVec.toNat).foldr max 0
  let heats (s t : State) (l : List Byte) : Prop := t.lock.temps = l ∧ (hot l < 115 → t.power = s.power) ∧ (115 ≤ hot l → t.power = false) ∧
    (105 ≤ hot l → t.lock.level = 7 ∧ bit t.lock.events 4 = true) ∧ (t.lock.level ≠ s.lock.level → bit t.lock.events 3 = true)
  (∀ (s : State) (current power : Half) (t0 t1 t2 t3 t4 : Byte),
    let i : Instr := .governorSample current power t0 t1 t2 t3 t4
    let cool : Prop := hot [t0, t1, t2, t3, t4] < 105
    let excess : Prop := s.lock.current.toNat < current.toNat ∨ s.lock.power.toNat < power.toNat
    ∃ t, exec i s = .next t ∧ t.lock.nowCurrent = current ∧ t.lock.nowPower = power ∧ heats s t [t0, t1, t2, t3, t4] ∧
      (excess → t.lock.calmSince = s.mtime) ∧
      (cool → excess → t.lock.level = min 7 (s.lock.level + 1)) ∧
      (cool → ¬ excess → s.mtime < s.lock.calmSince + 100000 → t.lock.level = s.lock.level ∧ t.lock.events = s.lock.events) ∧
      (cool → ¬ excess → s.lock.calmSince + 100000 ≤ s.mtime → t.lock.level = s.lock.level - 1)) ∧
  (∀ (s : State) (die : Fin 5) (temp : Byte),
    let l := setAt s.lock.temps die.val temp
    (∃ t, exec (.thermalThrottle die temp) s = .next t ∧ heats s t l ∧
      (hot l < 105 → t.lock.level = s.lock.level ∧ t.lock.events = s.lock.events)) ∧
    (∃ t, exec (.thermalShutdown die temp) s = .next t ∧ heats s t l ∧
      (hot l < 105 → t.lock.level = s.lock.level ∧ t.lock.events = s.lock.events)))

/-- Management commands and the governor: the claims above. -/
def Obligations.LockhouseAndGovernor : Prop := Claims.LockhouseCommands ∧ Claims.Governor

/-- Power starts bring-up. It stops with the code of what fails, or ends ready at stage 6 with a keeper Runnable in slot 0 of every core that did not
fail, at the image's entry, on its local store; the boot region maps asid 1, and hart 0 runs; afterwards power does nothing. Right after reset no
memory is written, nothing is ready and power is what comes next (21 R332, R333; 00; how reset comes to power: log entry 2; the limits 2,400 and 5,000 at
reset: log entry 3; a full part as the bring-up of reset: log entry 18; the digests as SHA-512: log entry 16). -/
def Obligations.PowerUp : Prop :=
  (∀ (s : State) (f : BringUp),
    (s.lock.ready = true ∨ s.lock.error ≠ 0 → exec (.powerOn f) s = .next s) ∧
    (s.lock.ready = false → s.lock.error = 0 →
      let stops (stage code : Nat) : Prop :=
        exec (.powerOn f) s = .next { s with lock := { s.lock with stage := stage, error := code } }
      (f.imagesOk = false → stops 0 1) ∧
      (f.imagesOk = true → f.calibrationOk = false → stops 0 2) ∧
      (f.imagesOk = true → f.calibrationOk = true → f.linksOk = false → stops 1 3) ∧
      (f.imagesOk = true → f.calibrationOk = true → f.linksOk = true → f.hbm = 0 → stops 2 4) ∧
      (f.imagesOk = true → f.calibrationOk = true → f.linksOk = true → f.hbm ≠ 0 → ∃ t, exec (.powerOn f) s = .next t ∧
        t.lock.ready = true ∧ t.lock.error = 0 ∧ t.lock.stage = 6 ∧ t.wharf.device = f.device ∧ t.wharf.jHead = 1 ∧
        (t.getHart 0).running = true ∧ (t.getHart 0).pc = f.bootPc ∧ (∀ k, 0 < k → k < 32 → (t.getHart k).running = false) ∧
        (∀ d, d < 4 → (t.die d).asBase = 0x1000000) ∧ t.lock.digests = [f.firmware, f.keeperImage, f.bootImage, f.calibration].map sha512 ∧
        (∀ c, present t c = true → c ∉ f.failed) ∧
        (∀ c, present t c = true →
          (t.thread c 0).st = .runnable ∧ (t.thread c 0).pc = BitVec.ofNat 64 (bytesNat (takePad 0 8 f.keeperImage)) ∧
          (t.thread c 0).g = Vector.replicate 8 0 ∧
          (t.thread c 0).sg.get 0 = { w0 := 0, w1 := 0x0060000000040000 } ∧
          (t.thread c 0).sg.get 1 = { w0 := 0x3F800, w1 := 0x0060000000000800 } ∧
          ∀ k : Fin 16, k ≠ 0 → (t.thread c k).st = .empty)))) ∧
  (State.reset.mem = [] ∧ State.reset.lock.ready = false ∧ State.reset.lock.error = 0 ∧ State.reset.lock.stage = 0 ∧ State.reset.clk = 0 ∧
    State.reset.mtime = 0 ∧ State.reset.power = true ∧ State.reset.wharf.routing = 0 ∧ State.reset.wharf.jHead = 0 ∧
    State.reset.lock.power = 2400 ∧ State.reset.lock.current = 5000 ∧ (∀ h, (State.reset.getHart h).running = false) ∧
    (∀ c k, (State.reset.thread c k).st = .empty) ∧ ∃ t, exec (.powerOn fullPart) { State.reset with agenda := [] } = .next t ∧ step State.reset = .next (settleTows t))

/-- Memory is in its canonical form right after reset (00; the form is the model's). -/
def Obligations.ResetInvariant : Prop := Inv State.reset

/-- Every step keeps memory in its canonical form: ascending addresses, no listed byte that equals what an unlisted one reads as; so equal memories are
equal data, whatever instruction, event or Sweiq bytecode the step runs. -/
def Obligations.StepInvariant : Prop := ∀ s t : State, Inv s → step s = .next t → Inv t
end

