-- ==== Sys2Proof/Laws/Memory.lean ====
section
/-! SUPPORT. Memory: every operation keeps the canonical form; a read finds what was written last, and every other byte as it was. -/

namespace Sys2Proof.Machine

open Sys2Proof

theorem Memory.above_mono {lo hi : Nat} {m : List Host.Cell} (h : Memory.above hi m = true) (e : lo ≤ hi) : Memory.above lo m = true := by
  cases m with
  | nil => rfl
  | cons p l =>
    obtain ⟨k, v⟩ := p
    simp only [Memory.above, Bool.and_eq_true, decide_eq_true_eq] at h ⊢
    exact ⟨⟨by omega, h.1.2⟩, h.2⟩

theorem Memory.get_below {lo a : Nat} {m : List Host.Cell} (h : Memory.above lo m = true) (e : a < lo) : Memory.get m a = Memory.unlisted := by
  cases m with
  | nil => rfl
  | cons p l =>
    obtain ⟨k, v⟩ := p
    simp only [Memory.above, Bool.and_eq_true, decide_eq_true_eq] at h
    simp only [Memory.get]
    rw [if_pos (by omega)]

theorem Memory.above_cons {lo a : Nat} {x : Byte} {l : List Host.Cell} (e : lo ≤ a) (h : Memory.above (a + 1) l = true) :
    Memory.above lo (Memory.cons a x l) = true := by
  unfold Memory.cons
  split
  · exact Memory.above_mono h (by omega)
  · rename_i hx
    simp only [Memory.above, Bool.and_eq_true, decide_eq_true_eq]
    exact ⟨⟨e, by simpa using hx⟩, h⟩

theorem Memory.above_set {lo a : Nat} {x : Byte} {m : List Host.Cell} (h : Memory.above lo m = true) (e : lo ≤ a) :
    Memory.above lo (Memory.set m a x) = true := by
  induction m generalizing lo with
  | nil => exact Memory.above_cons e rfl
  | cons p l ih =>
    obtain ⟨k, v⟩ := p
    simp only [Memory.above, Bool.and_eq_true, decide_eq_true_eq] at h
    simp only [Memory.set]
    split
    · refine Memory.above_cons e ?_
      simp only [Memory.above, Bool.and_eq_true, decide_eq_true_eq]
      exact ⟨⟨by omega, h.1.2⟩, h.2⟩
    · split
      · exact Memory.above_cons e (Memory.above_mono h.2 (by omega))
      · simp only [Memory.above, Bool.and_eq_true, decide_eq_true_eq]
        exact ⟨⟨h.1.1, h.1.2⟩, ih h.2 (by omega)⟩

/-- A write of one byte keeps the canonical form. -/
theorem Memory.wf_set {m : List Host.Cell} (h : Memory.wf m = true) (a : Nat) (x : Byte) : Memory.wf (Memory.set m a x) = true :=
  Memory.above_set h (Nat.zero_le a)

/-- A write of bytes keeps the canonical form. -/
theorem Memory.wf_write {m : List Host.Cell} (h : Memory.wf m = true) (a : Nat) (bs : List Byte) :
    Memory.wf (Memory.write m a bs) = true := by
  induction bs generalizing m a with
  | nil => exact h
  | cons b l ih => exact ih (Memory.wf_set h a b) (a + 1)

theorem Memory.above_clear {lo a b : Nat} {m : List Host.Cell} (h : Memory.above lo m = true) : Memory.above lo (Memory.clear a b m) = true := by
  induction m generalizing lo with
  | nil => rfl
  | cons p l ih =>
    obtain ⟨k, v⟩ := p
    simp only [Memory.above, Bool.and_eq_true, decide_eq_true_eq] at h
    simp only [Memory.clear]
    split
    · exact Memory.above_mono (ih h.2) (by omega)
    · simp only [Memory.above, Bool.and_eq_true, decide_eq_true_eq]
      exact ⟨h.1, ih h.2⟩

/-- Clearing a range of keys keeps the canonical form. -/
theorem Memory.wf_clear {m : List Host.Cell} (h : Memory.wf m = true) (a b : Nat) : Memory.wf (Memory.clear a b m) = true :=
  Memory.above_clear h

/-- A read after clearing a range: nothing in it, every other byte as it was. -/
theorem Memory.get_clear {lo a b k : Nat} {m : List Host.Cell} (h : Memory.above lo m = true) :
    Memory.get (Memory.clear a b m) k = if a ≤ k ∧ k < b then Memory.unlisted else Memory.get m k := by
  induction m generalizing lo with
  | nil => simp [Memory.clear, Memory.get]
  | cons p l ih =>
    obtain ⟨j, v⟩ := p
    simp only [Memory.above, Bool.and_eq_true, decide_eq_true_eq] at h
    simp only [Memory.clear]
    have below : ∀ i, i < j → Memory.get l i = Memory.unlisted := fun i e => Memory.get_below h.2 (by omega)
    by_cases hc : a ≤ j ∧ j < b
    · rw [if_pos hc, ih h.2]
      by_cases hk : a ≤ k ∧ k < b
      · rw [if_pos hk, if_pos hk]
      · rw [if_neg hk, if_neg hk]
        simp only [Memory.get]
        by_cases e : k < j
        · rw [if_pos e]; exact below k e
        · rw [if_neg e, if_neg (by omega)]
    · rw [if_neg hc]
      simp only [Memory.get]
      by_cases e : k < j
      · rw [if_pos e, if_pos e]; split <;> rfl
      · rw [if_neg e, if_neg e]
        by_cases q : k = j
        · rw [if_pos q, if_pos q, if_neg (by omega)]
        · rw [if_neg q, if_neg q, ih h.2]

theorem Memory.get_cons {a b : Nat} {x : Byte} {l : List Host.Cell} (h : Memory.above (a + 1) l = true) :
    Memory.get (Memory.cons a x l) b = if b = a then x else Memory.get l b := by
  unfold Memory.cons
  split
  · rename_i hx
    split
    · rename_i e
      rw [e, hx]
      exact Memory.get_below h (by omega)
    · rfl
  · simp only [Memory.get]
    split
    · rename_i e
      rw [if_neg (by omega)]
      exact (Memory.get_below h (by omega)).symm
    · rfl

theorem Memory.get_set_above {lo a b : Nat} {x : Byte} {m : List Host.Cell} (h : Memory.above lo m = true) :
    Memory.get (Memory.set m a x) b = if b = a then x else Memory.get m b := by
  induction m generalizing lo with
  | nil => exact Memory.get_cons rfl
  | cons p l ih =>
    obtain ⟨k, v⟩ := p
    simp only [Memory.above, Bool.and_eq_true, decide_eq_true_eq] at h
    simp only [Memory.set]
    split
    · rename_i e
      refine Memory.get_cons ?_
      simp only [Memory.above, Bool.and_eq_true, decide_eq_true_eq]
      exact ⟨⟨by omega, h.1.2⟩, h.2⟩
    · split
      · rename_i _ e
        rw [Memory.get_cons (Memory.above_mono h.2 (by omega))]
        simp only [Memory.get]
        split
        · rfl
        · rename_i n
          split
          · rename_i q
            exact Memory.get_below h.2 (by omega)
          · rw [if_neg (by omega)]
      · rename_i n q
        simp only [Memory.get]
        split
        · rw [if_neg (by omega)]
        · split
          · rw [if_neg (by omega)]
          · exact ih h.2

/-- A read after a write of one byte. -/
theorem Memory.get_set {m : List Host.Cell} (h : Memory.wf m = true) (a b : Nat) (x : Byte) :
    Memory.get (Memory.set m a x) b = if b = a then x else Memory.get m b := Memory.get_set_above h

/-- A read outside the bytes that were written. -/
theorem Memory.get_write_outside {m : List Host.Cell} (h : Memory.wf m = true) {a b : Nat} {bs : List Byte}
    (e : b < a ∨ a + bs.length ≤ b) : Memory.get (Memory.write m a bs) b = Memory.get m b := by
  induction bs generalizing m a with
  | nil => rfl
  | cons x l ih =>
    simp only [List.length_cons] at e
    simp only [Memory.write]
    rw [ih (Memory.wf_set h a x) (by omega), Memory.get_set h, if_neg (by omega)]

/-- A read inside the bytes that were written. -/
theorem Memory.get_write_inside {m : List Host.Cell} (h : Memory.wf m = true) {a i : Nat} {bs : List Byte} (e : i < bs.length) :
    Memory.get (Memory.write m a bs) (a + i) = bs[i] := by
  induction bs generalizing m a i with
  | nil => simp at e
  | cons x l ih =>
    simp only [Memory.write]
    cases i with
    | zero => rw [Memory.get_write_outside (Memory.wf_set h a x) (by omega), Memory.get_set h, if_pos (by omega)]; rfl
    | succ i =>
      have e' : i < l.length := by simpa using e
      have := ih (Memory.wf_set h a x) (a := a + 1) e'
      rw [show a + (i + 1) = a + 1 + i by omega, this]
      rfl

/-- The bytes just written are read back. -/
theorem Memory.read_write {m : List Host.Cell} (h : Memory.wf m = true) (a : Nat) (bs : List Byte) :
    Memory.read (Memory.write m a bs) a bs.length = bs := by
  induction bs generalizing m a with
  | nil => rfl
  | cons x l ih =>
    show Memory.get (Memory.write (Memory.set m a x) (a + 1) l) a :: Memory.read (Memory.write (Memory.set m a x) (a + 1) l) (a + 1) l.length = x :: l
    rw [ih (Memory.wf_set h a x), Memory.get_write_outside (Memory.wf_set h a x) (by omega), Memory.get_set h, if_pos rfl]

-- The homes of bytes ------------------------------------------------------------------------------------------------------

theorem rawWrite_mem (s : State) (a : Nat) (bs : List Byte) : (rawWrite s a bs).mem = Memory.write s.mem a bs := rfl

theorem rawWrite_wf {s : State} (h : Memory.wf s.mem = true) (a : Nat) (bs : List Byte) : Memory.wf (rawWrite s a bs).mem = true :=
  Memory.wf_write h a bs

theorem rekey_wf {s : State} (h : Memory.wf s.mem = true) (g l : Nat) : Memory.wf (rekey s g l).mem = true := by
  unfold rekey
  split
  · exact h
  · exact Memory.wf_write h _ _

theorem iter_wf {f : Nat → State → State} (hf : ∀ n s, Memory.wf s.mem = true → Memory.wf (f n s).mem = true) (n : Nat) {s : State}
    (h : Memory.wf s.mem = true) : Memory.wf (iter f n s).mem = true := by
  induction n with
  | zero => exact h
  | succ n ih => exact hf _ _ ih

end Sys2Proof.Machine
end

