-- ==== Sys2Proof/Laws/State.lean ====
section
/-! SUPPORT. One lemma a field for each update of the state, and what is read back after an update. -/

namespace Sys2Proof.Machine

open Sys2Proof

-- Maps: what is read back (no order of the keys is needed) ---------------------------------------------------------------

theorem SMap.find_set_self {α : Type} (m : SMap α) (a : Nat) (x : α) : SMap.find (SMap.set m a x) a = some x := by
  induction m with
  | nil => simp [SMap.set, SMap.find]
  | cons p l ih =>
    obtain ⟨k, v⟩ := p
    simp only [SMap.set]
    split
    · simp [SMap.find]
    · split
      · simp [SMap.find, *]
      · simp [SMap.find, *]

theorem SMap.find_set_ne {α : Type} (m : SMap α) {a b : Nat} (x : α) (h : b ≠ a) : SMap.find (SMap.set m a x) b = SMap.find m b := by
  induction m with
  | nil =>
    simp only [SMap.set, SMap.find]
    split <;> simp
  | cons p l ih =>
    obtain ⟨k, v⟩ := p
    simp only [SMap.set]
    split
    · rename_i hk
      simp only [SMap.find, h, if_false]
      split
      · rw [if_pos (by omega)]
      · rfl
    · split
      · rename_i _ hk
        subst hk
        simp [SMap.find, h]
      · simp [SMap.find, ih]

@[simp] theorem SMap.getD_set_self {α : Type} (m : SMap α) (a : Nat) (x d : α) : SMap.getD (SMap.set m a x) a d = x := by
  simp [SMap.getD, SMap.find_set_self]

theorem SMap.getD_set_ne {α : Type} (m : SMap α) {a b : Nat} (x d : α) (h : b ≠ a) : SMap.getD (SMap.set m a x) b d = SMap.getD m b d := by
  simp [SMap.getD, SMap.find_set_ne m x h]

-- Updates -----------------------------------------------------------------------------------------------------------------

@[simp] theorem State.setCore_coreInit (s : State) (c : Nat) (x : Core) : (s.setCore c x).coreInit = s.coreInit := rfl
@[simp] theorem State.setCore_clusters (s : State) (c : Nat) (x : Core) : (s.setCore c x).clusters = s.clusters := rfl
@[simp] theorem State.setCore_dies (s : State) (c : Nat) (x : Core) : (s.setCore c x).dies = s.dies := rfl
@[simp] theorem State.setCore_harts (s : State) (c : Nat) (x : Core) : (s.setCore c x).harts = s.harts := rfl
@[simp] theorem State.setCore_wharf (s : State) (c : Nat) (x : Core) : (s.setCore c x).wharf = s.wharf := rfl
@[simp] theorem State.setCore_lock (s : State) (c : Nat) (x : Core) : (s.setCore c x).lock = s.lock := rfl
@[simp] theorem State.setCore_mem (s : State) (c : Nat) (x : Core) : (s.setCore c x).mem = s.mem := rfl
@[simp] theorem State.setCore_poison (s : State) (c : Nat) (x : Core) : (s.setCore c x).poison = s.poison := rfl
@[simp] theorem State.setCore_lineGen (s : State) (c : Nat) (x : Core) : (s.setCore c x).lineGen = s.lineGen := rfl
@[simp] theorem State.setCore_written (s : State) (c : Nat) (x : Core) : (s.setCore c x).written = s.written := rfl
@[simp] theorem State.setCore_viaPound (s : State) (c : Nat) (x : Core) : (s.setCore c x).viaPound = s.viaPound := rfl
@[simp] theorem State.setCore_helmCache (s : State) (c : Nat) (x : Core) : (s.setCore c x).helmCache = s.helmCache := rfl
@[simp] theorem State.setCore_net (s : State) (c : Nat) (x : Core) : (s.setCore c x).net = s.net := rfl
@[simp] theorem State.setCore_ring (s : State) (c : Nat) (x : Core) : (s.setCore c x).ring = s.ring := rfl
@[simp] theorem State.setCore_notices (s : State) (c : Nat) (x : Core) : (s.setCore c x).notices = s.notices := rfl
@[simp] theorem State.setCore_steals (s : State) (c : Nat) (x : Core) : (s.setCore c x).steals = s.steals := rfl
@[simp] theorem State.setCore_clk (s : State) (c : Nat) (x : Core) : (s.setCore c x).clk = s.clk := rfl
@[simp] theorem State.setCore_mtime (s : State) (c : Nat) (x : Core) : (s.setCore c x).mtime = s.mtime := rfl
@[simp] theorem State.setCore_power (s : State) (c : Nat) (x : Core) : (s.setCore c x).power = s.power := rfl
@[simp] theorem State.setCore_core (s : State) (c : Nat) (x : Core) : (s.setCore c x).core = s.core := rfl
@[simp] theorem State.setCore_slot (s : State) (c : Nat) (x : Core) : (s.setCore c x).slot = s.slot := rfl
@[simp] theorem State.setCore_hart (s : State) (c : Nat) (x : Core) : (s.setCore c x).hart = s.hart := rfl
@[simp] theorem State.setCore_iword (s : State) (c : Nat) (x : Core) : (s.setCore c x).iword = s.iword := rfl
@[simp] theorem State.setCore_agenda (s : State) (c : Nat) (x : Core) : (s.setCore c x).agenda = s.agenda := rfl
@[simp] theorem State.setCore_picks (s : State) (c : Nat) (x : Core) : (s.setCore c x).picks = s.picks := rfl
@[simp] theorem State.setCore_fresh (s : State) (c : Nat) (x : Core) : (s.setCore c x).fresh = s.fresh := rfl

@[simp] theorem State.setThread_coreInit (s : State) (c : Nat) (k : Fin 16) (t : Thread) : (s.setThread c k t).coreInit = s.coreInit := rfl
@[simp] theorem State.setThread_clusters (s : State) (c : Nat) (k : Fin 16) (t : Thread) : (s.setThread c k t).clusters = s.clusters := rfl
@[simp] theorem State.setThread_dies (s : State) (c : Nat) (k : Fin 16) (t : Thread) : (s.setThread c k t).dies = s.dies := rfl
@[simp] theorem State.setThread_harts (s : State) (c : Nat) (k : Fin 16) (t : Thread) : (s.setThread c k t).harts = s.harts := rfl
@[simp] theorem State.setThread_wharf (s : State) (c : Nat) (k : Fin 16) (t : Thread) : (s.setThread c k t).wharf = s.wharf := rfl
@[simp] theorem State.setThread_lock (s : State) (c : Nat) (k : Fin 16) (t : Thread) : (s.setThread c k t).lock = s.lock := rfl
@[simp] theorem State.setThread_mem (s : State) (c : Nat) (k : Fin 16) (t : Thread) : (s.setThread c k t).mem = s.mem := rfl
@[simp] theorem State.setThread_poison (s : State) (c : Nat) (k : Fin 16) (t : Thread) : (s.setThread c k t).poison = s.poison := rfl
@[simp] theorem State.setThread_lineGen (s : State) (c : Nat) (k : Fin 16) (t : Thread) : (s.setThread c k t).lineGen = s.lineGen := rfl
@[simp] theorem State.setThread_written (s : State) (c : Nat) (k : Fin 16) (t : Thread) : (s.setThread c k t).written = s.written := rfl
@[simp] theorem State.setThread_viaPound (s : State) (c : Nat) (k : Fin 16) (t : Thread) : (s.setThread c k t).viaPound = s.viaPound := rfl
@[simp] theorem State.setThread_helmCache (s : State) (c : Nat) (k : Fin 16) (t : Thread) : (s.setThread c k t).helmCache = s.helmCache := rfl
@[simp] theorem State.setThread_net (s : State) (c : Nat) (k : Fin 16) (t : Thread) : (s.setThread c k t).net = s.net := rfl
@[simp] theorem State.setThread_ring (s : State) (c : Nat) (k : Fin 16) (t : Thread) : (s.setThread c k t).ring = s.ring := rfl
@[simp] theorem State.setThread_notices (s : State) (c : Nat) (k : Fin 16) (t : Thread) : (s.setThread c k t).notices = s.notices := rfl
@[simp] theorem State.setThread_steals (s : State) (c : Nat) (k : Fin 16) (t : Thread) : (s.setThread c k t).steals = s.steals := rfl
@[simp] theorem State.setThread_clk (s : State) (c : Nat) (k : Fin 16) (t : Thread) : (s.setThread c k t).clk = s.clk := rfl
@[simp] theorem State.setThread_mtime (s : State) (c : Nat) (k : Fin 16) (t : Thread) : (s.setThread c k t).mtime = s.mtime := rfl
@[simp] theorem State.setThread_power (s : State) (c : Nat) (k : Fin 16) (t : Thread) : (s.setThread c k t).power = s.power := rfl
@[simp] theorem State.setThread_core (s : State) (c : Nat) (k : Fin 16) (t : Thread) : (s.setThread c k t).core = s.core := rfl
@[simp] theorem State.setThread_slot (s : State) (c : Nat) (k : Fin 16) (t : Thread) : (s.setThread c k t).slot = s.slot := rfl
@[simp] theorem State.setThread_hart (s : State) (c : Nat) (k : Fin 16) (t : Thread) : (s.setThread c k t).hart = s.hart := rfl
@[simp] theorem State.setThread_iword (s : State) (c : Nat) (k : Fin 16) (t : Thread) : (s.setThread c k t).iword = s.iword := rfl
@[simp] theorem State.setThread_agenda (s : State) (c : Nat) (k : Fin 16) (t : Thread) : (s.setThread c k t).agenda = s.agenda := rfl
@[simp] theorem State.setThread_picks (s : State) (c : Nat) (k : Fin 16) (t : Thread) : (s.setThread c k t).picks = s.picks := rfl
@[simp] theorem State.setThread_fresh (s : State) (c : Nat) (k : Fin 16) (t : Thread) : (s.setThread c k t).fresh = s.fresh := rfl

@[simp] theorem State.setMe_coreInit (s : State) (t : Thread) : (s.setMe t).coreInit = s.coreInit := rfl
@[simp] theorem State.setMe_clusters (s : State) (t : Thread) : (s.setMe t).clusters = s.clusters := rfl
@[simp] theorem State.setMe_dies (s : State) (t : Thread) : (s.setMe t).dies = s.dies := rfl
@[simp] theorem State.setMe_harts (s : State) (t : Thread) : (s.setMe t).harts = s.harts := rfl
@[simp] theorem State.setMe_wharf (s : State) (t : Thread) : (s.setMe t).wharf = s.wharf := rfl
@[simp] theorem State.setMe_lock (s : State) (t : Thread) : (s.setMe t).lock = s.lock := rfl
@[simp] theorem State.setMe_mem (s : State) (t : Thread) : (s.setMe t).mem = s.mem := rfl
@[simp] theorem State.setMe_poison (s : State) (t : Thread) : (s.setMe t).poison = s.poison := rfl
@[simp] theorem State.setMe_lineGen (s : State) (t : Thread) : (s.setMe t).lineGen = s.lineGen := rfl
@[simp] theorem State.setMe_written (s : State) (t : Thread) : (s.setMe t).written = s.written := rfl
@[simp] theorem State.setMe_viaPound (s : State) (t : Thread) : (s.setMe t).viaPound = s.viaPound := rfl
@[simp] theorem State.setMe_helmCache (s : State) (t : Thread) : (s.setMe t).helmCache = s.helmCache := rfl
@[simp] theorem State.setMe_net (s : State) (t : Thread) : (s.setMe t).net = s.net := rfl
@[simp] theorem State.setMe_ring (s : State) (t : Thread) : (s.setMe t).ring = s.ring := rfl
@[simp] theorem State.setMe_notices (s : State) (t : Thread) : (s.setMe t).notices = s.notices := rfl
@[simp] theorem State.setMe_steals (s : State) (t : Thread) : (s.setMe t).steals = s.steals := rfl
@[simp] theorem State.setMe_clk (s : State) (t : Thread) : (s.setMe t).clk = s.clk := rfl
@[simp] theorem State.setMe_mtime (s : State) (t : Thread) : (s.setMe t).mtime = s.mtime := rfl
@[simp] theorem State.setMe_power (s : State) (t : Thread) : (s.setMe t).power = s.power := rfl
@[simp] theorem State.setMe_core (s : State) (t : Thread) : (s.setMe t).core = s.core := rfl
@[simp] theorem State.setMe_slot (s : State) (t : Thread) : (s.setMe t).slot = s.slot := rfl
@[simp] theorem State.setMe_hart (s : State) (t : Thread) : (s.setMe t).hart = s.hart := rfl
@[simp] theorem State.setMe_iword (s : State) (t : Thread) : (s.setMe t).iword = s.iword := rfl
@[simp] theorem State.setMe_agenda (s : State) (t : Thread) : (s.setMe t).agenda = s.agenda := rfl
@[simp] theorem State.setMe_picks (s : State) (t : Thread) : (s.setMe t).picks = s.picks := rfl
@[simp] theorem State.setMe_fresh (s : State) (t : Thread) : (s.setMe t).fresh = s.fresh := rfl

@[simp] theorem State.setMyCore_coreInit (s : State) (x : Core) : (s.setMyCore x).coreInit = s.coreInit := rfl
@[simp] theorem State.setMyCore_clusters (s : State) (x : Core) : (s.setMyCore x).clusters = s.clusters := rfl
@[simp] theorem State.setMyCore_dies (s : State) (x : Core) : (s.setMyCore x).dies = s.dies := rfl
@[simp] theorem State.setMyCore_harts (s : State) (x : Core) : (s.setMyCore x).harts = s.harts := rfl
@[simp] theorem State.setMyCore_wharf (s : State) (x : Core) : (s.setMyCore x).wharf = s.wharf := rfl
@[simp] theorem State.setMyCore_lock (s : State) (x : Core) : (s.setMyCore x).lock = s.lock := rfl
@[simp] theorem State.setMyCore_mem (s : State) (x : Core) : (s.setMyCore x).mem = s.mem := rfl
@[simp] theorem State.setMyCore_poison (s : State) (x : Core) : (s.setMyCore x).poison = s.poison := rfl
@[simp] theorem State.setMyCore_lineGen (s : State) (x : Core) : (s.setMyCore x).lineGen = s.lineGen := rfl
@[simp] theorem State.setMyCore_written (s : State) (x : Core) : (s.setMyCore x).written = s.written := rfl
@[simp] theorem State.setMyCore_viaPound (s : State) (x : Core) : (s.setMyCore x).viaPound = s.viaPound := rfl
@[simp] theorem State.setMyCore_helmCache (s : State) (x : Core) : (s.setMyCore x).helmCache = s.helmCache := rfl
@[simp] theorem State.setMyCore_net (s : State) (x : Core) : (s.setMyCore x).net = s.net := rfl
@[simp] theorem State.setMyCore_ring (s : State) (x : Core) : (s.setMyCore x).ring = s.ring := rfl
@[simp] theorem State.setMyCore_notices (s : State) (x : Core) : (s.setMyCore x).notices = s.notices := rfl
@[simp] theorem State.setMyCore_steals (s : State) (x : Core) : (s.setMyCore x).steals = s.steals := rfl
@[simp] theorem State.setMyCore_clk (s : State) (x : Core) : (s.setMyCore x).clk = s.clk := rfl
@[simp] theorem State.setMyCore_mtime (s : State) (x : Core) : (s.setMyCore x).mtime = s.mtime := rfl
@[simp] theorem State.setMyCore_power (s : State) (x : Core) : (s.setMyCore x).power = s.power := rfl
@[simp] theorem State.setMyCore_core (s : State) (x : Core) : (s.setMyCore x).core = s.core := rfl
@[simp] theorem State.setMyCore_slot (s : State) (x : Core) : (s.setMyCore x).slot = s.slot := rfl
@[simp] theorem State.setMyCore_hart (s : State) (x : Core) : (s.setMyCore x).hart = s.hart := rfl
@[simp] theorem State.setMyCore_iword (s : State) (x : Core) : (s.setMyCore x).iword = s.iword := rfl
@[simp] theorem State.setMyCore_agenda (s : State) (x : Core) : (s.setMyCore x).agenda = s.agenda := rfl
@[simp] theorem State.setMyCore_picks (s : State) (x : Core) : (s.setMyCore x).picks = s.picks := rfl
@[simp] theorem State.setMyCore_fresh (s : State) (x : Core) : (s.setMyCore x).fresh = s.fresh := rfl

@[simp] theorem State.setCluster_cores (s : State) (c : Nat) (x : Cluster) : (s.setCluster c x).cores = s.cores := rfl
@[simp] theorem State.setCluster_coreInit (s : State) (c : Nat) (x : Cluster) : (s.setCluster c x).coreInit = s.coreInit := rfl
@[simp] theorem State.setCluster_dies (s : State) (c : Nat) (x : Cluster) : (s.setCluster c x).dies = s.dies := rfl
@[simp] theorem State.setCluster_harts (s : State) (c : Nat) (x : Cluster) : (s.setCluster c x).harts = s.harts := rfl
@[simp] theorem State.setCluster_wharf (s : State) (c : Nat) (x : Cluster) : (s.setCluster c x).wharf = s.wharf := rfl
@[simp] theorem State.setCluster_lock (s : State) (c : Nat) (x : Cluster) : (s.setCluster c x).lock = s.lock := rfl
@[simp] theorem State.setCluster_mem (s : State) (c : Nat) (x : Cluster) : (s.setCluster c x).mem = s.mem := rfl
@[simp] theorem State.setCluster_poison (s : State) (c : Nat) (x : Cluster) : (s.setCluster c x).poison = s.poison := rfl
@[simp] theorem State.setCluster_lineGen (s : State) (c : Nat) (x : Cluster) : (s.setCluster c x).lineGen = s.lineGen := rfl
@[simp] theorem State.setCluster_written (s : State) (c : Nat) (x : Cluster) : (s.setCluster c x).written = s.written := rfl
@[simp] theorem State.setCluster_viaPound (s : State) (c : Nat) (x : Cluster) : (s.setCluster c x).viaPound = s.viaPound := rfl
@[simp] theorem State.setCluster_helmCache (s : State) (c : Nat) (x : Cluster) : (s.setCluster c x).helmCache = s.helmCache := rfl
@[simp] theorem State.setCluster_net (s : State) (c : Nat) (x : Cluster) : (s.setCluster c x).net = s.net := rfl
@[simp] theorem State.setCluster_ring (s : State) (c : Nat) (x : Cluster) : (s.setCluster c x).ring = s.ring := rfl
@[simp] theorem State.setCluster_notices (s : State) (c : Nat) (x : Cluster) : (s.setCluster c x).notices = s.notices := rfl
@[simp] theorem State.setCluster_steals (s : State) (c : Nat) (x : Cluster) : (s.setCluster c x).steals = s.steals := rfl
@[simp] theorem State.setCluster_clk (s : State) (c : Nat) (x : Cluster) : (s.setCluster c x).clk = s.clk := rfl
@[simp] theorem State.setCluster_mtime (s : State) (c : Nat) (x : Cluster) : (s.setCluster c x).mtime = s.mtime := rfl
@[simp] theorem State.setCluster_power (s : State) (c : Nat) (x : Cluster) : (s.setCluster c x).power = s.power := rfl
@[simp] theorem State.setCluster_core (s : State) (c : Nat) (x : Cluster) : (s.setCluster c x).core = s.core := rfl
@[simp] theorem State.setCluster_slot (s : State) (c : Nat) (x : Cluster) : (s.setCluster c x).slot = s.slot := rfl
@[simp] theorem State.setCluster_hart (s : State) (c : Nat) (x : Cluster) : (s.setCluster c x).hart = s.hart := rfl
@[simp] theorem State.setCluster_iword (s : State) (c : Nat) (x : Cluster) : (s.setCluster c x).iword = s.iword := rfl
@[simp] theorem State.setCluster_agenda (s : State) (c : Nat) (x : Cluster) : (s.setCluster c x).agenda = s.agenda := rfl
@[simp] theorem State.setCluster_picks (s : State) (c : Nat) (x : Cluster) : (s.setCluster c x).picks = s.picks := rfl
@[simp] theorem State.setCluster_fresh (s : State) (c : Nat) (x : Cluster) : (s.setCluster c x).fresh = s.fresh := rfl

@[simp] theorem State.setDie_cores (s : State) (d : Nat) (x : Die) : (s.setDie d x).cores = s.cores := rfl
@[simp] theorem State.setDie_coreInit (s : State) (d : Nat) (x : Die) : (s.setDie d x).coreInit = s.coreInit := rfl
@[simp] theorem State.setDie_clusters (s : State) (d : Nat) (x : Die) : (s.setDie d x).clusters = s.clusters := rfl
@[simp] theorem State.setDie_harts (s : State) (d : Nat) (x : Die) : (s.setDie d x).harts = s.harts := rfl
@[simp] theorem State.setDie_wharf (s : State) (d : Nat) (x : Die) : (s.setDie d x).wharf = s.wharf := rfl
@[simp] theorem State.setDie_lock (s : State) (d : Nat) (x : Die) : (s.setDie d x).lock = s.lock := rfl
@[simp] theorem State.setDie_mem (s : State) (d : Nat) (x : Die) : (s.setDie d x).mem = s.mem := rfl
@[simp] theorem State.setDie_poison (s : State) (d : Nat) (x : Die) : (s.setDie d x).poison = s.poison := rfl
@[simp] theorem State.setDie_lineGen (s : State) (d : Nat) (x : Die) : (s.setDie d x).lineGen = s.lineGen := rfl
@[simp] theorem State.setDie_written (s : State) (d : Nat) (x : Die) : (s.setDie d x).written = s.written := rfl
@[simp] theorem State.setDie_viaPound (s : State) (d : Nat) (x : Die) : (s.setDie d x).viaPound = s.viaPound := rfl
@[simp] theorem State.setDie_helmCache (s : State) (d : Nat) (x : Die) : (s.setDie d x).helmCache = s.helmCache := rfl
@[simp] theorem State.setDie_net (s : State) (d : Nat) (x : Die) : (s.setDie d x).net = s.net := rfl
@[simp] theorem State.setDie_ring (s : State) (d : Nat) (x : Die) : (s.setDie d x).ring = s.ring := rfl
@[simp] theorem State.setDie_notices (s : State) (d : Nat) (x : Die) : (s.setDie d x).notices = s.notices := rfl
@[simp] theorem State.setDie_steals (s : State) (d : Nat) (x : Die) : (s.setDie d x).steals = s.steals := rfl
@[simp] theorem State.setDie_clk (s : State) (d : Nat) (x : Die) : (s.setDie d x).clk = s.clk := rfl
@[simp] theorem State.setDie_mtime (s : State) (d : Nat) (x : Die) : (s.setDie d x).mtime = s.mtime := rfl
@[simp] theorem State.setDie_power (s : State) (d : Nat) (x : Die) : (s.setDie d x).power = s.power := rfl
@[simp] theorem State.setDie_core (s : State) (d : Nat) (x : Die) : (s.setDie d x).core = s.core := rfl
@[simp] theorem State.setDie_slot (s : State) (d : Nat) (x : Die) : (s.setDie d x).slot = s.slot := rfl
@[simp] theorem State.setDie_hart (s : State) (d : Nat) (x : Die) : (s.setDie d x).hart = s.hart := rfl
@[simp] theorem State.setDie_iword (s : State) (d : Nat) (x : Die) : (s.setDie d x).iword = s.iword := rfl
@[simp] theorem State.setDie_agenda (s : State) (d : Nat) (x : Die) : (s.setDie d x).agenda = s.agenda := rfl
@[simp] theorem State.setDie_picks (s : State) (d : Nat) (x : Die) : (s.setDie d x).picks = s.picks := rfl
@[simp] theorem State.setDie_fresh (s : State) (d : Nat) (x : Die) : (s.setDie d x).fresh = s.fresh := rfl

@[simp] theorem State.setHart_cores (s : State) (h : Nat) (x : Hart) : (s.setHart h x).cores = s.cores := rfl
@[simp] theorem State.setHart_coreInit (s : State) (h : Nat) (x : Hart) : (s.setHart h x).coreInit = s.coreInit := rfl
@[simp] theorem State.setHart_clusters (s : State) (h : Nat) (x : Hart) : (s.setHart h x).clusters = s.clusters := rfl
@[simp] theorem State.setHart_dies (s : State) (h : Nat) (x : Hart) : (s.setHart h x).dies = s.dies := rfl
@[simp] theorem State.setHart_wharf (s : State) (h : Nat) (x : Hart) : (s.setHart h x).wharf = s.wharf := rfl
@[simp] theorem State.setHart_lock (s : State) (h : Nat) (x : Hart) : (s.setHart h x).lock = s.lock := rfl
@[simp] theorem State.setHart_mem (s : State) (h : Nat) (x : Hart) : (s.setHart h x).mem = s.mem := rfl
@[simp] theorem State.setHart_poison (s : State) (h : Nat) (x : Hart) : (s.setHart h x).poison = s.poison := rfl
@[simp] theorem State.setHart_lineGen (s : State) (h : Nat) (x : Hart) : (s.setHart h x).lineGen = s.lineGen := rfl
@[simp] theorem State.setHart_written (s : State) (h : Nat) (x : Hart) : (s.setHart h x).written = s.written := rfl
@[simp] theorem State.setHart_viaPound (s : State) (h : Nat) (x : Hart) : (s.setHart h x).viaPound = s.viaPound := rfl
@[simp] theorem State.setHart_helmCache (s : State) (h : Nat) (x : Hart) : (s.setHart h x).helmCache = s.helmCache := rfl
@[simp] theorem State.setHart_net (s : State) (h : Nat) (x : Hart) : (s.setHart h x).net = s.net := rfl
@[simp] theorem State.setHart_ring (s : State) (h : Nat) (x : Hart) : (s.setHart h x).ring = s.ring := rfl
@[simp] theorem State.setHart_notices (s : State) (h : Nat) (x : Hart) : (s.setHart h x).notices = s.notices := rfl
@[simp] theorem State.setHart_steals (s : State) (h : Nat) (x : Hart) : (s.setHart h x).steals = s.steals := rfl
@[simp] theorem State.setHart_clk (s : State) (h : Nat) (x : Hart) : (s.setHart h x).clk = s.clk := rfl
@[simp] theorem State.setHart_mtime (s : State) (h : Nat) (x : Hart) : (s.setHart h x).mtime = s.mtime := rfl
@[simp] theorem State.setHart_power (s : State) (h : Nat) (x : Hart) : (s.setHart h x).power = s.power := rfl
@[simp] theorem State.setHart_core (s : State) (h : Nat) (x : Hart) : (s.setHart h x).core = s.core := rfl
@[simp] theorem State.setHart_slot (s : State) (h : Nat) (x : Hart) : (s.setHart h x).slot = s.slot := rfl
@[simp] theorem State.setHart_hart (s : State) (h : Nat) (x : Hart) : (s.setHart h x).hart = s.hart := rfl
@[simp] theorem State.setHart_iword (s : State) (h : Nat) (x : Hart) : (s.setHart h x).iword = s.iword := rfl
@[simp] theorem State.setHart_agenda (s : State) (h : Nat) (x : Hart) : (s.setHart h x).agenda = s.agenda := rfl
@[simp] theorem State.setHart_picks (s : State) (h : Nat) (x : Hart) : (s.setHart h x).picks = s.picks := rfl
@[simp] theorem State.setHart_fresh (s : State) (h : Nat) (x : Hart) : (s.setHart h x).fresh = s.fresh := rfl

@[simp] theorem State.setMyHart_cores (s : State) (x : Hart) : (s.setMyHart x).cores = s.cores := rfl
@[simp] theorem State.setMyHart_coreInit (s : State) (x : Hart) : (s.setMyHart x).coreInit = s.coreInit := rfl
@[simp] theorem State.setMyHart_clusters (s : State) (x : Hart) : (s.setMyHart x).clusters = s.clusters := rfl
@[simp] theorem State.setMyHart_dies (s : State) (x : Hart) : (s.setMyHart x).dies = s.dies := rfl
@[simp] theorem State.setMyHart_wharf (s : State) (x : Hart) : (s.setMyHart x).wharf = s.wharf := rfl
@[simp] theorem State.setMyHart_lock (s : State) (x : Hart) : (s.setMyHart x).lock = s.lock := rfl
@[simp] theorem State.setMyHart_mem (s : State) (x : Hart) : (s.setMyHart x).mem = s.mem := rfl
@[simp] theorem State.setMyHart_poison (s : State) (x : Hart) : (s.setMyHart x).poison = s.poison := rfl
@[simp] theorem State.setMyHart_lineGen (s : State) (x : Hart) : (s.setMyHart x).lineGen = s.lineGen := rfl
@[simp] theorem State.setMyHart_written (s : State) (x : Hart) : (s.setMyHart x).written = s.written := rfl
@[simp] theorem State.setMyHart_viaPound (s : State) (x : Hart) : (s.setMyHart x).viaPound = s.viaPound := rfl
@[simp] theorem State.setMyHart_helmCache (s : State) (x : Hart) : (s.setMyHart x).helmCache = s.helmCache := rfl
@[simp] theorem State.setMyHart_net (s : State) (x : Hart) : (s.setMyHart x).net = s.net := rfl
@[simp] theorem State.setMyHart_ring (s : State) (x : Hart) : (s.setMyHart x).ring = s.ring := rfl
@[simp] theorem State.setMyHart_notices (s : State) (x : Hart) : (s.setMyHart x).notices = s.notices := rfl
@[simp] theorem State.setMyHart_steals (s : State) (x : Hart) : (s.setMyHart x).steals = s.steals := rfl
@[simp] theorem State.setMyHart_clk (s : State) (x : Hart) : (s.setMyHart x).clk = s.clk := rfl
@[simp] theorem State.setMyHart_mtime (s : State) (x : Hart) : (s.setMyHart x).mtime = s.mtime := rfl
@[simp] theorem State.setMyHart_power (s : State) (x : Hart) : (s.setMyHart x).power = s.power := rfl
@[simp] theorem State.setMyHart_core (s : State) (x : Hart) : (s.setMyHart x).core = s.core := rfl
@[simp] theorem State.setMyHart_slot (s : State) (x : Hart) : (s.setMyHart x).slot = s.slot := rfl
@[simp] theorem State.setMyHart_hart (s : State) (x : Hart) : (s.setMyHart x).hart = s.hart := rfl
@[simp] theorem State.setMyHart_iword (s : State) (x : Hart) : (s.setMyHart x).iword = s.iword := rfl
@[simp] theorem State.setMyHart_agenda (s : State) (x : Hart) : (s.setMyHart x).agenda = s.agenda := rfl
@[simp] theorem State.setMyHart_picks (s : State) (x : Hart) : (s.setMyHart x).picks = s.picks := rfl
@[simp] theorem State.setMyHart_fresh (s : State) (x : Hart) : (s.setMyHart x).fresh = s.fresh := rfl

@[simp] theorem State.setLaunch_cores (s : State) (g : Half) (x : Launch) : (s.setLaunch g x).cores = s.cores := rfl
@[simp] theorem State.setLaunch_coreInit (s : State) (g : Half) (x : Launch) : (s.setLaunch g x).coreInit = s.coreInit := rfl
@[simp] theorem State.setLaunch_clusters (s : State) (g : Half) (x : Launch) : (s.setLaunch g x).clusters = s.clusters := rfl
@[simp] theorem State.setLaunch_dies (s : State) (g : Half) (x : Launch) : (s.setLaunch g x).dies = s.dies := rfl
@[simp] theorem State.setLaunch_harts (s : State) (g : Half) (x : Launch) : (s.setLaunch g x).harts = s.harts := rfl
@[simp] theorem State.setLaunch_lock (s : State) (g : Half) (x : Launch) : (s.setLaunch g x).lock = s.lock := rfl
@[simp] theorem State.setLaunch_mem (s : State) (g : Half) (x : Launch) : (s.setLaunch g x).mem = s.mem := rfl
@[simp] theorem State.setLaunch_poison (s : State) (g : Half) (x : Launch) : (s.setLaunch g x).poison = s.poison := rfl
@[simp] theorem State.setLaunch_lineGen (s : State) (g : Half) (x : Launch) : (s.setLaunch g x).lineGen = s.lineGen := rfl
@[simp] theorem State.setLaunch_written (s : State) (g : Half) (x : Launch) : (s.setLaunch g x).written = s.written := rfl
@[simp] theorem State.setLaunch_viaPound (s : State) (g : Half) (x : Launch) : (s.setLaunch g x).viaPound = s.viaPound := rfl
@[simp] theorem State.setLaunch_helmCache (s : State) (g : Half) (x : Launch) : (s.setLaunch g x).helmCache = s.helmCache := rfl
@[simp] theorem State.setLaunch_net (s : State) (g : Half) (x : Launch) : (s.setLaunch g x).net = s.net := rfl
@[simp] theorem State.setLaunch_ring (s : State) (g : Half) (x : Launch) : (s.setLaunch g x).ring = s.ring := rfl
@[simp] theorem State.setLaunch_notices (s : State) (g : Half) (x : Launch) : (s.setLaunch g x).notices = s.notices := rfl
@[simp] theorem State.setLaunch_steals (s : State) (g : Half) (x : Launch) : (s.setLaunch g x).steals = s.steals := rfl
@[simp] theorem State.setLaunch_clk (s : State) (g : Half) (x : Launch) : (s.setLaunch g x).clk = s.clk := rfl
@[simp] theorem State.setLaunch_mtime (s : State) (g : Half) (x : Launch) : (s.setLaunch g x).mtime = s.mtime := rfl
@[simp] theorem State.setLaunch_power (s : State) (g : Half) (x : Launch) : (s.setLaunch g x).power = s.power := rfl
@[simp] theorem State.setLaunch_core (s : State) (g : Half) (x : Launch) : (s.setLaunch g x).core = s.core := rfl
@[simp] theorem State.setLaunch_slot (s : State) (g : Half) (x : Launch) : (s.setLaunch g x).slot = s.slot := rfl
@[simp] theorem State.setLaunch_hart (s : State) (g : Half) (x : Launch) : (s.setLaunch g x).hart = s.hart := rfl
@[simp] theorem State.setLaunch_iword (s : State) (g : Half) (x : Launch) : (s.setLaunch g x).iword = s.iword := rfl
@[simp] theorem State.setLaunch_agenda (s : State) (g : Half) (x : Launch) : (s.setLaunch g x).agenda = s.agenda := rfl
@[simp] theorem State.setLaunch_picks (s : State) (g : Half) (x : Launch) : (s.setLaunch g x).picks = s.picks := rfl
@[simp] theorem State.setLaunch_fresh (s : State) (g : Half) (x : Launch) : (s.setLaunch g x).fresh = s.fresh := rfl

/-- What a vector holds after one place is set. -/
theorem vget_set {α : Type} {n : Nat} (v : Vector α n) (i j : Fin n) (x : α) :
    (v.set i.val x i.isLt).get j = if j = i then x else v.get j := by
  have h : (v.set i.val x i.isLt).get j = (v.set i.val x i.isLt)[j.val] := rfl
  have g : v.get j = v[j.val] := rfl
  rw [h, g, Vector.getElem_set]
  by_cases e : j = i
  · simp [e]
  · have e' : i.val ≠ j.val := fun f => e (Fin.ext f.symm)
    simp [e, e']

-- What is read back --------------------------------------------------------------------------------------------------------

@[simp] theorem State.getCore_setCore_self (s : State) (c : Nat) (x : Core) : (s.setCore c x).getCore c = x := by
  simp [State.getCore, State.setCore]

theorem State.getCore_setCore_ne (s : State) {c d : Nat} (x : Core) (h : d ≠ c) : (s.setCore c x).getCore d = s.getCore d := by
  simp [State.getCore, State.setCore, SMap.getD_set_ne _ _ _ h]

@[simp] theorem State.thread_setThread_self (s : State) (c : Nat) (k : Fin 16) (t : Thread) : (s.setThread c k t).thread c k = t := by
  unfold State.thread State.setThread
  rw [State.getCore_setCore_self]
  show ((s.getCore c).slots.set k.val t k.isLt).get k = t
  rw [vget_set, if_pos rfl]

theorem State.thread_setThread_slot (s : State) (c : Nat) {k j : Fin 16} (t : Thread) (h : j ≠ k) :
    (s.setThread c k t).thread c j = s.thread c j := by
  unfold State.thread State.setThread
  rw [State.getCore_setCore_self]
  show ((s.getCore c).slots.set k.val t k.isLt).get j = _
  rw [vget_set, if_neg h]

theorem State.thread_setThread_core (s : State) {c d : Nat} (k j : Fin 16) (t : Thread) (h : d ≠ c) :
    (s.setThread c k t).thread d j = s.thread d j := by
  simp [State.thread, State.setThread, State.getCore_setCore_ne _ _ h]

theorem State.thread_setThread_ne (s : State) {c d : Nat} {k j : Fin 16} (t : Thread) (h : (d, j) ≠ (c, k)) :
    (s.setThread c k t).thread d j = s.thread d j := by
  by_cases e : d = c
  · subst e
    exact State.thread_setThread_slot s d t fun g => h (by rw [g])
  · exact State.thread_setThread_core s k j t e

@[simp] theorem State.setMe_me (s : State) (t : Thread) : (s.setMe t).me = t := by
  simp [State.me, State.setMe]

@[simp] theorem State.setMyCore_myCore (s : State) (x : Core) : (s.setMyCore x).myCore = x := by
  simp [State.myCore, State.setMyCore]

@[simp] theorem State.setMyHart_myHart (s : State) (x : Hart) : (s.setMyHart x).myHart = x := by
  simp [State.myHart, State.setMyHart, State.getHart, State.setHart]

@[simp] theorem State.getHart_setHart_self (s : State) (h : Nat) (x : Hart) : (s.setHart h x).getHart h = x := by
  simp [State.getHart, State.setHart]

theorem State.getHart_setHart_ne (s : State) {h g : Nat} (x : Hart) (e : g ≠ h) : (s.setHart h x).getHart g = s.getHart g := by
  simp [State.getHart, State.setHart, SMap.getD_set_ne _ _ _ e]

@[simp] theorem State.die_setDie_self (s : State) (d : Nat) (x : Die) : (s.setDie d x).die d = x := by
  simp [State.die, State.setDie]

@[simp] theorem State.cluster_setCluster_self (s : State) (c : Nat) (x : Cluster) : (s.setCluster c x).cluster c = x := by
  simp [State.cluster, State.setCluster]

@[simp] theorem State.launch_setLaunch_self (s : State) (g : Half) (x : Launch) : (s.setLaunch g x).launch g = x := by
  simp [State.launch, State.setLaunch]

@[simp] theorem State.getCore_setCluster (s : State) (c d : Nat) (x : Cluster) : (s.setCluster c x).getCore d = s.getCore d := rfl
@[simp] theorem State.getCore_setDie (s : State) (c d : Nat) (x : Die) : (s.setDie c x).getCore d = s.getCore d := rfl
@[simp] theorem State.getCore_setHart (s : State) (c d : Nat) (x : Hart) : (s.setHart c x).getCore d = s.getCore d := rfl
@[simp] theorem State.getHart_setCore (s : State) (c d : Nat) (x : Core) : (s.setCore c x).getHart d = s.getHart d := rfl
@[simp] theorem State.launch_setCore (s : State) (c : Nat) (g : Half) (x : Core) : (s.setCore c x).launch g = s.launch g := rfl
@[simp] theorem State.launch_setThread (s : State) (c : Nat) (k : Fin 16) (g : Half) (t : Thread) : (s.setThread c k t).launch g = s.launch g := rfl
@[simp] theorem State.die_setCore (s : State) (c d : Nat) (x : Core) : (s.setCore c x).die d = s.die d := rfl
@[simp] theorem State.die_setThread (s : State) (c d : Nat) (k : Fin 16) (t : Thread) : (s.setThread c k t).die d = s.die d := rfl
@[simp] theorem State.cluster_setCore (s : State) (c d : Nat) (x : Core) : (s.setCore c x).cluster d = s.cluster d := rfl

-- A thread's registers ---------------------------------------------------------------------------------------------------

theorem Thread.setG_get (t : Thread) (i j : Fin 8) (v : Word) : (t.setG i v).g.get j = if j = i then v else t.g.get j :=
  vget_set _ _ _ _

theorem Thread.setW_get (t : Thread) (i j : Fin 24) (v : Word) : (t.setW i v).w.get j = if j = i then v else t.w.get j :=
  vget_set _ _ _ _

theorem Thread.setV_get (t : Thread) (i j : Fin 16) (v : Vec) : (t.setV i v).v.get j = if j = i then v else t.v.get j :=
  vget_set _ _ _ _

theorem Thread.setM_get (t : Thread) (i j : Fin 4) (v : Word) : (t.setM i v).m.get j = if j = i then v else t.m.get j :=
  vget_set _ _ _ _

/-- An instruction that is performed changes the pc and, for a butty, its part in the tow; nothing else. -/
theorem Thread.performed_eq (t : Thread) (pc : Word) :
    ∃ tow fwd, t.performed pc = { t with pc := pc, tow := tow, fwd := fwd } := by
  unfold Thread.performed Thread.performedAs
  split
  · split
    · exact ⟨_, _, rfl⟩
    · exact ⟨_, _, rfl⟩
  · exact ⟨_, _, rfl⟩

@[simp] theorem Thread.performed_pc (t : Thread) (pc : Word) : (t.performed pc).pc = pc := by
  unfold Thread.performed Thread.performedAs
  split
  · split <;> rfl
  · rfl

@[simp] theorem Thread.performed_st (t : Thread) (pc : Word) : (t.performed pc).st = t.st := by
  obtain ⟨a, b, h⟩ := t.performed_eq pc; rw [h]
@[simp] theorem Thread.performed_g (t : Thread) (pc : Word) : (t.performed pc).g = t.g := by
  obtain ⟨a, b, h⟩ := t.performed_eq pc; rw [h]
@[simp] theorem Thread.performed_w (t : Thread) (pc : Word) : (t.performed pc).w = t.w := by
  obtain ⟨a, b, h⟩ := t.performed_eq pc; rw [h]
@[simp] theorem Thread.performed_v (t : Thread) (pc : Word) : (t.performed pc).v = t.v := by
  obtain ⟨a, b, h⟩ := t.performed_eq pc; rw [h]
@[simp] theorem Thread.performed_m (t : Thread) (pc : Word) : (t.performed pc).m = t.m := by
  obtain ⟨a, b, h⟩ := t.performed_eq pc; rw [h]
@[simp] theorem Thread.performed_sg (t : Thread) (pc : Word) : (t.performed pc).sg = t.sg := by
  obtain ⟨a, b, h⟩ := t.performed_eq pc; rw [h]
@[simp] theorem Thread.performed_older (t : Thread) (pc : Word) : (t.performed pc).older = t.older := by
  obtain ⟨a, b, h⟩ := t.performed_eq pc; rw [h]
@[simp] theorem Thread.performed_depth (t : Thread) (pc : Word) : (t.performed pc).depth = t.depth := by
  obtain ⟨a, b, h⟩ := t.performed_eq pc; rw [h]
@[simp] theorem Thread.performed_wsp (t : Thread) (pc : Word) : (t.performed pc).wsp = t.wsp := by
  obtain ⟨a, b, h⟩ := t.performed_eq pc; rw [h]
@[simp] theorem Thread.performed_fa (t : Thread) (pc : Word) : (t.performed pc).fa = t.fa := by
  obtain ⟨a, b, h⟩ := t.performed_eq pc; rw [h]
@[simp] theorem Thread.performed_fw (t : Thread) (pc : Word) : (t.performed pc).fw = t.fw := by
  obtain ⟨a, b, h⟩ := t.performed_eq pc; rw [h]
@[simp] theorem Thread.performed_fo (t : Thread) (pc : Word) : (t.performed pc).fo = t.fo := by
  obtain ⟨a, b, h⟩ := t.performed_eq pc; rw [h]
@[simp] theorem Thread.performed_fsc (t : Thread) (pc : Word) : (t.performed pc).fsc = t.fsc := by
  obtain ⟨a, b, h⟩ := t.performed_eq pc; rw [h]
@[simp] theorem Thread.performed_tag (t : Thread) (pc : Word) : (t.performed pc).tag = t.tag := by
  obtain ⟨a, b, h⟩ := t.performed_eq pc; rw [h]
@[simp] theorem Thread.performed_inst (t : Thread) (pc : Word) : (t.performed pc).inst = t.inst := by
  obtain ⟨a, b, h⟩ := t.performed_eq pc; rw [h]
@[simp] theorem Thread.performed_ev (t : Thread) (pc : Word) : (t.performed pc).ev = t.ev := by
  obtain ⟨a, b, h⟩ := t.performed_eq pc; rw [h]
@[simp] theorem Thread.performed_wb (t : Thread) (pc : Word) : (t.performed pc).wb = t.wb := by
  obtain ⟨a, b, h⟩ := t.performed_eq pc; rw [h]
@[simp] theorem Thread.performed_bh (t : Thread) (pc : Word) : (t.performed pc).bh = t.bh := by
  obtain ⟨a, b, h⟩ := t.performed_eq pc; rw [h]
@[simp] theorem Thread.performed_bid (t : Thread) (pc : Word) : (t.performed pc).bid = t.bid := by
  obtain ⟨a, b, h⟩ := t.performed_eq pc; rw [h]
@[simp] theorem Thread.performed_bpc (t : Thread) (pc : Word) : (t.performed pc).bpc = t.bpc := by
  obtain ⟨a, b, h⟩ := t.performed_eq pc; rw [h]
@[simp] theorem Thread.performed_inHandler (t : Thread) (pc : Word) : (t.performed pc).inHandler = t.inHandler := by
  obtain ⟨a, b, h⟩ := t.performed_eq pc; rw [h]
@[simp] theorem Thread.performed_alarm (t : Thread) (pc : Word) : (t.performed pc).alarm = t.alarm := by
  obtain ⟨a, b, h⟩ := t.performed_eq pc; rw [h]
@[simp] theorem Thread.performed_runOpen (t : Thread) (pc : Word) : (t.performed pc).runOpen = t.runOpen := by
  obtain ⟨a, b, h⟩ := t.performed_eq pc; rw [h]
@[simp] theorem Thread.performed_nextIssue (t : Thread) (pc : Word) : (t.performed pc).nextIssue = t.nextIssue := by
  obtain ⟨a, b, h⟩ := t.performed_eq pc; rw [h]
@[simp] theorem Thread.performed_relaxed (t : Thread) (pc : Word) : (t.performed pc).relaxed = t.relaxed := by
  obtain ⟨a, b, h⟩ := t.performed_eq pc; rw [h]
@[simp] theorem Thread.performed_ports (t : Thread) (pc : Word) : (t.performed pc).ports = t.ports := by
  obtain ⟨a, b, h⟩ := t.performed_eq pc; rw [h]
@[simp] theorem Thread.performed_bells (t : Thread) (pc : Word) : (t.performed pc).bells = t.bells := by
  obtain ⟨a, b, h⟩ := t.performed_eq pc; rw [h]
@[simp] theorem Thread.performed_saveInUse (t : Thread) (pc : Word) : (t.performed pc).saveInUse = t.saveInUse := by
  obtain ⟨a, b, h⟩ := t.performed_eq pc; rw [h]
@[simp] theorem Thread.performed_saved (t : Thread) (pc : Word) : (t.performed pc).saved = t.saved := by
  obtain ⟨a, b, h⟩ := t.performed_eq pc; rw [h]
@[simp] theorem Thread.performed_since (t : Thread) (pc : Word) : (t.performed pc).since = t.since := by
  obtain ⟨a, b, h⟩ := t.performed_eq pc; rw [h]
@[simp] theorem Thread.performed_isTask (t : Thread) (pc : Word) : (t.performed pc).isTask = t.isTask := by
  obtain ⟨a, b, h⟩ := t.performed_eq pc; rw [h]
@[simp] theorem Thread.performed_parent (t : Thread) (pc : Word) : (t.performed pc).parent = t.parent := by
  obtain ⟨a, b, h⟩ := t.performed_eq pc; rw [h]
@[simp] theorem Thread.performed_succ (t : Thread) (pc : Word) : (t.performed pc).succ = t.succ := by
  obtain ⟨a, b, h⟩ := t.performed_eq pc; rw [h]
@[simp] theorem Thread.performed_serving (t : Thread) (pc : Word) : (t.performed pc).serving = t.serving := by
  obtain ⟨a, b, h⟩ := t.performed_eq pc; rw [h]
@[simp] theorem Thread.performed_dogDue (t : Thread) (pc : Word) : (t.performed pc).dogDue = t.dogDue := by
  obtain ⟨a, b, h⟩ := t.performed_eq pc; rw [h]
@[simp] theorem Thread.performed_parkDue (t : Thread) (pc : Word) : (t.performed pc).parkDue = t.parkDue := by
  obtain ⟨a, b, h⟩ := t.performed_eq pc; rw [h]
@[simp] theorem Thread.performed_yielding (t : Thread) (pc : Word) : (t.performed pc).yielding = t.yielding := by
  obtain ⟨a, b, h⟩ := t.performed_eq pc; rw [h]
@[simp] theorem Thread.performed_taken (t : Thread) (pc : Word) : (t.performed pc).taken = t.taken := by
  obtain ⟨a, b, h⟩ := t.performed_eq pc; rw [h]
@[simp] theorem Thread.performed_issuedAt (t : Thread) (pc : Word) : (t.performed pc).issuedAt = t.issuedAt := by
  obtain ⟨a, b, h⟩ := t.performed_eq pc; rw [h]
@[simp] theorem Thread.performed_issuedPc (t : Thread) (pc : Word) : (t.performed pc).issuedPc = t.issuedPc := by
  obtain ⟨a, b, h⟩ := t.performed_eq pc; rw [h]
@[simp] theorem Thread.performed_issuedWord (t : Thread) (pc : Word) : (t.performed pc).issuedWord = t.issuedWord := by
  obtain ⟨a, b, h⟩ := t.performed_eq pc; rw [h]
@[simp] theorem Thread.performed_midway (t : Thread) (pc : Word) : (t.performed pc).midway = t.midway := by
  obtain ⟨a, b, h⟩ := t.performed_eq pc; rw [h]
@[simp] theorem Thread.performed_freeAt (t : Thread) (pc : Word) : (t.performed pc).freeAt = t.freeAt := by
  obtain ⟨a, b, h⟩ := t.performed_eq pc; rw [h]
@[simp] theorem Thread.performed_wokeAt (t : Thread) (pc : Word) : (t.performed pc).wokeAt = t.wokeAt := by
  obtain ⟨a, b, h⟩ := t.performed_eq pc; rw [h]
@[simp] theorem Thread.performed_woke (t : Thread) (pc : Word) : (t.performed pc).woke = t.woke := by
  obtain ⟨a, b, h⟩ := t.performed_eq pc; rw [h]

end Sys2Proof.Machine
end

