-- ==== Sys2Proof/Laws/Sweiq.lean ====
section
/-! SUPPORT. What a read of the Sweiq engine answers: the bytes as the helm agents see them, and the same state when no line is held under
another key generation. -/

namespace Sys2Proof.Machine

/-- Where no line of a range is held under another key generation, nothing is dropped. -/
theorem syncLines_of {s : State} {g a : Nat} {n : Nat}
    (h : ∀ i, i < lineCount a n → ∀ x, SMap.find s.helmCache (a / 64 + i) = some x → x.gen = g) : syncLines s g a n = s := by
  have key : ∀ m, m ≤ lineCount a n → iter (fun i s => match SMap.find s.helmCache (a / 64 + i) with
      | some x => if x.gen = g then s else dropLine s (a / 64 + i)
      | none => s) m s = s := by
    intro m
    induction m with
    | zero => intro _; rfl
    | succ m ih =>
      intro hm
      rw [iter, ih (by omega)]
      cases e : SMap.find s.helmCache (a / 64 + m) with
      | none => rfl
      | some x => simp [h m (by omega) x e]
  exact key _ (Nat.le_refl _)

/-- With no line held, a read drops nothing. -/
theorem syncLines_nil {s : State} (h : s.helmCache = []) (g a n : Nat) : syncLines s g a n = s :=
  syncLines_of fun i _ x e => by rw [h] at e; cases e

/-- Nothing disables a pool between a state and itself. -/
theorem newlyDisabled_self (s : State) : newlyDisabled s s = [] := by
  simp [newlyDisabled]

/-- Where no home-side cache holds a line, a read changes none. -/
theorem openLines_of {s : State} (h : ∀ l, SMap.find (s.die (dieOfKey (l * 64))).held l = none) (g a n : Nat) : openLines s g a n = s := by
  have key : ∀ m, iter (fun i s => if (SMap.find s.helmCache (a / 64 + i)).isSome then s else homeLine s g (a / 64 + i)) m s = s := by
    intro m
    induction m with
    | zero => rfl
    | succ m ih => rw [iter, ih]; simp [homeLine, h]
  exact key _

/-- An access that does not cross a page is one piece. -/
theorem spans_one {a : Word} {n : Nat} (h : a.toNat % 4096 + n ≤ 4096) : spans a n = [(a, n)] := by
  simp only [spans]
  rw [if_pos (by omega)]

/-- Where the engine's addresses are physical, an access lies at its address, under hkey. -/
theorem swqPlace_plain {s : State} (h : s.plainView = true) (acc : HelmAcc) (a : Word) :
    swqPlace s acc a = .ok (a.toNat, swqGen' s s.hart.val, true, s) := by
  simp only [State.plainView, Bool.and_eq_true, Bool.not_eq_true'] at h
  simp only [Hart.isBare, Bool.and_eq_true, Bool.or_eq_true, Bool.not_eq_true', beq_iff_eq] at h
  obtain ⟨hp, hb, hv⟩ := h
  cases e : s.myHart.codeEye.virt
  · simp [swqPlace, helmTranslate, firstStage, hp, hb, e]
  · simp [swqPlace, helmTranslate, firstStage, secondStage, hp, hb, e, (hv.resolve_left (by simp [e])), Except.map]

/-- A read of addresses that the engine may access answers their bytes, and only the home-side caches may change. -/
theorem swqBytes_of {s : State} {a : Word} {n : Nat} (hv : s.plainView = true) (hs : a.toNat % 4096 + n ≤ 4096)
    (ha : (swqAddr a.toNat && swqAddr (a.toNat + n - 1)) = true) (hp : meetsPoison s true a.toNat n = false)
    (h : syncLines s (swqGen' s s.hart.val) a.toNat n = s) :
    swqBytes a n s = .ok (helmRead s (swqGen' s s.hart.val) a.toNat n, openLines s (swqGen' s s.hart.val) a.toNat n) := by
  rw [Bool.and_eq_true] at ha
  simp [swqBytes, spans_one hs, swqReadAll, swqReadPiece, Swq.bind, Swq.pure, swqPlace_plain hv, ha.1, ha.2, h, hp, helmSee]

/-- A read outside main memory and the Basins is an exception. -/
theorem swqBytes_outside {s : State} {a : Word} {n : Nat} (hv : s.plainView = true) (hs : a.toNat % 4096 + n ≤ 4096)
    (ha : swqAddr a.toNat = false) : swqBytes a n s = .error (swqFault s .load a) := by
  simp [swqBytes, spans_one hs, swqReadAll, swqReadPiece, Swq.bind, swqPlace_plain hv, ha]

/-- A word read likewise. -/
theorem swqLoad_of {s : State} {a : Word} (hv : s.plainView = true) (hs : a.toNat % 4096 + 8 ≤ 4096)
    (ha : (swqAddr a.toNat && swqAddr (a.toNat + 8 - 1)) = true) (hp : meetsPoison s true a.toNat 8 = false)
    (h : syncLines s (swqGen' s s.hart.val) a.toNat 8 = s) :
    swqLoad a s = .ok (BitVec.ofNat 64 (bytesNat (helmRead s (swqGen' s s.hart.val) a.toNat 8)), openLines s (swqGen' s s.hart.val) a.toNat 8) := by
  simp only [swqLoad, Swq.bind, swqBytes_of hv hs ha hp h, Swq.pure]

theorem natBytes_length (n x : Nat) : (natBytes n x).length = n := by
  induction n generalizing x with
  | zero => rfl
  | succ n ih => simp [natBytes, ih]

/-- A word written to addresses that the engine may access. -/
theorem swqStore_of {s : State} {a : Word} (v : Word) (hv : s.plainView = true) (hs : a.toNat % 4096 + 8 ≤ 4096)
    (ha : (swqAddr a.toNat && swqAddr (a.toNat + 8 - 1)) = true) :
    swqStore a v s = .ok ((), helmWrite s (swqGen' s s.hart.val) a.toNat (natBytes 8 v.toNat)) := by
  rw [Bool.and_eq_true] at ha
  have ha2 : swqAddr (a.toNat + 7) = true := ha.2
  have hb := natBytes_length 8 v.toNat
  have ht : (natBytes 8 v.toNat).take 8 = natBytes 8 v.toNat := List.take_of_length_le (by omega)
  simp [swqStore, swqStoreBytes, hb, spans_one hs, swqWriteAll, swqWritePiece, Swq.andThen, Swq.bind, Swq.pure, swqPlace_plain hv, ha.1, ha2, ht]

/-- The count of a value that is no pointer is not kept. -/
theorem takeCount_plain {v : Word} (h : vKind v ≠ .pointer) (s : State) : takeCount v s = .ok ((), s) := by
  simp [takeCount, h, Swq.pure]

/-- Releasing a value that is no pointer does nothing. -/
theorem releaseAll_plain {v : Word} (h : vKind v ≠ .pointer) (s : State) : releaseAll v s = .ok ((), s) := by
  have e : todoFuel = (todoFuel - 1) + 1 := by decide +kernel
  unfold releaseAll
  rw [e]
  simp only [todoAll, todoStep, release, h, ne_eq, not_false_eq_true, if_true, Swq.bind, Swq.pure, List.nil_append]

end Sys2Proof.Machine
end

