-- ==== Sys2Proof/Tests/Slice0.lean ====
section
/-! SUPPORT. Tests: words decoded by hand, ill-formed terms that the checks refuse, small steps, and for each statement with hypotheses a
state and operands that meet them. -/

namespace Sys2Proof.Tests

set_option Elab.async false


open Sys2Proof Sys2Proof.Machine
-- Rigs ----------------------------------------------------------------------------------------------------------------------------

/-- Slot k of core 0 holds a thread and executes; the other slots are Empty. -/
def rigAt (k : Fin 16) (t : Thread) : State :=
  { State.reset with agenda := [], slot := k, cores := [(0, { slots := (Vector.replicate 16 ({} : Thread)).set k.val t k.isLt })] }

/-- Slot 2 of core 0 holds a thread and executes. -/
def rig (t : Thread) : State := rigAt 2 t

/-- A Runnable thread at address 64. -/
def thr : Thread := { st := .runnable, pc := 64 }

/-- A segment descriptor: base word, kind, rights, limit. -/
def seg (w0 : Word) (kind rights : BitVec 3) (limit : BitVec 53) : Seg :=
  { w0 := w0, w1 := (0 : BitVec 5) ++ kind ++ rights ++ limit }

/-- A thread whose segment 2 is a descriptor. -/
def segThr (g : Seg) : Thread := { thr with sg := (Vector.replicate 8 ({} : Seg)).set 2 g }

/-- Core 0 as a rig has it, changed. -/
def withCore (s : State) (f : Core → Core) : State := { s with cores := s.cores.map fun p => (p.1, f p.2) }

/-- Hart 0 running, the lockhouse ready. -/
def helmRig (x : Hart) : State := { State.reset with agenda := [], lock := { ready := true }, harts := [(0, { x with running := true })] }

/-- A Sweiq engine running on hart 0, with words in memory. -/
def swqRig (ws : List (Nat × Word)) : State :=
  let s := helmRig { swq := { running := true, frame := 0x10000, bpc := 0x30000 } }
  { s with mem := ws.foldl (fun m p => Memory.write m p.1 (natBytes 8 p.2.toNat)) s.mem }

-- Witnesses: encodings and the step -------------------------------------------------------------------------------------------------

theorem witness_ReservedMajorsRefused : (fld (0x88000000 : W32) 26 6).toNat ∈ [0x00, 0x0E, 0x0F, 0x22, 0x23] ∧
    0x38 ≤ (fld (0xE0000000 : W32) 26 6).toNat ∧ 0x38 ≤ (fld (0xFFFFFFFF : W32) 26 6).toNat := by decide

theorem witness_EncodeDecodeCompute :
    let i : Instr := .add (.w 3) (.w 4) (.lit32 100000) .x64
    wellFormed i = true ∧ isCompute i = true ∧ (literals i).isPrefixOf [100000, 7] = true := by decide

theorem witness_EncodeDecodeBytecode : wellFormed (.swqAdd true 0x181 0x212 0x334) = true ∧ isBytecode (.swqAdd true 0x181 0x212 0x334) = true := by
  decide

theorem witness_EncodeDecodeHelm : isHelm (.swqRun 5 6 7) = true := by decide

/-- A hart's fetch gives a word. -/
def helmWordIs (w : W32) : HelmFetch → Bool
  | .word v _ => v == w
  | _ => false

/-- An engine's fetch gives bytes that decode to a bytecode. -/
def swqInsIs (i : Instr) : SwqFetch → Bool
  | .bytes _ bs _ => (decodeBytes bs).toOption == some i
  | _ => false

theorem witness_StepRunsDecoded :
    (let s := placeCore { State.reset with agenda := [] } (natBytes 4 0x0402CCD4)
     s.power = true ∧ s.agenda = .issue 0 0 :: [] ∧ issues { s with agenda := [] } 0 0 = true ∧ failedRelaxed (s.thread 0 0) = none ∧
       (s.thread 0 0).tow = .none ∧ fetch { s with agenda := [] } 0 0 = .ins 0x0402CCD4 0 0 ∧
       decode32 0x0402CCD4 0 0 = .ok (.add (.w 3) (.w 4) (.small 5) .x64)) ∧
    (let s := placeHelm { State.reset with agenda := [] } (natBytes 4 0x0073028B)
     s.power = true ∧ s.agenda = .hart 0 :: [] ∧ helmWordIs 0x0073028B (helmFetch { s with agenda := [] } 0) = true ∧
       decodeHelm 0x0073028B = .ok (.swqRun 5 6 7)) ∧
    (let s := placeSwq { State.reset with agenda := [] } [0x0C, 1, 2, 3]
     s.power = true ∧ s.agenda = .swq 0 :: [] ∧
       swqInsIs (.swqAdd false 1 2 3) (swqFetch { s with agenda := [] } 0) = true) ∧
    (let s := State.reset
     s.power = true ∧ s.agenda = .event (.powerOn fullPart) :: [] ∧ isEvent (.powerOn fullPart) = true) := by
  refine ⟨⟨rfl, rfl, by decide +kernel, by decide +kernel, by decide +kernel, by decide +kernel, rfl⟩, ⟨by decide +kernel, by decide +kernel, by decide +kernel, rfl⟩, ⟨by decide +kernel, by decide +kernel, by decide +kernel⟩,
    ⟨rfl, rfl, rfl⟩⟩

/-- Slot 0 is a motor about to issue, and slot 3 its butty with a buffer. -/
def motorRig (k : Fin 16) (buf : List Forwarded) : State :=
  { withCore (placeCore { State.reset with agenda := [] } (natBytes 4 0x0402CCD4)) (fun x =>
      { x with
        last := if k = 0 then 15 else 2
        slots := (x.slots.set 0 { x.slots.get 0 with tow := .motor 1 8 }).set 3 { st := .runnable, tow := .butty 1, fwd := buf } }) with
    agenda := [.issue 0 k] }

theorem witness_StepRunsDecoded_tow :
    (let s := motorRig 0 []
     let u := { s with agenda := [] }
     s.power = true ∧ s.agenda = .issue 0 0 :: [] ∧ issues u 0 0 = true ∧ failedRelaxed (s.thread 0 0) = none ∧
       (s.thread 0 0).tow = .motor 1 8 ∧ 8 ≠ (s.thread 0 0).pc ∧ fetch u 0 0 = .ins 0x0402CCD4 0 0) ∧
    (let s := motorRig 3 [{ ins := .endT, word := 0, pc := 4, outcome := 8 }]
     s.power = true ∧ issues { s with agenda := [] } 0 3 = true ∧ failedRelaxed (s.thread 0 3) = none ∧
       (s.thread 0 3).tow = .butty 1 ∧ (s.thread 0 3).fwd ≠ []) := by decide +kernel

theorem witness_StepRunsDecoded_helm :
    (let s := placeHelm { State.reset with agenda := [] } (natBytes 4 0x00000013)
     helmWordIs 0x00000013 (helmFetch { s with agenda := [] } 0) = true ∧ isCustom0 0x00000013 = false) ∧
    (match helmFetch (helmRig { pc := 2 ^ 63 }) 0 with | .fault _ => true | _ => false) = true ∧
    cycleOver { State.reset with agenda := [], coreInit := { State.reset.coreInit with issuedAt := 1 } } = true := by decide +kernel

/-- A word that is no instruction, at the pc of slot 0. -/
theorem witness_StepRunsDecoded_undecodable :
    let s := placeCore { State.reset with agenda := [] } (natBytes 4 0x88000000)
    s.power = true ∧ s.agenda = .issue 0 0 :: [] ∧ issues { s with agenda := [] } 0 0 = true ∧ failedRelaxed (s.thread 0 0) = none ∧
      (s.thread 0 0).tow = .none ∧ fetch { s with agenda := [] } 0 0 = .ins 0x88000000 0 0 ∧ decode32 0x88000000 0 0 = .error .reservedMajor := by
  refine ⟨rfl, rfl, by decide +kernel, by decide +kernel, by decide +kernel, by decide +kernel, rfl⟩

/-- Slots 0 and 2 of core 0 may issue, the last issue was slot 15's, and slot 0 has yielded or not. -/
def turnRig (y : Bool) : State :=
  withCore (placeCore { State.reset with agenda := [] } (natBytes 4 0x0402CCD4)) fun x =>
    let t : Thread := { st := .runnable, tow := .butty 1, fwd := [{ ins := .endT, word := 0, pc := 4, outcome := 8 }] }
    { x with slots := (x.slots.set 0 { x.slots.get 0 with yielding := y }).set 2 t }

theorem witness_SlotTurns : (let s := turnRig false
      present s 0 = true ∧ s.opens (issueShare s.lock.level) = true ∧ (s.getCore 0).issuedAt ≠ s.clk + 1 ∧ eligible s 0 0 = true ∧
        eligible s 0 2 = true ∧ (∀ j, eligible s 0 j = true → (0 + 15 - (s.getCore 0).last.val) % 16 ≤ (j.val + 15 - (s.getCore 0).last.val) % 16)) ∧
    (let s := turnRig true
     eligible s 0 0 = true ∧ (s.thread 0 0).yielding = true ∧ eligible s 0 2 = true) ∧
    (∀ j, eligible (rigAt 2 {}) 0 j = false) := by decide +kernel

theorem witness_StepGoesOn : State.reset.power = true := rfl

theorem witness_PowerRemovedStops : ({ State.reset with power := false }).power = false ∧ 115 ≤ (115 : Byte).toNat := by decide

-- Witnesses: operands and scalar instructions ------------------------------------------------------------------------------------------

/-- Queue 1 is enabled, slot 2 consumes it and slots 2 and 3 produce, with entries and live producers. -/
def queueRig (l : List Word) (p : Half) : State :=
  withCore (rig thr) fun x => { x with queues := x.queues.set 1 { producers := 0xC, consumer := 2, enabled := true, entries := l, tokens := p } }

/-- A thread with a port 1 that holds elements and an outstanding command. -/
def portRig (l : List (Nat × Word)) (o : List Outstanding) (st : List Word) : State :=
  rig { thr with ports := (Vector.replicate 4 ({} : Port)).set 1 { out := o, staging := st, elems := l } }

theorem witness_OperandReads : plainSrc (.g 3) = true ∧ ((queueRig [5, 6] 0).myCore.queue 1).entries = 5 :: [6] ∧
    ((queueRig [] 0).myCore.queue 1).entries = [] ∧ ((portRig [(1, 9)] [] []).me.ports.get 1).elems = (1, 9) :: [] := by decide +kernel

theorem witness_PlainOperandsReady : (instrSrcs (.add (.g 1) (.g 2) (.small 3) .x64)).all plainSrc = true ∧
    (∀ d, instrDst (.add (.g 1) (.g 2) (.small 3) .x64) = some d → plainDst d = true) ∧ (rig thr).me.relaxed = [] := by
  refine ⟨by decide, ?_, by decide⟩
  intro d h
  cases h
  rfl

theorem witness_QueueAndPortStops : (rig thr).me.relaxed = [] ∧ ((rig thr).myCore.queue 1).enabled = false ∧ plainDst (.g 1) = true ∧
    (queueRig [] 0).me.relaxed = [] ∧ ((queueRig [] 0).myCore.queue 1).enabled = true ∧
    ((queueRig [] 0).myCore.queue 1).consumer = (queueRig [] 0).slot ∧ ((queueRig [] 0).myCore.queue 1).entries = [] ∧
    ((queueRig [] 0).myCore.queue 1).drained = false ∧ mayWrite ((rig thr).myCore.queue 1) (rig thr).slot = false ∧ plainSrc (.g 2) = true ∧
    mayWrite ((queueRig (List.replicate 16 7) 0).myCore.queue 1) (queueRig (List.replicate 16 7) 0).slot = true ∧
    16 ≤ ((queueRig (List.replicate 16 7) 0).myCore.queue 1).entries.length ∧
    ((rig thr).me.ports.get 1).elems = [] ∧ ((rig thr).me.ports.get 1).out.any Outstanding.element = false ∧
    ((portRig [] [{ cmd := 1, element := true, bell := false, done := false }] []).me.ports.get 1).out.any Outstanding.element = true := by
  decide +kernel

theorem witness_ResultGoes : plainDst (.g 1) = true ∧ ((queueRig (List.replicate 15 7) 0).myCore.queue 1).entries.length < 16 ∧
    ((portRig [] [] [1, 2, 3, 4, 5, 6]).me.ports.get 1).staging.length < 7 := by decide +kernel

/-- A relaxed load in flight through segment 2. -/
def access (op : MemOp) (kind addr : Nat) : Access :=
  { op := op, sg := 2, off := 0, disp := 0, data := 5, exp := 0, kind := kind, addr := addr, owner := 0, pc := 64, iword := 0, len := 4 }

theorem witness_RelaxedAccessHolds : (rig { thr with relaxed := [{ acc := access (.ld .s64 false (.g 3)) 2 0 }] }).me.relaxed ≠ [] ∧
    waitsRelaxed (.fenceSc .die) = true ∧ waitsRelaxed (.st .s8 false 2 (.g 1) (.g 2) 0) = true := by decide +kernel

theorem witness_ArithmeticResults : Ready (rig thr) (.add (.g 1) (.g 2) (.small 3) .x64) ∧ Ready (rig thr) (.sub (.w 23) (.lit64 8) (.w 0) .x8) ∧
    Ready (rig thr) (.mul (.g 1) (.g 2) (.small 3) .x32) ∧ Ready (queueRig [5] 0) (.mulhI (.g 1) (.q 1) (.small 3) .x16) ∧
    Ready (queueRig [5] 0) (.mulhN (.q 1) (.g 2) (.small 3) .x64) ∧ Ready (rig thr) (.minI (.g 1) (.g 2) (.small 3) .x64) ∧
    Ready (rig thr) (.maxI (.g 1) (.g 2) (.small 3) .x64) ∧ Ready (rig thr) (.minN (.g 1) (.g 2) (.small 3) .x64) ∧
    Ready (rig thr) (.maxN (.g 1) (.g 2) (.small 3) .x64) := by unfold Ready; decide +kernel

theorem witness_LogicAndShiftResults : Ready (rig thr) (.and (.g 1) (.g 2) (.small 3) .x64) ∧ Ready (rig thr) (.or (.g 1) (.g 2) (.w 3) .x64) ∧
    Ready (rig thr) (.xor (.g 1) (.g 2) (.w 3) .x64) ∧ Ready (rig thr) (.andn (.g 1) (.g 2) (.w 3) .x64) ∧ Ready (rig thr) (.shl (.g 1) (.g 2) (.w 3) .x64) ∧
    Ready (rig thr) (.shrN (.g 1) (.g 2) (.w 3) .x8) ∧ Ready (rig thr) (.shrI (.g 1) (.g 2) (.w 3) .x64) ∧ Ready (rig thr) (.rot (.g 1) (.g 2) (.w 3) .x64) := by
  unfold Ready; decide +kernel

theorem witness_CompareAndSelectResults : Ready (rig thr) (.cmp .geI (.g 1) (.g 2) (.w 3) .x64) ∧ Ready (rig thr) (.sel (.g 1) (.g 2) (.w 3) .x64) := by
  unfold Ready; decide +kernel

theorem witness_BitAndFieldResults : Ready (rig thr) (.clz (.g 1) (.g 2) .x64) ∧ Ready (rig thr) (.ctz (.g 1) (.g 2) .x64) ∧
    Ready (rig thr) (.popc (.g 1) (.g 2) .x64) ∧ Ready (rig thr) (.extN (.g 1) (.g 2) (.small 3) .x64) ∧ Ready (rig thr) (.extI (.g 1) (.g 2) (.small 3) .x64) ∧
    Ready (rig thr) (.ins (.g 1) (.g 2) (.small 3) .x64) ∧ Ready (rig thr) (.lea 3 (.g 1) (.g 2) (.small 3) .x64) ∧ Ready (rig thr) (.mov (.g 1) (.g 2) .x64) := by
  unfold Ready; decide +kernel

/-- A thread whose divide was due at cycle 0. -/
def divided : State := rig { thr with st := .removed (.divide (.g 1) 9 0) }

theorem witness_DivideResults : Ready (rig thr) (.divI (.g 1) (.g 2) (.small 3) .x64) ∧ Ready (rig thr) (.remI (.g 1) (.g 2) (.g 3) .x8) ∧
    Ready (rig thr) (.divN (.g 1) (.g 2) (.small 3) .x64) ∧ Ready (rig thr) (.remN (.g 1) (.g 2) (.small 3) .x64) ∧
    (divided.thread 0 2).st = .removed (.divide (.g 1) 9 0) ∧ 0 ≤ divided.clk ∧ plainDst (.g 1) = true := by
  unfold Ready; decide +kernel

theorem witness_SpecialRegisters : SReg.tid.keeperOnly = false ∧ Ready (rig thr) (.rds (.g 1) .tid) ∧ (rigAt 0 thr).slot = 0 ∧
    Ready (rigAt 0 thr) (.rds (.g 1) .kca) ∧ Ready (rig thr) (.wrs .bh (.g 1)) ∧ Ready (rigAt 0 thr) (.wrs .lvl (.g 1)) ∧
    SReg.kpc.keeperOnly = true ∧ (rig thr).slot ≠ 0 := by unfold Ready; decide +kernel

theorem witness_SpecialRegisters_saved : (let s := withCore (rigAt 0 thr) fun x =>
      { x with ksl := 3, slots := x.slots.set 3 { st := .parked { cause := 0x0A } } }
     s.myCore.selected = 3 ∧ (s.myCore.slots.get 3).st = .parked { cause := 0x0A }) ∧
    (let s := withCore (rigAt 0 thr) fun x => { x with ksl := 15, weir := { x.weir with owner := some 15 } }
     s.myCore.selected = 15 ∧ (s.myCore.slots.get 15).st = .empty ∧ s.myCore.weir.owner = some 15) := by decide +kernel

theorem witness_ScalarFrame : isScalar (.add (.g 1) (.g 2) (.small 3) .x64) = true ∧ ∃ t, exec (.add (.g 1) (.g 2) (.small 3) .x64) (rig thr) = .next t :=
  ⟨by decide, ⟨_, rfl⟩⟩

-- Witnesses: control -----------------------------------------------------------------------------------------------------------------

theorem witness_Branches : Ready (rig thr) (.br .eq (.g 1) (.g 2) 5) ∧ Ready (rig thr) (.bz (.g 1) 5) ∧ Ready (rig thr) (.bnz (.g 1) 5) ∧
    Ready (rig thr) (.jmp (.lit32 128)) ∧ (val1 (rig thr) (.lit32 128)).toNat % 4 = 0 ∧ (val1 (rig thr) (.lit32 3)).toNat % 4 ≠ 0 := by
  unfold Ready; decide +kernel

theorem witness_Branches_conditions : ConditionHolds .eq .x64 (val1 (rig thr) (.g 1)) (val2 (rig thr) (.g 1) (.g 2)) ∧
    ¬ ConditionHolds .ltN .x64 (val1 (rig thr) (.g 1)) (val2 (rig thr) (.g 1) (.g 2)) := by
  unfold ConditionHolds; decide +kernel

/-- A frame with a link. -/
def frame1 : List Word := List.replicate 15 0 ++ [256]

theorem witness_CallsAndReturns : (rig thr).me.older.length < 3 ∧ Ready (rig thr) (.call 5) ∧ Ready (rig thr) (.callr (.lit32 128)) ∧
    (val1 (rig thr) (.lit32 128)).toNat % 4 = 0 ∧ (after1 (rig thr) (.lit32 128)).me.older.length < 3 ∧
    (rig { thr with older := [frame1, frame1], depth := 2 }).me.older.length < 3 ∧ Ready (rig { thr with depth := 1, older := [frame1] }) .ret ∧
    (rig { thr with depth := 1, older := [frame1] }).me.depth ≠ 0 ∧ (rig { thr with depth := 1, older := [frame1] }).me.older = frame1 :: [] ∧
    (frame1.getD 15 0).toNat % 4 = 0 ∧ Ready (rig thr) .ret ∧ (rig thr).me.depth = 0 := by unfold Ready; decide +kernel

theorem witness_CallsAndReturns_traps : Ready (rig thr) (.callr (.lit32 130)) ∧ (val1 (rig thr) (.lit32 130)).toNat % 4 ≠ 0 ∧
    (let s := rig { thr with depth := 1, older := [List.replicate 16 2] }
     Ready s .ret ∧ s.me.depth ≠ 0 ∧ s.me.older = List.replicate 16 2 :: [] ∧ ((List.replicate 16 (2 : Word)).getD 15 0).toNat % 4 ≠ 0) := by
  unfold Ready; decide +kernel

theorem witness_Branches_outcome : ({ thr with tow := .butty 1 } : Thread).isButty = true ∧
    ({ thr with tow := .butty 1, fwd := [{ ins := .endT, word := 0, pc := 64, outcome := 128, taken := true }] } : Thread).fwd ≠ [] := by
  decide

/-- A thread whose sg1 gives its window stack 1024 bytes of the local store at 4096. -/
def stackThr (t : Thread) : Thread := { t with sg := (Vector.replicate 8 ({} : Seg)).set 1 (seg 4096 0 7 1024) }

/-- Four windows on chip. -/
def fullThr : Thread := stackThr { thr with depth := 3, older := [frame1, frame1, frame1] }

theorem witness_WindowSpillAndFill : Ready (rig fullThr) (.call 5) ∧ 3 ≤ (rig fullThr).me.older.length ∧ (rig fullThr).me.spillAt = some 4096 ∧
    (let t := stackThr { thr with depth := 1, wsp := 128 }
     Ready (rig t) .ret ∧ (rig t).me.depth ≠ 0 ∧ (rig t).me.older = [] ∧ (rig t).me.fillAt = some 4096) ∧
    (let s := rig { fullThr with st := .removed (.window (.spill 512 68) 0) }
     (s.thread 0 2).st = .removed (.window (.spill 512 68) 0) ∧ (s.thread 0 2).spillAt = some 4096 ∧
       (s.thread 0 2).older.getLast?.map List.length = some 16 ∧ (s.thread 0 2).dogDue = false ∧ (s.thread 0 2).parkDue = false ∧
       failedRelaxed (s.thread 0 2) = none ∧ graceOver s (s.thread 0 2).tag = false ∧ Machine.Inv s) ∧
    (let s := rig (stackThr { thr with depth := 1, wsp := 128, st := .removed (.window .fill 0) })
     (s.thread 0 2).st = .removed (.window .fill 0) ∧ (s.thread 0 2).fillAt = some 4096 ∧ ((frameWords s 0 4096).getD 15 0).toNat % 4 = 0 ∧
       (s.thread 0 2).dogDue = false ∧ (s.thread 0 2).parkDue = false ∧ failedRelaxed (s.thread 0 2) = none ∧
       graceOver s (s.thread 0 2).tag = false) := by unfold Ready Machine.Inv; decide +kernel

/-- Four windows on chip and no window stack; one window and nothing below. -/
theorem witness_WindowSpillAndFill_traps :
    (let s := rig { thr with depth := 3, older := [frame1, frame1, frame1] }
     Ready s (.call 5) ∧ Ready s (.callr (.lit32 128)) ∧ 3 ≤ (after1 s (.lit32 128)).me.older.length ∧ s.me.spillAt = none ∧
       (val1 s (.lit32 128)).toNat % 4 = 0) ∧
    (let s := rig { thr with depth := 1, wsp := 128 }
     Ready s .ret ∧ s.me.depth ≠ 0 ∧ s.me.older = [] ∧ s.me.fillAt = none) ∧
    Ready (rig fullThr) (.callr (.lit32 128)) ∧ (after1 (rig fullThr) (.lit32 128)).me.spillAt = some 4096 := by unfold Ready; decide +kernel

theorem witness_ThreadControl : Ready (rig thr) .endT ∧ (rig thr).slot ≠ 0 ∧ Ready (rigAt 0 thr) .endT ∧ (rigAt 0 thr).slot = 0 ∧ (rigAt 0 thr).me.st = .runnable ∧
    Ready (rig { thr with ev := 2 }) (.wait (.small 0)) ∧ (after1 (rig { thr with ev := 2 }) (.small 0)).me.ev &&& BitVec.allOnes 64 ≠ 0 ∧
    val1 (rig thr) (.small 0) = 0 ∧ Ready (rig thr) (.wait (.small 5)) ∧ (after1 (rig thr) (.small 5)).me.ev &&& val1 (rig thr) (.small 5) = 0 ∧
    Ready (rig thr) (.alarm (.g 1)) := by unfold Ready; decide +kernel

theorem witness_AlarmTimeoutAndRetirement :
    (let s := rig { thr with alarm := 1 }
     ((withCore s id).thread 0 2).st ≠ .empty ∧ (s.thread 0 2).alarm ≠ 0 ∧ (s.thread 0 2).alarm.toNat ≤ { s with clk := 1 }.clk) ∧
    (let s := { rig { thr with st := .blocked (.wait 1 4) } with clk := 4097 }
     (s.thread 0 2).st = .blocked (.wait 1 4) ∧ (s.thread 0 2).since + 4096 < s.clk) ∧
    (let s := rig { thr with st := .removed .ending }
     (s.thread 0 2).st = .removed .ending ∧ (s.thread 0 2).relaxed = [] ∧ (s.thread 0 2).serving = none ∧ (s.thread 0 2).tow = .none ∧
       (s.thread 0 0).st ≠ .removed .kfence) ∧
    (let s := { rig { thr with st := .blocked (.bar 7 4) } with clk := 4097 }
     (s.thread 0 2).st = .blocked (.bar 7 4) ∧ (s.thread 0 2).since + 4096 < s.clk) ∧
    blockedLong (rig thr).me = false ∧ freeGeneral (rig thr) 0 = some 3 := by decide +kernel

-- Witnesses: memory ----------------------------------------------------------------------------------------------------------------------

/-- A load, store and atomic of 8 bytes at offset 0. -/
def ld8 : MemOp := .ld .s64 false (.g 1)
def st8 : MemOp := .st .s64

/-- A check has a result. -/
def okIs (x : Except Nat Nat) (a : Nat) : Bool := x.toOption == some a
/-- A check fails with a cause. -/
def errIs (x : Except Nat Nat) (c : Nat) : Bool :=
  match x with
  | .error e => e == c
  | .ok _ => false

theorem okIs_iff {x : Except Nat Nat} {a : Nat} : okIs x a = true → x = .ok a := by
  cases x <;> simp [okIs, Except.toOption]

theorem errIs_iff {x : Except Nat Nat} {c : Nat} : errIs x c = true → x = .error c := by
  cases x <;> simp [errIs]

/-- Each outcome of the check at the edge of its range: no rights, the byte above the limit, the top of the local store, a misaligned offset, and
the last word that passes. -/
theorem witness_SegmentChecks :
    checkAccess (rig thr) (seg 0 0 2 64) ld8 0 0 = .error 0x04 ∧ checkAccess (rig thr) (seg 0 4 7 64) ld8 0 0 = .error 0x04 ∧
    checkAccess (rig thr) (seg 0 0 3 64) ld8 57 0 = .error 0x03 ∧ checkAccess (rig thr) (seg 262136 0 3 64) ld8 8 0 = .error 0x05 ∧
    checkAccess (rig thr) (seg 0xF000000000000000 1 3 64) ld8 0 0 = .error 0x05 ∧
    checkAccess (rig thr) (seg 0x20000000 2 3 64) ld8 0 0 = .error 0x05 ∧ checkAccess (rig thr) (seg 0 0 3 64) ld8 4 0 = .error 0x06 ∧
    checkAccess (rig thr) (seg 262136 0 3 64) ld8 0 0 = .ok 262136 ∧ checkAccess (rig thr) (seg 0 0 3 64) ld8 0 56 = .ok 56 := by
  refine ⟨errIs_iff ?_, errIs_iff ?_, errIs_iff ?_, errIs_iff ?_, errIs_iff ?_, errIs_iff ?_, errIs_iff ?_, okIs_iff ?_, okIs_iff ?_⟩ <;>
    decide +kernel

/-- Segment 2 empty: every access through it traps 0x04. -/
theorem witness_SegmentChecks_traps : Ready (rig thr) (.ld .s64 false false 2 (.g 1) (.g 2) 0) ∧ Ready (rig thr) (.st .s64 false 2 (.g 1) (.g 2) 0) ∧
    Ready (rig thr) (.vld .s8 1 false 2 3 (.g 2) 0) ∧ Ready (rig thr) (.vst .s8 1 false 2 3 (.g 2) 0) ∧
    Ready (rig thr) (.amo .add true 2 (.g 1) (.g 2) 0) ∧ Ready (rig thr) (.bop .addF32 2 3 (.g 2) 0) ∧
    checkAccess (after1 (rig thr) (.g 2)) ((after1 (rig thr) (.g 2)).me.sg.get 2) (.ld .s64 false (.g 1)) (val1 (rig thr) (.g 2)) 0 = .error 0x04 ∧
    checkAccess (after2 (rig thr) (.g 1) (.g 2)) ((after2 (rig thr) (.g 1) (.g 2)).me.sg.get 2) (.st .s64) (val2 (rig thr) (.g 1) (.g 2)) 0 = .error 0x04 ∧
    checkAccess (after1 (rig thr) (.g 2)) ((after1 (rig thr) (.g 2)).me.sg.get 2) (.bop .addF32 0) (val1 (rig thr) (.g 2)) 0 = .error 0x04 := by
  refine ⟨?_, ?_, ?_, ?_, ?_, ?_, errIs_iff ?_, errIs_iff ?_, errIs_iff ?_⟩ <;> (try unfold Ready) <;> decide +kernel

/-- A thread with 64 bytes of the local store at 4096 as segment 2, rights R and W. -/
def lsThr : Thread := segThr (seg 4096 0 3 64)

theorem witness_LocalLoads : Ready (rig lsThr) (.ld .s64 false false 2 (.g 1) (.g 2) 7) ∧ ((rig lsThr).me.sg.get 2).kind = 0 ∧
    checkAccess (after1 (rig lsThr) (.g 2)) ((rig lsThr).me.sg.get 2) (.ld .s64 false (.g 1)) (val1 (rig lsThr) (.g 2)) 56 = .ok 4152 ∧
    poisoned (after1 (rig lsThr) (.g 2)) (lsKey 0 4152) 8 = false ∧
    poisoned { rig lsThr with poison := [lsKey 0 4152 / 64] } (lsKey 0 4152) 8 = true ∧
    Ready (rig lsThr) (.vld .s8 1 true 2 3 (.g 2) 0) ∧
    checkAccess (after1 (rig lsThr) (.g 2)) ((rig lsThr).me.sg.get 2) (.vld .s8 0 3) (val1 (rig lsThr) (.g 2)) 0 = .ok 4096 ∧
    (∀ i, i < 64 / 1 → bit ((rig lsThr).me.mask 1) i = true → poisoned (rig lsThr) (lsKey 0 4096 + 1 * i) 1 = false) ∧
    (let u := { rig { lsThr with m := Vector.replicate 4 (BitVec.allOnes 64) } with poison := [lsKey 0 4096 / 64] }
     bit (u.me.mask 1) 63 = true ∧ poisoned u (lsKey 0 4096 + 1 * 63) 1 = true) := by
  refine ⟨?_, ?_, okIs_iff ?_, ?_, ?_, ?_, okIs_iff ?_, ?_, ?_⟩ <;> (try unfold Ready) <;> decide +kernel

theorem witness_LocalStoresAndAtomics : Machine.Inv (rig lsThr) ∧ Ready (rig lsThr) (.st .s16 true 2 (.g 1) (.g 2) 31) ∧
    checkAccess (rig lsThr) ((rig lsThr).me.sg.get 2) (.st .s16) (val2 (rig lsThr) (.g 1) (.g 2)) 62 = .ok 4158 ∧
    Ready (rig lsThr) (.vst .s8 1 false 2 3 (.g 2) 0) ∧
    checkAccess (rig lsThr) ((rig lsThr).me.sg.get 2) (.vst .s8 1 0) (val1 (rig lsThr) (.g 2)) 0 = .ok 4096 ∧
    Ready (rig lsThr) (.amo .cas true 2 (.g 1) (.g 2) 7) ∧
    checkAccess (rig lsThr) ((rig lsThr).me.sg.get 2) (.amo .cas true (.g 1)) (val2 (rig lsThr) (.g 1) (.g 2)) 56 = .ok 4152 ∧
    poisoned (rig lsThr) (lsKey 0 4152) 8 = false ∧ ((rig lsThr).me.sg.get 2).kind = 0 ∧ plainDst (.g 1) = true ∧
    poisoned { rig lsThr with poison := [lsKey 0 4152 / 64] } (lsKey 0 4152) 8 = true := by
  refine ⟨?_, ?_, okIs_iff ?_, ?_, okIs_iff ?_, ?_, okIs_iff ?_, ?_, ?_, ?_, ?_⟩ <;> (try unfold Ready) <;> (try unfold Machine.Inv) <;> decide +kernel

/-- Segments of kinds 1, 2 and 3 that core 1, die 0 and a DVA back. -/
def distant (kind : BitVec 3) : State :=
  { rig (segThr (seg (if kind = 1 then 0x0001000000000000 else 0) kind 7 64)) with dies := [(0, { size := 8 })] }

theorem witness_DistantAccesses : Ready (distant 1) (.ld .s64 false false 2 (.g 1) (.g 2) 0) ∧ ((distant 1).me.sg.get 2).kind ≠ 0 ∧
    checkAccess (after1 (distant 1) (.g 2)) ((after1 (distant 1) (.g 2)).me.sg.get 2) (.ld .s64 false (.g 1)) (val1 (distant 1) (.g 2)) 0 = .ok 0 ∧
    checkAccess (after1 (distant 2) (.g 2)) ((after1 (distant 2) (.g 2)).me.sg.get 2) (.ld .s64 false (.g 1)) (val1 (distant 2) (.g 2)) 0 = .ok 0 ∧
    checkAccess (after1 (distant 3) (.g 2)) ((after1 (distant 3) (.g 2)).me.sg.get 2) (.ld .s64 false (.g 1)) (val1 (distant 3) (.g 2)) 0 = .ok 0 ∧
    Ready (distant 3) (.ld .s64 false true 2 (.g 1) (.g 2) 0) ∧ ((distant 1).me.sg.get 2).kind = 1 ∧ ((distant 3).me.sg.get 2).kind ≠ 1 ∧
    (distant 1).me.remoteBusy = false := by
  refine ⟨?_, ?_, okIs_iff ?_, okIs_iff ?_, okIs_iff ?_, ?_, ?_, ?_, ?_⟩ <;> (try unfold Ready) <;> decide +kernel

/-- A leaf of page 0 with all rights and the frame at 1 MiB. -/
def leaf0 : Leaf := { asid := 0, page := 0, large := false, leaf := 0x0000000004000 <<< 12 ||| 0x1F, entry := 0, dirty := false }

/-- A thread that waits for the reply to an access, page 0 cached if asked. -/
def waiting (x : Access) (l : List Leaf) : State :=
  { rig { thr with st := .removed (.mem x) } with clusters := [(0, { leaves := l })] }

theorem witness_MemoryReplies :
    (let x := access ld8 2 0
     ((waiting x []).thread 0 2).st = .removed (.mem x) ∧ x.kind = 2 ∧ Calm (waiting x []) 0 2 ∧ plainDst (.g 1) = true ∧
       poisoned (waiting x []) (basinKey 0 0) 8 = false ∧ Machine.Inv (waiting x []) ∧
       poisoned { waiting x [] with poison := [basinKey 0 0 / 64] } (basinKey 0 0) 8 = true) ∧
    (let x := access st8 2 0
     ((waiting x []).thread 0 2).st = .removed (.mem x) ∧ Calm (waiting x []) 0 2) ∧
    (let x := access (.amo .add true (.g 1)) 2 0
     ((waiting x []).thread 0 2).st = .removed (.mem x) ∧ Calm (waiting x []) 0 2 ∧ poisoned (waiting x []) (basinKey 0 0) 8 = false) ∧
    (let x := access (.bop .addF32 5) 2 0
     ((waiting x []).thread 0 2).st = .removed (.mem x) ∧ Calm (waiting x []) 0 2 ∧ poisoned (waiting x []) (basinKey 0 0) 64 = false) ∧
    (let x := access ld8 3 0
     let s := waiting x [leaf0]
     (s.thread 0 2).st = .removed (.mem x) ∧ x.kind = 3 ∧ firstBad s 0 (asidOf s (s.thread 0 2) 2) 0 x.pages = none ∧
       x.busy s 0 (asidOf s (s.thread 0 2) 2) = false ∧ Calm s 0 2 ∧ dvaPoisoned s 0 (asidOf s (s.thread 0 2) 2) 0 8 = false) ∧
    (let x := access ld8 3 0
     let s := waiting x [{ leaf0 with leaf := 0x1B }]
     firstBad s 0 (asidOf s (s.thread 0 2) 2) 0 x.pages = some (0, some 2)) ∧
    (let x := access ld8 3 0
     let s := waiting x []
     firstBad s 0 (asidOf s (s.thread 0 2) 2) 0 x.pages = some (0, none)) := by unfold Calm Machine.Inv; decide +kernel

/-- A leaf of page 0 that names the Basin of die 0. -/
def leafB : Leaf := { leaf0 with leaf := 2 <<< 8 ||| 0x1F }

theorem witness_MemoryReplies_vectors :
    (let x := access (.vld .s8 (BitVec.allOnes 64) 3) 2 0
     let s := waiting x []
     (s.thread 0 2).st = .removed (.mem x) ∧ Calm s 0 2 ∧
       (∀ i, i < 64 / 1 → bit (BitVec.allOnes 64) i = true → poisoned s (basinKey 0 0 + 1 * i) 1 = false)) ∧
    (let x := access (.vst .s64 1 0xFF) 2 0
     ((waiting x []).thread 0 2).st = .removed (.mem x) ∧ Calm (waiting x []) 0 2 ∧ Machine.Inv (waiting x [])) ∧
    (let x := access st8 3 65528
     let s := waiting x [leaf0]
     (s.thread 0 2).st = .removed (.mem x) ∧ firstBad s 0 (asidOf s (s.thread 0 2) 2) x.op.code x.pages = none ∧
       x.busy s 0 (asidOf s (s.thread 0 2) 2) = false ∧ x.addr % 65536 + 8 ≤ 65536 ∧ Machine.Inv s) ∧
    (let x := access ld8 3 0
     let s := { waiting x [leafB] with dies := [(0, { busy := true })] }
     (s.thread 0 2).st = .removed (.mem x) ∧ firstBad s 0 (asidOf s (s.thread 0 2) 2) x.op.code x.pages = none ∧
       x.busy s 0 (asidOf s (s.thread 0 2) 2) = true) := by unfold Calm Machine.Inv; decide +kernel

/-- A thread in a state with relaxed accesses in flight. -/
def inFlight (st : SlotState) (l : List Access) (lv : List Leaf) : State :=
  { rig { thr with st := st, relaxed := l.map fun x => { acc := x } } with clusters := [(0, { leaves := lv })] }

theorem witness_RelaxedAccesses :
    (let s := inFlight .runnable [access st8 2 64, access ld8 2 0] []
     (s.thread 0 2).relaxed[1]? = some { acc := access ld8 2 0 } ∧ (s.thread 0 0).st ≠ .removed .kfence ∧ poisoned s (basinKey 0 0) 8 = false ∧
       (∀ m x, m < 1 → (s.thread 0 2).relaxed[m]? = some x → ¬ (x.acc.kind = 2 ∧ x.acc.owner = 0 ∧
         ∃ a, x.acc.covers a = true ∧ (access ld8 2 0).covers a = true))) ∧
    (let s := inFlight (.removed .held) [access st8 2 0] []
     (s.thread 0 2).relaxed[0]? = some { acc := access st8 2 0 } ∧ Machine.Inv s) ∧
    (let s := inFlight .runnable [access st8 2 0, access ld8 2 0] []
     (s.thread 0 2).relaxed[1]? = some { acc := access ld8 2 0 } ∧ (s.thread 0 2).relaxed[0]? = some { acc := access st8 2 0 } ∧
       (access st8 2 0).covers 7 = true ∧ (access ld8 2 0).covers 7 = true) ∧
    (let s := inFlight (.removed .held) [access ld8 3 0] [{ leaf0 with leaf := 0x1B }]
     (s.thread 0 2).relaxed = { acc := access ld8 3 0 } :: [] ∧ failedRelaxed (s.thread 0 2) = none ∧
       firstBad s (clusterOf 0) (asidOf s (s.thread 0 2) 2) (access ld8 3 0).op.code (access ld8 3 0).pages = some (0, some 2)) := by
  refine ⟨⟨by decide +kernel, by decide +kernel, by decide +kernel, ?_⟩, ?_, by decide +kernel, by decide +kernel⟩
  · intro m x hm hx
    have h0 : m = 0 := by omega
    subst h0
    have hx' : x = { acc := access st8 2 64 } := (Option.some.inj hx).symm
    subst hx'
    rintro ⟨_, _, a, ha, hb⟩
    simp only [Access.covers, Bool.and_eq_true, decide_eq_true_eq] at ha hb
    have := ha.1.1
    have := hb.1.2
    simp only [access, ld8, MemOp.span, Size.bytes] at *
    omega
  · unfold Machine.Inv
    decide +kernel

theorem witness_RelaxedAccesses_translated :
    (let s := inFlight .runnable [access ld8 3 0] [leaf0]
     (s.thread 0 2).relaxed[0]? = some { acc := access ld8 3 0 } ∧ (s.thread 0 0).st ≠ .removed .kfence ∧
       firstBad s 0 (asidOf s (s.thread 0 2) 2) (access ld8 3 0).op.code (access ld8 3 0).pages = none ∧
       (access ld8 3 0).busy s 0 (asidOf s (s.thread 0 2) 2) = false ∧ dvaPoisoned s 0 (asidOf s (s.thread 0 2) 2) 0 8 = false) ∧
    (let s := inFlight .runnable [access st8 3 65528] [leaf0]
     firstBad s 0 (asidOf s (s.thread 0 2) 2) (access st8 3 65528).op.code (access st8 3 65528).pages = none ∧
       (access st8 3 65528).busy s 0 (asidOf s (s.thread 0 2) 2) = false ∧ 65528 % 65536 + 8 ≤ 65536 ∧ Machine.Inv s) ∧
    (let x := access (.vld .s64 0xFF 3) 2 0
     let s := inFlight .runnable [x] []
     (s.thread 0 2).relaxed[0]? = some { acc := x } ∧
       (∀ i, i < 64 / 8 → bit (0xFF : Word) i = true → poisoned s (basinKey 0 0 + 8 * i) 8 = false)) ∧
    (let x := access (.vst .s64 1 0xFF) 2 0
     let s := inFlight .runnable [x] []
     (s.thread 0 2).relaxed[0]? = some { acc := x } ∧ Machine.Inv s) ∧
    (inFlight .runnable [access ld8 1 0] []).me.relaxed[0]? = some { acc := access ld8 1 0 } := by unfold Machine.Inv; decide +kernel

/-- A relaxed access whose page refuses it, in a slot. -/
def refused (k : Fin 16) (st : SlotState) (f : Option (Nat × Nat)) : State :=
  { rigAt k { thr with st := st, relaxed := [{ acc := access ld8 3 0, found := f }] } with clusters := [(0, { leaves := [{ leaf0 with asid := if k = 1 then 1 else 0, leaf := 0x1B }] })] }

theorem witness_RelaxedAccesses_faults :
    (let s := refused 2 (.blocked (.wait 1 4)) none
     (s.thread 0 2).faulting = false ∧ (s.thread 0 2).st = .blocked (.wait 1 4) ∧
       firstBad s (clusterOf 0) (asidOf s (s.thread 0 2) 2) (access ld8 3 0).op.code (access ld8 3 0).pages = some (0, some 2)) ∧
    (let s := refused 1 .runnable none
     (s.thread 0 1).faulting = false ∧ (s.thread 0 1).st = .runnable ∧
       firstBad s (clusterOf 0) (asidOf s (s.thread 0 1) 1) (access ld8 3 0).op.code (access ld8 3 0).pages = some (0, some 2)) ∧
    (let s := refused 2 .runnable (some (2, 0))
     (s.thread 0 2).faulting = true) := by decide +kernel

theorem witness_Fences : Ready (rig thr) .fenceRx ∧ Ready (rig thr) (.fenceSc .die) ∧
    ((rig { thr with st := .removed (.fence .die) }).thread 0 2).st = .removed (.fence .die) ∧
    Calm (rig { thr with st := .removed (.fence .die) }) 0 2 := by
  unfold Ready Calm; decide +kernel

theorem witness_SegmentInstructions : Ready (rig lsThr) (.sgnarrow 2 (.small 32) (.small 32) 1) ∧ ((rig lsThr).me.sg.get 2).kind < 4 ∧
    (let g := (rig lsThr).me.sg.get 2
     ¬ (g.limit < (32 : Word).toNat ∨ g.limit - (32 : Word).toNat < (32 : Word).toNat) ∧ (g.limit < (65 : Word).toNat) ∧
       ¬ 2 ^ 18 ≤ g.w0.toNat % 2 ^ 18 + (32 : Word).toNat) ∧
    4 ≤ (seg 0 4 7 64).kind ∧ ((rig (stackThr thr)).me.sg.get 1).kind < 4 ∧ (val2 (rig (stackThr thr)) (.small 8) (.small 8)) ≠ 0 ∧
    2 ^ 18 ≤ (seg 262143 0 3 64).w0.toNat % 2 ^ 18 + (1 : Word).toNat ∧ Ready (rig lsThr) (.sgrd 2 (.g 1) true) := by
  unfold Ready; decide +kernel

/-- A thread at address 64 that fetches, with cached leaves. -/
def fetching (lv : List Leaf) (p : List Nat) : State := { rig thr with clusters := [(0, { leaves := lv })], poison := p }

/-- The leaf found is leaf0. -/
def hitIs (x : Look) (l : Leaf) : Bool :=
  match x with
  | .hit m => m == l
  | _ => false

theorem hitIs_iff {x : Look} {l : Leaf} : hitIs x l = true → x = .hit l := by cases x <;> simp [hitIs]

/-- A look gives a fault code. -/
def lookIs (c : Nat) : Look → Bool
  | .fault d => d == c
  | _ => false

/-- Root entry 0 points to a level-1 node at 2 MiB, its first entry to a level-2 node at 4 MiB, whose first entry is leaf0. -/
def tables : State :=
  let e (page : Nat) (low : Word) : List Byte := natBytes 8 (BitVec.ofNat 64 (page * 2 ^ 22) ||| low).toNat
  let m := Memory.write [] 0x100000 (e 0x20 1)
  let m := Memory.write m 0x200000 (e 0x40 1)
  let m := Memory.write m 0x400000 (natBytes 8 leaf0.leaf.toNat)
  { rig thr with mem := m, dies := [(0, { asBase := 0x100000 })], lock := { hbm := 1, pagesPerStack := 0x200000 } }

/-- What a walk delivers. -/
def walkIs (x : Except Nat Leaf) (l : Leaf) : Bool := x.toOption == some l

theorem walkIs_iff {x : Except Nat Leaf} {l : Leaf} : walkIs x l = true → x = .ok l := by
  cases x <;> simp [walkIs, Except.toOption]

/-- The rig of the tables with a thread that waits for a load from an address. -/
def walking (a : Nat) : State := tables.setThread 0 2 { thr with st := .removed (.mem (access ld8 3 a)) }

theorem witness_FetchAndWalk_walk : walkWaiters (walking 0) 0 0 0 = [⟨0, 0, 2, .access (access ld8 3 0)⟩] ∧
    walk (walking 0) (asTable (walking 0) 0) 0 0 0 = .ok { leaf0 with entry := 0x400000 } ∧
    tableRead (walking 0) (0 + 8 * 5) = .ok 0 ∧ typeOf 0 = 0 := by
  refine ⟨?_, walkIs_iff ?_, rfl, ?_⟩ <;> decide +kernel

/-- A walk ends in a fault. -/
def walkFails (c : Nat) (x : Except Nat Leaf) : Bool :=
  match x with
  | .error d => d == c
  | .ok _ => false

theorem witness_FetchAndWalk_fault :
    walkWaiters (walking 65528) 0 0 0 = [⟨0, 0, 2, .access (access ld8 3 65528)⟩] ∧
    (let s := { walking 0 with mem := [] }
     walkWaiters s 0 0 0 = [⟨0, 0, 2, .access (access ld8 3 0)⟩] ∧ (access ld8 3 0).op.isWld = false ∧
       walkFails 6 (walk s (asTable s (0 / 32)) 0 0 (access ld8 3 0).op.code) = true) ∧
    (let s := fetching [{ leaf0 with leaf := 0x0F }] []
     let s := s.setThread 0 2 { thr with relaxed := [{ acc := access ld8 3 0, found := some (2, 0) }] }
     fetch s 0 2 = .absent 64 ∧ lookIs 2 (look s 0 (asidOf s (s.thread 0 2) 2) (64 / 65536) 3) = true ∧
       failedRelaxed (s.thread 0 2) = some { acc := access ld8 3 0, found := some (2, 0) }) := by decide +kernel

theorem witness_FetchAndWalk :
    (let s := fetching [leaf0] []
     (s.thread 0 2).st = .runnable ∧ (s.thread 0 2).tow = .none ∧ fetch s 0 2 = .absent 64 ∧
       look s 0 (asidOf s (s.thread 0 2) 2) (64 / 65536) 3 = .hit leaf0 ∧ tierOf leaf0.leaf ≠ 2 ∧ poisoned s (leaf0.pa 64) 64 = false ∧
       poisoned (fetching [leaf0] [leaf0.pa 64 / 64]) (leaf0.pa 64) 64 = true) ∧
    (let s := fetching [{ leaf0 with leaf := 0x0F }] []
     fetch s 0 2 = .absent 64 ∧ lookIs 2 (look s 0 (asidOf s (s.thread 0 2) 2) (64 / 65536) 3) = true) ∧
    fetch (rig { thr with pc := 0x10000000000000 }) 0 2 = .beyond 0x10000000000000 := by
  refine ⟨⟨?_, ?_, ?_, hitIs_iff ?_, ?_, ?_, ?_⟩, ?_, ?_⟩ <;> decide +kernel

theorem witness_MemoryFrame : isMemory (.st .s16 true 2 (.g 1) (.g 2) 31) = true ∧ Machine.Inv (rig lsThr) ∧
    (∃ t, exec (.st .s16 true 2 (.g 1) (.g 2) 31) (rig lsThr) = .next t) ∧
    storedAt (rig lsThr) (.st .s16 true 2 (.g 1) (.g 2) 31) = some (lsKey 0 4158, 2) ∧
    storedAt (rig lsThr) (.amo .cas true 2 (.g 1) (.g 2) 7) = some (lsKey 0 4152, 8) ∧
    storedAt (rig lsThr) (.vst .s8 1 false 2 3 (.g 2) 0) = some (lsKey 0 4096, 64) ∧
    storedAt (rig lsThr) (.st .s16 true 2 (.g 1) (.g 2) 32) = none := by
  refine ⟨by decide, by unfold Machine.Inv; decide, ⟨_, rfl⟩, ?_, ?_, ?_, ?_⟩ <;> decide +kernel

-- Witnesses: vectors ------------------------------------------------------------------------------------------------------------------------

theorem witness_FloatNumbers : fE4m3 ∈ [fF32, fBf16, fF16, fE4m3, fE5m2] ∧ 0x7E < 2 ^ fE4m3.width ∧ fE4m3.value 0x7E ≠ .nan ∧
    fF32 ∈ [fF32, fBf16, fF16, fE4m3, fE5m2] ∧ 0xFF800000 < 2 ^ fF32.width ∧ fF32.value 0xFF800000 ≠ .nan := by decide +kernel

/-- 3 halves: a tie that rounds to the even 2. -/
theorem witness_FloatNumbers_tie : 2 * 3 = 2 * 1 * 2 ^ 1 + 2 ^ 1 ∧ roundShift .rne false 3 1 = 2 ∧ 2 * 2 * 2 ^ 1 = 2 * 3 + 2 ^ 1 := by decide +kernel

theorem witness_FloatLanes : ∀ i ∈ ([.vadd .f32 1 2 3 0, .vsub .bf16 1 2 3 1, .vmul .f16 1 1 1 2, .vfma .f32 1 2 3 4 3, .vfms .f32 1 2 3 4 0,
    .vmax .f32 1 2 3 0, .vmin .f32 1 2 3 0, .vabs .f16 1 2 0, .vneg .f32 1 2 0] : List Instr), Ready (rig thr) i := by
  unfold Ready; decide +kernel

theorem witness_IterativeResults : (∀ i ∈ ([.vdiv .f32 1 2 3 0, .vrcp .f16 1 2 1, .vrsq .f32 1 2 0, .vexp2 .f32 1 2 0, .vlog2 .bf16 1 2 0] :
      List Instr), Ready (rig thr) i) ∧
    ((rig { thr with st := .removed (.iterative 3 5 0) }).thread 0 2).st = .removed (.iterative 3 5 0) ∧
    0 ≤ (rig { thr with st := .removed (.iterative 3 5 0) }).clk ∧ Calm (rig { thr with st := .removed (.iterative 3 5 0) }) 0 2 ∧ (1 : Nat) ≠ 0 := by
  unfold Ready Calm; decide +kernel

theorem witness_IntegerLanes : ∀ i ∈ ([.viadd .i8 1 2 3 0 false, .viadd .i8 1 2 3 0 true, .visub .i16 1 2 3 0 false, .visub .i64 1 2 3 0 true,
    .vimul .i32 1 2 3 0, .vimax .i8 1 2 3 0, .vimin .i8 1 2 3 0, .vshl .i8 1 2 3 0, .vshrN .i8 1 2 3 0, .vshrI .i8 1 2 3 0, .vand 1 2 3 0,
    .vor 1 2 3 0, .vxor 1 2 3 1] : List Instr), Ready (rig thr) i := by unfold Ready; decide +kernel

theorem witness_CompareSelectAndMasks : ∀ i ∈ ([.vcmp .ne .f32 1 2 3 0, .vcmp .geN .i8 0 2 3 1, .vsel .i64 1 2 3 1, .mset 1 (.g 2), .mand 1 2 3,
    .mor 1 0 3, .mnot 1 0, .mmov 3 1] : List Instr), Ready (rig thr) i := by unfold Ready; decide +kernel

theorem witness_Conversions : Ready (rig thr) (.vcvt .i8 .f32 1 2 3 0 .rtz) ∧ wellFormed (.vcvt .i8 .f32 1 2 3 0 .rtz) = true ∧
    Ready (rig thr) (.vcvt .f32 .e5m2 1 1 3 1 .rup) ∧ wellFormed (.vcvt .f32 .e5m2 1 1 3 1 .rup) = true ∧
    8 * CvtType.i8.bytes < 8 * CvtType.f32.bytes ∧ 8 * CvtType.e5m2.bytes ≤ 8 * CvtType.f32.bytes ∧ fF32.value 0x7FC00000 = .nan ∧
    fF32.value 0x7F800000 = .inf false ∧ fF32.value 0xFF800000 = .inf true := by unfold Ready; decide +kernel

theorem witness_LaneMoves : (∀ i ∈ ([.vpermB 1 2 3 0, .vshuf 1 2 3 4 1, .vsplat .s16 1 (.g 2) 0, .vextr .s8 63 2 (.g 1), .vinsr .s64 7 2 (.g 1)] :
    List Instr), Ready (rig thr) i) ∧ (7 : BitVec 6).toNat < 64 / Size.s64.bytes := by unfold Ready; decide +kernel

theorem witness_Reductions : ∀ i ∈ ([.vredAdd .f32 1 2 0, .vredMax .f32 1 2 1, .vredMin .f32 1 2 0, .vredAdd .i32 1 2 0, .vredMax .i32 1 2 0,
    .vredMin .i32 1 2 0, .vredAdd .bf16 1 2 0, .vredMax .bf16 1 2 0, .vredMin .bf16 1 2 0, .vdot4 1 2 3 4 0] : List Instr), Ready (rig thr) i := by
  unfold Ready; decide +kernel

theorem witness_VectorFrame : isVector (.vextr .s8 63 2 (.g 1)) = true ∧ isVector (.vcmp .ne .f32 1 2 3 0) = true ∧
    ∃ t, exec (.vcmp .ne .f32 1 2 3 0) (rig thr) = .next t := ⟨by decide, by decide, ⟨_, rfl⟩⟩

-- Witnesses: the weir -------------------------------------------------------------------------------------------------------------------------

/-- A column that holds as much as the band allows, and eight terms of each sign. -/
theorem witness_WeirIsExact : let c : Column := { s := -100, u := List.replicate 8 5, d := List.replicate 8 (-5) }
    (c.s.natAbs ≤ 100 ∧ c.u.length ≤ 8 ∧ c.d.length ≤ 8 ∧ (∀ x ∈ c.u, 0 < x ∧ x ≤ (5 : Nat)) ∧ (∀ x ∈ c.d, -((5 : Nat) : Int) ≤ x ∧ x < 0)) ∧
      (-5 : Int).natAbs ≤ 5 ∧ 5 ≤ 100 := by decide +kernel

/-- A thread with i8 activations, t2 weights, an i16 output and 4096 bytes of the local store as segment 0. -/
def weirThr : Thread := { thr with fw := 6, fo := 2, sg := (Vector.replicate 8 ({} : Seg)).set 0 (seg 4096 0 3 4096) }

/-- A wrun of one row and one tile that waits for the weir. -/
def weirWaits : State :=
  withCore (rig { weirThr with st := .removed (.weir 0 4) }) fun x => { x with weir := { waiting := [(2, .run 0 1 1 4096 8192)] } }

/-- A run of a given mode over one tile that waits while its thread owns the weir with 64 columns. -/
def weirGoesOn (mode : Nat) : State :=
  withCore (rig { weirThr with st := .removed (.weir 0 4), runOpen := true, fo := 5, wb := 1 }) fun x =>
    { x with weir := { owner := some 2, waiting := [(2, .run mode 1 1 4096 8192)], data := { cols := List.replicate 64 { s := 3 } } } }

theorem witness_WeirRowExact : (weirWaits.getCore 0).weir.exec = none ∧ nextJob (weirWaits.getCore 0) = some (2, .run 0 1 1 4096 8192) ∧
    ((weirWaits.getCore 0).slots.get 2).st = .removed (.weir 0 4) ∧ runsStopped weirWaits = false ∧ Machine.Inv weirWaits ∧
    weightOk (elemOf 6) = true ∧ (runCfg weirThr).width = 16 ∧ 4096 + 64 * 1 * 1 ≤ 262144 ∧ 8192 + 128 * 1 ≤ 262144 ∧
    poisoned weirWaits (lsKey 0 4096) 64 = false ∧ poisoned weirWaits (wbKey 0 0) 1024 = false ∧
    (rawRead weirWaits (wbKey 0 0) 1024).all (fun v => !reservedCode 6 v) = true := by
  unfold Machine.Inv; decide +kernel

theorem witness_WeirRowExact_open : ∀ mode ∈ [1, 2], ((weirGoesOn mode).getCore 0).weir.exec = none ∧
    nextJob ((weirGoesOn mode).getCore 0) = some (2, .run mode 1 1 4096 8192) ∧ Machine.Inv (weirGoesOn mode) ∧
    runsStopped (weirGoesOn mode) = false ∧ (runCfg ((weirGoesOn mode).getCore 0 |>.slots.get 2)).width = 48 ∧
    ((weirGoesOn mode).getCore 0).weir.owner = some 2 ∧ ((weirGoesOn mode).getCore 0).weir.data.cols.length = 64 ∧
    8192 + 256 * 1 ≤ 262144 := by unfold Machine.Inv; decide +kernel

/-- A wld of lines 0 to 3 that its thread awaits, through a kind of segment. -/
def loading (kind addr : Nat) (began : Option Nat) (lv : List Leaf) : State :=
  { rig { weirThr with st := .removed (.wld (access (.wld 0 4) kind addr) began) } with clusters := [(0, { leaves := lv })] }

theorem witness_WeightLoads : Ready (rig thr) (.wld 0 (.g 1) (.g 2)) ∧ illFormed 6 false = false ∧ weightOk (elemOf 6) = true ∧
    ¬ (weightOk (elemOf 5) = true) ∧ 1024 - (fld (0x3FF : Word) 0 10 : BitVec 10).toNat < 2 ∧ Ready (rig weirThr) (.wld 0 (.g 1) (.lit32 4096)) ∧
    checkAccess (rig weirThr) ((rig weirThr).me.sg.get 0) (.wld 0 4) 0 0 = .ok 4096 ∧
    checkAccess (rig weirThr) ((rig weirThr).me.sg.get 0) (.wld 0 4) 32 0 = .error 0x06 ∧ ((rig weirThr).me.sg.get 0).kind ≠ 1 ∧
    (seg 0 1 3 64).kind = 1 := by
  refine ⟨?_, ?_, ?_, ?_, ?_, ?_, okIs_iff ?_, errIs_iff ?_, ?_, ?_⟩ <;> (try unfold Ready) <;> decide +kernel

theorem witness_WeightLoads_moves :
    (let s := loading 2 0 none []
     (s.thread 0 2).st = .removed (.wld (access (.wld 0 4) 2 0) none) ∧ Machine.Inv s ∧ Calm s 0 2 ∧
       runsOver (s.getCore 0) (s.thread 0 2) 0 4 = false) ∧
    (let s := loading 0 0 (some 0) []
     s.clk < 0 + 4 ∧ 0 + 4 ≤ { s with clk := 4 }.clk ∧ Machine.Inv s ∧ Calm s 0 2) ∧
    (let s := loading 3 0 (some 0) [leaf0]
     firstBad s 0 (asidOf s (s.thread 0 2) 2) 0 (access (.wld 0 4) 3 0).pages = none ∧
       (access (.wld 0 4) 3 0).busy s 0 (asidOf s (s.thread 0 2) 2) = false) ∧
    (let s := { loading 3 0 (some 0) [leafB] with dies := [(0, { busy := true })] }
     firstBad s 0 (asidOf s (s.thread 0 2) 2) 0 (access (.wld 0 4) 3 0).pages = none ∧
       (access (.wld 0 4) 3 0).busy s 0 (asidOf s (s.thread 0 2) 2) = true) ∧
    (let s := loading 3 0 (some 0) []
     firstBad s 0 (asidOf s (s.thread 0 2) 2) 0 (access (.wld 0 4) 3 0).pages = some (0, none)) ∧
    (let s := loading 3 65408 (some 0) [leaf0, { leaf0 with page := 1, leaf := 0x0F }]
     firstBad s 0 (asidOf s (s.thread 0 2) 2) 0 (access (.wld 0 4) 3 65408).pages = none) ∧
    (let s := loading 3 65408 (some 0) [leaf0, { leaf0 with page := 1, leaf := 0x1B }]
     firstBad s 0 (asidOf s (s.thread 0 2) 2) 0 (access (.wld 0 4) 3 65408).pages = some (1, some 2)) := by
  unfold Machine.Inv Calm; decide +kernel

/-- A load that issued after a run over the same lines. -/
theorem witness_WeightLoads_waits :
    let x := (withCore (rig { weirThr with st := .removed (.wld (access (.wld 0 4) 2 0) none), since := 9 }) fun x =>
      { x with weir := { waiting := [(3, .run 0 1 1 4096 8192)] }, slots := x.slots.set 3 { weirThr with since := 5 } }).getCore 0
    runsOver x (x.slots.get 2) 0 4 = true := by decide +kernel

theorem witness_WeirRunForms : Ready (rig weirThr) (.wrun 0 (.small 1) (.small 0) (.lit32 64)) ∧ Ready (rig weirThr) (.wrunO 63 (.small 0)) ∧
    Ready (rig weirThr) (.wrunC 63 (.small 0) (.lit32 64)) ∧ (rig weirThr).me.runOpen = false ∧ (rig { weirThr with runOpen := true }).me.runOpen ≠ false ∧
    formatFault weirThr = none ∧ formatFault { weirThr with fa := 1 } = some 0 ∧ formatFault { weirThr with fo := 7 } = some 2 ∧
    (fld (4 : Half) 0 2 : BitVec 2) = 0 ∧ (fld (5 : Half) 0 2 : BitVec 2) = 1 ∧ 0xFFFC / 4 * 4 + 1 * tileBytes 6 ≤ 66556 ∧
    0 / 4 * 4 + 64 * tileBytes 6 ≤ 65536 ∧ 65536 < 4 / 4 * 4 + 64 * tileBytes 6 ∧
    segCheck (rig weirThr) ((rig weirThr).me.sg.get 0) 0 64 needR 64 true = .ok 4096 ∧
    segCheck (rig weirThr) ((rig weirThr).me.sg.get 0) 64 128 needW 64 true = .ok 4160 := by
  refine ⟨?_, ?_, ?_, ?_, ?_, ?_, ?_, ?_, ?_, ?_, ?_, ?_, ?_, okIs_iff ?_, okIs_iff ?_⟩ <;> (try unfold Ready) <;> decide +kernel

/-- An execution on core 0's weir that is over, or not. -/
def weirRuns (fin : WeirEnd) (last : Option (Nat × List Byte)) (doneAt : Nat) : State :=
  withCore (rig { weirThr with st := .removed (.weir 0 4) }) fun x =>
    { x with weir := { exec := some { slot := 2, job := .run 0 1 1 4096 8192, after := {}, last := last, fin := fin, doneAt := doneAt } } }

theorem witness_WeirRunsEnd : (weirWaits.getCore 0).weir.exec = none ∧ nextJob (weirWaits.getCore 0) = some (2, .run 0 1 1 4096 8192) ∧
    (weirWaits.thread 0 2).st = .removed (.weir 0 4) ∧ runsStopped weirWaits = false ∧ runsStopped { weirWaits with lock := { level := 6 } } = true ∧
    6 ≤ { weirWaits with lock := { level := 6 } }.lock.level ∧
    (let s := weirRuns .ok (some (8192, [1, 2])) 0
     ((s.getCore 0).weir.exec.map WeirExec.fin) = some .ok ∧ Machine.Inv s ∧ (s.thread 0 2).st = .removed (.weir 0 4) ∧ Calm s 0 2) ∧
    (weirRuns .ok none 7).clk < 7 ∧ (((weirRuns (.overtop 3 5) none 0).getCore 0).weir.exec.map WeirExec.fin) = some (.overtop 3 5) ∧
    (((weirRuns (.code 3) none 0).getCore 0).weir.exec.map WeirExec.fin) = some (.code 3) ∧
    (((weirRuns (.poison 3 0 0) none 0).getCore 0).weir.exec.map WeirExec.fin) = some (.poison 3 0 0) := by
  unfold Machine.Inv Calm; decide +kernel

theorem witness_WeirReads : (∀ i ∈ ([.waccS 63 (.g 1), .waccU 0 (.g 1) (.small 3), .waccD 0 (.g 1) (.small 3), .waccP 0 (.g 1) (.lit32 0x7F),
      .wstat (.g 1) (.small 3), .wclr] : List Instr), Ready (rig thr) i) ∧ weirFree (rig thr).myCore = true ∧ (rig thr).myCore.weir.held = false ∧
    weirFree (after1 (rig thr) (.small 3)).myCore = true ∧ weirFree weirWaits.myCore = false ∧ weirFree (after1 weirWaits (.small 3)).myCore = false ∧
    Ready weirWaits .wclr ∧ (0x40 ≤ 0x7F ∧ 0x7F < 0x80) ∧
    (let s := withCore (rig { thr with st := .removed (.weir 0 4) }) fun x => { x with weir := { waiting := [(2, .acc 0 5 (.g 1) 0)] } }
     (s.getCore 0).weir.exec = none ∧ nextJob (s.getCore 0) = some (2, .acc 0 5 (.g 1) 0) ∧ (s.thread 0 2).st = .removed (.weir 0 4) ∧
       Calm s 0 2 ∧ plainDst (.g 1) = true) := by unfold Ready Calm; decide +kernel

-- Witnesses: records and queues -----------------------------------------------------------------------------------------------------------

/-- A key on core 0, and one on a core that is absent. -/
theorem witness_PostingInstructions : (∀ i ∈ ([.postCnt (.small 0), .postCntSolo (.lit32 64), .postWake (.small 15), .postWakeSolo (.g 1),
      .postUpd .count 0 (.g 1), .postUpd .addI64 7 (.g 1), .msg 0 (.g 1) (.g 2), .spawn (.small 0) (.small 0)] : List Instr), Ready (rig lsThr) i) ∧
    ((fld (64 : Word) 18 30 : BitVec 30) = 0 ∧ namesCore (rig lsThr) (fld (64 : Word) 48 16) = true ∧ (fld (64 : Word) 0 6 : BitVec 6) = 0 ∧
      (fld (4 : Word) 0 6 : BitVec 6) ≠ 0) ∧ namesCore (rig lsThr) (fld (0x0800000000000000 : Word) 48 16) = false ∧
    ((fld (0x1FFF : Word) 20 44 : BitVec 44) = 0 ∧ namesCore (rig lsThr) (fld (0x17FF : Word) 4 16) = true ∧
      namesCore (rig lsThr) (fld (0x1800 : Word) 4 16) = false) ∧
    portAccepts (rig lsThr) 0 (mkRec 0 kC 1 0 64 [0]) = true ∧ (262080 % 8 = 0 ∧ 262080 + 8 * 8 ≤ 262144 ∧ 262144 < 262088 + 8 * 8) ∧
    (let s := rig { thr with sg := (Vector.replicate 8 ({} : Seg)).set 0 (seg 4096 0 1 48) }
     Ready s (.spawn (.small 0) (.lit32 0xFFFFFFFF)) ∧ val2 s (.small 0) (.lit32 0xFFFFFFFF) = BitVec.allOnes 64 ∧ (s.me.sg.get 0).kind = 0 ∧
       okIs (segCheck s (s.me.sg.get 0) 0 48 needR 8 true) 4096 = true ∧ poisoned s (lsKey 0 4096) 48 = false) := by
  unfold Ready; decide +kernel

/-- A record to core 1, and the path to core 1 full of it. -/
def toCore1 : Record := mkRec (coreTa 1) kC 1 0 ((1 : Half) ++ (0 : BitVec 48)) [0]
def pathFull : State :=
  { rig thr with net := List.replicate Config.pathCapacity { sender := 2, die4 := false, target := 1, r := toCore1 } }

theorem pathFull_load : pathLoad pathFull 0 false 1 false = Config.pathCapacity := by
  have h : ∀ (n : Nat) (p : Flight → Bool) (x : Flight), p x = true → (List.replicate n x).countP p = n := by
    intro n p x hp
    simp [List.countP_replicate, hp]
  exact h _ _ _ (by decide +kernel)

theorem refuses {s : State} {c : Nat} {r : Record} (h1 : ownClass r.kind = false) (h2 : (fld r.ta 16 4 : BitVec 4) = s.wharf.device)
    (h3 : (fld r.ta 13 3 : BitVec 3).toNat ≠ 4) (h4 : pathLoad s c false (fld r.ta 4 12 : BitVec 12).toNat false = Config.pathCapacity) :
    portAccepts s c r = false := by
  have h5 : ((fld r.ta 13 3 : BitVec 3).toNat == 4) = false := by simpa using h3
  unfold portAccepts
  simp only [h1, h2, h5, Bool.false_eq_true, if_false, h4, ne_eq, not_true_eq_false, Nat.lt_irrefl, decide_false]

theorem witness_PostingInstructions_full : portAccepts pathFull 0 toCore1 = false :=
  refuses (by decide +kernel) (by decide +kernel) (by decide +kernel) pathFull_load

theorem witness_PostingInstructions_waits : (∀ i ∈ ([.postCnt (.small 0), .postWake (.small 15), .postUpd .count 0 (.g 1), .msg 0 (.g 1) (.g 2),
      .spawn (.small 0) (.small 0)] : List Instr), Ready (rig { lsThr with relaxed := [{ acc := access st8 3 0 }] }) i) ∧
    (let s := rig lsThr
     val2 s (.small 0) (.small 15) ≠ BitVec.allOnes 64 ∧ (fld (15 : Word) 16 48 : BitVec 48) = 0 ∧ namesCore s (fld (15 : Word) 0 16) = true ∧
       namesCore s (fld (0x180 : Word) 0 16) = false) := by unfold Ready; decide +kernel

theorem witness_PortAccepts : let s := rig { thr with st := .removed (.port (mkRec 0 kC 1 0 64 [0]) false) }
    (s.thread 0 2).st = .removed (.port (mkRec 0 kC 1 0 64 [0]) false) ∧ portAccepts s 0 (mkRec 0 kC 1 0 64 [0]) = true ∧ Calm s 0 2 := by
  unfold Calm; decide +kernel

theorem witness_QueueInstructions : Ready (rig thr) (.qcfg (.small 7) (.lit32 0x12000C)) ∧ 7 < (8 : Word).toNat ∧
    (bit (0x100000 : Word) 20 = true ∧ (fld (0x100000 : Word) 0 16 : Half) = 0) ∧ (fld (0x200000 : Word) 21 43 : BitVec 43) ≠ 0 ∧
    ((queueRig [5] 0).myCore.queue 1).enabled = true ∧ ((queueRig [5] 0).myCore.queue 1).entries ≠ [] ∧
    (fld (0x12000C : Word) 21 43 : BitVec 43) = 0 ∧ (fld (0x12000C : Word) 0 16 : Half) ≠ 0 ∧ ((rig thr).myCore.queue (Fin.ofNat 8 7)).enabled = false ∧
    Ready (queueRig [] 0) (.qeos (.small 1)) ∧ bit ((queueRig [] 0).myCore.queue 1).producers 2 = true ∧
    bit ((queueRig [] 0).myCore.queue 1).tokens 2 = false ∧ bit ((queueRig [] 4).myCore.queue 1).tokens 2 = true := by unfold Ready; decide +kernel

theorem witness_RaftOperators : 5 ∈ [1, 2, 4, 5, 6, 7] ∧ ([1] : List Word).length = ([2] : List Word).length ∧
    (14 < waiterCount [0x00F0000000000000] + waiterCount ([] : List Word)) ∧
    raft 10 [0x0010000000000000, 5] [0x00D0000000000000, 1, 2, 3, 4, 5, 6, 7] ≠ none ∧ (0x80000000 : W32).toInt + (0 : W32).toInt = -(2 ^ 31) := by
  decide +kernel

/-- A record in the network for core 1, and core 1's pound. -/
def arriving (r : Record) (l : List Entry) : State :=
  { State.reset with agenda := [], clk := 5, net := [{ sender := 2, die4 := false, target := 1, r := r }], cores := [(1, { pound := { entries := l } })] }

/-- A counter record for core 1. -/
def count1 (op : Nat) (n : Word) : Record := mkRec (coreTa 1) kC op 0 (0x0001000000000000) [n]

theorem witness_RecordsArrive :
    (let s := arriving (count1 1 3) []
     let f : Flight := { sender := 2, die4 := false, target := 1, r := count1 1 3 }
     s.net[0]? = some f ∧ f.die4 = false ∧ present s f.target = true ∧ isBehind s 0 f = false ∧ (s.getCore 1).pound.arrivedAt ≠ s.clk + 1 ∧
       ((s.getCore 1).marks.contains f.r.tag && discardable f.r.tag f.r) = false ∧ chosen s 1 = none ∧
       mergeInto s.clk f.r (s.getCore 1).pound.entries = none ∧
       (s.getCore 1).pound.room 64 s.clk heldKind f.r.kind = true ∧
       ({ (s.getCore 1).pound with arrivedAt := 9, entries := List.replicate 64 { r := count1 0 1, at' := 0 } } : Pound).room 64 s.clk heldKind kC = false) ∧
    (let s := arriving (count1 1 3) [{ r := count1 1 4, at' := 0 }, { r := count1 0 4, at' := 0 }]
     (s.getCore 1).pound.entries = [] ++ { r := count1 1 4, at' := 0 } :: [{ r := count1 0 4, at' := 0 }] ∧ sameRaft (count1 1 4) (count1 1 3) = true ∧
       (∀ y ∈ ([{ r := count1 0 4, at' := 0 }] : List Entry), sameRaft y.r (count1 1 3) = false) ∧ raft 1 [4] [3] = some [7]) ∧
    (let f : Flight := { sender := 2, die4 := false, target := 1, r := count1 1 3 }
     let s := { arriving (count1 1 3) [] with net := [f, f] }
     s.net[1]? = some f ∧ isBehind s 1 f = true ∧ f.r.kind ∉ [kK, kF, kW, kP]) ∧
    (let f : Flight := { sender := 2, die4 := false, target := 1, r := mkRec (coreTa 1) kW 0 0 0 [1] }
     let g : Flight := { sender := 2, die4 := false, target := 1, r := count1 1 3 }
     let s := { arriving (count1 1 3) [] with net := [g, f] }
     s.net[1]? = some f ∧ g.r.kind ∉ [kK, kF, kW, kP] ∧ heldAtPort s g = false ∧
       heldAtPort { arriving (count1 1 3) (List.replicate 64 { r := count1 0 1, at' := 0 }) with net := [g, f] } g = true) ∧
    chosen (arriving (count1 1 3) [{ r := count1 0 1, at' := 0 }]) 1 ≠ none := by decide +kernel

-- Witnesses: the pound ----------------------------------------------------------------------------------------------------------------------

/-- Core 0 with records that have waited, and slot 2's thread. -/
def pounded (t : Thread) (l : List Record) : State :=
  { withCore (rig t) fun x => { x with pound := { entries := l.map fun r => { r := r, at' := 0 } } } with clk := 5 }

theorem witness_DispatchOrder : chosen (pounded thr [count1 1 3, mkRec 0 kW 0 0 2 [1]]) 0 = some (1, mkRec 0 kW 0 0 2 [1]) ∧
    kindOrder = [kK, kF] ++ (mkRec 0 kW 0 0 2 [1]).kind :: [kP, kC, kM, kU, kT] ∧ kU ∈ [kK, kF, kW, kP, kC, kU] := by decide +kernel

/-- Trap and fault records, and a keeper whose rings stand at 8192 and 16384. -/
def trapOf (slot : Nat) (report : Bool) : Record := mkRec 0 kK 0 0 0 (trapPayload 0x04 slot report 0 64 0 0)
def faultOf : Record := mkRec 0 kF 10 0 0 [0, 0]
def ringed (t0 : Thread) (r : Record) (vector : Word) : State :=
  { withCore (rigAt 0 t0) fun x => { x with ringBase := 8192, faultBase := 16384, vector := vector, pound := { entries := [{ r := r, at' := 0 }] } }
    with clk := 5 }

theorem witness_KeeperDeliveries :
    (let s := ringed { thr with st := .parked {} } (trapOf 0 false) 512
     chosen s 0 = some (0, trapOf 0 false) ∧ Machine.Inv s ∧ (s.thread 0 0).saveInUse = false ∧ (trapOf 0 false).kind = kK ∧
       (s.getCore 0).ringBase.toNat + 2112 ≤ 262144 ∧ bit ((trapOf 0 false).pay.headD 0) 8 = false ∧ (s.getCore 0).vector ≠ 0 ∧
       (fld ((trapOf 0 false).pay.headD 0) 16 4 : BitVec 4) = 0 ∧ (s.thread 0 0).st = .parked {}) ∧
    (let s := ringed { thr with st := .parked {} } (trapOf 0 false) 0
     chosen s 0 = some (0, trapOf 0 false) ∧ (s.getCore 0).vector = 0) ∧
    (let s := ringed thr (trapOf 5 true) 0
     chosen s 0 = some (0, trapOf 5 true) ∧ bit ((trapOf 5 true).pay.headD 0) 8 = true) ∧
    (let s := ringed thr faultOf 0
     chosen s 0 = some (0, faultOf) ∧ faultOf.kind = kF ∧ (s.getCore 0).faultBase.toNat + 32832 ≤ 262144) := by unfold Machine.Inv; decide +kernel

/-- The trap ring holds 48 entries. -/
theorem witness_KeeperDeliveries_full :
    let s := { ringed thr (trapOf 5 true) 0 with mem := Memory.set [] (lsKey 0 8192) 48 }
    48 ≤ (lsWord s 0 8192 - lsWord s 0 8200).toNat ∧ Machine.Inv s := by unfold Machine.Inv; decide +kernel

/-- A wake for slot 2 and a replay wake for it, a reply and an access reply. -/
def wake2 (key : Word) : Record := mkRec 2 kW 0 0 (key ||| 2) [1]
def reply2 (key : Word) : Record := mkRec 2 kP 0 0 (key ||| 2) [7, 8]

theorem witness_WakesAndReplies :
    (let s := pounded { thr with st := .blocked (.wait 1 4) } [wake2 0]
     chosen s 0 = some (0, wake2 0) ∧ (fld (wake2 0).key 0 4 : BitVec 4).toNat = (2 : Fin 16).val ∧ (wake2 0).kind = kW ∧ bit (wake2 0).key 63 = false ∧
       (s.thread 0 2).saveInUse = false ∧ (s.thread 0 2).st = .blocked (.wait 1 4)) ∧
    (let s := pounded thr [wake2 0]
     (s.thread 0 2).st ≠ .empty ∧ (s.thread 0 2).st = .runnable ∧ chosen s 0 = some (0, wake2 0)) ∧
    (let s := pounded { thr with st := .removed .reply } [reply2 0]
     chosen s 0 = some (0, reply2 0) ∧ (reply2 0).kind = kP ∧ (s.thread 0 2).st = .removed .reply ∧ Calm s 0 2) ∧
    (let s := pounded { thr with st := .removed (.remote (access ld8 1 0)) } [reply2 0x8000000000000000]
     chosen s 0 = some (0, reply2 0x8000000000000000) ∧ bit (reply2 0x8000000000000000).key 63 = true ∧
       (s.thread 0 2).st = .removed (.remote (access ld8 1 0)) ∧ (fld (reply2 0x8000000000000000).key 8 8 : Byte) = 0 ∧ Calm s 0 2 ∧
       (fld (reply2 0x8000000000000100).key 8 8 : Byte) ≠ 0) ∧
    (let p : Park := { fault := some (1, 0) }
     let s := pounded { thr with st := .parked p } [wake2 0x8000000000000000]
     chosen s 0 = some (0, wake2 0x8000000000000000) ∧ bit (wake2 0x8000000000000000).key 57 = false ∧ (s.thread 0 2).st = .parked p ∧
       p.fault = some (1, 0) ∧ bit (wake2 0x8000000000000000).key 62 = false ∧ (s.thread 0 2).dogDue = false ∧ (s.thread 0 2).parkDue = false ∧
       failedRelaxed (s.thread 0 2) = none ∧ graceOver s (s.thread 0 2).tag = false) ∧
    (let p : Park := { fault := some (1, 0), acc := some (false, access ld8 3 0) }
     let s := pounded { segThr (seg 0 3 3 64) with st := .parked p } [wake2 0xC000000000000000]
     chosen s 0 = some (0, wake2 0xC000000000000000) ∧ bit (wake2 0xC000000000000000).key 62 = true ∧ (s.thread 0 2).st = .parked p ∧
       (s.thread 0 0).st ≠ .removed .kfence ∧ (access ld8 3 0).op.isWld = false ∧ ((s.thread 0 2).sg.get (access ld8 3 0).sg).kind = 3 ∧
       okIs (checkAccess s ((s.thread 0 2).sg.get (access ld8 3 0).sg) ld8 0 0) 0 = true) ∧
    (let s := pounded thr [wake2 0x8200000000000000]
     chosen s 0 = some (0, wake2 0x8200000000000000) ∧ bit (wake2 0x8200000000000000).key 57 = true) := by unfold Calm; decide +kernel

/-- A record at core 0 that waits to be applied. -/
def applying (r : Record) (m : List (Nat × Word)) : State :=
  { withCore (rig thr) fun x => { x with pound := { applying := [(r, 0)] } } with
    clk := 5, mem := m.foldl (fun m p => Memory.write m (lsKey 0 p.1) (natBytes 8 p.2.toNat)) [] }

/-- An armed frame at 64 whose count is 3, and one that aborts tag 1 below zero. -/
def frame64 (n w2 : Word) : List (Nat × Word) := [(64, 0x100000000 ||| n), (80, w2)]

theorem witness_CountersAndUpdates :
    (chosen (pounded thr [mkRec 0 kC 1 0 64 [3]]) 0 = some (0, mkRec 0 kC 1 0 64 [3]) ∧ (mkRec 0 kC 1 0 64 [3]).kind = kC ∧
      chosen (pounded thr [mkRec 0 kU 2 0 64 [3]]) 0 = some (0, mkRec 0 kU 2 0 64 [3]) ∧ (mkRec 0 kU 2 0 64 [3]).kind = kU) ∧
    (let r := mkRec 0 kC 1 0 64 [3]
     let s := applying r (frame64 3 0)
     (s.getCore 0).pound.applying = (r, 0) :: [] ∧ Machine.Inv s ∧ (fld r.key 0 18 : BitVec 18).toNat % 64 = 0 ∧ 0 < s.clk ∧
       (s.getCore 0).deque.length < 128 ∧ BitVec.ofNat 32 (bytesNat (lsRead s 0 64 4)) - (fld (r.pay.headD 0) 0 32 : W32) = 0 ∧
       (lsWord s 0 64).getLsbD 32 = true ∧ bit (lsWord s 0 80) 48 = false ∧ (s.getCore 0).marks.contains 0 = false) ∧
    (let r := mkRec 0 kC 1 0 64 [3]
     let s := applying r (frame64 2 0x10000100000000)
     Machine.Inv s ∧ (BitVec.ofNat 32 (bytesNat (lsRead s 0 64 4)) - (fld (r.pay.headD 0) 0 32 : W32)).toInt < 0 ∧ bit (lsWord s 0 80) 52 = true ∧
       (s.getCore 0).pound.applying = (r, 0) :: []) ∧
    (let r := mkRec 0 kU 1 0 64 [3, 4]
     let s := applying r [(64, 5), (72, 6)]
     (s.getCore 0).pound.applying = (r, 0) :: [] ∧ Machine.Inv s ∧ r.pay.length ≤ 8 ∧ 64 + 8 * r.pay.length ≤ 262144 ∧ r.op ≠ 11 ∧
       r.pay[1]? = some 4 ∧ lsWord s 0 72 = (0 : W32) ++ (6 : W32)) ∧
    ((mkRec 0 kU 11 0 64 [3]).op = 11 ∧ (mkRec 0 kU 11 0 64 [3]).pay.length = 1 ∧ (mkRec 0 kU 9 0 64 [3]).op = 9) := by
  unfold Machine.Inv; decide +kernel

/-- Core 0 with Empty slots, memory words in die 0's Basin, and records that have waited. -/
def empties (l : List Record) (m : List (Nat × Word)) (f : Core → Core) : State :=
  { withCore (rigAt 0 {}) (fun x => f { x with pound := { entries := l.map fun r => { r := r, at' := 0 } } }) with
    clk := 5, mem := m.foldl (fun m p => Memory.write m (basinKey 0 p.1) (natBytes 8 p.2.toNat)) [], dies := [(0, { size := 8 })] }

/-- A task record for template 0, node 0, ordered or not; a message; a remote-access record. -/
def task0 (ordered : Bool) : Record :=
  mkRec 0 kT 0 3 0x64 [if ordered then 0x0001000000000000 else 0, 2, 0, 0, 0, 0]
def message0 : Record := mkRec 0 kM 0 3 0x400 [11, 12]
def remote0 : Record := mkRec 1 kM 0 3 (0x8000000000000000 ||| 0x0000000000100000) [0]

/-- Template 0 has one node at 4096, whose code stands at 0x500, first argument 7 + instance. -/
def template0 : List (Nat × Word) := [(0, 0x0000000100001000), (4096, 0x500), (4120, 7), (4128, 1)]

theorem witness_ThreadsBegin :
    (let s := empties [message0] [] id
     chosen s 0 = some (0, message0) ∧ message0.kind = kM ∧ isRemote message0 = false ∧ (freeGeneral s 0).isSome = true) ∧
    (let s := empties [remote0] [] fun x => { x with slot1 := 0x600 }
     chosen s 0 = some (0, remote0) ∧ isRemote remote0 = true ∧ (s.getCore 0).slot1 ≠ 0) ∧
    (let s := empties [remote0] [] id
     chosen s 0 = some (0, remote0) ∧ (s.getCore 0).slot1 = 0) ∧
    (let s := empties [task0 true] [] id
     chosen s 0 = some (0, task0 true) ∧ (task0 true).kind = kT ∧ bit ((task0 true).pay.headD 0) 48 = true ∧ (s.getCore 0).lane.length < 16) ∧
    (let s := empties [task0 false] [] id
     chosen s 0 = some (0, task0 false) ∧ bit ((task0 false).pay.headD 0) 48 = false ∧ (s.getCore 0).deque.length < 512) ∧
    (let s := empties [] template0 fun x => { x with lane := [(task0 true, 0)] }
     (s.getCore 0).lane = (task0 true, 0) :: [] ∧ present s 0 = true ∧ laneHead s 0 = some (task0 true) ∧ (freeGeneral s 0).isSome = true ∧
       nodeAt s (dieOf 0) (fld (word0 (task0 true)) 0 16 : Half).toNat (fld (word0 (task0 true)) 16 16 : Half).toNat = some 4096) ∧
    (let s := empties [] template0 fun x => { x with deque := [{ r := task0 false, at' := 0 }] }
     Machine.Inv s ∧ present s 0 = true ∧ mayCreate s 0 = true ∧ laneHead s 0 = none ∧ messageWaits s 0 = false ∧ (freeGeneral s 0).isSome = true ∧
       bottomOf s (s.getCore 0).deque = some 0 ∧ (s.getCore 0).deque[0]? = some { r := task0 false, at' := 0 } ∧
       nodeAt s (dieOf 0) (fld (word0 (task0 false)) 0 16 : Half).toNat (fld (word0 (task0 false)) 16 16 : Half).toNat = some 4096) ∧
    (let s := empties [] [] fun x => { x with deque := [{ r := task0 false, at' := 0 }] }
     nodeAt s (dieOf 0) (fld (word0 (task0 false)) 0 16 : Half).toNat (fld (word0 (task0 false)) 16 16 : Half).toNat = none ∧
       bottomOf s (s.getCore 0).deque = some 0) := by unfold Machine.Inv; decide +kernel

/-- The head of the lane awaits a counter of core 0 at 64, which reads zero. -/
theorem witness_ThreadsBegin_barrier :
    (let r := mkRec 0 kT 0 3 0x64 [0x0003000000000000, 2, 0, 0, 64, 0]
     let s := empties [] [] fun x => { x with lane := [(r, 0)] }
     laneHead s 0 = some r ∧ bit (r.pay.headD 0) 49 = true ∧ r.pay.getD 4 0 ≠ 0 ∧ (fld (r.pay.getD 4 0) 48 16 : Half) = coreAddress s 0 ∧
       laneHead { s with written := [(lsKey 0 64, 4)] } 0 = none) := by decide +kernel

theorem witness_WakesAndReplies_replays :
    (let p : Park := { fault := some (1, 0), acc := some (false, access ld8 3 0) }
     let s := pounded { segThr (seg 0 3 3 64) with st := .parked p } [wake2 0x8000000000000000]
     chosen s 0 = some (0, wake2 0x8000000000000000) ∧ bit (wake2 0x8000000000000000).key 62 = false ∧ (s.thread 0 2).st = .parked p ∧
       (s.thread 0 2).pc = (access ld8 3 0).pc) ∧
    (let p : Park := { fault := some (1, 0), acc := some (false, access ld8 3 0) }
     let s := pounded { segThr (seg 0 3 3 64) with st := .parked p, pc := 68 } [wake2 0x8000000000000000]
     (s.thread 0 2).st = .parked p ∧ (s.thread 0 2).pc ≠ (access ld8 3 0).pc ∧ Calm s 0 2) ∧
    (let s := pounded { thr with st := .parked {} } [wake2 0x8000000000000000]
     chosen s 0 = some (0, wake2 0x8000000000000000) ∧ (s.thread 0 2).saveInUse = false ∧ (s.thread 0 2).st = .parked {} ∧
       (({} : Park).fault = none)) := by unfold Calm; decide +kernel

/-- A launch of tag 3 that runs. -/
def launched (s : State) (n : Nat) : State := s.setLaunch 3 { state := n }

theorem witness_Aborts :
    (let s := { launched (rig thr) 1 with notices := [{ tag := 3, core := none }] }
     s.notices = { tag := 3, core := none } :: [] ∧ (s.launch 3).state ≠ 0 ∧ (s.launch 3).state ≠ 3 ∧ present s 2047 = false ∧ present s 0 = true) ∧
    (let s := { empties [message0, mkRec 0 kK 0 3 0 [0]] [] id with notices := [{ tag := 3, core := some 0 }] }
     s.notices = { tag := 3, core := some 0 } :: [] ∧ present s 0 = true ∧ (s.getCore 0).marks.contains 3 = false) := by decide +kernel

theorem witness_Aborts_again : (launched (rig thr) 1 |>.launch 3).state = 1 ∧
    ((launched (rig thr) 3 |>.launch 3).state = 3 ∧
      { launched (rig thr) 3 with notices := [{ tag := 3, core := none }] }.notices = { tag := 3, core := none } :: []) := by decide +kernel

-- Witnesses: groups and tows ------------------------------------------------------------------------------------------------------------

/-- Group 5 of die 0. -/
def grouped (t : Thread) (x : Group) : State := { rig t with dies := [(0, { groups := [(5, x)] })] }

theorem witness_GroupMembership : Ready (rig thr) (.join (.g 1) (.small 5)) ∧ Ready (rig thr) (.leave (.g 1) (.small 5)) ∧
    Ready (rig thr) (.bar (.small 5)) ∧ groupOf 5 ≠ none ∧ groupOf 0x3FFF ≠ none ∧ groupOf 0x4000 = none ∧ groupOf 0x8000 = none ∧
    Ready (rig thr) (.join (.g 1) (.lit32 0x4000)) ∧ Ready (rig thr) (.leave (.g 1) (.lit32 0x8000)) ∧ Ready (rig thr) (.bar (.lit32 0x8000)) ∧
    (fld (val1 (rig thr) (.lit32 0x4000)) 0 16 : Half) = 0x4000 ∧
    (let u := after1 (grouped thr {}) (.small 5)
     u.myTa ∉ (u.group 5).members ∧ u.myTa ∉ (u.group 5).pending) ∧
    (let u := after1 (grouped thr { members := [2], roundOf := [2] }) (.small 5)
     (u.myTa ∈ (u.group 5).members ∨ u.myTa ∈ (u.group 5).pending) ∧ u.myTa ∈ (u.group 5).roundOf) ∧
    (let s := grouped { thr with st := .removed (.group false 5 (.g 1)) } {}
     (s.thread 0 2).st = .removed (.group false 5 (.g 1)) ∧ plainDst (.g 1) = true ∧ Calm s 0 2 ∧ taNum 0 2 ∉ (s.group 5).members ∧
       taNum 0 2 ∉ (s.group 5).pending ∧ (s.group 5).members.length + (s.group 5).pending.length < 256) ∧
    (let s := grouped { thr with st := .removed (.group false 5 (.g 1)) } { members := List.range' 100 256 }
     taNum 0 2 ∉ (s.group 5).members ∧ 256 ≤ (s.group 5).members.length + (s.group 5).pending.length ∧ Calm s 0 2) ∧
    (let s := grouped { thr with st := .removed (.group true 5 (.g 1)) } { members := [2], roundOf := [2] }
     (s.thread 0 2).st = .removed (.group true 5 (.g 1)) ∧ taNum 0 2 ∈ (s.group 5).members ∧ taNum 0 2 ∈ (s.group 5).roundOf ∧ Calm s 0 2) := by
  unfold Ready Calm; decide +kernel

theorem witness_BarrierRounds : groupOf 5 ≠ none ∧
    (let s := grouped { thr with st := .blocked (.bar 5 4) } { members := [2, 3], roundOf := [2, 3], arrived := [3, 2], blocked := [2, 3], pending := [4] }
     (∀ ta ∈ (s.group 5).roundOf, ta ∈ (s.group 5).arrived) ∧ ((s.group 5).roundOf ≠ [] ∨ (s.group 5).pending ≠ []) ∧
       (∀ ta ∈ (s.group 5).blocked, ta < 65536) ∧ taNum 0 2 ∈ (s.group 5).blocked ∧ (s.thread 0 2).st = .blocked (.bar 5 4) ∧ Calm s 0 2) ∧
    (let s := grouped thr { members := [2, 3], roundOf := [2, 3], arrived := [2], blocked := [2] }
     ∃ ta ∈ (s.group 5).roundOf, ta ∉ (s.group 5).arrived) ∧
    (let s := grouped { thr with st := .blocked (.bar 5 4) } { members := [2, 3], roundOf := [2, 3], arrived := [2], blocked := [2], dogOn := true, dog := 1000000 }
     (s.group 5).dogOn = true ∧ s.wharf.watchdog ≠ 0 ∧ dogTicks s ≤ (s.group 5).dog ∧ taNum 0 2 ∈ (s.group 5).arrived ∧
       (s.thread 0 2).st = .blocked (.bar 5 4)) := by unfold Calm; decide +kernel

/-- A thread that bar has arrived for is parked; a thread joins in the cycle in which the round completed. -/
theorem witness_BarrierRounds_parked :
    (let p : Park := { before := some (.bar 5 4) }
     let s := grouped { thr with st := .parked p } { members := [2], roundOf := [2], arrived := [2], blocked := [2] }
     (∀ ta ∈ (s.group 5).roundOf, ta ∈ (s.group 5).arrived) ∧ (s.group 5).roundOf ≠ [] ∧ taNum 0 2 ∈ (s.group 5).blocked ∧
       (s.thread 0 2).st = .parked p ∧ p.before = some (.bar 5 4)) ∧
    (let s := grouped { thr with st := .removed (.group false 5 (.g 1)) } { endedAt := 1 }
     (s.thread 0 2).st = .removed (.group false 5 (.g 1)) ∧ Calm s 0 2 ∧ (s.group 5).endedAt = s.clk + 1 ∧
       taNum 0 2 ∉ (s.group 5).members ∧ taNum 0 2 ∉ (s.group 5).pending) := by unfold Calm; decide +kernel

theorem witness_TowInstructions : Ready (rig thr) (.tow (.small 5) (.lit32 512)) ∧ Ready (rig thr) (.moor (.g 1) (.small 5)) ∧
    groupOf (fld (val1 (rig thr) (.lit32 0x4000)) 0 16) = none ∧ groupOf 5 ≠ none ∧ Ready (rig thr) (.tow (.lit32 0x4000) (.lit32 512)) ∧
    (let u := after2 (grouped thr {}) (.small 5) (.lit32 512)
     u.myTa ∉ (u.group 5).members) ∧
    (let u := after2 (grouped thr { members := [2] }) (.small 5) (.lit32 512)
     u.myTa ∈ (u.group 5).members ∧ (u.group 5).tow ≠ 1 ∧ u.me.st = .runnable) ∧
    (fld (val2 (rig thr) (.small 5) (.lit32 514)) 0 2 : BitVec 2) ≠ 0 ∧ (fld (val2 (rig thr) (.small 5) (.lit32 512)) 0 2 : BitVec 2) = 0 ∧
    (let u := after1 (grouped thr { members := [2], tow := 1, motor := 3 }) (.small 5)
     u.myTa ∈ (u.group 5).members ∧ (u.group 5).tow = 1 ∧ ¬ ((u.group 5).motor = u.myTa ∨ u.me.tow = .butty 5) ∧
       clusterOf ((u.group 5).motor / 16) = clusterOf u.core) ∧
    (let u := after1 (grouped { thr with tow := .butty 5 } { members := [2], tow := 1, motor := 3 }) (.small 5)
     u.me.tow = .butty 5 ∧ u.myTa ∈ (u.group 5).members) ∧
    (let u := after1 (grouped thr { members := [2], tow := 1, motor := 256 }) (.small 5)
     ¬ (u.group 5).motor = u.myTa ∧ ¬ clusterOf ((u.group 5).motor / 16) = clusterOf u.core) ∧
    (rig thr).me.tow = .none ∧ (rig { thr with tow := .butty 5 }).me.tow = .butty 5 ∧ (rig { thr with tow := .motor 5 512 }).me.tow = .motor 5 512 ∧
    (rig { thr with tow := .draining 5 }).me.tow = .draining 5 := by
  unfold Ready; decide +kernel

theorem getD_one {α : Type} (x d : α) (c : Nat) : SMap.getD [(0, x)] c d = if c = 0 then x else d := by
  by_cases h : c = 0
  · subst h
    rfl
  · have : (0 == c) = false := by simpa using fun e => h e.symm
    simp [SMap.getD, SMap.find, h]

theorem slots_set {t : Thread} {k : Fin 16} (h : k ≠ 2) : ((Vector.replicate 16 ({} : Thread)).set 2 t).get k = {} := by
  change ((Vector.replicate 16 ({} : Thread)).set 2 t)[k.val] = {}
  rw [Vector.getElem_set_ne _ _ (by intro e; exact h (Fin.ext e.symm)), Vector.getElem_replicate]

/-- No thread of a rig but that of slot 2 has a part in a tow. -/
theorem rig_tow (t : Thread) (x : Group) (c : Nat) (k : Fin 16) (h : (c, k) ≠ (0, 2)) : ((grouped t x).thread c k).tow = .none := by
  have e : (grouped t x).thread c k = (SMap.getD [(0, ({ slots := (Vector.replicate 16 ({} : Thread)).set 2 t } : Core))] c {}).slots.get k := rfl
  rw [e, getD_one]
  split
  · rename_i hc
    rw [slots_set]
    intro hk
    exact h (by rw [hc, hk])
  · change ((Vector.replicate 16 ({} : Thread))[k.val]).tow = .none
    rw [Vector.getElem_replicate]

theorem witness_TowInstructions_motors : ∀ c k (g' : Half) r',
    ((after2 (grouped thr { members := [2] }) (.small 5) (.lit32 512)).thread c k).tow = .motor g' r' → fld g' 0 15 ≠ (fld (5 : Half) 0 15 : BitVec 15) := by
  intro c k g' r' h
  exfalso
  change ((grouped thr { members := [2] }).thread c k).tow = .motor g' r' at h
  by_cases e : (c, k) = ((0 : Nat), (2 : Fin 16))
  · cases e
    have h2 : ((grouped thr { members := [2] }).thread 0 2).tow = .none := by decide +kernel
    rw [h2] at h
    cases h
  · rw [rig_tow _ _ _ _ e] at h
    cases h

/-- An instruction on the ring for slot 2. -/
def flit (n : Nat) : RingFlit := { core := 0, slot := 2, f := { ins := .yield, word := 0, pc := 64, outcome := 68 }, arrives := n }

theorem witness_TowEvents :
    (let s := { rig { thr with tow := .butty 5, st := .blocked .butty } with ring := [flit 0] }
     s.ring[0]? = some (flit 0) ∧ (flit 0).arrives ≤ s.clk ∧ s.clk < (flit 1).arrives ∧ (∀ m, m < 0 → ∀ h, s.ring[m]? = some h → (h.core, h.slot) ≠ (0, 2)) ∧
       (s.thread 0 2).tow = .butty 5 ∧ (s.thread 0 2).st = .blocked .butty) ∧
    (let s := grouped { thr with st := .blocked (.moor 5 (.g 1) 4) } { members := [2], tow := 1, motor := 3, rejoin := 512 }
     (s.thread 0 2).st = .blocked (.moor 5 (.g 1) 4) ∧ motorRejoins s 5 = false ∧ clusterOf ((s.group 5).motor / 16) = clusterOf 0 ∧ Calm s 0 2 ∧
       plainDst (.g 1) = true) ∧
    (let s := { grouped { thr with st := .blocked (.moor 5 (.g 1) 4) } { members := [2], tow := 1, motor := 3, rejoin := 512 } with
       clusters := [(0, { lines := [(lineKey 0 512, 0)] })] }
     motorRejoins (withCore s fun x => { x with slots := x.slots.set 3 { thr with pc := 512, tow := .motor 5 512 } }) 5 = true) := by
  refine ⟨⟨by decide +kernel, by decide +kernel, by decide +kernel, fun m h => absurd h (Nat.not_lt_zero m), by decide +kernel, by decide +kernel⟩, ?_⟩
  unfold Calm; decide +kernel

theorem witness_TowEvents_settle :
    (let s := rig { thr with tow := .butty 5 }
     (s.thread 0 2).tow = .butty 5 ∧ (s.thread 0 2).fwd = [] ∧ (s.thread 0 2).st = .runnable) ∧
    (let s := rig { thr with tow := .draining 5, st := .blocked .butty }
     (s.thread 0 2).tow = .draining 5 ∧ (s.thread 0 2).fwd = [] ∧ ∀ f ∈ s.ring, (f.core, f.slot) ≠ (0, 2)) ∧
    (let s := { rig { thr with tow := .draining 5 } with ring := [flit 3] }
     (s.thread 0 2).tow = .draining 5 ∧ (s.thread 0 2).fwd = [] ∧ ((∃ f ∈ s.ring, (f.core, f.slot) = (0, 2)) ∧ (s.thread 0 2).st = .runnable)) ∧
    (let s := rig { thr with tow := .motor 5 512, st := .removed .motor }
     (s.thread 0 2).tow = .motor 5 512 ∧ (s.thread 0 2).st = .removed .motor ∧ buttyFull s 5 = false) := by
  decide +kernel

-- Witnesses: engines, bells, the allocator, system calls -----------------------------------------------------------------------------------

/-- A copy block for port 0: opcode 0, both segments sg0, from offset 0 to offset 64, 64 bytes, its element and bell asked for. -/
def copyBlock : List (Nat × Word) := [(4096, 0x0003000000000000), (4104, 0), (4112, 0), (4120, 64), (4128, 64), (4136, 0), (4144, 0), (4152, 0)]

/-- A thread with 128 bytes of the local store as segment 0, rights R and W, and words there. -/
def pusher (t : Thread) (m : List (Nat × Word)) : State :=
  { rig { t with sg := (Vector.replicate 8 ({} : Seg)).set 0 (seg 4096 0 3 128) } with
    mem := m.foldl (fun m p => Memory.write m (lsKey 0 p.1) (natBytes 8 p.2.toNat)) [] }

/-- The block that push reads. -/
def portWordsOf (u : State) : List Word := (List.range 8).map fun i => BitVec.ofNat 64 (bytesNat (rawRead u (lsKey u.core 4096 + 8 * i) 8))

/-- How a submission ends, without its command. -/
def subIs : Submission → Option (Option (Nat × Nat))
  | .ok _ => some none
  | .trap c w => some (some (c, w))
  | .misuse => none

def outs (n : Nat) : List Outstanding := List.replicate n { cmd := 0, element := false, bell := false, done := true }

theorem witness_EngineCommands :
    (let u := after1 (pusher thr copyBlock) (.small 0)
     Ready (pusher thr copyBlock) (.push 0 (.small 0)) ∧ (u.me.sg.get 0).kind = 0 ∧
       okIs (segCheck u (u.me.sg.get 0) (val1 (pusher thr copyBlock) (.small 0)).toNat 64 needR 64 true) 4096 = true ∧
       poisoned u (lsKey u.core 4096) 64 = false ∧ subIs (submission u 0 (portWordsOf u)) = some none ∧ (u.engine (portEngine u.core 0)).cmds.length < 64) ∧
    (let u := after1 (pusher thr [(4096, 0x0100000000000000)]) (.small 0)
     subIs (submission u 0 (portWordsOf u)) = none) ∧
    (let u := after1 (pusher { thr with ports := (Vector.replicate 4 ({} : Port)).set 0 { out := outs 8 } } copyBlock) (.small 0)
     8 ≤ (u.me.ports.get 0).out.length) ∧
    (let u := after1 (pusher thr (copyBlock ++ [(4128, 65)])) (.small 0)
     subIs (submission u 0 (portWordsOf u)) = some (some (0x03, 3))) := by unfold Ready; decide +kernel

/-- A command that waits for room in core 0's copy engine, and that engine with n commands. -/
def cmd0 : Cmd :=
  { id := 0, port := 0, opcode := 0, core := 0, slot := 2, helm := none, orphan := false, asid := 0, tag := 0, words := List.replicate 8 0,
    ranges := [], limit := 0, started := false, done := [], parked := none, failAt := none, status := 0, refused := 0, rounds := 0, isCopy := false }
def queued (t : Thread) (n : Nat) : State := { rig t with clusters := [(0, { copy := { cmds := List.replicate n cmd0 } })] }

theorem witness_EngineCommands_room :
    (let s := queued { thr with st := .removed (.engine cmd0) } 64
     (s.thread 0 2).st = .removed (.engine cmd0) ∧ cmd0.core = 0 ∧ cmd0.slot = 2 ∧ 64 ≤ (s.engine (portEngine 0 cmd0.port)).cmds.length) ∧
    (let s := queued { thr with st := .removed (.engine cmd0) } 63
     (s.engine (portEngine 0 cmd0.port)).cmds.length < 64 ∧ Calm s 0 2) := by unfold Calm; decide +kernel

/-- A thread whose bell of port 1 has come. -/
def bellThr : Thread := { thr with bh := 0x800, bells := [(1, 7, 9)] }

theorem witness_ElementsAndBells : (let s := portRig [(1, 9)] [] []
     Ready s (.pop (.g 1) 1) ∧ (s.me.ports.get 1).elems ≠ [] ∧ Ready s (.poll (.g 1) 1)) ∧
    (let s := portRig [] [{ cmd := 1, element := true, bell := false, done := false }] []
     Ready s (.pop (.g 1) 1) ∧ (s.me.ports.get 1).elems = [] ∧ (s.me.ports.get 1).out.any Outstanding.element = true) ∧
    Ready (rig thr) (.pop (.g 1) 1) ∧ ((rig thr).me.ports.get 1).out.any Outstanding.element = false ∧ Ready (rig thr) (.poll (.g 1) 1) ∧
    plainDst (.g 1) = true ∧ Ready (rig thr) (.bellh (.g 1) (.small 3)) ∧ (fld (val1 (rig thr) (.small 3)) 0 2 : BitVec 2) ≠ 0 ∧
    Ready (rig thr) (.bellh (.g 1) (.lit32 0x800)) ∧ (fld (val1 (rig thr) (.lit32 0x800)) 0 2 : BitVec 2) = 0 ∧ (rig thr).me.inHandler = false ∧
    (rig { thr with inHandler := true }).me.inHandler = true ∧
    (let T := (rig bellThr).thread 0 2
     T.bells = (1, 7, 9) :: [] ∧ T.st = .runnable ∧ T.bh ≠ 0 ∧ (fld T.bh 0 2 : BitVec 2) = 0 ∧ T.inHandler = false ∧ T.tow = .none ∧
       failedRelaxed T = none ∧ T.midway = false) ∧ ((rig { bellThr with st := .blocked (.wait 1 4) }).thread 0 2).st = .blocked (.wait 1 4) := by unfold Ready; decide +kernel

/-- Pool 3 of die 0 with held addresses. -/
def pooled (t : Thread) (l : List Nat) (head : Nat) : State :=
  { rig t with dies := [(0, { pools := [(3, { base := 0x1000, count := 16, size := 64, enabled := true, held := l, head := head })] })] }

theorem witness_AllocatorInstructions : Ready (rig thr) (.alloc (.g 1) (.small 3)) ∧ Ready (rig thr) (.free (.lit32 0x1000) (.small 3)) ∧
    (let y := getPool (after2 (pooled thr [] 0) (.lit32 0x1000) (.small 3)) (dieOf 0) 3
     3 ≤ 255 ∧ y.enabled = true ∧ y.base ≤ 0x13C0 ∧ 0x13C0 < y.base + y.count * y.size ∧ ¬ 0x1400 < y.base + y.count * y.size ∧
       (0x13C0 - y.base) % y.size = 0 ∧ (0x13C1 - y.base) % y.size ≠ 0) ∧
    (let s := pooled { thr with st := .removed (.alloc (.g 1) 3) } [0x1000, 0x1040] 0
     (s.thread 0 2).st = .removed (.alloc (.g 1) 3) ∧ Calm s 0 2 ∧ (getPool s (dieOf 0) 3).held = [0x1000] ++ [0x1040] ∧
       (getPool s (dieOf 0) 3).enabled = true) ∧
    (let s := pooled { thr with st := .removed (.alloc (.g 1) 3) } [] 0
     (getPool s (dieOf 0) 3).held = [] ∧ (getPool s (dieOf 0) 3).head = 0 ∧ (getPool (pooled thr [] 0x1000) (dieOf 0) 3).head ≠ 0) ∧
    (let s := pooled { thr with st := .removed (.free 0x1000 3) } [] 0
     (s.thread 0 2).st = .removed (.free 0x1000 3) ∧ (getPool s (dieOf 0) 3).held.length < 16 ∧ Calm s 0 2 ∧
       16 ≤ (getPool (pooled thr (List.range 16) 0) (dieOf 0) 3).held.length) := by unfold Ready Calm; decide +kernel

/-- Argument 0 names offset 64 of segment 2, a global segment of 64 bytes, or of an empty one. -/
theorem witness_SystemInstructions : Ready (rig thr) (.sys (.small 9) (.small 1)) ∧ Ready (rig thr) (.trap (.g 1)) ∧
    Ready (rig thr) (.rdcap (.g 1) (.small 4) (.small 1)) ∧
    (let s := rig { segThr (seg 0x10000 3 3 64) with w := (Vector.replicate 24 (0 : Word)).set 16 0x4000000000000040 }
     let u := after2 s (.small 9) (.small 1)
     bit (val2 s (.small 9) (.small 1)) 0 = true ∧ (u.me.sg.get (Fin.ofNat 8 (fld (u.me.w.get 16) 61 3 : BitVec 3).toNat)).kind = 3 ∧
       (fld (u.me.w.get 16) 52 9 : BitVec 9) = 0 ∧ (fld (u.me.w.get 16) 0 52 : BitVec 52).toNat ≤ (u.me.sg.get 2).limit ∧
       (List.range 6).all (fun i => bit (val2 s (.small 9) (.small 1)) i == (i == 0)) = true) ∧
    (rig thr).me.sg.get (Fin.ofNat 8 (fld ((rig thr).me.w.get 16) 61 3 : BitVec 3).toNat) = {} ∧ ({} : Seg).kind ≠ 3 ∧
    (35 > 34 ∧ 4 < 5 ∧ 28 < 29) := by unfold Ready; decide +kernel

theorem witness_SystemFrame : isSystem (.sys (.small 9) (.small 1)) = true ∧ ((rig thr).me.sg.get 0).kind ≠ 3 ∧ Machine.Inv (rig thr) ∧
    ∃ t, exec (.sys (.small 9) (.small 0)) (rig thr) = .next t := ⟨by decide +kernel, by decide +kernel, by unfold Machine.Inv; decide, ⟨_, rfl⟩⟩

theorem witness_WeirFrame : isWeir .wclr = true ∧ ∃ t, exec .wclr (rig thr) = .next t := ⟨by decide, ⟨_, rfl⟩⟩

theorem witness_ControlFrame : isControl .endT = true ∧ (∀ g r, (rigAt 0 thr).me.tow ≠ .motor g r) ∧ (∃ t, exec .endT (rigAt 0 thr) = .next t) ∧
    ∃ t, exec (.wrs .kpc (.g 1)) (rigAt 0 thr) = .next t := by
  refine ⟨by decide, ?_, ⟨_, rfl⟩, ⟨_, rfl⟩⟩
  intro g r h
  cases h

-- Witnesses: keeper instructions ------------------------------------------------------------------------------------------------------------

theorem witness_KeeperOnlyTraps : isKeeperOnly .kfence = true ∧ isKeeperOnly (.kpark (.g 1)) = true ∧ (rig thr).slot ≠ 0 ∧
    (rigAt 15 thr).slot ≠ 0 := by decide +kernel

/-- The keeper executes with slot k selected, which holds a thread. -/
def keeps (k : Fin 16) (t : Thread) (a : SlotState) : State :=
  withCore (rigAt 0 { thr with st := a }) fun x => { x with ksl := BitVec.ofNat 4 k.val, slots := x.slots.set k.val t k.isLt, kca := 0x1000 }

theorem witness_ParkResumeKill :
    (let s := keeps 2 { thr with st := .blocked (.wait 1 4) } .runnable
     s.slot = 0 ∧ plainDst (.g 1) = true ∧ s.me.st = .runnable ∧ s.myCore.selected = 2 ∧ Ready s (.kpark (.g 1)) ∧
       (s.thread 0 2).st = .blocked (.wait 1 4) ∧ Ready s (.kresume (.g 1)) ∧ (s.thread 0 2).st.code ≠ 4 ∧ Ready s (.kkill (.g 1)) ∧
       (s.thread 0 2).st ≠ .empty ∧ (s.thread 0 2).relaxed = [] ∧ (s.thread 0 2).serving = none) ∧
    (keeps 1 thr .runnable).myCore.selected = 1 ∧ ((keeps 2 thr .runnable).thread 0 2).st = .runnable ∧
    ((keeps 2 { thr with st := .removed (.group false 5 (.g 1)) } .runnable).thread 0 2).st = .removed (.group false 5 (.g 1)) ∧
    (let p : Park := { before := some (.wait 1 4) }
     let s := keeps 2 { thr with st := .parked p } .runnable
     (s.thread 0 2).st = .parked p ∧ p.fault = none ∧ Calm s 0 2 ∧ (s.thread 0 2).st.code = 4) ∧
    (let p : Park := { before := some (.bar 5 4), done := true }
     let s := keeps 2 { thr with st := .parked p } .runnable
     (s.thread 0 2).st = .parked p ∧ p.done = true ∧ Calm s 0 2) ∧
    ((keeps 2 {} .runnable).thread 0 2).st = .empty ∧ (keeps 0 { thr with pc := 128 } .runnable).myCore.selected = 0 := by
  unfold Ready Calm; decide +kernel

theorem witness_ParkResumeKill_midway : ((keeps 2 { thr with midway := true } .runnable).thread 0 2).st = .runnable ∧
    ((keeps 2 { thr with midway := true } .runnable).thread 0 2).midway = true ∧
    ((keeps 2 { thr with st := .removed (.pop 1) } .runnable).thread 0 2).st = .removed (.pop 1) := by decide +kernel

theorem witness_ParkResumeKill_motor : ∀ g r, ((keeps 2 thr .runnable).thread 0 2).tow ≠ .motor g r := by
  have h : ((keeps 2 thr .runnable).thread 0 2).tow = .none := by decide +kernel
  intro g r
  rw [h]
  simp

/-- The keeper's save or load of slot 2 at its due cycle. -/
def saving (isLoad : Bool) (t : Thread) : State := keeps 2 t (.removed (.saveLoad isLoad (.g 1) 0))

theorem witness_SaveAndLoad : Ready (keeps 2 thr .runnable) (.ksave (.g 1)) ∧ Ready (keeps 2 thr .runnable) (.kload (.g 1)) ∧
    (let s := saving false { thr with st := .parked { cause := 4 } }
     (s.thread 0 0).st = .removed (.saveLoad false (.g 1) 0) ∧ plainDst (.g 1) = true ∧ Calm s 0 0 ∧ (s.getCore 0).selected ≠ 0 ∧
       (s.thread 0 2).st = .parked { cause := 4 } ∧ (s.thread 0 2).bells = [] ∧ (s.thread 0 2).saveInUse = false ∧ (s.thread 0 2).relaxed = [] ∧
       (s.thread 0 2).older = [] ∧ (s.thread 0 2).tow = .none ∧ saveArea (s.getCore 0).kca 2 + 1536 ≤ 262144 ∧ Machine.Inv s ∧
       (∀ p : Fin 4, ((s.thread 0 2).ports.get p).out = [] ∧ ((s.thread 0 2).ports.get p).staging = [])) ∧
    { saving false thr with clk := 0 }.clk < 24 ∧ ((saving false thr).thread 0 2).st = .runnable ∧
    ((saving false { bellThr with st := .parked {} }).thread 0 2).bells ≠ [] ∧
    ((saving false { thr with st := .parked { fault := some (1, 0) } }).thread 0 2).st = .parked { fault := some (1, 0) } ∧
    ((saving false { thr with st := .parked {}, saveInUse := true }).thread 0 2).saveInUse = true ∧
    (let t := (saving false { thr with st := .parked {}, older := [frame1] }).thread 0 2
     t.older ≠ [] ∧ t.spillAt = none ∧ t.relaxed = []) ∧
    ((saving false { thr with st := .blocked (.bar 5 4) }).thread 0 2).st = .blocked (.bar 5 4) ∧
    (let s := saving true { ({} : Thread) with saveInUse := true }
     (s.thread 0 0).st = .removed (.saveLoad true (.g 1) 0) ∧ (s.thread 0 2).st = .empty ∧ (s.thread 0 2).saveInUse = true ∧ Calm s 0 0 ∧
       (fld (lsWord s 0 (saveArea (s.getCore 0).kca 2 + 8 * 187)) 24 3 : BitVec 3) = 0) ∧
    ((saving true {}).thread 0 2).saveInUse = false ∧ ((saving true thr).thread 0 2).st ≠ .empty := by
  unfold Ready Calm Machine.Inv; decide +kernel

theorem witness_KeeperConfiguration :
    (let s := keeps 2 { thr with st := .parked {} } .runnable
     s.slot = 0 ∧ Ready s (.sgset 1 (.g 1) (.g 2)) ∧ Ready s (.sgsetK 1 (.g 1) (.g 2)) ∧ Ready s (.ctuinv (.g 1) (.g 2)) ∧ Ready s (.kret 31 (.g 1)) ∧
       (s.thread 0 2).st = .parked {} ∧ s.myCore.selected ≠ 0 ∧ Calm s 0 2 ∧ Ready s .kfence ∧ (s.thread 0 2).relaxed = [] ∧
       Ready s (.kcfg (.small 0x14) (.g 1)) ∧ 0x15 ≤ (0x15 : Word).toNat ∧ (0x14 : Word).toNat < 0x15) ∧
    (let s := keeps 2 thr (.removed (.ctuinv 9 (some 1) 0 4))
     (s.thread 0 0).st = .removed (.ctuinv 9 (some 1) 0 4) ∧ Calm s 0 0 ∧ rangeInUse s (some 1) 0 4 = false) ∧
    (let l : Leaf := { asid := 1, page := 3, large := false, leaf := 0, entry := 0, dirty := true }
     let h : HalfDone := { upper := false, got := 0, home := .held [(l, 0, 8)] }
     let x : Access := { access ld8 3 60 with half := some h }
     let s := keeps 2 { thr with st := .removed (.mem x) } (.removed (.ctuinv 9 (some 1) 0 4))
     (s.thread 0 0).st = .removed (.ctuinv 9 (some 1) 0 4) ∧ (SMap.find s.cores 0).isSome = true ∧ (s.thread 0 2).st = .removed (.mem x) ∧ x.half = some h ∧
       h.home = .held [(l, 0, 8)] ∧ l.inRange (some 1) 0 4 = true ∧ rangeInUse s (some 1) 0 4 = true) ∧
    (let s := keeps 2 { thr with relaxed := [{ acc := access ld8 2 0 }] } .runnable
     ∃ r ∈ (s.thread 0 2).relaxed, r.poison = false ∧ r.status = none ∧ r.denied = false) := by unfold Ready Calm; decide +kernel

/-- The keeper moved the pc of a thread that a fault has parked. -/
theorem witness_KeeperConfiguration_moved :
    let p : Park := { fault := some (1, 0), acc := some (false, access ld8 3 0) }
    let s := keeps 2 { thr with st := .parked p, pc := 68 } .runnable
    (s.thread 0 2).st = .parked p ∧ p.fault ≠ none ∧ (s.thread 0 2).pc ≠ (access ld8 3 0).pc ∧ Calm s 0 2 ∧ s.myCore.selected ≠ 0 := by
  unfold Calm; decide +kernel

/-- A record at the first bytes of the keeper's segment 0. -/
def kposting (hdr : Word) : State :=
  { rigAt 0 { thr with sg := (Vector.replicate 8 ({} : Seg)).set 0 (seg 4096 0 1 128) } with mem := Memory.write [] (lsKey 0 4096) (natBytes 8 hdr.toNat) }

theorem witness_KeeperPosts :
    (let s := kposting (header (coreTa 1) kC 1 1 0)
     s.slot = 0 ∧ Ready s (.kpost (.small 0)) ∧ (s.me.sg.get 0).kind = 0 ∧ okIs (segCheck s (s.me.sg.get 0) 0 8 needR 8 true) 4096 = true ∧
       okIs (segCheck s (s.me.sg.get 0) 0 24 needR 8 true) 4096 = true ∧ poisoned s (lsKey 0 4096) 24 = false ∧
       (fld (header (coreTa 1) kC 1 1 0) 30 3 : BitVec 3).toNat + 1 = 1 ∧ ({ hdr := header (coreTa 1) kC 1 1 0, key := 0, pay := [0] } : Record).kind ≠ kK ∧
       namesPound s ({ hdr := header (coreTa 1) kC 1 1 0, key := 0, pay := [0] } : Record).ta = true ∧
       portAccepts s 0 { hdr := header (coreTa 1) kC 1 1 0, key := 0, pay := [0] } = true) ∧
    ({ hdr := header (coreTa 1) kK 1 1 0, key := 0, pay := [0] } : Record).kind = kK ∧
    namesPound (rigAt 0 thr) ({ hdr := header 0x1800 kC 1 1 0, key := 0, pay := [0] } : Record).ta = false := by
  unfold Ready; decide +kernel

theorem witness_KeeperFrame : isKeeperOnly (.sgset 1 (.g 1) (.g 2)) = true ∧ ((rigAt 0 thr).me.sg.get 0).kind ≠ 3 ∧ Machine.Inv (rigAt 0 thr) ∧
    (∀ d, Instr.sgset 1 (.g 1) (.g 2) ≠ .kresume d) ∧ (∀ d, Instr.sgset 1 (.g 1) (.g 2) ≠ .kkill d) ∧ (∀ r a, Instr.sgset 1 (.g 1) (.g 2) ≠ .kret r a) ∧
    ∃ t, exec (.sgset 1 (.g 1) (.g 2)) (rigAt 0 thr) = .next t :=
  ⟨by decide +kernel, by decide +kernel, (by unfold Machine.Inv; decide), (by intro d h; cases h), (by intro d h; cases h), (by intro r a h; cases h), ⟨_, rfl⟩⟩

theorem witness_TowAndResumeFrame : (rig thr).me.st = .runnable ∧ (∃ t, exec .castoff (rig thr) = .next t) ∧
    (keeps 2 thr .runnable).me.st = .runnable ∧ (∃ t, exec (.kkill (.g 1)) (keeps 2 thr .runnable) = .next t) ∧
    ((keeps 2 thr .runnable).thread 0 2).relaxed = [] ∧ ((keeps 2 thr .runnable).thread 0 2).st = .runnable :=
  ⟨by decide +kernel, ⟨_, rfl⟩, by decide +kernel, ⟨_, rfl⟩, by decide +kernel, by decide +kernel⟩

/-- No thread of a rig waits in moor. -/
theorem witness_TowAndResumeFrame_moors : ∀ c k d, ¬ (∃ g n, ((rig thr).thread c k).st = .blocked (.moor g d n) ∨
    ∃ p, ((rig thr).thread c k).st = .parked p ∧ p.before = some (.moor g d n)) := by
  intro c k d h
  have e : (rig thr).thread c k = (SMap.getD [(0, ({ slots := (Vector.replicate 16 ({} : Thread)).set 2 thr } : Core))] c {}).slots.get k := rfl
  rw [e, getD_one] at h
  have hs : ∀ j : Fin 16, ((Vector.replicate 16 ({} : Thread)).get j).st = .empty := by decide
  have hr : ∀ j : Fin 16, (((Vector.replicate 16 ({} : Thread)).set 2 thr).get j).st = .empty ∨
      (((Vector.replicate 16 ({} : Thread)).set 2 thr).get j).st = .runnable := by decide
  obtain ⟨g, n, h⟩ := h
  split at h
  · rcases hr k with h2 | h2 <;> rw [h2] at h <;> rcases h with h | ⟨p, h, -⟩ <;> cases h
  · have h2 := hs k
    rcases h with h | ⟨p, h, -⟩ <;> rw [show (({} : Core).slots.get k).st = _ from h2] at h <;> cases h

theorem witness_HelmFrame : isHelm (.swqGen 5 6) = true ∧ ∃ t, exec (.swqGen 5 6) (helmRig {}) = .next t := ⟨by decide, ⟨_, rfl⟩⟩

-- Witnesses: engines ------------------------------------------------------------------------------------------------------------------------

/-- An engine with one command in progress, over a rig. -/
def engined (s : State) (e : Eng) (m : Cmd) : State := s.setEngine e { cmds := [{ m with started := true }] }

/-- A command in progress that moves 64 bytes of core 0's local store; with its words 4 and 5. -/
def moving (w4 w5 : Word) : Cmd :=
  { cmd0 with words := [0, 0, 0, 0, w4, w5, 0, 0], ranges := [(0, lsKey 0 0), (0, lsKey 0 4096), (0, lsKey 0 8192)], limit := 64, started := true }

/-- Where two ranges stand. -/
def bothAt (x : Both) (a b : Nat) (u : State) : Bool :=
  match x with
  | .at' (.raw p) (.raw q) t => p == a && q == b && t == u
  | _ => false

theorem bothAt_iff {x : Both} {a b : Nat} {u : State} : bothAt x a b u = true → x = .at' (.raw a) (.raw b) u := by
  intro h
  unfold bothAt at h
  split at h
  · simp only [Bool.and_eq_true, beq_iff_eq] at h
    rw [h.1.1, h.1.2, h.2]
  · cases h

/-- A translation of two ranges faults. -/
def bothFault : Both → Bool
  | .fault _ _ _ _ => true
  | _ => false

theorem bothFault_iff {x : Both} : bothFault x = true → ∃ u c a d, x = .fault u c a d := by
  cases x <;> simp [bothFault]

/-- A command whose destination no table maps, at its first chunk and its first line. -/
theorem witness_EngineParts_fault :
    let m := { moving 64 0 with ranges := [(0, lsKey 0 0), (3, 4096)] }
    let s := engined (rig thr) (.copy 0) m
    liveCmd s (.copy 0) 0 = some m ∧ m.helm = none ∧ m.mayDo 0 = true ∧ (∀ c ∈ m.flight, c.no ≠ 0) ∧ (s.engine (.copy 0)).inFlight < 8 ∧
      0 < chunkCount (m.range 1).2 m.copyLen ∧ m.parked = none ∧
      bothFault (placeBoth s 0 m.asid (m.range 0) (m.range 1) (chunkOff 4096 0) (chunkLen 4096 m.copyLen 0) (chunkOff 4096 0)
        (chunkLen 4096 m.copyLen 0) 1) = true ∧
      bothFault (placeBoth s (clusterOf m.core) m.asid (m.range 0) (m.range 1) (64 * 0) 64 (64 * 0) 64 2) = true := by decide +kernel

theorem witness_EngineParts :
    (let s := engined (rig thr) (.copy 0) (moving 64 0)
     let m := moving 64 0
     bothAt (placeBoth s 0 m.asid (m.range 0) (m.range 1) 0 64 0 64 1) (lsKey 0 0) (lsKey 0 4096) s = true ∧ (s.engine (.copy 0)).inFlight < 8 ∧
     liveCmd s (.copy 0) 0 = some m ∧ m.isMulticast = false ∧ m.helm = none ∧ m.mayDo 0 = true ∧ Machine.Inv s ∧ m.flight = [] ∧
       ((s.engine (.copy 0)).cmds.map fun x => x.flight.length).sum < 8 ∧ (m.range 0).1 ≠ 3 ∧
       (m.range 1).1 ≠ 3 ∧ max (m.range 1).2 (((m.range 1).2 / 4096 + 0) * 4096) <
         min ((m.range 1).2 + (m.words.getD 4 0).toNat) (((m.range 1).2 / 4096 + 0 + 1) * 4096) ∧ 0 ∈ ({ m with done := [0] } : Cmd).done ∧
       poisoned { s with poison := [lsKey 0 0 / 64] } (lsKey 0 0) 64 = true) ∧
    (let m := moving 0 0x0000000300000002
     let s := engined (rig thr) (.gather 0) m
     liveCmd s (.gather 0) 0 = some m ∧ m.mayDo 1 = true ∧ 1 < m.count ∧ (m.range 0).1 ≠ 3 ∧ scatterWaits m 1 = false ∧ m.elem = 8 ∧
       0 * 8 + 8 ≤ min m.limit (placeRoom s (m.range 2)) ∧ min ({ m with limit := 7 } : Cmd).limit (placeRoom s (m.range 2)) < 0 * 8 + 8 ∧
       bytesNat (rawRead s ((m.range 0).2 + 4 * 1) 4) = 0 ∧ (m.range 1).1 ≠ 3 ∧ (m.range 2).1 ≠ 3 ∧ Machine.Inv s ∧ m.gathers = true ∧
       bothAt (placeBoth s 0 m.asid (m.range 2) (m.range 1) 0 8 8 8 1) (lsKey 0 8192) (lsKey 0 4104) s = true) ∧
    (let m := { moving 0 0x0000000600000002 with idx := [(0, false)] }
     let s := engined (rig thr) (.gather 0) m
     liveCmd s (.gather 0) 0 = some m ∧ m.mayDo 0 = true ∧ 0 < m.count ∧ scatterWaits m 0 = false ∧ 8 < m.elem ∧
       0 * m.elem + m.elem ≤ min m.limit (placeRoom s (m.range 2)) ∧
       bothAt (placeBoth s 0 m.asid (m.range 2) (m.range 1) 0 m.elem 0 m.elem 1) (lsKey 0 8192) (lsKey 0 4096) s = true) ∧
    (let m := { moving 64 0 with ranges := [(2, basinKey 0 0), (2, basinKey 0 64)] }
     let s := engined (rig thr) (.basin 0) m
     liveCmd s (.basin 0) 0 = some m ∧ m.mayDo 0 = true ∧ 0 < (m.words.getD 4 0).toNat / 64 ∧ (m.range 0).1 ≠ 3 ∧ (m.range 1).1 ≠ 3 ∧
       Machine.Inv s ∧ poisoned s (m.range 0).2 64 = false ∧ poisoned s (m.range 1).2 64 = false ∧
       bothAt (placeBoth s 0 m.asid (m.range 0) (m.range 1) 0 64 0 64 2) (basinKey 0 0) (basinKey 0 64) s = true) := by unfold Machine.Inv; decide +kernel

/-- A chunk that has been read and of which only the last unit is still to write; a scatter whose second element has the index of its first. -/
theorem witness_EngineParts_flight :
    (let c : Chunk := { no := 0, bytes := List.replicate 64 7, bad := [], left := [7] }
     let m := { moving 64 0 with flight := [c] }
     let s := engined (rig thr) (.copy 0) m
     liveCmd s (.copy 0) 0 = some m ∧ m.mayDo 0 = true ∧ m.flight.find? (fun x => x.no == 0) = some c ∧ c.bytes.length = 64 ∧ 7 ∈ c.left ∧
       7 ≤ ((m.range 1).2 + 64 - 1) / 8 - (m.range 1).2 / 8 ∧ Machine.Inv s ∧
       8 ≤ (({ (s.engine (.copy 0)) with cmds := List.replicate 8 m } : Machine.Engine).cmds.map fun x => x.flight.length).sum) ∧
    (let m := { moving 0 0x0000000300000002 with opcode := 1 }
     scatterWaits { m with idx := [(0, false), (0, false)] } 1 = true ∧ liveCmd (engined (rig thr) (.gather 0) m) (.gather 0) 0 = some m) := by
  unfold Machine.Inv; decide +kernel

/-- A command that is done and stores its word to core 0's local store at 64, posts a counter, and delivers an element and a bell. -/
def finished : Cmd := { moving 64 0 with done := [0], id := 7, words := [9, 0, 0, 0, 64, 0, 0x0001000000000000, 64] }
def popping : Thread :=
  { thr with st := .removed (.pop 0), ports := (Vector.replicate 4 ({} : Port)).set 0 { out := [{ cmd := 7, element := true, bell := true, done := false }] } }

theorem witness_EngineCompletion :
    (let m := finished
     let s := engined (rig popping) (.copy 0) m
     m.started = true ∧ cmdAborted s m = false ∧ m.failAt = none ∧ m.parked = none ∧
       (∀ j, j < cmdParts (.copy 0) m → j ∈ m.done) ∧ (s.engine (.copy 0)).cmds[0]? = some m ∧ endStatus s (.copy 0) m = some 0 ∧
       m.helm = none ∧ m.isCopy = false ∧ m.orphan = false ∧ present s m.core = true ∧ m.words.getD 6 0 ≠ 0 ∧ m.words.getD 7 0 ≠ 0 ∧
       fld (m.words.getD 7 0) 60 4 = s.wharf.device ∧ present s (fld (m.words.getD 7 0) 48 12 : BitVec 12).toNat = true ∧
       (fld (m.words.getD 7 0) 0 18 : BitVec 18).toNat + 8 ≤ 262144 ∧ Machine.Inv s ∧
       (((s.thread m.core m.slot).ports.get 0).out.find? fun o => o.cmd == m.id) = some { cmd := 7, element := true, bell := true, done := false } ∧
       (s.thread m.core m.slot).st = .removed (.pop 0) ∧ Calm s m.core m.slot) ∧
    (let m := { finished with done := [] }
     let s := engined (rig popping) (.copy 0) m
     (∃ j, j < cmdParts (.copy 0) m ∧ j ∉ m.done) ∧ endStatus s (.copy 0) m = none ∧ (s.engine (.copy 0)).cmds[0]? = some m) ∧
    (let m := { finished with failAt := some 0, done := [] }
     m.failAt = some 0 ∧ ∀ j, j < 0 → j < cmdParts (.copy 0) m → j ∈ m.done) ∧
    cmdAborted (launched (rig popping) 3) { finished with tag := 3 } = true ∧ finished.flight = [] ∧
    (let m := { finished with tag := 3, flight := [{ no := 1, bytes := [], bad := [], left := [] }] }
     ∃ c ∈ m.flight, m.parked.map Prod.fst ≠ some c.no ∧ m.failAt ≠ some c.no) ∧
    (let m := finished
     let s := engined (rig popping) (.coll 0) m
     endStatus s (.coll 0) { m with done := m.collParts } = some 0 ∧ m.failAt ≠ some (cmdParts (.coll 0) m) ∧
       s.wharf.jHead.toNat < m.j.seq + 2 ^ 20) ∧ finished.words.getD 7 0 ≠ 0 ∧ (moving 64 0).words.getD 7 0 = 0 := by
  refine ⟨?_, ⟨⟨0, ?_⟩, ?_⟩, ⟨rfl, fun j h => absurd h (Nat.not_lt_zero j)⟩, ?_⟩
  all_goals first
    | (unfold Calm Machine.Inv; decide +kernel)
    | decide +kernel

/-- One element, f32 sum, of the devices of a mask. -/
def sumOf (mask : Word) : Cmd := { moving 1 (mask * 65536) with isCopy := false }
def peer1 : PeerShare := { device := 1, id := 0, since := 0, mask := 3, typ := 0, op := 0, count := 1, elems := [0x3F800000] }

/-- Where one range stands. -/
def placeIs (x : Placed) (a : Nat) (u : State) : Bool :=
  match x with
  | .at' (.raw p) t => p == a && t == u
  | _ => false

theorem placeIs_iff {x : Placed} {a : Nat} {u : State} : placeIs x a u = true → x = .at' (.raw a) u := by
  intro h
  unfold placeIs at h
  split at h
  · simp only [Bool.and_eq_true, beq_iff_eq] at h
    rw [h.1, h.2]
  · cases h

/-- Collectives with a route to device 1 through port 0, up or down. -/
def ringed1 (m : Cmd) (down : List Nat) : State :=
  let s := engined (rig thr) (.coll 0) m
  { s with wharf := { s.wharf with routing := 0x40, linksDown := down } }

/-- A multicast of 64 bytes of die 0's Basin to core 0. -/
def casting : Cmd :=
  { cmd0 with helm := some 0, opcode := 1, limit := 64, words := [0, 0, 0, 0, 0x1000001, 0, 0, 0], ranges := [(2, basinKey 0 0), (0, 4032)], started := true }

theorem witness_CollectivesAndMulticasts :
    (let m := sumOf 3
     let s := ringed1 m []
     liveCmd s (.coll 0) 0 = some m ∧ m.mayDo 0 = true ∧ m.elems ≠ 0 ∧ m.failAt = none ∧ maskRefused s m = false ∧ ringDown s m = false ∧
       ringDown (ringed1 m [0]) m = true ∧ maskRefused (ringed1 m [0]) m = false ∧ m.shares = none ∧ (∃ i ∈ m.collParts, i ∉ m.done) ∧
       otherDevices s m = [1] ∧ (peer1.device.toNat = 1 ∧ peer1.id = fld (m.words.getD 0 0) 0 32 ∧ peer1.mask = m.mask) ∧
       (∀ p ∈ [peer1], p.typ = m.collType ∧ p.op = m.collOp ∧ p.count.toNat = m.elems ∧ p.elems.length = m.elems) ∧
       m.done = [] ∧ s.mtime < min 1 m.since + 1000000 ∧ min 1 m.since + 1000000 ≤ ({ s with mtime := 1000000 } : State).mtime ∧
       (∃ p ∈ [{ peer1 with count := 2 }], p.typ ≠ m.collType ∨ p.op ≠ m.collOp ∨ p.count.toNat ≠ m.elems)) ∧
    (let s := ringed1 (sumOf 2) []
     bit (sumOf 2).mask s.wharf.device.toNat = false ∧ maskRefused s (sumOf 5) = true) ∧
    (let m := casting
     let s := engined (rig thr) (.copy 0) m
     liveCmd s (.copy 0) 0 = some m ∧ m.isMulticast = true ∧ m.done = [] ∧ m.parked = none ∧ m.failAt = none ∧ m.copyLen ≠ 0 ∧ m.rounds = 0 ∧
       chunkOff (m.range 1).2 0 = 0 ∧ chunkLen (m.range 1).2 m.copyLen 0 = 64 ∧
       placeIs (placeRange s 0 m.asid (m.range 0) 0 64 0) (basinKey 0 0) s = true ∧ homePoisoned s (.raw (basinKey 0 0)) 0 64 = false ∧
       Machine.Inv s ∧ (m.range 1).2 + m.copyLen ≤ 262144 ∧ chunkCount (m.range 1).2 m.copyLen = 1 ∧
       (∀ i, i < 1 → (homeRead s (.raw (basinKey 0 0)) (chunkOff (m.range 1).2 i) (chunkLen (m.range 1).2 m.copyLen i)).length =
         chunkLen (m.range 1).2 m.copyLen i) ∧ bit (m.words.getD 4 0) 0 = true ∧ bit (m.words.getD 4 0) 24 = true ∧ present s (coreIn 0 0) = true) := by
  unfold Machine.Inv; decide +kernel

/-- A chunk of a matched all-reduce of one f32 element, read and then written; a submission 10 ms before another, and a ring of three devices. -/
theorem witness_CollectivesAndMulticasts_part :
    (let m := { sumOf 3 with shares := some [peer1] }
     let s := ringed1 m []
     liveCmd s (.coll 0) 0 = some m ∧ m.mayDo 0 = true ∧ (∀ c ∈ m.flight, c.no ≠ 0) ∧ m.elems ≠ 0 ∧ m.shares = some [peer1] ∧ ringDown s m = false ∧
       0 ∈ m.collParts ∧ (s.engine (.coll 0)).inFlight < 8 ∧ m.collType ≠ 3 ∧ (m.range 1).2 % 4 = 0 ∧
       bothAt (placeBoth s 0 m.asid (m.range 0) (m.range 1) 0 4 0 4 1) (lsKey 0 0) (lsKey 0 4096) s = true) ∧
    (let c : Chunk := { no := 0, bytes := [0, 0, 0, 0], bad := [], left := [0], dst := .raw (lsKey 0 4096) }
     let m := { sumOf 3 with shares := some [peer1], flight := [c] }
     let s := ringed1 m []
     (s.engine (.coll 0)).cmds[0]? = some m ∧ m.started = true ∧ m.flight.find? (fun x => x.no == 0 && x.core == 0) = some c ∧ 0 ∈ c.left ∧
       c.dst.busy s = false ∧ 0 < c.bytes.length) ∧
    (let m := { sumOf 3 with since := 1000000 }
     (m.since :: [peer1].map fun p => min p.since 2000000) = [1000000, 0] ∧ 0 + 1000000 ≤ 1000000) ∧
    (let m := sumOf 7
     let s := { ringed1 m [] with wharf := { (ringed1 m []).wharf with routing := 0x440 } }
     m.shares = none ∧ maskRefused s m = false ∧ ringDown s m = false ∧ 2 ≤ (otherDevices s m).length) ∧
    (let m := casting
     let c : Chunk := { no := 0, bytes := List.replicate 64 7, bad := [], left := [0], core := 0, dst := .raw (lsKey 0 4032) }
     let x := { m with flight := [c] }
     let s := engined (rig thr) (.copy 0) x
     m.mayDo 0 = true ∧ liveCmd s (.copy 0) 0 = some x ∧ x.flight.find? (fun y => y.no == 0 && y.core == 0) = some c ∧ 0 ∈ c.left ∧ Machine.Inv s) := by
  unfold Machine.Inv; decide +kernel

/-- What a walk to a word delivers, without the state. -/
def wordIs (x : Except Nat Word × State) (w : Word) : Bool := x.1.toOption == some w

theorem witness_AllocatorEngine_walk {x : Except Nat Word × State} {w : Word} : wordIs x w = true → ∃ u, x = (.ok w, u) := by
  obtain ⟨x, u⟩ := x
  cases x with
  | error c => simp [wordIs, Except.toOption]
  | ok p => intro h; exact ⟨u, by simp [wordIs, Except.toOption] at h; rw [← h]⟩

theorem witness_AllocatorEngine :
    (let s := { tables with dies := [(0, { asBase := 0x100000, pools := [(3, { enabled := true, head := 64, count := 4, size := 64 })] })] }
     let y := getPool s 0 3
     y.enabled = true ∧ y.held.length < 4 ∧ y.head ≠ 0 ∧ walkBusy s 0 y.asid y.head 0 = false ∧ wordIs (walkWord s 0 y.asid y.head) 0 = true) ∧
    (let s := pooled thr [] 64
     let y := getPool s 0 3
     y.enabled = true ∧ y.held.length < 4 ∧ y.head ≠ 0 ∧ walkBusy s 0 y.asid y.head 0 = false ∧ (walkWord s 0 y.asid y.head).1.toOption.isSome = false ∧ 3 < 256 ∧
       y.held = [] ∧ reloadBusy s 0 3 = false) ∧
    (getPool (rig thr) 0 3).enabled = false ∧ (let s := pooled thr (List.range 13) 0
     let y := getPool s 0 3
     y.enabled = true ∧ 12 < y.held.length ∧ (∀ a ∈ y.held.take 8, walkBusy s 0 y.asid a 1 = false) ∧
       (walkSetWord (setPool s 0 3 { y with held := y.held.drop 8 }) 0 y.asid (y.held.getD 0 0) 0).toOption.isSome = false) := by decide +kernel

-- Witnesses: scheduling from launch to issue -------------------------------------------------------------------------------------------------

/-- Core 0 with a free slot, levelling every 64 cycles, with a deque and figures, at cycle 9000. -/
def idling (l : List Record) (f : SMap Nat) : State :=
  { withCore (rigAt 0 thr) (fun x => { x with lvl := 64, deque := l.map fun r => { r := r, at' := 0 }, figures := f }) with clk := 9000 }

theorem witness_WorkSpreads :
    (let s := idling [] []
     16 ∈ presentNeighbours s 0 ∧ 0 % 512 / 16 < 24 ∧ present s 0 = true ∧ (s.getCore 0).reportedAt + 256 ≤ s.clk ∧
       ({ s with clk := 9 } : State).clk < (s.getCore 0).reportedAt + 256 ∧ isIdle s 0 = true ∧ (s.getCore 0).lvl ≠ 0 ∧
       (s.getCore 0).stealAt + 64 ≤ s.clk ∧ nextVictim s 0 = some 1 ∧ 16 ∈ presentNeighbours s 0) ∧
    isIdle (idling [task0 false] []) 0 = false ∧
    (let s := { idling [task0 false] [] with steals := [{ thief := 1, asked := 0 }] }
     s.steals = { thief := 1, asked := 0 } :: [] ∧ present s 0 = true ∧ (s.getCore 0).lvl ≠ 0 ∧ topOf s (s.getCore 0).deque = some 0 ∧
       (s.getCore 0).deque[0]? = some { r := task0 false, at' := 0 } ∧ topOf s ((idling [] []).getCore 0).deque = none) ∧
    (let s := idling (List.replicate 5 (task0 false)) [(1, 1), (15, 2), (16, 3), (96, 1)]
     (s.getCore 0).levelAt + (s.getCore 0).lvl.toNat ≤ s.clk ∧
       leastLoaded { s with cores := SMap.set s.cores 0 { s.getCore 0 with levelAt := s.clk } } 0 = some (1, 1) ∧ 1 + 2 ≤ loadFigure (s.getCore 0) ∧
       2 ≤ (s.getCore 0).deque.length ∧ (∀ e ∈ (s.getCore 0).deque, noSteal e.r = false ∧ isPreempted s e.r.tag = false) ∧
       loadFigure ((idling [task0 false] []).getCore 0) < 1 + 2) := by decide +kernel

/-- The last cycle of each interval, and the first behind it. -/
theorem witness_WorkSpreads_intervals :
    (let s := withCore (idling [] []) fun x => { x with reportedAt := 8745, stealAt := 8937, levelAt := 8937, starvedAt := 4905 }
     s.clk < (s.getCore 0).reportedAt + 256 ∧ s.clk < (s.getCore 0).stealAt + 64 ∧ s.clk < (s.getCore 0).levelAt + (s.getCore 0).lvl.toNat ∧
       (s.getCore 0).starvedAt ≠ 0 ∧ s.clk < (s.getCore 0).starvedAt + 4096) ∧
    (let s := withCore (idling [] []) fun x => { x with reportedAt := 8744, stealAt := 8936, levelAt := 8936, starvedAt := 4904 }
     (s.getCore 0).reportedAt + 256 ≤ s.clk ∧ (s.getCore 0).stealAt + 64 ≤ s.clk ∧ (s.getCore 0).levelAt + (s.getCore 0).lvl.toNat ≤ s.clk ∧
       (s.getCore 0).starvedAt + 4096 ≤ s.clk) ∧
    ((withCore (idling [] []) fun x => { x with lvl := 0 }).getCore 0).lvl = 0 := by decide +kernel

/-- Every die's address space 1 has a root, and template 0 has one node. -/
def mayLaunch : State :=
  { rigAt 0 thr with mem := Memory.write (Memory.write [] 8 [1]) (basinKey 0 4) [1] }

/-- A record for tag 3: two roots of node 0 with a block, or a copy of 64 bytes. -/
def twoRoots : LaunchRec := { w0 := 0x0001000300000000, w1 := 2, w2 := 5, w3 := 6, w4 := 0, w5 := 0x1000, w6 := 0, w7 := 0 }
def oneCopy : LaunchRec := { twoRoots with w1 := 0x0000000400000000, w2 := 64, w3 := 0x20000, w6 := 0x30000 }

theorem witness_Launches :
    launchRefusal mayLaunch twoRoots = 0 ∧ lrKind twoRoots = 0 ∧ lrCount twoRoots ≠ 0 ∧ lrCount twoRoots ≠ BitVec.allOnes 32 ∧
    present mayLaunch 0 = true ∧ (mayLaunch.thread 0 0).st ≠ .empty ∧ launchRefusal mayLaunch oneCopy = 0 ∧ lrKind oneCopy = 1 ∧ lrBytes oneCopy ≠ 0 ∧
    isEmptyLaunch mayLaunch { twoRoots with w1 := 0 } = true ∧ launchRefusal mayLaunch { twoRoots with w1 := 0 } = 0 ∧
    lrCount { twoRoots with w1 := 0 } = 0 ∧ isEmptyLaunch mayLaunch { oneCopy with w2 := 0 } = true ∧
    launchRefusal (launched mayLaunch 1) twoRoots = 1 ∧ launchRefusal mayLaunch { twoRoots with w7 := 1 } = 2 ∧
    launchRefusal mayLaunch { twoRoots with w4 := 120 } ≠ 0 ∧ twoRoots.w5 ≠ 0 ∧ ({ twoRoots with w5 := 0 } : LaunchRec).w5 = 0 := by decide +kernel

/-- Each refusal at its first check: a live tag, a field without a meaning, an address space without a root, a node that is missing, deadlines that
do not rise. -/
theorem witness_Launches_refused :
    launchRefusal (launched mayLaunch 1) twoRoots = 1 ∧ launchRefusal mayLaunch { twoRoots with w0 := 0x0001000300001000 } = 2 ∧
    launchRefusal mayLaunch { oneCopy with w0 := 0x0001000300010000 } = 2 ∧ launchRefusal mayLaunch { twoRoots with w1 := 0x0000001000000002 } = 2 ∧
    launchRefusal mayLaunch { twoRoots with w1 := 0x0000000800000002 } = 2 ∧ launchRefusal mayLaunch { twoRoots with w0 := 0x0000000300000000 } = 3 ∧
    launchRefusal mayLaunch { twoRoots with w0 := 0x0002000300000000 } = 3 ∧ launchRefusal mayLaunch { twoRoots with w0 := 0x0001000300010000 } = 4 ∧
    launchRefusal mayLaunch { twoRoots with w4 := 110 } = 5 ∧ launchRefusal mayLaunch { twoRoots with w4 := 0x0000006E00000000 } = 5 := by decide +kernel

theorem witness_RootsPlaced : rootCore (rig thr) = some 0 ∧
    (let s := (rig thr).setLaunch 3 { state := 1, rootsLeft := 2 }
     (s.launch 3).rootsLeft ≠ 0 ∧ (s.launch 3).state ≠ 3) ∧
    (let s := (rig thr).setLaunch 3 { state := 3, rootsLeft := 2 }
     (s.launch 3).rootsLeft ≠ 0 ∧ (s.launch 3).state = 3) ∧ ((rig thr).launch 3).rootsLeft = 0 := by decide +kernel

/-- Tag 3 with equal totals and nothing held, swept before or not. -/
def quiet (swept : Option Nat) (n : Nat) : State :=
  { (rigAt 0 thr).setLaunch 3 { state := 1, block := 0x1000, own := { created := 2, retired := n }, sweep := swept } with clk := 9000 }

theorem witness_Termination :
    (let s := quiet (some 2) 2
     s.wharf.sweptAt + 256 ≤ s.clk ∧ ({ s with clk := 9 } : State).clk < s.wharf.sweptAt + 256 ∧ liveTags s = [3] ∧
       (tagTotals s 3).created = (tagTotals s 3).retired ∧ (∀ r ∈ allRecords s, r.tag = 3 → r.kind = kK) ∧
       (s.launch 3).sweep = some (tagTotals s 3).created ∧ (s.launch 3).block ≠ 0 ∧ (liveTags s).Nodup ∧ othersRead s 3 = true ∧
       (s.launch 3).rootsLeft = 0 ∧ (s.launch 3).others = []) ∧
    othersRead { quiet (some 2) 2 with wharf := { (quiet (some 2) 2).wharf with routing := 0x40 } } 3 = false ∧
    ((quiet none 2).launch 3).sweep ≠ some (tagTotals (quiet none 2) 3).created ∧
    ¬ (tagTotals (quiet none 1) 3).created = (tagTotals (quiet none 1) 3).retired := by decide +kernel

/-- Tag 3 in a state at a time, held by slot 2's thread. -/
def tagged (t : Thread) (x : Launch) (now : Nat) : State := { (rig { t with tag := 3 }).setLaunch 3 x with mtime := now }

theorem witness_DeadlinesAndPreemption :
    ((tagged thr { state := 1 } 0).launch 3).state = 1 ∧ ((tagged thr { state := 2 } 0).launch 3).state = 2 ∧
    (let s := tagged thr { state := 2, graceEnd := some 5 } 5
     (s.launch 3).graceEnd = some 5 ∧ (s.launch 3).state = 2 ∧ 5 ≤ s.mtime ∧ ({ s with mtime := 4 } : State).mtime < 5 ∧ present s 0 = true ∧
       (s.thread 0 2).tag = 3 ∧ (s.thread 0 2).st = .runnable) ∧
    ((tagged { thr with st := .blocked (.wait 1 4) } {} 0).thread 0 2).st = .blocked (.wait 1 4) ∧
    (let s := tagged thr { state := 1, first := 1, second := 2, third := 3 } 3
     (s.launch 3).state ≠ 0 ∧ (s.launch 3).firstDone = false ∧ (s.launch 3).accepted + (s.launch 3).first ≤ s.mtime ∧
       (s.launch 3).secondDone = false ∧ (s.launch 3).accepted + (s.launch 3).second ≤ s.mtime ∧ (s.launch 3).thirdDone = false ∧
       (s.launch 3).accepted + (s.launch 3).third ≤ s.mtime ∧ holdsTag s 3 0 = true ∧ present s 0 = true) ∧
    ((tagged { thr with st := .parked {} } {} 0).thread 0 2).st = .parked {} ∧ ((rig thr).launch 3).state = 0 ∧
    graceOver (tagged thr { state := 2 } 0) ((tagged thr { state := 2 } 0).thread 0 2).tag = true ∧ graceOver (rig thr) ((rig thr).thread 0 2).tag = false := by
  decide +kernel

/-- A thread in the middle of an operation, and slot 2 of a core in the grace period's end. -/
theorem witness_DeadlinesAndPreemption_inside :
    (let s := tagged { thr with midway := true } { state := 2 } 0
     (s.thread 0 2).st = .runnable ∧ (s.thread 0 2).midway = true ∧ graceOver s (s.thread 0 2).tag = true ∧ present s 0 = true) ∧
    (let s := tagged { thr with st := .removed (.pop 1) } { state := 2 } 0
     (s.thread 0 2).st = .removed (.pop 1) ∧ graceOver s (s.thread 0 2).tag = true) := by decide +kernel

/-- Every general slot of core 0 holds a thread; a task has waited. -/
def starving : State :=
  let s := idling [task0 false] []
  withCore s fun x => { x with slots := Vector.replicate 16 thr, deque := [{ r := task0 false, at' := 0, readyAt := some 0 }] }

theorem witness_StarvationAndCacheSize :
    (let s := starving
     present s 0 = true ∧ starves s 0 = true ∧ (s.getCore 0).starvedAt = 0 ∧ (s.thread 0 0).st ≠ .empty ∧
       { r := task0 false, at' := 0, readyAt := some 0 } ∈ (s.getCore 0).deque ∧ freeGeneral s 0 = none ∧ 0 + 4096 ≤ s.clk ∧ isPreempted s (task0 false).tag = false) ∧
    starves (rig thr) 0 = false ∧ 4 ≤ 4 ∧ 3 < 4 ∧ ((rig thr).die 0).busy = false ∧
    (let s := { rig thr with dies := [(0, { busy := true, size := 8, newSize := 16 })] }
     (s.die 0).busy = true ∧ Machine.Inv s) := by unfold Machine.Inv; decide +kernel

/-- A message that has waited, and the head of a lane. -/
theorem witness_StarvationAndCacheSize_ready :
    (let e : Entry := { r := message0, at' := 0, readyAt := some 0 }
     let s := withCore starving fun x => { x with pound := { entries := [e] }, lane := [(task0 true, 0)] }
     freeGeneral s 0 = none ∧ isPreempted s e.r.tag = false ∧ (s.getCore 0).pound.entries.find? (fun f => f.r.kind == kM && isRemote f.r == false) = some e ∧
       ripe s.clk e = true ∧ 0 + 4096 ≤ s.clk ∧ isBarrier (task0 true) = false ∧ isPreempted s (task0 true).tag = false) ∧
    (SMap.find starving.cores 0).isSome = true := by decide +kernel

-- Witnesses: bytecodes ---------------------------------------------------------------------------------------------------------------------

/-- A part of a bytecode answers a value and leaves the state as it is. -/
def okB {α : Type} [DecidableEq α] (m : Swq α) (s : State) (v : α) : Bool :=
  match m s with
  | .ok (w, t) => decide (w = v) && decide (t = s)
  | .error _ => false

theorem okB_iff {α : Type} [DecidableEq α] {m : Swq α} {s : State} {v : α} : okB m s v = true → m s = .ok (v, s) := by
  intro h
  unfold okB at h
  split at h
  · rename_i w t e
    simp only [Bool.and_eq_true, decide_eq_true_eq] at h
    rw [e, h.1, h.2]
  · cases h

/-- A word that memory holds while the engine's addresses are physical and no line is held by the helm caches. -/
def plainB (s : State) (a : Word) : Bool :=
  s.plainView && (decide (a.toNat % 4096 + 8 ≤ 4096) && (swqAddr a.toNat && swqAddr (a.toNat + 8 - 1)))
/-- No home-side cache holds a line. -/
def coldB (s : State) : Bool := s.dies.all fun p => p.2.held.isEmpty

theorem find_all {α : Type} {P : Nat × α → Bool} : ∀ {m : List (Nat × α)} {a : Nat} {x : α}, m.all P = true → SMap.find m a = some x → P (a, x) = true
  | [], _, _, _, e => by cases e
  | (k, y) :: m, a, x, h, e => by
    rw [List.all_cons, Bool.and_eq_true] at h
    simp only [SMap.find] at e
    split at e
    · cases e
    · split at e
      · cases e
        simp_all
      · exact find_all h.2 e

theorem cold_of {s : State} (h : coldB s = true) (l : Nat) : SMap.find (s.die (dieOfKey (l * 64))).held l = none := by
  rw [State.die, SMap.getD]
  cases e : SMap.find s.dies (dieOfKey (l * 64)) with
  | none => rfl
  | some x =>
    have := find_all h e
    rw [Option.getD_some, List.isEmpty_iff.mp this]
    rfl

def wordB (s : State) (a v : Word) : Bool :=
  plainB s a && ((s.helmCache.isEmpty && coldB s) && (!meetsPoison s true a.toNat 8 &&
    BitVec.ofNat 64 (bytesNat (helmRead s (swqGen' s s.hart.val) a.toNat 8)) == v))

theorem wordB_iff {s : State} {a v : Word} (h : wordB s a v = true) : Holds s a v := by
  unfold wordB plainB at h
  simp only [Bool.and_eq_true, Bool.not_eq_true', beq_iff_eq, List.isEmpty_iff, decide_eq_true_eq] at h
  obtain ⟨⟨hv, hs, ha⟩, ⟨hc, hd⟩, hp, hw⟩ := h
  rw [Holds, swqLoad_of hv hs (by rw [Bool.and_eq_true]; exact ha) hp (syncLines_nil hc _ _ _), openLines_of (cold_of hd), hw]

theorem storable_of {s : State} {a : Word} (h : plainB s a = true) : Storable s a := by
  unfold plainB at h
  rw [Bool.and_eq_true, Bool.and_eq_true, decide_eq_true_eq] at h
  exact fun v => ⟨_, swqStore_of v h.1 h.2.1 h.2.2⟩

theorem plainB_of {s : State} {a v : Word} (h : wordB s a v = true) : plainB s a = true := by
  unfold wordB at h
  rw [Bool.and_eq_true] at h
  exact h.1

/-- Words that memory holds, and slots of the current frame, of n. -/
def wordsB (s : State) (l : List (Word × Word)) : Bool := l.all fun p => wordB s p.1 p.2
def slotsB (s : State) (n : Nat) (l : List (Half × Word)) : Bool :=
  okB slotCount s n && l.all fun p => decide (p.1.toNat < n) && wordB s (frameSlot s.myHart.swq.frame p.1.toNat) p.2

theorem wordsB_iff {s : State} {l : List (Word × Word)} (h : wordsB s l = true) : ∀ p ∈ l, Holds s p.1 p.2 :=
  fun p hp => wordB_iff (List.all_eq_true.mp h p hp)

theorem slotsB_iff {s : State} {n : Nat} {l : List (Half × Word)} (h : slotsB s n l = true) : ∀ p ∈ l, SlotIs s p.1 p.2 := by
  intro p hp
  unfold slotsB at h
  rw [Bool.and_eq_true] at h
  have h2 := List.all_eq_true.mp h.2 p hp
  rw [Bool.and_eq_true, decide_eq_true_eq] at h2
  exact ⟨⟨n, okB_iff h.1, h2.1⟩, wordB_iff h2.2⟩

theorem slotsB_plain {s : State} {n : Nat} {l : List (Half × Word)} (h : slotsB s n l = true) :
    ∀ p ∈ l, vKind p.2 ≠ .pointer → SlotPlain s p.1 := by
  intro p hp hv
  refine ⟨⟨p.2, slotsB_iff h p hp, hv⟩, ?_⟩
  unfold slotsB at h
  rw [Bool.and_eq_true] at h
  have h2 := List.all_eq_true.mp h.2 p hp
  rw [Bool.and_eq_true] at h2
  exact storable_of (plainB_of h2.2)

theorem noPointers {l : List (Half × Word)} (h : (l.all fun p => vKind p.2 != .pointer) = true) : ∀ p ∈ l, vKind p.2 ≠ .pointer := by
  intro p hp
  simpa using List.all_eq_true.mp h p hp

/-- A function of 8 slots with site base 0, its constants, its globals of shape 5, a list, a tuple, a vector with its storage, a method and the
site table. -/
def heapLow : List (Nat × Word) :=
  [(0x20000, 0x0000020500000000), (0x20008, 1), (0x20010, 0x31000), (0x20018, 8), (0x20020, 0x21000),
   (0x20028, 0x22000), (0x21000, 0x0000020200000000), (0x21008, 1), (0x21010, 2), (0x21018, 0x15), (0x21020, 0x23000),
   (0x22000, 0x0000010000000005), (0x22008, 2), (0x22010, 7), (0x22018, 9), (0x23000, 0x0000010700000000), (0x23008, 1), (0x23010, 0x0000000100000005),
   (0x24000, 0x0000020100000000), (0x24008, 1), (0x24010, 2), (0x24018, 2), (0x24020, 5), (0x24028, 7),
   (0x25000, 0x0000020200000000), (0x25008, 1), (0x25010, 2), (0x25018, 5), (0x25020, 7)] ++
  [(0x26000, 0x0000060400000000), (0x26008, 1), (0x26010, 0x1000B), (0x26018, 0x28000), (0x26020, 4), (0x26028, 1), (0x26030, 1), (0x26038, 1),
   (0x26040, 1), (0x26048, 1), (0x26050, 1), (0x26058, 1), (0x26060, 0x27000), (0x27000, 0x0000030800000000), (0x27008, 1), (0x27010, 0x28000),
   (0x27018, 128), (0x29000, 0x0000020500000000), (0x29008, 1), (0x29010, 0x32000), (0x29018, 0x10004), (0x29020, 0x21000), (0x29028, 0x22000),
   (0x2A000, 0x0000010300000000), (0x2A008, 1), (0x2B000, 0x0000060400000000), (0x2B008, 1), (0x2B010, 0x1000D), (0x2B018, 0x28000), (0x2B020, 4),
   (0x2B028, 1), (0x2B030, 1), (0x2B038, 1), (0x2B040, 1), (0x2B048, 1), (0x2B050, 1), (0x2B058, 1), (0x2B060, 0x27000)] ++
  [(0x40000, 0x41000), (0x40008, 0x0000006400020064), (0x40010, 0x1F000), (0x40018, 0x42000), (0x40020, 0x0000000100000010), (0x40028, 0x43000),
   (0x40030, 16), (0x40038, 0)]

/-- The cells of words whose addresses rise. -/
def cellsOf (l : List (Nat × Word)) : List Host.Cell :=
  l.flatMap fun p => ((natBytes 8 p.2.toNat).zipIdx.map fun q => (p.1 + q.2, q.1)).filter fun c => c.2 != 0

/-- The engine at 0x30000 over words from 0x20000 on, with the slots of its frame from slot 0, and words from 0x40040 on, their addresses
rising. -/
@[irreducible] def bcOver (heap : List (Nat × Word)) (slots : List Word) (l : List (Nat × Word)) : State :=
  let m := cellsOf ([(0x10000, 0x20000), (0x10010, 0x30100)] ++ (slots.zipIdx.map fun p => (0x10020 + 8 * p.2, p.1)) ++ heap ++ l)
  { helmRig { swqic := 0x40000, swqh := 0x900, pc := 0x100, swq := { running := true, frame := 0x10000, bpc := 0x30000, rd := 10 } } with mem := m }

/-- The same over the heap. -/
def bc (slots : List Word) (l : List (Nat × Word)) : State := bcOver heapLow slots l

/-- Way 0 of site 0. -/
def way0 (e0 e1 : Word) : List (Nat × Word) := [(0x40040, e0), (0x40048, e1)]

theorem way_of {s : State} {w e0 e1 : Word} {k : Nat}
    (h : (wordB s (wayAddr s (fld w 0 32) k) e0 && wordB s (wayAddr s (fld w 0 32) k + 8) e1) = true) : WayIs s w k e0 e1 := by
  rw [Bool.and_eq_true] at h
  exact ⟨wordB_iff h.1, wordB_iff h.2⟩

/-- A way hits, by what memory holds. -/
def hitsB (s : State) (w w0 : Word) (kind : Nat) (e0 e1 a : Word) : Bool :=
  (wordB s (wayAddr s (fld w 0 32) 0) e0 && wordB s (wayAddr s (fld w 0 32) 0 + 8) e1) && (wayKind e0 == kind &&
    (wayShape e0 == hdrShape w0 && (okB (cellAddr (wayShape e0)) s (some a) && (okB (swqLoad16 a) s (wayGen e0) && wayGen e0 != 0xFFFF))))

theorem hits_of {s : State} {w w0 e0 e1 a : Word} {kind : Nat} (h : hitsB s w w0 kind e0 e1 a = true) : WayHits s w w0 kind e1 := by
  unfold hitsB at h
  simp only [Bool.and_eq_true, beq_iff_eq, bne_iff_ne] at h
  exact ⟨0, e0, a, by omega, fun j hj => absurd hj (Nat.not_lt_zero j), ⟨wordB_iff h.1.1, wordB_iff h.1.2⟩, h.2.1, h.2.2.1, okB_iff h.2.2.2.1, okB_iff h.2.2.2.2.1, h.2.2.2.2.2⟩

theorem site_of {s : State} {info w : Word} {site : Half} (h : okB fnInfo s info = true)
    (hw : w = ((fld info 32 32 : W32) + site.setWidth 32).setWidth 64) : SiteIs s site w := ⟨info, okB_iff h, hw⟩

/-- Slots: two integers at the ends of the range, a Bool, an f32, zero, an object, None. -/
def plainSlots : List Word := [0x7FFFFFFFFFFFFFFF, 0x8000000000000001, 0x12, 0x3F80000000000006, 1, 0x22000, 0x02, 0x0A]

theorem witness_BytecodeValues :
    let s := bc plainSlots []
    (∀ p ∈ ([(0, 0x7FFFFFFFFFFFFFFF), (1, 0x8000000000000001), (2, 0x12), (3, 0x3F80000000000006), (4, 1), (6, 0x02), (7, 0x0A)] : List (Half × Word)),
      SlotIs s p.1 p.2 ∧ vKind p.2 ≠ .pointer ∧ SlotPlain s p.1) ∧
    slotCount s = .ok (8, s) ∧ 8 ≤ (8 : Half).toNat ∧ SlotBelow s 4 ∧ SlotBelow s (0x104 % 256) ∧
    (∀ p ∈ ([(s.myHart.swq.frame, 0x20000), (slotAddr 0x20000 2, 0x21000), (slotAddr 0x21000 0, 2), (slotAddr 0x21000 1, 0x15)] : List (Word × Word)),
      Holds s p.1 p.2) ∧
    (0 : Half).toNat < (2 : Word).toNat ∧ (2 : Word).toNat ≤ (2 : Half).toNat ∧ ((5 : Byte).toNat < 6 ∧ 6 ≤ (6 : Byte).toNat) ∧
    BitVec.ofInt 64 (2 * (2 ^ 62 - 1) + 1) = (0x7FFFFFFFFFFFFFFF : Word) ∧ BitVec.ofInt 64 (2 * (-2 ^ 62) + 1) = (0x8000000000000001 : Word) ∧
    (0x3F800000 : W32) ++ (6 : W32) = (0x3F80000000000006 : Word) := by
  have h : slotsB (bc plainSlots []) 8 [(0, 0x7FFFFFFFFFFFFFFF), (1, 0x8000000000000001), (2, 0x12), (3, 0x3F80000000000006), (4, 1), (6, 0x02), (7, 0x0A)] =
    true := by decide +kernel
  have hc : slotCount (bc plainSlots []) = .ok (8, bc plainSlots []) := okB_iff (by decide +kernel)
  have hk : ∀ p ∈ ([(0, 0x7FFFFFFFFFFFFFFF), (1, 0x8000000000000001), (2, 0x12), (3, 0x3F80000000000006), (4, 1), (6, 0x02), (7, 0x0A)] :
    List (Half × Word)), vKind p.2 ≠ .pointer := noPointers (by decide +kernel)
  exact ⟨fun p hp => ⟨slotsB_iff h p hp, hk p hp, slotsB_plain h p hp (hk p hp)⟩, hc, by decide +kernel, ⟨8, hc, by decide +kernel⟩, ⟨8, hc, by decide +kernel⟩,
    wordsB_iff (by decide +kernel), by decide +kernel, by decide +kernel, by decide +kernel, by decide +kernel, by decide +kernel, by decide +kernel⟩

/-- Slots: an object, a list, a tuple, a vector, an index, an f32, None. -/
def objectSlots : List Word := [0x22000, 0x24000, 0x25000, 0x26000, 3, 0x3F80000000000006, 0x02, 9]

theorem witness_BytecodeObjects_slots : let s := bc objectSlots (way0 0x0001000000000005 1)
    (∀ p ∈ ([(0, 0x22000), (1, 0x24000), (2, 0x25000), (3, 0x26000), (4, 3), (5, 0x3F80000000000006), (6, 0x02), (7, 9)] : List (Half × Word)),
      SlotIs s p.1 p.2) ∧ SlotPlain s 6 ∧ SlotPlain (s.wrote 6 7) 4 ∧ SlotBelow s 6 := by
  intro s
  have hs : slotsB s 8 [(0, 0x22000), (1, 0x24000), (2, 0x25000), (3, 0x26000), (4, 3), (5, 0x3F80000000000006), (6, 0x02), (7, 9)] = true := by
    decide +kernel
  have hu : slotsB (s.wrote 6 7) 8 [(4, 3)] = true := by decide +kernel
  exact ⟨slotsB_iff hs, slotsB_plain hs (6, 2) (by simp) (by decide +kernel), slotsB_plain hu (4, 3) (by simp) (by decide +kernel),
    (slotsB_iff hs (6, 2) (by simp)).1⟩

theorem witness_BytecodeObjects_words : let s := bc objectSlots (way0 0x0001000000000005 1)
    (∀ p ∈ ([(0x22000, 0x0000010000000005), (slotAddr 0x22000 1, 9), (s.myHart.swq.frame, 0x20000), (slotAddr 0x20000 3, 0x22000),
      (0x24000, 0x0000020100000000), (slotAddr 0x24000 0, 2), (slotAddr 0x24000 3, 7), (0x25000, 0x0000020200000000), (slotAddr 0x25000 0, 2),
      (slotAddr 0x25000 2, 7), (0x26000, 0x0000060400000000), (0x27008, 1)] : List (Word × Word)), Holds s p.1 p.2) ∧
    hdrKind 0x0000010000000005 = 0 ∧ hdrKind 0x0000020100000000 = 1 ∧ hdrKind 0x0000020200000000 = 2 ∧ hdrKind 0x0000060400000000 = 4 ∧
    hdrWatched 0x0000010000000005 = false ∧ hdrWatched 0x0002010000000005 = true ∧ vKind 0x22000 = .pointer ∧ hdrHold 1 = 0 ∧ hdrHold 0x100000001 ≠ 0 := by
  intro s
  exact ⟨wordsB_iff (by decide +kernel), by decide +kernel⟩

theorem witness_BytecodeObjects_ways :
    (let s := bc objectSlots (way0 0x0001000000000005 1)
     SiteIs s 0 0 ∧ WayHits s 0 0x0000010000000005 1 1 ∧ (fld (1 : Word) 0 16 : Half).toNat < 2 * hdrClass 0x0000010000000005) ∧
    WayHits (bc objectSlots (way0 0x0002000000000005 9)) 0 0x0000010000000005 2 9 ∧
    WayHits (bc objectSlots (way0 0x0003000000000005 0x0001000100000006)) 0 0x0000010000000005 3 0x0001000100000006 ∧
    WayHits (bc objectSlots (way0 0x0006000000000005 0)) 0 0x0000010000000005 6 0 := by
  refine ⟨⟨site_of (info := 8) ?_ ?_, hits_of (e0 := 0x0001000000000005) (a := 0x4200A) ?_, ?_⟩, hits_of (e0 := 0x0002000000000005) (a := 0x4200A) ?_,
    hits_of (e0 := 0x0003000000000005) (a := 0x4200A) ?_, hits_of (e0 := 0x0006000000000005) (a := 0x4200A) ?_⟩ <;> decide +kernel

theorem witness_BytecodeObjects_transition :
    let u := (bc objectSlots (way0 0x0003000000000005 0x0001000100000006)).stored 0x22000 0x0000010000000006
    Holds u (slotAddr 0x22000 1) 9 ∧
    ((fld (0x0001000100000006 : Word) 32 16 : Half).toNat < 2 * 1 ∧ (fld (0x0001000100000006 : Word) 48 8 : Byte).toNat = 1 ∧
      setFld (0x0000010000000005 : Word) 0 (fld (0x0001000100000006 : Word) 0 32 : W32) = 0x0000010000000006) := by
  intro u
  exact ⟨wordB_iff (by decide +kernel), by decide +kernel⟩

theorem witness_BytecodeObjects_misses : ∀ k, k < 4 → WayMisses (bc objectSlots []) 0 0x0000010000000005 k := by
  intro k hk
  refine ⟨0, 0, way_of ?_, Or.inl (by decide +kernel)⟩
  rcases k with _ | _ | _ | _ | k
  all_goals first
    | omega
    | decide +kernel

theorem witness_BytecodeObjects_storable : Storable (bc objectSlots (way0 0x0001000000000005 1)) (slotAddr 0x22000 1) ∧
    (let s := bc objectSlots (way0 0x0003000000000005 0x0001000100000006)
     Storable s 0x22000 ∧ Storable (s.stored 0x22000 0x0000010000000006) (slotAddr 0x22000 1)) ∧
    Storable (bc objectSlots []) (slotAddr 0x24000 (2 + 1)) :=
  ⟨storable_of (by decide +kernel), ⟨storable_of (by decide +kernel), storable_of (by decide +kernel)⟩, storable_of (by decide +kernel)⟩

theorem witness_BytecodeObjects_vector : let s := bc objectSlots []
    let t : Tensor := { format := 0xB, rank := 1, data := 0x28000, dims := [4, 1, 1, 1], strides := [1, 1, 1, 1], storage := 0x27000 }
    vectorF32 0x26000 s = .ok (t, s) ∧ swqBytes (t.elem 1) 4 s = .ok ([0, 0, 0, 0], s) ∧ 1 < (t.dims.getD 0 0).toNat ∧
      swqAddr (t.elem 1).toNat = true := by
  intro s t
  exact ⟨okB_iff (by decide +kernel), okB_iff (by decide +kernel), by decide +kernel⟩

/-- A word of memory changed. -/
def poke (s : State) (a : Nat) (w : Word) : State := { s with mem := Memory.write s.mem a (natBytes 8 w.toNat) }

/-- Slots: an object, a function, an integer, a vector, the f32 format, a tuple, None, an object without children. -/
def heapSlots : List Word := [0x22000, 0x29000, 5, 0x26000, 23, 0x25000, 0x02, 0x2A000]

theorem witness_BytecodeCounts_take : let s := bc heapSlots []
    let u := s.stored (0x22000 + 8) (setFld 2 0 (BitVec.ofNat 32 (hdrCount 2 + 1)))
    SlotPlain s 6 ∧ SlotIs s 0 0x22000 ∧ Holds s 0x22000 0x0000010000000005 ∧ Holds s (0x22000 + 8) 2 ∧ SlotPlain u 6 ∧
    Storable s 0x22000 ∧ Storable s (0x22000 + 8) ∧
    (vKind 0x22000 = .pointer ∧ hdrImmortal 0x0000010000000005 = false ∧ hdrImmortal 0x0004010000000005 = true ∧
      hdrCount 0xFFFFFFFE + 1 = 2 ^ 32 - 1 ∧ hdrCount 2 + 1 ≠ 2 ^ 32 - 1) := by
  intro s u
  have hs : slotsB s 8 [(0, 0x22000), (6, 0x02)] = true := by decide +kernel
  have hu : slotsB u 8 [(6, 0x02)] = true := by decide +kernel
  exact ⟨slotsB_plain hs (6, 2) (by simp) (by decide +kernel), slotsB_iff hs (0, 0x22000) (by simp), wordB_iff (by decide +kernel),
    wordB_iff (by decide +kernel), slotsB_plain hu (6, 2) (by simp) (by decide +kernel), storable_of (by decide +kernel),
    storable_of (by decide +kernel), by decide +kernel⟩

theorem witness_BytecodeCounts_drop : let s := bc heapSlots []
    let u := s.wrote 0 0x02
    let y := s.wrote 7 0x02
    let x := y.stored (0x2A000 + 8) (setFld 1 0 (BitVec.ofNat 32 (hdrCount 1 - 1)))
    SlotIs s 0 0x22000 ∧ Holds u 0x22000 0x0000010000000005 ∧ Holds u (0x22000 + 8) 2 ∧ SlotIs s 7 0x2A000 ∧ Holds y 0x2A000 0x0000010300000000 ∧
    Holds y (0x2A000 + 8) 1 ∧ Holds x 0x2A000 0x0000010300000000 ∧ Holds x (0x2A000 + 8) 0 ∧
    Storable s (frameSlot s.myHart.swq.frame 7) ∧ Storable y (0x2A000 + 8) ∧
    (vKind 0x2A000 = .pointer ∧ hdrKind 0x0000010300000000 = 3 ∧ hdrMoored 0x0000010300000000 = false ∧ hdrCount 1 = 1 ∧ 2 ≤ hdrCount 2 ∧ hdrCount 0 = 0) := by
  intro s u y x
  have hs : slotsB s 8 [(0, 0x22000), (7, 0x2A000)] = true := by decide +kernel
  exact ⟨slotsB_iff hs (0, 0x22000) (by simp), wordB_iff (by decide +kernel), wordB_iff (by decide +kernel), slotsB_iff hs (7, 0x2A000) (by simp),
    wordB_iff (by decide +kernel), wordB_iff (by decide +kernel), wordB_iff (by decide +kernel), wordB_iff (by decide +kernel),
    storable_of (by decide +kernel), storable_of (by decide +kernel), by decide +kernel⟩

/-- One entry, the object, on the worklist. -/
def listed : State := poke (poke (bc heapSlots []) 0x40030 0x0000000000010010) 0x43000 0x22000

theorem witness_BytecodeCounts_step : let s := listed
    let u := s.stored (s.myHart.swqic + 48) (setFld 0x0000000000010010 32 (1 : Half))
    Holds s (s.myHart.swqic + 48) 0x0000000000010010 ∧ Holds (bc heapSlots []) ((bc heapSlots []).myHart.swqic + 48) 16 ∧
    Storable s (s.myHart.swqic + 48) ∧ Storable u (0x22000 + 8) ∧
    Holds s (s.myHart.swqic + 40) 0x43000 ∧ Holds s 0x43000 0x22000 ∧ Holds u 0x22000 0x0000010000000005 ∧ Holds u (0x22000 + 8) 2 ∧
    ((fld (0x0000000000010010 : Word) 16 16 : Half) ≠ fld (0x0000000000010010 : Word) 32 16 ∧ (fld (16 : Word) 16 16 : Half) = fld (16 : Word) 32 16 ∧
      0x43000 + BitVec.ofNat 64 (8 * ((fld (0x0000000000010010 : Word) 32 16 : Half).toNat % workSize (fld (0x0000000000010010 : Word) 0 16 : Half).toNat)) =
        (0x43000 : Word)) := by
  intro s u
  exact ⟨wordB_iff (by decide +kernel), wordB_iff (by decide +kernel), storable_of (by decide +kernel), storable_of (by decide +kernel),
    wordB_iff (by decide +kernel), wordB_iff (by decide +kernel), wordB_iff (by decide +kernel), wordB_iff (by decide +kernel), by decide +kernel⟩

/-- Site 0 holds the function. -/
def calling : State := bc heapSlots (way0 0x0004000000000000 0x29000)

/-- A frame as a call opens it behind the current one, before its slots: for result slot 6. -/
def opened (s : State) (callee : Word) (i : Instr) : State :=
  let q := s.myHart.swq
  let new := frameSlot q.frame 8
  (((s.stored new callee).stored (new + 8) q.frame).stored (new + 16) (q.bpc + BitVec.ofNat 64 (encodeBytes i).length)).stored (new + 24)
    ((6 : Half).setWidth 64)

/-- Words that the engine may write from an address up. -/
def writableB (s : State) (a : Word) : List Word → Bool
  | [] => true
  | v :: l => plainB s a && writableB (s.stored a v) (a + 8) l

theorem writable_of {l : List Word} {s : State} {a : Word} (h : writableB s a l = true) : s.Writable a l := by
  induction l generalizing s a with
  | nil => trivial
  | cons v l ih =>
    rw [writableB, Bool.and_eq_true] at h
    exact ⟨storable_of h.1, ih h.2⟩

theorem witness_BytecodeCalls_call : let s := calling
    let u := (opened s 0x29000 (.swqCall true 6 1 2 1 0)).storedSlots (frameSlot s.myHart.swq.frame 8) ([5] ++ List.replicate (4 - 1) vNone) 0
    SiteIs s 0 0 ∧ SlotBelow s 6 ∧ SlotIs s 1 0x29000 ∧ SlotIs s 2 5 ∧ WayIs s 0 0 0x0004000000000000 0x29000 ∧ slotCount s = .ok (8, s) ∧
    Holds s 0x29000 0x0000020500000000 ∧ Holds s (slotAddr 0x29000 1) 0x10004 ∧ Holds s (s.myHart.swqic + 16) 0x1F000 ∧
    Holds u (slotAddr 0x29000 0) 0x32000 ∧
    s.Writable (frameSlot s.myHart.swq.frame 8) ([0x29000, s.myHart.swq.frame, s.myHart.swq.bpc +
      BitVec.ofNat 64 (encodeBytes (.swqCall true 6 1 2 1 0)).length, 6] ++ ([5] ++ List.replicate (4 - 1) vNone)) ∧
    (∀ k, k < 4 → ∃ e0 e1, WayIs (bc heapSlots []) 0 k e0 e1 ∧ (wayKind e0 ≠ 4 ∨ e1 ≠ 0x29000)) ∧
    (wayKind 0x0004000000000000 = 4 ∧ vKind 0x29000 = .pointer ∧ hdrKind 0x0000020500000000 = 5 ∧ (fld (0x10004 : Word) 16 8 : Byte).toNat = [(5 : Word)].length ∧
      (fld (0x10004 : Word) 0 16 : Half).toNat = 4 ∧ (frameSlot s.myHart.swq.frame 8).toNat + 32 + 8 * 4 ≤ (0x100A0 : Word).toNat ∧
      (0x1009F : Word).toNat < (frameSlot s.myHart.swq.frame 8).toNat + 32 + 8 * 4 ∧ 0x100A0 ≤ (0x1F000 : Word).toNat ∧
      (fld (0x10004 : Word) 16 8 : Byte).toNat ≠ [(5 : Word), 23].length) := by
  intro s u
  have hs : slotsB s 8 [(1, 0x29000), (2, 5), (6, 0x02)] = true := by decide +kernel
  have hm : ∀ k, k < 4 → ∃ e0 e1, WayIs (bc heapSlots []) 0 k e0 e1 ∧ (wayKind e0 ≠ 4 ∨ e1 ≠ 0x29000) := by
    intro k hk
    refine ⟨0, 0, way_of ?_, Or.inl (by decide +kernel)⟩
    rcases k with _ | _ | _ | _ | k
    all_goals first
      | omega
      | decide +kernel
  exact ⟨site_of (info := 8) (by decide +kernel) (by decide +kernel), (slotsB_iff hs (6, 2) (by simp)).1, slotsB_iff hs (1, 0x29000) (by simp),
    slotsB_iff hs (2, 5) (by simp), way_of (by decide +kernel), okB_iff (by decide +kernel), wordB_iff (by decide +kernel), wordB_iff (by decide +kernel),
    wordB_iff (by decide +kernel), wordB_iff (by decide +kernel), writable_of (by decide +kernel), hm, by decide +kernel⟩

theorem witness_BytecodeCalls_method : let s := bc heapSlots (way0 0x0004000000000005 0x29000)
    let h := opened s 0x29000 (.swqCallm true 6 0 0 0)
    let c := h.stored (0x22000 + 8) (setFld 2 0 (BitVec.ofNat 32 (hdrCount 2 + 1)))
    let u := (c.stored (frameSlot (frameSlot s.myHart.swq.frame 8) 0) 0x22000).storedSlots (frameSlot s.myHart.swq.frame 8)
      ([] ++ List.replicate (4 - (0 + 1)) vNone) 1
    SlotIs s 0 0x22000 ∧ Holds s 0x22000 0x0000010000000005 ∧ WayHits s 0 0x0000010000000005 4 0x29000 ∧ Holds h 0x22000 0x0000010000000005 ∧
    Holds h (0x22000 + 8) 2 ∧ Holds u (slotAddr 0x29000 0) 0x32000 ∧
    s.Writable (frameSlot s.myHart.swq.frame 8) [0x29000, s.myHart.swq.frame, s.myHart.swq.bpc +
      BitVec.ofNat 64 (encodeBytes (.swqCallm true 6 0 0 0)).length, 6] ∧ Storable h (0x22000 + 8) ∧
    c.Writable (frameSlot (frameSlot s.myHart.swq.frame 8) 0) (0x22000 :: ([] ++ List.replicate (4 - (0 + 1)) vNone)) ∧
    ((fld (0x10004 : Word) 16 8 : Byte).toNat = 0 + 1 ∧ (fld (0x10004 : Word) 16 8 : Byte).toNat ≠ 1 + 1 ∧ hdrKind 0x0000010000000005 = 0) := by
  intro s h c u
  have hs : slotsB s 8 [(0, 0x22000)] = true := by decide +kernel
  exact ⟨slotsB_iff hs (0, 0x22000) (by simp), wordB_iff (by decide +kernel), hits_of (e0 := 0x0004000000000005) (a := 0x4200A) (by decide +kernel),
    wordB_iff (by decide +kernel), wordB_iff (by decide +kernel), wordB_iff (by decide +kernel), writable_of (by decide +kernel),
    storable_of (by decide +kernel), writable_of (by decide +kernel), by decide +kernel⟩

/-- A frame of plain values, the entry frame or called from one at 0x18000. -/
def returning (caller : Word) : State := poke (bc [5, 7, 9, 0x12, 0x0A, 1, 0x02, 3] []) 0x10008 caller

theorem witness_BytecodeCalls_ret :
    SlotIs (returning 0) 0 5 ∧ SlotIs (returning 0x18000) 0 5 ∧ slotCount (returning 0) = .ok (8, returning 0) ∧
    slotCount (returning 0x18000) = .ok (8, returning 0x18000) ∧
    (∀ p ∈ ([(0x10008, 0x18000), (0x10010, 0x30100), (0x10018, 0), (frameSlot 0x18000 0, 0)] : List (Word × Word)), Holds (returning 0x18000) p.1 p.2) ∧
    Holds (returning 0) 0x10008 0 ∧
    (∀ k, k < 8 → ∃ v, Holds (returning 0x18000) (frameSlot 0x10000 k) v ∧ vKind v ≠ .pointer) ∧ (returning 0).myHart.swq.frame = 0x10000 ∧
    vKind 0 ≠ .pointer ∧ vKind 5 ≠ .pointer ∧ Storable (returning 0x18000) (frameSlot 0x18000 0) := by
  have h0 : slotsB (returning 0) 8 [(0, 5)] = true := by decide +kernel
  have hl : slotsB (returning 0x18000) 8 [(0, 5), (1, 7), (2, 9), (3, 0x12), (4, 0x0A), (5, 1), (6, 0x02), (7, 3)] = true := by decide +kernel
  refine ⟨slotsB_iff h0 (0, 5) (by simp), slotsB_iff hl (0, 5) (by simp), okB_iff (by decide +kernel), okB_iff (by decide +kernel),
    wordsB_iff (by decide +kernel), wordB_iff (by decide +kernel), ?_, by decide +kernel, by decide +kernel, by decide +kernel,
    storable_of (by decide +kernel)⟩
  have hf : ∀ i : Half, frameSlot (returning 0x18000).myHart.swq.frame i.toNat = frameSlot 0x10000 i.toNat := by
    have : (returning 0x18000).myHart.swq.frame = 0x10000 := by decide +kernel
    intro i
    rw [this]
  have get : ∀ p ∈ ([(0, 5), (1, 7), (2, 9), (3, 0x12), (4, 0x0A), (5, 1), (6, 0x02), (7, 3)] : List (Half × Word)), vKind p.2 ≠ .pointer →
      ∃ v, Holds (returning 0x18000) (frameSlot 0x10000 p.1.toNat) v ∧ vKind v ≠ .pointer :=
    fun p hp hv => ⟨p.2, hf p.1 ▸ (slotsB_iff hl p hp).2, hv⟩
  intro k hk
  rcases k with _ | _ | _ | _ | _ | _ | _ | _ | k
  · exact get (0, 5) (by simp) (by decide +kernel)
  · exact get (1, 7) (by simp) (by decide +kernel)
  · exact get (2, 9) (by simp) (by decide +kernel)
  · exact get (3, 0x12) (by simp) (by decide +kernel)
  · exact get (4, 0x0A) (by simp) (by decide +kernel)
  · exact get (5, 1) (by simp) (by decide +kernel)
  · exact get (6, 0x02) (by simp) (by decide +kernel)
  · exact get (7, 3) (by simp) (by decide +kernel)
  · omega

/-- The pools of die 0: a block each for objects of classes 1, 2, 3 and 6 and for a data block of 64 bytes. -/
def stocked (s : State) : State :=
  let pool (a : Nat) : Pool := { enabled := true, held := [a] }
  { s with dies := [(0, { pools := [(1, pool 0x50000), (2, pool 0x51000), (3, pool 0x52000), (6, pool 0x53000), (128, pool 0x54000)] })] }

/-- A state after a pool's newest block is taken. -/
def emptied (s : State) (p : Nat) : State := setPool s (swqDie s) p { getPool s (swqDie s) p with held := [] }

theorem taken_of {s : State} {p a : Nat}
    (h : ((getPool s (swqDie s) p).enabled && (getPool s (swqDie s) p).held == [a] && a != 0) = true) : BlockTaken s p (BitVec.ofNat 64 a) (emptied s p) := by
  simp only [Bool.and_eq_true, beq_iff_eq, bne_iff_ne] at h
  exact ⟨[], a, h.1.1, h.1.2, h.2, rfl, rfl⟩

theorem witness_BytecodeConstruction_object : let s := stocked (bc heapSlots [])
    let words : List Word := [BitVec.ofNat 24 1 ++ BitVec.ofNat 8 0 ++ (5 : W32), 1] ++ List.replicate (2 * 1) 0x02
    (∀ p ∈ ([(s.myHart.swq.frame, 0x20000), (slotAddr 0x20000 2, 0x21000), (slotAddr 0x21000 0, 2), (slotAddr 0x21000 (1 + 1), 0x23000),
      (0x23000, 0x0000010700000000), (slotAddr 0x23000 0, 0x0000000100000005)] : List (Word × Word)), Holds s p.1 p.2) ∧
    BlockTaken s 1 (BitVec.ofNat 64 0x50000) (emptied s 1) ∧ (emptied s 1).Writable (BitVec.ofNat 64 0x50000) words ∧
    SlotPlain ((emptied s 1).storedAll (BitVec.ofNat 64 0x50000) words) 6 ∧ SlotBelow s 6 ∧
    Holds (poke s 0x23010 0x0000008000000005) (slotAddr 0x23000 0) 0x0000008000000005 ∧
    ((1 : Half).toNat < (2 : Word).toNat ∧ vKind 0x23000 = .pointer ∧ hdrKind 0x0000010700000000 = 7 ∧ (fld (0x0000000100000005 : Word) 32 8 : Byte).toNat = 1 ∧
      127 < (fld (0x0000008000000005 : Word) 32 8 : Byte).toNat ∧ (getPool (bc heapSlots []) (swqDie (bc heapSlots [])) 1).enabled = false) := by
  intro s words
  have hs : slotsB s 8 [(6, 0x02)] = true := by decide +kernel
  have hu : slotsB ((emptied s 1).storedAll (BitVec.ofNat 64 0x50000) words) 8 [(6, 0x02)] = true := by decide +kernel
  exact ⟨wordsB_iff (by decide +kernel), taken_of (by decide +kernel), writable_of (by decide +kernel), slotsB_plain hu (6, 2) (by simp) (by decide +kernel),
    (slotsB_iff hs (6, 2) (by simp)).1, wordB_iff (by decide +kernel), by decide +kernel⟩

/-- A function with 300 slots, at address 0. -/
def many : State := { helmRig { swq := { running := true, frame := 0x10000 } } with mem := [(0x18, 44), (0x19, 1)] }

theorem many_byte {a : Nat} (h : 0x1A ≤ a) : helmByte many 0 a = 0 := by
  have e : Memory.get many.mem a = 0 := by
    change Memory.get [(0x18, 44), (0x19, 1)] a = 0
    simp only [Memory.get, show ¬ a < 0x18 by omega, show a ≠ 0x18 by omega, show ¬ a < 0x19 by omega, show a ≠ 0x19 by omega, if_false]
    rfl
  have g : lineGenOf many (a / 64) = 0 := rfl
  change physByte many 0 a = 0
  simp [physByte, g, e]

theorem many_read {n a : Nat} (h : 0x1A ≤ a) : helmRead many 0 a n = List.replicate n 0 := by
  induction n generalizing a with
  | zero => rfl
  | succ n ih => rw [helmRead, many_byte h, ih (by omega), List.replicate_succ]

theorem many_clean (a n : Nat) : meetsPoison many true a n = false := by
  simp only [meetsPoison, if_true, List.any_eq_false]
  intro i _
  exact Bool.false_ne_true

theorem many_zero {a : Word} (h : 0x1A ≤ a.toNat) (hs : a.toNat % 4096 + 8 ≤ 4096) (ha : (swqAddr a.toNat && swqAddr (a.toNat + 8 - 1)) = true) :
    Holds many a 0 := by
  have g : swqGen' many many.hart.val = 0 := by decide +kernel
  have v : many.plainView = true := by decide +kernel
  rw [Holds, swqLoad_of v hs ha (many_clean _ _) (syncLines_nil rfl _ _ _), openLines_of (cold_of (by decide +kernel)), g, many_read h]
  rfl

theorem witness_BytecodeConstruction_sequence :
    (let s := stocked (bc [5, 0x12, 0x02] [])
     let words : List Word := [BitVec.ofNat 24 2 ++ BitVec.ofNat 8 1 ++ (0 : W32), 1] ++ ([2, 2] ++ [5, 0x12] ++ List.replicate (2 * 2 - (2 + 2)) 0x02)
     SlotIs s 0 5 ∧ SlotIs s 1 0x12 ∧ BlockTaken s 2 (BitVec.ofNat 64 0x51000) (emptied s 2) ∧ (emptied s 2).Writable (BitVec.ofNat 64 0x51000) words ∧
       SlotPlain ((emptied s 2).storedAll (BitVec.ofNat 64 0x51000) words) 2 ∧
       ((16 + 8 * (2 + 2) + 15) / 16 - 1 = 2 ∧ (16 + 8 * (1 + 2) + 15) / 16 - 1 = 2 ∧ vKind 5 ≠ .pointer ∧ vKind 0x12 ≠ .pointer)) ∧
    (∀ j, j < 253 → SlotBelow many (2 + j) ∧ Holds many (frameSlot many.myHart.swq.frame (2 + j)) 0) ∧
    (127 < (16 + 8 * (2 + 253) + 15) / 16 - 1 ∧ 127 < (16 + 8 * (1 + 254) + 15) / 16 - 1 ∧ vKind 0 ≠ .pointer) := by
  refine ⟨?_, ?_, by decide +kernel⟩
  · intro s words
    have hs : slotsB s 8 [(0, 5), (1, 0x12)] = true := by decide +kernel
    have hu : slotsB ((emptied s 2).storedAll (BitVec.ofNat 64 0x51000) words) 8 [(2, 0x02)] = true := by decide +kernel
    exact ⟨slotsB_iff hs (0, 5) (by simp), slotsB_iff hs (1, 0x12) (by simp), taken_of (by decide +kernel), writable_of (by decide +kernel),
      slotsB_plain hu (2, 2) (by simp) (by decide +kernel), by decide +kernel⟩
  · have hc : slotCount many = .ok (300, many) := okB_iff (by decide +kernel)
    have hf : many.myHart.swq.frame = 0x10000 := by decide +kernel
    refine fun j hj => ⟨⟨300, hc, by omega⟩, ?_⟩
    have e : (frameSlot many.myHart.swq.frame (2 + j)).toNat = 0x10000 + 32 + 8 * (2 + j) := by
      rw [hf, frameSlot, BitVec.toNat_add, BitVec.toNat_ofNat]
      change (0x10000 + (32 + 8 * (2 + j)) % 2 ^ 64) % 2 ^ 64 = _
      omega
    refine many_zero ?_ ?_ ?_ <;> rw [e]
    · omega
    · omega
    · simp only [swqAddr, isMain, Bool.and_eq_true, Bool.or_eq_true, decide_eq_true_eq]
      omega

theorem witness_BytecodeConstruction_tensor : let s := stocked (bc heapSlots [])
    let s1 := emptied s 6
    let s2 := emptied s1 3
    let s3 := emptied s2 128
    let storage : List Word := [0x0000030800000000, 1, BitVec.ofNat 64 0x54000, BitVec.ofNat 64 (128 + 0), 0, 0, 0]
    let tensor : List Word := [(0x0000060400000000 : Word), 1, (BitVec.ofNat 16 2 ++ (0x000B : Half)).setWidth 64, BitVec.ofNat 64 0x54000] ++
      [2, 3, 1, 1] ++ [3, 1, 1, 1] ++ [BitVec.ofNat 64 0x52000]
    let u := s3.storedAll (BitVec.ofNat 64 0x52000) storage
    let x := u.storedAll (BitVec.ofNat 64 0x53000) tensor
    SlotIs s 4 (BitVec.ofInt 64 (2 * (0x000B : Half).toNat + 1)) ∧ SlotIs s 5 0x25000 ∧ Holds s 0x25000 0x0000020200000000 ∧
    Holds s (slotAddr 0x25000 0) (BitVec.ofNat 64 [2, 3].length) ∧ Holds s (slotAddr 0x25000 (1 + 0)) (BitVec.ofInt 64 (2 * (2 : Nat) + 1)) ∧
    Holds s (slotAddr 0x25000 (1 + 1)) (BitVec.ofInt 64 (2 * (3 : Nat) + 1)) ∧
    BlockTaken s 6 (BitVec.ofNat 64 0x53000) s1 ∧ BlockTaken s1 3 (BitVec.ofNat 64 0x52000) s2 ∧ BlockTaken s2 (128 + 0) (BitVec.ofNat 64 0x54000) s3 ∧
    s3.Writable (BitVec.ofNat 64 0x52000) storage ∧ u.Writable (BitVec.ofNat 64 0x53000) tensor ∧ SlotPlain x 6 ∧
    (tnewBits (elemOf 0x000B) = some 32 ∧ illFormed 0x000B true = false ∧ (fld (0x000B : Half) 4 4 : BitVec 4) = 0 ∧ (fld (0x001B : Half) 4 4 : BitVec 4) ≠ 0 ∧
      tnewBits (elemOf 0x001B) = some 32 ∧ product [2, 3] * 32 / 8 ≤ 64 * 2 ^ 0 ∧ 64 * 2 ^ 14 < product [0x40001] * 32 / 8 ∧ product [0x40000] * 32 / 8 ≤ 64 * 2 ^ 14) := by
  intro s s1 s2 s3 storage tensor u x
  have hs : slotsB s 8 [(4, 23), (5, 0x25000)] = true := by decide +kernel
  have hx : slotsB x 8 [(6, 0x02)] = true := by decide +kernel
  have e : BitVec.ofInt 64 (2 * (0x000B : Half).toNat + 1) = (23 : Word) := by decide +kernel
  exact ⟨e ▸ slotsB_iff hs (4, 23) (by simp), slotsB_iff hs (5, 0x25000) (by simp), wordB_iff (by decide +kernel), wordB_iff (by decide +kernel),
    wordB_iff (by decide +kernel), wordB_iff (by decide +kernel), taken_of (by decide +kernel), taken_of (by decide +kernel), taken_of (by decide +kernel),
    writable_of (by decide +kernel), writable_of (by decide +kernel), slotsB_plain hx (6, 2) (by simp) (by decide +kernel), by decide +kernel⟩


theorem witness_BytecodeTensors_tags : let s := bc heapSlots []
    let t := poke (poke s 0x40008 0x0000006400010064) 0x41000 1
    Holds s s.myHart.swqic 0x41000 ∧ Holds s (s.myHart.swqic + 8) 0x0000006400020064 ∧ Holds s (0x41000 + BitVec.ofNat 64 (128 * 0)) 0 ∧
    Storable s (s.myHart.swqic + 8) ∧ Holds (poke s 0x41000 1) (0x41000 + BitVec.ofNat 64 (128 * 1)) 0 ∧
    Holds (poke s 0x41000 1) (0x41000 + BitVec.ofNat 64 (128 * 0)) 1 ∧
    Holds t t.myHart.swqic 0x41000 ∧ Holds t (t.myHart.swqic + 8) 0x0000006400010064 ∧ Holds t (0x41000 + BitVec.ofNat 64 (128 * 0)) 1 ∧
    ((fld (0x0000006400020064 : Word) 16 16 : Half).toNat = 2 ∧ (fld (0x0000006400010064 : Word) 16 16 : Half).toNat = 1 ∧
      ((fld (0x0000006400020064 : Word) 32 16 : Half) - fld (0x0000006400020064 : Word) 0 16).toNat % 2 = 0) := by
  intro s t
  exact ⟨wordB_iff (by decide +kernel), wordB_iff (by decide +kernel), wordB_iff (by decide +kernel), storable_of (by decide +kernel),
    wordB_iff (by decide +kernel), wordB_iff (by decide +kernel), wordB_iff (by decide +kernel), wordB_iff (by decide +kernel),
    wordB_iff (by decide +kernel), by decide +kernel⟩

/-- A part of a bytecode answers a value and leaves another state. -/
def leavesB {α : Type} [DecidableEq α] (m : Swq α) (s : State) (v : α) (t : State) : Bool :=
  match m s with
  | .ok (w, u) => decide (w = v) && decide (u = t)
  | .error _ => false

theorem leavesB_iff {α : Type} [DecidableEq α] {m : Swq α} {s t : State} {v : α} : leavesB m s v t = true → m s = .ok (v, t) := by
  intro h
  unfold leavesB at h
  split at h
  · rename_i w u e
    simp only [Bool.and_eq_true, decide_eq_true_eq] at h
    rw [e, h.1, h.2]
  · cases h

/-- A part of a bytecode exits with a cause. -/
def exitsB {α : Type} (m : Swq α) (s : State) (c : Nat) : Bool :=
  match m s with
  | .error (.exit d) => d == c
  | _ => false

theorem exitsB_iff {α : Type} {m : Swq α} {s : State} {c : Nat} : exitsB m s c = true → m s = .error (.exit c) := by
  intro h
  unfold exitsB at h
  split at h
  · rename_i d e
    rw [e, beq_iff_eq.mp h]
  · cases h

/-- The vector, and a kernel entry of site 0 for three vectors. -/
def vec1 : Tensor := { format := 0xB, rank := 1, data := 0x28000, dims := [4, 1, 1, 1], strides := [1, 1, 1, 1], storage := 0x27000 }
def kerneled : State :=
  bcOver [(0x20018, 8), (0x26000, 0x0000060400000000), (0x26010, 0x1000B), (0x26018, 0x28000), (0x26020, 4), (0x26028, 1), (0x26030, 1), (0x26038, 1),
    (0x26040, 1), (0x26048, 1), (0x26050, 1), (0x26058, 1), (0x26060, 0x27000), (0x27000, 0x0000030800000000), (0x27008, 1), (0x27018, 128),
    (0x40000, 0x41000), (0x40008, 0x0000006400020064), (0x40020, 0x0000000100000010)] [0, 0, 0, 0x26000, 0, 0, 0x02]
    (way0 0x0005000B000B000B 0xFFFFFFFF00020001)

/-- The launch block of the three vectors, tag 101 being next, and the holds taken. -/
def blocked3 (s : State) : State :=
  (s.stored 0x40008 0x0000006500020064).storedAll 0x41000 [1, 0x28000, 0x28000, 0x28000, 0x0000000100000004, 0x0000000100000004, 0x0000000100000004,
    0x27008, 0x27008, 0x27008]
def held3 (s : State) : State := (((blocked3 s).stored 0x27008 0x0000000100000001).stored 0x27008 0x0000000200000001).stored 0x27008 0x0000000300000001

theorem witness_BytecodeTensors_holds : let s := kerneled
    let t := poke s 0x27008 0x0000FFFF00000001
    (vKind vec1.storage = .pointer ∧ Holds s vec1.storage 0x0000030800000000 ∧ hdrKind 0x0000030800000000 = 8 ∧ Holds s (vec1.storage + 8) 1 ∧
      hdrHold 1 + [vec1].countP (fun u => u.storage == vec1.storage) ≤ 65535) ∧
    Holds t vec1.storage 0x0000030800000000 ∧ Holds t (vec1.storage + 8) 0x0000FFFF00000001 ∧
      ¬ hdrHold 0x0000FFFF00000001 + [vec1].countP (fun u => u.storage == vec1.storage) ≤ 65535 := by
  intro s t
  exact ⟨⟨by decide +kernel, wordB_iff (by decide +kernel), by decide +kernel, wordB_iff (by decide +kernel), by decide +kernel⟩,
    wordB_iff (by decide +kernel), wordB_iff (by decide +kernel), by decide +kernel⟩

theorem witness_BytecodeTensors_call : let s := kerneled
    SiteIs s 0 0 ∧ SlotBelow s 6 ∧ SlotBelow s 3 ∧ tensorsOf [3, 3, 3] s = .ok ([vec1, vec1, vec1], s) ∧ WayIs s 0 0 0x0005000B000B000B 0xFFFFFFFF00020001 ∧
    holdsFit [vec1, vec1, vec1] [vec1, vec1, vec1] s = .ok ((), s) ∧
    takeTag s = .ok ((100, 0x41000), s.stored 0x40008 0x0000006500020064) ∧
    (s.stored 0x40008 0x0000006500020064).Writable 0x41000 [1, 0x28000, 0x28000, 0x28000, 0x0000000100000004, 0x0000000100000004, 0x0000000100000004,
      0x27008, 0x27008, 0x27008] ∧
    takeHolds [vec1, vec1, vec1] (blocked3 s) = .ok ((), held3 s) ∧ Holds (held3 s) ((held3 s).myHart.swqic + 32) 0x0000000100000010 ∧
    Holds (held3 s) ((held3 s).myHart.swqic + 56) 0 ∧ Holds (held3 s) (slotAddr 0x27000 2) 0 ∧
    SlotPlain { held3 s with agenda := [.event .terminationSweep] } 6 ∧
    takeTag (poke (poke s 0x40008 0x0000006400010064) 0x41000 1) = .error (.exit 0x09) ∧
    holdsFit [vec1, vec1, vec1] [vec1, vec1, vec1] (poke s 0x27008 0x0000FFFD00000001) = .error (.exit 0x03) ∧
    (wayKind 0x0005000B000B000B = 5 ∧ wayShape 0x0005000B000B000B = vec1.format ++ vec1.format ∧ wayGen 0x0005000B000B000B = vec1.format) := by
  intro s
  have hs : slotsB s 8 [(3, 0x26000), (6, 0x02)] = true := by decide +kernel
  have hu : slotsB { held3 s with agenda := [.event .terminationSweep] } 8 [(6, 0x02)] = true := by decide +kernel
  exact ⟨site_of (info := 8) (by decide +kernel) (by decide +kernel), (slotsB_iff hs (6, 2) (by simp)).1, (slotsB_iff hs (3, 0x26000) (by simp)).1,
    okB_iff (by decide +kernel), way_of (by decide +kernel), okB_iff (by decide +kernel), leavesB_iff (by decide +kernel), writable_of (by decide +kernel),
    leavesB_iff (by decide +kernel), wordB_iff (by decide +kernel), wordB_iff (by decide +kernel), wordB_iff (by decide +kernel),
    slotsB_plain hu (6, 2) (by simp) (by decide +kernel), exitsB_iff (by decide +kernel), exitsB_iff (by decide +kernel), by decide +kernel⟩

theorem witness_BytecodeTensors_copy : let s := bc [0x26000, 0x2B000, 5, 201, 0x02, 205] []
    let v : Tensor := { vec1 with format := 0xD }
    tensorsOf [0, 0] s = .ok ([vec1, vec1], s) ∧ tensorsOf [0, 1] s = .ok ([vec1, v], s) ∧ SlotIs s 2 5 ∧ SlotIs s 3 (BitVec.ofInt 64 (2 * (100 : Half).toNat + 1)) ∧
    SlotIs s 4 0x02 ∧ SlotIs s 5 (BitVec.ofInt 64 (2 * (102 : Half).toNat + 1)) ∧ Holds s s.myHart.swqic 0x41000 ∧
    Holds s (s.myHart.swqic + 8) 0x0000006400020064 ∧ Holds s (0x41000 + BitVec.ofNat 64 (128 * 0)) 0 ∧
    Holds (poke s 0x41000 1) (0x41000 + BitVec.ofNat 64 (128 * 0)) 1 ∧ Holds (poke s 0x41000 3) (0x41000 + BitVec.ofNat 64 (128 * 0)) 3 ∧
    Storable (poke s 0x41000 3) 0x41000 ∧ SlotPlain ((poke s 0x41000 3).stored 0x41000 0) 3 ∧
    ((vec1.format = vec1.format ∧ vec1.rank = vec1.rank ∧ vec1.used = vec1.used ∧ vec1.contiguous = true) ∧ vec1.format ≠ v.format ∧
      copyBytes (elemOf vec1.format) (product vec1.used) = some 16 ∧ vKind 5 ≠ .pointer ∧ vKind 0x02 ≠ .int ∧
      ((100 : Half) - (fld (0x0000006400020064 : Word) 0 16 : Half)).toNat = 0 ∧
      (fld (0x0000006400020064 : Word) 16 16 : Half).toNat ≤ ((102 : Half) - (fld (0x0000006400020064 : Word) 0 16 : Half)).toNat) := by
  intro s v
  have hs : slotsB s 8 [(2, 5), (3, 201), (4, 0x02), (5, 205)] = true := by decide +kernel
  have hu : slotsB ((poke s 0x41000 3).stored 0x41000 0) 8 [(3, 201)] = true := by decide +kernel
  have e1 : BitVec.ofInt 64 (2 * (100 : Half).toNat + 1) = (201 : Word) := by decide +kernel
  have e2 : BitVec.ofInt 64 (2 * (102 : Half).toNat + 1) = (205 : Word) := by decide +kernel
  exact ⟨okB_iff (by decide +kernel), okB_iff (by decide +kernel), slotsB_iff hs (2, 5) (by simp), e1 ▸ slotsB_iff hs (3, 201) (by simp),
    slotsB_iff hs (4, 0x02) (by simp), e2 ▸ slotsB_iff hs (5, 205) (by simp), wordB_iff (by decide +kernel), wordB_iff (by decide +kernel),
    wordB_iff (by decide +kernel), wordB_iff (by decide +kernel), wordB_iff (by decide +kernel), storable_of (by decide +kernel),
    slotsB_plain hu (3, 201) (by simp) (by decide +kernel),
    by decide +kernel⟩

-- Witnesses: helm harts ----------------------------------------------------------------------------------------------------------------------

/-- The heap, hart 0 with two registers set. -/
def regs2 (a b : Word) (l : List (Nat × Word)) : State := let s := bc heapSlots l
  s.setMyHart ((s.myHart.setX 6 a).setX 7 b)

/-- A part of a bytecode answers. -/
def doneB {α : Type} (m : Swq α) (s : State) : Bool := (m s).toOption.isSome

theorem doneB_iff {m : Swq Unit} {s : State} (h : doneB m s = true) : ∃ u, m s = .ok ((), u) := by
  unfold doneB at h
  cases e : m s with
  | error x => rw [e] at h; cases h
  | ok p => exact ⟨p.2, rfl⟩

/-- A part of a bytecode stops. -/
def stopsB {α : Type} (m : Swq α) (s : State) (x : SwqStop) : Bool :=
  match m s with
  | .error y => decide (y = x)
  | .ok _ => false

theorem stopsB_iff {α : Type} {m : Swq α} {s : State} {x : SwqStop} : stopsB m s x = true → m s = .error x := by
  intro h
  unfold stopsB at h
  split at h
  · rename_i y e
    rw [e, of_decide_eq_true h]
  · cases h

theorem witness_HelmInstructions_ways : let s := regs2 0 0x28000 (way0 0x0005000000000000 7)
    let way : Word := 0x40040
    let clear (w : Word) : Word := setFld w 48 (0 : Byte)
    let s1 := s.stored (way + 0) (clear 0x0005000000000000)
    let s2 := s1.stored (way + 16) (clear 0)
    let s3 := s2.stored (way + 32) (clear 0)
    s.myHart.swqic + 64 + BitVec.ofNat 64 (64 * (fld (s.myHart.getX 6) 0 32 : W32).toNat) = way ∧
    swqBytes (s.myHart.getX 7) 16 s = .ok (List.replicate 16 0, s) ∧
    (∃ u, swqStoreBytes (way + BitVec.ofNat 64 (16 * (fld (s.myHart.getX 6) 32 2 : BitVec 2).toNat)) (List.replicate 16 0) s = .ok ((), u)) ∧
    swqBytes (2 ^ 55) 16 s = .error (.exception (.plain 5 (2 ^ 55))) ∧
    swqBytes 0x28000 16 { s with poison := [0x28000 / 64] } = .error (.exception { cause := 5, val := 0x28000, poison := true }) ∧
    (Storable s (way + 0) ∧ Storable s1 (way + 16) ∧ Storable s2 (way + 32) ∧ Storable s3 (way + 48)) ∧
    Holds s (way + 0) 0x0005000000000000 ∧ Holds s1 (way + 16) 0 ∧ Holds s2 (way + 32) 0 ∧ Holds s3 (way + 48) 0 ∧
    ((6 : Fin 32) ≠ 7 ∧ (6 : Fin 32) ≠ 0) := by
  intro s way clear s1 s2 s3
  exact ⟨by decide +kernel, okB_iff (by decide +kernel), doneB_iff (by decide +kernel), stopsB_iff (by decide +kernel), stopsB_iff (by decide +kernel),
    ⟨storable_of (by decide +kernel), storable_of (by decide +kernel), storable_of (by decide +kernel), storable_of (by decide +kernel)⟩,
    wordB_iff (by decide +kernel), wordB_iff (by decide +kernel), wordB_iff (by decide +kernel), wordB_iff (by decide +kernel), by decide⟩

theorem witness_HelmInstructions_cells : let s := regs2 5 1 []
    let cell : Word := 0x42000 + BitVec.ofNat 64 (2 * (fld (s.myHart.getX 6) 0 32 : W32).toNat)
    Holds s (s.myHart.swqic + 24) 0x42000 ∧ Holds s (s.myHart.swqic + 32) 0x0000000100000010 ∧ swqLoad16 cell s = .ok (0, s) ∧
    (∃ u, swqStoreBytes cell (natBytes 2 1) s = .ok ((), u)) ∧
    ((fld (s.myHart.getX 6) 0 32 : W32).toNat < (fld (0x0000000100000010 : Word) 0 32 : W32).toNat ∧
      (fld (0x0000000100000010 : Word) 0 32 : W32).toNat ≤ (fld (16 : Word) 0 32 : W32).toNat) := by
  intro s cell
  exact ⟨wordB_iff (by decide +kernel), wordB_iff (by decide +kernel), okB_iff (by decide +kernel), doneB_iff (by decide +kernel), by decide +kernel⟩

theorem witness_HelmInstructions_holds : let s := regs2 0x27000 1 []
    let t := poke (regs2 0x27000 (BitVec.allOnes 64) []) 0x27008 0x0000000100000000
    let u := t.stored (0x27000 + 8) (setFld (0x0000000100000000 : Word) 32 (BitVec.ofInt 16 0))
    (Holds s 0x27000 0x0000030800000000 ∧ Holds s (0x27000 + 8) 1 ∧ Storable s (0x27000 + 8) ∧
      (0 ≤ (hdrHold 1 : Int) + (1 : Word).toInt ∧ (hdrHold 1 : Int) + (1 : Word).toInt ≤ 65535 ∧
        ¬ ((hdrHold 1 : Int) + (1 : Word).toInt = 0 ∧ hdrHold 1 ≠ 0 ∧ hdrCount 1 = 0) ∧ (hdrHold 1 : Int) + (BitVec.allOnes 64 : Word).toInt < 0)) ∧
    (Holds t 0x27000 0x0000030800000000 ∧ Holds t (0x27000 + 8) 0x0000000100000000 ∧ Storable t (0x27000 + 8) ∧ Holds u 0x27000 0x0000030800000000 ∧
      Holds u (0x27000 + 8) 0 ∧ Holds u (slotAddr 0x27000 0) 0x28000 ∧ Holds u (slotAddr 0x27000 1) 128 ∧
      (hdrKind 0x0000030800000000 = 8 ∧ (hdrHold 0x0000000100000000 : Int) + (BitVec.allOnes 64 : Word).toInt = 0 ∧ hdrHold 0x0000000100000000 ≠ 0 ∧
        hdrCount 0x0000000100000000 = 0 ∧ hdrMoored 0x0000030800000000 = false ∧ hdrHold 0 = 0)) := by
  intro s t u
  exact ⟨⟨wordB_iff (by decide +kernel), wordB_iff (by decide +kernel), storable_of (by decide +kernel), by decide +kernel⟩, wordB_iff (by decide +kernel),
    wordB_iff (by decide +kernel), storable_of (by decide +kernel), wordB_iff (by decide +kernel), wordB_iff (by decide +kernel),
    wordB_iff (by decide +kernel), wordB_iff (by decide +kernel), by decide +kernel⟩

/-- A record image at 0x28000. -/
def imaged (r : Record) : State := poke (poke (poke (regs2 0x28000 0 []) 0x28000 r.hdr) 0x28008 r.key) 0x28010 (r.pay.getD 0 0)

theorem witness_HelmInstructions_images :
    (∀ r ∈ [mkRec 0 kC 1 5 64 [1], mkRec 0 kP 1 5 64 [1], mkRec 0 kK 1 5 64 [1], mkRec 0xFFFFF kC 1 5 64 [1]], swqImage 0x28000 (imaged r) = .ok (r, imaged r)) ∧
    (let r := mkRec 0 kC 1 5 64 [1]
     swqLoad 0x28000 (imaged r) = .ok (r.hdr, imaged r) ∧
       swqBytes 0x28000 24 (imaged r) = .ok (natBytes 8 r.hdr.toNat ++ natBytes 8 64 ++ natBytes 8 1, imaged r) ∧ (fld r.hdr 30 3 : BitVec 3).toNat = 0) ∧
    ((mkRec 0 kK 1 5 64 [1]).kind = kK ∧ (mkRec 0 kP 1 5 64 [1]).kind = kP ∧ kP ≠ kF ∧ kP ≠ kK ∧ kC ≠ kF ∧ kC ≠ kK ∧ kC ≠ kP ∧
      namesPound (imaged (mkRec 0 kC 1 5 64 [1])) (mkRec 0 kC 1 5 64 [1]).ta = true ∧
      namesPound (imaged (mkRec 0xFFFFF kC 1 5 64 [1])) (mkRec 0xFFFFF kC 1 5 64 [1]).ta = false) := by
  refine ⟨fun r hr => ?_, ⟨okB_iff ?_, okB_iff ?_, ?_⟩, ?_⟩
  · have h : ([mkRec 0 kC 1 5 64 [1], mkRec 0 kP 1 5 64 [1], mkRec 0 kK 1 5 64 [1], mkRec 0xFFFFF kC 1 5 64 [1]].all
      fun r => okB (swqImage 0x28000) (imaged r) r) = true := by decide +kernel
    exact okB_iff (List.all_eq_true.mp h r hr)
  all_goals decide +kernel

/-- Page tables of the address spaces 0 and 2, a helm pound at work. -/
def pounding : State := { tables with mem := Memory.write tables.mem 0x100010 (natBytes 8 (0x20 * 2 ^ 22 + 1)), viaPound := true }

/-- What a delivered walk answers. -/
def walkedB (x : Except Nat (Leaf × State)) : Bool := x.toOption.isSome

theorem walkedB_iff {x : Except Nat (Leaf × State)} (h : walkedB x = true) : ∃ l u, x = .ok (l, u) := by
  cases x with
  | error c => cases h
  | ok p => exact ⟨p.1, p.2, rfl⟩

/-- A walk fails with a cause. -/
def walkStopsB (x : Except Nat (Leaf × State)) (c : Nat) : Bool :=
  match x with
  | .error d => d == c
  | .ok _ => false

theorem walkStopsB_iff {x : Except Nat (Leaf × State)} {c : Nat} : walkStopsB x c = true → x = .error c := by
  cases x <;> simp [walkStopsB]

/-- A hart in S mode under Sv39: the page at 0x1000 has its frame at 0x500000. -/
def sv39 (acc : Word) : State :=
  let m := cellsOf [(0x100000, 0x200 <<< 10 ||| 1), (0x200000, 0x300 <<< 10 ||| 1), (0x300008, 0x500 <<< 10 ||| acc)]
  { helmRig { mode := .s, csrs := { satp := 0x8000000000000100 } } with mem := m }

theorem witness_EngineViews_plain : (bc [] []).plainView = true ∧ pounding.viaPound = true ∧
    (∃ l u, walked pounding (pounding.hart.val / 8) 2 0 0 = .ok (l, u)) ∧ walked { pounding with mem := [] } (pounding.hart.val / 8) 2 0 0 = .error 6 :=
  ⟨by decide +kernel, rfl, walkedB_iff (by decide +kernel), walkStopsB_iff (by decide +kernel)⟩

theorem witness_EngineViews_tables : let s := sv39 0xC7
    let g := keyGen s s.myHart.hkey.toNat
    let pte (t i : Nat) (p : Word) : Prop := let k := t + 8 * ((0x1000 : Word).toNat / 2 ^ i % 512)
      isMain k = true ∧ SMap.find s.helmCache (k / 64) = none ∧ homeLine s g (k / 64) = s ∧ poisoned s k 8 = false ∧ k % 8 = 0 ∧
        p = BitVec.ofNat 64 (bytesNat (physRead s g k 8))
    let inner (p : Word) (t : Nat) : Prop := (fld p 0 8 : Byte) &&& 0xDF = 1 ∧ (fld p 54 10 : BitVec 10) = 0 ∧ t = (fld p 10 44 : BitVec 44).toNat * 4096
    s.viaPound = false ∧ s.myHart.virt = false ∧ s.myHart.mode = .s ∧ (fld s.myHart.csrs.satp 60 4 : BitVec 4) = 8 ∧
    0x100000 = (fld s.myHart.csrs.satp 0 44 : BitVec 44).toNat * 4096 ∧ sext64 39 (0x1000 : Word) = 0x1000 ∧ sext64 39 ((2 : Word) ^ 50) ≠ 2 ^ 50 ∧
    pte 0x100000 30 (0x200 <<< 10 ||| 1) ∧ inner (0x200 <<< 10 ||| 1) 0x200000 ∧ pte 0x200000 21 (0x300 <<< 10 ||| 1) ∧
    inner (0x300 <<< 10 ||| 1) 0x300000 ∧ pte 0x300000 12 (0x500 <<< 10 ||| 0xC7) ∧
    (let p : Word := 0x500 <<< 10 ||| 0xC7
     (fld p 54 10 : BitVec 10) = 0 ∧ bit p 0 = true ∧ bit p 6 = true ∧ bit p 4 = false ∧ bit p 1 = true ∧ bit p 2 = true ∧ bit p 7 = true) := by
  decide +kernel

/-- Where a piece of an access lies. -/
def placeB (x : Except SwqStop (Nat × Nat × Bool × State)) (pa g : Nat) (u : State) : Bool :=
  match x with
  | .ok (a, h, c, t) => a == pa && (h == g && (c && decide (t = u)))
  | .error _ => false

theorem placeB_iff {x : Except SwqStop (Nat × Nat × Bool × State)} {pa g : Nat} {u : State} : placeB x pa g u = true → x = .ok (pa, g, true, u) := by
  intro h
  unfold placeB at h
  split at h
  · simp only [Bool.and_eq_true, beq_iff_eq, decide_eq_true_eq] at h
    rw [h.1, h.2.1, h.2.2.1, h.2.2.2]
  · cases h

theorem witness_EngineViews_reads : let s := bc heapSlots []
    let t := { s with poison := [0x28000 / 64] }
    swqPlace s .load 0x28000 = .ok (0x28000, 0, true, s) ∧ swqAddr 0x28000 = true ∧ swqAddr (0x28000 + 16 - 1) = true ∧
    syncLines s 0 0x28000 16 = s ∧ meetsPoison s true 0x28000 16 = false ∧ swqPlace t .load 0x28000 = .ok (0x28000, 0, true, t) ∧
    syncLines t 0 0x28000 16 = t ∧ meetsPoison t true 0x28000 16 = true ∧
    swqPlace s .load 0x78000000000 = .ok (0x78000000000, 0, true, s) ∧ swqAddr 0x78000000000 = false ∧ (0x28000 : Word).toNat % 4096 + 16 ≤ 4096 := by
  intro s t
  refine ⟨placeB_iff ?_, ?_, ?_, syncLines_nil ?_ _ _ _, ?_, placeB_iff ?_, syncLines_nil ?_ _ _ _, ?_, placeB_iff ?_, ?_, ?_⟩ <;> decide +kernel

/-- A hart with the timer interrupt enabled and its time reached. -/
def timed (q : Sweiq) : State :=
  let s := helmRig { mode := .m, mstatus := 8, csrs := { mie := 0x80, menvcfg := 0x8000000000000000 }, swq := q }
  { s with wharf := { s.wharf with mtimecmp := [(0, 0)] } }

theorem witness_HelmInterrupts :
    (let x := (timed {}).getHart 0
     bit x.csrs.menvcfg 63 = true ∧ x.mode = .m ∧ bit x.mstatus 3 = true ∧ bit x.csrs.mie 7 = true ∧ x.csrs.mie &&& 0x808 = 0 ∧
       (SMap.getD (timed {}).wharf.mtimecmp 0 (BitVec.allOnes 64)).toNat ≤ (timed {}).mtime ∧ pendingInterrupt (timed {}) 0 = some 7 ∧
       x.running = true ∧ x.csrs.mideleg.toNat.testBit 7 = false ∧ x.swq.running = false) ∧
    pendingInterrupt (timed { running := true }) 0 = some 7 ∧ ((timed { running := true }).getHart 0).swq.running = true ∧
    ((timed { running := true }).getHart 0).running = true ∧
    (let s := helmRig { mode := .u, csrs := { mie := 0x20, mideleg := 0x1464, stimecmp := 0, menvcfg := 0x8000000000000000 } }
     let x := s.getHart 0
     pendingInterrupt s 0 = some 5 ∧ x.running = true ∧ x.swq.running = false ∧ x.csrs.mideleg.toNat.testBit 5 = true) := by decide +kernel

/-- A hart's fetch gives a word. -/
def fetchRuns (w : W32) : HelmFetch → Bool
  | .word v _ => decide (v = w)
  | _ => false

theorem fetchRuns_iff {w : W32} {x : HelmFetch} (h : fetchRuns w x = true) : ∃ t, x = .word w t := by
  unfold fetchRuns at h
  split at h
  · rw [of_decide_eq_true h]
    exact ⟨_, rfl⟩
  · cases h

theorem witness_HelmRegisters :
    (let w : W32 := 0x8C131573
     w = (0x8C1 : BitVec 12) ++ (6 : BitVec 5) ++ (1 : BitVec 3) ++ (10 : BitVec 5) ++ (0x73 : BitVec 7) ∧ (fld w 0 7 : BitVec 7) = 0x73 ∧
       ∃ t, helmFetch (placeHelm { State.reset with agenda := [] } (natBytes 4 0x8C131573)) 0 = .word w t) ∧
    (helmRig { mode := .u }).myHart.mode = .u ∧ (helmRig { mode := .s }).myHart.mode ≠ .u ∧
    bit (helmRig { mode := .u, csrs := { medeleg := 4 } }).myHart.csrs.medeleg 2 = true ∧ bit (helmRig { mode := .u }).myHart.csrs.medeleg 2 = false := by
  exact ⟨⟨by decide +kernel, by decide +kernel, fetchRuns_iff (by decide +kernel)⟩, by decide +kernel⟩

-- Witnesses: the outside world -------------------------------------------------------------------------------------------------------------

/-- One record in the pound of hart 0, in the object spaces of the tables. -/
def poundRig (r : Record) (x : Hart) : State :=
  { pounding with
    viaPound := false
    clk := 9
    harts := [(0, { x with pound := { entries := [{ r := r, at' := 0 }] } })]
    wharf := { pounding.wharf with sources := [(0, 0x80000007)] } }

/-- Records to hart 0's pound. -/
def toHart (kind op : Nat) (key : Word) (pay : List Word) : Record := mkRec 0x08000 kind op 5 key pay

/-- The places of an update translate, and something holds of them. -/
def placesB (x : Option (List (Leaf × Nat)) × State) (p : List (Leaf × Nat) → State → Bool) : Bool :=
  match x.1 with
  | some ps => p ps x.2
  | none => false

theorem placesB_iff {x : Option (List (Leaf × Nat)) × State} {p : List (Leaf × Nat) → State → Bool} (h : placesB x p = true) :
    ∃ ps u, x = (some ps, u) ∧ p ps u = true := by
  obtain ⟨o, u⟩ := x
  cases o with
  | none => cases h
  | some ps => exact ⟨ps, u, rfl, h⟩

/-- A place lies in a page of tier 2 whose home-side cache is being flushed. -/
def placeBusy (ps : List (Leaf × Nat)) (u : State) : Bool := ps.any fun p => tierOf p.1.leaf == 2 && (u.die (dieOfKey p.2)).busy

/-- What the reclaim of the moored object of a hold release answers at places. -/
def reclaims (r : Record) (ps : List (Leaf × Nat)) (u : State) : Option State :=
  let u1 := touchPlaces (syncPlaces u ps) ps []
  (writePlaces { u1 with fresh := u1.fresh + r.pay.length } ps
    (updateWords r.op (fun j => Config.freeWord (u1.fresh + j)) (readPlaces u1 ps) r.pay)).forPound 0 (reclaimMoored (r.key - 8))

/-- The state in which a chosen record has left the pound. -/
def dispatched (s : State) : State := s.setHart 0 { s.getHart 0 with pound := (s.getHart 0).pound.dispatch 0 s.clk kU }

/-- The tables with page 1 of tier 2, whose home-side cache is being flushed, and at DVA 0 a moored storage object whose next one lies there. -/
def flushing (r : Record) : State :=
  let s := poundRig r {}
  let m := Memory.write s.mem 0x400000 (natBytes 8 (0x50 * 2 ^ 22 + 0x1F) ++ natBytes 8 (0x51 * 2 ^ 22 + 0x21F))
  let m := Memory.write m 0x500000 (natBytes 8 0x0001000800000000)
  { s with mem := Memory.write m 0x500028 (natBytes 8 0x10000), dies := [(0, { s.die 0 with busy := true })] }

/-- The places of the record that hart 0's pound chose. -/
def placesOf (s : State) (r : Record) : Option (List (Leaf × Nat)) × State :=
  updatePlaces (dispatched s) 0 (fld r.key 0 52 : BitVec 52).toNat r.pay.length

theorem witness_HelmPounds_updates :
    (let r := toHart kU 1 16 [1]
     helmChosen (poundRig r {}) 0 = some (0, r) ∧ r.kind = kU ∧ isHoldRelease r = false ∧
       (∃ ps u, placesOf (poundRig r {}) r = (some ps, u) ∧ (!placeBusy ps u) = true) ∧
       (let r := toHart kU 1 0x10010 [1]
       helmChosen (flushing r) 0 = some (0, r) ∧ ∃ ps u, placesOf (flushing r) r = (some ps, u) ∧ placeBusy ps u = true)) ∧
    (let r := toHart kU 1 8 [1]
     helmChosen (poundRig r {}) 0 = some (0, r) ∧ isHoldRelease r = true ∧
       ∃ ps u, placesOf (poundRig r {}) r = (some ps, u) ∧ (!placeBusy ps u && (reclaims r ps u).isSome) = true) ∧
    (let r := toHart kU 1 8 [0]
     helmChosen (flushing r) 0 = some (0, r) ∧ isHoldRelease r = true ∧
       ∃ ps u, placesOf (flushing r) r = (some ps, u) ∧ (!placeBusy ps u && (reclaims r ps u).isNone) = true) ∧
    (placesOf { poundRig (toHart kU 1 16 [1]) {} with mem := [] } (toHart kU 1 16 [1])).1 = none := by
  refine ⟨⟨?_, ?_, ?_, placesB_iff (p := fun ps u => !placeBusy ps u) ?_, ?_, placesB_iff ?_⟩,
    ⟨?_, ?_, placesB_iff (p := fun ps u => !placeBusy ps u && (reclaims _ ps u).isSome) ?_⟩,
    ⟨?_, ?_, placesB_iff (p := fun ps u => !placeBusy ps u && (reclaims _ ps u).isNone) ?_⟩, ?_⟩ <;> decide +kernel

theorem witness_HelmPounds_entries :
    (let r := toHart kC 1 16 [1]
     let s := poundRig r { arm := true }
     helmChosen s 0 = some (0, r) ∧ r.kind ≠ kU ∧ isCall r = false ∧ Machine.Inv s ∧ s.helmCache = [] ∧ (s.getHart 0).arm = true ∧
       bit (SMap.getD s.wharf.sources 0 0) 31 = true ∧ (fld (SMap.getD s.wharf.sources 0 0) 0 8 : Byte) ≠ 0 ∧
       (∃ f ∈ (s.getHart 0).pound.entries.take 1, f.r.kind ≠ kU)) ∧
    (let r := { toHart kM 0 16 [1, 2, 3, 4, 5, 6, 7, 8] with call := true }
     helmChosen (poundRig r {}) 0 = some (0, r) ∧ r.kind ≠ kU ∧ isCall r = true ∧ ((poundRig r {}).launch r.tag).state ≠ 3) ∧
    (let s := helmRig { head := 1 }
     (s.getHart 0).head ≠ (s.getHart 0).tail ∧ (s.getHart 1).head = (s.getHart 1).tail) := by
  unfold Machine.Inv; refine ⟨⟨?_, ?_, ?_, ?_, ?_, ?_, ?_, ?_, ?_⟩, ?_, ?_⟩ <;> decide +kernel

/-- A command block of a helm hart. -/
def block (w0 w1 w3 : Word) : PortBlock := { w0 := w0, w1 := w1, w2 := 0, w3 := w3, w4 := 0, w5 := 0, w6 := 0, w7 := 0, rest := [] }

/-- The tables with n commands on the copy engine of cluster 0. -/
def submitting (n : Nat) : State := { tables with clusters := [(0, { copy := { cmds := List.replicate n cmd0 } })] }

theorem witness_HelmPorts_blocks :
    (let w := portWords (block 0 0 64)
     portMalformed w = false ∧ noRoot tables 0 0 = false ∧ portOutside w = false ∧ ((submitting 0).engine (.copy 0)).room = true ∧
       ((submitting 64).engine (.copy 0)).room = false ∧ noRoot (submitting 64) 0 0 = false ∧ portOpcode w ≠ 1) ∧
    portMalformed (portWords (block 0x0001000000000000 0 64)) = true ∧ noRoot (helmRig {}) 0 0 = true ∧
    (let w := portWords (block 0 0xFFFFFFFFFFFFF 64)
     portMalformed w = false ∧ portOutside w = true) ∧
    (let w := portWords (block 0x0100000000000000 0 64)
     portMalformed w = false ∧ portOutside w = false ∧ portOpcode w = 1) := by decide +kernel

/-- Hart 0 runs, with a pool on die 0. -/
def poolRig (l : List Nat) (on : Bool) : State :=
  { helmRig {} with dies := [(0, { pools := [(3, { base := 0x1000, count := 16, size := 64, enabled := on, held := l })] })] }

theorem witness_HelmPorts_pools :
    (let s := poolRig [0x1040, 0x1000] true
     s.lock.ready = true ∧ (s.getHart 0).swq.running = false ∧ (getPool s 0 3).enabled = true ∧ (getPool s 0 3).held = [0x1040] ++ [0x1000] ∧
       (getPool s 0 3).held.length < 16 ∧ blockOf (getPool s 0 3) (0x1080 : Word).toNat = true ∧ blockOf (getPool s 0 3) (0x1081 : Word).toNat = false) ∧
    (getPool (poolRig [] true) 0 3).held = [] ∧ (getPool (poolRig [] true) 0 3).head = 0 ∧ (getPool (poolRig [] false) 0 3).enabled = false := by
  decide +kernel

theorem witness_HelmAccesses :
    (let s := helmRig {}
     let p := { s with poison := [0x100] }
     let l : HelmLine := { bytes := 1, dirty := true, gen := 0 }
     s.lock.ready = true ∧ (s.getHart 0).swq.running = false ∧ placeOf 0x4000 (helmBytes .s32) = .main ∧ Pbmt.nc ≠ .pma ∧
       placeOf basinBase (helmBytes .s64) = .basin ∧ poisoned s 0x4000 4 = false ∧ poisoned s basinBase 8 = false ∧ 4 ≤ helmBytes .s32 ∧
       0x4000 % helmBytes .s32 = 0 ∧ SMap.find s.helmCache (0x4000 / 64) = none ∧ poisoned p 0x4000 4 = true ∧ SMap.find p.helmCache (0x4000 / 64) = none ∧
       0x4000 / 64 = (0x4000 + helmBytes .s32 - 1) / 64 ∧ placeOf 0x7F000000000 8 = .nowhere ∧
       placeOf 0x7C201000000 8 = .timer ∧ placeOf 0x7C201000004 8 = .timer ∧ 0x7C201000004 % 8 ≠ 0 ∧ placeOf 0x7C200000000 8 = .aplic ∧
       placeOf 0x7C000040000 4 = .register ∧ helmBytes .s32 ≠ 8 ∧ placeOf 0x7C000040000 8 = .register ∧ helmBytes .s64 = 8 ∧
       regBlock 0x7C000040000 = 4 ∧ regOff 0x7C000040000 ≠ 0x20 ∧
       SMap.find ({ s with helmCache := [(0x100, l)] }).helmCache (0x4000 / 64) = some l ∧ placeOf 0x4000 1 = .main ∧ l.dirty = true ∧
       ({ l with dirty := false } : HelmLine).dirty = false) := by decide +kernel

theorem witness_DeviceRegisters : let s := helmRig {}
    s.lock.ready = true ∧ (s.getHart 0).swq.running = false ∧ Machine.Inv s ∧ ((helmRig { mode := .u }).getHart 0).mode = .u ∧
      isRegister (0x4000 : BitVec 56).toNat = false := by
  intro s
  unfold Machine.Inv; refine ⟨?_, ?_, ?_, ?_, ?_⟩ <;> decide +kernel

/-- A record on its way to device 3 by port 1, which is down if asked. -/
def sending (down : Bool) : State :=
  let s := helmRig {}
  { s with wharf := { s.wharf with
      routing := 0x5000
      routingNew := [(3, 6)]
      unacked := [(3, mkRec 0x30000 kT 0 5 0 [1])]
      linksDown := if down then [1] else [] } }

theorem witness_RoutesAndLinks :
    (let s := sending false
     sentTo s 3 = true ∧ sentTo s 4 = false ∧ s.wharf.device.toNat ≠ 3 ∧ s.wharf.device.toNat ≠ 4 ∧ s.wharf.device.toNat = 0 ∧ routeDown s 3 = false ∧
       SMap.find s.wharf.routingNew 3 = some 6 ∧ bit (6 : BitVec 4) 2 = true ∧ SMap.find s.wharf.routingNew 4 = none ∧
       s.wharf.unacked = (3, mkRec 0x30000 kT 0 5 0 [1]) :: [] ∧ (mkRec 0x30000 kT 0 5 0 [1]).tag = 5 ∧ (∀ p ∈ s.wharf.unacked, p.2.tag ≠ 6) ∧
       s.wharf.linksDown.contains 1 = false ∧ SMap.getD s.wharf.replays 1 0 ≠ 15) ∧
    (let s := sending true
     sentTo s 3 = true ∧ routeDown s 3 = true ∧ s.wharf.linksDown.contains 1 = true ∧ route s 3 = some 1) ∧
    (let s := { sending false with wharf := { (sending false).wharf with replays := [(1, 15), (4, 15)] } }
     SMap.getD s.wharf.replays 1 0 = 15 ∧ SMap.getD s.wharf.replays 4 0 = 15 ∧ s.wharf.linksDown.contains 4 = false) := by decide +kernel

theorem witness_OutsideWrites :
    (let s := helmRig {}
     let c : SMap HelmLine := [(0x100, { bytes := 1, dirty := true, gen := 0 })]
     dmaReaches 0x4000 1 = true ∧ isMain 0x4000 = true ∧ isMain (0x4000 + [(1 : Byte), 2].length - 1) = true ∧ Machine.Inv s ∧
       s.helmCache.Pairwise (fun p q => p.1 < q.1) ∧ List.Pairwise (fun p q : Nat × HelmLine => p.1 < q.1) c ∧
       isBasin basinBase = true ∧ isBasin (basinBase + [(1 : Byte), 2].length - 1) = true ∧ dmaReaches 0x78000000000 1 = false ∧
       ¬ (isImsic 0x78000000000 = true ∧ true = true ∧ [(1 : Byte)].length = 4) ∧
       dmaReaches 0x7A000000000 1 = false ∧ isPeer 0x7A000000000 = true ∧ isPeer 0x78000000000 = false ∧
       [(7 : Byte), 0, 0, 0].length = 4 ∧ isImsic 0x7C100001000 = true ∧ 0x7C100001000 % 4096 = 0 ∧ 1 ≤ bytesNat [(7 : Byte), 0, 0, 0] ∧
       bytesNat [(7 : Byte), 0, 0, 0] ≤ 255 ∧ 0x7C100001000 % 0x10000 / 4096 = 1) ∧
    (let s := helmRig {}
     let t := { s with wharf := { s.wharf with sources := [(67, 0x80000007)] } }
     bit (SMap.getD s.wharf.sources 67 0) 31 = false ∧ bit (SMap.getD t.wharf.sources 67 0) 31 = true ∧
       (fld (SMap.getD t.wharf.sources 67 0) 0 8 : Byte) ≠ 0) := by
  unfold Machine.Inv; refine ⟨⟨?_, ?_, ?_, ?_, ?_, ?_, ?_, ?_, ?_, ?_, ?_, ?_, ?_, ?_, ?_, ?_, ?_, ?_, ?_⟩, ?_⟩ <;> decide +kernel

/-- The APLIC with the source of line 0 of port 0 in a mode, its target word naming identity 9 of hart 3, on and enabled if asked. -/
def lined (m : W32) (on : Bool) : State :=
  let s := helmRig {}
  let i := (Config.intxSource 0 0).val + 1
  { s with wharf := { s.wharf with aplicConfig := [(i, m)], aplicTarget := [(i, 0x000C0009)], aplicOn := on, aplicEnabled := if on then [i] else [] } }

theorem lined_mode (m : W32) (on : Bool) : SMap.getD (lined m on).wharf.aplicConfig ((Config.intxSource 0 0).val + 1) 0 = m ∧
    SMap.getD (lined m on).wharf.aplicTarget ((Config.intxSource 0 0).val + 1) 0 = 0x000C0009 := by
  simp [lined, SMap.getD, SMap.find]

theorem witness_OutsideWrites_lines :
    (∀ m ∈ [4, 5, 6, 7], ∀ on, (fld (SMap.getD (lined (BitVec.ofNat 32 m) on).wharf.aplicConfig ((Config.intxSource 0 0).val + 1) 0) 0 3 : BitVec 3).toNat = m) ∧
    (fld (SMap.getD (lined 1 true).wharf.aplicConfig ((Config.intxSource 0 0).val + 1) 0) 0 3 : BitVec 3).toNat < 4 ∧
    ((lined 4 true).wharf.aplicOn = true ∧ (Config.intxSource 0 0).val + 1 ∈ (lined 4 true).wharf.aplicEnabled) ∧
    (lined 4 false).wharf.aplicOn = false ∧
    (fld (SMap.getD (lined 4 true).wharf.aplicTarget ((Config.intxSource 0 0).val + 1) 0) 0 11 : BitVec 11).toNat = 9 := by
  refine ⟨fun m hm on => ?_, ?_, ⟨rfl, ?_⟩, rfl, ?_⟩
  · rw [(lined_mode _ _).1]
    revert hm m
    decide
  · rw [(lined_mode _ _).1]
    decide
  · simp [lined]
  · rw [(lined_mode _ _).2]
    decide

-- Witnesses: the lockhouse -----------------------------------------------------------------------------------------------------------------

/-- The state after an instruction. -/
def after (i : Instr) (s : State) : State :=
  match exec i s with
  | .next t => t
  | _ => s

/-- The lockhouse ready with memory on every stack, the journal at 1 MiB. -/
def lockRig : State := let s := helmRig {}
  { s with
    lock := { s.lock with hbm := BitVec.allOnes 24, pagesPerStack := 0x180000 }
    wharf := { s.wharf with jBase := 0x100000 } }

/-- No byte below an address is listed, and every line reads under key 0. -/
def lowFree (s : State) (b : Nat) : Bool :=
  s.lineGen.isEmpty && (keyGen s 0 == 0 && match s.mem with
    | [] => true
    | c :: _ => decide (b ≤ c.1))

theorem physRead_low {s : State} {b : Nat} (h : lowFree s b = true) {n a : Nat} (ha : a + n ≤ b) : physRead s 0 a n = List.replicate n 0 := by
  induction n generalizing a with
  | zero => rfl
  | succ n ih =>
    rw [physRead, ih (by omega), List.replicate_succ]
    simp only [lowFree, Bool.and_eq_true, List.isEmpty_iff, beq_iff_eq] at h
    have e : Memory.get s.mem a = 0 := by
      cases hm : s.mem with
      | nil => rfl
      | cons c l =>
        rw [hm] at h
        have hb : b ≤ c.1 := of_decide_eq_true h.2.2
        rw [Memory.get, if_pos (by omega)]
        rfl
    have g : lineGenOf s (a / 64) = 0 := by rw [lineGenOf, h.1]; rfl
    simp [physByte, g, e]

theorem evens {s : State} (h : lowFree s 0x100000 = true) (hb : s.wharf.jBase = 0x100000) :
    ∀ j, j < 4096 → bit (physWord s (bindingAt s j)) 0 = false := by
  intro j hj
  have hk : keyGen s 0 = 0 := by
    simp only [lowFree, Bool.and_eq_true, beq_iff_eq] at h
    exact h.2.1
  have ha : bindingAt s j + 8 ≤ 0x100000 := by
    rw [bindingAt, hb]
    change 0x100000 - 65536 + 16 * j + 8 ≤ _
    omega
  rw [physWord, hk, physRead_low h ha]
  rfl

theorem witness_LockhouseCommands :
    (let s := lockRig
     s.lock.ready = true ∧ s.lock.busy = false ∧ (s.getHart 0).mode ≠ .u ∧ ((helmRig { mode := .u }).getHart 0).mode = .u ∧
       (1 ≤ (7 : Word).toNat ∧ (7 : Word).toNat ≤ 4095) ∧ ¬ (1 ≤ (0 : Word).toNat) ∧ ¬ (4096 : Word).toNat ≤ 4095 ∧
       (600 ≤ (600 : Word).toNat ∧ (2400 : Word).toNat ≤ 2400 ∧ 1200 ≤ (1200 : Word).toNat ∧ (5000 : Word).toNat ≤ 5000) ∧
       ¬ 600 ≤ (599 : Word).toNat ∧ bufferOk s 0x200000 = true ∧ bufferOk s 0xFFFFFFFFFFFFF = false ∧
       (fld (5 : Word) 12 4 : BitVec 4) = s.wharf.device ∧ present s (fld (5 : Word) 0 12 : BitVec 12).toNat = true ∧
       (fld (0x1005 : Word) 12 4 : BitVec 4) ≠ s.wharf.device ∧ present s (fld (0xFFF : Word) 0 12 : BitVec 12).toNat = false ∧
       s.helmCache = [] ∧ Machine.Inv s) ∧
    (let s := after (.generateKey 0 7 9) lockRig
     s.lock.busy = true ∧ s.lock.owner = 0 ∧ s.lock.command = 1 ∧ s.lock.jobArgs.take 2 = [7, 9] ∧ s.lock.jobStage = 1 ∧ s.lock.owner ≠ 1 ∧
       (after (.generateKey 0 7 9) s).lock.jobStage = 2 ∧ (after (.generateKey 0 7 9) s).lock.busy = true ∧ Machine.Inv s) ∧
    (let s := after (.eraseKey 0 7) lockRig
     s.lock.busy = true ∧ s.lock.command = 2 ∧ s.lock.jobArgs.take 1 = [7] ∧ s.lock.jobStage = 1 ∧ (after (.eraseKey 0 7) s).lock.jobStage = 2) ∧
    (let s := after (.setGovernor 0 600 1200) lockRig
     s.lock.busy = true ∧ s.lock.command = 4 ∧ s.lock.jobArgs.take 2 = [600, 1200] ∧ s.lock.jobStage = 1 ∧
       (after (.setGovernor 0 600 1200) s).lock.jobStage = 2 ∧ 65536 ≤ s.wharf.jBase.toNat) := by
  unfold Machine.Inv
  refine ⟨⟨?_, ?_, ?_, ?_, ?_, ?_, ?_, ?_, ?_, ?_, ?_, ?_, ?_, ?_, ?_, ?_, ?_⟩, ⟨?_, ?_, ?_, ?_, ?_, ?_, ?_, ?_, ?_⟩, ⟨?_, ?_, ?_, ?_, ?_⟩, ?_, ?_, ?_, ?_, ?_, ?_⟩ <;>
    decide +kernel

theorem witness_LockhouseCommands_restart :
    (bit lockRig.lock.sequence 0 = false ∧ ∀ j, j < 4096 → bit (physWord lockRig (bindingAt lockRig j)) 0 = false) ∧
    (let s := after (.setGovernor 0 600 1200) lockRig
     Machine.Inv s ∧ 65536 ≤ s.wharf.jBase.toNat ∧ bit s.lock.sequence 0 = true ∧ (∀ j, j < 4096 → bit (physWord s (bindingAt s j)) 0 = false) ∧
       newestOpen s (fun c _ => c == 4) (2 ^ 20) s.wharf.jHead.toNat = some 0 ∧ entryWord s 0 5 = 600 ∧ entryWord s 0 6 = 1200) := by
  unfold Machine.Inv
  refine ⟨⟨?_, evens ?_ ?_⟩, ?_, ?_, ?_, evens ?_ ?_, ?_, ?_, ?_⟩ <;> decide +kernel

theorem witness_Governor : let s := lockRig
    s.lock.current.toNat < (5001 : Half).toNat ∧ s.lock.power.toNat < (2401 : Half).toNat ∧ ¬ s.lock.current.toNat < (5000 : Half).toNat ∧
    (([20, 21, 22, 23, 104] : List Byte).map BitVec.toNat).foldr max 0 < 105 ∧ 105 ≤ (([105] : List Byte).map BitVec.toNat).foldr max 0 ∧
    115 ≤ (([115] : List Byte).map BitVec.toNat).foldr max 0 ∧ s.mtime < s.lock.calmSince + 100000 ∧
    s.lock.calmSince + 100000 ≤ ({ s with mtime := 100000 }).mtime := by decide +kernel

theorem witness_PowerUp :
    lockRig.lock.ready = true ∧ State.reset.lock.ready = false ∧ State.reset.lock.error = 0 ∧
    fullPart.imagesOk = true ∧ fullPart.calibrationOk = true ∧ fullPart.linksOk = true ∧ fullPart.hbm ≠ 0 ∧ ({ fullPart with imagesOk := false }).imagesOk = false ∧
    ({ fullPart with calibrationOk := false }).calibrationOk = false ∧ ({ fullPart with linksOk := false }).linksOk = false ∧
    ({ fullPart with hbm := 0 }).hbm = 0 := by decide +kernel

/-- A step goes on. -/
def goesOn (x : Host.Outcome State Fault Refusal) : Bool :=
  match x with
  | .next _ => true
  | _ => false

theorem goesOn_iff {x : Host.Outcome State Fault Refusal} (h : goesOn x = true) : ∃ t, x = .next t := by
  unfold goesOn at h
  split at h
  · exact ⟨_, rfl⟩
  · cases h

theorem witness_StepInvariant : let s := placeCore { State.reset with agenda := [] } (natBytes 4 0x0402CCD4)
    Machine.Inv s ∧ ∃ t, step s = .next t := by
  intro s
  exact ⟨by unfold Machine.Inv; decide +kernel, goesOn_iff (by decide +kernel)⟩

-- Words by hand, from the encoding tables of 04 to 10 -------------------------------------------------------------------------------------------

theorem test_decode_scalar0 : ([(0x0402C916, .add (.w 3) (.w 1) (.g 5) .x16),
    (0x0412C916, .sub (.w 3) (.w 1) (.g 5) .x16),
    (0x0422C916, .minI (.w 3) (.w 1) (.g 5) .x16),
    (0x0432C916, .maxI (.w 3) (.w 1) (.g 5) .x16),
    (0x0442C916, .minN (.w 3) (.w 1) (.g 5) .x16),
    (0x0452C916, .maxN (.w 3) (.w 1) (.g 5) .x16),
    (0x0802C916, .and (.w 3) (.w 1) (.g 5) .x16),
    (0x0812C916, .or (.w 3) (.w 1) (.g 5) .x16),
    (0x0822C916, .xor (.w 3) (.w 1) (.g 5) .x16),
    (0x0832C916, .andn (.w 3) (.w 1) (.g 5) .x16),
    (0x0882C916, .shl (.w 3) (.w 1) (.g 5) .x16),
    (0x0892C916, .shrN (.w 3) (.w 1) (.g 5) .x16)] : List (W32 × Instr)).all
    (fun p => (decode32 p.1 0 0).toOption == some p.2) = true := by decide

theorem test_decode_scalar1 : ([(0x08A2C916, .shrI (.w 3) (.w 1) (.g 5) .x16),
    (0x08B2C916, .rot (.w 3) (.w 1) (.g 5) .x16),
    (0x0C82C916, .sel (.w 3) (.w 1) (.g 5) .x16),
    (0x1002C916, .mul (.w 3) (.w 1) (.g 5) .x16),
    (0x1012C916, .mulhI (.w 3) (.w 1) (.g 5) .x16),
    (0x1022C916, .mulhN (.w 3) (.w 1) (.g 5) .x16),
    (0x1042C916, .divI (.w 3) (.w 1) (.g 5) .x16),
    (0x1052C916, .divN (.w 3) (.w 1) (.g 5) .x16),
    (0x1062C916, .remI (.w 3) (.w 1) (.g 5) .x16),
    (0x1072C916, .remN (.w 3) (.w 1) (.g 5) .x16),
    (0x1442C916, .extI (.w 3) (.w 1) (.g 5) .x16),
    (0x1452C916, .extN (.w 3) (.w 1) (.g 5) .x16)] : List (W32 × Instr)).all
    (fun p => (decode32 p.1 0 0).toOption == some p.2) = true := by decide

theorem test_decode_scalar2 : ([(0x1462C916, .ins (.w 3) (.w 1) (.g 5) .x16),
    (0x1402C903, .clz (.w 3) (.w 1) .x8),
    (0x1412C903, .ctz (.w 3) (.w 1) .x8),
    (0x1422C903, .popc (.w 3) (.w 1) .x8),
    (0x1C02C903, .mov (.w 3) (.w 1) .x8),
    (0x0C42C915, .cmp .ltN (.w 3) (.w 1) (.g 5) .x32),
    (0x1832C914, .lea 3 (.w 3) (.w 1) (.g 5) .x64),
    (0x1C12CA00, .rds (.w 3) .qst),
    (0x1C248900, .wrs .ksl (.w 1))] : List (W32 × Instr)).all
    (fun p => (decode32 p.1 0 0).toOption == some p.2) = true := by decide

theorem test_decode_control0 : ([(0x23FFFFFD, .b 0x3FFFFFD),
    (0x24001234, .call 0x1234),
    (0x28C917FD, .br .geI (.w 1) (.g 5) 0x3FD),
    (0x2C090005, .bz (.w 1) 5),
    (0x2C490005, .bnz (.w 1) 5),
    (0x30000900, .jmp (.w 1)),
    (0x30100900, .callr (.w 1)),
    (0x34200900, .wait (.w 1)),
    (0x34300900, .alarm (.w 1)),
    (0x30200000, .ret),
    (0x34000000, .endT),
    (0x34100000, .yield)] : List (W32 × Instr)).all
    (fun p => (decode32 p.1 0 0).toOption == some p.2) = true := by decide

theorem test_decode_memory0 : ([(0x42B4B247, .ld .s32 true true 5 (.w 3) (.w 1) 7),
    (0x45145247, .st .s16 false 5 (.g 5) (.w 1) 7),
    (0x4BB4B247, .vld .s64 2 true 5 11 (.w 1) 7),
    (0x4FB4B247, .vst .s64 2 true 5 11 (.w 1) 7),
    (0x53D4B247, .amo .cas true 5 (.w 3) (.w 1) 7),
    (0x5494B242, .bop .addBf16 5 11 (.w 1) 2),
    (0x58000000, .fenceRx),
    (0x59000000, .fenceSc .dev),
    (0x5C145243, .sgnarrow 5 (.g 5) (.w 1) 3),
    (0x5C54B001, .sgrd 5 (.w 3) true)] : List (W32 × Instr)).all
    (fun p => (decode32 p.1 0 0).toOption == some p.2) = true := by decide

theorem test_decode_vector0 : ([(0x6013E908, .vadd .bf16 3 14 9 2),
    (0x6053E908, .vsub .bf16 3 14 9 2),
    (0x6093E908, .vmul .bf16 3 14 9 2),
    (0x6153E908, .vmax .bf16 3 14 9 2),
    (0x6193E908, .vmin .bf16 3 14 9 2),
    (0x6413E908, .vdiv .bf16 3 14 9 2),
    (0x60E3E968, .vfma .f16 3 14 9 6 2),
    (0x6123E968, .vfms .f16 3 14 9 6 2),
    (0x61D3E008, .vabs .bf16 3 14 2),
    (0x6213E008, .vneg .bf16 3 14 2),
    (0x6453E008, .vrcp .bf16 3 14 2),
    (0x6493E008, .vrsq .bf16 3 14 2)] : List (W32 × Instr)).all
    (fun p => (decode32 p.1 0 0).toOption == some p.2) = true := by decide

theorem test_decode_vector1 : ([(0x64D3E008, .vexp2 .bf16 3 14 2),
    (0x6513E008, .vlog2 .bf16 3 14 2),
    (0x6833E909, .viadd .i64 3 14 9 2 true),
    (0x6873E909, .visub .i64 3 14 9 2 true),
    (0x6893E908, .vimul .i16 3 14 9 2),
    (0x68D3E908, .vimax .i16 3 14 9 2),
    (0x6913E908, .vimin .i16 3 14 9 2),
    (0x6953E908, .vshl .i16 3 14 9 2),
    (0x6993E908, .vshrN .i16 3 14 9 2),
    (0x69D3E908, .vshrI .i16 3 14 9 2),
    (0x7393E908, .vsel .i16 3 14 9 2),
    (0x6C03E908, .vand 3 14 9 2)] : List (W32 × Instr)).all
    (fun p => (decode32 p.1 0 0).toOption == some p.2) = true := by decide

theorem test_decode_vector2 : ([(0x6C43E908, .vor 3 14 9 2),
    (0x6C83E908, .vxor 3 14 9 2),
    (0x7803E908, .vpermB 3 14 9 2),
    (0x7153E908, .vcmp .ltI .bf16 3 14 9 2),
    (0x7733E20B, .vcvt .e4m3 .f32 3 14 2 2 .rup),
    (0x7813E968, .vshuf 3 14 9 6 2),
    (0x7823024B, .vsplat .s64 3 (.w 1) 2),
    (0x7C50E2C3, .vextr .s64 5 14 (.w 3)),
    (0x7D530245, .vinsr .s16 21 3 (.w 1)),
    (0x8023E008, .vredAdd .i32 3 14 2),
    (0x8063E008, .vredMax .i32 3 14 2),
    (0x80A3E008, .vredMin .i32 3 14 2)] : List (W32 × Instr)).all
    (fun p => (decode32 p.1 0 0).toOption == some p.2) = true := by decide

theorem test_decode_vector3 : ([(0x80C3E968, .vdot4 3 14 9 6 2),
    (0x84030240, .mset 3 (.w 1)),
    (0x84131200, .mand 3 1 2),
    (0x84231200, .mor 3 1 2),
    (0x84331000, .mnot 3 1),
    (0x84431000, .mmov 3 1)] : List (W32 × Instr)).all
    (fun p => (decode32 p.1 0 0).toOption == some p.2) = true := by decide

theorem test_decode_weir0 : ([(0x90018914, .wld 6 (.w 1) (.g 5)),
    (0x961D0914, .wrun 33 (.small 4) (.w 1) (.g 5)),
    (0x96100901, .wrunO 33 (.w 1)),
    (0x96100916, .wrunC 33 (.w 1) (.g 5)),
    (0x9BF2C000, .waccS 63 (.w 3)),
    (0x9BF2C901, .waccU 63 (.w 3) (.w 1)),
    (0x9BF2C902, .waccD 63 (.w 3) (.w 1)),
    (0x9BF2C903, .waccP 63 (.w 3) (.w 1)),
    (0x9C02C900, .wstat (.w 3) (.w 1)),
    (0x9C000001, .wclr)] : List (W32 × Instr)).all
    (fun p => (decode32 p.1 0 0).toOption == some p.2) = true := by decide

theorem test_decode_records0 : ([(0xA0000914, .spawn (.w 1) (.g 5)),
    (0xB0000914, .tow (.w 1) (.g 5)),
    (0xB4000914, .qcfg (.w 1) (.g 5)),
    (0xBC100914, .free (.w 1) (.g 5)),
    (0xC4000914, .sys (.w 1) (.g 5)),
    (0xD4000914, .ctuinv (.w 1) (.g 5)),
    (0xDC100914, .kcfg (.w 1) (.g 5)),
    (0xA5080050, .postCnt (.g 5)),
    (0xA5000050, .postCntSolo (.g 5)),
    (0xA5B02400, .postWake (.w 1)),
    (0xA5802400, .postWakeSolo (.w 1)),
    (0xAC200900, .bar (.w 1))] : List (W32 × Instr)).all
    (fun p => (decode32 p.1 0 0).toOption == some p.2) = true := by decide

theorem test_decode_records1 : ([(0xB4100900, .qeos (.w 1)),
    (0xC4100900, .trap (.w 1)),
    (0xDC000900, .kpost (.w 1)),
    (0xA6DF0050, .postUpd .count 7 (.g 5)),
    (0xA8052450, .msg 5 (.w 1) (.g 5)),
    (0xAC02C900, .join (.w 3) (.w 1)),
    (0xAC12C900, .leave (.w 3) (.w 1)),
    (0xB012C900, .moor (.w 3) (.w 1)),
    (0xBC02C900, .alloc (.w 3) (.w 1)),
    (0xC002C900, .bellh (.w 3) (.w 1)),
    (0xB0200000, .castoff),
    (0xC0100000, .bret)] : List (W32 × Instr)).all
    (fun p => (decode32 p.1 0 0).toOption == some p.2) = true := by decide

theorem test_decode_records2 : ([(0xD8100000, .kfence),
    (0xB80A8900, .push 2 (.w 1)),
    (0xB812EB00, .pop (.w 3) 3),
    (0xB822EB00, .poll (.w 3) 3),
    (0xC422C914, .rdcap (.w 3) (.w 1) (.g 5)),
    (0xC802C000, .kpark (.w 3)),
    (0xC812C000, .kresume (.w 3)),
    (0xC822C000, .kkill (.w 3)),
    (0xCC02C000, .ksave (.w 3)),
    (0xCC12C000, .kload (.w 3)),
    (0xD0018914, .sgset 6 (.w 1) (.g 5)),
    (0xD0038914, .sgsetK 6 (.w 1) (.g 5))] : List (W32 × Instr)).all
    (fun p => (decode32 p.1 0 0).toOption == some p.2) = true := by decide

theorem test_decode_records3 : ([(0xD807C900, .kret 31 (.w 1))] : List (W32 × Instr)).all
    (fun p => (decode32 p.1 0 0).toOption == some p.2) = true := by decide

theorem test_decode_helm : ([(0x0073028B, .swqRun 5 6 7),
    (0x0073528B, .swqHold 5 6 7),
    (0x0073100B, .swqIcw 6 7),
    (0x0003200B, .swqIcinv 6),
    (0x0003328B, .swqGen 5 6),
    (0x0003428B, .swqPost 5 6)] : List (W32 × Instr)).all
    (fun p => (decodeHelm p.1).toOption == some p.2) = true := by decide

theorem test_decode_byte0 : ([([0x00], .swqNop false),
    ([0x28], .swqExit false),
    ([0x01, 0x81, 0x12], .swqMov false 0x81 0x12),
    ([0x11, 0x81, 0x12], .swqNeg false 0x81 0x12),
    ([0x13, 0x81, 0x12], .swqNot false 0x81 0x12),
    ([0x1E, 0x81, 0x12], .swqLen false 0x81 0x12),
    ([0x1F, 0x81, 0x12], .swqIter false 0x81 0x12),
    ([0x02, 0x81, 0x12], .swqLdc false 0x81 0x12),
    ([0x1B, 0x81, 0x12], .swqNewo false 0x81 0x12),
    ([0x03, 0x81, 0xFE], .swqLdi false 0x81 0xFFFE),
    ([0x04, 0x81], .swqLdn false 0x81),
    ([0x27, 0x81], .swqGcstep false 0x81),
    ([0x05, 0x81, 0x34, 0x12], .swqLdg false 0x81 0x1234),
    ([0x06, 0x81, 0x34, 0x12], .swqStg false 0x81 0x1234)] : List (List Byte × Instr)).all
    (fun p => (decodeBytes p.1).toOption == some p.2) = true := by decide

theorem test_decode_byte1 : ([([0x26, 0x81, 0x34, 0x12], .swqGuard false 0x81 0x1234),
    ([0x15, 0x81, 0x34, 0x12], .swqJt false 0x81 0x1234),
    ([0x16, 0x81, 0x34, 0x12], .swqJf false 0x81 0x1234),
    ([0x09, 0x81, 0x12, 0x34], .swqGeti false 0x81 0x12 0x34),
    ([0x0C, 0x81, 0x12, 0x34], .swqAdd false 0x81 0x12 0x34),
    ([0x0D, 0x81, 0x12, 0x34], .swqSub false 0x81 0x12 0x34),
    ([0x0E, 0x81, 0x12, 0x34], .swqMul false 0x81 0x12 0x34),
    ([0x0F, 0x81, 0x12, 0x34], .swqDiv false 0x81 0x12 0x34),
    ([0x10, 0x81, 0x12, 0x34], .swqMod false 0x81 0x12 0x34),
    ([0x21, 0x81, 0x12, 0x34], .swqTnew false 0x81 0x12 0x34),
    ([0x23, 0x81, 0x12, 0x34], .swqTcopy false 0x81 0x12 0x34),
    ([0x0A, 0x81, 0x12, 0x34], .swqSeti false 0x81 0x12 0x34),
    ([0x1C, 0x81, 0x12, 0x34], .swqNewl false 0x81 0x12 0x34),
    ([0x1D, 0x81, 0x12, 0x34], .swqNewt false 0x81 0x12 0x34)] : List (List Byte × Instr)).all
    (fun p => (decodeBytes p.1).toOption == some p.2) = true := by decide

theorem test_decode_byte2 : ([([0x14, 0x01, 0x80], .swqJmp false 0x8001),
    ([0x19, 0x81], .swqRet false 0x81),
    ([0x1A, 0x81], .swqRaise false 0x81),
    ([0x24, 0x81], .swqTwait false 0x81),
    ([0x25, 0x81], .swqDrop false 0x81),
    ([0x07, 0x81, 0x12, 0x34, 0x56], .swqGeta false 0x81 0x12 0x5634),
    ([0x08, 0x81, 0x12, 0x34, 0x56], .swqSeta false 0x81 0x12 0x5634),
    ([0x0B, 0x81, 0x12, 0x34, 0x56], .swqGetm false 0x81 0x12 0x5634),
    ([0x12, 0x81, 0x12, 0x34, 0x05], .swqCmp false 0x81 0x12 0x34 5),
    ([0x17, 0x01, 0x02, 0x03, 0x04, 0x34, 0x56], .swqCall false 1 2 3 4 0x5634),
    ([0x18, 0x01, 0x03, 0x04, 0x34, 0x56], .swqCallm false 1 3 4 0x5634),
    ([0x20, 0x01, 0x02, 0x03, 0xFE, 0xFF], .swqNext false 1 2 3 0xFFFE),
    ([0x22, 0x01, 0x02, 0x03, 0x04, 0x34, 0x56], .swqTcall false 1 2 3 4 0x5634),
    ([0xFF, 0x0C, 0x81, 0x01, 0x12, 0x02, 0x34, 0x03], .swqAdd true 0x181 0x212 0x334)] : List (List Byte × Instr)).all
    (fun p => (decodeBytes p.1).toOption == some p.2) = true := by decide

theorem test_decode_byte3 : ([([0xFF, 0x03, 0x81, 0x01, 0xFE, 0xFF], .swqLdi true 0x181 0xFFFE)] : List (List Byte × Instr)).all
    (fun p => (decodeBytes p.1).toOption == some p.2) = true := by decide

/-- A literal operand takes the words behind the instruction (02 R33, R34): add w3, w4, 100000 and mov w3, 2^32. -/
theorem test_decode_literals : (decode32 0x0402CCB0 100000 7).toOption = some (.add (.w 3) (.w 4) (.lit32 100000) .x64) ∧
    (decode32 0x1C02ED00 0 1).toOption = some (.mov (.w 3) (.lit64 0x100000000) .x64) := by decide

-- What the checks refuse ---------------------------------------------------------------------------------------------------------------------

/-- Two literal operands (02 R34). -/
theorem test_illformed_literals : wellFormed (.add (.w 3) (.lit32 100000) (.lit32 1) .x64) = false := by decide
/-- One queue in two source fields (02 R35). -/
theorem test_illformed_queue_twice : wellFormed (.add (.w 3) (.q 1) (.q 1) .x64) = false ∧ wellFormed (.sel (.q 1) (.q 1) (.g 0) .x64) = false := by
  decide
/-- A compare-and-swap whose data has no register after it (02 R41; 05, amo). -/
theorem test_illformed_cas : wellFormed (.amo .cas true 2 (.g 7) (.g 1) 0) = false ∧ wellFormed (.amo .cas true 2 (.w 23) (.g 1) 0) = false := by decide
/-- A relaxed load into a queue (05 R102). -/
theorem test_illformed_relaxed_queue : wellFormed (.ld .s64 false true 2 (.q 1) (.g 1) 0) = false := by decide
/-- An unsigned condition on floating lanes (02 R42). -/
theorem test_illformed_compare : wellFormed (.vcmp .ltN .f32 1 2 3 0) = false := by decide
/-- A conversion to its own type, and a part beyond the ratio (06 R120). -/
theorem test_illformed_convert : wellFormed (.vcvt .f32 .f32 1 2 3 0 .rtz) = false ∧ wellFormed (.vcvt .i8 .f32 1 2 3 3 .rtz) = true ∧
    wellFormed (.vcvt .bf16 .f32 1 2 3 2 .rtz) = false := by decide
/-- A lane beyond the register (06 R125). -/
theorem test_illformed_lane : wellFormed (.vextr .s64 8 2 (.g 1)) = false ∧ wellFormed (.vinsr .s32 16 2 (.g 1)) = false := by decide
/-- A special register that no instruction writes (01 R15). -/
theorem test_illformed_special : wellFormed (.wrs .clk (.g 1)) = false := by decide
/-- Bytecode operands that do not fit a byte without the WIDE prefix (10 R213). -/
theorem test_illformed_byte : wellFormed (.swqAdd false 0x181 2 3) = false ∧ wellFormed (.swqLdi false 1 0x80) = false ∧
    wellFormed (.swqLdi false 1 0xFF80) = true := by decide

/-- Why a word is refused. -/
def refusal (x : Except DecodeError Instr) : Option DecodeError :=
  match x with
  | .error e => some e
  | .ok _ => none

/-- A reserved major, function, field and operand code, and a bytecode that does not exist (02 R45, R46; 10 R213). -/
theorem test_refused : refusal (decode32 0x88000000 0 0) = some .reservedMajor ∧ refusal (decode32 0x0462CCD4 0 0) = some .reservedFunction ∧
    refusal (decode32 0x34000001 0 0) = some .reservedField ∧ refusal (decode32 0x0402CCB8 0 0) = some .reservedOperand ∧
    (decodeBytes [0x29]).toOption = none ∧ (decodeHelm 0x0000700B).toOption = none := by decide

-- Single steps -------------------------------------------------------------------------------------------------------------------------------

/-- Register w of the thread after an instruction, w1 and w2 given. -/
def gives (i : Instr) (a b : Word) : Word :=
  let t : Thread := { thr with w := ((thr.w.set 1 a).set 2 b) }
  (after i (rig t)).me.w.get 3

/-- Sums wrap in the width and are sign-extended (04 R78: add.8 of 127 and 1). -/
theorem test_add_wraps : gives (.add (.w 3) (.w 1) (.small 1) .x8) 127 0 = 0xFFFFFFFFFFFFFF80 := by decide +kernel
/-- The signed and the unsigned minimum differ (04 R78). -/
theorem test_min : gives (.minI (.w 3) (.w 1) (.w 2) .x64) (BitVec.allOnes 64) 1 = BitVec.allOnes 64 ∧
    gives (.minN (.w 3) (.w 1) (.w 2) .x64) (BitVec.allOnes 64) 1 = 1 := by decide +kernel
/-- A shift by 33 at width 32 shifts by 1 (04 R79). -/
theorem test_shl_modulo : gives (.shl (.w 3) (.w 1) (.w 2) .x32) 3 33 = 6 := by decide +kernel
/-- The high half of a signed and of an unsigned product (04 R81). -/
theorem test_mulh : gives (.mulhI (.w 3) (.w 1) (.w 2) .x8) 0xFF 2 = BitVec.allOnes 64 ∧ gives (.mulhN (.w 3) (.w 1) (.w 2) .x8) 0xFF 2 = 1 := by decide +kernel
/-- clz of zero gives the width (04 R84). -/
theorem test_clz_zero : gives (.clz (.w 3) (.w 1) .x16) 0x10000 0 = 16 := by decide +kernel
/-- A taken branch goes to its own address plus four times the offset, one not taken to the next word (04 R89). -/
theorem test_bz : (after (.bz (.small 0) 5) (rig thr)).me.pc = 84 ∧ (after (.bz (.small 1) 5) (rig thr)).me.pc = 68 := by decide +kernel
/-- A store through a segment of the local store lands at base plus offset, little end first (05 R97, R100). -/
theorem test_store : (let s := after (.st .s32 false 2 (.lit32 0x01020304) (.small 8) 0) (rig lsThr)
    rawRead s (lsKey 0 4104) 4) = [4, 3, 2, 1] := by decide +kernel
/-- A keeper's instruction outside slot 0 parks the thread with its pc at it (09 R190). -/
theorem test_keeper_only : ((after .kfence (rig thr)).thread 0 2).pc = 64 ∧ ((after .kfence (rig thr)).thread 0 2).st ≠ .runnable := by decide +kernel

-- Witnesses: accesses of two lines, and retirement -----------------------------------------------------------------------------------------

/-- Accesses of 64 bytes that touch two lines, in lanes of both. -/
def vld2 (kind : Nat) : Access := access (.vld .s64 0xFF 3) kind 8
def vst2 (kind : Nat) : Access := access (.vst .s64 1 0xFF) kind 8

theorem witness_MemoryReplies_lines :
    (let s := waiting (vld2 2) []
     (s.thread 0 2).st = .removed (.mem (vld2 2)) ∧ (vld2 2).half = none ∧ (vld2 2).splits = true ∧ Calm s 0 2 ∧
       ∃ mask, (vld2 2).op.onLine (vld2 2).addr (Config.upperFirst s.fresh) = .vld .s64 mask 3 ∧
         ∀ i, i < 64 / 8 → bit mask i = true → poisoned s (basinKey 0 8 + 8 * i) 8 = false) ∧
    (let s := waiting (vst2 2) []
     (s.thread 0 2).st = .removed (.mem (vst2 2)) ∧ (vst2 2).splits = true ∧ Calm s 0 2 ∧ Machine.Inv s ∧
       ∃ mask, (vst2 2).op.onLine (vst2 2).addr (Config.upperFirst s.fresh) = .vst .s64 1 mask) ∧
    (let h : HalfDone := { upper := true, got := 1, home := .raw (basinKey 0 8) }
     let x := { vld2 2 with half := some h }
     let y := { vst2 2 with half := some h }
     (waiting x []).thread 0 2 = { thr with st := .removed (.mem x) } ∧ Calm (waiting x []) 0 2 ∧
       x.op.onLine x.addr h.upper = .vld .s64 0x80 3 ∧ (∀ i, i < 64 / 8 → poisoned (waiting x []) (basinKey 0 8 + 8 * i) 8 = false) ∧
       ((waiting y []).thread 0 2).st = .removed (.mem y) ∧ y.op.onLine y.addr h.upper = .vst .s64 1 0x80 ∧ Machine.Inv (waiting y [])) ∧
    (let s := waiting (vld2 3) [leaf0]
     (s.thread 0 2).st = .removed (.mem (vld2 3)) ∧ firstBad s 0 (asidOf s (s.thread 0 2) 2) (vld2 3).op.code (vld2 3).pages = none ∧
       (vld2 3).splits = true ∧ dvaPoisoned s 0 (asidOf s (s.thread 0 2) 2) 8 64 = false ∧ ∀ d, (s.die d).busy = false) := by
  refine ⟨⟨?_, ?_, ?_, ?_, ⟨_, rfl, ?_⟩⟩, ⟨?_, ?_, ?_, ?_, ⟨_, rfl⟩⟩, ?_, ⟨?_, ?_, ?_, ?_, fun d => rfl⟩⟩
  case refine_5 =>
    have h : ∀ i, i < 64 / 8 → poisoned (waiting (vld2 2) []) (basinKey 0 8 + 8 * i) 8 = false := by decide +kernel
    exact fun i hi _ => h i hi
  all_goals (try unfold Calm); (try unfold Machine.Inv); decide +kernel

theorem witness_MemoryReplies_translated :
    (let x := access (.vld .s64 0xFF 3) 3 0
     let s := waiting x [leaf0]
     (s.thread 0 2).st = .removed (.mem x) ∧ x.splits = false ∧ Calm s 0 2 ∧ x.busy s 0 (asidOf s (s.thread 0 2) 2) = false ∧
       firstBad s 0 (asidOf s (s.thread 0 2) 2) x.op.code x.pages = none ∧
       (∀ i, i < 64 / 8 → dvaPoisoned s 0 (asidOf s (s.thread 0 2) 2) (0 + 8 * i) 8 = false)) ∧
    (let x := access (.vst .s64 1 0xFF) 3 0
     let s := waiting x [leaf0]
     (s.thread 0 2).st = .removed (.mem x) ∧ x.splits = false ∧ Calm s 0 2 ∧ x.busy s 0 (asidOf s (s.thread 0 2) 2) = false ∧
       firstBad s 0 (asidOf s (s.thread 0 2) 2) x.op.code x.pages = none ∧ Machine.Inv s) ∧
    (let x := access (.amo .add true (.g 1)) 3 65528
     let s := waiting x [leaf0]
     (s.thread 0 2).st = .removed (.mem x) ∧ x.splits = false ∧ Calm s 0 2 ∧ x.busy s 0 (asidOf s (s.thread 0 2) 2) = false ∧
       firstBad s 0 (asidOf s (s.thread 0 2) 2) x.op.code x.pages = none ∧ Machine.Inv s ∧ x.addr % 65536 + 8 ≤ 65536 ∧
       dvaPoisoned s 0 (asidOf s (s.thread 0 2) 2) x.addr 8 = false ∧ plainDst (.g 1) = true) := by
  unfold Calm Machine.Inv; decide +kernel

theorem witness_RelaxedAccesses_lines :
    (let s := inFlight .runnable [vst2 2] []
     (s.thread 0 2).relaxed[0]? = some { acc := vst2 2 } ∧ (vst2 2).splits = true ∧ (s.thread 0 0).st ≠ .removed .kfence ∧ Machine.Inv s ∧
       ∃ mask, (vst2 2).op.onLine (vst2 2).addr (Config.upperFirst s.fresh) = .vst .s64 1 mask) ∧
    (let x := access (.vld .s64 0xFF 3) 3 0
     let s := inFlight .runnable [x] [leaf0]
     (s.thread 0 2).relaxed[0]? = some { acc := x } ∧ x.splits = false ∧ firstBad s 0 (asidOf s (s.thread 0 2) 2) x.op.code x.pages = none ∧
       x.busy s 0 (asidOf s (s.thread 0 2) 2) = false ∧
       (∀ i, i < 64 / 8 → dvaPoisoned s 0 (asidOf s (s.thread 0 2) 2) (0 + 8 * i) 8 = false)) ∧
    (let x := access (.vst .s64 1 0xFF) 3 0
     let s := inFlight .runnable [x] [leaf0]
     (s.thread 0 2).relaxed[0]? = some { acc := x } ∧ x.splits = false ∧ firstBad s 0 (asidOf s (s.thread 0 2) 2) x.op.code x.pages = none ∧
       x.busy s 0 (asidOf s (s.thread 0 2) 2) = false ∧ Machine.Inv s) := by
  refine ⟨⟨?_, ?_, ?_, ?_, ⟨_, rfl⟩⟩, ?_, ?_⟩
  all_goals (try unfold Machine.Inv); decide +kernel

/-- A task that ends, its parent counter on core 0 and its successor list at 4096 of die 0's Basin. -/
def retiring (parent next : Word) : State :=
  { rig { thr with st := .removed .ending, isTask := true, parent := parent, succ := 4096 } with
    dies := [(0, { size := 8 })], mem := Memory.write [] (basinKey 0 4096) (natBytes 8 next.toNat) }

theorem witness_RetirementDecrements :
    (let s := retiring 64 0x0001000000000040
     let x := s.thread 0 2
     x.st = .removed .ending ∧ x.relaxed = [] ∧ x.serving = none ∧ x.tow = .none ∧ (s.thread 0 0).st ≠ .removed .kfence ∧ x.isTask = true ∧
       x.parent ≠ 0 ∧ succList s (dieOf 0) x.succ 15 = [0x0001000000000040] ∧
       namesCore s (fld (64 : Word) 48 16) = true ∧ namesCore s (fld (0x0001000000000040 : Word) 48 16) = true ∧
       (fld (64 : Word) 60 4 : BitVec 4) = s.wharf.device ∧ (fld (0x0001000000000040 : Word) 60 4 : BitVec 4) = s.wharf.device) ∧
    (let s := retiring 0 0x0800000000000000
     (s.thread 0 2).parent = 0 ∧ succList s (dieOf 0) (s.thread 0 2).succ 15 = [0x0800000000000000] ∧
       namesCore s (fld (0x0800000000000000 : Word) 48 16) = false) := by decide +kernel

/-- A segment that names a range beyond the local store, or has a limit, misuses and ranges of run forms. -/
theorem witness_WeirRunForms_ranges :
    (let u := after3 (rig weirThr) (.small 1) (.small 0) (.lit32 64)
     errIs (segCheck u (u.me.sg.get 0) 1 (64 * 1 * 1) needR 64 true) 0x06 = true ∧
       errIs (segCheck u (u.me.sg.get 0) 4096 (64 * 1 * 1) needR 64 true) 0x03 = true) ∧
    (let u := after3 (rig weirThr) (.small 0) (.lit32 4096) (.small 1)
     (u.me.sg.get 0).kind = 0 ∧ okIs (segCheck u (u.me.sg.get 0) 0 (64 * 1 * 1) needR 64 true) 4096 = true ∧
       errIs (segCheck u (u.me.sg.get 0) 4096 (outRow 16 * 1) needW 64 true) 0x03 = true) := by decide +kernel

/-- The run of a wrun.o is over: it writes no row. -/
theorem witness_WeirRunsEnd_open :
    let s := withCore (rig { weirThr with st := .removed (.weir 0 4) }) fun x =>
      { x with weir := { data := { reason := 5, slot := 3 }, exec := some { slot := 2, job := .run 1 1 1 4096 0, after := {}, last := none, fin := .ok, doneAt := 0 } } }
    Machine.Inv s ∧ (s.thread 0 2).st = .removed (.weir 0 4) ∧ Calm s 0 2 ∧ (s.getCore 0).weir.data.reason ≠ 0 ∧
      (s.getCore 0).weir.exec.map WeirExec.job = some (.run 1 1 1 4096 0) ∧ (s.getCore 0).weir.exec.map WeirExec.last = some none ∧
      (s.getCore 0).weir.exec.map WeirExec.fin = some .ok := by
  unfold Machine.Inv Calm; decide +kernel

/-- A core's thread that waits for the reply to an access through kind 1. -/
def remotely (op : MemOp) (kind : Nat) : State :=
  pounded { thr with st := .removed (.remote (access op 1 0)) } [mkRec 2 kP 0 0 0x8000000000000002 (List.replicate kind 7)]

theorem witness_WakesAndReplies_forms :
    (∀ op ∈ [st8, .vst .s8 1 0xFF, .vld .s8 0xFF 3, .amo .add true (.g 1)], let s := remotely op 8
      chosen s 0 = some (0, mkRec 2 kP 0 0 0x8000000000000002 (List.replicate 8 7)) ∧ (s.thread 0 2).st = .removed (.remote (access op 1 0)) ∧
        Calm s 0 2) ∧
    (let y : Relaxed := { acc := access ld8 1 0, sent := true }
     let s := pounded { thr with st := .removed .held, relaxed := [y, { acc := access ld8 2 0 }] } [reply2 0x8000000000000000]
     chosen s 0 = some (0, reply2 0x8000000000000000) ∧ (s.thread 0 2).relaxed = y :: [{ acc := access ld8 2 0 }] ∧ y.status = none ∧
       (∀ z ∈ [({ acc := access ld8 2 0 } : Relaxed)], z.acc.kind ≠ 1) ∧ (s.thread 0 0).st ≠ .removed .kfence ∧ plainDst (.g 1) = true ∧
       (fld (reply2 0x8000000000000000).key 8 8 : Byte) = 0) := by unfold Calm; decide +kernel

-- Witnesses: submissions, boarding, parked threads -----------------------------------------------------------------------------------------

theorem witness_EngineCommands_held :
    (let t : Thread := { thr with relaxed := [{ acc := access ld8 2 0 }] }
     let u := after1 (pusher t copyBlock) (.small 0)
     Ready (pusher t copyBlock) (.push 0 (.small 0)) ∧ (u.me.sg.get 0).kind = 0 ∧ poisoned u (lsKey u.core 4096) 64 = false ∧
       (pusher t copyBlock).me.relaxed ≠ [] ∧ subIs (submission u 0 (portWordsOf u)) = some none) := by unfold Ready; decide +kernel

/-- Words of blocks: a copy of 64 bytes, with its keys; elements; a reduction; a Basin operation. -/
def copyWords (n k6 k7 : Word) : List Word := [0, 0, 0, 64, n, 0, k6, k7]

theorem witness_SubmissionChecks :
    (let u := pusher thr []
     let range (w bytes : Nat) (need : BitVec 3) : Except Nat Nat := segCheck u (u.me.sg.get (Fin.ofNat 8 0)) w bytes need 1 true
     (u.me.ports.get 0).out.length < 8 ∧ ((u.me.sg.get (Fin.ofNat 8 0)).kind ∈ [0, 2, 3]) ∧
       okIs (range 0 64 needR) 4096 = true ∧ okIs (range 64 64 needW) 4160 = true ∧ errIs (range 64 65 needW) 0x03 = true) ∧
    (let u := pusher thr []
     subIs (submission u 0 (copyWords 64 0 0)) = some none ∧ subIs (submission u 0 (copyWords 65 0 0)) = some (some (0x03, 3)) ∧
       subIs (submission u 0 (copyWords 64 0x0800000000000000 0)) = some (some (0x05, 6)) ∧ namesCore u (fld (0x0800000000000000 : Word) 48 16) = false ∧
       subIs (submission u 0 (copyWords 64 64 4)) = some (some (0x06, 7)) ∧ (fld (4 : Word) 0 18 : BitVec 18).toNat % 8 ≠ 0 ∧
       subIs (submission u 0 [0x0100000000000000, 0, 0, 64, 64, 0, 0, 0]) = none ∧
       subIs (submission u 1 [0, 0, 0, 64, 4, 0x0000000100000001, 0, 0]) = some none ∧
       subIs (submission u 2 [0, 0, 0, 64, 4, 1, 0, 0]) = some (some (0x04, 2)) ∧
       subIs (submission u 3 [0, 0, 0, 64, 64, 0, 0, 0]) = some (some (0x04, 3)) ∧
       subIs (submission u 3 [0, 0, 0, 64, 65, 0, 0, 0]) = none) ∧
    (let u := pusher { thr with ports := (Vector.replicate 4 ({} : Port)).set 0 { out := outs 8 } } []
     8 ≤ (u.me.ports.get 0).out.length ∧ subIs (submission u 0 (copyWords 64 0 0)) = none) := by decide +kernel

/-- Members of group 5 wait in moor: slot 3 of the core, and slot 2 of core 16, of another cluster. -/
def boarding : State :=
  let w : Thread := { thr with st := .blocked (.moor 5 (.g 1) 4) }
  let s := withCore (grouped thr { members := [2, 3, 258] }) fun x => { x with slots := x.slots.set 3 w }
  { s with cores := s.cores ++ [(16, { slots := (Vector.replicate 16 ({} : Thread)).set 2 w })] }

theorem witness_TowInstructions_boards :
    let u := after2 boarding (.small 5) (.lit32 512)
    Ready boarding (.tow (.small 5) (.lit32 512)) ∧ u.myTa ∈ (u.group 5).members ∧ (u.group 5).tow ≠ 1 ∧ u.me.st = .runnable ∧
      (taNum 0 3 ∈ (u.group 5).members ∧ ((0, 3) : Nat × Fin 16) ≠ (u.core, u.slot) ∧ (u.thread 0 3).st = .blocked (.moor 5 (.g 1) 4) ∧
        Calm u 0 3 ∧ (u.thread 0 3).tow = .none ∧ clusterOf 0 = clusterOf u.core) ∧
      (taNum 16 2 ∈ (u.group 5).members ∧ (u.thread 16 2).st = .blocked (.moor 5 (.g 1) 4) ∧ Calm u 16 2 ∧ (u.thread 16 2).tow = .none ∧
        clusterOf 16 ≠ clusterOf u.core) ∧ plainDst (.g 1) = true := by unfold Ready Calm; decide +kernel

theorem witness_ParkResumeKill_blocked :
    (∀ b ∈ ([.queueRead 1, .queueWrite 1, .queuePush 1 7, .moor 5 (.g 1) 4, .butty] : List Blocked),
      let p : Park := { before := some b }
      let s := keeps 2 { thr with st := .parked p } .runnable
      Ready s (.kresume (.g 1)) ∧ (s.thread 0 2).st = .parked p ∧ p.fault = none ∧ Calm s 0 2) ∧
    (let s := keeps 2 { thr with st := .parked { before := some (.moor 5 (.g 1) 4) } } .runnable
     moorNow (s.as 0 2) 5 = none ∧ moorNow { (s.as 0 2) with dies := [(0, { groups := [(5, { tow := 2 })] })] } 5 = some 0) ∧
    (let s := keeps 2 { thr with tow := .motor 5 512 } .runnable
     Ready s (.kkill (.g 1)) ∧ (s.thread 0 2).st ≠ .empty ∧ (s.thread 0 2).relaxed = [] ∧ (s.thread 0 2).serving = none ∧
       (s.thread 0 2).tow = .motor 5 512 ∧ groupOf 5 ≠ none) ∧
    (let s := saving false { thr with st := .parked {}, tow := .motor 5 512 }
     (s.thread 0 0).st = .removed (.saveLoad false (.g 1) 0) ∧ (s.thread 0 2).st = .parked {} ∧ (s.thread 0 2).tow = .motor 5 512 ∧ Calm s 0 0 ∧
       (s.thread 0 2).saveInUse = false ∧ (s.thread 0 2).older = [] ∧ (s.thread 0 2).bells = []) := by
  unfold Ready Calm; decide +kernel

/-- A replay wake for the command of core 0's copy engine whose chunk 2 is parked. -/
def replaying (key : Word) (m : Cmd) : State :=
  { pounded thr [wake2 key] with clusters := [(0, { copy := { cmds := [{ m with started := true, parked := some (2, 0) }] } })] }

theorem witness_WakesAndReplies_commands :
    ∀ f ∈ [none, some 5], (let m : Cmd := { cmd0 with failAt := f, started := true, parked := some (2, 0) }
      let s := replaying 0xC200000000000000 { cmd0 with failAt := f }
      chosen s 0 = some (0, wake2 0xC200000000000000) ∧ bit (wake2 0xC200000000000000).key 63 = true ∧ bit (wake2 0xC200000000000000).key 57 = true ∧
        bit (wake2 0xC200000000000000).key 62 = true ∧ (s.engine (portEngine 0 0)).cmds[0]? = some m ∧ m.index = 0 ∧
        (fld (wake2 0xC200000000000000).key 60 2 : BitVec 2).toNat = 0) := by decide +kernel

-- Witnesses: numbers of the bytecode --------------------------------------------------------------------------------------------------------

/-- Slots: 3, 1.0, a NaN, 2^25, two objects, None, 0.0. -/
def numberSlots : List Word := [7, 0x3F80000000000006, 0x7FC0000000000006, 0x4000001, 0x22000, 0x24000, 0x02, 6]

theorem witness_BytecodeNumbers :
    let s := bc numberSlots []
    (∀ p ∈ ([(0, 7), (1, 0x3F80000000000006), (2, 0x7FC0000000000006), (3, 0x4000001), (4, 0x22000), (5, 0x24000), (6, 0x02), (7, 6)] :
      List (Half × Word)), SlotIs s p.1 p.2) ∧ SlotPlain s 6 ∧
    (BitVec.ofInt 64 (2 * 3 + 1) = (7 : Word) ∧ (3 : Int).natAbs ≤ 2 ^ 24 ∧ BitVec.ofInt 64 (2 * 2 ^ 25 + 1) = (0x4000001 : Word) ∧
      2 ^ 24 < ((2 : Int) ^ 25).natAbs ∧ (0x3F800000 : W32) ++ (6 : W32) = (0x3F80000000000006 : Word) ∧
      (0x7FC00000 : W32) ++ (6 : W32) = (0x7FC0000000000006 : Word) ∧ (fF32.value 0x7FC00000).isNan = true ∧ (fF32.value 0x3F800000).isNan = false ∧
      (0 : W32) ++ (6 : W32) = (6 : Word)) ∧
    (vKind 0x22000 = .pointer ∧ vKind 0x24000 = .pointer ∧ vKind 7 = .int ∧ vKind 0x02 = .special ∧ vKind 0x3F80000000000006 = .f32) := by
  have h : slotsB (bc numberSlots []) 8 [(0, 7), (1, 0x3F80000000000006), (2, 0x7FC0000000000006), (3, 0x4000001), (4, 0x22000), (5, 0x24000),
    (6, 0x02), (7, 6)] = true := by decide +kernel
  exact ⟨fun p hp => slotsB_iff h p hp, slotsB_plain h (6, 0x02) (by simp) (by decide +kernel), by decide +kernel, by decide +kernel⟩

-- Witnesses: helm pages of the second tier, and guests -------------------------------------------------------------------------------------

/-- The helm pound's page 0 in the second tier, the home-side cache being flushed or not. -/
def tiered (busy : Bool) : State :=
  { pounding with
    mem := Memory.write pounding.mem 0x400000 (natBytes 8 (0x50 * 2 ^ 22 + 0x21F))
    dies := [(0, { pounding.die 0 with busy := busy, size := 8 })] }

/-- A walk delivers a page of the second tier whose home is flushed, or not. -/
def tierB (x : Except Nat (Leaf × State)) (busy : Bool) : Bool :=
  match x with
  | .ok (l, u) => tierOf l.leaf == 2 && (u.die (dieOfKey (l.pa 0))).busy == busy
  | .error _ => false

theorem tierB_iff {x : Except Nat (Leaf × State)} {busy : Bool} (h : tierB x busy = true) :
    ∃ l u, x = .ok (l, u) ∧ tierOf l.leaf = 2 ∧ (u.die (dieOfKey (l.pa 0))).busy = busy := by
  unfold tierB at h
  split at h
  · rename_i l u
    rw [Bool.and_eq_true, beq_iff_eq, beq_iff_eq] at h
    exact ⟨l, u, rfl, h.1, h.2⟩
  · cases h

theorem witness_EngineViews_tiers : ∀ busy : Bool, (tiered busy).viaPound = true ∧ ∃ l u, walked (tiered busy) ((tiered busy).hart.val / 8) 2 0 0 = .ok (l, u) ∧
    tierOf l.leaf = 2 ∧ (u.die (dieOfKey (l.pa 0))).busy = busy := by
  intro busy
  exact ⟨rfl, tierB_iff (by cases busy <;> decide +kernel)⟩

theorem witness_HelmInstructions_waits : let s := tiered true
    swqBytes (s.myHart.getX 7) 16 s = .error .waits := stopsB_iff (by decide +kernel)

/-- A guest's hart, whose hypervisor delegates every exception to it, and one that does not. -/
theorem witness_HelmInstructions_guests :
    (let x := (helmRig { mode := .u, virt := true, csrs := { medeleg := 0x24 }, hyp := { hedeleg := 0x24 } }).myHart
     x.mode ≠ .m ∧ bit x.csrs.medeleg 2 = true ∧ x.virt = true ∧ bit x.hyp.hedeleg 2 = true ∧ bit x.hyp.hedeleg 5 = true) ∧
    (let x := (helmRig { mode := .s, csrs := { medeleg := 0x24 } }).myHart
     x.mode ≠ .m ∧ bit x.csrs.medeleg 2 = true ∧ x.virt = false) ∧
    (helmRig {}).myHart.mode = .m := by decide +kernel

end Sys2Proof.Tests
end

namespace Sys2Proof.Machine
open Sys2Proof

-- Bits and bytes -----------------------------------------------------------------------------------------------------------

theorem bit_append_high {n m : Nat} (x : BitVec n) (y : BitVec m) {i : Nat} (h : m ≤ i) : bit (x ++ y) i = bit x (i - m) := by
  simp [BitVec.getLsbD_append, show ¬ i < m by omega]

theorem bit_append_low {n m : Nat} (x : BitVec n) (y : BitVec m) {i : Nat} (h : i < m) : bit (x ++ y) i = bit y i := by
  simp [BitVec.getLsbD_append, h]

/-- A field of a field. -/
theorem fld_fld {n : Nat} (w : BitVec n) {lo len a m : Nat} (h : a + m ≤ len) : fld (fld w lo len) a m = fld w (lo + a) m := by
  ext i hi
  simp only [BitVec.getElem_extractLsb', BitVec.getLsbD_extractLsb']
  rw [Nat.add_assoc]
  simp; omega

/-- A bit of the little-endian value of a list of bytes is a bit of one of them. -/
theorem bytesNat_testBit (l : List Byte) {i j : Nat} (hi : i < l.length) (hj : j < 8) :
    (bytesNat l).testBit (8 * i + j) = l[i].getLsbD j := by
  induction l generalizing i with
  | nil => simp at hi
  | cons b l ih =>
    have e : bytesNat (b :: l) = 2 ^ 8 * bytesNat l + b.toNat := by simp only [bytesNat]; omega
    rw [e, Nat.testBit_two_pow_mul_add _ b.isLt]
    cases i with
    | zero => simp [hj, BitVec.getLsbD]
    | succ i =>
      rw [if_neg (by omega), show 8 * (i + 1) + j - 8 = 8 * i + j by omega]
      exact ih (by simpa using hi)

/-- A field inside a byte of a word that is given by its bytes. -/
theorem fld_bytesNat (l : List Byte) {i j n : Nat} (hi : i < l.length) (h8 : i < 8) (hj : j + n ≤ 8) :
    fld (BitVec.ofNat 64 (bytesNat l)) (8 * i + j) n = fld l[i] j n := by
  ext b hb
  simp only [BitVec.getElem_extractLsb', BitVec.getLsbD_ofNat]
  rw [show 8 * i + j + b = 8 * i + (j + b) by omega, bytesNat_testBit l hi (by omega)]
  simp; omega

theorem bit_bytesNat (l : List Byte) {i j : Nat} (hi : i < l.length) (h8 : i < 8) (hj : j < 8) :
    bit (BitVec.ofNat 64 (bytesNat l)) (8 * i + j) = bit l[i] j := by
  simp only [BitVec.getLsbD_ofNat, bytesNat_testBit l hi hj]
  simp; omega

/-- A sum of distinct powers of two: it stays below the next one, and its bits are those that were added. -/
theorem sumOfBits_spec (p : Nat → Bool) (m : Nat) :
    (List.range m).foldl (fun n j => if p j then n + 2 ^ j else n) 0 < 2 ^ m ∧
    ∀ i, ((List.range m).foldl (fun n j => if p j then n + 2 ^ j else n) 0).testBit i = (decide (i < m) && p i) := by
  induction m with
  | zero => simp
  | succ m ih =>
    rw [List.range_succ, List.foldl_append]
    generalize (List.range m).foldl (fun n j => if p j then n + 2 ^ j else n) 0 = x at ih ⊢
    obtain ⟨hx, ht⟩ := ih
    have hs : 2 ^ (m + 1) = 2 ^ m + 2 ^ m := by rw [Nat.pow_succ]; omega
    simp only [List.foldl_cons, List.foldl_nil]
    cases hp : p m
    · refine ⟨by simp; omega, fun i => ?_⟩
      rw [if_neg (by simp), ht]
      by_cases h : i = m
      · subst h; simp [hp]
      · congr 1; simp; omega
    · refine ⟨by simp; omega, fun i => ?_⟩
      rw [if_pos rfl, Nat.add_comm]
      rcases Nat.lt_trichotomy i m with h | h | h
      · rw [Nat.testBit_two_pow_add_gt h, ht]; simp [h]; omega
      · subst h; rw [Nat.testBit_two_pow_add_eq, Nat.testBit_lt_two_pow hx]; simp [hp]
      · rw [Nat.testBit_lt_two_pow (Nat.lt_of_lt_of_le (by omega) (Nat.pow_le_pow_right Nat.two_pos h))]
        simp; omega

-- Instructions whose checks pass, and traps ----------------------------------------------------------------------------------

theorem State.gated_ready {s : State} {i : Instr} (h : Ready s i) (f : State → State) : s.gated i f = f s := by
  unfold State.gated; rw [show gate s i = .go from h]

theorem trap_trapped (s : State) (cause : Nat) (a b : Word) : Trapped s (s.trap cause a b) cause a b := rfl

theorem trapOpen_trapped (s : State) (cause : Nat) : TrappedOpen s (s.trapOpen cause) cause :=
  ⟨{ s with fresh := s.fresh + 2 }, Config.freeWord s.fresh, Config.freeWord (s.fresh + 1), rfl, by rw [State.trapOpen]; rfl⟩

-- Special registers ----------------------------------------------------------------------------------------------------------

theorem mayName_iff {s : State} {r : SReg} : mayName s r = true ↔ r.keeperOnly = false ∨ s.slot = 0 := by
  have e : s.slot.val = 0 ↔ s.slot = 0 := by rw [Fin.ext_iff]; rfl
  simp [mayName, e]

theorem weirStatus_fields (x : Weir) : let w := weirStatus x
    (fld w 32 32 : W32) = x.data.row ∧ (fld w 24 8 : Byte) = 0 ∧ (fld w 20 4 : BitVec 4) = x.data.reason ∧
    (fld w 16 4 : BitVec 4) = x.data.slot ∧ bit w 15 = x.owner.isSome ∧ bit w 14 = x.held ∧
    (∀ k : Fin 16, x.owner = some k → (fld w 8 4 : BitVec 4) = BitVec.ofNat 4 k.val) ∧ (fld w 12 2 : BitVec 2) = 0 ∧
    (fld w 5 3 : BitVec 3) = 0 ∧ (fld w 0 5 : BitVec 5) = x.data.sticky := by
  unfold weirStatus
  refine ⟨?_, ?_, ?_, ?_, ?_, ?_, fun k h => ?_, ?_, ?_, ?_⟩
  all_goals simp (disch := omega) only [BitVec.extractLsb'_append_eq_of_le, BitVec.extractLsb'_append_eq_of_add_le,
    BitVec.extractLsb'_eq_self, Nat.reduceSub, bit_append_high, bit_append_low]
  · simp
  · simp
  · rw [h]; rfl

theorem queueStatus_fields (y : Queue) :
    (fld (queueStatus y) 3 5 : BitVec 5) = BitVec.ofNat 5 y.entries.length ∧ bit (queueStatus y) 2 = y.drained ∧
    bit (queueStatus y) 1 = y.eos ∧ bit (queueStatus y) 0 = y.enabled := by
  simp (disch := omega) only [queueStatus, BitVec.extractLsb'_append_eq_of_le, BitVec.extractLsb'_eq_self, Nat.reduceSub,
    bit_append_high, bit_append_low]
  simp

theorem queuesStatus_fields (x : Core) (q : Fin 8) : let w := queuesStatus x
    (fld w (8 * q.val + 3) 5 : BitVec 5) = BitVec.ofNat 5 (x.queue q).entries.length ∧ bit w (8 * q.val + 2) = (x.queue q).drained ∧
    bit w (8 * q.val + 1) = (x.queue q).eos ∧ bit w (8 * q.val) = (x.queue q).enabled := by
  have hl : q.val < (x.queues.toList.map queueStatus).length := by simp
  have hq : (x.queues.toList.map queueStatus)[q.val] = queueStatus (x.queue q) := by
    simp [Core.queue, Vector.get]
  obtain ⟨h5, h2, h1, h0⟩ := queueStatus_fields (x.queue q)
  refine ⟨?_, ?_, ?_, ?_⟩
  · rw [queuesStatus, fld_bytesNat _ hl q.isLt (by omega), hq, h5]
  · rw [queuesStatus, bit_bytesNat _ hl q.isLt (by omega), hq, h2]
  · rw [queuesStatus, bit_bytesNat _ hl q.isLt (by omega), hq, h1]
  · rw [queuesStatus, show 8 * q.val = 8 * q.val + 0 from rfl, bit_bytesNat _ hl q.isLt (by omega), hq, h0]

theorem kwdValue_bit (x : Core) (clk i : Nat) : bit (kwdValue x clk) i =
    (decide (i < 16) && bit x.kwd i && blockedLong (x.slots.get (Fin.ofNat 16 i)) &&
      decide ((x.slots.get (Fin.ofNat 16 i)).since + 4096 < clk)) := by
  have h := (sumOfBits_spec (fun i => bit x.kwd i && blockedLong (x.slots.get (Fin.ofNat 16 i)) &&
      decide ((x.slots.get (Fin.ofNat 16 i)).since + 4096 < clk)) 16).2 i
  simp only [kwdValue, BitVec.getLsbD_ofNat] at h ⊢
  rw [h]
  cases decide (i < 16) <;> simp

theorem exec_rds_ready {s : State} {d : Dst} {r : SReg} (hn : r.keeperOnly = false ∨ s.slot = 0) (h : Ready s (.rds d r)) :
    exec (.rds d r) s = .next (s.result (.rds d r) d (readSpecial s r)) := by
  show execRds d r s = _
  rw [execRds, if_pos (mayName_iff.mpr hn), State.gated_ready h]

theorem exec_wrs_ready {s : State} {r : SReg} {a : Src} (hn : r.keeperOnly = false ∨ s.slot = 0) (h : Ready s (.wrs r a)) :
    exec (.wrs r a) s = .next ((writeSpecial (after1 s a) r (val1 s a)).advance (.wrs r a)) := by
  show execWrs r a s = _
  rw [execWrs, if_pos (mayName_iff.mpr hn), State.gated_ready h]
  rfl

theorem writeSpecial_kpc (s : State) (v : Word) :
    (∀ p, (s.myCore.slots.get s.myCore.selected).st = .parked p →
      writeSpecial s .kpc v = s.setThread s.core s.myCore.selected { s.myCore.slots.get s.myCore.selected with pc := v }) ∧
    ((∀ p, (s.myCore.slots.get s.myCore.selected).st ≠ .parked p) → writeSpecial s .kpc v = s) := by
  constructor
  · intro p h
    simp only [writeSpecial, h]
  · intro h
    simp only [writeSpecial]

/-- Settles O9: a read answers the register's fields, a write sets them, and the keeper's registers trap outside slot 0. -/
theorem specialRegisters : Obligations.SpecialRegisters := by
  unfold Obligations.SpecialRegisters
  refine ⟨fun s d r hn h => exec_rds_ready hn h, ?_, fun s => weirStatus_fields s.myCore.weir, fun s q => queuesStatus_fields s.myCore q,
    ?_, fun s r a hn h => exec_wrs_ready hn h, ?_, ?_, fun v => rfl, ?_⟩
  · intro s
    exact ⟨rfl, rfl, rfl, rfl, rfl, rfl, rfl, rfl, rfl, rfl, rfl, rfl, rfl, rfl, rfl, rfl, rfl, rfl⟩
  · intro s i
    rw [← kwdValue_bit]
    simp only [readSpecial, BitVec.getLsbD_setWidth]
    by_cases h : i < 64
    · simp [h]
    · simp only [h, decide_false, Bool.false_and]
      exact (BitVec.getLsbD_of_ge _ _ (by omega)).symm
  · intro s v
    exact ⟨rfl, rfl, rfl, rfl, rfl, rfl, rfl⟩
  · intro s v k hk
    subst hk
    exact writeSpecial_kpc s v
  · intro s d r a hr hs
    have hn : ¬ mayName s r = true := by rw [mayName_iff]; simp [hr, hs]
    refine ⟨⟨_, rfl, ?_⟩, ⟨_, rfl, ?_⟩⟩
    · rw [if_neg hn]; exact trap_trapped s _ _ _
    · rw [if_neg hn]; exact trap_trapped s _ _ _
end Sys2Proof.Machine

namespace Sys2Proof.Machine
open Sys2Proof

-- Branches and jumps -----------------------------------------------------------------------------------------------------------

theorem target_eq {n : Nat} (pc : Word) (off : BitVec n) : target pc off = pc + BitVec.ofInt 64 (4 * off.toInt) := by
  have h : (off.signExtend 64) <<< 2 = BitVec.ofInt 64 (4 * off.toInt) := by
    rw [BitVec.shiftLeft_eq_mul_twoPow, BitVec.signExtend, BitVec.ofInt_mul, BitVec.mul_comm]
    rfl
  rw [target, h]

theorem condHolds_iff (cc : Cond) (w : Width) (x y : Word) : condHolds cc (Width.bits w) x y = true ↔ ConditionHolds cc w x y := by
  cases cc <;> simp [condHolds, ConditionHolds, uOf, sOf]

theorem misaligned_iff (a : Word) : misaligned a = true ↔ a.toNat % 4 ≠ 0 := by
  have h : (fld a 0 2 : BitVec 2) = 0 ↔ a.toNat % 4 = 0 := by
    rw [← BitVec.toNat_inj]; simp [BitVec.extractLsb'_toNat]
  rw [misaligned, bne_iff_ne, ne_eq, h]

theorem misaligned_eq_false {a : Word} (h : a.toNat % 4 = 0) : misaligned a = false := by
  cases e : misaligned a
  · rfl
  · exact absurd h ((misaligned_iff a).mp e)

/-- A butty whose motor's branch came out the same way stays in the tow, another casts off. -/
theorem Thread.decided_of_butty {t : Thread} {f : Forwarded} {l : List Forwarded} (pc : Word) (taken : Bool) (hb : t.isButty = true)
    (hf : t.fwd = f :: l) : (t.decided pc taken).pc = pc ∧ ((t.decided pc taken).tow = .none ↔ f.taken ≠ taken) := by
  have ht : t.tow ≠ .none := by
    intro e; simp [Thread.isButty, e] at hb
  by_cases e : f.taken = taken <;> simp [Thread.decided, Thread.performedAs, hb, hf, e, ht]

theorem branches : Claims.Branches := by
  refine ⟨fun s off => ?_, fun s cc a b off h => ?_, fun s a off h => ?_, fun s a off h => ?_,
    fun t pc taken f l hb hf => Thread.decided_of_butty pc taken hb hf, fun s a h => ?_⟩
  · show execB off s = _
    rw [execB, State.branch, if_pos rfl, target_eq]
  · have e : exec (.br cc a b off) s = .next ((after2 s a b).branch (.br cc a b off) off (condHolds cc 64 (val1 s a) (val2 s a b))) := by
      show execBr cc a b off s = _
      rw [execBr, State.gated_ready h]; rfl
    refine ⟨_, e, fun hc => ?_, fun hc => ?_⟩
    · rw [show condHolds cc 64 (val1 s a) (val2 s a b) = true from (condHolds_iff cc .x64 _ _).mpr hc, State.branch, if_pos rfl, target_eq]
    · rw [show condHolds cc 64 (val1 s a) (val2 s a b) = false from Bool.eq_false_iff.mpr fun t => hc ((condHolds_iff cc .x64 _ _).mp t),
        State.branch, if_neg (by simp)]
  · have e : exec (.bz a off) s = .next ((after1 s a).branch (.bz a off) off (val1 s a == 0)) := by
      show execBz a off s = _
      rw [execBz, State.gated_ready h]; rfl
    simp only [e, State.branch, target_eq, beq_eq_decide, decide_eq_true_eq]
  · have e : exec (.bnz a off) s = .next ((after1 s a).branch (.bnz a off) off (val1 s a != 0)) := by
      show execBnz a off s = _
      rw [execBnz, State.gated_ready h]; rfl
    simp only [e, State.branch, target_eq, bne_eq, beq_eq_decide, ← decide_not, decide_eq_true_eq, ne_eq]
  · have e : exec (.jmp a) s = .next (if misaligned (val1 s a) then s.trapOpen 0x06 else (after1 s a).goTo (val1 s a)) := by
      show execJmp a s = _
      rw [execJmp, State.gated_ready h]; rfl
    refine ⟨fun z => ?_, fun z => ⟨_, e, ?_⟩⟩
    · rw [e, misaligned_eq_false z, if_neg (by simp)]
    · rw [if_pos ((misaligned_iff _).mpr z)]; exact trapOpen_trapped s 0x06

-- Windows ------------------------------------------------------------------------------------------------------------------------

theorem exec_call_ready {s : State} {off : BitVec 26} (h : Ready s (.call off)) :
    exec (.call off) s = .next (s.callTo s (.call off) (s.me.pc + BitVec.ofInt 64 (4 * off.toInt))) := by
  show execCall off s = _
  rw [execCall, State.gated_ready h, target_eq]

theorem exec_callr_ready {s : State} {a : Src} (h : Ready s (.callr a)) :
    exec (.callr a) s = .next (if misaligned (val1 s a) then s.trapOpen 0x06 else (after1 s a).callTo s (.callr a) (val1 s a)) := by
  show execCallr a s = _
  rw [execCallr, State.gated_ready h]; rfl

/-- What a return does once its checks before the operands have passed. -/
def returnOf (s : State) : State :=
  if s.me.depth = 0 then s.windowTrap
  else match s.me.older with
    | f :: _ => if misaligned (f.getD 15 0) then s.trapOpen 0x06 else s.setMe (s.me.restore f)
    | [] =>
      match s.me.fillAt with
      | some _ => s.remove (.window .fill s.iword)
      | none => s.windowTrap

theorem exec_ret_ready {s : State} (h : Ready s .ret) : exec .ret s = .next (returnOf s) := by
  show execRet s = _
  rw [execRet, State.gated_ready h]; rfl

@[simp] theorem Thread.enter_pc (t : Thread) (link dest : Word) : (t.enter link dest).pc = dest := by simp [Thread.enter]
@[simp] theorem Thread.enter_depth (t : Thread) (link dest : Word) : (t.enter link dest).depth = t.depth + 1 := by
  simp [Thread.enter, Thread.setW]
@[simp] theorem Thread.enter_g (t : Thread) (link dest : Word) : (t.enter link dest).g = t.g := by simp [Thread.enter, Thread.setW]
@[simp] theorem Thread.enter_older (t : Thread) (link dest : Word) :
    (t.enter link dest).older = ((t.setW 15 link).w.toList.take 16) :: t.older := by simp [Thread.enter, Thread.setW]
@[simp] theorem Thread.restore_pc (t : Thread) (f : List Word) : (t.restore f).pc = f.getD 15 0 := by simp [Thread.restore]
@[simp] theorem Thread.restore_depth (t : Thread) (f : List Word) : (t.restore f).depth = t.depth - 1 := by simp [Thread.restore]
@[simp] theorem Thread.restore_g (t : Thread) (f : List Word) : (t.restore f).g = t.g := by simp [Thread.restore]
@[simp] theorem Thread.restore_older (t : Thread) (f : List Word) : (t.restore f).older = t.older.tail := by simp [Thread.restore]
@[simp] theorem Thread.restore_wsp (t : Thread) (f : List Word) : (t.restore f).wsp = t.wsp := by simp [Thread.restore]
@[simp] theorem Thread.enter_wsp (t : Thread) (link dest : Word) : (t.enter link dest).wsp = t.wsp := by simp [Thread.enter, Thread.setW]

theorem vector_getD_toList {α : Type} {n : Nat} (v : Vector α n) (i : Fin n) (d : α) : v.toList.getD i.val d = v.get i := by
  simp [List.getD, Vector.get]

/-- A call's window: the caller's w16 to w23, and zeros. -/
theorem Thread.enter_w (t : Thread) (link dest : Word) (j : Fin 24) :
    (t.enter link dest).w.get j = if h : j.val < 8 then t.w.get ⟨16 + j.val, by omega⟩ else 0 := by
  simp only [Thread.enter, Thread.performed_w, Vector.get_ofFn]
  by_cases h : j.val < 8
  · have e := vector_getD_toList (t.setW 15 link).w ⟨16 + j.val, by omega⟩ 0
    rw [if_pos h, dif_pos h, e, Thread.setW_get, if_neg (by simp [Fin.ext_iff]; omega)]
  · rw [if_neg h, dif_neg h]

/-- A return's window: the frame, and the w0 to w7 that it returns from. -/
theorem Thread.restore_w (t : Thread) (f : List Word) (j : Fin 24) :
    (t.restore f).w.get j = if h : j.val < 16 then f.getD j.val 0 else t.w.get ⟨j.val - 16, by omega⟩ := by
  simp only [Thread.restore, Thread.performed_w, Vector.get_ofFn]
  by_cases h : j.val < 16
  · rw [if_pos h, dif_pos h]
  · rw [if_neg h, dif_neg h, ← vector_getD_toList t.w ⟨j.val - 16, by omega⟩ 0]

theorem callsAndReturns : Claims.CallsAndReturns := by
  refine ⟨fun s i dest u hs hi => ?_, fun s f l h hd ho hf => ?_, fun s h hd => ?_, fun s a h hm => ?_, fun s f l h hd ho hf => ?_⟩
  · have key : exec i s = .next (u.setMe (u.me.enter (nextPc u.me (lengthOf i)) dest)) := by
      rcases hi with ⟨off, rfl, hr, rfl, rfl⟩ | ⟨a, rfl, hr, rfl, rfl, hm, hl⟩
      · rw [exec_call_ready hr, State.callTo, if_pos hs]
      · rw [exec_callr_ready hr, misaligned_eq_false hm, if_neg (by simp), State.callTo, if_pos hl]
    refine ⟨_, key, ?_⟩
    simp only [State.setMe_me]
    exact ⟨Thread.enter_pc .., Thread.enter_depth .., Thread.enter_w _ _ _, Thread.enter_older .., Thread.enter_g ..⟩
  · refine ⟨s.setMe (s.me.restore f), ?_, ?_⟩
    · rw [exec_ret_ready h, returnOf, if_neg hd, ho]
      simp only [misaligned_eq_false hf, Bool.false_eq_true, if_false]
    · simp only [State.setMe_me]
      exact ⟨Thread.restore_pc .., Thread.restore_depth .., by simp [ho], Thread.restore_g .., Thread.restore_w _ _⟩
  · refine ⟨_, exec_ret_ready h, ?_⟩
    have := trap_trapped s 0x09 (s.me.wsp.setWidth 64) (BitVec.ofNat 64 s.me.depth)
    rw [returnOf, if_pos hd, State.windowTrap]
    rw [hd] at this ⊢
    exact this
  · refine ⟨_, exec_callr_ready h, ?_⟩
    rw [if_pos ((misaligned_iff _).mpr hm)]; exact trapOpen_trapped s 0x06
  · refine ⟨_, exec_ret_ready h, ?_⟩
    rw [returnOf, if_neg hd, ho]
    simp only [(misaligned_iff _).mpr hf, if_true]
    exact trapOpen_trapped s 0x06

/-- Settles O11: each of these instructions from its meaning, once its operands are ready. -/
theorem branchesAndCalls : Obligations.BranchesAndCalls := ⟨branches, callsAndReturns⟩

end Sys2Proof.Machine

namespace Sys2Proof.Machine
open Sys2Proof

-- Local stores ---------------------------------------------------------------------------------------------------------------------

@[simp] theorem wordsBytes_length (ws : List Word) : (wordsBytes ws).length = 8 * ws.length := by
  induction ws with
  | nil => rfl
  | cons w l ih =>
    rw [wordsBytes, List.flatMap_cons, List.length_append, natBytes_length, ← wordsBytes, ih]
    simp; omega

theorem lsWrite_inside (s : State) (c : Nat) {off : Nat} {bs : List Byte} (h : off + bs.length ≤ localBytes) (hb : bs ≠ []) :
    lsWrite s c off bs = rawWrite s (lsKey c off) bs := by
  have hl : 0 < bs.length := List.length_pos_iff.mpr hb
  have e : off % localBytes = off := Nat.mod_eq_of_lt (by omega)
  simp only [lsWrite, e, if_pos h]

-- The boundary ------------------------------------------------------------------------------------------------------------------------

theorem State.boundary_calm {s : State} {t : Thread} (c : Nat) (k : Fin 16) (hd : t.dogDue = false) (hp : t.parkDue = false)
    (hf : failedRelaxed t = none) (hg : graceOver s t.tag = false) : s.boundary c k t = s.setThread c k t.run := by
  have e : s.boundary c k t = if t.dogDue then ((s.setThread c k t.run).setThread c k t).trapThread c k 0x0F
        (fetchedWord (s.setThread c k t.run) c k) t.pc (t.tag.setWidth 64) 0
      else match failedRelaxed t with
        | some r => parkRelaxed (s.setThread c k t.run) c k r
        | none => if t.parkDue || (decide (2 ≤ k.val) && graceOver s t.tag) then
            (s.setThread c k t.run).setThread c k { t with parkDue := false, st := .parked {} } else s.setThread c k t.run := rfl
  rw [e, hd, hf, hp, hg]
  simp

theorem thread_as (s : State) (c d : Nat) (k j : Fin 16) : (s.as c k).thread d j = s.thread d j := rfl
theorem me_as (s : State) (c : Nat) (k : Fin 16) : (s.as c k).me = s.thread c k := rfl

-- Spills and fills ----------------------------------------------------------------------------------------------------------------

theorem Thread.frameAt_iff (t : Thread) (need : BitVec 3) (off a : Nat) : t.frameAt need off = some a ↔
    a = (fld (t.sg.get 1).w0 0 18 : BitVec 18).toNat + off ∧ (t.sg.get 1).kind = 0 ∧ need &&& ~~~(t.sg.get 1).rights = 0 ∧ a + 128 ≤ localBytes := by
  simp only [Thread.frameAt]
  constructor
  · intro h
    split at h
    · rename_i hc
      cases h
      exact ⟨rfl, hc⟩
    · cases h
  · rintro ⟨rfl, hc⟩
    rw [if_pos hc]

theorem Thread.spillAt_iff (t : Thread) (a : Nat) : t.spillAt = some a ↔ a = (fld (t.sg.get 1).w0 0 18 : BitVec 18).toNat + t.wsp.toNat ∧
    (t.sg.get 1).kind = 0 ∧ bit (t.sg.get 1).rights 0 = true ∧ bit (t.sg.get 1).rights 1 = true ∧ t.wsp.toNat + 128 ≤ (t.sg.get 1).limit ∧
    a + 128 ≤ localBytes := by
  have hr : ∀ r : BitVec 3, needRW &&& ~~~r = 0 ↔ bit r 0 = true ∧ bit r 1 = true := by decide
  rw [Thread.spillAt]
  split
  · rename_i h
    rw [Thread.frameAt_iff, hr]
    tauto
  · rename_i h
    simp [h]

theorem Thread.fillAt_iff (t : Thread) (a : Nat) : t.fillAt = some a ↔ a = (fld (t.sg.get 1).w0 0 18 : BitVec 18).toNat + (t.wsp - 128).toNat ∧
    (t.sg.get 1).kind = 0 ∧ bit (t.sg.get 1).rights 0 = true ∧ a + 128 ≤ localBytes := by
  have hr : ∀ r : BitVec 3, needR &&& ~~~r = 0 ↔ bit r 0 = true := by decide
  rw [Thread.fillAt, Thread.frameAt_iff, hr]

theorem State.callTo_spill {s before : State} {i : Instr} {dest : Word} {a : Nat} (h : 3 ≤ s.me.older.length) (ha : s.me.spillAt = some a) :
    s.callTo before i dest = s.remove (.window (.spill dest (nextPc s.me (lengthOf i))) s.iword) := by
  rw [State.callTo, if_neg (by omega), ha]

theorem State.callTo_stuck {s before : State} {i : Instr} {dest : Word} (h : 3 ≤ s.me.older.length) (ha : s.me.spillAt = none) :
    s.callTo before i dest = before.windowTrap := by
  rw [State.callTo, if_neg (by omega), ha]

theorem windowTrap_trapped (s : State) : Trapped s s.windowTrap 0x09 (s.me.wsp.setWidth 64) (BitVec.ofNat 64 s.me.depth) :=
  trap_trapped s _ _ _

/-- What follows a thread's operation where nothing is due at its boundary. -/
theorem failedRelaxed_of_relaxed {t u : Thread} (h : u.relaxed = t.relaxed) : failedRelaxed u = failedRelaxed t := by
  rw [failedRelaxed, h]; rfl

theorem Thread.enter_keeps (t : Thread) (link dest : Word) : (t.enter link dest).dogDue = t.dogDue ∧ (t.enter link dest).parkDue = t.parkDue ∧
    (t.enter link dest).relaxed = t.relaxed ∧ (t.enter link dest).tag = t.tag := by
  simp [Thread.enter, Thread.setW]

theorem Thread.restore_keeps (t : Thread) (f : List Word) : (t.restore f).dogDue = t.dogDue ∧ (t.restore f).parkDue = t.parkDue ∧
    (t.restore f).relaxed = t.relaxed ∧ (t.restore f).tag = t.tag := by
  simp [Thread.restore]

/-- The thread whose oldest window has been spilled. -/
def Thread.spilled (t : Thread) : Thread := { t with older := t.older.dropLast, wsp := t.wsp + 128 }

theorem State.spill_eq {s : State} {c : Nat} {k : Fin 16} {a : Nat} (h : (s.thread c k).older.getLast?.map List.length = some 16)
    (ha : a + 128 ≤ localBytes) : s.spill c k a =
      (rawWrite s (lsKey c a) (wordsBytes ((s.thread c k).older.getLastD []))).setThread c k (s.thread c k).spilled ∧
      (wordsBytes ((s.thread c k).older.getLastD [])).length = 128 := by
  obtain ⟨f, hf, hl⟩ := Option.map_eq_some_iff.mp h
  have e : (s.thread c k).older.getLastD [] = f := by rw [List.getLastD_eq_getLast?, hf]; rfl
  have hw : (wordsBytes f).length = 128 := by rw [wordsBytes_length, hl]
  rw [State.spill, e]
  refine ⟨?_, hw⟩
  rw [lsWrite_inside s c (by omega) (List.ne_nil_of_length_pos (by omega))]
  rfl

theorem windowSpillComplete {s : State} {c : Nat} {k : Fin 16} {dest link : Word} {w : W32} {a : Nat}
    (hst : (s.thread c k).st = .removed (.window (.spill dest link) w)) (ha : (s.thread c k).spillAt = some a)
    (ho : (s.thread c k).older.getLast?.map List.length = some 16) (hd : (s.thread c k).dogDue = false)
    (hp : (s.thread c k).parkDue = false) (hf : failedRelaxed (s.thread c k) = none) (hg : graceOver s (s.thread c k).tag = false) :
    exec (.windowSpillFillComplete c k) s = .next ((rawWrite (s.as c k) (lsKey c a) (wordsBytes ((s.thread c k).older.getLastD []))).setThread c k
      (s.thread c k).spilled |>.setThread c k ((s.thread c k).spilled.enter link dest).run) := by
  obtain ⟨hq, -, -, -, -, hl⟩ := (Thread.spillAt_iff _ _).mp ha
  obtain ⟨e, -⟩ := State.spill_eq (s := s.as c k) (c := c) (k := k) (a := a) ho hl
  obtain ⟨kd, kp, kr, kt⟩ := Thread.enter_keeps (s.thread c k).spilled link dest
  have hx : exec (.windowSpillFillComplete c k) s = .next (((s.as c k).spill c k a).boundary c k
      ((((s.as c k).spill c k a).me).enter link dest)) := by
    show execWindowSpillFillComplete c k s = _
    rw [execWindowSpillFillComplete]
    simp only [me_as, hst, ← hq]
  have hm : ((s.as c k).spill c k a).me = (s.thread c k).spilled := by
    rw [e]
    exact State.thread_setThread_self ..
  rw [hx, hm, State.boundary_calm c k (kd.trans hd) (kp.trans hp) ((failedRelaxed_of_relaxed kr).trans hf) (by
    rw [kt, e]; exact hg), e]
  rfl

theorem windowFillComplete {s : State} {c : Nat} {k : Fin 16} {w : W32} {a : Nat}
    (hst : (s.thread c k).st = .removed (.window .fill w)) (ha : (s.thread c k).fillAt = some a)
    (hm : ((frameWords s c a).getD 15 0).toNat % 4 = 0) (hd : (s.thread c k).dogDue = false)
    (hp : (s.thread c k).parkDue = false) (hf : failedRelaxed (s.thread c k) = none) (hg : graceOver s (s.thread c k).tag = false) :
    exec (.windowSpillFillComplete c k) s = .next ((s.as c k).setThread c k
      (({ s.thread c k with wsp := (s.thread c k).wsp - 128 } : Thread).restore (frameWords s c a)).run) := by
  obtain ⟨hq, -, -, -⟩ := (Thread.fillAt_iff _ _).mp ha
  obtain ⟨kd, kp, kr, kt⟩ := Thread.restore_keeps { s.thread c k with wsp := (s.thread c k).wsp - 128 } (frameWords s c a)
  have hx : exec (.windowSpillFillComplete c k) s = .next ((s.as c k).boundary c k
      (({ s.thread c k with wsp := (s.thread c k).wsp - 128 } : Thread).restore (frameWords s c a))) := by
    show execWindowSpillFillComplete c k s = _
    rw [execWindowSpillFillComplete]
    simp only [me_as, hst, ← hq]
    exact congrArg _ (if_neg (by rw [Bool.not_eq_true]; exact misaligned_eq_false hm))
  rw [hx, State.boundary_calm c k (kd.trans hd) (kp.trans hp) ((failedRelaxed_of_relaxed kr).trans hf) (by rw [kt]; exact hg)]

/-- Settles O12: the operands of a call or return decide between a spill or fill and a trap; the completion writes or reads one frame. -/
theorem windowSpillAndFill : Obligations.WindowSpillAndFill := by
  unfold Obligations.WindowSpillAndFill
  refine ⟨fun s off a h hl ha => ?_, fun s b a h hl ha hm => ?_, fun s off h hl ha => ?_, fun s b h hl ha hm => ?_, fun s h hd ho ha => ?_,
    Thread.spillAt_iff, Thread.fillAt_iff, fun s a h hd ho ha => ?_, fun s c k dest link w a hst ha ho hd hp hf hg hi => ?_,
    fun s c k w a hst ha hm hd hp hf hg => ?_⟩
  · rw [exec_call_ready h, State.callTo_spill hl ha]
    rfl
  · rw [exec_callr_ready h, misaligned_eq_false hm, if_neg (by simp), State.callTo_spill hl ha]
    rfl
  · exact ⟨_, exec_call_ready h, by rw [State.callTo_stuck hl ha]; exact windowTrap_trapped s⟩
  · refine ⟨_, exec_callr_ready h, ?_⟩
    rw [misaligned_eq_false hm, if_neg (by simp), State.callTo_stuck hl ha]
    exact windowTrap_trapped s
  · refine ⟨_, exec_ret_ready h, ?_⟩
    rw [returnOf, if_neg hd, ho]
    simp only [ha]
    exact windowTrap_trapped s
  · rw [exec_ret_ready h, returnOf, if_neg hd, ho]
    simp only [ha]
    rfl
  · obtain ⟨hq, -, -, -, -, hb⟩ := (Thread.spillAt_iff _ _).mp ha
    obtain ⟨-, hl⟩ := State.spill_eq (s := s) (c := c) (k := k) (a := a) ho hb
    refine ⟨_, windowSpillComplete hst ha ho hd hp hf hg, ?_⟩
    simp only [State.thread_setThread_self]
    refine ⟨Thread.enter_pc .., rfl, Thread.enter_wsp .., ?_, ?_, fun b hb => ?_⟩
    · exact Thread.enter_depth ..
    · rw [← hl]
      exact Memory.read_write hi _ _
    · rw [← hl] at hb
      exact Memory.get_write_outside hi hb
  · refine ⟨_, windowFillComplete hst ha hm hd hp hf hg, ?_⟩
    simp only [State.thread_setThread_self]
    exact ⟨Thread.restore_pc .., rfl, Thread.restore_wsp .., fun _ => rfl, fun j => Thread.restore_w _ _ j⟩

end Sys2Proof.Machine

namespace Sys2Proof.Machine
open Sys2Proof

-- Records ----------------------------------------------------------------------------------------------------------------------------

theorem mkRec_ta (ta : BitVec 20) (kind op : Nat) (tag : Half) (key : Word) (pay : List Word) : (mkRec ta kind op tag key pay).ta = ta := by
  simp (disch := omega) only [Record.ta, mkRec, header, BitVec.extractLsb'_append_eq_of_le, BitVec.extractLsb'_append_eq_of_add_le,
    BitVec.extractLsb'_eq_self, Nat.reduceSub]

theorem mkRec_kind (ta : BitVec 20) {kind : Nat} (op : Nat) (tag : Half) (key : Word) (pay : List Word) (h : kind < 8) :
    (mkRec ta kind op tag key pay).kind = kind := by
  simp (disch := omega) only [Record.kind, mkRec, header, BitVec.extractLsb'_append_eq_of_le, BitVec.extractLsb'_append_eq_of_add_le,
    BitVec.extractLsb'_eq_self, Nat.reduceSub]
  simp; omega

-- Posting ----------------------------------------------------------------------------------------------------------------------------

/-- A record that is posted is on the network, or waits for another device; nothing else changes. -/
theorem State.post_eq (s : State) (sender : Nat) (r : Record) : ∃ net unacked waiting,
    s.post sender r = { s with net := net, wharf := { s.wharf with unacked := unacked, waiting := waiting } } := by
  simp only [State.post]
  split
  · exact ⟨_, s.wharf.unacked, s.wharf.waiting, rfl⟩
  · split
    · exact ⟨s.net, s.wharf.unacked, _, rfl⟩
    · exact ⟨s.net, _, s.wharf.waiting, rfl⟩

theorem post_onItsWay (s : State) (sender : Nat) (r : Record) : OnItsWay (s.post sender r) sender r := by
  simp only [State.post]
  split
  · exact .inl ⟨_, List.mem_append_right _ (List.mem_singleton.mpr rfl), rfl, rfl⟩
  · split
    · exact .inr (.inr ⟨_, List.mem_append_right _ (List.mem_singleton.mpr rfl), rfl⟩)
    · exact .inr (.inl ⟨_, List.mem_append_right _ (List.mem_singleton.mpr rfl), rfl⟩)

-- What posting, memory and engines leave unchanged ----------------------------------------------------------------------------------

/-- What the cores, the groups, the launches and time show is the same: what records, memory and engines do beside it (a frame). -/
structure Aloof (s t : State) : Prop where
  cores : t.cores = s.cores
  coreInit : t.coreInit = s.coreInit
  groups : ∀ d, (t.die d).groups = (s.die d).groups
  launches : t.wharf.launches = s.wharf.launches
  device : t.wharf.device = s.wharf.device
  clk : t.clk = s.clk
  ring : t.ring = s.ring
  core : t.core = s.core
  slot : t.slot = s.slot
  lines : ∀ d, (t.cluster d).lines = (s.cluster d).lines

/-- A thread, the groups, the launches and time are the same: the frame of an operation of another thread. -/
structure Apart (c : Nat) (k : Fin 16) (s t : State) : Prop where
  thread : t.thread c k = s.thread c k
  groups : ∀ d, (t.die d).groups = (s.die d).groups
  launches : t.wharf.launches = s.wharf.launches
  device : t.wharf.device = s.wharf.device
  clk : t.clk = s.clk
  ring : t.ring = s.ring
  core : t.core = s.core
  slot : t.slot = s.slot
  lines : ∀ d, (t.cluster d).lines = (s.cluster d).lines

theorem Aloof.refl (s : State) : Aloof s s := ⟨rfl, rfl, fun _ => rfl, rfl, rfl, rfl, rfl, rfl, rfl, fun _ => rfl⟩

theorem Aloof.trans {s t u : State} (h : Aloof s t) (g : Aloof t u) : Aloof s u :=
  ⟨g.cores.trans h.cores, g.coreInit.trans h.coreInit, fun d => (g.groups d).trans (h.groups d), g.launches.trans h.launches,
    g.device.trans h.device, g.clk.trans h.clk, g.ring.trans h.ring, g.core.trans h.core, g.slot.trans h.slot,
    fun d => (g.lines d).trans (h.lines d)⟩

theorem aloof_post (s : State) (n : Nat) (r : Record) : Aloof s (s.post n r) := by
  obtain ⟨a, b, c, h⟩ := s.post_eq n r
  rw [h]
  exact ⟨rfl, rfl, fun _ => rfl, rfl, rfl, rfl, rfl, rfl, rfl, fun _ => rfl⟩

theorem aloof_fire (s : State) (n : Nat) : Aloof s (fire s n) := by
  simp only [fire]
  split
  · split <;> exact ⟨rfl, rfl, fun _ => rfl, rfl, rfl, rfl, rfl, rfl, rfl, fun _ => rfl⟩
  · exact .refl s

theorem aloof_rawWrite (s : State) (a : Nat) (bs : List Byte) : Aloof s (rawWrite s a bs) :=
  ⟨rfl, rfl, fun _ => rfl, rfl, rfl, rfl, rfl, rfl, rfl, fun _ => rfl⟩

theorem aloof_rekey (s : State) (g l : Nat) : Aloof s (rekey s g l) := by
  unfold rekey
  split
  · exact .refl s
  · exact ⟨rfl, rfl, fun _ => rfl, rfl, rfl, rfl, rfl, rfl, rfl, fun _ => rfl⟩

theorem aloof_iter {f : Nat → State → State} (h : ∀ n s, Aloof s (f n s)) (n : Nat) (s : State) : Aloof s (iter f n s) := by
  induction n with
  | zero => exact .refl s
  | succ n ih => exact ih.trans (h n _)

theorem aloof_physWrite (s : State) (g a : Nat) (bs : List Byte) : Aloof s (physWrite s g a bs) := by
  unfold physWrite
  split
  · exact .refl s
  · split
    · exact aloof_rawWrite ..
    · exact (aloof_iter (fun i s => aloof_rekey s g _) _ s).trans (aloof_rawWrite ..)

/-- The head of the journal moves on, and source 66 fires where the threshold is reached (21 R324). -/
def headOn (u : State) : State :=
  let s := { u with wharf := { u.wharf with jHead := u.wharf.jHead + 1 } }
  if s.wharf.jThreshold ≠ 0 ∧ (s.wharf.jHead - s.wharf.jRead).toNat = s.wharf.jThreshold.toNat then fire s 66 else s

theorem aloof_headOn (u : State) : Aloof u (headOn u) := by
  unfold headOn
  extract_lets _ s
  have h : Aloof u s := ⟨rfl, rfl, fun _ => rfl, rfl, rfl, rfl, rfl, rfl, rfl, fun _ => rfl⟩
  split
  · exact h.trans (aloof_fire _ _)
  · exact h

theorem aloof_journal (s : State) (source : BitVec 20) (kind status refusal : Nat) (tag : Half) (detail : List Word) :
    Aloof s (journal s source kind status refusal tag detail).2 := by
  have e : (journal s source kind status refusal tag detail).2 = headOn (writeEntry s
      { seq := s.wharf.jHead.toNat, w1 := jWord1 source kind status refusal tag, accepted := s.mtime, detail := detail }) := rfl
  rw [e]
  exact (aloof_physWrite s _ _ _).trans (aloof_headOn _)

theorem State.die_setDie_ne (s : State) {d e : Nat} (x : Die) (h : e ≠ d) : (s.setDie d x).die e = s.die e := by
  simp [State.die, State.setDie, SMap.getD_set_ne _ _ _ h]

theorem groups_setDie (s : State) (d : Nat) {x : Die} (h : x.groups = (s.die d).groups) (e : Nat) :
    ((s.setDie d x).die e).groups = (s.die e).groups := by
  by_cases he : e = d
  · subst he; rw [State.die_setDie_self, h]
  · rw [State.die_setDie_ne s x he]

theorem lines_setCluster (s : State) (d : Nat) {x : Cluster} (h : x.lines = (s.cluster d).lines) (e : Nat) :
    ((s.setCluster d x).cluster e).lines = (s.cluster e).lines := by
  by_cases he : e = d
  · subst he; rw [State.cluster_setCluster_self, h]
  · simp [State.cluster, State.setCluster, SMap.getD_set_ne _ _ _ he]

theorem aloof_setEngine (s : State) (e : Eng) (x : Engine) : Aloof s (s.setEngine e x) := by
  cases e with
  | copy cl => exact ⟨rfl, rfl, fun _ => rfl, rfl, rfl, rfl, rfl, rfl, rfl, lines_setCluster s cl rfl⟩
  | gather cl => exact ⟨rfl, rfl, fun _ => rfl, rfl, rfl, rfl, rfl, rfl, rfl, lines_setCluster s cl rfl⟩
  | coll d => exact ⟨rfl, rfl, groups_setDie s d rfl, rfl, rfl, rfl, rfl, rfl, rfl, fun _ => rfl⟩
  | basin d => exact ⟨rfl, rfl, groups_setDie s d rfl, rfl, rfl, rfl, rfl, rfl, rfl, fun _ => rfl⟩

-- What an operation of another thread leaves a thread ------------------------------------------------------------------------------

theorem Apart.refl (c : Nat) (k : Fin 16) (s : State) : Apart c k s s := ⟨rfl, fun _ => rfl, rfl, rfl, rfl, rfl, rfl, rfl, fun _ => rfl⟩

theorem Apart.trans {c : Nat} {k : Fin 16} {s t u : State} (h : Apart c k s t) (g : Apart c k t u) : Apart c k s u :=
  ⟨g.thread.trans h.thread, fun d => (g.groups d).trans (h.groups d), g.launches.trans h.launches,
    g.device.trans h.device, g.clk.trans h.clk, g.ring.trans h.ring, g.core.trans h.core, g.slot.trans h.slot,
    fun d => (g.lines d).trans (h.lines d)⟩

theorem Aloof.getCore {s t : State} (h : Aloof s t) (c : Nat) : t.getCore c = s.getCore c := by
  rw [State.getCore, h.cores, h.coreInit]; rfl

theorem Aloof.apart {s t : State} (h : Aloof s t) (c : Nat) (k : Fin 16) : Apart c k s t :=
  ⟨by rw [State.thread, h.getCore]; rfl, h.groups, h.launches, h.device, h.clk, h.ring, h.core, h.slot, h.lines⟩

theorem apart_setCore {c d : Nat} {k : Fin 16} (s : State) (x : Core) (h : d = c → x.slots.get k = (s.getCore c).slots.get k) :
    Apart c k s (s.setCore d x) := by
  refine ⟨?_, fun _ => rfl, rfl, rfl, rfl, rfl, rfl, rfl, fun _ => rfl⟩
  by_cases e : d = c
  · subst e; rw [State.thread, State.getCore_setCore_self, h rfl]; rfl
  · rw [State.thread, State.getCore_setCore_ne _ _ (Ne.symm e)]; rfl

theorem apart_setThread {c d : Nat} {k j : Fin 16} (s : State) (x : Thread) (h : (c, k) ≠ (d, j)) : Apart c k s (s.setThread d j x) :=
  ⟨State.thread_setThread_ne s x h, fun _ => rfl, rfl, rfl, rfl, rfl, rfl, rfl, fun _ => rfl⟩

theorem apart_count (c : Nat) (k : Fin 16) (s : State) (d : Nat) (tag : Half) (a b : Nat) : Apart c k s (s.count d tag a b) :=
  apart_setCore s _ fun e => by rw [e]

theorem apart_setMe {c : Nat} {k : Fin 16} (s : State) (x : Thread) (h : (c, k) ≠ (s.core, s.slot)) : Apart c k s (s.setMe x) :=
  apart_setThread s x h

theorem apart_move {c : Nat} {k : Fin 16} (s : State) (pc : Option Word) (h : (c, k) ≠ (s.core, s.slot)) : Apart c k s (s.move pc) := by
  cases pc with
  | none => exact .refl c k s
  | some a => exact apart_setMe s _ h

theorem apart_trapThread {c d : Nat} {k j : Fin 16} (s : State) (cause : Nat) (iword : W32) (pc a b : Word) (h : (c, k) ≠ (d, j)) :
    Apart c k s (s.trapThread d j cause iword pc a b) :=
  (apart_setThread s _ h).trans ((aloof_post _ _ _).apart c k)

theorem apart_trap {c : Nat} {k : Fin 16} (s : State) (cause : Nat) (a b : Word) (h : (c, k) ≠ (s.core, s.slot)) :
    Apart c k s (s.trap cause a b) := apart_trapThread s _ _ _ _ _ h

theorem apart_trapRelaxed {c d : Nat} {k j : Fin 16} (s : State) (before : Option Blocked) (done : Bool) (cause : Nat) (x : Access)
    (a b : Word) (h : (c, k) ≠ (d, j)) : Apart c k s (s.trapRelaxed d j before done cause x a b) :=
  (apart_trapThread s _ _ _ _ _ h).trans (apart_setThread _ _ h)

theorem apart_parkRelaxed {c d : Nat} {k j : Fin 16} (s : State) (r : Relaxed) (h : (c, k) ≠ (d, j)) :
    Apart c k s (parkRelaxed s d j r) := by
  unfold parkRelaxed
  extract_lets t was gone
  have hg : Apart c k s gone := apart_setThread s _ h
  split
  · exact hg.trans (apart_trapRelaxed gone _ _ _ _ _ _ h)
  · split
    · exact hg.trans (apart_trapRelaxed gone _ _ _ _ _ _ h)
    · split
      · exact hg.trans (apart_trapRelaxed gone _ _ _ _ _ _ h)
      · exact apart_setThread s _ h

theorem apart_boundary {c d : Nat} {k j : Fin 16} (s : State) (t : Thread) (h : (c, k) ≠ (d, j)) :
    Apart c k s (s.boundary d j t) := by
  unfold State.boundary
  extract_lets u
  have hu : Apart c k s u := apart_setThread s _ h
  split
  · exact (hu.trans (apart_setThread u t h)).trans (apart_trapThread _ _ _ _ _ _ h)
  · split
    · exact hu.trans (apart_parkRelaxed u _ h)
    · split
      · exact hu.trans (apart_setThread u _ h)
      · exact hu

theorem apart_settleThread {c d : Nat} {k j : Fin 16} (s : State) (h : (c, k) ≠ (d, j)) : Apart c k s (s.settleThread d j) := by
  unfold State.settleThread
  extract_lets t _ now
  have hn : Apart c k s now := by
    unfold now
    split
    · exact apart_trapThread s _ _ _ _ _ h
    · split
      · exact apart_parkRelaxed s _ h
      · split
        · exact apart_setThread s _ h
        · exact .refl c k s
  split
  · exact apart_boundary s t h
  · exact hn
  · exact hn
  · exact .refl c k s

theorem apart_accept {c : Nat} {k : Fin 16} (s : State) (m : Cmd) (h : (c, k) ≠ (m.core, m.slot)) : Apart c k s (s.accept m) := by
  unfold State.accept
  extract_lets e x r m' u t p y v
  have hr : Apart c k s r.2 := by
    unfold r
    split
    · exact (aloof_journal s _ _ _ _ _ _).apart c k
    · exact .refl c k s
  exact ((hr.trans ((aloof_setEngine _ _ _).apart c k)).trans (apart_setThread u _ h)).trans (apart_count c k v _ _ _ _)

/-- A command that a submission makes is of the thread that executes. -/
theorem submission_thread {s : State} {p : Fin 4} {b : List Word} {m : Cmd} (h : submission s p b = .ok m) : m.core = s.core ∧ m.slot = s.slot := by
  simp only [submission] at h
  split at h
  · cases h
  · split at h
    · cases h
    · split at h
      · cases h
      · split at h
        · cases h
        · cases h
        · cases h; exact ⟨rfl, rfl⟩

theorem apart_submit {c : Nat} {k : Fin 16} (s : State) (p : Fin 4) (b : List Word) (pc : Option Word) (clear : Bool)
    (h : (c, k) ≠ (s.core, s.slot)) : Apart c k s (s.submit p b pc clear) := by
  unfold State.submit
  split
  · exact apart_trap s _ _ _ h
  · exact apart_trap s _ _ _ h
  · rename_i m hm
    extract_lets u _ v
    have hu : Apart c k s u := apart_move s pc h
    have hv : Apart c k s v := by
      unfold v
      split
      · exact hu.trans (apart_setMe u _ (by rw [hu.core, hu.slot]; exact h))
      · exact hu
    split
    · obtain ⟨hc, hs⟩ := submission_thread hm
      exact hv.trans (apart_accept v m (by rw [hc, hs]; exact h))
    · exact hv.trans (apart_setMe v _ (by rw [hv.core, hv.slot]; exact h))

theorem Thread.retryRead_of_not_reading {t : Thread} (q : Fin 8) (h : ∀ p, t.st ≠ .blocked (.queueRead p)) : t.retryRead q = t := by
  unfold Thread.retryRead
  split
  · rename_i p hp; exact absurd hp (h p)
  · rfl

theorem apart_pushQueue {c d : Nat} {k : Fin 16} (s : State) (q : Fin 8) (v : Word) (h : ∀ p, (s.thread c k).st ≠ .blocked (.queueRead p)) :
    Apart c k s (s.setCore d ((s.getCore d).pushQueue q v)) := by
  refine apart_setCore s _ fun e => ?_
  subst e
  show ((s.getCore d).slots.map (Thread.retryRead q)).get k = _
  rw [Vector.get_map]
  exact Thread.retryRead_of_not_reading q h

theorem apart_finish {c : Nat} {k : Fin 16} (s : State) (d : Dst) (v : Word) (pc : Option Word) (h : (c, k) ≠ (s.core, s.slot))
    (hq : ∀ p, (s.thread c k).st ≠ .blocked (.queueRead p)) : Apart c k s (s.finish d v pc) := by
  cases d with
  | g i => exact (apart_setMe s _ h).trans (apart_move _ pc h)
  | w i => exact (apart_setMe s _ h).trans (apart_move _ pc h)
  | q q =>
    simp only [State.finish]
    split
    · have hm := apart_move s pc h
      exact hm.trans (apart_setMe _ _ (by rw [hm.core, hm.slot]; exact h))
    · exact (apart_pushQueue s q v hq).trans (apart_move _ pc h)
  | e p =>
    simp only [State.finish]
    split
    · exact (apart_setMe s _ h).trans (apart_move _ pc h)
    · exact apart_submit s p _ pc true h

theorem apart_complete {c : Nat} {k : Fin 16} (s : State) (d : Dst) (v : Word) (pc : Option Word) (h : (c, k) ≠ (s.core, s.slot))
    (hq : ∀ p, (s.thread c k).st ≠ .blocked (.queueRead p)) : Apart c k s (s.complete d v pc) := by
  have step : ∀ x : Thread, ∀ pc, Apart c k s ((({ s with iword := s.me.issuedWord } : State).setMe x).finish d v pc) := fun x pc => by
    have h1 : Apart c k s (({ s with iword := s.me.issuedWord } : State).setMe x) :=
      Apart.trans (t := { s with iword := s.me.issuedWord }) ⟨rfl, fun _ => rfl, rfl, rfl, rfl, rfl, rfl, rfl, fun _ => rfl⟩ (apart_setMe _ x h)
    exact h1.trans (apart_finish _ d v pc h (by rw [h1.thread]; exact hq))
  unfold State.complete
  split
  · rename_i a
    have h1 := step { s.me with st := .runnable } (some a)
    exact h1.trans (apart_settleThread _ (by rw [h1.core, h1.slot]; exact h))
  · have h1 := step { s.me with st := .runnable, pc := s.me.issuedPc } none
    extract_lets _ _ u
    have hu : Apart c k s u := h1
    have hne : (c, k) ≠ (u.core, u.slot) := by rw [hu.core, hu.slot]; exact h
    split
    · exact hu
    · exact hu.trans ((apart_setMe u _ hne).trans (apart_settleThread _ hne))

theorem apart_completePc {c : Nat} {k : Fin 16} (s : State) (pc : Option Word) (h : (c, k) ≠ (s.core, s.slot)) :
    Apart c k s (s.completePc pc) := by
  have h1 := (apart_setMe s { s.me with st := .runnable } h).trans (apart_move _ pc h)
  exact h1.trans (apart_settleThread _ (by rw [h1.core, h1.slot]; exact h))

theorem Apart.onThread {c d : Nat} {k j : Fin 16} {s : State} {f : State → State} (h : Apart c k (s.as d j) (f (s.as d j))) :
    Apart c k s (s.onThread d j f) :=
  ⟨h.thread, h.groups, h.launches, h.device, h.clk, h.ring, rfl, rfl, h.lines⟩

theorem apart_moorDone {c d : Nat} {k j : Fin 16} (s : State) (x : Dst) (len : Nat) (v : Word) (h : (c, k) ≠ (d, j))
    (hq : ∀ p, (s.thread c k).st ≠ .blocked (.queueRead p)) : Apart c k s (s.moorDone d j x len v) :=
  Apart.onThread (apart_complete (s.as d j) x v _ h hq)

end Sys2Proof.Machine

namespace Sys2Proof.Machine
open Sys2Proof

-- What engines, groups and posting change ---------------------------------------------------------------------------------------------

@[simp] theorem State.setEngine_cores (s : State) (e : Eng) (x : Engine) : (s.setEngine e x).cores = s.cores := by cases e <;> rfl
@[simp] theorem State.setEngine_coreInit (s : State) (e : Eng) (x : Engine) : (s.setEngine e x).coreInit = s.coreInit := by cases e <;> rfl
@[simp] theorem State.setEngine_wharf (s : State) (e : Eng) (x : Engine) : (s.setEngine e x).wharf = s.wharf := by cases e <;> rfl
@[simp] theorem State.setEngine_net (s : State) (e : Eng) (x : Engine) : (s.setEngine e x).net = s.net := by cases e <;> rfl
@[simp] theorem State.setEngine_clk (s : State) (e : Eng) (x : Engine) : (s.setEngine e x).clk = s.clk := by cases e <;> rfl
@[simp] theorem State.setEngine_mem (s : State) (e : Eng) (x : Engine) : (s.setEngine e x).mem = s.mem := by cases e <;> rfl
@[simp] theorem State.orphanCmds_cores (s : State) (c : Nat) (k : Fin 16) : (s.orphanCmds c k).cores = s.cores := by simp [State.orphanCmds]
@[simp] theorem State.orphanCmds_coreInit (s : State) (c : Nat) (k : Fin 16) : (s.orphanCmds c k).coreInit = s.coreInit := by
  simp [State.orphanCmds]
@[simp] theorem State.orphanCmds_wharf (s : State) (c : Nat) (k : Fin 16) : (s.orphanCmds c k).wharf = s.wharf := by simp [State.orphanCmds]
@[simp] theorem State.orphanCmds_net (s : State) (c : Nat) (k : Fin 16) : (s.orphanCmds c k).net = s.net := by simp [State.orphanCmds]
@[simp] theorem State.orphanCmds_clk (s : State) (c : Nat) (k : Fin 16) : (s.orphanCmds c k).clk = s.clk := by simp [State.orphanCmds]
@[simp] theorem State.orphanCmds_mem (s : State) (c : Nat) (k : Fin 16) : (s.orphanCmds c k).mem = s.mem := by simp [State.orphanCmds]

theorem State.getCore_congr {s t : State} (h : t.cores = s.cores) (i : t.coreInit = s.coreInit) (c : Nat) : t.getCore c = s.getCore c := by
  rw [State.getCore, h, i]; rfl

@[simp] theorem State.thread_post (s : State) (n : Nat) (r : Record) (c : Nat) (k : Fin 16) : (s.post n r).thread c k = s.thread c k :=
  ((aloof_post s n r).apart c k).thread

@[simp] theorem State.getCore_post (s : State) (n : Nat) (r : Record) (c : Nat) : (s.post n r).getCore c = s.getCore c :=
  (aloof_post s n r).getCore c

@[simp] theorem namesCore_post (s : State) (n : Nat) (r : Record) (a : Half) : namesCore (s.post n r) a = namesCore s a := by
  obtain ⟨x, y, z, h⟩ := s.post_eq n r; rw [h]; rfl

@[simp] theorem coreAddress_post (s : State) (n : Nat) (r : Record) (c : Nat) : coreAddress (s.post n r) c = coreAddress s c := by
  obtain ⟨x, y, z, h⟩ := s.post_eq n r; rw [h]; rfl

@[simp] theorem device_post (s : State) (n : Nat) (r : Record) : (s.post n r).wharf.device = s.wharf.device := (aloof_post s n r).device

/-- A record that is on its way stays so when another is posted. -/
theorem onItsWay_post {s : State} {m : Nat} {q : Record} (n : Nat) (r : Record) (h : OnItsWay s m q) : OnItsWay (s.post n r) m q := by
  simp only [State.post]
  rcases h with ⟨f, hf, hs⟩ | ⟨p, hp, hr⟩ | ⟨p, hp, hr⟩
  · split
    · exact .inl ⟨f, List.mem_append_left _ hf, hs⟩
    · split <;> exact .inl ⟨f, hf, hs⟩
  · split
    · exact .inr (.inl ⟨p, hp, hr⟩)
    · split
      · exact .inr (.inl ⟨p, hp, hr⟩)
      · exact .inr (.inl ⟨p, List.mem_append_left _ hp, hr⟩)
  · split
    · exact .inr (.inr ⟨p, hp, hr⟩)
    · split
      · exact .inr (.inr ⟨p, List.mem_append_left _ hp, hr⟩)
      · exact .inr (.inr ⟨p, hp, hr⟩)

theorem onItsWay_postAll_of {s : State} {m : Nat} {q : Record} (n : Nat) (l : List Record) (h : OnItsWay s m q) :
    OnItsWay (s.postAll n l) m q := by
  induction l generalizing s with
  | nil => exact h
  | cons r l ih => exact ih (onItsWay_post n r h)

theorem onItsWay_postAll {s : State} {n : Nat} {l : List Record} {r : Record} (h : r ∈ l) : OnItsWay (s.postAll n l) n r := by
  induction l generalizing s with
  | nil => cases h
  | cons q l ih =>
    rcases List.mem_cons.mp h with rfl | h
    · exact onItsWay_postAll_of n l (post_onItsWay s n r)
    · exact ih h

theorem aloof_postAll (s : State) (n : Nat) (l : List Record) : Aloof s (s.postAll n l) := by
  induction l generalizing s with
  | nil => exact .refl s
  | cons r l ih => exact (aloof_post s n r).trans (ih _)

/-- Records for this device join the network in the order in which they are posted. -/
theorem postAll_net {s : State} {n : Nat} {l : List Record} (h : ∀ r ∈ l, (fld r.ta 16 4 : BitVec 4) = s.wharf.device) :
    ((s.postAll n l).net.map fun f => (f.sender, f.r)) = (s.net.map fun f => (f.sender, f.r)) ++ l.map fun r => (n, r) := by
  induction l generalizing s with
  | nil => simp [State.postAll]
  | cons r l ih =>
    have hr := h r (List.mem_cons_self ..)
    rw [State.postAll, ih (s := s.post n r) (fun q hq => by rw [device_post]; exact h q (List.mem_cons_of_mem _ hq))]
    have e : ((s.post n r).net.map fun f => (f.sender, f.r)) = (s.net.map fun f => (f.sender, f.r)) ++ [(n, r)] := by
      simp [State.post, hr]
    rw [e, List.map_cons, List.append_assoc]
    rfl

-- Retirement --------------------------------------------------------------------------------------------------------------------------

/-- The slot of a thread that has ended or been killed, its groups left and its commands orphaned, where it towed nobody and no keeper waits in
kfence. -/
theorem State.vacate_quiet {s : State} {c : Nat} {k : Fin 16} (ht : ∀ g r, (s.thread c k).tow ≠ .motor g r)
    (hk : k = 0 ∨ (s.thread c 0).st ≠ .removed .kfence) : s.vacate c k =
      let u := (s.leaveGroups (taNum c k)).orphanCmds c k
      (u.setCore c { u.getCore c with weir := (u.getCore c).weir.forget k }).setThread c k ((s.thread c k).vacant u.clk) := by
  have key : ∀ v : State, (v.thread c 0).st ≠ .removed .kfence → v.keeperFence c = v := fun v hv => by
    unfold State.keeperFence
    split
    · rename_i h; exact absurd h hv
    · rfl
  unfold State.vacate
  simp only []
  refine key _ ?_
  by_cases h0 : k = 0
  · subst h0
    rw [State.thread_setThread_self]
    simp [Thread.vacant]
  · rw [State.thread_setThread_slot _ _ _ (Ne.symm h0)]
    have h := hk.resolve_left h0
    unfold State.thread at h ⊢
    rw [State.getCore_setCore_self]
    rw [State.getCore_congr (s := s) (by simp [State.leaveGroups]) (by simp [State.leaveGroups])]
    exact h

/-- What a thread's vacated slot and core look like, and what the rest of the device keeps. -/
theorem State.vacate_spec {s : State} {c : Nat} {k : Fin 16} (ht : ∀ g r, (s.thread c k).tow ≠ .motor g r)
    (hk : k = 0 ∨ (s.thread c 0).st ≠ .removed .kfence) :
    (s.vacate c k).thread c k = (s.thread c k).vacant s.clk ∧ ((s.vacate c k).getCore c).counts = (s.getCore c).counts ∧
      (s.vacate c k).net = s.net ∧ (s.vacate c k).wharf = s.wharf ∧ (s.vacate c k).mem = s.mem := by
  have hc : ((s.leaveGroups (taNum c k)).orphanCmds c k).getCore c = s.getCore c := State.getCore_congr (by simp [State.leaveGroups]) (by simp [State.leaveGroups]) c
  rw [State.vacate_quiet ht hk]
  refine ⟨?_, ?_, ?_, ?_, ?_⟩
  · rw [State.thread_setThread_self]
    simp [State.leaveGroups]
  · show ((State.setCore _ c _).getCore c).counts = _
    rw [State.getCore_setCore_self]
    show (State.getCore (State.setCore _ c _) c).counts = _
    rw [State.getCore_setCore_self, hc]
  · simp [State.leaveGroups]
  · simp [State.leaveGroups]
  · simp [State.leaveGroups]

/-- What a task's decrement of one counter address posts: the decrement, or a report (08 R159). -/
def decRecord (s : State) (c : Nat) (k : Fin 16) (tag : Half) (a : Word) : Record :=
  if namesCore s (fld a 48 16) then mkRec (coreTa (fld a 48 16)) kC 1 tag a [1]
  else mkRec (coreTa (coreAddress s c)) kK 0 tag 0 (trapPayload 0x05 k.val true 0 (s.thread c k).pc a 0)

theorem State.decrement_eq (s : State) (c : Nat) (k : Fin 16) (tag : Half) (a : Word) :
    s.decrement c k tag a = s.post (senderThread c k) (decRecord s c k tag a) := by
  unfold State.decrement decRecord
  split <;> rfl

theorem decRecord_post (s : State) (n : Nat) (r : Record) (c : Nat) (k : Fin 16) (tag : Half) (a : Word) :
    decRecord (s.post n r) c k tag a = decRecord s c k tag a := by
  simp [decRecord]

theorem State.decrementAll_eq (s : State) (c : Nat) (k : Fin 16) (tag : Half) (l : List Word) :
    s.decrementAll c k tag l = s.postAll (senderThread c k) (l.map (decRecord s c k tag)) := by
  induction l generalizing s with
  | nil => rfl
  | cons a l ih =>
    rw [State.decrementAll, State.decrement_eq, ih, List.map_cons, State.postAll,
      List.map_congr_left fun b _ => decRecord_post s (senderThread c k) (decRecord s c k tag a) c k tag b]

/-- The counters that a task decrements as it retires, in order (08 R159). -/
def retireCounters (s : State) (c : Nat) (x : Thread) : List Word :=
  (if x.parent = 0 then [] else [x.parent]) ++ (if x.succ = 0 then [] else succList s (dieOf c) x.succ 15)

/-- The state in which a retiring task has been counted and its decrements posted. -/
def retired (s : State) (c : Nat) (k : Fin 16) : State :=
  let x := s.thread c k
  if x.isTask then (s.count c x.tag 0 1).decrementAll c k x.tag (retireCounters s c x) else s.count c x.tag 0 1

@[simp] theorem State.count_counts (s : State) (c : Nat) (tag : Half) (a b : Nat) :
    SMap.getD ((s.count c tag a b).getCore c).counts tag.toNat {} =
      { created := (SMap.getD (s.getCore c).counts tag.toNat {}).created + a, retired := (SMap.getD (s.getCore c).counts tag.toNat {}).retired + b } := by
  simp [State.count]

@[simp] theorem State.thread_count (s : State) (d : Nat) (tag : Half) (a b : Nat) (c : Nat) (k : Fin 16) :
    (s.count d tag a b).thread c k = s.thread c k := (apart_count c k s d tag a b).thread

theorem decRecord_count (s : State) (d : Nat) (g : Half) (m n : Nat) (c : Nat) (k : Fin 16) (tag : Half) (a : Word) :
    decRecord (s.count d g m n) c k tag a = decRecord s c k tag a := by
  simp only [decRecord, State.thread_count]
  rfl

theorem retired_eq (s : State) (c : Nat) (k : Fin 16) : ∃ l, retired s c k = (s.count c (s.thread c k).tag 0 1).postAll (senderThread c k) l ∧
    ((s.thread c k).isTask = true → l = (retireCounters s c (s.thread c k)).map (decRecord s c k (s.thread c k).tag)) := by
  simp only [retired]
  cases h : (s.thread c k).isTask
  · exact ⟨[], rfl, fun e => by cases e⟩
  · refine ⟨_, ?_, fun _ => rfl⟩
    rw [if_pos rfl, State.decrementAll_eq, List.map_congr_left fun b _ => decRecord_count s c _ 0 1 c k _ b]

theorem exec_threadRetire {s : State} {c : Nat} {k : Fin 16} (hst : (s.thread c k).st = .removed .ending)
    (hr : (s.thread c k).relaxed = []) (hs : (s.thread c k).serving = none) :
    exec (.threadRetire c k) s = .next ((retired s c k).vacate c k) := by
  show execThreadRetire c k s = _
  simp only [execThreadRetire, hst, hr, List.isEmpty_nil, if_true, State.retire, hs]
  rfl

/-- A thread that retires without a tow and with no keeper in kfence: its core's counts, and the records that it posts. -/
theorem threadRetire_spec {s : State} {c : Nat} {k : Fin 16} (hst : (s.thread c k).st = .removed .ending)
    (hr : (s.thread c k).relaxed = []) (hs : (s.thread c k).serving = none) (ht : (s.thread c k).tow = .none)
    (hk : (s.thread c 0).st ≠ .removed .kfence) : ∃ t u l, exec (.threadRetire c k) s = .next t ∧
      u = (s.count c (s.thread c k).tag 0 1).postAll (senderThread c k) l ∧ t.thread c k = (s.thread c k).vacant s.clk ∧
      (t.getCore c).counts = (u.getCore c).counts ∧ t.net = u.net ∧ t.wharf = u.wharf ∧
      ((s.thread c k).isTask = true → l = (retireCounters s c (s.thread c k)).map (decRecord s c k (s.thread c k).tag)) := by
  obtain ⟨l, e, hl⟩ := retired_eq s c k
  have ha : ∀ d j, (retired s c k).thread d j = s.thread d j := fun d j => by
    rw [e, ((aloof_postAll _ _ _).apart d j).thread, State.thread_count]
  obtain ⟨h1, h2, h3, h4, -⟩ := State.vacate_spec (s := retired s c k) (c := c) (k := k) (fun g r => by rw [ha, ht]; simp)
    (.inr (by rw [ha]; exact hk))
  refine ⟨_, retired s c k, l, exec_threadRetire hst hr hs, e, ?_, h2, h3, h4, hl⟩
  rw [h1, ha, e, (aloof_postAll _ _ _).clk]
  rfl

-- The end of a tow that a motor leaves -------------------------------------------------------------------------------------------------

@[simp] theorem taNum_div (c : Nat) (k : Fin 16) : taNum c k / 16 = c := by
  have := k.isLt
  simp only [taNum]; omega

@[simp] theorem taNum_slot (c : Nat) (k : Fin 16) : Fin.ofNat 16 (taNum c k) = k := by
  have := k.isLt
  apply Fin.ext
  show (c * 16 + k.val) % 16 = k.val
  omega

/-- A butty of a group is one by its part in the tow. -/
theorem mem_butties {s : State} {gid : Half} {ta : Nat} (h : ta ∈ butties s gid) : (s.thread (ta / 16) (Fin.ofNat 16 ta)).tow = .butty gid := by
  simp only [butties, List.mem_map, List.mem_filter] at h
  obtain ⟨p, ⟨-, hp⟩, rfl⟩ := h
  rw [taNum_div, taNum_slot]
  exact beq_iff_eq.mp hp

theorem apart_freeButties {c : Nat} {k : Fin 16} (s : State) (gid : Half) (l : List Nat)
    (h : ∀ ta ∈ l, (c, k) ≠ (ta / 16, Fin.ofNat 16 ta)) : Apart c k s (s.freeButties gid l) := by
  induction l generalizing s with
  | nil => exact .refl c k s
  | cons ta l ih =>
    exact (apart_setThread s _ (h ta (List.mem_cons_self ..))).trans (ih _ fun b hb => h b (List.mem_cons_of_mem _ hb))

theorem apart_moorAway {c : Nat} {k : Fin 16} (s : State) (gid : Half) (but : Option Nat) (l : List Nat)
    (hm : ∀ d n, (s.thread c k).st ≠ .blocked (.moor gid d n)) (hq : ∀ p, (s.thread c k).st ≠ .blocked (.queueRead p)) :
    Apart c k s (s.moorAway gid but l) := by
  induction l generalizing s with
  | nil => exact .refl c k s
  | cons ta l ih =>
    have step : ∀ u, Apart c k s u → Apart c k s (u.moorAway gid but l) := fun u hu =>
      hu.trans (ih u (by rw [hu.thread]; exact hm) (by rw [hu.thread]; exact hq))
    rw [State.moorAway]
    refine step _ ?_
    split
    · rename_i g d n hst
      split
      · rename_i hg
        refine apart_moorDone s d n 0 (fun e => ?_) hq
        obtain ⟨e1, e2⟩ := Prod.mk.injEq .. ▸ e
        rw [← e1, ← e2, hg.1] at hst
        exact hm d n hst
      · exact .refl c k s
    · exact .refl c k s

theorem State.group_congr {s t : State} (h : ∀ d, (t.die d).groups = (s.die d).groups) (g : Half) : t.group g = s.group g := by
  rw [State.group, h]; rfl

@[simp] theorem State.group_setGroup_self (s : State) (g : Half) (x : Group) : (s.setGroup g x).group g = x := by
  simp [State.group, State.setGroup]

/-- A tow that dissolves: a thread that is neither its butty nor waits in moor on it, nor for a queue, is as before, and so is the group but for its
tow's state. -/
theorem apart_dissolve {c : Nat} {k : Fin 16} (s : State) (gid : Half) (hb : (s.thread c k).tow ≠ .butty gid)
    (hm : ∀ d n, (s.thread c k).st ≠ .blocked (.moor gid d n)) (hq : ∀ p, (s.thread c k).st ≠ .blocked (.queueRead p)) :
    Apart c k (s.setGroup gid { s.group gid with tow := 2 }) (s.dissolve gid) := by
  have h1 := apart_freeButties (s.setGroup gid { s.group gid with tow := 2 }) gid (butties s gid) (c := c) (k := k) fun ta h e => by
    obtain ⟨e1, e2⟩ := Prod.mk.injEq .. ▸ e
    have := mem_butties h
    rw [← e1, ← e2] at this
    exact hb this
  exact h1.trans (apart_moorAway _ gid none _ (by rw [h1.thread]; exact hm) (by rw [h1.thread]; exact hq))

theorem dissolve_tow {c : Nat} {k : Fin 16} (s : State) (gid : Half) (hb : (s.thread c k).tow ≠ .butty gid)
    (hm : ∀ d n, (s.thread c k).st ≠ .blocked (.moor gid d n)) (hq : ∀ p, (s.thread c k).st ≠ .blocked (.queueRead p)) :
    (s.dissolve gid).thread c k = s.thread c k ∧ (s.dissolve gid).group gid = { s.group gid with tow := 2 } := by
  have h := apart_dissolve s gid hb hm hq
  exact ⟨h.thread, by rw [State.group_congr h.groups, State.group_setGroup_self]⟩

/-- A motor that is Runnable leaves its tow. -/
theorem leaveTow_motor {s : State} {gid : Half} {r : Word} (ht : s.me.tow = .motor gid r) (hr : s.me.st = .runnable) :
    s.leaveTow.me = { s.me with tow := .none, fwd := [] } ∧ s.leaveTow.group gid = { s.group gid with tow := 2 } := by
  obtain ⟨h1, h2⟩ := dissolve_tow (c := s.core) (k := s.slot) s gid (by show s.me.tow ≠ _; rw [ht]; simp) (fun d n => by show s.me.st ≠ _; rw [hr]; simp)
    (fun p => by show s.me.st ≠ _; rw [hr]; simp)
  have hc := (apart_dissolve (c := s.core) (k := s.slot) s gid (by show s.me.tow ≠ _; rw [ht]; simp) (fun d n => by show s.me.st ≠ _; rw [hr]; simp)
    (fun p => by show s.me.st ≠ _; rw [hr]; simp))
  have hme : (s.dissolve gid).me = s.me := by
    rw [State.me, hc.core, hc.slot]; exact h1
  rw [State.leaveTow]
  simp only [ht, State.setMe_me, hme]
  exact ⟨trivial, h2⟩

-- Thread control -----------------------------------------------------------------------------------------------------------------------

theorem giveWay_me (s : State) (i : Instr) : (s.giveWay i).me = { s.me.performed (nextPc s.me (lengthOf i)) with yielding := true } := by
  simp [State.giveWay, State.advance, State.goTo]

theorem Thread.performed_motor {t : Thread} {gid : Half} {r : Word} (pc : Word) (h : t.tow = .motor gid r) :
    (t.performed pc).tow = .motor gid r := by
  simp [Thread.performed, Thread.performedAs, Thread.isButty, h]

theorem exec_endT_ready {s : State} (h : Ready s .endT) : exec .endT s = .next (if s.slot.val ≠ 0 then s.remove .ending
    else match s.me.tow with
      | .motor _ _ => (s.giveWay .endT).leaveTow
      | _ => s.giveWay .endT) :=
  (congrArg Host.Outcome.next (State.gated_ready h _)).trans rfl

/-- In slot 0 end is a yield, which dissolves a motor's tow. -/
theorem endT_of_keeper {s : State} (h : Ready s .endT) (h0 : s.slot = 0) (hr : s.me.st = .runnable) :
    ∃ t, exec .endT s = .next t ∧ t.me.yielding = true ∧ t.me.pc = s.me.pc + 4 ∧ t.me.st = .runnable ∧
      ∀ gid a, s.me.tow = .motor gid a → t.me.tow = .none ∧ (t.group gid).tow = 2 := by
  have hm := giveWay_me s .endT
  have hpc : nextPc s.me (lengthOf .endT) = s.me.pc + 4 := rfl
  refine ⟨_, exec_endT_ready h, ?_⟩
  rw [if_neg (by rw [h0]; simp)]
  by_cases ht : ∃ gid a, s.me.tow = .motor gid a
  · obtain ⟨gid, a, ht⟩ := ht
    obtain ⟨h1, h2⟩ := leaveTow_motor (s := s.giveWay .endT) (gid := gid) (r := a) (by rw [hm]; exact Thread.performed_motor _ ht)
      (by rw [hm]; simpa using hr)
    simp only [ht, h1, hm]
    refine ⟨trivial, ?_, ?_, fun g b e => ?_⟩
    · rw [Thread.performed_pc, hpc]
    · rw [Thread.performed_st, hr]
    · cases e
      exact ⟨trivial, by rw [h2]⟩
  · have hn : ∀ gid a, s.me.tow ≠ .motor gid a := fun gid a e => ht ⟨gid, a, e⟩
    simp only [hm]
    refine ⟨trivial, ?_, ?_, fun g b e => absurd e (hn g b)⟩
    · rw [Thread.performed_pc, hpc]
    · rw [Thread.performed_st, hr]

theorem exec_wait_ready {s : State} {a : Src} (h : Ready s (.wait a)) : exec (.wait a) s = .next (
    if (after1 s a).me.ev &&& waitMask (val1 s a) ≠ 0 then (after1 s a).advance (.wait a)
    else (after1 s a).block (.wait (waitMask (val1 s a)) (lengthOf (.wait a)))) := by
  show execWait a s = _
  rw [execWait, State.gated_ready h]
  rfl

theorem threadControl : Claims.ThreadControl := by
  refine ⟨fun s h hs => ?_, fun s h h0 hr => endT_of_keeper h h0 hr, fun s => ?_, fun s a h => ?_, fun s a h => ?_⟩
  · rw [exec_endT_ready h]
    exact congrArg _ (if_pos fun e => hs (Fin.ext e))
  · refine ⟨s.giveWay .yield, rfl, ?_⟩
    rw [giveWay_me]
    refine ⟨rfl, ?_, ?_⟩
    · exact Thread.performed_pc ..
    · exact Thread.performed_st ..
  · intro m
    refine ⟨fun hm => ?_, fun hm => ?_⟩
    · rw [exec_wait_ready h]
      exact congrArg _ (if_pos hm)
    · rw [exec_wait_ready h]
      exact congrArg _ (if_neg fun e => e hm)
  · have e : exec (.alarm a) s = .next (((after1 s a).advance (.alarm a)).setMe
        { ((after1 s a).advance (.alarm a)).me with alarm := val1 s a, alarmFrom := ((after1 s a).advance (.alarm a)).clk + 1 }) := by
      show execAlarm a s = _
      rw [execAlarm, State.gated_ready h]
      rfl
    refine ⟨_, e, ?_⟩
    rw [State.setMe_me]
    refine ⟨rfl, ?_⟩
    show ((after1 s a).advance (.alarm a)).me.pc = _
    rw [State.advance, State.goTo, State.setMe_me, Thread.performed_pc]

-- Alarms, timeouts and retirement -----------------------------------------------------------------------------------------------------

theorem kwdTimeout_sets {s : State} {c : Nat} {k : Fin 16} (hb : blockedLong (s.thread c k) = true) (hs : (s.thread c k).since + 4096 < s.clk) :
    ∃ t, exec (.kwdTimeout c k) s = .next t ∧ (t.getCore c).kwd.getLsbD k.val = true := by
  have e : exec (.kwdTimeout c k) s = .next (s.setCore c { s.getCore c with kwd := (s.getCore c).kwd ||| (1 : Half) <<< k.val }) := by
    show execKwdTimeout c k s = _
    simp [execKwdTimeout, hb, hs]
  refine ⟨_, e, ?_⟩
  rw [State.getCore_setCore_self]
  have := k.isLt
  simp [this]

theorem alarmTimeoutAndRetirement : Claims.AlarmTimeoutAndRetirement := by
  refine ⟨fun s c k he ha hn hf => ?_, fun s c k m n hb hs => kwdTimeout_sets (by simp [blockedLong, hb]) hs,
    fun s c k gid n hb hs => kwdTimeout_sets (by simp [blockedLong, hb]) hs, fun s c k h => ?_, fun s c k h => ?_,
    fun s c k hst hr hs ht hk => ?_⟩
  · have hd : (s.thread c k).alarmDue s.clk = true := by
      simp only [Thread.alarmDue, Bool.and_eq_true, bne_iff_ne, decide_eq_true_eq]
      exact ⟨⟨⟨he, ha⟩, hn⟩, hf⟩
    have e : exec (.alarmExpiry c k) s = .next ((s.setThread c k { s.thread c k with alarm := 0 }).post (senderThread c k)
        (ownWake s c k (s.thread c k).tag ((1 : Word) <<< 63))) := by
      show execAlarmExpiry c k s = _
      simp only [execAlarmExpiry, hd, if_true]
    refine ⟨_, e, ?_, ?_⟩
    · rw [State.thread_post, State.thread_setThread_self]
    · exact post_onItsWay _ _ _
  · show execKwdTimeout c k s = _
    rw [execKwdTimeout]
    refine congrArg _ (if_neg ?_)
    rw [Bool.and_eq_true, decide_eq_true_eq, not_and]
    intro hb
    rcases h with h | h
    · rw [h] at hb; cases hb
    · omega
  · have := List.find?_some h
    simpa [slotFree] using this
  · obtain ⟨t, u, l, e, hu, h1, h2, -⟩ := threadRetire_spec hst hr hs ht hk
    refine ⟨t, e, by rw [h1]; rfl, by rw [h1]; rfl, ?_⟩
    rw [h2, hu, (aloof_postAll _ _ _).getCore, State.count_counts]

theorem retirementDecrements : Claims.RetirementDecrements := by
  refine ⟨fun s c k hst hr hs ht hk hi => ?_, fun s d off n => ⟨rfl, rfl⟩⟩
  intro x l dec bad
  obtain ⟨t, u, q, e, hu, -, -, hn, hw, hq⟩ := threadRetire_spec hst hr hs ht hk
  have hq : q = l.map (decRecord s c k x.tag) := hq hi
  have hd : ∀ a, decRecord s c k x.tag a = if namesCore s (fld a 48 16) = true then dec a else bad a := fun a => rfl
  refine ⟨fun a ha => ⟨t, e, ?_⟩, fun h => ⟨t, [], e, ?_⟩⟩
  · have hm : OnItsWay u (senderThread c k) (decRecord s c k x.tag a) := by
      rw [hu, hq]
      exact onItsWay_postAll (List.mem_map_of_mem ha)
    rw [← hd]
    unfold OnItsWay
    rw [hn, hw]
    exact hm
  · have hdec : l.map (decRecord s c k x.tag) = l.map dec := List.map_congr_left fun a ha => by rw [hd, if_pos (h a ha).1]
    rw [hn, hu, hq, hdec, postAll_net (s := s.count c (s.thread c k).tag 0 1) fun r hr' => ?_, List.map_map, List.append_nil]
    · rfl
    · obtain ⟨a, ha, rfl⟩ := List.mem_map.mp hr'
      show (fld (dec a).ta 16 4 : BitVec 4) = s.wharf.device
      rw [mkRec_ta, ← (h a ha).2]
      simp (disch := omega) only [coreTa, BitVec.extractLsb'_append_eq_of_le, Nat.reduceSub]
      exact fld_fld a (by omega)

/-- Settles O13: the instructions from their meanings; a retirement posts its list and vacates its slot. -/
theorem threadControlAndRetirement : Obligations.ThreadControlAndRetirement :=
  ⟨threadControl, alarmTimeoutAndRetirement, retirementDecrements⟩

end Sys2Proof.Machine

namespace Sys2Proof.Machine
open Sys2Proof

-- Repeated updates of one thread ----------------------------------------------------------------------------------------------------

theorem SMap.set_set {α : Type} (m : SMap α) (a : Nat) (x y : α) : SMap.set (SMap.set m a x) a y = SMap.set m a y := by
  induction m with
  | nil => simp [SMap.set]
  | cons p l ih =>
    obtain ⟨b, v⟩ := p
    rcases Nat.lt_trichotomy a b with h | h | h
    · simp [SMap.set, h]
    · subst h; simp [SMap.set]
    · simp [SMap.set, Nat.lt_asymm h, Nat.ne_of_gt h, ih]

@[simp] theorem State.setCore_setCore (s : State) (c : Nat) (x y : Core) : (s.setCore c x).setCore c y = s.setCore c y := by
  simp [State.setCore, SMap.set_set]

@[simp] theorem State.setThread_setThread (s : State) (c : Nat) (k : Fin 16) (t u : Thread) :
    (s.setThread c k t).setThread c k u = s.setThread c k u := by
  simp [State.setThread, Vector.set_set]

@[simp] theorem State.setMe_setMe (s : State) (t u : Thread) : (s.setMe t).setMe u = s.setMe u :=
  State.setThread_setThread s s.core s.slot t u

theorem Thread.run_of_runnable {t : Thread} (h : t.st = .runnable) : t.run = t := by
  rw [Thread.run, ← h]

/-- What a boundary looks at in a thread is the same. -/
def SameDue (t u : Thread) : Prop := u.dogDue = t.dogDue ∧ u.parkDue = t.parkDue ∧ u.relaxed = t.relaxed ∧ u.tag = t.tag

theorem sameDue_performed (t : Thread) (pc : Word) : SameDue t (t.performed pc) := by simp [SameDue]

theorem sameDue_putReg (t : Thread) (d : Dst) (v : Word) : SameDue t (t.putReg d v) := by
  cases d <;> exact ⟨rfl, rfl, rfl, rfl⟩

@[simp] theorem Thread.putReg_st (t : Thread) (d : Dst) (v : Word) : (t.putReg d v).st = t.st := by cases d <;> rfl
@[simp] theorem Thread.putReg_tow (t : Thread) (d : Dst) (v : Word) : (t.putReg d v).tow = t.tow := by cases d <;> rfl

theorem SameDue.trans {t u v : Thread} (h : SameDue t u) (g : SameDue u v) : SameDue t v :=
  ⟨g.1.trans h.1, g.2.1.trans h.2.1, g.2.2.1.trans h.2.2.1, g.2.2.2.trans h.2.2.2⟩

/-- Nothing is due where a thread is like one for which nothing is. -/
theorem State.boundary_of_calm {s u : State} {c : Nat} {k : Fin 16} {t : Thread} (h : Calm s c k) (hd : SameDue (s.thread c k) t)
    (hl : u.wharf.launches = s.wharf.launches) : u.boundary c k t = u.setThread c k t.run := by
  obtain ⟨h1, h2, h3, h4⟩ := h
  obtain ⟨d1, d2, d3, d4⟩ := hd
  refine State.boundary_calm c k (d1.trans h1) (d2.trans h2) ((failedRelaxed_of_relaxed d3).trans h3) ?_
  rw [d4]
  unfold graceOver State.launch at h4 ⊢
  rw [hl]
  exact h4

/-- A thread that is Runnable and for which nothing is due settles as it is. -/
theorem State.settleThread_of_calm {s u : State} {c : Nat} {k : Fin 16} {t : Thread} (h : Calm s c k) (hd : SameDue (s.thread c k) t)
    (hl : u.wharf.launches = s.wharf.launches) (hr : t.st = .runnable) : (u.setThread c k t).settleThread c k = u.setThread c k t := by
  unfold State.settleThread
  simp only [State.thread_setThread_self, hr]
  rw [State.boundary_of_calm h hd (by exact hl), State.setThread_setThread, Thread.run_of_runnable hr]

-- Results in registers ---------------------------------------------------------------------------------------------------------------

/-- A register as a destination: the thread's register, and then its pc. -/
theorem State.finish_plain {s : State} {d : Dst} (h : plainDst d = true) (v : Word) (pc : Option Word) :
    s.finish d v pc = (s.setMe (s.me.putReg d v)).move pc := by
  cases d with
  | g i => rfl
  | w i => rfl
  | q i => cases h
  | e i => cases h

/-- A state in which a completion reports the instruction that its thread issued last. -/
def State.reporting (s : State) : State := { s with iword := s.me.issuedWord }

/-- A thread whose completion writes its destination with the pc at the instruction. -/
def Thread.atIssue (t : Thread) : Thread := { t with st := .runnable, pc := t.issuedPc }

/-- A thread whose pc is another's. -/
def Thread.atPc (t : Thread) (pc : Word) : Thread := { t with pc := pc }

theorem State.complete_none_of {s : State} {d : Dst} {v : Word} {x : Thread}
    (hu : (s.reporting.setMe s.me.atIssue).finish d v none = s.reporting.setMe x) (hx : x.st = .runnable) :
    s.complete d v none = (s.reporting.setMe (x.atPc s.me.pc)).settleDone := by
  have e : s.complete d v none = match ((s.reporting.setMe s.me.atIssue).finish d v none).me.st with
      | .parked _ => (s.reporting.setMe s.me.atIssue).finish d v none
      | _ => (((s.reporting.setMe s.me.atIssue).finish d v none).setMe
          (((s.reporting.setMe s.me.atIssue).finish d v none).me.atPc s.me.pc)).settleDone := rfl
  rw [e, hu]
  simp only [State.setMe_me, hx, State.setMe_setMe]

/-- The operation of a thread for which nothing is due completes with a result in a register; its pc moved when the operation began. -/
theorem State.complete_plain {s : State} {d : Dst} (hd : plainDst d = true) (v : Word) (h : Calm s s.core s.slot) :
    s.complete d v none = s.reporting.setMe (s.me.run.putReg d v) := by
  have hu : (s.reporting.setMe s.me.atIssue).finish d v none = s.reporting.setMe (s.me.atIssue.putReg d v) := by
    rw [State.finish_plain hd, State.setMe_me, State.setMe_setMe]
    rfl
  have hp : (s.me.atIssue.putReg d v).atPc s.me.pc = s.me.run.putReg d v := by
    cases d <;> rfl
  rw [State.complete_none_of hu (by rw [Thread.putReg_st]; rfl), hp]
  exact State.settleThread_of_calm (s := s) h (SameDue.trans (u := s.me.run) ⟨rfl, rfl, rfl, rfl⟩ (sameDue_putReg _ d v)) rfl (Thread.putReg_st _ d v)

/-- The same where the pc moves on as the operation completes. -/
theorem State.complete_plain_at {s : State} {d : Dst} (hd : plainDst d = true) (v pc : Word) (h : Calm s s.core s.slot) :
    s.complete d v (some pc) = s.reporting.setMe ((s.me.run.putReg d v).performed pc) := by
  have hu : (s.reporting.setMe s.me.run).finish d v (some pc) = s.reporting.setMe ((s.me.run.putReg d v).performed pc) := by
    rw [State.finish_plain hd, State.setMe_me, State.move, State.goTo, State.setMe_me, State.setMe_setMe, State.setMe_setMe]
  have e : s.complete d v (some pc) = ((s.reporting.setMe s.me.run).finish d v (some pc)).settleDone := rfl
  rw [e, hu]
  exact State.settleThread_of_calm (s := s) h (SameDue.trans (u := s.me.run) ⟨rfl, rfl, rfl, rfl⟩
    (SameDue.trans (sameDue_putReg _ d v) (sameDue_performed _ pc))) rfl ((Thread.performed_st _ pc).trans (Thread.putReg_st _ d v))

/-- An operation completes that writes no scalar destination. -/
theorem State.completePc_at {s : State} (pc : Word) (h : Calm s s.core s.slot) : s.completePc (some pc) = s.setMe (s.me.run.performed pc) := by
  have e : (s.setMe { s.me with st := .runnable }).move (some pc) = s.setMe (s.me.run.performed pc) := by
    rw [State.move, State.goTo, State.setMe_me, State.setMe_setMe]
    rfl
  unfold State.completePc
  rw [e]
  exact State.settleThread_of_calm (s := s) h (SameDue.trans (u := s.me.run) ⟨rfl, rfl, rfl, rfl⟩ (sameDue_performed _ pc)) rfl
    (Thread.performed_st _ pc)

end Sys2Proof.Machine

namespace Sys2Proof.Machine
open Sys2Proof

-- Instructions that name a group -----------------------------------------------------------------------------------------------------

theorem State.withGroup_some {s : State} {a : Src} (h : groupOf (fld (val1 s a) 0 16) ≠ none) (f : Half → State → State) :
    s.withGroup a f = f (fld (val1 s a) 0 16) (after1 s a) := by
  obtain ⟨x, hx⟩ := Option.ne_none_iff_exists'.mp h
  have e : s.withGroup a f = match groupOf (fld (val1 s a) 0 16) with
    | none => (after1 s a).trapOpen 0x05
    | some _ => f (fld (val1 s a) 0 16) (after1 s a) := rfl
  rw [e, hx]

theorem State.withGroup_none {s : State} {a : Src} (h : groupOf (fld (val1 s a) 0 16) = none) (f : Half → State → State) :
    s.withGroup a f = (after1 s a).trapOpen 0x05 := by
  have e : s.withGroup a f = match groupOf (fld (val1 s a) 0 16) with
    | none => (after1 s a).trapOpen 0x05
    | some _ => f (fld (val1 s a) 0 16) (after1 s a) := rfl
  rw [e, h]

theorem exec_join_ready {s : State} {d : Dst} {a : Src} (h : Ready s (.join d a)) : exec (.join d a) s =
    .next (s.withGroup a fun g s => (s.advance (.join d a)).remove (.group false g d)) := by
  show execJoin d a s = _
  rw [execJoin, State.gated_ready h]

theorem exec_leave_ready {s : State} {d : Dst} {a : Src} (h : Ready s (.leave d a)) : exec (.leave d a) s =
    .next (s.withGroup a fun g s => (s.advance (.leave d a)).remove (.group true g d)) := by
  show execLeave d a s = _
  rw [execLeave, State.gated_ready h]

/-- A bar on a group: a member, or pending member, arrives and blocks. -/
def State.barOn (s : State) (a : Src) (g : Half) : State :=
  if (s.group g).members.contains s.myTa || (s.group g).pending.contains s.myTa then
    (s.setGroup g ((s.group g).bar s.myTa)).block (.bar g (lengthOf (.bar a)))
  else s.trapOpen 0x05

theorem exec_bar_ready {s : State} {a : Src} (h : Ready s (.bar a)) : exec (.bar a) s = .next (s.withGroup a fun g s => s.barOn a g) := by
  show execBar a s = _
  rw [execBar, State.gated_ready h]
  rfl

-- Arrivals --------------------------------------------------------------------------------------------------------------------------

theorem Group.mem_arrive {x : Group} {ta : Nat} (h : ta ∈ x.roundOf) : ta ∈ (x.arrive ta).arrived := by
  unfold Group.arrive
  split
  · exact List.mem_cons_self ..
  · rename_i hn
    simpa [h] using hn

theorem Group.mem_bar_blocked (x : Group) (ta : Nat) : ta ∈ (x.bar ta).blocked := by
  show ta ∈ if (x.arrive ta).blocked.contains ta then _ else _
  split
  · rename_i h; simpa using h
  · simp

/-- A thread that leaves is no member and no pending one, and counts as arrived. -/
theorem Group.leave_spec (x : Group) (ta : Nat) : ta ∉ (x.leave ta).members ∧ ta ∉ (x.leave ta).pending ∧
    (ta ∈ x.roundOf → ta ∈ (x.leave ta).arrived) := by
  refine ⟨?_, ?_, fun h => Group.mem_arrive h⟩ <;> simp [Group.leave]

theorem Group.among_iff (x : Group) (ta : Nat) : (x.members.contains ta || x.pending.contains ta) = true ↔ ta ∈ x.members ∨ ta ∈ x.pending := by
  simp

theorem State.barOn_member {u : State} {a : Src} {g : Half} (h : u.myTa ∈ (u.group g).members ∨ u.myTa ∈ (u.group g).pending) :
    (u.barOn a g).me = { u.me with st := .blocked (.bar g (lengthOf (.bar a))), since := u.clk } ∧
      u.myTa ∈ ((u.barOn a g).group g).blocked ∧ (u.myTa ∈ (u.group g).roundOf → u.myTa ∈ ((u.barOn a g).group g).arrived) := by
  have e : u.barOn a g = (u.setGroup g ((u.group g).bar u.myTa)).block (.bar g (lengthOf (.bar a))) :=
    if_pos ((Group.among_iff _ _).mpr h)
  have hg : (u.barOn a g).group g = (u.group g).bar u.myTa := by
    rw [e]; exact State.group_setGroup_self ..
  refine ⟨?_, ?_, fun hr => ?_⟩
  · rw [e, State.block, State.setMe_me]; rfl
  · rw [hg]; exact Group.mem_bar_blocked ..
  · rw [hg]; exact Group.mem_arrive hr

theorem exec_groupReply {s : State} {c : Nat} {k : Fin 16} {gid : Half} {d : Dst} {isLeave : Bool}
    (h : (s.thread c k).st = .removed (.group isLeave gid d)) (hd : plainDst d = true) (hc : Calm s c k) {v : Word} {y : Group}
    (hr : (if isLeave then (s.group gid).answerLeave (taNum c k) else (s.group gid).join s.clk (taNum c k)) = (v, y)) :
    ∃ t, exec (.groupReply c k) s = .next t ∧ t.thread c k = (s.thread c k).run.putReg d v ∧ t.group gid = y := by
  have e : exec (.groupReply c k) s = .next (((s.as c k).setGroup gid y).complete d v none) := by
    show execGroupReply c k s = _
    simp only [execGroupReply, me_as, h]
    rw [show (if isLeave = true then ((s.as c k).group gid).answerLeave (taNum c k) else ((s.as c k).group gid).join s.clk (taNum c k)) = (v, y)
      from hr]
  refine ⟨_, e, ?_, ?_⟩
  · rw [State.complete_plain hd v (s := (s.as c k).setGroup gid y) hc]
    exact State.setMe_me ..
  · rw [State.complete_plain hd v (s := (s.as c k).setGroup gid y) hc]
    exact State.group_setGroup_self ..

theorem groupReplies (s : State) (c : Nat) (k : Fin 16) (gid : Half) (d : Dst) (isLeave : Bool)
    (h : (s.thread c k).st = .removed (.group isLeave gid d)) (hd : plainDst d = true) (hc : Calm s c k) :
    let x := s.group gid
    let ta := taNum c k
    ∃ t v, exec (.groupReply c k) s = .next t ∧ t.thread c k = (s.thread c k).run.putReg d v ∧
      (isLeave = false → (ta ∈ x.members ∨ ta ∈ x.pending) → v = 1 ∧ t.group gid = x) ∧
      (isLeave = false → ta ∉ x.members → ta ∉ x.pending → 256 ≤ x.members.length + x.pending.length → v = 2 ∧ t.group gid = x) ∧
      (isLeave = false → ta ∉ x.members → ta ∉ x.pending → x.members.length + x.pending.length < 256 →
        v = 0 ∧ t.group gid = if x.endedAt = s.clk + 1 then { x with members := x.members ++ [ta], roundOf := x.roundOf ++ [ta] }
          else { x with pending := x.pending ++ [ta] }) ∧
      (isLeave = true → (ta ∈ x.members ∨ ta ∈ x.pending) → v = 0 ∧ ta ∉ (t.group gid).members ∧ ta ∉ (t.group gid).pending ∧
        (ta ∈ x.roundOf → ta ∈ (t.group gid).arrived)) ∧
      (isLeave = true → ta ∉ x.members → ta ∉ x.pending → v = 1 ∧ t.group gid = x) := by
  intro x ta
  cases isLeave with
  | false =>
    obtain ⟨t, e, ht, hg⟩ := exec_groupReply h hd hc (v := (x.join s.clk ta).1) (y := (x.join s.clk ta).2) rfl
    refine ⟨t, _, e, ht, fun _ hm => ?_, fun _ hm hp hn => ?_, fun _ hm hp hn => ?_, nofun, nofun⟩
    · rw [hg, Group.join, if_pos ((Group.among_iff _ _).mpr hm)]
      exact ⟨rfl, rfl⟩
    · rw [hg, Group.join, if_neg (by rw [Group.among_iff]; tauto), if_pos hn]
      exact ⟨rfl, rfl⟩
    · rw [hg, Group.join, if_neg (by rw [Group.among_iff]; tauto), if_neg (by omega)]
      split <;> exact ⟨rfl, rfl⟩
  | true =>
    obtain ⟨t, e, ht, hg⟩ := exec_groupReply h hd hc (v := (x.answerLeave ta).1) (y := (x.answerLeave ta).2) rfl
    refine ⟨t, _, e, ht, nofun, nofun, nofun, fun _ hm => ?_, fun _ hm hp => ?_⟩
    · rw [hg, Group.answerLeave, if_pos ((Group.among_iff _ _).mpr hm)]
      exact ⟨rfl, Group.leave_spec x ta⟩
    · rw [hg, Group.answerLeave, if_neg (by rw [Group.among_iff]; tauto)]
      exact ⟨rfl, rfl⟩

theorem groupMembership : Claims.GroupMembership := by
  refine ⟨fun s d a => ⟨fun h hg => ?_, fun h hg => ?_, fun h hg => ?_, fun h hg => ?_, fun h hg => ?_, fun h hg hm hp => ?_,
    fun h hg hm => ?_⟩, groupReplies⟩
  · rw [exec_join_ready h, State.withGroup_some hg]
  · rw [exec_leave_ready h, State.withGroup_some hg]
  · exact ⟨_, exec_join_ready h, by rw [State.withGroup_none hg]; exact trapOpen_trapped ..⟩
  · exact ⟨_, exec_leave_ready h, by rw [State.withGroup_none hg]; exact trapOpen_trapped ..⟩
  · exact ⟨_, exec_bar_ready h, by rw [State.withGroup_none hg]; exact trapOpen_trapped ..⟩
  · refine ⟨_, exec_bar_ready h, ?_⟩
    rw [State.withGroup_some hg, State.barOn, if_neg (by rw [Group.among_iff]; tauto)]
    exact trapOpen_trapped ..
  · refine ⟨_, exec_bar_ready h, ?_⟩
    rw [State.withGroup_some hg]
    exact State.barOn_member hm

-- A round that completes --------------------------------------------------------------------------------------------------------------

theorem ne_of_taNum_ne {c : Nat} {k : Fin 16} {ta : Nat} (h : taNum c k ≠ ta) : (c, k) ≠ (ta / 16, Fin.ofNat 16 ta) := by
  intro e
  obtain ⟨rfl, rfl⟩ := Prod.mk.injEq .. ▸ e
  apply h
  simp only [taNum, Fin.ofNat]
  omega

/-- What the end of a round does to a thread of this device that waits for it. -/
theorem State.roundWake_blocked {u : State} {gid : Half} {c : Nat} {k : Fin 16} {n : Nat} (hta : taNum c k < 65536)
    (h : (u.thread c k).st = .blocked (.bar gid n)) :
    u.roundWake gid (taNum c k) = u.onThread c k fun s => s.completePc (some (nextPc s.me n)) := by
  simp only [State.roundWake, if_neg (Nat.not_le.mpr hta), taNum_div, taNum_slot, h, if_true]

theorem State.roundWake_parked {u : State} {gid : Half} {c : Nat} {k : Fin 16} {n : Nat} {p : Park} (hta : taNum c k < 65536)
    (h : (u.thread c k).st = .parked p) (hp : p.before = some (.bar gid n)) :
    u.roundWake gid (taNum c k) = u.setThread c k { u.thread c k with st := .parked { p with done := true } } := by
  simp only [State.roundWake, if_neg (Nat.not_le.mpr hta), taNum_div, taNum_slot, h, hp, if_true]

theorem State.roundWake_runnable {u : State} {gid : Half} {c : Nat} {k : Fin 16} (hta : taNum c k < 65536)
    (h : (u.thread c k).st = .runnable) : u.roundWake gid (taNum c k) = u := by
  simp only [State.roundWake, if_neg (Nat.not_le.mpr hta), taNum_div, taNum_slot, h]

/-- The end of another thread's round leaves a thread. -/
theorem apart_roundWake {c : Nat} {k : Fin 16} (u : State) (gid : Half) {ta : Nat} (hta : ta < 65536) (h : taNum c k ≠ ta) :
    Apart c k u (u.roundWake gid ta) := by
  have hne := ne_of_taNum_ne h
  simp only [State.roundWake, if_neg (Nat.not_le.mpr hta)]
  split
  · split
    · exact Apart.onThread (apart_completePc (u.as _ _) _ hne)
    · exact .refl c k u
  · split
    · split
      · exact apart_setThread u _ hne
      · exact .refl c k u
    · exact .refl c k u
  · exact .refl c k u

theorem apart_roundWakes {c : Nat} {k : Fin 16} (u : State) (gid : Half) {l : List Nat} (hl : ∀ ta ∈ l, ta < 65536) (h : taNum c k ∉ l) :
    Apart c k u (u.roundWakes gid l) := by
  induction l generalizing u with
  | nil => exact .refl c k u
  | cons ta l ih =>
    obtain ⟨h1, h2⟩ := List.ne_and_not_mem_of_not_mem_cons h
    exact (apart_roundWake u gid (hl ta (List.mem_cons_self ..)) h1).trans (ih _ (fun b hb => hl b (List.mem_cons_of_mem _ hb)) h2)

/-- A thread of the round goes from T to V, whatever the others do and however often the list names it. -/
theorem State.thread_roundWakes {gid : Half} {c : Nat} {k : Fin 16} {L : SMap Launch} {T V : Thread}
    (hT : ∀ u : State, u.thread c k = T → u.wharf.launches = L →
      (u.roundWake gid (taNum c k)).thread c k = V ∧ (u.roundWake gid (taNum c k)).wharf.launches = L)
    (hV : ∀ u : State, u.thread c k = V → u.wharf.launches = L →
      (u.roundWake gid (taNum c k)).thread c k = V ∧ (u.roundWake gid (taNum c k)).wharf.launches = L)
    {l : List Nat} (hl : ∀ ta ∈ l, ta < 65536) {u : State} (hu : u.thread c k = T) (hL : u.wharf.launches = L) (h : taNum c k ∈ l) :
    (u.roundWakes gid l).thread c k = V := by
  have done : ∀ l : List Nat, (∀ ta ∈ l, ta < 65536) → ∀ u : State, u.thread c k = V → u.wharf.launches = L →
      (u.roundWakes gid l).thread c k = V := by
    intro l
    induction l with
    | nil => exact fun _ u hu _ => hu
    | cons ta l ih =>
      intro hl u hu hL
      have hl' : ∀ b ∈ l, b < 65536 := fun b hb => hl b (List.mem_cons_of_mem _ hb)
      by_cases e : taNum c k = ta
      · subst e
        obtain ⟨h1, h2⟩ := hV u hu hL
        exact ih hl' _ h1 h2
      · have ha := apart_roundWake u gid (hl ta (List.mem_cons_self ..)) e
        exact ih hl' _ (ha.thread.trans hu) (ha.launches.trans hL)
  induction l generalizing u with
  | nil => cases h
  | cons ta l ih =>
    have hl' : ∀ b ∈ l, b < 65536 := fun b hb => hl b (List.mem_cons_of_mem _ hb)
    by_cases e : taNum c k = ta
    · subst e
      obtain ⟨h1, h2⟩ := hT u hu hL
      exact done l hl' _ h1 h2
    · have ha := apart_roundWake u gid (hl ta (List.mem_cons_self ..)) e
      exact ih hl' (ha.thread.trans hu) (ha.launches.trans hL) ((List.mem_cons.mp h).resolve_left e)

theorem exec_barrierRoundComplete {s : State} {gid : Half} (hg : groupOf gid ≠ none)
    (ha : ∀ ta ∈ (s.group gid).roundOf, ta ∈ (s.group gid).arrived) (hne : (s.group gid).roundOf ≠ [] ∨ (s.group gid).pending ≠ []) :
    exec (.barrierRoundComplete gid) s =
      .next ((s.setGroup gid ((s.group gid).nextRound s.clk)).roundWakes gid (s.group gid).blocked) := by
  show execBarrierRoundComplete gid s = _
  have h1 : (groupOf gid).isSome = true := Option.isSome_iff_ne_none.mpr hg
  have h2 : (s.group gid).roundOver = true := by simpa [Group.roundOver] using ⟨ha, hne⟩
  simp only [execBarrierRoundComplete, h1, h2, Bool.and_self, if_true]

/-- The group of a round that completed is that of the next round. -/
theorem group_roundWakes (u : State) (gid : Half) {l : List Nat} (hl : ∀ ta ∈ l, ta < 65536) :
    (u.roundWakes gid l).group gid = u.group gid :=
  State.group_congr (apart_roundWakes (c := 65536) (k := 0) u gid hl fun h => absurd (hl _ h) (by simp [taNum])).groups gid

/-- A Blocked thread of the round goes on behind its bar. -/
theorem thread_roundWakes_blocked {s u : State} {gid : Half} {c : Nat} {k : Fin 16} {n : Nat} {l : List Nat} (hl : ∀ ta ∈ l, ta < 65536)
    (hu : u.thread c k = s.thread c k) (hL : u.wharf.launches = s.wharf.launches) (hm : taNum c k ∈ l)
    (hb : (s.thread c k).st = .blocked (.bar gid n)) (hc : Calm s c k) :
    (u.roundWakes gid l).thread c k = (s.thread c k).run.performed (nextPc (s.thread c k) n) := by
  have hta := hl _ hm
  refine State.thread_roundWakes (fun v hv hL => ?_) (fun v hv hL => ?_) hl hu hL hm
  · rw [State.roundWake_blocked hta (by rw [hv]; exact hb)]
    have hcv : Calm (v.as c k) c k := by
      unfold Calm graceOver State.launch at hc ⊢
      rw [thread_as, hv]
      rw [← hL] at hc
      exact hc
    have e : (v.onThread c k fun s => s.completePc (some (nextPc s.me n))) = v.setThread c k ((v.thread c k).run.performed (nextPc (v.thread c k) n)) := by
      rw [State.onThread, State.completePc_at _ hcv]
      rfl
    rw [e, State.thread_setThread_self, hv]
    exact ⟨rfl, hL⟩
  · rw [State.roundWake_runnable hta (by rw [hv, Thread.performed_st]; rfl)]
    exact ⟨hv, hL⟩

/-- A parked thread of the round keeps that its bar is over. -/
theorem thread_roundWakes_parked {s u : State} {gid : Half} {c : Nat} {k : Fin 16} {n : Nat} {p : Park} {l : List Nat}
    (hl : ∀ ta ∈ l, ta < 65536) (hu : u.thread c k = s.thread c k) (hm : taNum c k ∈ l) (hb : (s.thread c k).st = .parked p)
    (hp : p.before = some (.bar gid n)) :
    (u.roundWakes gid l).thread c k = { s.thread c k with st := .parked { p with done := true } } := by
  have hta := hl _ hm
  refine State.thread_roundWakes (fun v hv hL => ?_) (fun v hv hL => ?_) hl hu rfl hm
  · rw [State.roundWake_parked hta (by rw [hv]; exact hb) hp, State.thread_setThread_self, hv]
    exact ⟨rfl, hL⟩
  · rw [State.roundWake_parked (n := n) (p := { p with done := true }) hta (by rw [hv]) hp, State.thread_setThread_self, hv]
    exact ⟨rfl, hL⟩

-- The watchdog of a barrier ------------------------------------------------------------------------------------------------------------

theorem Apart.fetchedWord {c : Nat} {k : Fin 16} {s t : State} (h : Apart c k s t) : fetchedWord t c k = fetchedWord s c k := by
  unfold Machine.fetchedWord fetchWord asidOf State.launch
  rw [h.thread, h.launches, h.lines]

theorem Apart.coreAddress {c : Nat} {k : Fin 16} {s t : State} (h : Apart c k s t) (d : Nat) : coreAddress t d = coreAddress s d := by
  unfold Machine.coreAddress
  rw [h.device]

theorem onItsWay_trapThread {s : State} {n : Nat} {r : Record} (c : Nat) (k : Fin 16) (cause : Nat) (w : W32) (pc a b : Word)
    (h : OnItsWay s n r) : OnItsWay (s.trapThread c k cause w pc a b) n r :=
  onItsWay_post _ _ (s := s.setThread c k _) h

/-- A thread that takes a trap. -/
theorem trapTaken_trapThread (s : State) (c : Nat) (k : Fin 16) (cause : Nat) (w : W32) (pc a b : Word) :
    TrapTaken s (s.trapThread c k cause w pc a b) c k cause w pc a b :=
  ⟨by
    show (State.post _ _ _).thread c k = _
    rw [State.thread_post, State.thread_setThread_self], post_onItsWay _ _ _⟩

/-- What the expiry of a group's watchdog does to one of the threads that have arrived. -/
def State.dogTrap (s : State) (gid : Half) (ta : Nat) : State :=
  match (s.thread (ta / 16) (Fin.ofNat 16 ta)).st with
  | .blocked (.bar g _) =>
    if g = gid then s.trapThread (ta / 16) (Fin.ofNat 16 ta) 0x0F (fetchedWord s (ta / 16) (Fin.ofNat 16 ta))
      (s.thread (ta / 16) (Fin.ofNat 16 ta)).pc ((s.thread (ta / 16) (Fin.ofNat 16 ta)).tag.setWidth 64) 0 else s
  | _ => s

theorem State.dogTraps_cons (s : State) (gid : Half) (ta : Nat) (l : List Nat) :
    s.dogTraps gid (ta :: l) = (s.dogTrap gid ta).dogTraps gid l := rfl

theorem apart_dogTrap {c : Nat} {k : Fin 16} (s : State) (gid : Half) {ta : Nat} (h : taNum c k ≠ ta) : Apart c k s (s.dogTrap gid ta) := by
  unfold State.dogTrap
  split
  · split
    · exact apart_trapThread s _ _ _ _ _ (ne_of_taNum_ne h)
    · exact .refl c k s
  · exact .refl c k s

theorem onItsWay_dogTrap {s : State} {n : Nat} {r : Record} (gid : Half) (ta : Nat) (h : OnItsWay s n r) : OnItsWay (s.dogTrap gid ta) n r := by
  unfold State.dogTrap
  split
  · split
    · exact onItsWay_trapThread _ _ _ _ _ _ _ h
    · exact h
  · exact h

theorem State.dogTrap_own {s : State} {gid : Half} {c : Nat} {k : Fin 16} {n : Nat} (h : (s.thread c k).st = .blocked (.bar gid n)) :
    s.dogTrap gid (taNum c k) =
      s.trapThread c k 0x0F (fetchedWord s c k) (s.thread c k).pc ((s.thread c k).tag.setWidth 64) 0 := by
  simp only [State.dogTrap, taNum_div, taNum_slot, h, if_true]

/-- A thread that has taken its trap takes no other one. -/
theorem dogTraps_parked {gid : Half} {c : Nat} {k : Fin 16} {V : Thread} {p : Park} (hV : V.st = .parked p) {n : Nat} {r : Record}
    (l : List Nat) {u : State} (hu : u.thread c k = V) (hr : OnItsWay u n r) :
    (u.dogTraps gid l).thread c k = V ∧ OnItsWay (u.dogTraps gid l) n r := by
  induction l generalizing u with
  | nil => exact ⟨hu, hr⟩
  | cons ta l ih =>
    rw [State.dogTraps_cons]
    refine ih ?_ (onItsWay_dogTrap gid ta hr)
    by_cases e : taNum c k = ta
    · subst e
      have : u.dogTrap gid (taNum c k) = u := by simp only [State.dogTrap, taNum_div, taNum_slot, hu, hV]
      rw [this, hu]
    · exact (apart_dogTrap u gid e).thread.trans hu

theorem dogTraps_taken {s : State} {gid : Half} {c : Nat} {k : Fin 16} {n : Nat} (hb : (s.thread c k).st = .blocked (.bar gid n))
    {l : List Nat} {u : State} (hu : Apart c k s u) (hm : taNum c k ∈ l) :
    TrapTaken s (u.dogTraps gid l) c k 0x0F (fetchedWord s c k) (s.thread c k).pc ((s.thread c k).tag.setWidth 64) 0 := by
  induction l generalizing u with
  | nil => cases hm
  | cons ta l ih =>
    rw [State.dogTraps_cons]
    by_cases e : taNum c k = ta
    · subst e
      rw [State.dogTrap_own (by rw [hu.thread]; exact hb), hu.fetchedWord, hu.thread]
      obtain ⟨h1, h2⟩ := trapTaken_trapThread u c k 0x0F (fetchedWord s c k) (s.thread c k).pc ((s.thread c k).tag.setWidth 64) 0
      rw [hu.thread] at h1 h2
      rw [hu.coreAddress] at h2
      exact dogTraps_parked rfl l h1 h2
    · exact ih (hu.trans (apart_dogTrap u gid e)) ((List.mem_cons.mp hm).resolve_left e)

/-- The traps of a watchdog leave the groups. -/
theorem groups_dogTraps (u : State) (gid : Half) (l : List Nat) (d : Nat) : ((u.dogTraps gid l).die d).groups = (u.die d).groups := by
  induction l generalizing u with
  | nil => rfl
  | cons ta l ih =>
    rw [State.dogTraps_cons, ih]
    exact (apart_dogTrap (c := 0) (k := if ta = 0 then 1 else 0) u gid (by split <;> simp_all [taNum]; omega)).groups d

theorem exec_barrierWatchdogExpiry {s : State} {gid : Half} (hg : groupOf gid ≠ none) (hd : (s.group gid).dogOn = true)
    (hw : s.wharf.watchdog ≠ 0) (ht : dogTicks s ≤ (s.group gid).dog) : exec (.barrierWatchdogExpiry gid) s =
      .next ((s.setGroup gid { s.group gid with dogOn := false }).dogTraps gid (s.group gid).arrived) := by
  show execBarrierWatchdogExpiry gid s = _
  have h1 : (groupOf gid).isSome = true := Option.isSome_iff_ne_none.mpr hg
  simp only [execBarrierWatchdogExpiry, h1, hd, bne_iff_ne.mpr hw, decide_eq_true ht, Bool.and_self, if_true]

theorem barrierRounds : Claims.BarrierRounds := by
  intro s gid hg x
  refine ⟨fun ha hne hl => ?_, fun ha hne hl => ?_, fun ⟨ta, hr, hn⟩ => ?_, fun hd hw ht => ?_⟩
  · refine ⟨_, exec_barrierRoundComplete hg ha hne, ?_⟩
    rw [group_roundWakes _ _ hl, State.group_setGroup_self]
    exact ⟨rfl, rfl, rfl, rfl, rfl, fun c k n hm hb hc => thread_roundWakes_blocked hl rfl rfl hm hb hc⟩
  · refine ⟨_, exec_barrierRoundComplete hg ha hne, ?_⟩
    rw [group_roundWakes _ _ hl, State.group_setGroup_self]
    exact ⟨rfl, fun c k n p hm hb hp => thread_roundWakes_parked hl rfl hm hb hp⟩
  · show execBarrierRoundComplete gid s = _
    have h2 : (s.group gid).roundOver = false := by
      have : ((s.group gid).roundOf.all fun ta => (s.group gid).arrived.contains ta) = false := by
        rw [List.all_eq_false]
        exact ⟨ta, hr, by simpa using hn⟩
      rw [Group.roundOver, this, Bool.false_and]
    simp [execBarrierRoundComplete, h2]
  · refine ⟨_, exec_barrierWatchdogExpiry hg hd hw ht, ?_, fun c k n hm hb => ?_⟩
    · rw [State.group_congr (groups_dogTraps _ _ _), State.group_setGroup_self]
    · obtain ⟨h1, h2⟩ := dogTraps_taken (s := s.setGroup gid { s.group gid with dogOn := false }) (n := n) hb (.refl c k _) hm
      exact ⟨h1, h2⟩

/-- Settles O36: the instructions from their meanings; the end of a round and a watchdog by induction on the threads that they reach. -/
theorem groupsAndBarriers : Obligations.GroupsAndBarriers := ⟨groupMembership, barrierRounds⟩

end Sys2Proof.Machine

namespace Sys2Proof.Machine
open Sys2Proof

-- Motors ------------------------------------------------------------------------------------------------------------------------------

/-- No thread becomes a motor: each motor afterwards was that motor before. -/
def MotorsFrom (s t : State) : Prop := ∀ c k g r, (t.thread c k).tow = .motor g r → (s.thread c k).tow = .motor g r

theorem MotorsFrom.refl (s : State) : MotorsFrom s s := fun _ _ _ _ h => h

theorem MotorsFrom.trans {s t u : State} (h : MotorsFrom s t) (g : MotorsFrom t u) : MotorsFrom s u :=
  fun c k i r e => h c k i r (g c k i r e)

theorem Aloof.motors {s t : State} (h : Aloof s t) : MotorsFrom s t := fun c k g r e => by rwa [(h.apart c k).thread] at e

theorem motors_setThread {s : State} {c : Nat} {k : Fin 16} {x : Thread} (h : ∀ g r, x.tow = .motor g r → (s.thread c k).tow = .motor g r) :
    MotorsFrom s (s.setThread c k x) := by
  intro d j g r e
  by_cases hd : (d, j) = (c, k)
  · obtain ⟨rfl, rfl⟩ := Prod.mk.injEq .. ▸ hd
    rw [State.thread_setThread_self] at e
    exact h g r e
  · rwa [State.thread_setThread_ne s x hd] at e

/-- A thread of whom nothing but the part in the tow matters keeps that part. -/
theorem motors_setThread_tow {s : State} {c : Nat} {k : Fin 16} {x : Thread} (h : x.tow = (s.thread c k).tow) :
    MotorsFrom s (s.setThread c k x) := motors_setThread fun _ _ e => h ▸ e

theorem motors_setMe_tow {s : State} {x : Thread} (h : x.tow = s.me.tow) : MotorsFrom s (s.setMe x) := motors_setThread_tow h

theorem motors_post (s : State) (n : Nat) (r : Record) : MotorsFrom s (s.post n r) := (aloof_post s n r).motors

theorem Thread.motor_of_performed {t : Thread} {pc : Word} {g : Half} {r : Word} (h : (t.performed pc).tow = .motor g r) :
    t.tow = .motor g r := by
  unfold Thread.performed Thread.performedAs at h
  split at h
  · split at h
    · exact h
    · cases h
  · exact h

theorem motors_move (s : State) (pc : Option Word) : MotorsFrom s (s.move pc) := by
  cases pc with
  | none => exact .refl s
  | some a => exact motors_setThread fun g r e => Thread.motor_of_performed e

theorem motors_trapThread (s : State) (c : Nat) (k : Fin 16) (cause : Nat) (w : W32) (pc a b : Word) :
    MotorsFrom s (s.trapThread c k cause w pc a b) :=
  (motors_setThread_tow (s := s) (c := c) (k := k) (x := { s.thread c k with st := .parked { cause := cause }, dogDue := false }) rfl).trans
    (motors_post _ _ _)

theorem motors_trapRelaxed (s : State) (c : Nat) (k : Fin 16) (before : Option Blocked) (done : Bool) (cause : Nat) (x : Access) (a b : Word) :
    MotorsFrom s (s.trapRelaxed c k before done cause x a b) :=
  (motors_trapThread s c k cause x.iword x.pc a b).trans (motors_setThread_tow rfl)

theorem motors_parkRelaxed (s : State) (c : Nat) (k : Fin 16) (r : Relaxed) : MotorsFrom s (parkRelaxed s c k r) := by
  unfold parkRelaxed
  extract_lets t was gone
  have hg : MotorsFrom s gone := motors_setThread_tow rfl
  split
  · exact hg.trans (motors_trapRelaxed gone _ _ _ _ _ _ _ _)
  · split
    · exact hg.trans (motors_trapRelaxed gone _ _ _ _ _ _ _ _)
    · split
      · exact hg.trans (motors_trapRelaxed gone _ _ _ _ _ _ _ _)
      · exact motors_setThread_tow rfl

theorem motors_boundary {s : State} {c : Nat} {k : Fin 16} {t : Thread} (h : t.tow = (s.thread c k).tow) : MotorsFrom s (s.boundary c k t) := by
  unfold State.boundary
  extract_lets u
  have hu : MotorsFrom s u := motors_setThread_tow h
  have ht : t.tow = (u.thread c k).tow := by rw [State.thread_setThread_self]
  split
  · exact (hu.trans (motors_setThread_tow ht)).trans (motors_trapThread _ _ _ _ _ _ _ _)
  · split
    · exact hu.trans (motors_parkRelaxed u _ _ _)
    · split
      · exact hu.trans (motors_setThread_tow ht)
      · exact hu

theorem Thread.kpark_tow (t : Thread) : t.kpark.tow = t.tow := by
  unfold Thread.kpark
  split
  · split <;> rfl
  all_goals rfl

theorem motors_settleThread (s : State) (c : Nat) (k : Fin 16) : MotorsFrom s (s.settleThread c k) := by
  unfold State.settleThread
  extract_lets t _ now
  have hn : MotorsFrom s now := by
    unfold now
    split
    · exact motors_trapThread s _ _ _ _ _ _ _
    · split
      · exact motors_parkRelaxed s _ _ _
      · split
        · exact motors_setThread_tow (Thread.kpark_tow t)
        · exact .refl s
  split
  · exact motors_boundary rfl
  · exact hn
  · exact hn
  · exact .refl s

theorem motors_setCore {s : State} {c : Nat} {x : Core} (h : ∀ k, (x.slots.get k).tow = ((s.getCore c).slots.get k).tow) :
    MotorsFrom s (s.setCore c x) := by
  intro d j g r e
  by_cases hd : d = c
  · subst hd
    rw [State.thread, State.getCore_setCore_self, h] at e
    exact e
  · rw [State.thread, State.getCore_setCore_ne _ _ hd] at e
    exact e

theorem motors_accept (s : State) (m : Cmd) : MotorsFrom s (s.accept m) := by
  unfold State.accept
  extract_lets e x r m' u t p y v
  have hr : MotorsFrom s r.2 := by
    unfold r
    split
    · exact (aloof_journal s _ _ _ _ _ _).motors
    · exact .refl s
  have hu : MotorsFrom s u := hr.trans (aloof_setEngine _ _ _).motors
  have hv : MotorsFrom u v := motors_setThread_tow rfl
  exact (hu.trans hv).trans (motors_setCore (s := v) fun _ => rfl)

theorem motors_submit (s : State) (p : Fin 4) (b : List Word) (pc : Option Word) (clear : Bool) : MotorsFrom s (s.submit p b pc clear) := by
  unfold State.submit
  split
  · exact motors_trapThread s _ _ _ _ _ _ _
  · exact motors_trapThread s _ _ _ _ _ _ _
  · extract_lets u _ v
    have hu : MotorsFrom s u := motors_move s pc
    have hv : MotorsFrom s v := by
      unfold v
      split
      · exact hu.trans (motors_setMe_tow rfl)
      · exact hu
    split
    · exact hv.trans (motors_accept v _)
    · exact hv.trans (motors_setMe_tow rfl)

theorem Thread.retryRead_tow (q : Fin 8) (t : Thread) : (t.retryRead q).tow = t.tow := by
  unfold Thread.retryRead
  split
  · split <;> rfl
  · rfl

theorem motors_pushQueue (s : State) (c : Nat) (q : Fin 8) (v : Word) : MotorsFrom s (s.setCore c ((s.getCore c).pushQueue q v)) := by
  refine motors_setCore fun k => ?_
  show (((s.getCore c).slots.map (Thread.retryRead q)).get k).tow = _
  rw [Vector.get_map, Thread.retryRead_tow]

theorem motors_finish (s : State) (d : Dst) (v : Word) (pc : Option Word) : MotorsFrom s (s.finish d v pc) := by
  cases d with
  | g i => exact (motors_setMe_tow (x := s.me.setG i v) rfl).trans (motors_move _ pc)
  | w i => exact (motors_setMe_tow (x := s.me.setW i v) rfl).trans (motors_move _ pc)
  | q q =>
    simp only [State.finish]
    split
    · exact (motors_move s pc).trans (motors_setMe_tow rfl)
    · exact (motors_pushQueue s s.core q v).trans (motors_move _ pc)
  | e p =>
    simp only [State.finish]
    split
    · exact (motors_setMe_tow (x := s.me.setPort p { s.me.ports.get p with staging := (s.me.ports.get p).staging ++ [v] }) rfl).trans
        (motors_move _ pc)
    · exact motors_submit s p _ pc true

theorem motors_complete (s : State) (d : Dst) (v : Word) (pc : Option Word) : MotorsFrom s (s.complete d v pc) := by
  have step : ∀ x : Thread, x.tow = s.me.tow → ∀ pc, MotorsFrom s ((({ s with iword := s.me.issuedWord } : State).setMe x).finish d v pc) :=
    fun x hx pc => (motors_setMe_tow (s := { s with iword := s.me.issuedWord }) hx).trans (motors_finish _ d v pc)
  unfold State.complete
  split
  · exact (step { s.me with st := .runnable } rfl _).trans (motors_settleThread _ _ _)
  · have hu := step { s.me with st := .runnable, pc := s.me.issuedPc } rfl none
    extract_lets _ _ u
    split
    · exact hu
    · exact MotorsFrom.trans (t := u) hu ((motors_setMe_tow (x := { u.me with pc := s.me.pc }) rfl).trans (motors_settleThread _ _ _))

theorem motors_moorDone (s : State) (c : Nat) (k : Fin 16) (d : Dst) (len : Nat) (v : Word) : MotorsFrom s (s.moorDone c k d len v) :=
  motors_complete (s.as c k) d v _

theorem motors_freeButties (s : State) (gid : Half) (l : List Nat) : MotorsFrom s (s.freeButties gid l) := by
  induction l generalizing s with
  | nil => exact .refl s
  | cons ta l ih => exact (motors_setThread (s := s) fun _ _ e => by cases e).trans (ih _)

theorem motors_moorAway (s : State) (gid : Half) (but : Option Nat) (l : List Nat) : MotorsFrom s (s.moorAway gid but l) := by
  induction l generalizing s with
  | nil => exact .refl s
  | cons ta l ih =>
    rw [State.moorAway]
    refine MotorsFrom.trans ?_ (ih _)
    split
    · split
      · exact motors_moorDone s _ _ _ _ _
      · exact .refl s
    · exact .refl s

theorem motors_dissolve (s : State) (gid : Half) : MotorsFrom s (s.dissolve gid) :=
  (motors_freeButties (s.setGroup gid { s.group gid with tow := 2 }) gid _).trans (motors_moorAway _ gid none _)

-- What a tow leaves of the thread that executes and of a group ------------------------------------------------------------------------

theorem State.group_setGroup_ne (s : State) {g h : Half} (x : Group) (hne : (fld h 0 15 : BitVec 15) ≠ fld g 0 15) :
    (s.setGroup h x).group g = s.group g := by
  by_cases hd : (fld g 12 3 : BitVec 3).toNat = (fld h 12 3 : BitVec 3).toNat
  · have hi : (fld g 0 12 : BitVec 12).toNat ≠ (fld h 0 12 : BitVec 12).toNat := by
      intro hi
      apply hne
      apply BitVec.eq_of_toNat_eq
      simp only [BitVec.extractLsb'_toNat, Nat.shiftRight_eq_div_pow] at hd hi ⊢
      omega
    simp only [State.group, State.setGroup, hd, State.die_setDie_self]
    exact SMap.getD_set_ne _ _ _ hi
  · simp only [State.group, State.setGroup]
    rw [State.die_setDie_ne _ _ hd]

/-- The thread that executes, a group and the launches are the same, and no thread becomes a motor. -/
structure Towed (g : Half) (s t : State) : Prop where
  me : t.me = s.me
  group : t.group g = s.group g
  launches : t.wharf.launches = s.wharf.launches
  core : t.core = s.core
  slot : t.slot = s.slot
  motors : MotorsFrom s t

theorem Towed.refl (g : Half) (s : State) : Towed g s s := ⟨rfl, rfl, rfl, rfl, rfl, .refl s⟩

theorem Towed.trans {g : Half} {s t u : State} (h : Towed g s t) (i : Towed g t u) : Towed g s u :=
  ⟨i.me.trans h.me, i.group.trans h.group, i.launches.trans h.launches, i.core.trans h.core, i.slot.trans h.slot, h.motors.trans i.motors⟩

theorem Apart.towed {g : Half} {s t : State} (h : Apart s.core s.slot s t) (hm : MotorsFrom s t) : Towed g s t :=
  ⟨by rw [State.me, h.core, h.slot]; exact h.thread, State.group_congr h.groups g, h.launches, h.core, h.slot, hm⟩

/-- No motor has a group of the same entry. -/
def Unmotored (g : Half) (s : State) : Prop := ∀ c k h r, (s.thread c k).tow = .motor h r → (fld h 0 15 : BitVec 15) ≠ fld g 0 15

theorem Unmotored.of {g : Half} {s t : State} (h : Unmotored g s) (hm : MotorsFrom s t) : Unmotored g t :=
  fun c k i r e => h c k i r (hm c k i r e)

theorem towed_moorAway {g : Half} (s : State) (h : Half) (but : Option Nat) (l : List Nat) (hr : s.me.st = .runnable) :
    Towed g s (s.moorAway h but l) :=
  Apart.towed (apart_moorAway s h but l (fun d n e => by rw [show s.me.st = _ from e] at hr; cases hr)
    (fun p e => by rw [show s.me.st = _ from e] at hr; cases hr)) (motors_moorAway s h but l)

theorem towed_dissolve {g h : Half} {s : State} (hne : (fld h 0 15 : BitVec 15) ≠ fld g 0 15) (hr : s.me.st = .runnable)
    (hb : s.me.tow ≠ .butty h) : Towed g s (s.dissolve h) := by
  have ha := apart_dissolve (c := s.core) (k := s.slot) s h hb (fun d n e => by rw [show s.me.st = _ from e] at hr; cases hr)
    (fun p e => by rw [show s.me.st = _ from e] at hr; cases hr)
  have h1 : Towed g s (s.setGroup h { s.group h with tow := 2 }) :=
    ⟨rfl, State.group_setGroup_ne s _ hne, rfl, rfl, rfl, fun _ _ _ _ e => e⟩
  exact ⟨(Apart.towed (g := g) (s := s.setGroup h { s.group h with tow := 2 }) ha
      ((motors_freeButties _ h _).trans (motors_moorAway _ h none _))).me.trans h1.me,
    (State.group_congr ha.groups g).trans h1.group, ha.launches, ha.core, ha.slot, motors_dissolve s h⟩

/-- The state in which a thread that waits in moor is answered as it boards: the tow of which it was the motor has dissolved. -/
def State.beforeBoard (s : State) (c : Nat) (k : Fin 16) : State :=
  match (s.thread c k).tow with
  | .motor g _ => s.dissolve g
  | _ => s

/-- Nothing is on the ring for a thread. -/
def State.offRing (s : State) (c : Nat) (k : Fin 16) : State := { s with ring := s.ring.filter fun f => f.core != c || f.slot != k }

/-- A thread that has boarded a tow. -/
def Thread.aboard (t : Thread) (gid : Half) : Thread :=
  { t with tow := .butty gid, fwd := [], st := if t.st = .runnable then .blocked .butty else t.st }

theorem State.board_eq (s : State) (c : Nat) (k : Fin 16) (gid : Half) (d : Dst) (len : Nat) : s.board c k gid d len =
    (((s.beforeBoard c k).moorDone c k d len 1).offRing c k).setThread c k ((((s.beforeBoard c k).moorDone c k d len 1).thread c k).aboard gid) := rfl

theorem towed_beforeBoard {g : Half} {s : State} (hu : Unmotored g s) (hr : s.me.st = .runnable) (hn : s.me.tow = .none) (c : Nat) (k : Fin 16) :
    Towed g s (s.beforeBoard c k) := by
  unfold State.beforeBoard
  split
  · rename_i h r ht
    exact towed_dissolve (hu c k h r ht) hr (by rw [hn]; simp)
  · exact .refl g s

theorem towed_board {g gid : Half} {s : State} {c : Nat} {k : Fin 16} (d : Dst) (len : Nat) (hu : Unmotored g s) (hr : s.me.st = .runnable)
    (hn : s.me.tow = .none) (hne : (s.core, s.slot) ≠ (c, k)) : Towed g s (s.board c k gid d len) := by
  rw [State.board_eq]
  have h1 := towed_beforeBoard hu hr hn c k
  generalize s.beforeBoard c k = u at h1 ⊢
  have hne' : (u.core, u.slot) ≠ (c, k) := by rw [h1.core, h1.slot]; exact hne
  have h2 : Towed g u (u.moorDone c k d len 1) := Apart.towed (apart_moorDone u d len 1 hne' fun p e => by
    rw [← h1.me] at hr
    rw [show u.me.st = _ from e] at hr; cases hr) (motors_moorDone u c k d len 1)
  generalize u.moorDone c k d len 1 = v at h2 ⊢
  have h3 : Towed g v (v.offRing c k) := ⟨rfl, rfl, rfl, rfl, rfl, fun _ _ _ _ e => e⟩
  have h4 : Towed g (v.offRing c k) ((v.offRing c k).setThread c k ((v.thread c k).aboard gid)) :=
    Apart.towed (apart_setThread _ _ (by show (v.core, v.slot) ≠ _; rw [h2.core, h2.slot]; exact hne')) (motors_setThread fun _ _ e => by cases e)
  exact h1.trans (h2.trans (h3.trans h4))

theorem towed_boardAll {g gid : Half} {s : State} (cl : Nat) (l : List Nat) (hu : Unmotored g s) (hr : s.me.st = .runnable)
    (hn : s.me.tow = .none) : Towed g s (boardAll s gid cl l) := by
  induction l generalizing s with
  | nil => exact .refl g s
  | cons ta l ih =>
    rw [boardAll]
    have step : ∀ u, Towed g s u → Towed g s (boardAll u gid cl l) := fun u h =>
      h.trans (ih (hu.of h.motors) (by rw [h.me]; exact hr) (by rw [h.me]; exact hn))
    refine step _ ?_
    split
    · rename_i i d n hst
      split
      · refine towed_board d n hu hr hn fun e => ?_
        obtain ⟨e1, e2⟩ := Prod.mk.injEq .. ▸ e
        rw [← e1, ← e2] at hst
        rw [show s.me.st = _ from hst] at hr
        cases hr
      · exact .refl g s
    · exact .refl g s

theorem leaveTow_eq (s : State) : s.leaveTow = (s.beforeBoard s.core s.slot).setMe { (s.beforeBoard s.core s.slot).me with tow := .none, fwd := [] } := rfl

end Sys2Proof.Machine

namespace Sys2Proof.Machine
open Sys2Proof

-- A thread that waits in moor ------------------------------------------------------------------------------------------------------------

/-- A thread with another part in a tow. -/
def Thread.inTow (t : Thread) (w : TowRole) : Thread := { t with tow := w }

/-- A thread is as it was, but for its part in a tow, and it is no motor. -/
def Waiting (T : Thread) (c : Nat) (k : Fin 16) (u : State) : Prop := ∃ w, (∀ g r, w ≠ .motor g r) ∧ u.thread c k = T.inTow w

theorem Waiting.of_thread {T : Thread} {c : Nat} {k : Fin 16} {u v : State} (h : Waiting T c k u) (e : v.thread c k = u.thread c k) :
    Waiting T c k v := by
  obtain ⟨w, hw, ht⟩ := h
  exact ⟨w, hw, e.trans ht⟩

theorem Waiting.st {T : Thread} {c : Nat} {k : Fin 16} {u : State} (h : Waiting T c k u) : (u.thread c k).st = T.st := by
  obtain ⟨w, hw, ht⟩ := h
  rw [ht]; rfl

theorem Waiting.not_motor {T : Thread} {c : Nat} {k : Fin 16} {u : State} (h : Waiting T c k u) (g : Half) (r : Word) :
    (u.thread c k).tow ≠ .motor g r := by
  obtain ⟨w, hw, ht⟩ := h
  rw [ht]; exact hw g r

theorem Waiting.calm {T : Thread} {c : Nat} {k : Fin 16} {s u : State} (h : Waiting T c k u) (hc : Calm s c k) (hT : s.thread c k = T)
    (hl : u.wharf.launches = s.wharf.launches) : Calm u c k := by
  obtain ⟨w, hw, ht⟩ := h
  subst hT
  unfold Calm graceOver State.launch at hc ⊢
  rw [ht, hl]
  exact hc

theorem waiting_freeButties {T : Thread} {c : Nat} {k : Fin 16} {u : State} (h : Waiting T c k u) (gid : Half) (l : List Nat) :
    Waiting T c k (u.freeButties gid l) := by
  induction l generalizing u with
  | nil => exact h
  | cons ta l ih =>
    refine ih ?_
    by_cases e : (c, k) = (ta / 16, Fin.ofNat 16 ta)
    · obtain ⟨rfl, hk⟩ := Prod.mk.injEq .. ▸ e
      subst hk
      obtain ⟨w, hw, ht⟩ := h
      exact ⟨.draining gid, by simp, by rw [State.thread_setThread_self, ht]; rfl⟩
    · exact h.of_thread (State.thread_setThread_ne u _ e)

theorem Waiting.not_moor {T : Thread} {c : Nat} {k : Fin 16} {u : State} {g h : Half} {d : Dst} {n : Nat} (hw : Waiting T c k u)
    (hT : T.st = .blocked (.moor g d n)) (hne : h ≠ g) (e : Dst) (m : Nat) : (u.thread c k).st ≠ .blocked (.moor h e m) := by
  rw [hw.st, hT]
  intro i
  cases i
  exact hne rfl

theorem Waiting.not_read {T : Thread} {c : Nat} {k : Fin 16} {u : State} {g : Half} {d : Dst} {n : Nat} (hw : Waiting T c k u)
    (hT : T.st = .blocked (.moor g d n)) (p : Fin 8) : (u.thread c k).st ≠ .blocked (.queueRead p) := by
  rw [hw.st, hT]
  nofun

theorem waiting_dissolve {T : Thread} {c : Nat} {k : Fin 16} {u : State} {g h : Half} {d : Dst} {n : Nat} (hw : Waiting T c k u)
    (hT : T.st = .blocked (.moor g d n)) (hne : h ≠ g) : Waiting T c k (u.dissolve h) := by
  have h1 := waiting_freeButties (u := u.setGroup h { u.group h with tow := 2 }) hw h (butties u h)
  exact h1.of_thread (apart_moorAway _ h none _ (h1.not_moor hT hne) (h1.not_read hT)).thread

theorem ne_of_entry {g h : Half} (hne : (fld h 0 15 : BitVec 15) ≠ fld g 0 15) : h ≠ g := fun e => hne (by rw [e])

theorem waiting_beforeBoard {T : Thread} {c : Nat} {k : Fin 16} {u : State} {g : Half} {d : Dst} {n : Nat} (hw : Waiting T c k u)
    (hT : T.st = .blocked (.moor g d n)) (hu : Unmotored g u) (e : Nat) (j : Fin 16) : Waiting T c k (u.beforeBoard e j) := by
  unfold State.beforeBoard
  split
  · rename_i h r ht
    exact waiting_dissolve hw hT (ne_of_entry (hu e j h r ht))
  · exact hw

/-- Another thread boards. -/
theorem waiting_board {T : Thread} {c e : Nat} {k j : Fin 16} {u : State} {g gid : Half} {d : Dst} {n : Nat} (hw : Waiting T c k u)
    (hT : T.st = .blocked (.moor g d n)) (hu : Unmotored g u) (hne : (c, k) ≠ (e, j)) (x : Dst) (len : Nat) :
    Waiting T c k (u.board e j gid x len) := by
  rw [State.board_eq]
  have h1 := waiting_beforeBoard hw hT hu e j
  generalize u.beforeBoard e j = v at h1 ⊢
  have h2 := apart_moorDone v x len 1 hne (h1.not_read hT)
  exact h1.of_thread ((State.thread_setThread_ne _ _ hne).trans h2.thread)

/-- What a moor that is answered with a status leaves: the status in its destination, and the thread behind its moor. -/
def Thread.moored (t : Thread) (d : Dst) (len : Nat) (v : Word) : Thread := (t.run.putReg d v).performed (nextPc t len)

theorem State.moorDone_thread {s : State} {c : Nat} {k : Fin 16} {d : Dst} (hd : plainDst d = true) (hc : Calm s c k) (len : Nat) (v : Word) :
    (s.moorDone c k d len v).thread c k = (s.thread c k).moored d len v := by
  have e : s.moorDone c k d len v = s.onThread c k fun s => s.complete d v (some (nextPc s.me len)) := rfl
  rw [e, State.onThread, State.complete_plain_at hd v _ (s := s.as c k) hc]
  exact State.thread_setThread_self ..

theorem Thread.reg_putReg {d : Dst} (hd : plainDst d = true) (t : Thread) (v : Word) : (t.putReg d v).reg d.asSrc = v := by
  cases d with
  | g i => exact (Thread.setG_get t i i v).trans (if_pos rfl)
  | w i => exact (Thread.setW_get t i i v).trans (if_pos rfl)
  | q i => cases hd
  | e i => cases hd

theorem Thread.reg_performed (d : Dst) (t : Thread) (pc : Word) : (t.performed pc).reg d.asSrc = t.reg d.asSrc := by
  cases d <;> simp [Thread.reg, Dst.asSrc]

theorem Thread.moored_spec {d : Dst} (hd : plainDst d = true) (t : Thread) (len : Nat) (v : Word) :
    (t.moored d len v).st = .runnable ∧ (t.moored d len v).pc = nextPc t len ∧ (t.moored d len v).reg d.asSrc = v := by
  refine ⟨?_, Thread.performed_pc .., ?_⟩
  · rw [Thread.moored, Thread.performed_st, Thread.putReg_st]; rfl
  · rw [Thread.moored, Thread.reg_performed, Thread.reg_putReg hd]

/-- A thread has boarded the tow of a group, with a status and a pc. -/
def Boarded (g : Half) (d : Dst) (pc : Word) (t : Thread) : Prop :=
  t.tow = .butty g ∧ t.st = .blocked .butty ∧ t.pc = pc ∧ t.fwd = [] ∧ t.reg d.asSrc = 1

/-- A thread has been told that it does not board. -/
def Passed (d : Dst) (pc : Word) (t : Thread) : Prop := t.pc = pc ∧ t.st = .runnable ∧ t.reg d.asSrc = 0

theorem Thread.aboard_reg (t : Thread) (gid : Half) (d : Dst) : (t.aboard gid).reg d.asSrc = t.reg d.asSrc := by cases d <;> rfl

theorem boarded_aboard {d : Dst} (hd : plainDst d = true) (t : Thread) (gid : Half) (len : Nat) :
    Boarded gid d (nextPc t len) ((t.moored d len 1).aboard gid) := by
  obtain ⟨h1, h2, h3⟩ := Thread.moored_spec hd t len 1
  exact ⟨rfl, if_pos h1, h2, rfl, (Thread.aboard_reg ..).trans h3⟩

/-- A thread that is no motor boards. -/
theorem boarded_board {s : State} {c : Nat} {k : Fin 16} {d : Dst} (hd : plainDst d = true) (hc : Calm s c k)
    (hm : ∀ g r, (s.thread c k).tow ≠ .motor g r) (gid : Half) (len : Nat) :
    Boarded gid d (nextPc (s.thread c k) len) ((s.board c k gid d len).thread c k) := by
  have e : s.beforeBoard c k = s := by
    unfold State.beforeBoard
    split
    · rename_i g r h; exact absurd h (hm g r)
    · rfl
  rw [State.board_eq, e, State.thread_setThread_self, State.moorDone_thread hd hc]
  exact boarded_aboard hd _ _ _

-- The members that wait as a tow begins -----------------------------------------------------------------------------------------------

/-- What the execution of a member's place in boardAll does to the state. -/
def State.boardOne (s : State) (gid : Half) (cl : Nat) (ta : Nat) : State :=
  match (s.thread (ta / 16) (Fin.ofNat 16 ta)).st with
  | .blocked (.moor g d len) => if g = gid ∧ clusterOf (ta / 16) = cl then s.board (ta / 16) (Fin.ofNat 16 ta) gid d len else s
  | _ => s

theorem boardAll_cons (s : State) (gid : Half) (cl ta : Nat) (l : List Nat) :
    boardAll s gid cl (ta :: l) = boardAll (s.boardOne gid cl ta) gid cl l := rfl

section
variable {g : Half} {c : Nat} {k : Fin 16} {T : Thread} {d : Dst} {n : Nat}

theorem towed_boardOne {u : State} (hu : Unmotored g u) (hr : u.me.st = .runnable) (hn : u.me.tow = .none) (gid : Half) (cl ta : Nat) :
    Towed g u (u.boardOne gid cl ta) := towed_boardAll (g := g) (s := u) (gid := gid) cl [ta] hu hr hn

/-- A thread that waits elsewhere, or on its own account later, still waits. -/
theorem waiting_boardOne {u : State} (hT : T.st = .blocked (.moor g d n)) (hw : Waiting T c k u) (hu : Unmotored g u) {cl ta : Nat}
    (h : clusterOf c ≠ cl ∨ taNum c k ≠ ta) : Waiting T c k (u.boardOne g cl ta) := by
  unfold State.boardOne
  split
  · split
    · rename_i hcl
      refine waiting_board hw hT hu (fun e => ?_) _ _
      rcases h with h | h
      · obtain ⟨e1, e2⟩ := Prod.mk.injEq .. ▸ e
        rw [← e1] at hcl
        exact h hcl.2
      · exact ne_of_taNum_ne h e
    · exact hw
  · exact hw

theorem waiting_boardAll {u : State} (hT : T.st = .blocked (.moor g d n)) (hw : Waiting T c k u) (hu : Unmotored g u)
    (hr : u.me.st = .runnable) (hn : u.me.tow = .none) {cl : Nat} (h : clusterOf c ≠ cl) (l : List Nat) : Waiting T c k (boardAll u g cl l) := by
  induction l generalizing u with
  | nil => exact hw
  | cons ta l ih =>
    rw [boardAll_cons]
    have ht := towed_boardOne hu hr hn g cl ta
    exact ih (waiting_boardOne hT hw hu (.inl h)) (hu.of ht.motors) (by rw [ht.me]; exact hr) (by rw [ht.me]; exact hn)

/-- A thread that has boarded stays as it is as others board, and as others' tows dissolve. -/
theorem boarded_boardOne {u : State} {pc : Word} (hb : Boarded g d pc (u.thread c k)) (hu : Unmotored g u) (cl ta : Nat) :
    Boarded g d pc ((u.boardOne g cl ta).thread c k) := by
  obtain ⟨h1, h2, h3⟩ := hb
  have hq : ∀ v : State, v.thread c k = u.thread c k → ∀ p, (v.thread c k).st ≠ .blocked (.queueRead p) := fun v hv p => by rw [hv, h2]; nofun
  have hm : ∀ h d n, (u.thread c k).st ≠ .blocked (.moor h d n) := fun h d n => by rw [h2]; nofun
  unfold State.boardOne
  split
  · rename_i i x m hst
    split
    · have hne : (c, k) ≠ (ta / 16, Fin.ofNat 16 ta) := fun e => by
        obtain ⟨e1, e2⟩ := Prod.mk.injEq .. ▸ e
        rw [← e1, ← e2] at hst
        exact hm _ _ _ hst
      have h4 : (u.beforeBoard (ta / 16) (Fin.ofNat 16 ta)).thread c k = u.thread c k := by
        unfold State.beforeBoard
        split
        · rename_i h r ht
          exact (apart_dissolve u h (by rw [h1]; intro e; cases e; exact hu _ _ _ _ ht rfl) (hm h) (hq u rfl)).thread
        · rfl
      rw [State.board_eq, State.thread_setThread_ne _ _ hne]
      have h5 := (apart_moorDone (u.beforeBoard (ta / 16) (Fin.ofNat 16 ta)) x m 1 hne (hq _ h4)).thread
      show Boarded g d pc (((u.beforeBoard (ta / 16) (Fin.ofNat 16 ta)).moorDone (ta / 16) (Fin.ofNat 16 ta) x m 1).thread c k)
      rw [h5, h4]
      exact ⟨h1, h2, h3⟩
    · exact ⟨h1, h2, h3⟩
  · exact ⟨h1, h2, h3⟩

theorem boarded_boardAll_rest {u : State} {pc : Word} (hb : Boarded g d pc (u.thread c k)) (hu : Unmotored g u) (hr : u.me.st = .runnable)
    (hn : u.me.tow = .none) (cl : Nat) (l : List Nat) : Boarded g d pc ((boardAll u g cl l).thread c k) := by
  induction l generalizing u with
  | nil => exact hb
  | cons ta l ih =>
    rw [boardAll_cons]
    have ht := towed_boardOne hu hr hn g cl ta
    exact ih (boarded_boardOne hb hu cl ta) (hu.of ht.motors) (by rw [ht.me]; exact hr) (by rw [ht.me]; exact hn)

/-- A member that waits in the cluster boards. -/
theorem boarded_boardAll {s u : State} (hd : plainDst d = true) (hs : s.thread c k = T) (hc : Calm s c k) (hT : T.st = .blocked (.moor g d n))
    (hw : Waiting T c k u) (hl : u.wharf.launches = s.wharf.launches) (hu : Unmotored g u) (hr : u.me.st = .runnable)
    (hn : u.me.tow = .none) {cl : Nat} (h : clusterOf c = cl) {l : List Nat} (hm : taNum c k ∈ l) :
    Boarded g d (nextPc T n) ((boardAll u g cl l).thread c k) := by
  induction l generalizing u with
  | nil => cases hm
  | cons ta l ih =>
    rw [boardAll_cons]
    have ht := towed_boardOne hu hr hn g cl ta
    have hr' : (u.boardOne g cl ta).me.st = .runnable := by rw [ht.me]; exact hr
    have hn' : (u.boardOne g cl ta).me.tow = .none := by rw [ht.me]; exact hn
    by_cases e : taNum c k = ta
    · have own : u.boardOne g cl ta = u.board c k g d n := by
        subst e
        simp only [State.boardOne, taNum_div, taNum_slot, hw.st.trans hT, h, and_self, if_true]
      have hb : Boarded g d (nextPc T n) ((u.boardOne g cl ta).thread c k) := by
        have hpc : nextPc (u.thread c k) n = nextPc T n := by obtain ⟨w, -, hwt⟩ := hw; rw [hwt]; rfl
        rw [own, ← hpc]
        exact boarded_board hd (hw.calm hc hs hl) hw.not_motor g n
      exact boarded_boardAll_rest hb (hu.of ht.motors) hr' hn' cl l
    · exact ih (waiting_boardOne hT hw hu (.inr e)) (ht.launches.trans hl) (hu.of ht.motors) hr' hn' ((List.mem_cons.mp hm).resolve_left e)

/-- A member that waits elsewhere runs on. -/
theorem passed_moorAway {s u : State} (hd : plainDst d = true) (hs : s.thread c k = T) (hc : Calm s c k) (hT : T.st = .blocked (.moor g d n))
    (hw : Waiting T c k u) (hl : u.wharf.launches = s.wharf.launches) (hr : u.me.st = .runnable) {l : List Nat} (hm : taNum c k ∈ l) :
    Passed d (nextPc T n) ((u.moorAway g none l).thread c k) := by
  induction l generalizing u with
  | nil => cases hm
  | cons ta l ih =>
    have ht : Towed g u (u.moorAway g none [ta]) := towed_moorAway u g none [ta] hr
    have e1 : u.moorAway g none (ta :: l) = (u.moorAway g none [ta]).moorAway g none l := rfl
    rw [e1]
    by_cases e : taNum c k = ta
    · have own : u.moorAway g none [ta] = u.moorDone c k d n 0 := by
        subst e
        have hst := hw.st.trans hT
        simp only [State.moorAway, taNum_div, taNum_slot, hst]
        exact if_pos ⟨trivial, nofun⟩
      obtain ⟨h1, h2, h3⟩ := Thread.moored_spec hd (u.thread c k) n 0
      rw [own]
      have h4 := State.moorDone_thread hd (hw.calm hc hs hl) n 0
      rw [(apart_moorAway (u.moorDone c k d n 0) g none l (by rw [h4, h1]; nofun) (by rw [h4, h1]; nofun)).thread, h4]
      have hpc : nextPc (u.thread c k) n = nextPc T n := by obtain ⟨w, -, hwt⟩ := hw; rw [hwt]; rfl
      exact ⟨h2.trans hpc, h1, h3⟩
    · refine ih (hw.of_thread ?_) (ht.launches.trans hl) (by rw [ht.me]; exact hr) ((List.mem_cons.mp hm).resolve_left e)
      show (match (u.thread (ta / 16) (Fin.ofNat 16 ta)).st with
        | .blocked (.moor g' d len) => if g' = g ∧ (none : Option Nat) ≠ some (clusterOf (ta / 16)) then
            u.moorDone (ta / 16) (Fin.ofNat 16 ta) d len 0 else u
        | _ => u).thread c k = _
      split
      · split
        · exact (apart_moorDone u _ _ 0 (ne_of_taNum_ne e) (hw.not_read hT)).thread
        · rfl
      · rfl

end
end Sys2Proof.Machine

namespace Sys2Proof.Machine
open Sys2Proof

-- tow ------------------------------------------------------------------------------------------------------------------------------------

/-- tow on a group, with a rejoin address. -/
def State.towOn (s : State) (i : Instr) (g : Half) (r : Word) : State :=
  if !(s.group g).members.contains s.myTa || (s.group g).tow == 1 then s.trapOpen 0x05
  else if misaligned r then s.trapOpen 0x06
  else ((s.advance i).leaveTow).startTow g r

theorem exec_tow_ready {s : State} {a b : Src} (h : Ready s (.tow a b)) : exec (.tow a b) s =
    .next (s.withGroup a fun g u => (after1 u b).towOn (.tow a b) g (val1 u b)) :=
  (congrArg Host.Outcome.next (State.gated_ready h _)).trans rfl

/-- moor on a group goes on with a status, or blocks. -/
def State.moorWith (s : State) (i : Instr) (g : Half) (d : Dst) : Option Word → State
  | some v => s.result i d v
  | none => s.block (.moor g d (lengthOf i))

theorem exec_moor_ready {s : State} {d : Dst} {a : Src} (h : Ready s (.moor d a)) (hg : groupOf (fld (val1 s a) 0 16) ≠ none)
    (hm : (after1 s a).myTa ∈ ((after1 s a).group (fld (val1 s a) 0 16)).members) {v : Option Word}
    (hv : moorNow (after1 s a) (fld (val1 s a) 0 16) = v) :
    exec (.moor d a) s = .next ((after1 s a).moorWith (.moor d a) (fld (val1 s a) 0 16) d v) := by
  show execMoor d a s = _
  rw [execMoor, State.gated_ready h, State.withGroup_some hg, if_neg (by simpa using hm)]
  subst hv
  cases moorNow (after1 s a) (fld (val1 s a) 0 16) <;> rfl

theorem State.mem_of_not_trap {x : Group} {ta : Nat} (hm : ta ∈ x.members) (ht : x.tow ≠ 1) : ¬ ((!x.members.contains ta || x.tow == 1) = true) := by
  simp [hm, ht]

/-- The state in which the members of a group board, and others run on. -/
def State.towing (s : State) (g : Half) (r : Word) : State :=
  s.setGroup g { s.group g with tow := 1, motor := s.myTa, rejoin := r }

theorem State.startTow_eq (s : State) (g : Half) (r : Word) : s.startTow g r =
    ((boardAll (s.towing g r) g (clusterOf s.core) (s.group g).members).moorAway g none (s.group g).members).setMe
      { ((boardAll (s.towing g r) g (clusterOf s.core) (s.group g).members).moorAway g none (s.group g).members).me with tow := .motor g r } := rfl

section
variable {s : State} {g : Half} (hu : Unmotored g s) (hr : s.me.st = .runnable) (hn : s.me.tow = .none)
include hu hr hn

theorem towed_startTow (r : Word) (cl : Nat) (l : List Nat) :
    Towed g (s.towing g r) ((boardAll (s.towing g r) g cl l).moorAway g none l) := by
  have h1 : Towed g (s.towing g r) (boardAll (s.towing g r) g cl l) := towed_boardAll cl l hu hr hn
  exact h1.trans (towed_moorAway _ g none l (by rw [h1.me]; exact hr))

theorem startTow_me (r : Word) : (s.startTow g r).me = { s.me with tow := .motor g r } ∧
    (s.startTow g r).group g = { s.group g with tow := 1, motor := s.myTa, rejoin := r } := by
  have h := towed_startTow hu hr hn r (clusterOf s.core) (s.group g).members
  rw [State.startTow_eq, State.setMe_me, h.me]
  refine ⟨rfl, h.group.trans ?_⟩
  exact State.group_setGroup_self ..

theorem thread_startTow {c : Nat} {k : Fin 16} (hne : (c, k) ≠ (s.core, s.slot)) (r : Word) : (s.startTow g r).thread c k =
    ((boardAll (s.towing g r) g (clusterOf s.core) (s.group g).members).moorAway g none (s.group g).members).thread c k := by
  have h := towed_startTow hu hr hn r (clusterOf s.core) (s.group g).members
  rw [State.startTow_eq]
  exact State.thread_setThread_ne _ _ (by rw [h.core, h.slot]; exact hne)

/-- A member that waits in moor in the cluster of the new motor boards. -/
theorem startTow_boards {v : State} {T : Thread} {c : Nat} {k : Fin 16} {d : Dst} {n : Nat} (r : Word) (hne : (c, k) ≠ (s.core, s.slot))
    (hm : taNum c k ∈ (s.group g).members) (hd : plainDst d = true) (hT : T.st = .blocked (.moor g d n)) (hv : v.thread c k = T)
    (hc : Calm v c k) (hl : s.wharf.launches = v.wharf.launches) (hw : Waiting T c k s) (hcl : clusterOf c = clusterOf s.core) :
    Boarded g d (nextPc T n) ((s.startTow g r).thread c k) := by
  rw [thread_startTow hu hr hn hne]
  have hb := boarded_boardAll (u := s.towing g r) hd hv hc hT hw hl hu hr hn hcl hm
  have ⟨_, hst, _⟩ := hb
  rw [(apart_moorAway _ g none _ (by rw [hst]; nofun) (by rw [hst]; nofun)).thread]
  exact hb

/-- A member that waits in moor in another cluster runs on. -/
theorem startTow_passes {v : State} {T : Thread} {c : Nat} {k : Fin 16} {d : Dst} {n : Nat} (r : Word) (hne : (c, k) ≠ (s.core, s.slot))
    (hm : taNum c k ∈ (s.group g).members) (hd : plainDst d = true) (hT : T.st = .blocked (.moor g d n)) (hv : v.thread c k = T)
    (hc : Calm v c k) (hl : s.wharf.launches = v.wharf.launches) (hw : Waiting T c k s) (hcl : clusterOf c ≠ clusterOf s.core) :
    Passed d (nextPc T n) ((s.startTow g r).thread c k) := by
  rw [thread_startTow hu hr hn hne]
  have h1 : Towed g (s.towing g r) (boardAll (s.towing g r) g (clusterOf s.core) (s.group g).members) := towed_boardAll _ _ hu hr hn
  exact passed_moorAway hd hv hc hT (waiting_boardAll (u := s.towing g r) hT hw hu hr hn hcl _) (h1.launches.trans hl)
    (by rw [h1.me]; exact hr) hm

end

/-- A thread that begins a tow leaves the one that it is in: the states in which it has done so. -/
structure Left (g : Half) (i : Instr) (u v : State) : Prop where
  me : v.me = { u.me.performed (nextPc u.me (lengthOf i)) with tow := .none, fwd := [] }
  group : v.group g = u.group g
  launches : v.wharf.launches = u.wharf.launches
  core : v.core = u.core
  slot : v.slot = u.slot
  motors : MotorsFrom u v
  waits : ∀ c k d n, (c, k) ≠ (u.core, u.slot) → (u.thread c k).st = .blocked (.moor g d n) → (∀ h r, (u.thread c k).tow ≠ .motor h r) →
    Waiting (u.thread c k) c k v

theorem left_leaveTow {u : State} {g : Half} (i : Instr) (hu : Unmotored g u) (hr : u.me.st = .runnable) :
    Left g i u ((u.advance i).leaveTow) := by
  have hm1 : (u.advance i).me = u.me.performed (nextPc u.me (lengthOf i)) := State.setMe_me ..
  have hr1 : (u.advance i).me.st = .runnable := by rw [hm1, Thread.performed_st]; exact hr
  have hmot : MotorsFrom u (u.advance i) := motors_setThread fun g r e => Thread.motor_of_performed e
  have hu1 : Unmotored g (u.advance i) := hu.of hmot
  have h2 : Towed g (u.advance i) ((u.advance i).beforeBoard (u.advance i).core (u.advance i).slot) := by
    unfold State.beforeBoard
    split
    · rename_i h r ht
      exact towed_dissolve (hu1 _ _ h r ht) hr1 (by rw [show (u.advance i).me.tow = _ from ht]; simp)
    · exact .refl g _
  rw [leaveTow_eq]
  refine ⟨?_, h2.group, h2.launches, h2.core, h2.slot, hmot.trans (h2.motors.trans (motors_setThread fun _ _ e => by cases e)), ?_⟩
  · rw [State.setMe_me, h2.me, hm1]
  · intro c k d n hne hst hnm
    have hw : Waiting (u.thread c k) c k (u.advance i) := ⟨(u.thread c k).tow, hnm, State.thread_setThread_ne u _ hne⟩
    have hw2 := waiting_beforeBoard hw hst hu1 (u.advance i).core (u.advance i).slot
    exact hw2.of_thread (State.thread_setThread_ne _ _ (by rw [h2.core, h2.slot]; exact hne))

/-- A tow begins. -/
theorem towOn_begins {u : State} {g : Half} {r : Word} (i : Instr) (hm : u.myTa ∈ (u.group g).members) (ht : (u.group g).tow ≠ 1)
    (hr : (fld r 0 2 : BitVec 2) = 0) (hst : u.me.st = .runnable) (hu : Unmotored g u) :
    let t := u.towOn i g r
    t.me.tow = .motor g r ∧ t.me.pc = nextPc u.me (lengthOf i) ∧
      (t.group g).tow = 1 ∧ (t.group g).motor = u.myTa ∧ (t.group g).rejoin = r ∧ (t.group g).members = (u.group g).members ∧
      ∀ c k d n, taNum c k ∈ (u.group g).members → (c, k) ≠ (u.core, u.slot) → (u.thread c k).st = .blocked (.moor g d n) → plainDst d = true →
        Calm u c k → (∀ g' r', (u.thread c k).tow ≠ .motor g' r') → (t.thread c k).pc = nextPc (u.thread c k) n ∧
          (clusterOf c = clusterOf u.core → (t.thread c k).tow = .butty g ∧ (t.thread c k).st = .blocked .butty ∧
            (t.thread c k).fwd = [] ∧ (t.thread c k).reg d.asSrc = 1) ∧
          (clusterOf c ≠ clusterOf u.core → (t.thread c k).st = .runnable ∧ (t.thread c k).reg d.asSrc = 0) := by
  intro t
  have e : t = ((u.advance i).leaveTow).startTow g r :=
    (if_neg (State.mem_of_not_trap hm ht)).trans (if_neg (by rw [misaligned, bne_iff_ne]; exact not_not.mpr hr))
  have hl := left_leaveTow i hu hst
  rw [e]
  generalize (u.advance i).leaveTow = v at hl ⊢
  have hr' : v.me.st = .runnable := by rw [hl.me]; exact (Thread.performed_st ..).trans hst
  have hn' : v.me.tow = .none := by rw [hl.me]
  have hu' := hu.of hl.motors
  obtain ⟨h1, h2⟩ := startTow_me hu' hr' hn' r
  have hta : v.myTa = u.myTa := by rw [State.myTa, hl.core, hl.slot]; rfl
  rw [h1, h2, hl.group, hta, hl.me]
  refine ⟨rfl, Thread.performed_pc .., rfl, rfl, rfl, rfl, fun c k d n hmem hne hb hd hc hnm => ?_⟩
  have hne' : (c, k) ≠ (v.core, v.slot) := by rw [hl.core, hl.slot]; exact hne
  have hmem' : taNum c k ∈ (v.group g).members := by rw [hl.group]; exact hmem
  have hw := hl.waits c k d n hne hb hnm
  by_cases hcl : clusterOf c = clusterOf u.core
  · obtain ⟨b1, b2, b3, b4, b5⟩ := startTow_boards hu' hr' hn' r hne' hmem' hd hb rfl hc hl.launches hw (by rw [hl.core]; exact hcl)
    exact ⟨b3, fun _ => ⟨b1, b2, b4, b5⟩, fun h => absurd hcl h⟩
  · obtain ⟨b1, b2, b3⟩ := startTow_passes hu' hr' hn' r hne' hmem' hd hb rfl hc hl.launches hw (by rw [hl.core]; exact hcl)
    exact ⟨b1, fun h => absurd h hcl, fun _ => ⟨b2, b3⟩⟩

-- moor and castoff -----------------------------------------------------------------------------------------------------------------------

theorem moorNow_idle {s : State} {g : Half} (h : (s.group g).tow = 0) : moorNow s g = none := if_pos h

theorem moorNow_towing {s : State} {g : Half} (h : (s.group g).tow = 1) : moorNow s g =
    if (s.group g).motor = s.myTa ∨ s.me.tow = .butty g then some 1
    else if clusterOf ((s.group g).motor / 16) = clusterOf s.core then none else some 0 := by
  simp only [moorNow, h]
  rfl

theorem moorNow_dissolved {s : State} {g : Half} (h : 2 ≤ (s.group g).tow) : moorNow s g = some 0 :=
  (if_neg (by omega)).trans (if_neg (by omega))

theorem Thread.performed_of_not_butty {t : Thread} (h : t.isButty = false) (pc : Word) : t.performed pc = t.atPc pc := by
  simp only [Thread.performed, Thread.performedAs, h]
  rfl

/-- castoff of a thread with a part in a tow. -/
def State.castoffAs (s : State) : TowRole → State
  | .butty _ => s.setMe { s.me with pc := nextPc s.me 4, tow := .none, fwd := [] }
  | .draining _ => s.setMe { s.me with pc := nextPc s.me 4, tow := .none, fwd := [] }
  | .motor _ _ => (s.advance .castoff).leaveTow
  | .none => s.advance .castoff

theorem exec_castoff {s : State} {w : TowRole} (h : s.me.tow = w) : exec .castoff s = .next (s.castoffAs w) := by
  subst h
  rfl

theorem castoffs (s : State) : (s.me.tow = .none → exec .castoff s = .next (s.setMe { s.me with pc := s.me.pc + 4 })) ∧
    (∀ g, s.me.tow = .draining g → exec .castoff s = .next (s.setMe { s.me with pc := s.me.pc + 4, tow := .none, fwd := [] })) ∧
    (∀ g, s.me.tow = .butty g → exec .castoff s = .next (s.setMe { s.me with pc := s.me.pc + 4, tow := .none, fwd := [] })) ∧
    (∀ g r, s.me.tow = .motor g r → s.me.st = .runnable →
      ∃ t, exec .castoff s = .next t ∧ t.me.tow = .none ∧ t.me.pc = s.me.pc + 4 ∧ (t.group g).tow = 2) := by
  refine ⟨fun h => ?_, fun g h => exec_castoff h, fun g h => exec_castoff h, fun g r h hr => ⟨_, exec_castoff h, ?_⟩⟩
  · have hb : s.me.isButty = false := by rw [Thread.isButty, h]
    have e : s.castoffAs .none = s.setMe (s.me.performed (nextPc s.me 4)) := rfl
    rw [exec_castoff h, e, Thread.performed_of_not_butty hb]
    rfl
  · have hm : (s.advance .castoff).me = s.me.performed (nextPc s.me 4) := State.setMe_me ..
    obtain ⟨h1, h2⟩ := leaveTow_motor (s := s.advance .castoff) (gid := g) (r := r) (by rw [hm]; exact Thread.performed_motor _ h)
      (by rw [hm, Thread.performed_st]; exact hr)
    refine ⟨?_, ?_, ?_⟩
    · rw [State.castoffAs, h1]
    · rw [State.castoffAs, h1, hm]; exact Thread.performed_pc ..
    · rw [State.castoffAs, h2]

theorem towInstructions : Claims.TowInstructions := by
  refine ⟨fun s a b h => ?_, fun s d a h => ?_, castoffs⟩
  · intro g u r x
    refine ⟨fun hg => ⟨_, exec_tow_ready h, ?_⟩, fun hg ht => ⟨_, exec_tow_ready h, ?_⟩, fun hg hm ht hr => ⟨_, exec_tow_ready h, ?_⟩,
      fun hg hm ht hr hst hu => ⟨_, exec_tow_ready h, ?_⟩⟩
    · rw [State.withGroup_none hg]
      exact trapOpen_trapped ..
    · rw [State.withGroup_some hg]
      have e : u.towOn (.tow a b) g r = u.trapOpen 0x05 := if_pos (by
        rw [Bool.or_eq_true, Bool.not_eq_true', beq_iff_eq]
        exact ht.imp_left fun hm => by simpa using hm)
      show TrappedOpen u (u.towOn (.tow a b) g r) 0x05
      rw [e]
      exact trapOpen_trapped ..
    · rw [State.withGroup_some hg]
      have e : u.towOn (.tow a b) g r = u.trapOpen 0x06 :=
        (if_neg (State.mem_of_not_trap hm ht)).trans (if_pos (by rw [misaligned, bne_iff_ne]; exact hr))
      show TrappedOpen u (u.towOn (.tow a b) g r) 0x06
      rw [e]
      exact trapOpen_trapped ..
    · rw [State.withGroup_some hg]
      exact towOn_begins (.tow a b) hm ht hr hst hu
  · intro g u x here aboard
    refine ⟨fun hg => ?_, fun hg hm => ?_, fun hg hm => ⟨fun ht => ?_, fun ht hab => ?_, fun ht => ?_⟩⟩
    · refine ⟨_, (congrArg Host.Outcome.next (State.gated_ready h _)), ?_⟩
      rw [State.withGroup_none hg]
      exact trapOpen_trapped ..
    · refine ⟨_, (congrArg Host.Outcome.next (State.gated_ready h _)), ?_⟩
      rw [State.withGroup_some hg, if_pos (by simpa using hm)]
      exact trapOpen_trapped ..
    · have hv : moorNow u g = none := by
        rcases ht with ht | ⟨ht, hab, hh⟩
        · exact moorNow_idle ht
        · rw [moorNow_towing ht, if_neg hab, if_pos hh]
      exact exec_moor_ready h hg hm hv
    · exact exec_moor_ready h hg hm (v := some 1) (by rw [moorNow_towing ht, if_pos hab])
    · refine exec_moor_ready h hg hm (v := some 0) ?_
      rcases ht with ⟨ht, hab, hh⟩ | ht
      · rw [moorNow_towing ht, if_neg hab, if_neg hh]
      · exact moorNow_dissolved ht

-- Events of a tow --------------------------------------------------------------------------------------------------------------------------

/-- A forwarded instruction enters the buffer of its butty. -/
def State.bufferAt (s : State) (f : RingFlit) : State :=
  if (s.thread f.core f.slot).isButty then
    s.setThread f.core f.slot { s.thread f.core f.slot with
      fwd := (s.thread f.core f.slot).fwd ++ [f.f]
      st := if (s.thread f.core f.slot).st = .blocked .butty then .runnable else (s.thread f.core f.slot).st }
  else s

theorem forwardedInstructions (s : State) (n : Nat) (f : RingFlit) (hf : s.ring[n]? = some f) :
    (s.clk < f.arrives → exec (.forwardedInstruction n) s = .next s) ∧
    (f.arrives ≤ s.clk → (∀ m, m < n → ∀ h, s.ring[m]? = some h → (h.core, h.slot) ≠ (f.core, f.slot)) →
      ∃ t, exec (.forwardedInstruction n) s = .next t ∧ t.ring = dropAt s.ring n ∧
        ((s.thread f.core f.slot).isButty = true → (t.thread f.core f.slot).fwd = (s.thread f.core f.slot).fwd ++ [f.f] ∧
          ((s.thread f.core f.slot).st = .blocked .butty → (t.thread f.core f.slot).st = .runnable)) ∧
        ((s.thread f.core f.slot).isButty = false → t.thread f.core f.slot = s.thread f.core f.slot)) := by
  have e : exec (.forwardedInstruction n) s = execForwardedInstruction n s := rfl
  refine ⟨fun h => ?_, fun h hfirst => ?_⟩
  · rw [e, execForwardedInstruction]
    simp only [hf]
    exact congrArg _ (if_pos (.inl h))
  · have hno : ¬ (s.clk < f.arrives ∨ ((s.ring.take n).any fun g => g.core == f.core && g.slot == f.slot) = true) := by
      rw [not_or, List.any_eq_true]
      refine ⟨by omega, ?_⟩
      rintro ⟨g, hg, hgf⟩
      obtain ⟨m, hm⟩ := List.mem_iff_getElem?.mp hg
      rw [List.getElem?_take] at hm
      split at hm
      · rename_i hlt
        exact hfirst m hlt g hm (by simpa using hgf)
      · cases hm
    have e2 : exec (.forwardedInstruction n) s = .next (({ s with ring := dropAt s.ring n } : State).bufferAt f) := by
      rw [e, execForwardedInstruction]
      simp only [hf]
      rw [if_neg hno]
      rfl
    refine ⟨_, e2, ?_, fun hb => ?_, fun hb => ?_⟩
    · unfold State.bufferAt
      split <;> rfl
    · rw [State.bufferAt, if_pos (by exact hb), State.thread_setThread_self]
      exact ⟨rfl, fun h => if_pos h⟩
    · rw [State.bufferAt, if_neg (by rw [Bool.not_eq_true]; exact hb)]
      rfl

theorem moorRejoins (s : State) (c : Nat) (k : Fin 16) (g : Half) (d : Dst) (n : Nat) (hst : (s.thread c k).st = .blocked (.moor g d n)) :
    (motorRejoins s g = false → exec (.moorRejoin c k) s = .next s) ∧
    (motorRejoins s g = true → clusterOf ((s.group g).motor / 16) = clusterOf c → plainDst d = true → Calm s c k →
      (∀ g' r, (s.thread c k).tow ≠ .motor g' r) →
      ∃ t, exec (.moorRejoin c k) s = .next t ∧ (t.thread c k).tow = .butty g ∧ (t.thread c k).st = .blocked .butty ∧
        (t.thread c k).pc = nextPc (s.thread c k) n ∧ (t.thread c k).fwd = [] ∧ (t.thread c k).reg d.asSrc = 1 ∧
        ∀ f ∈ t.ring, (f.core, f.slot) ≠ (c, k)) := by
  have e : exec (.moorRejoin c k) s =
      .next (if motorRejoins s g && clusterOf ((s.group g).motor / 16) == clusterOf c then s.board c k g d n else s) := by
    show execMoorRejoin c k s = _
    simp only [execMoorRejoin, hst]
  rw [e]
  refine ⟨fun h => ?_, fun h hcl hd hc hm => ?_⟩
  · rw [h, Bool.false_and]
    rfl
  · rw [if_pos (by rw [h, hcl, beq_self_eq_true]; rfl)]
    obtain ⟨h1, h2, h3, h4, h5⟩ := boarded_board hd hc hm g n
    refine ⟨_, rfl, h1, h2, h3, h4, h5, fun f hf hne => ?_⟩
    rw [State.board_eq] at hf
    have hf2 := (List.mem_filter.mp hf).2
    obtain ⟨hc', hk'⟩ := Prod.mk.injEq .. ▸ hne
    rw [hc', hk'] at hf2
    simp at hf2

theorem onRing_iff (s : State) (c : Nat) (k : Fin 16) : onRing s c k = true ↔ ∃ f ∈ s.ring, (f.core, f.slot) = (c, k) := by
  simp [onRing, Prod.ext_iff]

/-- A thread with a part in a tow settles. -/
def State.settleIn (s : State) (c : Nat) (k : Fin 16) (t : Thread) : TowRole → State
  | .none => s
  | .motor gid _ => if t.st = .removed .motor ∧ !buttyFull s gid then s.setThread c k { t with st := .runnable, midway := true } else s
  | .butty _ => if t.fwd = [] ∧ t.st = .runnable then s.setThread c k { t with st := .blocked .butty } else s
  | .draining _ =>
    if t.fwd ≠ [] then s
    else if onRing s c k then (if t.st = .runnable then s.setThread c k { t with st := .blocked .butty } else s)
    else s.setThread c k { t with tow := .none, st := if t.st = .blocked .butty then .runnable else t.st }

theorem settle_eq {s : State} {c : Nat} {k : Fin 16} {w : TowRole} (h : (s.thread c k).tow = w) :
    settle s c k = s.settleIn c k (s.thread c k) w := by
  subst h
  rfl

theorem settle_draining {s : State} {c : Nat} {k : Fin 16} {g : Half} (h : (s.thread c k).tow = .draining g) (hf : (s.thread c k).fwd = []) :
    settle s c k = if onRing s c k then
      (if (s.thread c k).st = .runnable then s.setThread c k { s.thread c k with st := .blocked .butty } else s)
      else s.setThread c k
        { s.thread c k with tow := .none, st := if (s.thread c k).st = .blocked .butty then .runnable else (s.thread c k).st } :=
  (settle_eq h).trans (if_neg (not_not.mpr hf))

theorem towsSettle (s : State) (c : Nat) (k : Fin 16) :
    let T := s.thread c k
    (∀ g, T.tow = .butty g → T.fwd = [] → T.st = .runnable → settle s c k = s.setThread c k { T with st := .blocked .butty }) ∧
    (∀ g, T.tow = .draining g → T.fwd = [] → (∀ f ∈ s.ring, (f.core, f.slot) ≠ (c, k)) →
      settle s c k = s.setThread c k { T with tow := .none, st := if T.st = .blocked .butty then .runnable else T.st }) ∧
    (∀ g, T.tow = .draining g → T.fwd = [] → (∃ f ∈ s.ring, (f.core, f.slot) = (c, k)) → T.st = .runnable →
      settle s c k = s.setThread c k { T with st := .blocked .butty }) ∧
    (∀ g r, T.tow = .motor g r → T.st = .removed .motor → buttyFull s g = false →
      settle s c k = s.setThread c k { T with st := .runnable, midway := true }) := by
  intro T
  refine ⟨fun g h hf hst => ?_, fun g h hf hr => ?_, fun g h hf hr hst => ?_, fun g r h hst hb => ?_⟩
  · exact (settle_eq h).trans (if_pos ⟨hf, hst⟩)
  · have hn : ¬ onRing s c k = true := by
      rw [onRing_iff]
      rintro ⟨f, hf, e⟩
      exact hr f hf e
    exact (settle_draining h hf).trans (if_neg hn)
  · exact (settle_draining h hf).trans ((if_pos ((onRing_iff s c k).mpr hr)).trans (if_pos hst))
  · exact (settle_eq h).trans (if_pos ⟨hst, by rw [hb]; rfl⟩)

/-- Settles O37: a tow's members by induction on the group's list, each as it waits, boards or is passed; the events from their meanings. -/
theorem tows : Obligations.Tows := ⟨towInstructions, forwardedInstructions, moorRejoins, towsSettle⟩

end Sys2Proof.Machine

namespace Sys2Proof.Machine
open Sys2Proof

-- Lists and bytes ---------------------------------------------------------------------------------------------------------------------

theorem nthD_eq_getD {α : Type} (d : α) (l : List α) (n : Nat) : nthD d l n = l.getD n d := by
  induction l generalizing n with
  | nil => rfl
  | cons x l ih =>
    cases n with
    | zero => rfl
    | succ n => exact (ih n).trans (List.getD_cons_succ ..).symm

theorem takePad_getD {α : Type} (d : α) {n i : Nat} (l : List α) (h : i < n) : (takePad d n l).getD i d = l.getD i d := by
  induction n generalizing l i with
  | zero => omega
  | succ n ih =>
    cases i with
    | zero => cases l <;> rfl
    | succ i =>
      cases l with
      | nil => exact (List.getD_cons_succ ..).trans (ih [] (by omega))
      | cons x l => exact (List.getD_cons_succ ..).trans ((ih l (by omega)).trans (List.getD_cons_succ ..).symm)

theorem headD_eq_getD {α : Type} (d : α) (l : List α) : l.headD d = l.getD 0 d := by cases l <;> rfl

-- Memory ------------------------------------------------------------------------------------------------------------------------------

theorem Memory.read_congr {m l : List Host.Cell} {a n : Nat} (h : ∀ i, i < n → Memory.get l (a + i) = Memory.get m (a + i)) :
    Memory.read l a n = Memory.read m a n := by
  induction n generalizing a with
  | zero => rfl
  | succ n ih =>
    rw [Memory.read, Memory.read, ih fun i hi => by rw [show a + 1 + i = a + (i + 1) by omega]; exact h (i + 1) (by omega)]
    exact congrArg (· :: _) (h 0 (by omega))

/-- Bytes away from a write read as before. -/
theorem rawRead_rawWrite_outside {s : State} (h : Inv s) {a b n : Nat} {bs : List Byte} (e : a + n ≤ b ∨ b + bs.length ≤ a) :
    rawRead (rawWrite s b bs) a n = rawRead s a n :=
  Memory.read_congr fun i hi => Memory.get_write_outside h (by omega)

theorem inv_rawWrite {s : State} (h : Inv s) (a : Nat) (bs : List Byte) : Inv (rawWrite s a bs) := rawWrite_wf h a bs

-- Local stores -----------------------------------------------------------------------------------------------------------

theorem inv_lsWrite {s : State} (h : Inv s) (c off : Nat) (bs : List Byte) : Inv (lsWrite s c off bs) := by
  unfold lsWrite
  extract_lets o
  split
  · exact inv_rawWrite h _ _
  · exact inv_rawWrite (inv_rawWrite h _ _) _ _

theorem aloof_lsWrite (s : State) (c off : Nat) (bs : List Byte) : Aloof s (lsWrite s c off bs) := by
  unfold lsWrite
  extract_lets o
  split
  · exact aloof_rawWrite ..
  · exact (aloof_rawWrite s _ _).trans (aloof_rawWrite ..)

-- Basins, which no write of a local store touches ---------------------------------------------------------------------------------------

/-- A word of a Basin lies below every local store. -/
theorem basinWord_lsWrite {s : State} (h : Inv s) {d a : Nat} (hd : basinKey d a + 8 ≤ 2 ^ 52) (c off : Nat) (bs : List Byte) :
    basinWord (lsWrite s c off bs) d a = basinWord s d a := by
  have key : ∀ (u : State) (o : Nat) (l : List Byte), Inv u → basinWord (rawWrite u (lsKey c o) l) d a = basinWord u d a := fun u o l hu => by
    rw [basinWord, rawRead_rawWrite_outside hu (.inl (by simp only [lsKey]; omega))]; rfl
  unfold lsWrite
  extract_lets o
  split
  · exact key s _ _ h
  · exact (key _ _ _ (inv_rawWrite h _ _)).trans (key s _ _ h)

end Sys2Proof.Machine

namespace Sys2Proof.Machine
open Sys2Proof

-- Dispatch ------------------------------------------------------------------------------------------------------------------------------

/-- The state in which a chosen record has left its pound. -/
def State.unpounded (s : State) (c i : Nat) (r : Record) : State :=
  s.setCore c { s.getCore c with pound := (s.getCore c).pound.dispatch i s.clk r.kind }

theorem State.dispatch_chosen {s : State} {c i : Nat} {r : Record} (h : chosen s c = some (i, r)) {p : Record → Bool} (hp : p r = true)
    (f : Record → State → State) : s.dispatch c p f = f r (s.unpounded c i r) := by
  unfold State.dispatch
  rw [h]
  exact if_pos hp

theorem apart_unpounded (c : Nat) (k : Fin 16) (s : State) (d i : Nat) (r : Record) : Apart c k s (s.unpounded d i r) :=
  apart_setCore s _ fun e => by rw [e]

@[simp] theorem State.thread_unpounded (s : State) (d i : Nat) (r : Record) (c : Nat) (k : Fin 16) :
    (s.unpounded d i r).thread c k = s.thread c k := (apart_unpounded c k s d i r).thread

theorem State.getCore_unpounded (s : State) (c i : Nat) (r : Record) : (s.unpounded c i r).getCore c =
    { s.getCore c with pound := (s.getCore c).pound.dispatch i s.clk r.kind } := State.getCore_setCore_self ..

theorem slotFree_congr {s t : State} {c : Nat} (h : ∀ k, t.thread c k = s.thread c k) (hc : t.clk = s.clk) :
    slotFree t c = slotFree s c := by
  funext k
  rw [slotFree, h, hc]
  rfl

theorem freeGeneral_congr {s t : State} {c : Nat} (h : ∀ k, t.thread c k = s.thread c k) (hc : t.clk = s.clk) :
    freeGeneral t c = freeGeneral s c := by
  rw [freeGeneral, slotFree_congr h hc]
  rfl

theorem slotFree_of_freeGeneral {s : State} {c : Nat} {k : Fin 16} (h : freeGeneral s c = some k) : (s.thread c k).st = .empty := by
  have := List.find?_some h
  simp only [slotFree, Bool.and_eq_true, beq_iff_eq] at this
  exact this.1

-- Messages and remote accesses ----------------------------------------------------------------------------------------------------------

theorem messageWord (r : Record) {j : Nat} (h : j < 8) (f : Fin 24 → Word) :
    (Vector.ofFn fun i : Fin 24 => if i.val < 8 then nthD 0 r.pay i.val else f i).get (Fin.ofNat 24 j) = r.pay.getD j 0 := by
  rw [Vector.get_ofFn]
  have e : (Fin.ofNat 24 j).val = j := Nat.mod_eq_of_lt (by omega)
  rw [e, if_pos h, nthD_eq_getD]

theorem messageBegins (s : State) (c : Nat) (k : Fin 16) (r : Record) : let t := s.startMessage c k r
    (t.thread c k).st = .runnable ∧ (t.thread c k).pc = r.key ∧ (t.thread c k).tag = r.tag ∧
      ∀ j, j < 8 → (t.thread c k).w.get (Fin.ofNat 24 j) = r.pay.getD j 0 := by
  intro t
  have e : t.thread c k = { freshThread (s.created c) c k r.key r.tag with
      w := Vector.ofFn fun i : Fin 24 => if i.val < 8 then nthD 0 r.pay i.val else 0 } := State.thread_setThread_self ..
  rw [e]
  exact ⟨rfl, rfl, rfl, fun j hj => messageWord r hj fun _ => 0⟩

theorem remoteBegins {s : State} {c : Nat} {r : Record} (h : (s.getCore c).slot1 ≠ 0) : let t := s.startRemote c r
    (t.thread c 1).st = .runnable ∧ (t.thread c 1).pc = (s.getCore c).slot1 ∧ (t.thread c 1).w.get 8 = r.key ∧
      (t.thread c 1).serving = some r.key := by
  intro t
  have e : t.thread c 1 = { freshThread (s.created c) c 1 (s.getCore c).slot1 r.tag with
      w := Vector.ofFn fun i : Fin 24 => if i.val < 8 then nthD 0 r.pay i.val else if i.val = 8 then r.key else 0
      serving := some r.key } := by
    unfold t State.startRemote
    rw [if_neg h]
    exact State.thread_setThread_self ..
  rw [e]
  exact ⟨rfl, rfl, by rw [Vector.get_ofFn]; rfl, rfl⟩

/-- The fields of a reply to a remote access. -/
theorem accessReply_fields (key : Word) (tag : Half) (status : Byte) (t : Thread) : let p := accessReply key tag status t
    p.kind = kP ∧ p.ta = fld key 19 20 ∧ (fld p.key 8 8 : Byte) = status ∧ bit p.key 63 = true := by
  refine ⟨mkRec_kind _ _ _ _ _ (by decide), mkRec_ta .., ?_, ?_⟩
  · simp (disch := omega) only [accessReply, mkRec, BitVec.extractLsb'_append_eq_of_le, BitVec.extractLsb'_append_eq_of_add_le,
      BitVec.extractLsb'_eq_self, Nat.reduceSub]
  · simp (disch := omega) only [accessReply, mkRec, bit_append_high, Nat.reduceSub]
    decide

-- Tasks wait in the lane or the deque ---------------------------------------------------------------------------------------------------

theorem aloof_spillDeque (s : State) (c n : Nat) (l : List Entry) : Aloof s (spillDeque s c n l) := by
  induction l generalizing s n with
  | nil => exact .refl s
  | cons e l ih =>
    refine Aloof.trans ?_ (ih _ _)
    split
    · exact .refl s
    · exact aloof_lsWrite ..

theorem basinWord_spillDeque {s : State} (h : Inv s) {d a : Nat} (hd : basinKey d a + 8 ≤ 2 ^ 52) (c n : Nat) (l : List Entry) :
    basinWord (spillDeque s c n l) d a = basinWord s d a := by
  induction l generalizing s n with
  | nil => rfl
  | cons e l ih =>
    rw [spillDeque]
    split
    · exact ih h _
    · exact (ih (inv_lsWrite h ..) _).trans (basinWord_lsWrite h hd ..)

theorem State.getCore_setDeque (s : State) (c : Nat) (l : List Entry) : (s.setDeque c l).getCore c = { s.getCore c with deque := l } :=
  ((aloof_spillDeque _ c 0 l).getCore c).trans (State.getCore_setCore_self ..)

theorem apart_setDeque (c : Nat) (k : Fin 16) (s : State) (l : List Entry) : Apart c k s (s.setDeque c l) :=
  (apart_setCore s { s.getCore c with deque := l } fun _ => rfl).trans ((aloof_spillDeque _ c 0 l).apart c k)

theorem isOrdered_padded (r : Record) : isOrdered { r with pay := takePad 0 6 r.pay } = bit (r.pay.headD 0) 48 := by
  rw [isOrdered, word0, nthD_eq_getD, takePad_getD 0 _ (by omega), headD_eq_getD]

theorem pushTask_ordered {s : State} {c : Nat} {r : Record} (h : isOrdered r = true) (hl : (s.getCore c).lane.length < 16) :
    pushTask s c r = some (s.setCore c { s.getCore c with lane := (s.getCore c).lane ++ [(r, s.clk)] }) := by
  rw [pushTask, if_pos h]
  exact if_pos hl

theorem pushTask_unordered {s : State} {c : Nat} {r : Record} (h : isOrdered r = false) (hl : (s.getCore c).deque.length < 512) :
    pushTask s c r = some (s.setDeque c ((s.getCore c).deque ++ [{ r := r, at' := s.clk }])) := by
  rw [pushTask, if_neg (by rw [h]; simp), dequeRoom, if_pos hl]
  rfl

-- A task becomes a thread ------------------------------------------------------------------------------------------------------------------

/-- The thread that begins for a task whose node has a descriptor at an offset of its die's Basin. -/
structure TaskBegins (s t : State) (c : Nat) (k : Fin 16) (r : Record) (off : Nat) : Prop where
  st : (t.thread c k).st = .runnable
  pc : (t.thread c k).pc = basinWord s (dieOf c) off
  tag : (t.thread c k).tag = r.tag
  args : ∀ j, j < 6 → (t.thread c k).w.get (Fin.ofNat 24 j) = basinWord s (dieOf c) (off + 24 + 16 * j) +
    (fld (r.pay.getD 1 0) 0 32 : W32).setWidth 64 * basinWord s (dieOf c) (off + 32 + 16 * j)
  w6 : (t.thread c k).w.get 6 = (fld (r.pay.getD 1 0) 0 32 : W32).setWidth 64
  g : (t.thread c k).g = Vector.replicate 8 0
  fa : (t.thread c k).fa = fld (r.pay.getD 2 0) 0 16
  fw : (t.thread c k).fw = fld (r.pay.getD 2 0) 16 16
  fo : (t.thread c k).fo = fld (r.pay.getD 2 0) 32 16
  fsc : (t.thread c k).fsc = r.pay.getD 3 0
  inst : (t.thread c k).inst = fld (r.pay.getD 1 0) 0 32

/-- The thread of a task (01 R9). -/
def taskThread (u : State) (c : Nat) (k : Fin 16) (r : Record) (off : Nat) : Thread :=
  { freshThread u c k (basinWord u (dieOf c) off) r.tag with
      w := taskArgs u (dieOf c) off (fld (nthD 0 r.pay 1) 0 32)
      fa := fld (nthD 0 r.pay 2) 0 16
      fw := fld (nthD 0 r.pay 2) 16 16
      fo := fld (nthD 0 r.pay 2) 32 16
      fsc := nthD 0 r.pay 3
      inst := fld (nthD 0 r.pay 1) 0 32
      isTask := true
      parent := nthD 0 r.pay 5
      succ := (fld (basinWord u (dieOf c) (off + 16)) 0 27 : BitVec 27).toNat }

/-- A task claims a slot in a state where its node's words read as in another. -/
theorem taskBegins {s u : State} {c : Nat} {k : Fin 16} {r : Record} {off : Nat}
    (hn : nodeAt u (dieOf c) (fld (word0 r) 0 16 : Half).toNat (fld (word0 r) 16 16 : Half).toNat = some off)
    (hm : ∀ j, j ≤ 112 → basinWord u (dieOf c) (off + j) = basinWord s (dieOf c) (off + j)) :
    TaskBegins s (u.startTask c k r) c k r off ∧
      u.startTask c k r = (u.created c).setThread c k (taskThread (u.created c) c k r off) := by
  have e : u.startTask c k r = (u.created c).setThread c k (taskThread (u.created c) c k r off) := by
    have e1 : u.startTask c k r = match nodeAt u (dieOf c) (fld (word0 r) 0 16 : Half).toNat (fld (word0 r) 16 16 : Half).toNat with
      | none =>
        let s := (u.created c).count c r.tag 0 1
        { s with fresh := s.fresh + 1 }.postTrap c k r.tag true 0x05 0 (Config.freeWord s.fresh) r.key 0
      | some off => (u.created c).setThread c k (taskThread (u.created c) c k r off) := rfl
    rw [e1, hn]
  refine ⟨?_, e⟩
  have et : (u.startTask c k r).thread c k = taskThread (u.created c) c k r off := by rw [e, State.thread_setThread_self]
  have hb : ∀ j, basinWord (u.created c) (dieOf c) j = basinWord u (dieOf c) j := fun _ => rfl
  constructor
  case args =>
    intro j hj
    rw [et]
    show (taskArgs (u.created c) (dieOf c) off (fld (nthD 0 r.pay 1) 0 32)).get (Fin.ofNat 24 j) = _
    have e2 : (Fin.ofNat 24 j).val = j := Nat.mod_eq_of_lt (by omega)
    rw [taskArgs, Vector.get_ofFn, e2, if_pos hj, hb, hb, Nat.add_assoc off, Nat.add_assoc off, hm _ (by omega), hm _ (by omega), nthD_eq_getD]
  case pc =>
    rw [et]
    exact hm 0 (by omega)
  case w6 =>
    rw [et]
    show (taskArgs (u.created c) (dieOf c) off (fld (nthD 0 r.pay 1) 0 32)).get 6 = _
    rw [taskArgs, Vector.get_ofFn, nthD_eq_getD]
    rfl
  case st => rw [et]; rfl
  case tag => rw [et]; rfl
  case g => rw [et]; rfl
  case fa => rw [et, ← nthD_eq_getD]; rfl
  case fw => rw [et, ← nthD_eq_getD]; rfl
  case fo => rw [et, ← nthD_eq_getD]; rfl
  case fsc => rw [et, ← nthD_eq_getD]; rfl
  case inst => rw [et, ← nthD_eq_getD]; rfl

/-- A task whose node is missing is reported, and counts as retired. -/
theorem taskMissing {u : State} {c : Nat} {k : Fin 16} {r : Record}
    (hn : nodeAt u (dieOf c) (fld (word0 r) 0 16 : Half).toNat (fld (word0 r) 16 16 : Half).toNat = none) :
    ∃ p, (u.startTask c k r).thread c k = u.thread c k ∧ OnItsWay (u.startTask c k r) (senderThread c k) p ∧ p.kind = kK ∧
      (fld (p.pay.headD 0) 0 8 : Byte) = 0x05 ∧ bit (p.pay.headD 0) 8 = true ∧ p.pay.getD 2 0 = r.key ∧
      (SMap.getD ((u.startTask c k r).getCore c).counts r.tag.toNat {}).retired = (SMap.getD (u.getCore c).counts r.tag.toNat {}).retired + 1 := by
  have e : u.startTask c k r =
      { (u.created c).count c r.tag 0 1 with fresh := u.fresh + 1 }.postTrap c k r.tag true 0x05 0 (Config.freeWord u.fresh) r.key 0 := by
    have e1 : u.startTask c k r = match nodeAt u (dieOf c) (fld (word0 r) 0 16 : Half).toNat (fld (word0 r) 16 16 : Half).toNat with
      | none => { (u.created c).count c r.tag 0 1 with fresh := u.fresh + 1 }.postTrap c k r.tag true 0x05 0 (Config.freeWord u.fresh) r.key 0
      | some off => (u.created c).setThread c k (taskThread (u.created c) c k r off) := rfl
    rw [e1, hn]
  refine ⟨mkRec (coreTa (coreAddress u c)) kK 0 r.tag 0 (trapPayload 0x05 k.val true 0 (Config.freeWord u.fresh) r.key 0), ?_⟩
  rw [e]
  refine ⟨?_, post_onItsWay _ _ _, mkRec_kind _ _ _ _ _ (by decide), ?_, ?_, rfl, ?_⟩
  · rw [State.postTrap, State.thread_post]
    show ((u.created c).count c r.tag 0 1).thread c k = _
    rw [State.thread_count]
    exact (apart_setCore u { u.getCore c with createdAt := u.clk + 1 } (fun e => by rw [e])).thread
  · show (fld ((0 : W32) ++ (0 : BitVec 12) ++ BitVec.ofNat 4 k.val ++ (0 : BitVec 7) ++ BitVec.ofBool true ++ BitVec.ofNat 8 0x05) 0 8 : Byte) = _
    simp (disch := omega) only [BitVec.extractLsb'_append_eq_of_add_le, BitVec.extractLsb'_eq_self]
    rfl
  · show bit ((0 : W32) ++ (0 : BitVec 12) ++ BitVec.ofNat 4 k.val ++ (0 : BitVec 7) ++ BitVec.ofBool true ++ BitVec.ofNat 8 0x05) 8 = _
    simp (disch := omega) only [bit_append_high, bit_append_low]
    rfl
  · rw [State.postTrap, State.getCore_post]
    show (SMap.getD (((u.created c).count c r.tag 0 1).getCore c).counts r.tag.toNat {}).retired = _
    rw [State.count_counts, State.created, State.getCore_setCore_self]

-- Where nodes lie ------------------------------------------------------------------------------------------------------------------------

theorem dieOf_present {s : State} {c : Nat} (h : present s c = true) : dieOf c < 4 := by
  simp only [present, Bool.and_eq_true, decide_eq_true_eq] at h
  obtain ⟨⟨hc, -⟩, -⟩ := h
  simp only [dieOf]
  omega

theorem basinKey_low {d a : Nat} (hd : d < 4) (ha : a < 2 ^ 50) : basinKey d a + 8 ≤ 2 ^ 52 := by
  simp only [basinKey, basinBase, basinBytes]
  omega

/-- A node's descriptor lies behind those of the nodes before it, of 128 bytes each. -/
theorem nodeAt_low {s : State} {d m n off : Nat} (h : nodeAt s d m n = some off) : off < 2 ^ 27 + 128 * n := by
  simp only [nodeAt] at h
  split at h
  · cases h
    have := (fld (basinWord s d (16 * m)) 0 27 : BitVec 27).isLt
    omega
  · cases h

theorem nodeAt_congr {s u : State} {d m n : Nat} (h : basinWord u d (16 * m) = basinWord s d (16 * m)) : nodeAt u d m n = nodeAt s d m n := by
  simp only [nodeAt, h]

-- The lane's head ---------------------------------------------------------------------------------------------------------------------------

theorem laneHead_barrier {s : State} {c : Nat} {r : Record} (h : laneHead s c = some r) (hb : isBarrier r = true) : barrierOpen s c r = true := by
  unfold laneHead at h
  split at h
  · cases h
  · split at h
    · rename_i hc
      cases h
      simp only [Bool.and_eq_true, hb, Bool.not_true, Bool.false_or] at hc
      exact hc.2
    · cases h

/-- A barrier's counter on its own core lets it go: it reads zero, and no byte of it was written in this cycle. -/
theorem barrierOpen_here {s : State} {c : Nat} {r : Record} (h : barrierOpen s c r = true) (h0 : nthD 0 r.pay 4 ≠ 0)
    (ha : (fld (nthD 0 r.pay 4) 48 16 : Half) = coreAddress s c) : let off := (fld (nthD 0 r.pay 4) 0 18 : BitVec 18).toNat
    bytesNat (lsRead s c off 4) = 0 ∧ ∀ p ∈ s.written, p.1 + p.2 ≤ lsKey c off ∨ lsKey c off + 4 ≤ p.1 := by
  simp only [barrierOpen, Bool.or_eq_true, Bool.and_eq_true, beq_iff_eq, bne_iff_ne, h0, false_or, ne_eq, ha, not_true, Bool.not_eq_true'] at h
  obtain ⟨hw, hz⟩ := h
  refine ⟨hz, fun p hp => ?_⟩
  rw [writtenNow, List.any_eq_false] at hw
  have := hw p hp
  simp only [decide_eq_true_eq, not_and, not_lt] at this
  omega

theorem chosenBegin (s : State) (c i : Nat) (r : Record) (h : chosen s c = some (i, r)) :
    (∀ k, r.kind = kM → isRemote r = false → freeGeneral s c = some k → ∃ t, exec (.messageDispatch c) s = .next t ∧
      (t.thread c k).st = .runnable ∧ (t.thread c k).pc = r.key ∧ (t.thread c k).tag = r.tag ∧
      ∀ j, j < 8 → (t.thread c k).w.get (Fin.ofNat 24 j) = r.pay.getD j 0) ∧
    (r.kind = kM → isRemote r = true → (s.getCore c).slot1 ≠ 0 → ∃ t, exec (.remoteAccessDispatch c) s = .next t ∧
      (t.thread c 1).st = .runnable ∧ (t.thread c 1).pc = (s.getCore c).slot1 ∧ (t.thread c 1).w.get 8 = r.key ∧
      (t.thread c 1).serving = some r.key) ∧
    (r.kind = kM → isRemote r = true → (s.getCore c).slot1 = 0 → ∃ t p, exec (.remoteAccessDispatch c) s = .next t ∧
      OnItsWay t (senderThread c 1) p ∧ p.kind = kP ∧ p.ta = fld r.key 19 20 ∧ (fld p.key 8 8 : Byte) = 0xFE ∧ bit p.key 63 = true) ∧
    (r.kind = kT → bit (r.pay.headD 0) 48 = true → (s.getCore c).lane.length < 16 → ∃ t, exec (.taskDispatch c) s = .next t ∧
      (t.getCore c).lane = (s.getCore c).lane ++ [({ r with pay := takePad 0 6 r.pay }, s.clk)]) ∧
    (r.kind = kT → bit (r.pay.headD 0) 48 = false → (s.getCore c).deque.length < 512 → ∃ t, exec (.taskDispatch c) s = .next t ∧
      (t.getCore c).deque = (s.getCore c).deque ++ [{ r := { r with pay := takePad 0 6 r.pay }, at' := s.clk }]) := by
  have hcore := State.getCore_unpounded s c i r
  have remote : r.kind = kM → isRemote r = true → exec (.remoteAccessDispatch c) s = .next ((s.unpounded c i r).startRemote c r) := fun hk hm =>
    congrArg Host.Outcome.next (State.dispatch_chosen h (by rw [hk, hm]; rfl) _)
  have task : r.kind = kT → exec (.taskDispatch c) s =
      .next ((pushTask (s.unpounded c i r) c { r with pay := takePad 0 6 r.pay }).getD (s.unpounded c i r)) := fun hk =>
    congrArg Host.Outcome.next (State.dispatch_chosen h (by rw [hk]; rfl) _)
  refine ⟨fun k hk hm hf => ?_, fun hk hm h1 => ?_, fun hk hm h1 => ?_, fun hk ho hl => ?_, fun hk ho hl => ?_⟩
  · have e : exec (.messageDispatch c) s = .next (match freeGeneral (s.unpounded c i r) c with
        | some k => (s.unpounded c i r).startMessage c k r
        | none => s.unpounded c i r) := congrArg Host.Outcome.next (State.dispatch_chosen h (by rw [hk, hm]; rfl) _)
    rw [freeGeneral_congr (s := s) (fun k => State.thread_unpounded s c i r c k) rfl, hf] at e
    exact ⟨_, e, messageBegins _ c k r⟩
  · obtain ⟨a, b⟩ := remoteBegins (s := s.unpounded c i r) (c := c) (r := r) (by rw [hcore]; exact h1)
    rw [hcore] at b
    exact ⟨_, remote hk hm, a, b⟩
  · have e : (s.unpounded c i r).startRemote c r = (s.unpounded c i r).post (senderThread c 1) (accessReply r.key r.tag 0xFE {}) :=
      if_pos (by rw [hcore]; exact h1)
    refine ⟨_, accessReply r.key r.tag 0xFE {}, remote hk hm, ?_, accessReply_fields ..⟩
    rw [e]
    exact post_onItsWay ..
  · refine ⟨_, task hk, ?_⟩
    rw [pushTask_ordered ((isOrdered_padded r).trans ho) (by rw [hcore]; exact hl), hcore]
    exact congrArg Core.lane (State.getCore_setCore_self ..)
  · refine ⟨_, task hk, ?_⟩
    rw [pushTask_unordered ((isOrdered_padded r).trans ho) (by rw [hcore]; exact hl), hcore]
    exact congrArg Core.deque (State.getCore_setDeque ..)

theorem laneRelease {s : State} {c : Nat} {k : Fin 16} {r : Record} {n : Nat} {l : List (Record × Nat)} {off : Nat}
    (hl : (s.getCore c).lane = (r, n) :: l) (hp : present s c = true) (hh : laneHead s c = some r) (hf : freeGeneral s c = some k)
    (hn : nodeAt s (dieOf c) (fld (word0 r) 0 16 : Half).toNat (fld (word0 r) 16 16 : Half).toNat = some off) :
    ∃ t, exec (.orderedLaneRelease c) s = .next t ∧ TaskBegins s t c k r off ∧ (t.getCore c).lane = l := by
  have e : exec (.orderedLaneRelease c) s = .next ((s.setCore c { s.getCore c with lane := (s.getCore c).lane.tail }).startTask c k r) := by
    show execOrderedLaneRelease c s = _
    simp only [execOrderedLaneRelease, hp, hh, hf, Bool.not_true]
    rfl
  obtain ⟨h1, h2⟩ := taskBegins (s := s) (k := k) (u := s.setCore c { s.getCore c with lane := (s.getCore c).lane.tail }) hn fun _ _ => rfl
  refine ⟨_, e, h1, ?_⟩
  rw [h2]
  show (State.getCore (State.setCore _ c _) c).lane = l
  rw [State.getCore_setCore_self]
  show (State.getCore (State.setCore _ c _) c).lane = l
  rw [State.getCore_setCore_self, State.getCore_setCore_self, hl]
  rfl

theorem exec_dequeThreadCreate {s : State} {c : Nat} {k : Fin 16} {e : Entry} {i : Nat} (hp : present s c = true)
    (hm : mayCreate s c = true) (hh : laneHead s c = none) (hw : messageWaits s c = false) (hf : freeGeneral s c = some k)
    (hb : bottomOf s (s.getCore c).deque = some i) (he : (s.getCore c).deque[i]? = some e) :
    exec (.dequeThreadCreate c) s = .next ((s.setDeque c (dropAt (s.getCore c).deque i)).startTask c k e.r) := by
  show execDequeThreadCreate c s = _
  simp only [execDequeThreadCreate, hp, hm, hh, hw, hf, hb, he, Option.isSome_none, Bool.not_true, Bool.or_false]
  rfl

/-- Settles O35: what is chosen begins a thread or waits; the lane and the deque give theirs a slot, and their nodes read as before. -/
theorem threadsBegin : Obligations.ThreadsBegin := by
  have unpack : ∀ {s t : State} {c : Nat} {k : Fin 16} {r : Record} {off : Nat}, TaskBegins s t c k r off → _ := fun h =>
    And.intro h.st (And.intro h.pc (And.intro h.tag (And.intro h.args (And.intro h.w6 (And.intro h.g (And.intro h.fa (And.intro h.fw
      (And.intro h.fo (And.intro h.fsc h.inst)))))))))
  refine ⟨chosenBegin, fun s c r h hb => ?_, fun s c k r n l off hl hp hh hf hn => ?_, fun s c k e i off hi hp hm hh hw hf hb he => ⟨fun hn => ?_, fun hn => ?_⟩⟩
  · intro a off h0 ha
    have hb' : isBarrier r = true := by rw [isBarrier, word0, nthD_eq_getD, ← headD_eq_getD]; exact hb
    have e : nthD 0 r.pay 4 = a := nthD_eq_getD ..
    obtain ⟨h1, h2⟩ := barrierOpen_here (laneHead_barrier h hb') (by rw [e]; exact h0) (by rw [e]; exact ha)
    rw [e] at h1 h2
    exact ⟨h1, h2⟩
  · obtain ⟨t, e, ht, hlane⟩ := laneRelease hl hp hh hf hn
    exact ⟨t, e, unpack ht, hlane⟩
  · have hd := dieOf_present hp
    have hlow := nodeAt_low hn
    have hnode := (fld (word0 e.r) 16 16 : Half).isLt
    have hw' : ∀ a, a < 2 ^ 50 → basinWord (s.setDeque c (dropAt (s.getCore c).deque i)) (dieOf c) a = basinWord s (dieOf c) a := fun a ha =>
      basinWord_spillDeque (s := s.setCore c { s.getCore c with deque := dropAt (s.getCore c).deque i }) hi (basinKey_low hd ha) c 0 _
    have ht := (fld (word0 e.r) 0 16 : Half).isLt
    obtain ⟨h1, h2⟩ := taskBegins (s := s) (k := k) (r := e.r) (off := off) ((nodeAt_congr (hw' _ (by omega))).trans hn) fun j hj => hw' _ (by omega)
    refine ⟨_, exec_dequeThreadCreate hp hm hh hw hf hb he, unpack h1, ?_⟩
    rw [h2]
    show (State.getCore (State.setCore _ c _) c).deque = _
    rw [State.getCore_setCore_self]
    show (State.getCore (State.setCore _ c _) c).deque = _
    rw [State.getCore_setCore_self]
    exact congrArg Core.deque (State.getCore_setDeque ..)
  · have hd := dieOf_present hp
    have ht := (fld (word0 e.r) 0 16 : Half).isLt
    have hw' : ∀ a, a < 2 ^ 50 → basinWord (s.setDeque c (dropAt (s.getCore c).deque i)) (dieOf c) a = basinWord s (dieOf c) a := fun a ha =>
      basinWord_spillDeque (s := s.setCore c { s.getCore c with deque := dropAt (s.getCore c).deque i }) hi (basinKey_low hd ha) c 0 _
    obtain ⟨p, h1, h2⟩ := taskMissing (k := k) ((nodeAt_congr (hw' _ (by omega))).trans hn)
    rw [(apart_setDeque c k s _).thread, State.getCore_setDeque] at *
    exact ⟨_, p, exec_dequeThreadCreate hp hm hh hw hf hb he, by rw [h1]; exact slotFree_of_freeGeneral hf, h2⟩

end Sys2Proof.Machine

namespace Sys2Proof.Machine
open Sys2Proof

-- A relaxed access whose replay fails ---------------------------------------------------------------------------------------------------

theorem State.keeperFence_of {s : State} {c : Nat} (h : (s.thread c 0).st ≠ .removed .kfence) : s.keeperFence c = s := by
  unfold State.keeperFence
  split
  · rename_i e; exact absurd e h
  · rfl

theorem keySlot_eq {r : Record} {k : Fin 16} (h : (fld r.key 0 4 : BitVec 4).toNat = k.val) : keySlot r = k := Fin.ext h

/-- The failing replay of a relaxed access: its thread takes trap 0x0E, and remembers what it was Blocked in. -/
theorem State.replayFails_relaxed {s : State} {c : Nat} {k : Fin 16} {p : Park} {x : Access} (hk : k ≠ 0) (ha : p.acc = some (true, x))
    (hf : (s.thread c 0).st ≠ .removed .kfence) :
    ((s.replayFails c k p).thread c k).st = .parked { cause := 0x0E, before := p.before, done := p.done } := by
  have e : s.replayFails c k p = ((s.setThread c k { s.thread c k with relaxed := dropAt (s.thread c k).relaxed (s.thread c k).foundAt }).trapRelaxed
      c k p.before p.done 0x0E x (BitVec.ofNat 64 (p.fault.getD (0, 0)).2) 0).keeperFence c := by
    unfold State.replayFails
    rw [ha]
  have hne : (c, (0 : Fin 16)) ≠ (c, k) := fun e => hk (congrArg Prod.snd e).symm
  have h0 := ((apart_setThread s { s.thread c k with relaxed := dropAt (s.thread c k).relaxed (s.thread c k).foundAt } hne).trans
    (apart_trapRelaxed _ p.before p.done 0x0E x (BitVec.ofNat 64 (p.fault.getD (0, 0)).2) 0 hne)).thread
  rw [e, State.keeperFence_of (by rw [h0]; exact hf), State.trapRelaxed, State.thread_setThread_self]

/-- The dispatch of a replay wake that fails, for a thread that a fault parked. -/
theorem exec_replayWake_fails {s : State} {c i : Nat} {r : Record} {k : Fin 16} {p : Park} {f : Nat × Nat} (h : chosen s c = some (i, r))
    (hs : (fld r.key 0 4 : BitVec 4).toNat = k.val) (hk : r.kind = kW) (h63 : bit r.key 63 = true) (h57 : bit r.key 57 = false)
    (h62 : bit r.key 62 = true) (hp : (s.thread c k).st = .parked p) (hf : p.fault = some f) :
    exec (.replayWake c) s = .next ((s.unpounded c i r).replayFails c k p) := by
  have e : exec (.replayWake c) s = .next (if bit r.key 57 then
        (s.unpounded c i r).setEngine (portEngine c (fld r.key 58 2 : BitVec 2).toNat)
          (((s.unpounded c i r).engine (portEngine c (fld r.key 58 2 : BitVec 2).toNat)).replay (fld r.key 60 2 : BitVec 2).toNat (bit r.key 62))
      else (s.unpounded c i r).replayThread c (keySlot r) (bit r.key 62) (nthD 0 r.pay 0)) :=
    congrArg Host.Outcome.next (State.dispatch_chosen h (by rw [hk, h63]; rfl) _)
  have hth : ((s.unpounded c i r).thread c k).st = .parked p := by rw [State.thread_unpounded]; exact hp
  rw [e, h57, if_neg (by simp), keySlot_eq hs, h62]
  unfold State.replayThread
  simp only [hth, hf, Option.isSome_some, if_true]

-- A counterexample -----------------------------------------------------------------------------------------------------------------------

/-- A relaxed load whose page is absent. -/
def failedLoad : Access :=
  { op := .ld .s64 false (.g 1), sg := 2, off := 0, disp := 0, data := 0, exp := 0, kind := 3, addr := 0x10000, owner := 0, pc := 0x1000, iword := 0, len := 4 }

/-- What its thread is parked with: it was Blocked in wait when the load was found to fault. -/
def failedPark : Park := { fault := some (1, 0x10000), acc := some (true, failedLoad), before := some (.wait 1 4) }

/-- The replay wake with its fail bit, for slot 2. -/
def failedWake : Record := mkRec 0 kW 0 0 0xC000000000000002 [0]

/-- A core whose slot 2 is parked so, and whose pound holds the wake. -/
def failedCore : Core :=
  { slots := (Vector.replicate 16 ({} : Thread)).set 2
      { st := .parked failedPark, pc := 0x1000, relaxed := [{ acc := failedLoad, found := some (1, 0x10000) }] },
    pound := { entries := [{ r := failedWake, at' := 0 }] } }

def failedState : State := { State.reset with cores := [(0, failedCore)], clk := 100 }

theorem chosen_failedState : chosen failedState 0 = some (0, failedWake) := by decide

/-- Refutes O33: a thread whose relaxed access failed remembers what it was Blocked in as it takes trap 0x0E, where the statement has it forget. -/
theorem not_deliveriesWakesReplies : ¬ Obligations.DeliveriesWakesReplies := by
  unfold Obligations.DeliveriesWakesReplies
  rintro ⟨-, h⟩
  have hst : (failedState.thread 0 2).st = .parked failedPark := rfl
  have hkeeper : (failedState.thread 0 0).st ≠ .removed .kfence := by decide
  obtain ⟨-, -, -, -, hreplay, -⟩ := h failedState 0 0 failedWake 2 chosen_failedState (by decide)
  obtain ⟨-, -, -, hfail⟩ := hreplay failedPark 1 0x10000 (by decide) (by decide) (by decide) hst rfl
  obtain ⟨t, e, ht, -⟩ := hfail failedLoad true (by decide) rfl hkeeper
  have e2 := exec_replayWake_fails chosen_failedState (k := 2) (p := failedPark) (f := (1, 0x10000)) (by decide) (by decide) (by decide) (by decide)
    (by decide) hst rfl
  have ht2 := State.replayFails_relaxed (s := failedState.unpounded 0 0 failedWake) (c := 0) (k := 2) (p := failedPark) (x := failedLoad)
    (by decide) rfl (by rw [State.thread_unpounded]; exact hkeeper)
  rw [e] at e2
  cases e2
  rw [ht] at ht2
  cases ht2

end Sys2Proof.Machine

namespace Sys2Proof.Machine
open Sys2Proof

-- A keeper that is a butty of the tow whose motor it saves -----------------------------------------------------------------------------

/-- The keeper of core 0 is completing ksave of slot 2, the motor of a tow whose butty the keeper itself is. -/
def towedKeeperCore : Core :=
  { slots := ((Vector.replicate 16 ({} : Thread)).set 2 { st := .parked {}, tow := .motor 0 0 }).set 0
      { st := .removed (.saveLoad false (.g 1) 0), tow := .butty 0 },
    ksl := 2 }

def towedKeeper : State :=
  { State.reset with
    cores := [(0, towedKeeperCore)],
    dies := [(0, { groups := [(0, { members := [0, 2], tow := 1, motor := 2 })] })] }

/-- The motor's tow dissolves as the motor is saved, and its butty, the keeper, drains. -/
theorem towedKeeper_drains :
    ∃ t, exec (.keeperSaveLoadComplete 0) towedKeeper = .next t ∧ (t.thread 0 0).tow = .draining 0 := by
  refine ⟨_, rfl, ?_⟩
  decide +kernel

/-- Refutes O42: a keeper that is a butty of the tow whose motor it saves drains afterwards, where the statement has it keep its part in the tow. -/
theorem not_parkResumeKillSaveLoad : ¬ Obligations.ParkResumeKillSaveLoad := by
  unfold Obligations.ParkResumeKillSaveLoad
  rintro ⟨-, -, h⟩
  have hk : (towedKeeper.getCore 0).selected = 2 := by decide +kernel
  obtain ⟨-, hdone⟩ := h towedKeeper 0 false (.g 1) 0 (by decide +kernel)
  have hcalm : Calm towedKeeper 0 0 := ⟨by decide +kernel, by decide +kernel, by decide +kernel, by decide +kernel⟩
  have hst : (towedKeeper.thread 0 2).st = .parked {} := by decide +kernel
  have hclauses := hdone (by decide +kernel) rfl hcalm (by rw [hk]; decide)
  obtain ⟨-, -, -, -, -, -, hmotor, -⟩ := hclauses
  rw [hk] at hmotor
  have hpaging : ¬ ∃ p, (towedKeeper.thread 0 2).st = .parked p ∧ p.fault ≠ none := by
    rintro ⟨p, hp, hf⟩
    rw [hst] at hp
    cases hp
    exact hf rfl
  obtain ⟨t, e, hkeeper, -⟩ := hmotor 0 0 rfl ⟨by decide, .inl ⟨{}, hst⟩⟩ (by decide +kernel) hpaging (by decide +kernel) (by decide +kernel)
    (by decide +kernel) (by decide +kernel) (by decide)
  obtain ⟨u, e2, hdrains⟩ := towedKeeper_drains
  rw [e] at e2
  cases e2
  rw [hkeeper, Thread.putReg_tow] at hdrains
  revert hdrains
  decide +kernel

end Sys2Proof.Machine

namespace Sys2Proof.Machine
open Sys2Proof

-- A step ---------------------------------------------------------------------------------------------------------------------------------

/-- A step with power does the first act of the agenda. -/
theorem step_agenda {s : State} {a : Act} {l : List Act} (hp : s.power = true) (ha : s.agenda = a :: l) :
    step s = mapNext (actStep (a, { s with agenda := l })) settleTows := by
  unfold step nextAct
  rw [hp, ha]
  rfl

theorem mapNext_mapNext (o : Host.Outcome State Fault Refusal) (f g : State → State) : mapNext (mapNext o f) g = mapNext o fun s => g (f s) := by
  cases o <;> rfl

/-- A step in which a core issues from a slot. -/
theorem step_issue {s : State} {c : Nat} {k : Fin 16} {l : List Act} (hp : s.power = true) (ha : s.agenda = .issue c k :: l) :
    step s = mapNext (issueStep { s with agenda := l } c k) fun t => settleTows (t.afterIssue c k (s.thread c k).midway) := by
  rw [step_agenda hp ha]
  exact mapNext_mapNext _ _ _

-- A core's turn --------------------------------------------------------------------------------------------------------------------------

/-- The relaxed access that stops a slot's turn: one that failed, unless the thread is inside an operation. -/
def stopper (t : Thread) : Option Relaxed := if t.midway then none else failedRelaxed t

theorem stopper_none {t : Thread} (h : t.midway = true ∨ failedRelaxed t = none) : stopper t = none := by
  unfold stopper
  rcases h with h | h
  · exact if_pos h
  · rw [h]; exact ite_self _

/-- What is fetched at a slot's pc executes. -/
theorem issueStep_fetched {s : State} {c : Nat} {k : Fin 16} {w l0 l1 : W32} (hi : issues s c k = true)
    (hr : (s.thread c k).midway = true ∨ failedRelaxed (s.thread c k) = none)
    (ht : (s.thread c k).tow = .none ∨ ∃ gid a, (s.thread c k).tow = .motor gid a) (hf : fetch s c k = .ins w l0 l1) :
    issueStep s c k = runWord (begin (rejoin s c k) c k w) w l0 l1 := by
  have hs : (if (s.thread c k).midway then none else failedRelaxed (s.thread c k)) = none := stopper_none hr
  unfold issueStep
  rw [hi, hs]
  rcases ht with ht | ⟨gid, a, ht⟩
  · simp only [ht, hf, Bool.not_true]
    rfl
  · simp only [ht, hf, Bool.not_true]
    rfl

/-- A butty executes the first of its buffer. -/
theorem issueStep_butty {s : State} {c : Nat} {k : Fin 16} {gid : Half} {f : Forwarded} {r : List Forwarded} (hi : issues s c k = true)
    (hr : (s.thread c k).midway = true ∨ failedRelaxed (s.thread c k) = none)
    (ht : (s.thread c k).tow = .butty gid ∨ (s.thread c k).tow = .draining gid) (hf : (s.thread c k).fwd = f :: r) :
    issueStep s c k = exec f.ins (beginButty s c k f) := by
  have hs : (if (s.thread c k).midway then none else failedRelaxed (s.thread c k)) = none := stopper_none hr
  unfold issueStep
  rw [hi, hs]
  rcases ht with ht | ht
  · simp only [ht, hf, Bool.not_true]
    rfl
  · simp only [ht, hf, Bool.not_true]
    rfl

theorem rejoin_of_not_motor {s : State} {c : Nat} {k : Fin 16} (h : (s.thread c k).tow = .none) : rejoin s c k = s := by
  unfold rejoin
  simp only [h]

theorem rejoin_elsewhere {s : State} {c : Nat} {k : Fin 16} {gid : Half} {a : Word} (h : (s.thread c k).tow = .motor gid a) (hne : a ≠ (s.thread c k).pc) :
    rejoin s c k = s := by
  unfold rejoin
  simp only [h]
  exact if_neg hne

theorem spend_tow (s : State) (c : Nat) (j : Option (Fin 16)) (k : Fin 16) : ((spend s c j).thread c k).tow = (s.thread c k).tow := by
  cases j with
  | none => rfl
  | some j =>
    by_cases h : k = j
    · subst h
      show ((s.setThread c k _).thread c k).tow = _
      rw [State.thread_setThread_self]
    · exact congrArg Thread.tow (State.thread_setThread_slot _ _ _ h)

/-- The state in which an instruction executes, but for whose step it is. -/
def begun (s : State) (c : Nat) (k : Fin 16) : State :=
  (spend s c (turn s c).2).setCore c { (spend s c (turn s c).2).getCore c with last := k, issuedAt := (spend s c (turn s c).2).clk + 1 }

theorem begun_thread (s : State) (c : Nat) (k j : Fin 16) : (begun s c k).thread c j = (spend s c (turn s c).2).thread c j := by
  rw [begun, State.thread, State.getCore_setCore_self]
  rfl

/-- The thread that executes, as its instruction issues. -/
theorem begin_me (s : State) (c : Nat) (k : Fin 16) (w : W32) : (begin s c k w).thread c k =
    { (begun s c k).thread c k with
      nextIssue := (begun s c k).clk + returnInterval
      yielding := false
      midway := false
      issuedAt := (begun s c k).clk
      joined := (begun s c k).clk
      issuedPc := ((begun s c k).thread c k).pc
      issuedWord := w } :=
  State.thread_setThread_self (begun s c k) c k _

theorem begin_other (s : State) (c : Nat) {k j : Fin 16} (w : W32) (h : j ≠ k) : (begin s c k w).thread c j = (spend s c (turn s c).2).thread c j :=
  (State.thread_setThread_slot (begun s c k) c _ h).trans (begun_thread s c k j)

theorem begin_tow (s : State) (c : Nat) (k : Fin 16) (w : W32) : (begin s c k w).me.tow = (s.thread c k).tow := by
  show ((begin s c k w).thread c k).tow = _
  rw [begin_me]
  show ((begun s c k).thread c k).tow = _
  rw [begun_thread, spend_tow]

theorem runWord_error {s : State} {w l0 l1 : W32} {e : DecodeError} (h : decode32 w l0 l1 = .error e) :
    runWord s w l0 l1 = exec (.reservedEncoding w) s := by
  unfold runWord
  rw [h]

theorem runWord_plain {s : State} {w l0 l1 : W32} {i : Instr} (h : decode32 w l0 l1 = .ok i) (ht : s.me.tow = .none) :
    runWord s w l0 l1 = exec i s := by
  unfold runWord
  rw [h]
  simp only [ht]

theorem runWord_motor {s : State} {w l0 l1 : W32} {i : Instr} {gid : Half} {a : Word} (h : decode32 w l0 l1 = .ok i) (ht : s.me.tow = .motor gid a) :
    runWord s w l0 l1 = if buttyFull s gid then .next (s.remove .motor) else mapNext (exec i s) fun u => forward s u i gid := by
  unfold runWord
  rw [h]
  simp only [ht]

theorem isCustom0_of_decodeHelm {w : W32} (h : isCustom0 w = false) : decodeHelm w = .error .notCustom0 := by
  have h' : ((fld w 0 7 : BitVec 7) == 0x0B && (fld w 25 7 : BitVec 7) == 0) = false := by
    rw [show ((fld w 0 7 : BitVec 7) == 0x0B) = false from h, Bool.false_and]
  unfold decodeHelm
  rw [h']
  rfl

theorem stepRunsActs : Claims.StepRunsDecoded := by
  refine ⟨?_, ?_, ?_, ?_, ?_, ?_, ?_, ?_, ?_, ?_⟩
  · intro s c k l w l0 l1 i hp ha hi hr ht hf hd
    rw [step_issue hp ha, issueStep_fetched hi hr (.inl ht) hf, rejoin_of_not_motor (s := { s with agenda := l }) ht, runWord_plain hd]
    exact (begin_tow ..).trans ht
  · intro s c k l w l0 l1 e hp ha hi hr ht hf hd
    rw [step_issue hp ha]
    rcases ht with ht | ⟨gid, a, ht, hne⟩
    · rw [issueStep_fetched hi hr (.inl ht) hf, rejoin_of_not_motor (s := { s with agenda := l }) ht, runWord_error hd]
    · rw [issueStep_fetched hi hr (.inr ⟨gid, a, ht⟩) hf, rejoin_elsewhere (s := { s with agenda := l }) ht hne, runWord_error hd]
  · intro s c k l w l0 l1 i gid a hp ha hi hr ht hne hf hd b
    have hb : b.me.tow = .motor gid a := (begin_tow ..).trans ht
    rw [step_issue hp ha, issueStep_fetched hi hr (.inr ⟨gid, a, ht⟩) hf, rejoin_elsewhere (s := { s with agenda := l }) ht hne, runWord_motor hd hb]
    by_cases hfull : buttyFull b gid = true
    · rw [if_pos hfull, if_pos hfull]
      rfl
    · rw [if_neg hfull, if_neg hfull]
      exact mapNext_mapNext _ _ _
  · intro s c k l gid f r hp ha hi hr ht hf
    rw [step_issue hp ha, issueStep_butty (s := { s with agenda := l }) hi hr ht hf]
  · intro s t h l w i hp ha hf hd
    have e : actStep (.hart h, { s with agenda := l }) = hartStep { s with agenda := l } h := rfl
    rw [step_agenda hp ha, e, hartStep, hf]
    simp only [hd]
  · intro s t h l w hp ha hf hc
    have e : actStep (.hart h, { s with agenda := l }) = hartStep { s with agenda := l } h := rfl
    rw [step_agenda hp ha, e, hartStep, hf]
    simp only [isCustom0_of_decodeHelm hc, hc]
    rfl
  · intro s t h l hp ha hf
    have e : actStep (.hart h, { s with agenda := l }) = hartStep { s with agenda := l } h := rfl
    rw [step_agenda hp ha, e, hartStep, hf]
    rfl
  · intro s t h l op bs i hp ha hf hd
    have e : actStep (.swq h, { s with agenda := l }) = swqStep { s with agenda := l } h := rfl
    rw [step_agenda hp ha, e, swqStep, hf]
    simp only [hd]
  · intro s l i hp ha he
    have e : actStep (.event i, { s with agenda := l }) = exec i { s with agenda := l } := if_pos he
    rw [step_agenda hp ha, e]
  · intro s l hp ha ht
    have e : actStep (.tick, { s with agenda := l }) = .next (newCycle (tickClock { s with agenda := l })) := congrArg Host.Outcome.next (if_pos ht)
    rw [step_agenda hp ha, e]
    rfl

-- The barrel -----------------------------------------------------------------------------------------------------------------------------

/-- How far a slot follows the one that issued last. -/
def barrelFar (last j : Fin 16) : Nat := (j.val + 15 - last.val) % 16

theorem barrelOrder_sorted (last : Fin 16) : (barrelOrder last).Pairwise fun i j => barrelFar last i < barrelFar last j := by
  revert last; decide

theorem mem_barrelOrder (last j : Fin 16) : j ∈ barrelOrder last := by
  revert last j; decide

/-- In a list that rises by a measure, an element that no other undercuts stands first. -/
theorem head_of_least {α : Type} {f : α → Nat} {a : α} {l : List α} (hs : l.Pairwise fun i j => f i < f j) (ha : a ∈ l) (hmin : ∀ j ∈ l, f a ≤ f j) :
    ∃ r, l = a :: r := by
  cases l with
  | nil => cases ha
  | cons x r =>
    rcases List.mem_cons.mp ha with rfl | hr
    · exact ⟨r, rfl⟩
    · have h1 := (List.pairwise_cons.mp hs).1 a hr
      have h2 := hmin x (List.mem_cons_self ..)
      omega

/-- The slots that may issue, in the order in which the barrel tries them. -/
def candidates (s : State) (c : Nat) : List (Fin 16) := (barrelOrder (s.getCore c).last).filter (eligible s c)

theorem mem_candidates {s : State} {c : Nat} {j : Fin 16} : j ∈ candidates s c ↔ eligible s c j = true := by
  simp [candidates, mem_barrelOrder]

theorem candidates_sorted (s : State) (c : Nat) :
    (candidates s c).Pairwise fun i j => barrelFar (s.getCore c).last i < barrelFar (s.getCore c).last j :=
  (barrelOrder_sorted _).filter _

/-- The first of the slots that may issue, and those behind it. -/
theorem candidates_first {s : State} {c : Nat} {a : Fin 16} (ha : eligible s c a = true)
    (hmin : ∀ j, eligible s c j = true → barrelFar (s.getCore c).last a ≤ barrelFar (s.getCore c).last j) : ∃ r, candidates s c = a :: r :=
  head_of_least (candidates_sorted s c) (mem_candidates.mpr ha) fun j hj => hmin j (mem_candidates.mp hj)

/-- The turn by the slots that may issue. -/
def turnOf (s : State) (c : Nat) : List (Fin 16) → Option (Fin 16) × Option (Fin 16)
  | [] => (none, none)
  | [a] => (some a, some a)
  | a :: b :: _ => if (s.thread c a).yielding then (some b, some a) else (some a, none)

theorem turn_eq {s : State} {c : Nat} {l : List (Fin 16)} (h : candidates s c = l) : turn s c = turnOf s c l := by
  subst h
  rfl

theorem issues_iff {s : State} {c : Nat} {k : Fin 16} : issues s c k = true ↔
    (present s c = true ∧ s.opens (issueShare s.lock.level) = true ∧ (s.getCore c).issuedAt ≠ s.clk + 1) ∧ (turn s c).1 = some k := by
  simp only [issues, Bool.and_eq_true, bne_iff_ne, beq_iff_eq]
  tauto

/-- The slot that has the turn issues, and no other does. -/
theorem issues_turn {s : State} {c : Nat} {a : Fin 16} (hopen : present s c = true ∧ s.opens (issueShare s.lock.level) = true ∧ (s.getCore c).issuedAt ≠ s.clk + 1)
    (h : (turn s c).1 = some a) : issues s c a = true ∧ ∀ j, issues s c j = true → j = a := by
  refine ⟨issues_iff.mpr ⟨hopen, h⟩, fun j hj => ?_⟩
  have := (issues_iff.mp hj).2
  rw [h] at this
  cases this
  rfl

theorem slotTurns : Claims.SlotTurns := by
  intro s c a far open_
  refine ⟨fun hopen ha hmin hy => ?_, fun b hopen ha hmin hy hne hb hminb => ?_, fun h j => ?_⟩
  · obtain ⟨r, hr⟩ := candidates_first ha hmin
    refine ⟨issues_turn hopen ?_, fun w => by rw [begin_me]⟩
    rw [turn_eq hr]
    cases r with
    | nil => rfl
    | cons b r =>
      have hby : (s.thread c a).yielding = false := by
        refine hy.resolve_right fun h => ?_
        have hba : b = a := h b (mem_candidates.mp (by rw [hr]; simp))
        have := (List.pairwise_cons.mp (hr ▸ candidates_sorted s c)).1 b (List.mem_cons_self ..)
        rw [hba] at this
        exact absurd this (Nat.lt_irrefl _)
      simp [turnOf, hby]
  · obtain ⟨r, hr⟩ := candidates_first ha hmin
    have hs : (a :: r).Pairwise fun i j => barrelFar (s.getCore c).last i < barrelFar (s.getCore c).last j := hr ▸ candidates_sorted s c
    obtain ⟨hfirst, hrest⟩ := List.pairwise_cons.mp hs
    have hbr : b ∈ r := by
      have : b ∈ candidates s c := mem_candidates.mpr hb
      rw [hr] at this
      exact (List.mem_cons.mp this).resolve_left hne
    obtain ⟨q, hq⟩ := head_of_least hrest hbr fun j hj => hminb j (mem_candidates.mp (by rw [hr]; exact List.mem_cons_of_mem _ hj)) fun e => by
      have := hfirst j hj
      rw [e] at this
      exact absurd this (Nat.lt_irrefl _)
    have ht : turn s c = (some b, some a) := by
      rw [turn_eq hr, hq]
      simp [turnOf, hy]
    refine ⟨issues_turn hopen (by rw [ht]), fun w => ?_⟩
    rw [begin_other s c w (Ne.symm hne), ht]
    exact congrArg Thread.yielding (State.thread_setThread_self ..)
  · rw [Bool.eq_false_iff]
    intro hi
    obtain ⟨hopen, ht⟩ := issues_iff.mp hi
    rcases h with h | h
    · exact h hopen
    · have hn : candidates s c = [] := List.eq_nil_iff_forall_not_mem.mpr fun k hk => by
        have := mem_candidates.mp hk
        rw [h k] at this
        cases this
      rw [turn_eq hn] at ht
      cases ht

/-- Settles O4: a step from the meanings of its acts; the turn from the rising order in which the barrel tries the slots. -/
theorem stepRunsDecoded : Obligations.StepRunsDecoded := ⟨stepRunsActs, slotTurns⟩

end Sys2Proof.Machine

namespace Sys2Proof.Machine
open Sys2Proof

-- Fields of a word that is put together from fields (02 R36) ------------------------------------------------------------------

theorem fld_append_low {n m : Nat} (x : BitVec n) (y : BitVec m) {lo len : Nat} (h : lo + len ≤ m) : fld (x ++ y) lo len = fld y lo len :=
  BitVec.extractLsb'_append_eq_of_add_le h

theorem fld_append_high {n m : Nat} (x : BitVec n) (y : BitVec m) {lo len : Nat} (h : m ≤ lo) : fld (x ++ y) lo len = fld x (lo - m) len :=
  BitVec.extractLsb'_append_eq_of_le h

@[simp] theorem fld_self {n : Nat} (x : BitVec n) : fld x 0 n = x := BitVec.extractLsb'_eq_self

/-- A part of a field whose value is known. -/
theorem fld_within {n k : Nat} {w : BitVec n} {v : BitVec k} {lo i len : Nat} (hv : fld w lo k = v) (hlo : lo ≤ i) (hi : i + len ≤ lo + k) :
    fld w i len = fld v (i - lo) len := by
  rw [← hv, fld_fld w (by omega), Nat.add_sub_cancel' hlo]

/-- A bit of a field whose value is known. -/
theorem getElem_within {n k : Nat} {w : BitVec n} {v : BitVec k} {lo i : Nat} (hv : fld w lo k = v) (hlo : lo ≤ i) (hi : i < lo + k) (hn : i < n) :
    w[i] = v[i - lo]'(by omega) := by
  simp [← hv, Nat.add_sub_cancel' hlo, BitVec.getLsbD_eq_getElem hn]

/-- A field is zero when its low part and the rest of it are. -/
theorem fld_eq_zero_of_parts {n : Nat} {w : BitVec n} {lo len : Nat} (m : Nat) (hm : m ≤ len) (hlow : fld w lo m = 0)
    (hhigh : fld w (lo + m) (len - m) = 0) : fld w lo len = 0 := by
  ext i hi
  by_cases h : i < m
  · simpa [h] using congrArg (bit · i) hlow
  · have e : lo + m + (i - m) = lo + i := by omega
    have g : i - m < len - m := by omega
    simpa [e, g] using congrArg (bit · (i - m)) hhigh

section FormatA
variable (maj fn : Nat) (d a b : BitVec 6) (w : BitVec 2) {lo len : Nat}

@[simp] theorem fld_encA_major : fld (encA maj fn d a b w) 26 6 = BitVec.ofNat 6 maj := by
  simp (disch := decide) only [encA, fld_append_high, fld_self, Nat.reduceSub]
@[simp] theorem fld_encA_fn : fld (encA maj fn d a b w) 20 6 = BitVec.ofNat 6 fn := by
  simp (disch := decide) only [encA, fld_append_low, fld_append_high, fld_self, Nat.reduceSub]
@[simp] theorem fld_encA_d : fld (encA maj fn d a b w) 14 6 = d := by
  simp (disch := decide) only [encA, fld_append_low, fld_append_high, fld_self, Nat.reduceSub]
@[simp] theorem fld_encA_a : fld (encA maj fn d a b w) 8 6 = a := by
  simp (disch := decide) only [encA, fld_append_low, fld_append_high, fld_self, Nat.reduceSub]
@[simp] theorem fld_encA_b : fld (encA maj fn d a b w) 2 6 = b := by
  simp (disch := decide) only [encA, fld_append_low, fld_append_high, fld_self, Nat.reduceSub]
@[simp] theorem fld_encA_mode : fld (encA maj fn d a b w) 0 2 = w := by
  simp (disch := decide) only [encA, fld_append_low, fld_self]
theorem fld_encA_within_d (h : 14 ≤ lo) (h' : lo + len ≤ 20) : fld (encA maj fn d a b w) lo len = fld d (lo - 14) len :=
  fld_within (fld_encA_d maj fn d a b w) h h'
theorem getElem_encA_within_d (h : 14 ≤ lo) (h' : lo < 20) : (encA maj fn d a b w)[lo] = d[lo - 14] :=
  getElem_within (fld_encA_d maj fn d a b w) h h' (by omega)
@[simp] theorem fld_encA_noBMode : fld (encA maj fn d a 0#6 0#2) 0 8 = 0 :=
  fld_eq_zero_of_parts 2 (by decide) (by simp) (by simp)
@[simp] theorem fld_encA_noAB : fld (encA maj fn d 0#6 0#6 w) 2 12 = 0 :=
  fld_eq_zero_of_parts 6 (by decide) (by simp) (by simp)
@[simp] theorem fld_encA_noDAB : fld (encA maj fn 0#6 0#6 0#6 w) 2 18 = 0 :=
  fld_eq_zero_of_parts 12 (by decide) (by simp) (by simp)
@[simp] theorem fld_encA_noOperands : fld (encA maj fn 0#6 0#6 0#6 0#2) 0 20 = 0 :=
  fld_eq_zero_of_parts 2 (by decide) (by simp) (by simp)
end FormatA

section FormatsBJ
variable (maj cc : Nat) (a b : BitVec 6) (off : BitVec 10) (far : BitVec 26)

@[simp] theorem fld_encB_major : fld (encB maj cc a b off) 26 6 = BitVec.ofNat 6 maj := by
  simp (disch := decide) only [encB, fld_append_high, fld_self, Nat.reduceSub]
@[simp] theorem fld_encB_cond : fld (encB maj cc a b off) 22 4 = BitVec.ofNat 4 cc := by
  simp (disch := decide) only [encB, fld_append_low, fld_append_high, fld_self, Nat.reduceSub]
@[simp] theorem fld_encB_a : fld (encB maj cc a b off) 16 6 = a := by
  simp (disch := decide) only [encB, fld_append_low, fld_append_high, fld_self, Nat.reduceSub]
@[simp] theorem fld_encB_b : fld (encB maj cc a b off) 10 6 = b := by
  simp (disch := decide) only [encB, fld_append_low, fld_append_high, fld_self, Nat.reduceSub]
@[simp] theorem fld_encB_offset : fld (encB maj cc a b off) 0 10 = off := by
  simp (disch := decide) only [encB, fld_append_low, fld_self]

@[simp] theorem fld_encJ_major : fld (encJ maj far) 26 6 = BitVec.ofNat 6 maj := by
  simp (disch := decide) only [encJ, fld_append_high, fld_self, Nat.reduceSub]
@[simp] theorem fld_encJ_offset : fld (encJ maj far) 0 26 = far := by
  simp (disch := decide) only [encJ, fld_append_low, fld_self]
end FormatsBJ

section FormatM
variable (maj : Nat) (fn : BitVec 4) (rlx : Bool) (sg : Fin 8) (data off disp : BitVec 6) {lo len : Nat}

@[simp] theorem fld_encM_major : fld (encM maj fn rlx sg data off disp) 26 6 = BitVec.ofNat 6 maj := by
  simp (disch := decide) only [encM, fld_append_high, fld_self, Nat.reduceSub]
@[simp] theorem fld_encM_fn : fld (encM maj fn rlx sg data off disp) 22 4 = fn := by
  simp (disch := decide) only [encM, fld_append_low, fld_append_high, fld_self, Nat.reduceSub]
theorem fld_encM_rlx : fld (encM maj fn rlx sg data off disp) 21 1 = BitVec.ofBool rlx := by
  simp (disch := decide) only [encM, fld_append_low, fld_append_high, fld_self, Nat.reduceSub]
@[simp] theorem getElem_encM_rlx : (encM maj fn rlx sg data off disp)[21] = rlx := by
  rw [getElem_within (fld_encM_rlx maj fn rlx sg data off disp) (by decide) (by decide) (by decide)]
  cases rlx <;> rfl
@[simp] theorem fld_encM_sg : fld (encM maj fn rlx sg data off disp) 18 3 = BitVec.ofNat 3 sg := by
  simp (disch := decide) only [encM, fld_append_low, fld_append_high, fld_self, Nat.reduceSub]
@[simp] theorem fld_encM_data : fld (encM maj fn rlx sg data off disp) 12 6 = data := by
  simp (disch := decide) only [encM, fld_append_low, fld_append_high, fld_self, Nat.reduceSub]
@[simp] theorem fld_encM_off : fld (encM maj fn rlx sg data off disp) 6 6 = off := by
  simp (disch := decide) only [encM, fld_append_low, fld_append_high, fld_self, Nat.reduceSub]
@[simp] theorem fld_encM_disp : fld (encM maj fn rlx sg data off disp) 0 6 = disp := by
  simp (disch := decide) only [encM, fld_append_low, fld_self]
theorem fld_encM_within_fn (h : 22 ≤ lo) (h' : lo + len ≤ 26) : fld (encM maj fn rlx sg data off disp) lo len = fld fn (lo - 22) len :=
  fld_within (fld_encM_fn maj fn rlx sg data off disp) h h'
theorem getElem_encM_within_fn (h : 22 ≤ lo) (h' : lo < 26) : (encM maj fn rlx sg data off disp)[lo] = fn[lo - 22] :=
  getElem_within (fld_encM_fn maj fn rlx sg data off disp) h h' (by omega)
theorem fld_encM_within_data (h : 12 ≤ lo) (h' : lo + len ≤ 18) : fld (encM maj fn rlx sg data off disp) lo len = fld data (lo - 12) len :=
  fld_within (fld_encM_data maj fn rlx sg data off disp) h h'
theorem fld_encM_within_disp (h : lo + len ≤ 6) : fld (encM maj fn rlx sg data off disp) lo len = fld disp lo len :=
  fld_within (fld_encM_disp maj fn rlx sg data off disp) (Nat.zero_le _) (by omega)
theorem getElem_encM_within_disp (h : lo < 6) : (encM maj fn rlx sg data off disp)[lo] = disp[lo] :=
  getElem_within (fld_encM_disp maj fn rlx sg data off disp) (Nat.zero_le _) (by omega) (by omega)
@[simp] theorem fld_encM_noOperands : fld (encM maj fn false 0 0#6 0#6 0#6) 0 22 = 0 := by
  refine fld_eq_zero_of_parts 6 (by decide) (by simp) (fld_eq_zero_of_parts 6 (by decide) (by simp) ?_)
  refine fld_eq_zero_of_parts 6 (by decide) (by simp) (fld_eq_zero_of_parts 3 (by decide) (by simp) ?_)
  exact fld_encM_rlx maj fn false 0 0 0 0
@[simp] theorem fld_encM_noOff (h : fld disp 1 5 = 0) : fld (encM maj fn rlx sg data 0#6 disp) 1 11 = 0 :=
  fld_eq_zero_of_parts 5 (by decide) ((fld_encM_within_disp _ _ _ _ _ _ _ (by decide)).trans h) (by simp)
end FormatM

section FormatV
variable (maj : Nat) (fn : BitVec 6) (vd va vb vc : BitVec 4) (m : Fin 4) (md : BitVec 2) {lo len : Nat}

@[simp] theorem fld_encV_major : fld (encV maj fn vd va vb vc m md) 26 6 = BitVec.ofNat 6 maj := by
  simp (disch := decide) only [encV, fld_append_high, fld_self, Nat.reduceSub]
@[simp] theorem fld_encV_fn : fld (encV maj fn vd va vb vc m md) 20 6 = fn := by
  simp (disch := decide) only [encV, fld_append_low, fld_append_high, fld_self, Nat.reduceSub]
@[simp] theorem fld_encV_vd : fld (encV maj fn vd va vb vc m md) 16 4 = vd := by
  simp (disch := decide) only [encV, fld_append_low, fld_append_high, fld_self, Nat.reduceSub]
@[simp] theorem fld_encV_va : fld (encV maj fn vd va vb vc m md) 12 4 = va := by
  simp (disch := decide) only [encV, fld_append_low, fld_append_high, fld_self, Nat.reduceSub]
@[simp] theorem fld_encV_vb : fld (encV maj fn vd va vb vc m md) 8 4 = vb := by
  simp (disch := decide) only [encV, fld_append_low, fld_append_high, fld_self, Nat.reduceSub]
@[simp] theorem fld_encV_vc : fld (encV maj fn vd va vb vc m md) 4 4 = vc := by
  simp (disch := decide) only [encV, fld_append_low, fld_append_high, fld_self, Nat.reduceSub]
@[simp] theorem fld_encV_mask : fld (encV maj fn vd va vb vc m md) 2 2 = BitVec.ofNat 2 m := by
  simp (disch := decide) only [encV, fld_append_low, fld_append_high, fld_self, Nat.reduceSub]
@[simp] theorem fld_encV_mode : fld (encV maj fn vd va vb vc m md) 0 2 = md := by
  simp (disch := decide) only [encV, fld_append_low, fld_self]
theorem fld_encV_within_fn (h : 20 ≤ lo) (h' : lo + len ≤ 26) : fld (encV maj fn vd va vb vc m md) lo len = fld fn (lo - 20) len :=
  fld_within (fld_encV_fn maj fn vd va vb vc m md) h h'
theorem getElem_encV_within_fn (h : 20 ≤ lo) (h' : lo < 26) : (encV maj fn vd va vb vc m md)[lo] = fn[lo - 20] :=
  getElem_within (fld_encV_fn maj fn vd va vb vc m md) h h' (by omega)
theorem fld_encV_within_vd (h : 16 ≤ lo) (h' : lo + len ≤ 20) : fld (encV maj fn vd va vb vc m md) lo len = fld vd (lo - 16) len :=
  fld_within (fld_encV_vd maj fn vd va vb vc m md) h h'
theorem fld_encV_within_va (h : 12 ≤ lo) (h' : lo + len ≤ 16) : fld (encV maj fn vd va vb vc m md) lo len = fld va (lo - 12) len :=
  fld_within (fld_encV_va maj fn vd va vb vc m md) h h'
theorem fld_encV_within_vb (h : 8 ≤ lo) (h' : lo + len ≤ 12) : fld (encV maj fn vd va vb vc m md) lo len = fld vb (lo - 8) len :=
  fld_within (fld_encV_vb maj fn vd va vb vc m md) h h'
theorem getElem_encV_within_mode (h : lo < 2) : (encV maj fn vd va vb vc m md)[lo] = md[lo] :=
  getElem_within (fld_encV_mode maj fn vd va vb vc m md) (Nat.zero_le _) (by omega) (by omega)
@[simp] theorem fld_encV_noBC : fld (encV maj fn vd va 0#4 0#4 m md) 4 8 = 0 :=
  fld_eq_zero_of_parts 4 (by decide) (by simp) (by simp)
end FormatV

section FormatVS
variable (maj : Nat) (fn : BitVec 6) (vd va : BitVec 4) (s : BitVec 6) (m : Fin 4) (md : BitVec 2) {lo len : Nat}

@[simp] theorem fld_encVS_major : fld (encVS maj fn vd va s m md) 26 6 = BitVec.ofNat 6 maj := by
  simp (disch := decide) only [encVS, fld_append_high, fld_self, Nat.reduceSub]
@[simp] theorem fld_encVS_fn : fld (encVS maj fn vd va s m md) 20 6 = fn := by
  simp (disch := decide) only [encVS, fld_append_low, fld_append_high, fld_self, Nat.reduceSub]
@[simp] theorem fld_encVS_vd : fld (encVS maj fn vd va s m md) 16 4 = vd := by
  simp (disch := decide) only [encVS, fld_append_low, fld_append_high, fld_self, Nat.reduceSub]
@[simp] theorem fld_encVS_va : fld (encVS maj fn vd va s m md) 12 4 = va := by
  simp (disch := decide) only [encVS, fld_append_low, fld_append_high, fld_self, Nat.reduceSub]
@[simp] theorem fld_encVS_scalar : fld (encVS maj fn vd va s m md) 6 6 = s := by
  simp (disch := decide) only [encVS, fld_append_low, fld_append_high, fld_self, Nat.reduceSub]
@[simp] theorem fld_encVS_gap : fld (encVS maj fn vd va s m md) 4 2 = 0 := by
  simp (disch := decide) only [encVS, fld_append_low, fld_append_high, fld_self, Nat.reduceSub]
@[simp] theorem fld_encVS_mask : fld (encVS maj fn vd va s m md) 2 2 = BitVec.ofNat 2 m := by
  simp (disch := decide) only [encVS, fld_append_low, fld_append_high, fld_self, Nat.reduceSub]
@[simp] theorem fld_encVS_mode : fld (encVS maj fn vd va s m md) 0 2 = md := by
  simp (disch := decide) only [encVS, fld_append_low, fld_self]
theorem fld_encVS_within_vd (h : 16 ≤ lo) (h' : lo + len ≤ 20) : fld (encVS maj fn vd va s m md) lo len = fld vd (lo - 16) len :=
  fld_within (fld_encVS_vd maj fn vd va s m md) h h'
end FormatVS

section FormatT
variable (maj kind op : Nat) (len : BitVec 3) (a b : BitVec 6)

@[simp] theorem fld_encT_major : fld (encT maj kind op len a b) 26 6 = BitVec.ofNat 6 maj := by
  simp (disch := decide) only [encT, fld_append_high, fld_self, Nat.reduceSub]
@[simp] theorem fld_encT_kind : fld (encT maj kind op len a b) 23 3 = BitVec.ofNat 3 kind := by
  simp (disch := decide) only [encT, fld_append_low, fld_append_high, fld_self, Nat.reduceSub]
@[simp] theorem fld_encT_op : fld (encT maj kind op len a b) 19 4 = BitVec.ofNat 4 op := by
  simp (disch := decide) only [encT, fld_append_low, fld_append_high, fld_self, Nat.reduceSub]
@[simp] theorem fld_encT_len : fld (encT maj kind op len a b) 16 3 = len := by
  simp (disch := decide) only [encT, fld_append_low, fld_append_high, fld_self, Nat.reduceSub]
@[simp] theorem fld_encT_a : fld (encT maj kind op len a b) 10 6 = a := by
  simp (disch := decide) only [encT, fld_append_low, fld_append_high, fld_self, Nat.reduceSub]
@[simp] theorem fld_encT_b : fld (encT maj kind op len a b) 4 6 = b := by
  simp (disch := decide) only [encT, fld_append_low, fld_append_high, fld_self, Nat.reduceSub]
@[simp] theorem fld_encT_gap : fld (encT maj kind op len a b) 0 4 = 0 := by
  simp (disch := decide) only [encT, fld_append_low, fld_self]
end FormatT

-- Codes of operands and of small fields (02 R33-R45) --------------------------------------------------------------------------

/-- The low field of a number that a wider field holds. -/
@[simp] theorem fld_ofNat_low (n x k : Nat) (h : k ≤ n) : fld (BitVec.ofNat n x) 0 k = BitVec.ofNat k x := by
  ext i hi
  simp [BitVec.getElem_eq_testBit_toNat, Nat.testBit_mod_two_pow, hi, Nat.lt_of_lt_of_le hi h]

/-- Above a register's number its field is zero. -/
@[simp] theorem getElem_fin_above {m n lo : Nat} (i : Fin m) (hn : lo < n) (h : m ≤ 2 ^ lo) : (BitVec.ofNat n i)[lo] = false := by
  simp [BitVec.getElem_eq_testBit_toNat, Nat.testBit_mod_two_pow, Nat.testBit_lt_two_pow (Nat.lt_of_lt_of_le i.isLt h)]

@[simp] theorem fld_fin_above {m n lo len : Nat} (i : Fin m) (h : m ≤ 2 ^ lo) : fld (BitVec.ofNat n i) lo len = 0#len := by
  ext j hj
  have e : (i : Nat).testBit (lo + j) = false :=
    Nat.testBit_lt_two_pow (Nat.lt_of_lt_of_le i.isLt (Nat.le_trans h (Nat.pow_le_pow_right Nat.two_pos (Nat.le_add_right lo j))))
  simp [BitVec.getLsbD_ofNat, e]

@[simp] theorem fld_setWidth_self {n m : Nat} (x : BitVec n) (h : n ≤ m) : fld (x.setWidth m) 0 n = x :=
  (BitVec.extractLsb'_setWidth_of_le (by omega)).trans (fld_self x)

@[simp] theorem fld_setWidth_above {n m lo len : Nat} (x : BitVec n) (h : n ≤ lo) : fld (x.setWidth m) lo len = 0#len := by
  ext i hi
  simp [BitVec.getLsbD_of_ge x (lo + i) (by omega)]

/-- sgset.k's segment number and its target bit share a field (09 R194). -/
@[simp] theorem f8_targetSegment (i : Fin 8) : f8 (BitVec.ofNat 3 (8 + i)) = i := by revert i; decide
@[simp] theorem fld_targetSegment_above (i : Fin 8) : fld (BitVec.ofNat 6 (8 + i)) 4 2 = 0#2 := by revert i; decide
@[simp] theorem getElem_targetSegment (i : Fin 8) : (BitVec.ofNat 6 (8 + i))[3] = true := by revert i; decide

@[simp] theorem f8_ofFin (i : Fin 8) : f8 (BitVec.ofFin i) = i := rfl
@[simp] theorem f4_ofFin (i : Fin 4) : f4 (BitVec.ofFin i) = i := rfl
@[simp] theorem f32_ofFin (i : Fin 32) : f32 (BitVec.ofFin i) = i := rfl
@[simp] theorem f16_v4 (i : Fin 16) : f16 (v4 i) = i := by revert i; decide

@[simp] theorem dstOf_code (d : Dst) : dstOf d.code = .ok d := by
  cases d with
  | g i | w i | q i | e i => revert i; decide

/-- A source is named by its code where the words that follow begin with its literal words (02 R34). -/
theorem srcOf_code {a : Src} {l0 l1 : W32} (h : a.words.isPrefixOf [l0, l1] = true) : srcOf a.code l0 l1 = .ok a := by
  cases a with
  | g i | w i | q i | e i => revert i; exact of_decide_eq_true rfl
  | lit32 v => simp_all [Src.words, Src.code, srcOf]
  | lit64 v =>
    have e : (fld v 32 32 : W32) ++ (fld v 0 32 : W32) = v :=
      (BitVec.extractLsb'_append_extractLsb'_eq_extractLsb' rfl).trans (fld_self v)
    simp_all [Src.words, Src.code, srcOf]
  | small v => revert v; exact of_decide_eq_true rfl

@[simp] theorem widthOf_code (w : Width) : widthOf w.code = w := by cases w <;> rfl
@[simp] theorem condOf_num4 (cc : Cond) : condOf (cc.num % 16) = .ok cc := by cases cc <;> rfl
@[simp] theorem condOf_num3 (cc : Cond) : condOf (cc.num % 8) = .ok cc := by cases cc <;> rfl
@[simp] theorem sizeOf2_code (z : Size) : sizeOf2 z.code = z := by cases z <;> rfl
@[simp] theorem amoOf_num (op : AmoOp) : Sys2Proof.amoOf (BitVec.ofNat 3 op.num) = op := by cases op <;> rfl
@[simp] theorem bopOf_num (op : BopOp) : bopOf (op.num % 16) = .ok op := by cases op <;> rfl
@[simp] theorem ftypeOf_code (t : FType) : ftypeOf t.code = .ok t := by cases t <;> rfl
@[simp] theorem itypeOf_code (t : IType) : itypeOf t.code = t := by cases t <;> rfl
@[simp] theorem cmpTypeOf_num (t : CmpType) : cmpTypeOf (t.num % 8) = .ok t := by cases t <;> rfl
@[simp] theorem cvtTypeOf_num (t : CvtType) : cvtTypeOf (BitVec.ofNat 3 t.num) = t := by cases t <;> rfl
@[simp] theorem redTypeOf_code (t : RedType) : redTypeOf t.code = .ok t := by cases t <;> rfl
@[simp] theorem roundingOf_code (r : Rounding) : roundingOf r.code = r := by cases r <;> rfl
@[simp] theorem updOf_num (op : UpdOp) : updOf (op.num % 16) = .ok op := by cases op <;> rfl
@[simp] theorem sregOf_index (r : SReg) : sregOf (r.index % 64) = .ok r := by cases r <;> rfl
@[simp] theorem portOf_code (p : Fin 4) : portOf (Src.e p).code = .ok p := by revert p; decide

-- Function fields that are put together from two codes (02 R41, R42) ------------------------------------------------------------

@[simp] theorem fld_fnT_op (op : Nat) (t : BitVec 2) : fld (fnT op t) 2 4 = BitVec.ofNat 4 op := by
  simp (disch := decide) only [fnT, fld_append_high, fld_self, Nat.reduceSub]
@[simp] theorem fld_fnT_type (op : Nat) (t : BitVec 2) : fld (fnT op t) 0 2 = t := by
  simp (disch := decide) only [fnT, fld_append_low, fld_self]
@[simp] theorem fld_fnZ_size (z : Size) (hi lo : Bool) : fld (fnZ z hi lo) 2 2 = z.code := by
  simp (disch := decide) only [fnZ, fld_append_high, fld_self, Nat.reduceSub]
@[simp] theorem getElem_fnZ_hi (z : Size) (hi lo : Bool) : (fnZ z hi lo)[1] = hi := by cases z <;> cases hi <;> cases lo <;> rfl
@[simp] theorem getElem_fnZ_lo (z : Size) (hi lo : Bool) : (fnZ z hi lo)[0] = lo := by cases z <;> cases hi <;> cases lo <;> rfl
@[simp] theorem fld_sizeMask_size (z : Size) (m : Fin 4) : fld (z.code ++ (BitVec.ofFin m : BitVec 2) : BitVec 4) 2 2 = z.code := by
  simp (disch := decide) only [fld_append_high, fld_self, Nat.reduceSub]
@[simp] theorem fld_sizeMask_mask (z : Size) (m : Fin 4) : fld (z.code ++ (BitVec.ofFin m : BitVec 2) : BitVec 4) 0 2 = BitVec.ofFin m := by
  simp (disch := decide) only [fld_append_low, fld_self]
@[simp] theorem fld_amoFn_op (op : AmoOp) (wide : Bool) : fld (BitVec.ofNat 3 op.num ++ BitVec.ofBool wide : BitVec 4) 1 3 = BitVec.ofNat 3 op.num := by
  simp (disch := decide) only [fld_append_high, fld_self, Nat.reduceSub]
@[simp] theorem getElem_amoFn_wide (op : AmoOp) (wide : Bool) : (BitVec.ofNat 3 op.num ++ BitVec.ofBool wide : BitVec 4)[0] = wide := by
  cases op <;> cases wide <;> rfl
@[simp] theorem fld_cmpFn_cond (cc : Cond) (t : CmpType) : fld (BitVec.ofNat 3 cc.num ++ BitVec.ofNat 3 t.num : BitVec 6) 3 3 = BitVec.ofNat 3 cc.num := by
  simp (disch := decide) only [fld_append_high, fld_self, Nat.reduceSub]
@[simp] theorem fld_cmpFn_type (cc : Cond) (t : CmpType) : fld (BitVec.ofNat 3 cc.num ++ BitVec.ofNat 3 t.num : BitVec 6) 0 3 = BitVec.ofNat 3 t.num := by
  simp (disch := decide) only [fld_append_low, fld_self]
@[simp] theorem fld_cvtFn_to (y x : CvtType) : fld (BitVec.ofNat 3 y.num ++ BitVec.ofNat 3 x.num : BitVec 6) 3 3 = BitVec.ofNat 3 y.num := by
  simp (disch := decide) only [fld_append_high, fld_self, Nat.reduceSub]
@[simp] theorem fld_cvtFn_from (y x : CvtType) : fld (BitVec.ofNat 3 y.num ++ BitVec.ofNat 3 x.num : BitVec 6) 0 3 = BitVec.ofNat 3 x.num := by
  simp (disch := decide) only [fld_append_low, fld_self]

-- What each format's decoder makes of its word ------------------------------------------------------------------------------

/-- decodeFields, with the major and the function code given. -/
def decodeMajor (maj fn : Nat) (w l0 l1 : W32) : Decoded :=
  if reservedMajor maj then .error .reservedMajor
  else if maj ≤ 0x07 then decScalar maj fn w l0 l1
  else if maj = 0x08 then .ok (.b (fld w 0 26))
  else if maj = 0x09 then .ok (.call (fld w 0 26))
  else if maj ≤ 0x0B then decBranch maj w l0 l1
  else if maj ≤ 0x0D then decControl maj fn w l0 l1
  else if maj ≤ 0x17 then decMemory maj w l0 l1
  else if maj ≤ 0x19 then decFloat w maj
  else if maj = 0x1A then decVInt w
  else if maj ≤ 0x1C then decVLogic w maj
  else if maj ≤ 0x1F then decVMove w l0 l1 maj
  else if maj ≤ 0x21 then decVRed w l0 l1 maj
  else if maj ≤ 0x27 then decWeir maj w l0 l1
  else if maj = 0x29 then decPost maj w l0 l1
  else if maj = 0x2A then decPost maj w l0 l1
  else decSystem maj fn w l0 l1

theorem decodeFields_eq (w l0 l1 : W32) : decodeFields w l0 l1 = decodeMajor (fld w 26 6).toNat (fld w 20 6).toNat w l0 l1 := rfl

theorem decodeFields_of_major {w l0 l1 : W32} {maj : Nat} {i : Instr} (hm : fld w 26 6 = BitVec.ofNat 6 maj) (h64 : maj < 64)
    (h : decodeMajor maj (fld w 20 6).toNat w l0 l1 = .ok i) : decodeFields w l0 l1 = .ok i := by
  rw [decodeFields_eq, hm, BitVec.toNat_ofNat, Nat.mod_eq_of_lt h64, h]

theorem decodeFields_encA {maj fn : Nat} {d a b : BitVec 6} {w : BitVec 2} {l0 l1 : W32} {i : Instr} (hm : maj < 64) (hf : fn < 64)
    (h : decodeMajor maj fn (encA maj fn d a b w) l0 l1 = .ok i) : decodeFields (encA maj fn d a b w) l0 l1 = .ok i := by
  refine decodeFields_of_major (fld_encA_major maj fn d a b w) hm ?_
  rwa [fld_encA_fn, BitVec.toNat_ofNat, Nat.mod_eq_of_lt hf]

theorem decodeFields_encB {maj cc : Nat} {a b : BitVec 6} {off : BitVec 10} {l0 l1 : W32} {i : Instr} (hm : maj < 64)
    (h : decodeMajor maj (fld (encB maj cc a b off) 20 6).toNat (encB maj cc a b off) l0 l1 = .ok i) : decodeFields (encB maj cc a b off) l0 l1 = .ok i :=
  decodeFields_of_major (fld_encB_major maj cc a b off) hm h

theorem decodeFields_encM {maj : Nat} {fn : BitVec 4} {rlx : Bool} {sg : Fin 8} {data off disp : BitVec 6} {l0 l1 : W32} {i : Instr} (hm : maj < 64)
    (h : decodeMajor maj (fld (encM maj fn rlx sg data off disp) 20 6).toNat (encM maj fn rlx sg data off disp) l0 l1 = .ok i) :
    decodeFields (encM maj fn rlx sg data off disp) l0 l1 = .ok i :=
  decodeFields_of_major (fld_encM_major maj fn rlx sg data off disp) hm h

theorem decodeFields_encV {maj : Nat} {fn : BitVec 6} {vd va vb vc : BitVec 4} {m : Fin 4} {md : BitVec 2} {l0 l1 : W32} {i : Instr} (hm : maj < 64)
    (h : decodeMajor maj (fld (encV maj fn vd va vb vc m md) 20 6).toNat (encV maj fn vd va vb vc m md) l0 l1 = .ok i) :
    decodeFields (encV maj fn vd va vb vc m md) l0 l1 = .ok i :=
  decodeFields_of_major (fld_encV_major maj fn vd va vb vc m md) hm h

theorem decodeFields_encVS {maj : Nat} {fn : BitVec 6} {vd va : BitVec 4} {s : BitVec 6} {m : Fin 4} {md : BitVec 2} {l0 l1 : W32} {i : Instr} (hm : maj < 64)
    (h : decodeMajor maj (fld (encVS maj fn vd va s m md) 20 6).toNat (encVS maj fn vd va s m md) l0 l1 = .ok i) :
    decodeFields (encVS maj fn vd va s m md) l0 l1 = .ok i :=
  decodeFields_of_major (fld_encVS_major maj fn vd va s m md) hm h

theorem decodeFields_encT {maj kind op : Nat} {len : BitVec 3} {a b : BitVec 6} {l0 l1 : W32} {i : Instr} (hm : maj < 64)
    (h : decodeMajor maj (fld (encT maj kind op len a b) 20 6).toNat (encT maj kind op len a b) l0 l1 = .ok i) :
    decodeFields (encT maj kind op len a b) l0 l1 = .ok i :=
  decodeFields_of_major (fld_encT_major maj kind op len a b) hm h

theorem decodeFields_encJ {maj : Nat} {off : BitVec 26} {l0 l1 : W32} {i : Instr} (hm : maj < 64)
    (h : decodeMajor maj (fld (encJ maj off) 20 6).toNat (encJ maj off) l0 l1 = .ok i) : decodeFields (encJ maj off) l0 l1 = .ok i :=
  decodeFields_of_major (fld_encJ_major maj off) hm h

@[simp] theorem ok_bind {α β : Type} (a : α) (f : α → Except DecodeError β) : (Except.ok a >>= f) = f a := rfl
@[simp] theorem need_true (e : DecodeError) : need true e = .ok () := rfl

-- The formats' operand lists (02 R36)
section Operands
variable {maj fn : Nat} {l0 l1 : W32} {a b : Src} (ha : srcOf a.code l0 l1 = .ok a) (hb : srcOf b.code l0 l1 = .ok b) (d : Dst) (w : Width)
include ha

theorem da_encA (k : Dst → Src → Width → Instr) : da (encA maj fn d.code a.code 0 w.code) l0 l1 k = .ok (k d a w) := by
  simp [da, ha]
theorem daZ_encA (k : Dst → Src → Instr) : daZ (encA maj fn d.code a.code 0 0) l0 l1 k = .ok (k d a) := by
  simp [daZ, mode0, ha]
theorem aZ_encA (k : Src → Instr) : aZ (encA maj fn 0 a.code 0 0) l0 l1 k = .ok (k a) := by
  simp [aZ, mode0, ha]
include hb
theorem dab_encA (k : Dst → Src → Src → Width → Instr) : dab (encA maj fn d.code a.code b.code w.code) l0 l1 k = .ok (k d a b w) := by
  simp [dab, ha, hb]
theorem abZ_encA (k : Src → Src → Instr) : abZ (encA maj fn 0 a.code b.code 0) l0 l1 k = .ok (k a b) := by
  simp [abZ, mode0, ha, hb]
end Operands

theorem dZ_encA (maj fn : Nat) (d : Dst) (k : Dst → Instr) : dZ (encA maj fn d.code 0 0 0) k = .ok (k d) := by
  simp [dZ, mode0]
theorem noOps_encA (maj fn : Nat) (i : Instr) : noOps (encA maj fn 0 0 0 0) i = .ok i := by
  simp [noOps]


-- Every compute instruction's word, a family at a time -----------------------------------------------------------------------

section Families
variable {i : Instr} {l0 l1 : W32} (hs : ∀ a ∈ instrSrcs i, srcOf a.code l0 l1 = .ok a)
include hs

theorem decodes_scalar (hi : isScalar i = true) : decodeFields (headWord i) l0 l1 = .ok i := by
  cases i with
  | add d a b w | sub d a b w | minI d a b w | maxI d a b w | minN d a b w | maxN d a b w | and d a b w | or d a b w | xor d a b w
  | andn d a b w | shl d a b w | shrN d a b w | shrI d a b w | rot d a b w | sel d a b w | mul d a b w | mulhI d a b w | mulhN d a b w
  | divI d a b w | divN d a b w | remI d a b w | remN d a b w | extI d a b w | extN d a b w | ins d a b w =>
    exact decodeFields_encA (by decide) (by decide) (dab_encA (hs a (by simp [instrSrcs])) (hs b (by simp [instrSrcs])) d w _)
  | cmp cc d a b w =>
    have h : ∀ k, dab _ l0 l1 k = .ok (k d a b w) :=
      dab_encA (maj := 3) (fn := cc.num) (hs a (by simp [instrSrcs])) (hs b (by simp [instrSrcs])) d w
    cases cc <;> exact decodeFields_encA (by decide) (by decide) (h _)
  | lea sc d a b w =>
    have h : ∀ k, dab _ l0 l1 k = .ok (k d a b w) :=
      dab_encA (maj := 6) (fn := sc.toNat) (hs a (by simp [instrSrcs])) (hs b (by simp [instrSrcs])) d w
    obtain rfl | rfl | rfl | rfl : sc = 0 ∨ sc = 1 ∨ sc = 2 ∨ sc = 3 := by bv_omega
    all_goals exact decodeFields_encA (by decide) (by decide) (h _)
  | clz d a w | ctz d a w | popc d a w | mov d a w =>
    exact decodeFields_encA (by decide) (by decide) (da_encA (hs a (by simp [instrSrcs])) d w _)
  | rds d r => exact decodeFields_encA (by decide) (by decide) (show decScalar 0x07 1 _ l0 l1 = _ by simp [decScalar])
  | _ => exact absurd hi Bool.false_ne_true

theorem decodes_control (hi : isControl i = true) : decodeFields (headWord i) l0 l1 = .ok i := by
  cases i with
  | b off => exact decodeFields_encJ (by decide) (congrArg (Except.ok ∘ Instr.b) (fld_encJ_offset 8 off))
  | br cc a b off =>
    have ha := hs a (by simp [instrSrcs])
    have hb := hs b (by simp [instrSrcs])
    exact decodeFields_encB (by decide) (show decBranch _ _ l0 l1 = _ by simp [decBranch, ha, hb])
  | bz a off | bnz a off =>
    have ha := hs a (by simp [instrSrcs])
    exact decodeFields_encB (by decide) (show decBranch _ _ l0 l1 = _ by simp [decBranch, ha])
  | call off => exact decodeFields_encJ (by decide) (congrArg (Except.ok ∘ Instr.call) (fld_encJ_offset 9 off))
  | jmp a | callr a | wait a | alarm a =>
    exact decodeFields_encA (by decide) (by decide) (aZ_encA (hs a (by simp [instrSrcs])) _)
  | ret | endT | yield => exact decodeFields_encA (by decide) (by decide) (noOps_encA _ _ _)
  | _ => exact absurd hi Bool.false_ne_true

theorem decodes_memory (hi : isMemory i = true) : decodeFields (headWord i) l0 l1 = .ok i := by
  cases i with
  | ld z s r g d o p =>
    have ho := hs o (by simp [instrSrcs])
    refine decodeFields_encM (by decide) (show decMemory 0x10 _ l0 l1 = _ from ?_)
    simp [decMemory, offM, ho, fld_encM_within_fn, getElem_encM_within_fn]
  | st z r g a o p =>
    have ha := hs a (by simp [instrSrcs])
    have ho := hs o (by simp [instrSrcs])
    refine decodeFields_encM (by decide) (show decMemory 0x11 _ l0 l1 = _ from ?_)
    simp [decMemory, offM, ha, ho, fld_encM_within_fn, getElem_encM_within_fn]
  | vld z m r g v o p =>
    have ho := hs o (by simp [instrSrcs])
    refine decodeFields_encM (by decide) (show decMemory 0x12 _ l0 l1 = _ from ?_)
    simp [decMemory, offM, ho, fld_encM_within_fn, fld_encM_within_data]
  | vst z m r g v o p =>
    have ho := hs o (by simp [instrSrcs])
    refine decodeFields_encM (by decide) (show decMemory 0x13 _ l0 l1 = _ from ?_)
    simp [decMemory, offM, ho, fld_encM_within_fn, fld_encM_within_data]
  | amo op wide g d o p =>
    have ho := hs o (by simp [instrSrcs])
    refine decodeFields_encM (by decide) (show decMemory 0x14 _ l0 l1 = _ from ?_)
    simp [decMemory, offM, ho, fld_encM_within_fn, getElem_encM_within_fn]
  | bop op g v o m =>
    have ho := hs o (by simp [instrSrcs])
    refine decodeFields_encM (by decide) (show decMemory 0x15 _ l0 l1 = _ from ?_)
    simp [decMemory, offM, ho, fld_encM_within_data, fld_encM_within_disp]
  | fenceRx => exact decodeFields_encM (by decide) (show decMemory 0x16 _ l0 l1 = _ by simp [decMemory])
  | fenceSc sc =>
    refine decodeFields_encM (by decide) (show decMemory 0x16 _ l0 l1 = _ from ?_)
    cases sc <;> simp [decMemory, Scope.num]
  | sgnarrow g a o k =>
    have ha := hs a (by simp [instrSrcs])
    have ho := hs o (by simp [instrSrcs])
    refine decodeFields_encM (by decide) (show decMemory 0x17 _ l0 l1 = _ from ?_)
    simp [decMemory, offM, ha, ho, fld_encM_within_disp]
  | sgrd g d k =>
    refine decodeFields_encM (by decide) (show decMemory 0x17 _ l0 l1 = _ from ?_)
    simp [decMemory, getElem_encM_within_disp]
  | _ => exact absurd hi Bool.false_ne_true

theorem decodes_vector (hi : isVector i = true) : decodeFields (headWord i) l0 l1 = .ok i := by
  cases i with
  | vadd t d a b m | vsub t d a b m | vmul t d a b m | vmax t d a b m | vmin t d a b m | vdiv t d a b m =>
    exact decodeFields_encV (by decide) (show decFloat _ _ = _ by simp [decFloat, fld_encV_within_fn])
  | vfma t d a b c m | vfms t d a b c m =>
    exact decodeFields_encV (by decide) (show decFloat _ _ = _ by simp [decFloat, fld_encV_within_fn])
  | vabs t d a m | vneg t d a m | vrcp t d a m | vrsq t d a m | vexp2 t d a m | vlog2 t d a m =>
    exact decodeFields_encV (by decide) (show decFloat _ _ = _ by simp [decFloat, fld_encV_within_fn])
  | viadd t d a b m sat | visub t d a b m sat =>
    exact decodeFields_encV (by decide) (show decVInt _ = _ by simp [decVInt, fld_encV_within_fn, getElem_encV_within_mode])
  | vimul t d a b m | vimax t d a b m | vimin t d a b m | vshl t d a b m | vshrN t d a b m | vshrI t d a b m =>
    exact decodeFields_encV (by decide) (show decVInt _ = _ by simp [decVInt, fld_encV_within_fn, getElem_encV_within_mode])
  | vand d a b m | vor d a b m | vxor d a b m =>
    exact decodeFields_encV (by decide) (show decVLogic _ 0x1B = _ by simp [decVLogic, fld_encV_within_fn])
  | vcmp cc t k a b m =>
    refine decodeFields_encV (by decide) (show decVLogic _ 0x1C = _ from ?_)
    simp [decVLogic, fld_encV_within_fn, fld_encV_within_vd]
    cases cc <;> simp [Cond.num, condOf]
  | vsel t d a b m =>
    refine decodeFields_encV (by decide) (show decVLogic _ 0x1C = _ from ?_)
    cases t <;> simp [decVLogic, fld_encV_within_fn, getElem_encV_within_fn, fnT, IType.code, itypeOf]
  | vcvt y x d a p m r =>
    exact decodeFields_encV (by decide) (show decVMove _ l0 l1 0x1D = _ by simp [decVMove, fld_encV_within_fn])
  | vpermB d a b m => exact decodeFields_encV (by decide) (show decVMove _ l0 l1 0x1E = _ by simp [decVMove])
  | vshuf d a b c m => exact decodeFields_encV (by decide) (show decVMove _ l0 l1 0x1E = _ by simp [decVMove])
  | vsplat z d a m =>
    have ha := hs a (by simp [instrSrcs])
    exact decodeFields_encVS (by decide) (show decVMove _ l0 l1 0x1E = _ by simp [decVMove, ha])
  | vextr z l a d => exact decodeFields_encVS (by decide) (show decVMove _ l0 l1 0x1F = _ by simp [decVMove])
  | vinsr z l d a =>
    have ha := hs a (by simp [instrSrcs])
    exact decodeFields_encVS (by decide) (show decVMove _ l0 l1 0x1F = _ by simp [decVMove, ha])
  | vredAdd t d a m | vredMax t d a m | vredMin t d a m =>
    exact decodeFields_encV (by decide) (show decVRed _ l0 l1 0x20 = _ by simp [decVRed, fld_encV_within_fn])
  | vdot4 d a b c m => exact decodeFields_encV (by decide) (show decVRed _ l0 l1 0x20 = _ by simp [decVRed, fld_encV_within_fn])
  | mset d a =>
    have ha := hs a (by simp [instrSrcs])
    exact decodeFields_encVS (by decide) (show decVRed _ l0 l1 0x21 = _ by simp [decVRed, ha, fld_encVS_within_vd])
  | mand d a b | mor d a b =>
    refine decodeFields_encV (by decide) (show decVRed _ l0 l1 0x21 = _ from ?_)
    simp [decVRed, fld_encV_within_vd, fld_encV_within_va, fld_encV_within_vb]
  | mnot d a | mmov d a =>
    refine decodeFields_encV (by decide) (show decVRed _ l0 l1 0x21 = _ from ?_)
    simp [decVRed, fld_encV_within_vd, fld_encV_within_va]
  | _ => exact absurd hi Bool.false_ne_true

theorem decodes_weir (hi : isWeir i = true) : decodeFields (headWord i) l0 l1 = .ok i := by
  cases i with
  | wld g a b =>
    have ha := hs a (by simp [instrSrcs])
    have hb := hs b (by simp [instrSrcs])
    refine decodeFields_encA (by decide) (by decide) (show decWeir 0x24 _ l0 l1 = _ from ?_)
    simp [decWeir, mode0, ha, hb, fld_encA_within_d]
  | wrun k n a b =>
    have hn := hs n (by simp [instrSrcs])
    have ha := hs a (by simp [instrSrcs])
    have hb := hs b (by simp [instrSrcs])
    exact decodeFields_encA (by decide) k.isLt (show decWeir 0x25 _ l0 l1 = _ by simp [decWeir, hn, ha, hb])
  | wrunO k a =>
    have ha := hs a (by simp [instrSrcs])
    exact decodeFields_encA (by decide) k.isLt (show decWeir 0x25 _ l0 l1 = _ by simp [decWeir, ha])
  | wrunC k a b =>
    have ha := hs a (by simp [instrSrcs])
    have hb := hs b (by simp [instrSrcs])
    exact decodeFields_encA (by decide) k.isLt (show decWeir 0x25 _ l0 l1 = _ by simp [decWeir, ha, hb])
  | waccS c d => exact decodeFields_encA (by decide) c.isLt (show decWeir 0x26 _ l0 l1 = _ by simp [decWeir])
  | waccU c d a | waccD c d a | waccP c d a =>
    have ha := hs a (by simp [instrSrcs])
    exact decodeFields_encA (by decide) c.isLt (show decWeir 0x26 _ l0 l1 = _ by simp [decWeir, ha])
  | wstat d a =>
    have ha := hs a (by simp [instrSrcs])
    exact decodeFields_encA (by decide) (by decide) (show decWeir 0x27 _ l0 l1 = _ by simp [decWeir, ha])
  | wclr => exact decodeFields_encA (by decide) (by decide) (show decWeir 0x27 _ l0 l1 = _ by simp [decWeir])
  | _ => exact absurd hi Bool.false_ne_true

theorem decodes_system (hi : isSystem i = true) : decodeFields (headWord i) l0 l1 = .ok i := by
  cases i with
  | bar a | qeos a | trap a => exact decodeFields_encA (by decide) (by decide) (aZ_encA (hs a (by simp [instrSrcs])) _)
  | join d a | leave d a | alloc d a | bellh d a =>
    exact decodeFields_encA (by decide) (by decide) (daZ_encA (hs a (by simp [instrSrcs])) d _)
  | spawn a b | qcfg a b | free a b | sys a b =>
    exact decodeFields_encA (by decide) (by decide) (abZ_encA (hs a (by simp [instrSrcs])) (hs b (by simp [instrSrcs])) _)
  | bret => exact decodeFields_encA (by decide) (by decide) (noOps_encA _ _ _)
  | postCnt a | postCntSolo a | postWake a | postWakeSolo a | postUpd op n a =>
    have ha := hs a (by simp [instrSrcs])
    exact decodeFields_encT (by decide) (show decPost 0x29 _ l0 l1 = _ by simp [decPost, ha])
  | msg n a b =>
    have ha := hs a (by simp [instrSrcs])
    have hb := hs b (by simp [instrSrcs])
    exact decodeFields_encT (by decide) (show decPost 0x2A _ l0 l1 = _ by simp [decPost, ha, hb])
  | push p a =>
    have ha := hs a (by simp [instrSrcs])
    exact decodeFields_encA (by decide) (by decide) (show decSystem 0x2E 0 _ l0 l1 = _ by simp [decSystem, mode0, ha])
  | pop d p => exact decodeFields_encA (by decide) (by decide) (show decSystem 0x2E 1 _ l0 l1 = _ by simp [decSystem, mode0])
  | poll d p => exact decodeFields_encA (by decide) (by decide) (show decSystem 0x2E 2 _ l0 l1 = _ by simp [decSystem, mode0])
  | rdcap d a b =>
    have ha := hs a (by simp [instrSrcs])
    have hb := hs b (by simp [instrSrcs])
    exact decodeFields_encA (by decide) (by decide) (show decSystem 0x31 2 _ l0 l1 = _ by simp [decSystem, mode0, ha, hb])
  | _ => exact absurd hi Bool.false_ne_true

theorem decodes_keeper (hi : isKeeperOnly i = true) : decodeFields (headWord i) l0 l1 = .ok i := by
  cases i with
  | kpark d | kresume d | kkill d | ksave d | kload d => exact decodeFields_encA (by decide) (by decide) (dZ_encA _ _ d _)
  | sgset sg a b | sgsetK sg a b =>
    have ha := hs a (by simp [instrSrcs])
    have hb := hs b (by simp [instrSrcs])
    refine decodeFields_encA (by decide) (by decide) (show decSystem 0x34 0 _ l0 l1 = _ from ?_)
    simp [decSystem, mode0, ha, hb, fld_encA_within_d, getElem_encA_within_d]
  | ctuinv a b | kcfg a b =>
    exact decodeFields_encA (by decide) (by decide) (abZ_encA (hs a (by simp [instrSrcs])) (hs b (by simp [instrSrcs])) _)
  | kret r a =>
    have ha := hs a (by simp [instrSrcs])
    refine decodeFields_encA (by decide) (by decide) (show decSystem 0x36 0 _ l0 l1 = _ from ?_)
    simp [decSystem, mode0, ha, fld_encA_within_d, getElem_encA_within_d]
  | kfence => exact decodeFields_encA (by decide) (by decide) (noOps_encA _ _ _)
  | kpost a => exact decodeFields_encA (by decide) (by decide) (aZ_encA (hs a (by simp [instrSrcs])) _)
  | _ => exact absurd hi Bool.false_ne_true

/-- The compute instructions that none of the model's families names: wrs and the tow instructions. -/
def isWrsOrTow : Instr → Bool
  | .wrs .. | .tow .. | .moor .. | .castoff => true
  | _ => false

theorem decodes_wrsOrTow (hi : isWrsOrTow i = true) : decodeFields (headWord i) l0 l1 = .ok i := by
  cases i with
  | wrs r a =>
    have ha := hs a (by simp [instrSrcs])
    exact decodeFields_encA (by decide) (by decide) (show decScalar 0x07 2 _ l0 l1 = _ by simp [decScalar, ha])
  | tow a b => exact decodeFields_encA (by decide) (by decide) (abZ_encA (hs a (by simp [instrSrcs])) (hs b (by simp [instrSrcs])) _)
  | moor d a => exact decodeFields_encA (by decide) (by decide) (daZ_encA (hs a (by simp [instrSrcs])) d _)
  | castoff => exact decodeFields_encA (by decide) (by decide) (noOps_encA _ _ _)
  | _ => exact absurd hi Bool.false_ne_true
end Families

/-- Only the instructions of the families and the helm custom words have an instruction word. -/
theorem headWord_eq_ite (i : Instr) : headWord i = if isScalar i || isControl i || isMemory i || isVector i || isWeir i || isSystem i ||
    isKeeperOnly i || isWrsOrTow i || isHelm i then headWord i else 0 := by
  cases i <;> rfl

theorem family_of_isCompute {i : Instr} (h : isCompute i = true) : isScalar i = true ∨ isControl i = true ∨ isMemory i = true ∨
    isVector i = true ∨ isWeir i = true ∨ isSystem i = true ∨ isKeeperOnly i = true ∨ isWrsOrTow i = true := by
  have hw : headWord i ≠ 0 := by simp_all [isCompute]
  have hh : isHelm i = false := by simp_all [isCompute]
  have := headWord_eq_ite i
  by_contra hn
  simp only [not_or, Bool.not_eq_true] at hn
  obtain ⟨h1, h2, h3, h4, h5, h6, h7, h8⟩ := hn
  rw [h1, h2, h3, h4, h5, h6, h7, h8, hh] at this
  exact hw this

theorem decodeFields_headWord {i : Instr} {l0 l1 : W32} (hc : isCompute i = true) (hs : ∀ a ∈ instrSrcs i, srcOf a.code l0 l1 = .ok a) :
    decodeFields (headWord i) l0 l1 = .ok i := by
  obtain h | h | h | h | h | h | h | h := family_of_isCompute hc
  · exact decodes_scalar hs h
  · exact decodes_control hs h
  · exact decodes_memory hs h
  · exact decodes_vector hs h
  · exact decodes_weir hs h
  · exact decodes_system hs h
  · exact decodes_keeper hs h
  · exact decodes_wrsOrTow hs h

-- Literal words (02 R34) ----------------------------------------------------------------------------------------------------

theorem words_of_not_isLit {a : Src} (h : a.isLit = false) : a.words = [] := by
  cases a with
  | lit32 | lit64 => exact absurd h.symm Bool.false_ne_true
  | _ => rfl

/-- With at most one literal, every operand's own literal words stand where the decoder looks for them. -/
theorem words_isPrefixOf {l : List Src} {ws : List W32} (h1 : oneLiteral l = true) (hp : (l.flatMap Src.words).isPrefixOf ws = true) {a : Src}
    (ha : a ∈ l) : a.words.isPrefixOf ws = true := by
  induction l with
  | nil => exact absurd ha List.not_mem_nil
  | cons x l ih =>
    cases hx : x.isLit with
    | false =>
      have hone : oneLiteral l = true := by simpa [oneLiteral, hx] using h1
      rcases List.mem_cons.mp ha with rfl | ha
      · rw [words_of_not_isLit hx]; rfl
      · exact ih hone (by simpa [words_of_not_isLit hx] using hp) ha
    | true =>
      have hrest : ∀ y ∈ l, y.isLit = false := by simpa [oneLiteral, hx, List.countP_eq_zero] using h1
      have hnil : l.flatMap Src.words = [] := List.flatMap_eq_nil_iff.mpr fun y hy => words_of_not_isLit (hrest y hy)
      rcases List.mem_cons.mp ha with rfl | ha
      · simpa [hnil] using hp
      · rw [words_of_not_isLit (hrest a ha)]; rfl

/-- Settles O2: its fields are read back format by format, and its checks pass because it is well formed. -/
theorem encodeDecodeCompute : Obligations.EncodeDecodeCompute := by
  intro i l0 l1 hwf hc hp
  have hone : oneLiteral (instrSrcs i) = true := by simp_all [wellFormed]
  have hs : ∀ a ∈ instrSrcs i, srcOf a.code l0 l1 = .ok a := fun a ha => srcOf_code (words_isPrefixOf hone hp ha)
  rw [decode32, decodeFields_headWord hc hs, checked, if_pos hwf]

theorem decodeWords : Claims.DecodeWords := by
  refine ⟨?_, ?_, ?_, ?_, ?_, ?_, ?_⟩ <;> decide

theorem reservedMajorsRefused : Claims.ReservedMajorsRefused := by
  intro w l0 l1 h
  have hr : reservedMajor (fld w 26 6).toNat = true := by
    simp only [reservedMajor]
    rcases h with h | h
    · simp only [List.mem_cons, List.not_mem_nil, or_false] at h
      rcases h with h | h | h | h | h <;> rw [h] <;> rfl
    · simp only [h, decide_true, Bool.or_true]
  rw [decode32, decodeFields, if_pos hr]
  rfl

/-- Settles O1: the words are evaluated, and a reserved major is refused before any field is read. -/
theorem decodedWords : Obligations.DecodedWords := ⟨decodeWords, reservedMajorsRefused⟩
end Sys2Proof.Machine

namespace Sys2Proof.Machine
open Sys2Proof

-- Temperatures (21 R335) -------------------------------------------------------------------------------------------------------------

/-- A part with power whose lockhouse keeps no temperature of any die: the field is a list, whose length the claim leaves open. From reset it
has five elements. -/
def noTemperatures : State := { State.reset with lock := { temps := [] } }

/-- A temperature of a die that the list does not reach is stored nowhere, so nothing is hot. -/
theorem noTemperatures_keepsPower : exec (.thermalShutdown 0 115) noTemperatures = .next noTemperatures := rfl

/-- Refutes O5: where the list of temperatures is empty, 115 °C on die 0 is stored nowhere, and the part keeps its power (the last clause of
PowerRemovedStops asks that it goes in every state). -/
theorem not_noInstructionStops : ¬ Obligations.NoInstructionStops := by
  unfold Obligations.NoInstructionStops
  rintro ⟨-, -, -, -, hshutdown⟩
  obtain ⟨t, ht, hpower⟩ := hshutdown noTemperatures 0 115 (by decide)
  rw [noTemperatures_keepsPower] at ht
  cases ht
  cases hpower

end Sys2Proof.Machine

namespace Sys2Proof.Machine
open Sys2Proof

-- The place of the first element (Lists) --------------------------------------------------------------------------------------------

theorem findIdxFrom_eq {α : Type} (p : α → Bool) (l : List α) (k : Nat) : findIdxFrom p l k = (l.findIdx? p).map (· + k) := by
  induction l generalizing k with
  | nil => rfl
  | cons x l ih =>
    rw [findIdxFrom, List.findIdx?_cons]
    cases p x
    · simp only [Bool.false_eq_true, if_false, ih, Option.map_map]
      congr 1
      funext n
      simp only [Function.comp_apply]
      omega
    · simp

theorem findIdx1_eq {α : Type} (p : α → Bool) (l : List α) : findIdx1 p l = l.findIdx? p := by
  simp [findIdx1, findIdxFrom_eq]

/-- What a partial function finds first is its value at the first place that it accepts. -/
theorem findSome?_eq_bind_findIdx? {α β : Type} (f : α → Option β) (l : List α) :
    l.findSome? f = (l.findIdx? fun x => (f x).isSome).bind fun n => l[n]?.bind f := by
  induction l with
  | nil => rfl
  | cons x l ih =>
    rw [List.findSome?_cons, List.findIdx?_cons]
    cases h : f x with
    | none => simp [ih, Option.bind_map]
    | some y => simp [h]

/-- A vector of slots whose first accepted element stands at a place. -/
theorem findSome?_of_findIdx1 {α β : Type} {f : α → Option β} {v : Vector α 16} {n : Nat}
    (h : findIdx1 (fun x => (f x).isSome) v.toList = some n) :
    (f (v.get (Fin.ofNat 16 n))).isSome = true ∧ v.toList.findSome? f = f (v.get (Fin.ofNat 16 n)) := by
  rw [findIdx1_eq] at h
  obtain ⟨hn, hf, -⟩ := List.findIdx?_eq_some_iff_getElem.mp h
  have hn16 : n < 16 := by simpa using hn
  have e : v.get (Fin.ofNat 16 n) = v.toList[n] := by
    simp [Vector.get, Fin.ofNat, Nat.mod_eq_of_lt hn16]
  rw [e, findSome?_eq_bind_findIdx?, h]
  exact ⟨hf, by simp [hn16]⟩

theorem findSome?_of_findIdx1_none {α β : Type} {f : α → Option β} {l : List α} (h : findIdx1 (fun x => (f x).isSome) l = none) :
    l.findSome? f = none := by
  rw [findSome?_eq_bind_findIdx?, ← findIdx1_eq, h]
  rfl

-- Queues of a core (08 R174) ---------------------------------------------------------------------------------------------------------

theorem Core.queue_setQueue (x : Core) (q : Fin 8) (y : Queue) : (x.setQueue q y).queue q = y := by
  simp only [Core.queue, Core.setQueue, vget_set, if_true]

theorem Core.queue_mapSlots (x : Core) (q : Fin 8) (f : Thread → Thread) : (x.mapSlots f).queue q = x.queue q := rfl

theorem Core.queue_pushQueue (x : Core) (q : Fin 8) (v : Word) :
    ((x.pushQueue q v).queue q).entries = (x.queue q).entries ++ [v] := by
  rw [Core.pushQueue, Core.queue_mapSlots, Core.queue_setQueue]

theorem Core.popQueue_nil {x : Core} {q : Fin 8} (h : (x.queue q).entries = []) : x.popQueue q = (0, x) := by
  simp only [Core.popQueue, h]

/-- A queue without its head, before its writers take the room. -/
def Core.behead (x : Core) (q : Fin 8) (l : List Word) : Core := x.setQueue q { x.queue q with entries := l }

theorem Core.slots_setQueue (x : Core) (q : Fin 8) (y : Queue) : (x.setQueue q y).slots = x.slots := rfl

theorem Core.behead_entries (x : Core) (q : Fin 8) (l : List Word) : ((x.behead q l).queue q).entries = l := by
  rw [Core.behead, Core.queue_setQueue]

theorem Core.popQueue_of_none {x : Core} {q : Fin 8} {v : Word} {l : List Word} (h : (x.queue q).entries = v :: l)
    (hw : findIdx1 (fun t => (Thread.pushing q t).isSome) x.slots.toList = none) :
    x.popQueue q = (v, (x.behead q l).mapSlots (Thread.retryWrite q)) := by
  simp only [Core.popQueue, h, Core.slots_setQueue, hw, Core.behead]

theorem Core.popQueue_of_some {x : Core} {q : Fin 8} {v y : Word} {l : List Word} {n : Nat} (h : (x.queue q).entries = v :: l)
    (hw : findIdx1 (fun t => (Thread.pushing q t).isSome) x.slots.toList = some n)
    (hy : (x.slots.get (Fin.ofNat 16 n)).pushing q = some y) :
    ∃ slots, x.popQueue q = (v, { x.behead q l with slots := slots }.pushQueue q y) := by
  simp only [Core.popQueue, h, Core.slots_setQueue, hw, hy]
  exact ⟨_, rfl⟩

/-- The head leaves, and the value of the first slot that waits for room enters behind. -/
theorem Core.popQueue_cons {x : Core} {q : Fin 8} {v : Word} {l : List Word} (h : (x.queue q).entries = v :: l) :
    (x.popQueue q).1 = v ∧ ((x.popQueue q).2.queue q).entries = l ++ (x.slots.toList.findSome? (Thread.pushing q)).toList := by
  cases hw : findIdx1 (fun t => (Thread.pushing q t).isSome) x.slots.toList with
  | none =>
    rw [findSome?_of_findIdx1_none hw, Core.popQueue_of_none h hw]
    exact ⟨rfl, by rw [Core.queue_mapSlots, Core.behead_entries]; simp⟩
  | some n =>
    obtain ⟨hsome, hfirst⟩ := findSome?_of_findIdx1 hw
    obtain ⟨y, hy⟩ := Option.isSome_iff_exists.mp hsome
    obtain ⟨slots, hpop⟩ := Core.popQueue_of_some h hw hy
    rw [hfirst, hy, hpop]
    refine ⟨rfl, ?_⟩
    rw [Core.queue_pushQueue]
    exact congrArg (· ++ [y]) (Core.behead_entries x q l)

-- Elements of a port (09 R182) --------------------------------------------------------------------------------------------------------

theorem Thread.setPort_get (t : Thread) (p : Fin 4) (x : Port) : (t.setPort p x).ports.get p = x := by
  rw [Thread.setPort, vget_set, if_pos rfl]

theorem Thread.popElement_cons {t : Thread} {p : Fin 4} {n : Nat} {v : Word} {l : List (Nat × Word)}
    (h : (t.ports.get p).elems = (n, v) :: l) :
    (t.popElement p).1 = v ∧ ((t.popElement p).2.ports.get p).elems = l := by
  simp only [Thread.popElement, h, Thread.setPort_get, and_self]

-- Reading a source (02 R33) ------------------------------------------------------------------------------------------------------------

theorem State.read_plain {a : Src} (h : plainSrc a = true) (s : State) : s.read a = (s.me.reg a, s) := by
  cases a with
  | q i => cases h
  | e i => cases h
  | g i | w i | lit32 v | lit64 v | small v => rfl

theorem after1_queue (s : State) (q : Fin 8) : (after1 s (.q q)).myCore = (s.myCore.popQueue q).2 := State.setMyCore_myCore _ _

theorem after1_port (s : State) (p : Fin 4) : (after1 s (.e p)).me = (s.me.popElement p).2 := State.setMe_me _ _

theorem operandReads : Claims.OperandReads := by
  intro s
  refine ⟨fun a h => State.read_plain h s, fun q v l h => ?_, fun q h => ?_, fun p n v l h => ?_⟩
  · rw [after1_queue]
    exact Core.popQueue_cons h
  · rw [after1_queue]
    have e : val1 s (.q q) = (s.myCore.popQueue q).1 := rfl
    rw [e, Core.popQueue_nil h]
    exact ⟨rfl, h⟩
  · rw [after1_port]
    exact Thread.popElement_cons h

-- The checks before an instruction's operands are read (05 R102; 08 R174; 09 R182) ---------------------------------------------------

theorem isHeld_of_relaxed_nil {t : Thread} (h : t.relaxed = []) (i : Instr) : isHeld t i = false := by
  rw [isHeld, h]
  rfl

theorem isHeld_of_waits {t : Thread} {i : Instr} (h : t.relaxed ≠ []) (hw : waitsRelaxed i = true) : isHeld t i = true := by
  simp [isHeld, h, hw]

theorem gateSrc_plain {a : Src} (h : plainSrc a = true) (x : Core) (k : Fin 16) : gateSrc x k a = .go := by
  cases a with
  | q i => cases h
  | e i => cases h
  | g i | w i | lit32 v | lit64 v | small v => rfl

theorem gateDst_plain {o : Option Dst} (h : ∀ d, o = some d → plainDst d = true) (x : Core) (k : Fin 16) (l : List Src) :
    gateDst x k l o = .go := by
  cases o with
  | none => rfl
  | some d =>
    have hd := h d rfl
    cases d with
    | g i | w i | e i => rfl
    | q i => cases hd

/-- Checks that all pass. -/
theorem firstStop_go {l : List Gate} (h : ∀ g ∈ l, g = .go) : l.find? Gate.isTrap = none ∧ firstStop l = .go := by
  induction l with
  | nil => exact ⟨rfl, rfl⟩
  | cons g l ih =>
    obtain ⟨hfind, hstop⟩ := ih fun x hx => h x (List.mem_cons_of_mem g hx)
    cases h g List.mem_cons_self
    exact ⟨hfind, hstop⟩

theorem plainOperandsReady : Claims.PlainOperandsReady := by
  intro s i hsrc hdst hrelaxed
  have hgo : ∀ g ∈ (instrSrcs i).map (gateSrc s.myCore s.slot) ++ [gateDst s.myCore s.slot (instrSrcs i) (instrDst i)], g = .go := by
    intro g hg
    rcases List.mem_append.mp hg with hg | hg
    · obtain ⟨a, ha, rfl⟩ := List.mem_map.mp hg
      exact gateSrc_plain (List.all_eq_true.mp hsrc a ha) _ _
    · rw [List.mem_singleton.mp hg]
      exact gateDst_plain hdst _ _ _
  obtain ⟨hfind, hstop⟩ := firstStop_go hgo
  simp only [Ready, gate, isHeld_of_relaxed_nil hrelaxed, Bool.false_eq_true, if_false, hfind, hstop]

theorem relaxedAccessHolds : Claims.RelaxedAccessHolds := by
  intro s i f hrelaxed hwaits
  have hgate : gate s i = .held := by simp only [gate, isHeld_of_waits hrelaxed hwaits, if_true]
  simp only [State.gated, hgate]
  rfl

-- Moves that stop at a queue or a port ------------------------------------------------------------------------------------------------

/-- Which check stops a mov, where one of its two operands passes. -/
theorem gate_mov_of_src {s : State} {d : Dst} {a : Src} {w : Width} (h : s.me.relaxed = [])
    (hd : gateDst s.myCore s.slot [a] (some d) = .go) : gate s (.mov d a w) = gateSrc s.myCore s.slot a := by
  simp only [gate, isHeld_of_relaxed_nil h, instrSrcs, instrDst, Bool.false_eq_true, if_false, List.map, List.singleton_append, hd]
  cases gateSrc s.myCore s.slot a <;> rfl

theorem gate_mov_of_dst {s : State} {d : Dst} {a : Src} {w : Width} (h : s.me.relaxed = [])
    (ha : gateSrc s.myCore s.slot a = .go) : gate s (.mov d a w) = gateDst s.myCore s.slot [a] (some d) := by
  simp only [gate, isHeld_of_relaxed_nil h, instrSrcs, instrDst, Bool.false_eq_true, if_false, List.map, List.singleton_append, ha]
  cases gateDst s.myCore s.slot [a] (some d) <;> rfl

theorem State.gated_of_stop {s : State} {i : Instr} {g : Gate} (h : gate s i = g) (hg : g ≠ .go) (f : State → State) :
    s.gated i f = s.stop g := by
  cases g with
  | go => exact absurd rfl hg
  | _ => simp only [State.gated, h]

/-- A mov whose source stops it. -/
theorem exec_mov_of_src {s : State} {d : Dst} {a : Src} {g : Gate} (w : Width) (h : s.me.relaxed = []) (hd : plainDst d = true)
    (hg : gateSrc s.myCore s.slot a = g) (hstop : g ≠ .go) : exec (.mov d a w) s = .next (s.stop g) := by
  have hdst := gateDst_plain (o := some d) (by rintro _ ⟨⟩; exact hd) s.myCore s.slot [a]
  exact congrArg _ (State.gated_of_stop ((gate_mov_of_src h hdst).trans hg) hstop _)

/-- A mov whose destination stops it. -/
theorem exec_mov_of_dst {s : State} {d : Dst} {a : Src} {g : Gate} (w : Width) (h : s.me.relaxed = []) (ha : plainSrc a = true)
    (hg : gateDst s.myCore s.slot [a] (some d) = g) (hstop : g ≠ .go) : exec (.mov d a w) s = .next (s.stop g) :=
  congrArg _ (State.gated_of_stop ((gate_mov_of_dst h (gateSrc_plain ha _ _)).trans hg) hstop _)

theorem gateSrc_misuse {x : Core} {k : Fin 16} {q : Fin 8} (h : (x.queue q).enabled = false ∨ (x.queue q).consumer ≠ k) :
    gateSrc x k (.q q) = .trap 0x0B (BitVec.ofNat 64 q.val) := by
  rcases h with h | h <;> simp [gateSrc, h]

theorem gateSrc_empty {x : Core} {k : Fin 16} {q : Fin 8} (he : (x.queue q).enabled = true) (hc : (x.queue q).consumer = k)
    (hl : (x.queue q).entries = []) (hd : (x.queue q).drained = false) : gateSrc x k (.q q) = .blockRead q := by
  simp [gateSrc, he, hc, hl, hd]

theorem gateDst_misuse {x : Core} {k : Fin 16} {q : Fin 8} (h : mayWrite (x.queue q) k = false) (l : List Src) :
    gateDst x k l (some (.q q)) = .trap 0x0B (BitVec.ofNat 64 q.val) := by
  simp [gateDst, h]

theorem gateDst_full {x : Core} {k : Fin 16} {q : Fin 8} {a : Src} (h : mayWrite (x.queue q) k = true)
    (hl : 16 ≤ (x.queue q).entries.length) (ha : plainSrc a = true) : gateDst x k [a] (some (.q q)) = .blockWrite q := by
  have hne : Src.q q ≠ a := by
    rintro rfl
    cases ha
  simp [gateDst, h, hl, hne]

theorem gateSrc_port_misuse {s : State} {p : Fin 4} (hl : (s.me.ports.get p).elems = [])
    (ho : (s.me.ports.get p).out.any Outstanding.element = false) :
    gateSrc s.myCore s.slot (.e p) = .trap 0x0C (BitVec.ofNat 64 p.val) := by
  have e : s.myCore.slots.get s.slot = s.me := rfl
  simp only [gateSrc, e, hl, ho, List.isEmpty_nil, if_true, Bool.false_eq_true, if_false]

theorem gateSrc_port_due {s : State} {p : Fin 4} (hl : (s.me.ports.get p).elems = [])
    (ho : (s.me.ports.get p).out.any Outstanding.element = true) : gateSrc s.myCore s.slot (.e p) = .awaitElement p := by
  have e : s.myCore.slots.get s.slot = s.me := rfl
  simp only [gateSrc, e, hl, ho, List.isEmpty_nil, if_true]

theorem queueAndPortStops : Claims.QueueAndPortStops := by
  intro s d a w q p hr
  refine ⟨fun h hd => ?_, fun he hc hl hdr hd => ?_, fun h ha => ?_, fun h hl ha => ?_, fun hl ho hd => ?_, fun hl ho hd => ?_⟩
  · exact ⟨_, exec_mov_of_src w hr hd (gateSrc_misuse h) Gate.noConfusion, trap_trapped _ _ _ _⟩
  · exact exec_mov_of_src w hr hd (gateSrc_empty he hc hl hdr) Gate.noConfusion
  · exact ⟨_, exec_mov_of_dst w hr ha (gateDst_misuse h _) Gate.noConfusion, trap_trapped _ _ _ _⟩
  · exact exec_mov_of_dst w hr ha (gateDst_full h hl ha) Gate.noConfusion
  · exact ⟨_, exec_mov_of_src w hr hd (gateSrc_port_misuse hl ho) Gate.noConfusion, trap_trapped _ _ _ _⟩
  · exact exec_mov_of_src w hr hd (gateSrc_port_due hl ho) Gate.noConfusion

-- Where a result goes (02 R33, R35; 08 R174; 09 R176) -----------------------------------------------------------------------------------

theorem State.queue_setMe (s : State) (t : Thread) (q : Fin 8) : (s.setMe t).myCore.queue q = s.myCore.queue q := by
  have e : (s.setMe t).myCore = { s.myCore with slots := s.myCore.slots.set s.slot.val t s.slot.isLt } := State.getCore_setCore_self _ _ _
  rw [e]
  rfl

theorem State.result_plain {d : Dst} (h : plainDst d = true) (s : State) (i : Instr) (v : Word) :
    s.result i d v = s.setMe ((s.me.putReg d v).performed (nextPc s.me (lengthOf i))) := by
  rw [State.result, State.finish_plain h, State.move, State.goTo, State.setMe_me, State.setMe_setMe]

/-- A queue with room takes the result. -/
theorem State.result_queue {s : State} {q : Fin 8} (h : (s.myCore.queue q).entries.length < 16) (i : Instr) (v : Word) :
    s.result i (.q q) v = (s.setMyCore (s.myCore.pushQueue q v)).goTo (nextPc s.me (lengthOf i)) := by
  rw [State.result, State.finish, if_neg (by omega), State.move]

/-- A staging buffer with room for a word that does not submit takes the result. -/
theorem State.result_port {s : State} {p : Fin 4} (h : (s.me.ports.get p).staging.length < 7) (i : Instr) (v : Word) :
    s.result i (.e p) v = (s.setMe (s.me.setPort p { s.me.ports.get p with staging := (s.me.ports.get p).staging ++ [v] })).goTo
      (nextPc s.me (lengthOf i)) := by
  simp only [State.result, State.finish, h, if_true, State.move]

theorem State.goTo_pc (s : State) (pc : Word) : (s.goTo pc).me.pc = pc := by
  rw [State.goTo, State.setMe_me, Thread.performed_pc]

theorem resultGoes : Claims.ResultGoes := by
  intro s i d v
  refine ⟨fun h => State.result_plain h s i v, fun q h => ?_, fun p h => ?_⟩
  · rw [State.result_queue h, State.goTo_pc, State.goTo, State.queue_setMe, State.setMyCore_myCore, Core.queue_pushQueue]
    exact ⟨rfl, rfl⟩
  · rw [State.result_port h, State.goTo_pc, State.goTo, State.setMe_me, State.setMe_me, Thread.performed_ports, Thread.setPort_get]
    exact ⟨rfl, rfl⟩

/-- Settles O6: a source's value and what its reading leaves, the checks in their order, and the destination's new contents, each by the
lemma above about the operand form. -/
theorem operandsAndResults : Obligations.OperandsAndResults := by
  unfold Obligations.OperandsAndResults
  exact ⟨operandReads, plainOperandsReady, queueAndPortStops, resultGoes, relaxedAccessHolds⟩

end Sys2Proof.Machine

namespace Sys2Proof.Machine
open Sys2Proof

-- Keeper instructions (02 R46) ------------------------------------------------------------------------------------------------------

/-- Each keeper instruction is one effect behind the check of its slot. -/
theorem exec_keeper {i : Instr} (h : isKeeperOnly i = true) : ∃ f, ∀ s, exec i s = .next (s.keeper i f) := by
  cases i with
  | kpark d | kresume d | kkill d | ksave d | kload d => exact ⟨_, fun _ => rfl⟩
  | sgset g a b | sgsetK g a b => exact ⟨_, fun _ => rfl⟩
  | ctuinv a b | kcfg a b => exact ⟨_, fun _ => rfl⟩
  | kret r a => exact ⟨_, fun _ => rfl⟩
  | kfence => exact ⟨_, fun _ => rfl⟩
  | kpost a => exact ⟨_, fun _ => rfl⟩
  | _ => cases h

theorem State.keeper_outside {s : State} (h : s.slot ≠ 0) (i : Instr) (f : State → State) : s.keeper i f = s.trap 0x02 0 0 := by
  have hv : s.slot.val ≠ 0 := fun e => h (Fin.ext e)
  rw [State.keeper, if_neg hv]

theorem State.keeper_ready {s : State} {i : Instr} (h : s.slot = 0) (hr : Ready s i) (f : State → State) : s.keeper i f = f s := by
  rw [State.keeper, if_pos (by rw [h]; rfl), State.gated_ready hr]

theorem keeperOnlyTraps : Claims.KeeperOnlyTraps := by
  intro s i hi hslot
  obtain ⟨f, hf⟩ := exec_keeper hi
  rw [hf, State.keeper_outside hslot]
  exact ⟨_, rfl, trap_trapped _ _ _ _⟩

-- What an instruction that advances shows ---------------------------------------------------------------------------------------------

theorem State.advance_me (s : State) (i : Instr) : (s.advance i).me = s.me.performed (nextPc s.me (lengthOf i)) := by
  rw [State.advance, State.goTo, State.setMe_me]

theorem State.remove_me (s : State) (r : Removed) : (s.remove r).me = { s.me with st := .removed r } := State.setMe_me _ _

/-- The slot that the core selects is not changed by the keeper's own thread. -/
theorem State.myCore_setMe (s : State) (t : Thread) :
    (s.setMe t).myCore = { s.myCore with slots := s.myCore.slots.set s.slot.val t s.slot.isLt } := State.getCore_setCore_self _ _ _

-- sgset, sgset.k (09 R194) --------------------------------------------------------------------------------------------------------------

theorem sgset_effect {s : State} (sg : Fin 8) {a b : Src} (h : s.slot = 0) (hr : Ready s (.sgset sg a b)) :
    exec (.sgset sg a b) s = .next (((after2 s a b).setMe ((after2 s a b).me.setSg sg (mkSeg (val1 s a) (val2 s a b)))).advance (.sgset sg a b)) :=
  congrArg _ (State.keeper_ready h hr _)

theorem sgsetK_effect {s : State} (sg : Fin 8) {a b : Src} (h : s.slot = 0) (hr : Ready s (.sgsetK sg a b)) :
    let u := after2 s a b
    let t := u.thread u.core u.target
    exec (.sgsetK sg a b) s = .next ((if t.st = .empty then u
      else u.setThread u.core u.target (t.setSg sg (mkSeg (val1 s a) (val2 s a b)))).advance (.sgsetK sg a b)) :=
  congrArg _ (State.keeper_ready h hr _)

-- ctuinv (09 R195) ---------------------------------------------------------------------------------------------------------------------

theorem SMap.find_map {α β : Type} (f : α → β) (m : SMap α) (a : Nat) :
    SMap.find (m.map fun p => (p.1, f p.2)) a = (SMap.find m a).map f := by
  induction m with
  | nil => rfl
  | cons p m ih =>
    simp only [List.map_cons, SMap.find, ih]
    split
    · rfl
    · split <;> rfl

theorem SMap.mem_of_find {α : Type} {m : SMap α} {a : Nat} {x : α} (h : SMap.find m a = some x) : (a, x) ∈ m := by
  induction m with
  | nil => cases h
  | cons p m ih =>
    simp only [SMap.find] at h
    split at h
    · cases h
    · split at h
      next e =>
        cases h
        subst e
        exact List.mem_cons_self
      · exact List.mem_cons_of_mem _ (ih h)

/-- A state whose clusters have dropped a range of pages. -/
def State.invalidateAll (s : State) (asid : Option Nat) (lo hi : Nat) : State :=
  { s with clusters := s.clusters.map fun (p : Nat × Cluster) => (p.1, p.2.invalidate asid lo hi) }

theorem State.cluster_invalidateAll (s : State) (asid : Option Nat) (lo hi cl : Nat) :
    (s.invalidateAll asid lo hi).cluster cl = (s.cluster cl).invalidate asid lo hi := by
  have h : SMap.find (s.invalidateAll asid lo hi).clusters cl = (SMap.find s.clusters cl).map fun x => x.invalidate asid lo hi :=
    SMap.find_map (fun x : Cluster => x.invalidate asid lo hi) s.clusters cl
  rw [State.cluster, State.cluster, SMap.getD, SMap.getD, h]
  cases SMap.find s.clusters cl <;> rfl

theorem Leaf.inRange_iff (l : Leaf) (asid : Option Nat) (lo hi : Nat) : l.inRange asid lo hi = true ↔
    (∀ a, asid = some a → l.asid = a) ∧ (if l.large then l.page < hi ∧ lo < l.page + 2 ^ 18 else lo ≤ l.page ∧ l.page < hi) := by
  cases asid <;> cases hl : l.large <;> simp [Leaf.inRange, hl]

theorem State.mem_leaves_invalidateAll (s : State) (asid : Option Nat) (lo hi cl : Nat) (l : Leaf) :
    l ∈ ((s.invalidateAll asid lo hi).cluster cl).leaves ↔ l ∈ (s.cluster cl).leaves ∧ ¬ l.inRange asid lo hi = true := by
  rw [State.cluster_invalidateAll]
  simp [Cluster.invalidate]

/-- The address space that an operand of ctuinv names; none for every one. -/
def ctuinvAsid (x : Word) : Option Nat := if bit x 16 then none else some (fld x 0 16 : Half).toNat

theorem ctuinvAsid_covers (x : Word) (n : Nat) :
    (∀ a, ctuinvAsid x = some a → n = a) ↔ (bit x 16 = true ∨ n = (fld x 0 16 : Half).toNat) := by
  unfold ctuinvAsid
  by_cases h : bit x 16 = true
  · simp only [h, if_true, true_or, iff_true]
    rintro a ⟨⟩
  · simp only [h, if_false, false_or, Option.some.injEq, forall_eq', Bool.false_eq_true]

theorem ctuinv_effect {s : State} {a b : Src} (h : s.slot = 0) (hr : Ready s (.ctuinv a b)) :
    let u := after2 s a b
    let lo := (fld (val2 s a b) 16 36 : BitVec 36).toNat
    let hi := lo + (fld (val2 s a b) 52 12 : BitVec 12).toNat + 1
    exec (.ctuinv a b) s = .next (((u.invalidateAll (ctuinvAsid (val1 s a)) lo hi).advance (.ctuinv a b)).remove
      (.ctuinv (u.clk + 1024) (ctuinvAsid (val1 s a)) lo hi)) :=
  congrArg _ (State.keeper_ready h hr _)

/-- What ctuinv shows at issue. -/
theorem ctuinv_issues {s : State} {a b : Src} (h : s.slot = 0) (hr : Ready s (.ctuinv a b)) :
    let u := after2 s a b
    let x := val1 s a
    let lo := (fld (val2 s a b) 16 36 : BitVec 36).toNat
    let hi := lo + (fld (val2 s a b) 52 12 : BitVec 12).toNat + 1
    ∃ t, exec (.ctuinv a b) s = .next t ∧ MemoryKeeps u t ∧ t.me.pc = nextPc u.me (lengthOf (.ctuinv a b)) ∧
      (∃ n, n ≤ u.clk + 1024 ∧
        t.me.st = .removed (.ctuinv n (if bit x 16 then none else some (fld x 0 16 : Half).toNat) lo hi)) ∧
      ∀ (cl : Nat) (l : Leaf), l ∈ (t.cluster cl).leaves ↔ l ∈ (u.cluster cl).leaves ∧
        ¬ ((bit x 16 = true ∨ l.asid = (fld x 0 16 : Half).toNat) ∧
          (if l.large then l.page < hi ∧ lo < l.page + 2 ^ 18 else lo ≤ l.page ∧ l.page < hi)) := by
  intro u x lo hi
  refine ⟨_, ctuinv_effect h hr, fun _ => rfl, ?_, ⟨u.clk + 1024, Nat.le_refl _, ?_⟩, fun cl l => ?_⟩
  · rw [State.remove_me, State.advance_me]
    exact Thread.performed_pc _ _
  · rw [State.remove_me]
    rfl
  · rw [← ctuinvAsid_covers, ← Leaf.inRange_iff]
    exact State.mem_leaves_invalidateAll u (ctuinvAsid x) lo hi cl l

/-- An operation whose pc moved when it began completes, where nothing is due. -/
theorem State.completePc_none {s : State} (h : Calm s s.core s.slot) : s.completePc none = s.setMe s.me.run :=
  State.settleThread_of_calm (s := s) h ⟨rfl, rfl, rfl, rfl⟩ rfl rfl

theorem ctuinvComplete_effect {s : State} {c n lo hi : Nat} {asid : Option Nat} (h : (s.thread c 0).st = .removed (.ctuinv n asid lo hi)) :
    exec (.ctuinvComplete c) s = .next (if rangeInUse s asid lo hi then s else (s.as c 0).completePc none) := by
  have hme : (s.as c 0).me.st = .removed (.ctuinv n asid lo hi) := h
  show execCtuinvComplete c s = _
  simp only [execCtuinvComplete, hme]

/-- An access of a thread that is performed in part through a translation of the range keeps it in use. -/
theorem rangeInUse_of_thread {s : State} {asid : Option Nat} {j lo hi : Nat} {k : Fin 16} (hj : (SMap.find s.cores j).isSome = true)
    (h : (s.thread j k).usesRange asid lo hi = true) : rangeInUse s asid lo hi = true := by
  obtain ⟨x, hx⟩ := Option.isSome_iff_exists.mp hj
  have hthread : s.thread j k = x.slots.get k := by rw [State.thread, State.getCore, SMap.getD, hx]; rfl
  rw [hthread] at h
  rw [rangeInUse, Bool.or_eq_true, List.any_eq_true]
  refine .inl ⟨(j, x), SMap.mem_of_find hx, List.any_eq_true.mpr ⟨x.slots.get k, ?_, h⟩⟩
  exact Vector.mem_toList_iff.mpr (Vector.getElem_mem k.isLt)

theorem Thread.usesRange_of_mem {t : Thread} {x : Access} {asid : Option Nat} {lo hi : Nat}
    (hst : t.st = .removed (.mem x)) (hx : x.usesRange asid lo hi = true) : t.usesRange asid lo hi = true := by
  simp only [Thread.usesRange, hst, hx, Bool.or_true]

theorem ctuinv_completes (s : State) (c n lo hi : Nat) (asid : Option Nat) (h : (s.thread c 0).st = .removed (.ctuinv n asid lo hi)) :
    (rangeInUse s asid lo hi = true → exec (.ctuinvComplete c) s = .next s) ∧
    (rangeInUse s asid lo hi = false → Calm s c 0 →
      ∃ t, exec (.ctuinvComplete c) s = .next t ∧ t.thread c 0 = (s.thread c 0).run) ∧
    (∀ j k x h ps p, (SMap.find s.cores j).isSome = true → (s.thread j k).st = .removed (.mem x) → x.half = some h → h.home = .held ps →
      p ∈ ps → p.1.inRange asid lo hi = true → rangeInUse s asid lo hi = true) := by
  rw [ctuinvComplete_effect h]
  refine ⟨fun hu => by rw [hu]; rfl, fun hu hc => ⟨_, rfl, ?_⟩, fun j k x y ps p hj hst hhalf hhome hp hr => ?_⟩
  · rw [hu, if_neg Bool.false_ne_true, State.completePc_none hc]
    exact State.setMe_me _ _
  · refine rangeInUse_of_thread hj (Thread.usesRange_of_mem hst ?_)
    simp only [Access.usesRange, hhalf, Home.usesRange, hhome]
    exact List.any_eq_true.mpr ⟨p, hp, hr⟩

-- kret (09 R196) -------------------------------------------------------------------------------------------------------------------------

/-- The register that an operand of kret names. -/
def kretDst (r : Fin 32) : Dst := if r.val < 8 then .g (Fin.ofNat 8 r.val) else .w (Fin.ofNat 24 (r.val - 8))

theorem Thread.setReg_eq_putReg (t : Thread) (r : Fin 32) (v : Word) : t.setReg r v = t.putReg (kretDst r) v := by
  unfold Thread.setReg kretDst
  split <;> rfl

theorem Thread.putReg_pc (t : Thread) (d : Dst) (v : Word) : (t.putReg d v).pc = t.pc := by cases d <;> rfl

/-- A parked thread that has no access to perform anew, and was not Blocked: its pc is where it issues next. -/
def Thread.goesOn (t : Thread) : Prop :=
  ∃ p, t.st = .parked p ∧ ((p.fault = none ∧ p.before = none) ∨ (p.fault ≠ none ∧ ∃ x, p.acc = some (false, x) ∧ t.pc ≠ x.pc))

theorem Thread.goesOn_putReg {t : Thread} (h : t.goesOn) (d : Dst) (v : Word) : (t.putReg d v).goesOn := by
  unfold Thread.goesOn
  rwa [Thread.putReg_st, Thread.putReg_pc]

theorem State.resumeMe_of_goesOn {s : State} (h : s.me.goesOn) : s.resumeMe = s.awake := by
  obtain ⟨p, hst, ⟨hfault, hbefore⟩ | ⟨hfault, x, hacc, hpc⟩⟩ := h
  · simp only [State.resumeMe, hst, hfault, hbefore, Option.isSome_none, Bool.false_eq_true, if_false]
  · have hsome : p.fault.isSome = true := Option.isSome_iff_ne_none.mpr hfault
    simp only [State.resumeMe, hst, hsome, if_true, State.replay, hacc, ne_eq, hpc, not_false_eq_true]

/-- A thread that goes on is Runnable at a boundary, and nothing is due there. -/
theorem State.resume_of_goesOn {s u : State} {c : Nat} {k : Fin 16} {t : Thread} (hc : Calm s c k) (hd : SameDue (s.thread c k) t)
    (hl : u.wharf.launches = s.wharf.launches) (hg : t.goesOn) :
    (u.setThread c k t).resume c k = u.setThread c k { t.run with joined := u.clk } := by
  have hme : ((u.setThread c k t).as c k).me = t := State.thread_setThread_self u c k t
  have hawake : ((u.setThread c k t).as c k).resumeMe = ((u.setThread c k t).as c k).setThread c k { t.run with joined := u.clk } := by
    rw [State.resumeMe_of_goesOn (by rw [hme]; exact hg), State.awake, hme]
    exact State.boundary_of_calm hc (t := { t.run with joined := u.clk }) hd hl
  calc (u.setThread c k t).resume c k
      = { ((u.setThread c k t).as c k).resumeMe with core := u.core, slot := u.slot, iword := u.iword } := rfl
    _ = (u.setThread c k t).setThread c k { t.run with joined := u.clk } := by rw [hawake]; rfl
    _ = u.setThread c k { t.run with joined := u.clk } := State.setThread_setThread _ _ _ _ _

theorem kret_effect {s : State} {r : Fin 32} {a : Src} (h : s.slot = 0) (hr : Ready s (.kret r a)) :
    exec (.kret r a) s = .next (State.advance (match ((after1 s a).thread (after1 s a).core (after1 s a).target).st with
      | .parked _ => if (after1 s a).target.val = 0 then after1 s a
        else ((after1 s a).setThread (after1 s a).core (after1 s a).target
          (((after1 s a).thread (after1 s a).core (after1 s a).target).setReg r (val1 s a))).resume (after1 s a).core (after1 s a).target
      | _ => after1 s a) (.kret r a)) :=
  congrArg _ (State.keeper_ready h hr _)

theorem after1_slot (s : State) (a : Src) : (after1 s a).slot = s.slot := by cases a <;> rfl

/-- The thread that kret resumes, and the keeper that goes on behind it. -/
theorem kret_resumes {s : State} {r : Fin 32} {a : Src} (h : s.slot = 0) (hr : Ready s (.kret r a)) :
    let u := after1 s a
    let k := u.myCore.selected
    let T := u.thread u.core k
    k ≠ 0 → T.goesOn → Calm u u.core k →
      ∃ t, exec (.kret r a) s = .next t ∧ t.thread u.core k = { (T.putReg (kretDst r) (val1 s a)).run with joined := u.clk } ∧
        t.me = u.me.performed (nextPc u.me (lengthOf (.kret r a))) := by
  intro u k T hk hg hc
  have hslot : u.slot = 0 := (after1_slot s a).trans h
  have hkv : ¬ k.val = 0 := fun e => hk (Fin.ext e)
  have hks : k ≠ u.slot := by rw [hslot]; exact hk
  obtain ⟨p, hst, -⟩ := id hg
  have hstep : exec (.kret r a) s =
      .next ((u.setThread u.core k { (T.putReg (kretDst r) (val1 s a)).run with joined := u.clk }).advance (.kret r a)) := by
    rw [kret_effect h hr]
    show Host.Outcome.next (State.advance (match T.st with
      | .parked _ => if k.val = 0 then u else (u.setThread u.core k (T.setReg r (val1 s a))).resume u.core k
      | _ => u) (.kret r a)) = _
    rw [hst]
    simp only [hkv, if_false]
    rw [Thread.setReg_eq_putReg, State.resume_of_goesOn hc (sameDue_putReg _ _ _) rfl (Thread.goesOn_putReg hg _ _)]
  refine ⟨_, hstep, ?_, ?_⟩
  · exact (State.thread_setThread_slot _ _ _ hks).trans (State.thread_setThread_self _ _ _ _)
  · have hme : (u.setThread u.core k { (T.putReg (kretDst r) (val1 s a)).run with joined := u.clk }).me = u.me :=
      State.thread_setThread_slot _ _ _ (Ne.symm hks)
    rw [State.advance_me, hme]

/-- A slot that is not parked, and slot 0, stay as they are. -/
theorem kret_passes {s : State} {r : Fin 32} {a : Src} (h : s.slot = 0) (hr : Ready s (.kret r a))
    (hk : (after1 s a).myCore.selected = 0 ∨ ((after1 s a).thread (after1 s a).core (after1 s a).myCore.selected).st.code ≠ 4) :
    exec (.kret r a) s = .next ((after1 s a).advance (.kret r a)) := by
  rw [kret_effect h hr]
  refine congrArg (fun t => Host.Outcome.next (State.advance t (.kret r a))) ?_
  split
  next p hst =>
    have hcode : ((after1 s a).thread (after1 s a).core (after1 s a).myCore.selected).st.code = 4 := by
      rw [show ((after1 s a).thread (after1 s a).core (after1 s a).myCore.selected).st = .parked p from hst]
      rfl
    have hk0 : (after1 s a).target.val = 0 := congrArg Fin.val (hk.resolve_right (fun e => e hcode))
    rw [if_pos hk0]
  · rfl

-- kfence (09 R196) -----------------------------------------------------------------------------------------------------------------------

theorem State.target_advance (s : State) (i : Instr) : (s.advance i).target = s.target := by
  rw [State.target, State.advance, State.goTo, State.myCore_setMe]
  rfl

/-- An instruction that advances keeps each thread's relaxed accesses. -/
theorem State.relaxed_advance (s : State) (i : Instr) (k : Fin 16) :
    ((s.advance i).thread s.core k).relaxed = (s.thread s.core k).relaxed := by
  by_cases hk : k = s.slot
  · subst hk
    exact (congrArg Thread.relaxed (State.advance_me s i)).trans (Thread.performed_relaxed _ _)
  · exact congrArg Thread.relaxed (State.thread_setThread_slot _ _ _ hk)

theorem kfence_effect {s : State} (h : s.slot = 0) (hr : Ready s .kfence) :
    exec .kfence s = .next (if (s.thread s.core s.target).quiet then s.advance .kfence else (s.advance .kfence).remove .kfence) := by
  have e : exec .kfence s = .next (if ((s.advance .kfence).thread s.core (s.advance .kfence).target).quiet then s.advance .kfence
      else (s.advance .kfence).remove .kfence) := congrArg _ (State.keeper_ready h hr _)
  rw [e, State.target_advance, Thread.quiet, State.relaxed_advance]
  rfl

theorem kfence_waits {s : State} (h : s.slot = 0) (hr : Ready s .kfence) :
    let T := s.thread s.core s.myCore.selected
    (T.relaxed = [] → exec .kfence s = .next (s.advance .kfence)) ∧
    ((∃ r ∈ T.relaxed, r.poison = false ∧ r.status = none ∧ r.denied = false) →
      exec .kfence s = .next ((s.advance .kfence).remove .kfence)) := by
  intro T
  rw [kfence_effect h hr]
  refine ⟨fun hnil => ?_, fun ⟨r, hmem, hpoison, hstatus, hdenied⟩ => ?_⟩
  · have hq : T.quiet = true := by rw [Thread.quiet, hnil]; rfl
    rw [show (s.thread s.core s.target).quiet = true from hq, if_pos rfl]
  · have hq : T.quiet = false := by
      rw [Thread.quiet, List.all_eq_false]
      exact ⟨r, hmem, by simp [hpoison, hstatus, hdenied]⟩
    rw [show (s.thread s.core s.target).quiet = false from hq, if_neg Bool.false_ne_true]

-- kcfg (09 R198) --------------------------------------------------------------------------------------------------------------------------

/-- A core in which one configuration item has been written. -/
def Configured (x z : Core) (n : Nat) (v : Word) : Prop :=
  z.slots = x.slots ∧ z.queues = x.queues ∧ z.pound = x.pound ∧ z.deque = x.deque ∧
    (∀ j : Fin 8, (z.template.get j).w0 = (if n = 2 * j.val then v else (x.template.get j).w0) ∧
      (z.template.get j).w1 = (if n = 2 * j.val + 1 then (fld v 0 59 : BitVec 59).setWidth 64 else (x.template.get j).w1)) ∧
    z.stackBase = (if n = 0x10 then v else x.stackBase) ∧ z.ringBase = (if n = 0x11 then v else x.ringBase) ∧
    z.vector = (if n = 0x12 then v else x.vector) ∧ z.slot1 = (if n = 0x13 then v else x.slot1) ∧
    z.faultBase = (if n = 0x14 then v else x.faultBase)

/-- A word of a template segment register, by its number. -/
def Seg.withWord (g : Seg) (n : Nat) (v : Word) : Seg := if n % 2 = 0 then { g with w0 := v } else mkSeg g.w0 v

/-- A core with a segment register of its template written. -/
def Core.setTemplate (x : Core) (i : Fin 8) (g : Seg) : Core := { x with template := x.template.set i.val g i.isLt }

theorem Core.config_template {x : Core} {item : Word} (v : Word) (h : item.toNat < 16) :
    x.config item v = some (x.setTemplate (Fin.ofNat 8 (item.toNat / 2))
      ((x.template.get (Fin.ofNat 8 (item.toNat / 2))).withWord item.toNat v)) := by
  simp only [Core.config, h, if_true, Seg.withWord, Core.setTemplate]

theorem template_written {x : Core} {n : Nat} {v : Word} (h : n < 16) (j : Fin 8) :
    let i : Fin 8 := Fin.ofNat 8 (n / 2)
    let g := (x.template.set i.val ((x.template.get i).withWord n v) i.isLt).get j
    g.w0 = (if n = 2 * j.val then v else (x.template.get j).w0) ∧
      g.w1 = (if n = 2 * j.val + 1 then (fld v 0 59 : BitVec 59).setWidth 64 else (x.template.get j).w1) := by
  intro i g
  have hi : i.val = n / 2 := Nat.mod_eq_of_lt (by omega)
  have hg : g = if j = i then (x.template.get i).withWord n v else x.template.get j := vget_set _ _ _ _
  rw [hg]
  by_cases hj : j = i
  · subst hj
    rw [if_pos rfl, Seg.withWord]
    by_cases hn : n % 2 = 0
    · rw [if_pos hn, if_pos (by omega), if_neg (by omega)]
      exact ⟨rfl, rfl⟩
    · rw [if_neg hn, if_neg (by omega), if_pos (by omega)]
      exact ⟨rfl, rfl⟩
  · have hne : j.val ≠ n / 2 := fun e => hj (Fin.ext (e.trans hi.symm))
    rw [if_neg hj, if_neg (by omega), if_neg (by omega)]
    exact ⟨rfl, rfl⟩

theorem template_kept {x : Core} {n : Nat} {v : Word} (h : 16 ≤ n) (j : Fin 8) :
    (x.template.get j).w0 = (if n = 2 * j.val then v else (x.template.get j).w0) ∧
      (x.template.get j).w1 = (if n = 2 * j.val + 1 then (fld v 0 59 : BitVec 59).setWidth 64 else (x.template.get j).w1) := by
  rw [if_neg (by omega), if_neg (by omega)]
  exact ⟨rfl, rfl⟩

/-- Each known item is one word of the templates, or one of five registers. -/
theorem Core.config_known (x : Core) {item : Word} (v : Word) (h : item.toNat < 0x15) :
    ∃ z, x.config item v = some z ∧ Configured x z item.toNat v := by
  by_cases h16 : item.toNat < 16
  · refine ⟨_, Core.config_template v h16, rfl, rfl, rfl, rfl, fun j => template_written h16 j, ?_⟩
    refine ⟨?_, ?_, ?_, ?_, ?_⟩ <;> exact (if_neg (by omega)).symm
  · have hkept := template_kept (x := x) (v := v) (Nat.le_of_not_lt h16)
    simp only [Core.config, h16, if_false]
    have hcases : item.toNat = 0x10 ∨ item.toNat = 0x11 ∨ item.toNat = 0x12 ∨ item.toNat = 0x13 ∨ item.toNat = 0x14 := by omega
    rcases hcases with e | e | e | e | e <;>
    · rw [e] at hkept ⊢
      exact ⟨_, rfl, rfl, rfl, rfl, rfl, hkept, rfl, rfl, rfl, rfl, rfl⟩

theorem Core.config_unknown (x : Core) {item : Word} (v : Word) (h : 0x15 ≤ item.toNat) : x.config item v = none := by
  simp only [Core.config]
  rw [if_neg (by omega), if_neg (by omega), if_neg (by omega), if_neg (by omega), if_neg (by omega), if_neg (by omega)]

theorem kcfg_effect {s : State} {a b : Src} (h : s.slot = 0) (hr : Ready s (.kcfg a b)) :
    exec (.kcfg a b) s = .next (match (after2 s a b).myCore.config (val1 s a) (val2 s a b) with
      | some z => ((after2 s a b).setMyCore z).advance (.kcfg a b)
      | none => (after2 s a b).trap 0x01 (val1 s a) (val2 s a b)) :=
  congrArg _ (State.keeper_ready h hr _)

theorem kcfg_unknown {s : State} {a b : Src} (h : s.slot = 0) (hr : Ready s (.kcfg a b)) (hn : 0x15 ≤ (val1 s a).toNat) :
    ∃ t, exec (.kcfg a b) s = .next t ∧ Trapped (after2 s a b) t 0x01 (val1 s a) (val2 s a b) := by
  rw [kcfg_effect h hr, Core.config_unknown _ _ hn]
  exact ⟨_, rfl, trap_trapped _ _ _ _⟩

theorem kcfg_known {s : State} {a b : Src} (h : s.slot = 0) (hr : Ready s (.kcfg a b)) (hn : (val1 s a).toNat < 0x15) :
    ∃ z, exec (.kcfg a b) s = .next (((after2 s a b).setMyCore z).advance (.kcfg a b)) ∧
      Configured (after2 s a b).myCore z (val1 s a).toNat (val2 s a b) := by
  obtain ⟨z, hz, hconf⟩ := Core.config_known (after2 s a b).myCore (val2 s a b) hn
  rw [kcfg_effect h hr, hz]
  exact ⟨z, rfl, hconf⟩

theorem keeperConfiguration : Claims.KeeperConfiguration := by
  refine ⟨fun s sg a b h => ⟨sgset_effect sg h, sgsetK_effect sg h⟩, fun s a b h hr => ctuinv_issues h hr, ctuinv_completes, ?kret,
    fun s h hr => kfence_waits h hr, fun s a b h hr => ⟨kcfg_unknown h hr, kcfg_known h hr⟩⟩
  case kret =>
    intro s r a h hr
    refine ⟨kret_passes h hr, fun p hk hst hfault hbefore => ?_, fun p x hk hst hfault hacc hpc => ?_⟩
    · exact kret_resumes h hr hk ⟨p, hst, .inl ⟨hfault, hbefore⟩⟩
    · exact kret_resumes h hr hk ⟨p, hst, .inr ⟨hfault, x, hacc, hpc⟩⟩

end Sys2Proof.Machine

namespace Sys2Proof.Machine
open Sys2Proof

-- Words of an image (00 R3) -------------------------------------------------------------------------------------------------------------

theorem Memory.read_drop (m : List Host.Cell) (a n k : Nat) : (Memory.read m a (k + n)).drop k = Memory.read m (a + k) n := by
  induction k generalizing a with
  | zero => rw [Nat.zero_add]; rfl
  | succ k ih =>
    rw [show k + 1 + n = (k + n) + 1 by omega, Memory.read, List.drop_succ_cons, ih, show a + 1 + k = a + (k + 1) by omega]

theorem Memory.read_take (m : List Host.Cell) (a n k : Nat) : (Memory.read m a (k + n)).take k = Memory.read m a k := by
  induction k generalizing a with
  | zero => rfl
  | succ k ih =>
    rw [show k + 1 + n = (k + n) + 1 by omega, Memory.read, List.take_succ_cons, ih]
    rfl

/-- A word of memory, by its number from a key on. -/
def wordFrom (s : State) (key i : Nat) : Word := BitVec.ofNat 64 (bytesNat (rawRead s (key + 8 * i) 8))

theorem wordAt_rawRead (s : State) (key : Nat) {n i : Nat} (h : 8 * i + 8 ≤ n) : wordAt (rawRead s key n) i = wordFrom s key i := by
  obtain ⟨m, rfl⟩ : ∃ m, n = 8 * i + (8 + m) := ⟨n - (8 * i + 8), by omega⟩
  rw [wordAt, rawRead, Memory.read_drop, Memory.read_take]
  rfl

/-- The payload words of an image stand behind its two first words. -/
theorem bytesWords_rawRead (s : State) (key n : Nat) :
    bytesWords ((rawRead s key (16 + 8 * n)).drop 16) n = (List.range n).map fun i => wordFrom s key (2 + i) := by
  rw [rawRead, Memory.read_drop, bytesWords, List.map_inj_left]
  intro i hi
  have hin : i < n := List.mem_range.mp hi
  have e := wordAt_rawRead s (key + 16) (n := 8 * n) (i := i) (by omega)
  rw [rawRead] at e
  rw [e, wordFrom, wordFrom, show key + 16 + 8 * i = key + 8 * (2 + i) by omega]

theorem poisoned_of_le {s : State} {a n m : Nat} (h : n ≤ m) (hp : poisoned s a m = false) : poisoned s a n = false := by
  rw [poisoned, List.any_eq_false] at hp ⊢
  intro l hl
  have hne := hp l hl
  simp only [decide_eq_true_eq] at hne ⊢
  omega

/-- An image through a segment of kind 0 is read from the core's local store. -/
theorem State.image_local {s before : State} {off : Word} {n align a : Nat} (hk : (s.me.sg.get 0).kind = 0)
    (hc : segCheck s (s.me.sg.get 0) off.toNat n needR align true = .ok a) (hp : poisoned s (lsKey s.core a) n = false)
    (f : List Byte → State → State) : s.image before off n align f = f (rawRead s (lsKey s.core a) n) s := by
  simp only [State.image, hc, hk, State.imageAt, hp, Bool.false_eq_true, if_false]

-- Reserved fields (08 R149) ---------------------------------------------------------------------------------------------------------------

/-- A word whose upper field is cleared. -/
theorem setFld_upper_zero (w : Word) {lo k : Nat} (h : lo + k = 64) : setFld w lo (0 : BitVec k) = (fld w 0 lo : BitVec lo).setWidth 64 := by
  ext i hi
  simp only [setFld, BitVec.getElem_or, BitVec.getElem_and, BitVec.getElem_not, BitVec.getElem_shiftLeft, BitVec.getElem_setWidth,
    BitVec.getLsbD_allOnes, BitVec.getLsbD_extractLsb']
  by_cases hlo : i < lo
  · simp [hlo, hi]
  · simp [hlo, hi, show i - lo < k by omega]

theorem delivered_task (w : List Word) : (delivered kT w).length = w.length ∧
    ∀ j, j < w.length → (delivered kT w).getD j 0 = if j = 0 then (fld (w.getD 0 0) 0 55 : BitVec 55).setWidth 64
      else if j = 1 then (fld (w.getD 1 0) 0 32 : W32).setWidth 64 else if j = 2 then (fld (w.getD 2 0) 0 48 : BitVec 48).setWidth 64
      else w.getD j 0 := by
  unfold delivered
  rw [if_neg (fun e => e rfl)]
  refine ⟨by simp, fun j hj => ?_⟩
  rw [List.getD_eq_getElem _ _ (by simpa using hj), List.getElem_map, List.getElem_range]
  simp only [nthD_eq_getD]
  match j with
  | 0 => exact setFld_upper_zero _ rfl
  | 1 => exact setFld_upper_zero _ rfl
  | 2 => exact setFld_upper_zero _ rfl
  | _ + 3 => rfl

theorem delivered_spec (kind : Nat) (w : List Word) : (kind ≠ kT → delivered kind w = w) ∧ (kind = kT →
    (delivered kind w).length = w.length ∧
    ∀ j, j < w.length → (delivered kind w).getD j 0 = if j = 0 then (fld (w.getD 0 0) 0 55 : BitVec 55).setWidth 64
      else if j = 1 then (fld (w.getD 1 0) 0 32 : W32).setWidth 64 else if j = 2 then (fld (w.getD 2 0) 0 48 : BitVec 48).setWidth 64
      else w.getD j 0) := by
  refine ⟨fun h => by rw [delivered, if_pos h], ?_⟩
  rintro rfl
  exact delivered_task w

-- kpost (09 R197) ---------------------------------------------------------------------------------------------------------------------------

/-- The record of which an image of words is the contents. -/
def imageRecord (w : Nat → Word) : Record :=
  { hdr := w 0, key := w 1, pay := delivered (fld (w 0) 37 3 : BitVec 3).toNat
      ((List.range ((fld (w 0) 30 3 : BitVec 3).toNat + 1)).map fun i => w (2 + i)) }

/-- What kpost does with its record. -/
def State.postAs (u : State) (a : Src) (x : Word) (r : Record) : State :=
  if r.kind == kK || !namesPound u r.ta then u.trap 0x05 x r.hdr else u.send (.kpost a) r false

/-- What kpost does with the bytes of its image. -/
def State.postImage (x : Word) (a : Src) (n : Nat) (bs : List Byte) (u : State) : State :=
  let h : Record := { hdr := wordAt bs 0, key := wordAt bs 1, pay := [] }
  u.postAs a x { h with pay := delivered h.kind (bytesWords (bs.drop 16) n) }

theorem kpost_effect {s : State} {a : Src} (h : s.slot = 0) (hr : Ready s (.kpost a)) :
    exec (.kpost a) s = .next ((after1 s a).image s (val1 s a) 8 8 fun hd u =>
      u.image s (val1 s a) (16 + 8 * ((fld (wordAt hd 0) 30 3 : BitVec 3).toNat + 1)) 8
        (State.postImage (val1 s a) a ((fld (wordAt hd 0) 30 3 : BitVec 3).toNat + 1))) :=
  congrArg _ (State.keeper_ready h hr _)

/-- kpost with an image in the local store: the record is the one that stands there. -/
theorem kpost_local {s : State} {a : Src} {x : Nat} (h : s.slot = 0) (hr : Ready s (.kpost a)) :
    let u := after1 s a
    let w := wordFrom u (lsKey u.core x)
    let n := (fld (w 0) 30 3 : BitVec 3).toNat + 1
    (u.me.sg.get 0).kind = 0 → segCheck u (u.me.sg.get 0) (val1 s a).toNat 8 needR 8 true = .ok x →
    segCheck u (u.me.sg.get 0) (val1 s a).toNat (16 + 8 * n) needR 8 true = .ok x → poisoned u (lsKey u.core x) (16 + 8 * n) = false →
    exec (.kpost a) s = .next (u.postAs a (val1 s a) (imageRecord w)) := by
  intro u w n hk hc8 hc hp
  rw [kpost_effect h hr, State.image_local hk hc8 (poisoned_of_le (by omega) hp), wordAt_rawRead _ _ (by omega),
    State.image_local hk hc hp, State.postImage, wordAt_rawRead _ _ (by omega), wordAt_rawRead _ _ (by omega), bytesWords_rawRead]
  rfl

theorem State.postAs_trapped {u : State} {x : Word} {r : Record} (h : r.kind = kK ∨ namesPound u r.ta = false) (a : Src) :
    Trapped u (u.postAs a x r) 0x05 x r.hdr := by
  have hc : (r.kind == kK || !namesPound u r.ta) = true := by simpa using h
  rw [State.postAs, if_pos hc]
  exact trap_trapped _ _ _ _

theorem State.postAs_sends {u : State} {r : Record} (hk : r.kind ≠ kK) (hn : namesPound u r.ta = true) (a : Src) (x : Word) :
    u.postAs a x r = u.send (.kpost a) r false := by
  have hc : ¬ (r.kind == kK || !namesPound u r.ta) = true := by simp [hk, hn]
  rw [State.postAs, if_neg hc]

theorem mem_post (s : State) (n : Nat) (r : Record) : (s.post n r).mem = s.mem := by
  obtain ⟨net, unacked, waiting, h⟩ := s.post_eq n r
  rw [h]

/-- A record that a port takes without a reply: it is on its way, and memory and the thread are as they were. -/
theorem State.sent_spec (s : State) (r : Record) : (s.sent r false).mem = s.mem ∧
    OnItsWay (s.sent r false) (senderThread s.core s.slot) r ∧ (s.sent r false).thread s.core s.slot = s.me ∧
    (s.sent r false).core = s.core ∧ (s.sent r false).slot = s.slot := by
  have hway := post_onItsWay s (senderThread s.core s.slot) r
  have hmem := mem_post s (senderThread s.core s.slot) r
  have haloof := aloof_post s (senderThread s.core s.slot) r
  unfold State.sent
  by_cases h : countsAsTask r = true
  · simp only [h, if_true, Bool.false_eq_true, if_false]
    exact ⟨hmem, hway, (State.thread_count ..).trans (State.thread_post ..), haloof.core, haloof.slot⟩
  · simp only [h, Bool.false_eq_true, if_false]
    exact ⟨hmem, hway, State.thread_post .., haloof.core, haloof.slot⟩

theorem State.portAccepts_advance (s : State) (i : Instr) (r : Record) :
    portAccepts (s.advance i) (s.advance i).core r = portAccepts s s.core r := rfl

theorem State.send_accepted {s : State} {r : Record} (h : portAccepts s s.core r = true) (i : Instr) :
    (s.send i r false).mem = s.mem ∧ OnItsWay (s.send i r false) (senderThread s.core s.slot) r ∧
      (s.send i r false).me = s.me.performed (nextPc s.me (lengthOf i)) := by
  have e : s.send i r false = (s.advance i).sent r false := by
    rw [State.send, State.portAccepts_advance, if_pos h]
  obtain ⟨hmem, hway, hme, hcore, hslot⟩ := State.sent_spec (s.advance i) r
  rw [e]
  refine ⟨hmem, hway, ?_⟩
  rw [State.me, hcore, hslot, hme, State.advance_me]

theorem State.send_refused {s : State} {r : Record} (h : portAccepts s s.core r = false) (i : Instr) :
    (s.send i r false).net = s.net ∧ (s.send i r false).me.st = .removed (.port r false) ∧
      (s.send i r false).me.pc = nextPc s.me (lengthOf i) := by
  have e : s.send i r false = (s.advance i).remove (.port r false) := by
    rw [State.send, State.portAccepts_advance, h, if_neg Bool.false_ne_true]
  rw [e, State.remove_me, State.advance_me]
  exact ⟨rfl, rfl, Thread.performed_pc _ _⟩

theorem keeperPosts : Claims.KeeperPosts := by
  refine ⟨delivered_spec, ?_⟩
  intro s a x h hr u w n r hk hc8 hc hp
  have hstep : exec (.kpost a) s = .next (u.postAs a (val1 s a) r) := kpost_local h hr hk hc8 hc hp
  refine ⟨fun hbad => ⟨_, hstep, State.postAs_trapped hbad a⟩, fun hkind hname hport => ?_, fun hkind hname hport => ?_⟩
  · rw [State.postAs_sends hkind hname] at hstep
    exact ⟨_, hstep, State.send_accepted hport _⟩
  · rw [State.postAs_sends hkind hname] at hstep
    exact ⟨_, hstep, State.send_refused hport _⟩

/-- Settles O41: each keeper instruction behind the check of its slot, by what its effect leaves of the thread, the target and the core. -/
theorem keeperInstructions : Obligations.KeeperInstructions := by
  unfold Obligations.KeeperInstructions
  exact ⟨keeperOnlyTraps, keeperConfiguration, keeperPosts⟩

end Sys2Proof.Machine

namespace Sys2Proof.Machine
open Sys2Proof

-- Lanes of a vector (06 R112) -------------------------------------------------------------------------------------------------------

theorem lane_zero (w j : Nat) : lane w (0 : Vec) j = 0 := BitVec.extractLsb'_zero

theorem lane_or (w : Nat) (x y : Vec) (j : Nat) : lane w (x ||| y) j = lane w x j ||| lane w y j := BitVec.extractLsb'_or

theorem lane_and (w : Nat) (x y : Vec) (j : Nat) : lane w (x &&& y) j = lane w x j &&& lane w y j := BitVec.extractLsb'_and

/-- A lane that lies inside the vector is complemented with it. -/
theorem lane_not {w j : Nat} (x : Vec) (h : w * (j + 1) ≤ 512) : lane w (~~~x) j = ~~~lane w x j := by
  rw [Nat.mul_succ] at h
  ext i hi
  simp only [lane, BitVec.getElem_extractLsb', BitVec.getLsbD_not, BitVec.getElem_not, show w * j + i < 512 by omega, decide_true,
    Bool.true_and]

/-- A value that is placed in lane n is there, and no other lane holds a bit of it. -/
theorem lane_place {w n : Nat} (a : BitVec w) (h : w * (n + 1) ≤ 512) (j : Nat) :
    lane w (a.setWidth 512 <<< (w * n)) j = if j = n then a else 0 := by
  rw [Nat.mul_succ] at h
  rcases Nat.lt_trichotomy j n with hj | hj | hj
  · have hle : w * (j + 1) ≤ w * n := Nat.mul_le_mul_left w hj
    rw [if_neg (by omega)]
    ext i hi
    rw [Nat.mul_succ] at hle
    simp [lane, show w * j + i < w * n by omega]
  · rw [if_pos hj, hj]
    ext i hi
    simp [lane, show w * n + i < 512 by omega, hi]
  · have hle : w * (n + 1) ≤ w * j := Nat.mul_le_mul_left w hj
    rw [if_neg (by omega)]
    ext i hi
    rw [Nat.mul_succ] at hle
    have hout : a.getLsbD (w * j + i - w * n) = false := BitVec.getLsbD_of_ge _ _ (by omega)
    simp [lane, hout]

/-- What is read from a vector that is given lane by lane. -/
theorem lane_ofLanes {w n : Nat} (f : Nat → BitVec w) (h : w * n ≤ 512) (j : Nat) : lane w (ofLanes w f n) j = if j < n then f j else 0 := by
  induction n with
  | zero => rw [if_neg (Nat.not_lt_zero j)]; exact lane_zero w j
  | succ n ih =>
    rw [ofLanes, lane_or, ih (Nat.le_trans (Nat.mul_le_mul_left w (Nat.le_succ n)) h), lane_place _ h]
    rcases Nat.lt_trichotomy j n with hj | rfl | hj
    · simp [hj, Nat.ne_of_lt hj, Nat.lt_succ_of_lt hj]
    · simp
    · rw [if_neg (by omega), if_neg (by omega), if_neg (by omega)]; exact BitVec.or_zero

/-- An enabled lane takes its new value, another keeps the old one. -/
theorem lane_mapLanes {w n : Nat} (mask : Word) (old : Vec) (f : Nat → BitVec w) (h : w * n ≤ 512) {j : Nat} (hj : j < n) :
    lane w (mapLanes w n mask old f) j = if bit mask j then f j else lane w old j := by
  rw [mapLanes, lane_ofLanes _ h, if_pos hj]

/-- The field of a lane's width that is replaced at lane n is that lane; the others stay. -/
theorem lane_setFld {w n : Nat} (x : Vec) (a : BitVec w) (hn : w * (n + 1) ≤ 512) {j : Nat} (hj : w * (j + 1) ≤ 512) :
    lane w (setFld x (w * n) a) j = if j = n then a else lane w x j := by
  rw [setFld, lane_or, lane_and, lane_not _ hj, lane_place _ hn, lane_place _ hn]
  by_cases h : j = n
  · simp [h]
  · simp [h]

/-- A byte of a 32-bit lane is a byte lane of the vector. -/
theorem fld_lane_byte (v : Vec) (j : Nat) {k : Nat} (hk : k < 4) : (fld (lane 32 v j) (8 * k) 8 : Byte) = lane 8 v (4 * j + k) := by
  rw [lane, fld_fld v (by omega), lane, show 32 * j + 8 * k = 8 * (4 * j + k) by omega]

theorem toNat_lane (w : Nat) (v : Vec) (j : Nat) : (lane w v j).toNat = v.toNat / 2 ^ (w * j) % 2 ^ w := by
  rw [lane, BitVec.extractLsb'_toNat, Nat.shiftRight_eq_div_pow]

-- Instructions that write one vector register ---------------------------------------------------------------------------------------

theorem vecOp_ready {s : State} {i : Instr} (h : Ready s i) (vd : Fin 16) (f : Thread → Vec) :
    vecOp i vd f s = (s.setMe (s.me.setV vd (f s.me))).advance i := State.gated_ready h _

/-- What an instruction that writes one vector register does once its checks pass. -/
theorem exec_vecOp {s : State} {i : Instr} {vd : Fin 16} {f : Thread → Vec} (he : exec i s = .next (vecOp i vd f s)) (h : Ready s i) :
    exec i s = .next ((s.setMe (s.me.setV vd (f s.me))).advance i) := he.trans (congrArg _ (vecOp_ready h vd f))

/-- As many lanes of a width as a vector holds fit into it. -/
theorem lanes_fit (w : Nat) : w * (512 / w) ≤ 512 := Nat.mul_div_le 512 w

end Sys2Proof.Machine

namespace Sys2Proof.Machine
open Sys2Proof

-- The five formats (03 R56, R57) -------------------------------------------------------------------------------------------------------

/-- What the formats have in common: a fraction, an exponent, and the patterns of e4m3 where there is no infinity. -/
def Fmt.Regular (f : Fmt) : Prop := 0 < f.eb ∧ 0 < f.mb ∧ (f.noInf = true → f.eb = 4 ∧ f.mb = 3)

theorem Fmt.regular_of_mem : ∀ f ∈ [fF32, fBf16, fF16, fE4m3, fE5m2], f.Regular := by
  unfold Fmt.Regular; decide

/-- The exponent field of a pattern. -/
def Fmt.expOf (f : Fmt) (b : Nat) : Nat := b / 2 ^ f.mb % 2 ^ f.eb
/-- The fraction field of a pattern. -/
def Fmt.fracOf (f : Fmt) (b : Nat) : Nat := b % 2 ^ f.mb

theorem Fmt.expOf_lt (f : Fmt) (b : Nat) : f.expOf b < 2 ^ f.eb := Nat.mod_lt _ (Nat.two_pow_pos _)
theorem Fmt.fracOf_lt (f : Fmt) (b : Nat) : f.fracOf b < 2 ^ f.mb := Nat.mod_lt _ (Nat.two_pow_pos _)

/-- The model's value of a pattern, by its fields. -/
theorem Fmt.value_eq (f : Fmt) (b : Nat) : f.value b =
    if f.noInf then
      if f.expOf b = 15 ∧ f.fracOf b = 7 then .nan
      else if f.expOf b = 0 then .fin (b.testBit (f.eb + f.mb)) (f.fracOf b) f.emin
      else .fin (b.testBit (f.eb + f.mb)) (2 ^ f.mb + f.fracOf b) (f.emin + f.expOf b - 1)
    else if f.expOf b = 2 ^ f.eb - 1 then if f.fracOf b = 0 then .inf (b.testBit (f.eb + f.mb)) else .nan
    else if f.expOf b = 0 then .fin (b.testBit (f.eb + f.mb)) (f.fracOf b) f.emin
    else .fin (b.testBit (f.eb + f.mb)) (2 ^ f.mb + f.fracOf b) (f.emin + f.expOf b - 1) := rfl

/-- A pattern is its sign, its exponent and its fraction. -/
theorem Fmt.pattern_eq {f : Fmt} {b : Nat} (h : b < 2 ^ f.width) :
    b = f.sign (b.testBit (f.eb + f.mb)) + (f.expOf b * 2 ^ f.mb + f.fracOf b) := by
  have hmag : b % 2 ^ (f.eb + f.mb) = f.expOf b * 2 ^ f.mb + f.fracOf b := by
    rw [Nat.add_comm f.eb, Nat.pow_add, Nat.mod_mul, Fmt.expOf, Fmt.fracOf, Nat.mul_comm, Nat.add_comm]
  have hdiv : b / 2 ^ (f.eb + f.mb) < 2 := by
    rw [Nat.div_lt_iff_lt_mul (Nat.two_pow_pos _), Nat.mul_comm, ← Nat.pow_succ]
    rwa [Fmt.width, Nat.add_assoc, Nat.add_comm] at h
  have hsplit := Nat.div_add_mod b (2 ^ (f.eb + f.mb))
  rw [hmag] at hsplit
  rw [Fmt.sign, Nat.testBit_eq_decide_div_mod_eq, Nat.mod_eq_of_lt hdiv]
  rcases Nat.lt_succ_iff_lt_or_eq.mp hdiv with h0 | h1
  · rw [Nat.lt_one_iff.mp h0] at hsplit ⊢
    simpa using hsplit.symm
  · rw [h1] at hsplit ⊢
    simpa using hsplit.symm

/-- The value of a number m * 2^(emin + k) that a format holds exactly. -/
structure Fmt.Holds (f : Fmt) (m k : Nat) : Prop where
  small : m < 2 ^ (f.mb + 1)
  unit : k = 0 ∨ 2 ^ f.mb ≤ m
  notAbove : k * 2 ^ f.mb + m ≤ f.top

/-- A finite pattern without its sign. -/
theorem Fmt.holds_fields {f : Fmt} {b : Nat} (ht : f.expOf b * 2 ^ f.mb + f.fracOf b ≤ f.top) :
    (f.expOf b = 0 → f.Holds (f.fracOf b) 0) ∧
    (f.expOf b ≠ 0 → f.Holds (2 ^ f.mb + f.fracOf b) (f.expOf b - 1) ∧
      (f.expOf b - 1) * 2 ^ f.mb + (2 ^ f.mb + f.fracOf b) = f.expOf b * 2 ^ f.mb + f.fracOf b) := by
  have hfrac := f.fracOf_lt b
  have hpow : 2 ^ (f.mb + 1) = 2 ^ f.mb * 2 := Nat.pow_succ ..
  refine ⟨fun h0 => ⟨by omega, .inl rfl, by rw [h0] at ht; exact ht⟩, fun h0 => ?_⟩
  have hsum : (f.expOf b - 1) * 2 ^ f.mb + (2 ^ f.mb + f.fracOf b) = f.expOf b * 2 ^ f.mb + f.fracOf b := by
    rw [← Nat.add_assoc, ← Nat.succ_mul, Nat.succ_eq_add_one, Nat.sub_add_cancel (by omega)]
  exact ⟨⟨by omega, .inr (Nat.le_add_right ..), hsum ▸ ht⟩, hsum⟩

/-- Below the largest exponent a pattern is at most the largest finite one. -/
theorem Fmt.le_top_of_exp_ne {f : Fmt} {b : Nat} (hi : f.noInf = false) (he : f.expOf b ≠ 2 ^ f.eb - 1) :
    f.expOf b * 2 ^ f.mb + f.fracOf b ≤ f.top := by
  have hexp := f.expOf_lt b
  have hfrac := f.fracOf_lt b
  have hle : (f.expOf b + 1) * 2 ^ f.mb ≤ (2 ^ f.eb - 1) * 2 ^ f.mb := Nat.mul_le_mul_right _ (by omega)
  rw [Nat.succ_mul] at hle
  simp only [Fmt.top, hi, Fmt.inf]
  rw [if_neg Bool.false_ne_true]
  omega

theorem Fmt.le_top_of_noInf {f : Fmt} {b : Nat} (hf : f.Regular) (hi : f.noInf = true) (he : ¬(f.expOf b = 15 ∧ f.fracOf b = 7)) :
    f.expOf b * 2 ^ f.mb + f.fracOf b ≤ f.top := by
  obtain ⟨heb, hmb⟩ := hf.2.2 hi
  have hexp := f.expOf_lt b
  have hfrac := f.fracOf_lt b
  rw [heb] at hexp
  rw [hmb] at hfrac ⊢
  rw [Fmt.top, if_pos hi]
  omega

/-- A pattern that is no NaN is an infinity of a format that has one, or a number that the format holds. -/
theorem Fmt.value_spec {f : Fmt} (hf : f.Regular) {b : Nat} (h : f.value b ≠ .nan) :
    (f.noInf = false ∧ f.expOf b * 2 ^ f.mb + f.fracOf b = f.inf ∧ f.value b = .inf (b.testBit (f.eb + f.mb))) ∨
    ∃ m k : Nat, f.Holds m k ∧ k * 2 ^ f.mb + m = f.expOf b * 2 ^ f.mb + f.fracOf b ∧
      f.value b = .fin (b.testBit (f.eb + f.mb)) m (f.emin + k) := by
  have hfin : f.expOf b * 2 ^ f.mb + f.fracOf b ≤ f.top → f.value b = (if f.expOf b = 0 then
      .fin (b.testBit (f.eb + f.mb)) (f.fracOf b) f.emin else
      .fin (b.testBit (f.eb + f.mb)) (2 ^ f.mb + f.fracOf b) (f.emin + f.expOf b - 1)) →
      ∃ m k : Nat, f.Holds m k ∧ k * 2 ^ f.mb + m = f.expOf b * 2 ^ f.mb + f.fracOf b ∧
        f.value b = .fin (b.testBit (f.eb + f.mb)) m (f.emin + k) := by
    intro ht hv
    obtain ⟨hsub, hnormal⟩ := Fmt.holds_fields ht
    by_cases h0 : f.expOf b = 0
    · exact ⟨_, 0, hsub h0, by rw [h0], by rw [hv, if_pos h0]; simp⟩
    · obtain ⟨hholds, hsum⟩ := hnormal h0
      refine ⟨_, _, hholds, hsum, ?_⟩
      rw [hv, if_neg h0]
      congr 1
      omega
  rw [Fmt.value_eq] at h
  cases hi : f.noInf
  · simp only [hi, Bool.false_eq_true, if_false] at h
    by_cases hmax : f.expOf b = 2 ^ f.eb - 1
    · have hz : f.fracOf b = 0 := by
        by_contra hne
        exact h (by rw [if_pos hmax, if_neg hne])
      refine .inl ⟨rfl, by rw [hmax, hz, Fmt.inf, Nat.add_zero], ?_⟩
      simp [Fmt.value_eq, hi, hmax, hz]
    · refine .inr (hfin (Fmt.le_top_of_exp_ne hi hmax) ?_)
      simp [Fmt.value_eq, hi, hmax]
  · simp only [hi, if_true] at h
    have hn : ¬(f.expOf b = 15 ∧ f.fracOf b = 7) := fun hc => h (if_pos hc)
    refine .inr (hfin (Fmt.le_top_of_noInf hf hi hn) ?_)
    rw [Fmt.value_eq, if_pos hi, if_neg hn]

-- Rounding (03 R61) -------------------------------------------------------------------------------------------------------------------

/-- A number that the format holds is rounded to itself. -/
theorem Fmt.round_of_holds {f : Fmt} {m k : Nat} (h : f.Holds m k) (r : Rounding) (neg : Bool) :
    f.round r neg m (f.emin + k) = f.sign neg + (k * 2 ^ f.mb + m) := by
  obtain ⟨hsmall, hunit, htop⟩ := h
  by_cases h0 : m = 0
  · have hk : k = 0 := hunit.resolve_right (by have := Nat.two_pow_pos f.mb; omega)
    simp [Fmt.round, h0, hk]
  · have hlog : m.log2 < f.mb + 1 := (Nat.log2_lt h0).mpr hsmall
    have hlog' : k ≠ 0 → f.mb ≤ m.log2 := fun hk => (Nat.le_log2 h0).mpr (hunit.resolve_left hk)
    have hu : max f.emin (f.emin + k + (m.log2 : Int) - f.mb) = f.emin + k := by omega
    rw [Fmt.round, if_neg h0]
    simp only [hu, le_refl, if_true, Int.sub_self, Int.toNat_zero, Nat.pow_zero, Nat.mul_one, add_sub_cancel_left, Int.toNat_natCast]
    rw [if_neg (by omega)]

/-- A pattern that is no NaN is the rounding of its value, in every mode. -/
theorem Fmt.pack_value {f : Fmt} (hf : f.Regular) (r : Rounding) {b : Nat} (hb : b < 2 ^ f.width) (h : f.value b ≠ .nan) :
    f.pack r (f.value b) = b := by
  conv_rhs => rw [Fmt.pattern_eq hb]
  rcases Fmt.value_spec hf h with ⟨hi, hmag, hv⟩ | ⟨m, k, hholds, hmag, hv⟩
  · rw [hv, hmag, Fmt.pack, hi, if_neg Bool.false_ne_true]
  · rw [hv, ← hmag, Fmt.pack, Fmt.round_of_holds hholds]

theorem Fmt.value_nan : ∀ f ∈ [fF32, fBf16, fF16, fE4m3, fE5m2], f.value f.nan = .nan := by decide

/-- Whether nearest rounding takes the next integer: the rest is more than a half, or a half over an odd quotient. -/
theorem roundShift_rne (neg : Bool) (m d : Nat) : roundShift .rne neg m d =
    if 2 ^ d < 2 * (m % 2 ^ d) ∨ 2 * (m % 2 ^ d) = 2 ^ d ∧ m / 2 ^ d % 2 = 1 then m / 2 ^ d + 1 else m / 2 ^ d := by
  have hd : 2 * (m % 2 ^ d) = 2 ^ d → d ≠ 0 := by
    rintro h rfl
    omega
  simp only [roundShift, Bool.or_eq_true, Bool.and_eq_true, decide_eq_true_eq, beq_iff_eq, and_iff_left_of_imp hd]

/-- Nearest rounding is off by half a unit at most, and then even. -/
theorem roundShift_rne_nearest (neg : Bool) (m d : Nat) :
    let q := roundShift .rne neg m d
    2 * m ≤ 2 * q * 2 ^ d + 2 ^ d ∧ 2 * q * 2 ^ d ≤ 2 * m + 2 ^ d ∧
      (2 * m = 2 * q * 2 ^ d + 2 ^ d ∨ 2 * q * 2 ^ d = 2 * m + 2 ^ d → q % 2 = 0) := by
  have hsplit : 2 ^ d * (m / 2 ^ d) + m % 2 ^ d = m := Nat.div_add_mod m (2 ^ d)
  have hlt : m % 2 ^ d < 2 ^ d := Nat.mod_lt _ (Nat.two_pow_pos d)
  simp only [roundShift_rne]
  generalize m / 2 ^ d = q at *
  have hq : 2 * q * 2 ^ d = 2 * (2 ^ d * q) := by ring
  have hq' : 2 * (q + 1) * 2 ^ d = 2 * (2 ^ d * q) + 2 * 2 ^ d := by ring
  split
  · rw [hq']; omega
  · rw [hq]; omega

/-- Settles O21: a pattern that is no NaN is an infinity or a number that its format holds, and rounding leaves both as they are. -/
theorem floatNumbers : Obligations.FloatNumbers := by
  unfold Obligations.FloatNumbers
  exact ⟨fun f r b hf hb h => Fmt.pack_value (Fmt.regular_of_mem f hf) r hb h, fun f r hf => ⟨rfl, Fmt.value_nan f hf⟩,
    roundShift_rne_nearest⟩

end Sys2Proof.Machine

namespace Sys2Proof.Machine
open Sys2Proof

-- Maximum, minimum and the sign bit (03 R59, R60) -------------------------------------------------------------------------------------

theorem FVal.isNan_iff (x : FVal) : x.isNan = true ↔ x = .nan := by
  cases x <;> simp [FVal.isNan]

/-- The choice of an operand where one may be NaN, as the model nests it and as the order of the cases has it. -/
theorem choice_of_nan {α : Type} {p q : Prop} [Decidable p] [Decidable q] (n a b z : α) :
    (if p then if q then n else b else if q then a else z) = if p ∧ q then n else if p then b else if q then a else z := by
  by_cases hp : p <;> by_cases hq : q <;> simp [hp, hq]

/-- The larger of two lanes: a number before a NaN, else by the order in which -0 is below +0. -/
theorem Fmt.ofNat_maxOf (f : Fmt) {w : Nat} (a b : BitVec w) : BitVec.ofNat w (f.maxOf a.toNat b.toNat) =
    if f.value a.toNat = .nan ∧ f.value b.toNat = .nan then BitVec.ofNat w f.nan
    else if f.value a.toNat = .nan then b else if f.value b.toNat = .nan then a
    else if (f.value a.toNat).lt true (f.value b.toNat) then b else a := by
  simp only [Fmt.maxOf, FVal.isNan_iff, choice_of_nan, apply_ite (BitVec.ofNat w), BitVec.ofNat_toNat, BitVec.setWidth_eq]

theorem Fmt.ofNat_minOf (f : Fmt) {w : Nat} (a b : BitVec w) : BitVec.ofNat w (f.minOf a.toNat b.toNat) =
    if f.value a.toNat = .nan ∧ f.value b.toNat = .nan then BitVec.ofNat w f.nan
    else if f.value a.toNat = .nan then b else if f.value b.toNat = .nan then a
    else if (f.value b.toNat).lt true (f.value a.toNat) then b else a := by
  simp only [Fmt.minOf, FVal.isNan_iff, choice_of_nan, apply_ite (BitVec.ofNat w), BitVec.ofNat_toNat, BitVec.setWidth_eq]

theorem Fmt.width_eq (f : Fmt) : f.width = f.eb + f.mb + 1 := by
  rw [Fmt.width]; omega

/-- Clearing the highest bit of a lane is the remainder below it. -/
theorem ofNat_mod_msb {n : Nat} (a : BitVec (n + 1)) : BitVec.ofNat (n + 1) (a.toNat % 2 ^ n) = a &&& ~~~(1#(n + 1) <<< n) := by
  apply BitVec.eq_of_getLsbD_eq
  intro i hi
  rw [BitVec.getLsbD_ofNat, Nat.testBit_mod_two_pow, BitVec.testBit_toNat]
  rcases Nat.lt_succ_iff_lt_or_eq.mp hi with h | rfl
  · simp [h, hi]
  · simp

/-- Inverting the highest bit of a lane is adding it, the carry being lost. -/
theorem ofNat_add_msb {n : Nat} (a : BitVec (n + 1)) :
    BitVec.ofNat (n + 1) ((a.toNat + 2 ^ n) % 2 ^ (n + 1)) = a ^^^ (1#(n + 1) <<< n) := by
  apply BitVec.eq_of_getLsbD_eq
  intro i hi
  rw [BitVec.getLsbD_ofNat, Nat.testBit_mod_two_pow, Nat.add_comm a.toNat]
  rcases Nat.lt_succ_iff_lt_or_eq.mp hi with h | rfl
  · rw [Nat.testBit_two_pow_add_gt h, BitVec.testBit_toNat]
    simp [h, hi]
  · rw [Nat.testBit_two_pow_add_eq, BitVec.testBit_toNat]
    simp

/-- The absolute value of a lane has its sign bit clear, and every other bit as it was. -/
theorem Fmt.ofNat_absOf (f : Fmt) (a : BitVec f.width) :
    BitVec.ofNat f.width (f.absOf a.toNat) = a &&& ~~~(1#f.width <<< (f.width - 1)) := by
  rw [Fmt.absOf]
  generalize hw : f.width = w at a ⊢
  obtain rfl : w = f.eb + f.mb + 1 := hw ▸ f.width_eq
  exact ofNat_mod_msb a

/-- The negation of a lane has its sign bit inverted, and every other bit as it was. -/
theorem Fmt.ofNat_negOf (f : Fmt) (a : BitVec f.width) :
    BitVec.ofNat f.width (f.negOf a.toNat) = a ^^^ (1#f.width <<< (f.width - 1)) := by
  rw [Fmt.negOf]
  generalize hw : f.width = w at a ⊢
  obtain rfl : w = f.eb + f.mb + 1 := hw ▸ f.width_eq
  exact ofNat_add_msb a

-- Floating lanes (06 R113) --------------------------------------------------------------------------------------------------------------

section
variable {t : FType} {j : Nat} (hj : j < 512 / (fmtOf t).width) (m : Fin 4) (vd va vb vc : Fin 16) (x : Thread)
include hj

theorem lane_floatLanes1 (f : Fmt → Nat → Nat) : lane (fmtOf t).width (floatLanes1 t m vd va f x) j =
    if bit (x.mask m) j then BitVec.ofNat _ (f (fmtOf t) (lane (fmtOf t).width (x.v.get va) j).toNat)
    else lane (fmtOf t).width (x.v.get vd) j := lane_mapLanes _ _ _ (lanes_fit _) hj

theorem lane_floatLanes2 (f : Fmt → Nat → Nat → Nat) : lane (fmtOf t).width (floatLanes2 t m vd va vb f x) j =
    if bit (x.mask m) j then BitVec.ofNat _ (f (fmtOf t) (lane (fmtOf t).width (x.v.get va) j).toNat
      (lane (fmtOf t).width (x.v.get vb) j).toNat)
    else lane (fmtOf t).width (x.v.get vd) j := lane_mapLanes _ _ _ (lanes_fit _) hj

theorem lane_floatLanes3 (f : Fmt → Nat → Nat → Nat → Nat) : lane (fmtOf t).width (floatLanes3 t m vd va vb vc f x) j =
    if bit (x.mask m) j then BitVec.ofNat _ (f (fmtOf t) (lane (fmtOf t).width (x.v.get va) j).toNat
      (lane (fmtOf t).width (x.v.get vb) j).toNat (lane (fmtOf t).width (x.v.get vc) j).toNat)
    else lane (fmtOf t).width (x.v.get vd) j := lane_mapLanes _ _ _ (lanes_fit _) hj

end

theorem floatLanes : Claims.FloatLanes := by
  intro s t vd va vb vc m
  have one {j} (hj : j < 512 / (fmtOf t).width) := lane_floatLanes1 hj m vd va s.me
  have two {j} (hj : j < 512 / (fmtOf t).width) := lane_floatLanes2 hj m vd va vb s.me
  have three {j} (hj : j < 512 / (fmtOf t).width) := lane_floatLanes3 hj m vd va vb vc s.me
  exact ⟨fun h => ⟨_, exec_vecOp rfl h, fun _ hj => two hj _⟩, fun h => ⟨_, exec_vecOp rfl h, fun _ hj => two hj _⟩,
    fun h => ⟨_, exec_vecOp rfl h, fun _ hj => two hj _⟩, fun h => ⟨_, exec_vecOp rfl h, fun _ hj => three hj _⟩,
    fun h => ⟨_, exec_vecOp rfl h, fun _ hj => three hj _⟩,
    fun h => ⟨_, exec_vecOp rfl h, fun _ hj => by rw [two hj, Fmt.ofNat_maxOf]⟩,
    fun h => ⟨_, exec_vecOp rfl h, fun _ hj => by rw [two hj, Fmt.ofNat_minOf]⟩,
    fun h => ⟨_, exec_vecOp rfl h, fun _ hj => by rw [one hj, Fmt.ofNat_absOf]⟩,
    fun h => ⟨_, exec_vecOp rfl h, fun _ hj => by rw [one hj, Fmt.ofNat_negOf]⟩⟩

end Sys2Proof.Machine

namespace Sys2Proof.Machine
open Sys2Proof

-- Iterative instructions (06 R114, R115) -------------------------------------------------------------------------------------------------

/-- A core that keeps its slots keeps the thread that executes. -/
theorem State.me_setMyCore {s : State} {x : Core} (h : x.slots = s.myCore.slots) : (s.setMyCore x).me = s.me := by
  have e : (s.setMyCore x).me = (s.setMyCore x).myCore.slots.get s.slot := rfl
  rw [e, State.setMyCore_myCore, h]
  rfl

/-- The cycle in which the core's iterative unit is done with an operation that begins now. -/
def State.iterativeEnd (s : State) (count : Nat) : Nat := max s.myCore.vectorFree s.clk + count * (vectorShare s.lock.level).2

/-- The issue of an iterative instruction: its result, of which P holds, is formed, the unit is taken and the thread is Removed. -/
theorem exec_iterative {s : State} {i : Instr} {vd : Fin 16} {count : Nat} {f : Thread → Vec} {P : Vec → Prop}
    (he : exec i s = .next (iterative i vd count f s)) (hl : lengthOf i = 4) (hP : P (f s.me)) (h : Ready s i) :
    ∃ v u, exec i s = .next u ∧ u.me.st = .removed (.iterative vd v (s.iterativeEnd count)) ∧
      u.myCore.vectorFree = s.iterativeEnd count ∧ u.me.pc = nextPc s.me 4 ∧ u.me.v = s.me.v ∧ P v := by
  have hme : (s.setMyCore { s.myCore with vectorFree := s.iterativeEnd count }).me = s.me := State.me_setMyCore rfl
  refine ⟨f s.me, _, he.trans (congrArg _ (State.gated_ready h _)), ?_, ?_, ?_, ?_, hP⟩
  · rw [State.remove_me]; rfl
  · rw [State.remove, State.myCore_setMe, State.advance, State.goTo, State.myCore_setMe, State.setMyCore_myCore]
    rfl
  · rw [State.remove_me, State.advance_me, hl]
    simp only [Thread.performed_pc]
    exact congrArg (nextPc · 4) hme
  · rw [State.remove_me, State.advance_me, Thread.performed_v]
    exact congrArg Thread.v hme

/-- An operation of a thread for which nothing is due completes, whatever else of the thread it has written. -/
theorem State.completePc_setMe {s : State} {c : Nat} {k : Fin 16} {t : Thread} (hc : Calm s c k) (hd : SameDue (s.thread c k) t) :
    ((s.as c k).setMe t).completePc none = (s.as c k).setMe t.run := by
  have e : ((s.as c k).setMe t).completePc none = (((s.as c k).setMe t).setMe ((s.as c k).setMe t).me.run).settleDone := rfl
  rw [e, State.setMe_me, State.setMe_setMe]
  exact State.settleThread_of_calm (t := t.run) hc hd rfl rfl

/-- A thread that an iterative instruction's result reaches in cycle now. -/
def Thread.iterated (t : Thread) (vd : Fin 16) (v : Vec) (now : Nat) : Thread :=
  { t.setV vd v with nextIssue := max t.nextIssue (now + 1) }

theorem sameDue_iterated (t : Thread) (vd : Fin 16) (v : Vec) (now : Nat) : SameDue t (t.iterated vd v now) := ⟨rfl, rfl, rfl, rfl⟩

/-- The end of the count: the result is written, and the thread issues from the next cycle on. -/
theorem iterativeCompletes {s : State} {c : Nat} {k vd : Fin 16} {v : Vec} {n : Nat}
    (h : (s.thread c k).st = .removed (.iterative vd v n)) (hn : n ≤ s.clk) (hc : Calm s c k) :
    ∃ t, exec (.iterativeComplete c k) s = .next t ∧ t.thread c k =
      { (s.thread c k).run.setV vd v with nextIssue := max (s.thread c k).nextIssue (s.clk + 1) } := by
  have hme : (s.as c k).me.st = .removed (.iterative vd v n) := h
  have e : exec (.iterativeComplete c k) s = .next (((s.as c k).setMe ((s.thread c k).iterated vd v s.clk)).completePc none) := by
    show execIterativeComplete c k s = _
    simp only [execIterativeComplete, hme, hn, if_true]
    rfl
  rw [State.completePc_setMe hc (sameDue_iterated ..)] at e
  exact ⟨_, e, State.setMe_me (s.as c k) _⟩

/-- The results that are exact by definition. -/
theorem exactCases (a b : Bool) (m n : Nat) (e g : Int) (hm : m ≠ 0) :
    (FVal.fin a m e).div (.fin b 0 g) = .inf (a != b) ∧ (FVal.fin a 0 e).div (.fin b 0 g) = .nan ∧ (FVal.inf a).div (.inf b) = .nan ∧
    (FVal.fin a 0 e).rsqrt = .inf a ∧ (FVal.inf false).rsqrt = .fin false 0 0 ∧ (FVal.inf true).rsqrt = .nan ∧
    (FVal.fin true m e).rsqrt = .nan ∧ (FVal.inf true).exp2 = .fin false 0 0 ∧ (FVal.inf false).exp2 = .inf false ∧
    (FVal.fin a 0 e).exp2 = .fin false 1 0 ∧ (FVal.fin a 0 e).log2 = .inf true ∧ (FVal.inf false).log2 = .inf false ∧
    (FVal.inf true).log2 = .nan ∧ (FVal.fin true m e).log2 = .nan ∧ (FVal.fin false (2 ^ n) (-n)).log2 = .fin false 0 0 ∧
    (FVal.nan).exp2 = .nan ∧ (FVal.nan).log2 = .nan ∧ (FVal.nan).rsqrt = .nan := by
  simp [FVal.div, FVal.rsqrt, FVal.exp2, FVal.log2, hm]

theorem iterativeResults : Claims.IterativeResults := by
  refine ⟨fun s t vd va vb m => ?_, fun s c k vd v n h hn hc => iterativeCompletes h hn hc, exactCases⟩
  have one {j} (hj : j < 512 / (fmtOf t).width) := lane_floatLanes1 hj m vd va s.me
  exact ⟨exec_iterative rfl rfl fun j hj => lane_floatLanes2 hj m vd va vb s.me _, exec_iterative rfl rfl fun j hj => one hj _,
    exec_iterative rfl rfl fun j hj => one hj _, exec_iterative rfl rfl fun j hj => one hj _, exec_iterative rfl rfl fun j hj => one hj _⟩

/-- Settles O22: the floating lanes one by one, and what an iterative instruction does at its issue and at its end. -/
theorem floatLaneResults : Obligations.FloatLaneResults := ⟨floatLanes, iterativeResults⟩

end Sys2Proof.Machine

namespace Sys2Proof.Machine
open Sys2Proof

-- Packed patterns fit their format (03 R57) -----------------------------------------------------------------------------------------------

theorem Fmt.inf_lt (f : Fmt) : f.inf < 2 ^ (f.eb + f.mb) := by
  rw [Fmt.inf, Nat.pow_add]
  exact Nat.mul_lt_mul_of_pos_right (Nat.sub_lt (Nat.two_pow_pos _) Nat.one_pos) (Nat.two_pow_pos _)

theorem Fmt.top_lt {f : Fmt} (hf : f.Regular) : f.top < 2 ^ (f.eb + f.mb) := by
  have hinf := f.inf_lt
  rw [Fmt.top]
  split
  · next hi =>
    obtain ⟨heb, hmb⟩ := hf.2.2 hi
    rw [heb, hmb]; decide
  · omega

theorem Fmt.nan_lt {f : Fmt} (hf : f.Regular) : f.nan < 2 ^ (f.eb + f.mb) := by
  obtain ⟨heb, hmb, hno⟩ := hf
  rw [Fmt.nan]
  split
  · next hi =>
    obtain ⟨heb', hmb'⟩ := hno hi
    rw [heb', hmb']; decide
  · have hfrac : 2 ^ (f.mb - 1) < 2 ^ f.mb := Nat.pow_lt_pow_right (by omega) (by omega)
    have hexp : (2 ^ f.eb - 1) * 2 ^ f.mb + 2 ^ f.mb = 2 ^ (f.eb + f.mb) := by
      rw [← Nat.succ_mul, Nat.succ_eq_add_one, Nat.sub_add_cancel (Nat.two_pow_pos _), Nat.pow_add]
    omega

theorem Fmt.sign_add_lt (f : Fmt) (neg : Bool) {x : Nat} (h : x < 2 ^ (f.eb + f.mb)) : f.sign neg + x < 2 ^ f.width := by
  have hs : f.sign neg ≤ 2 ^ (f.eb + f.mb) := by rw [Fmt.sign]; split <;> omega
  rw [Fmt.width_eq, Nat.pow_succ]
  omega

theorem Fmt.overflow_lt {f : Fmt} (hf : f.Regular) (r : Rounding) (neg : Bool) : f.overflow r neg < 2 ^ (f.eb + f.mb) := by
  have hinf := f.inf_lt
  have htop := Fmt.top_lt hf
  cases r <;> cases neg <;> simp only [Fmt.overflow] <;> split_ifs <;> assumption

theorem Fmt.round_lt {f : Fmt} (hf : f.Regular) (r : Rounding) (neg : Bool) (m : Nat) (e : Int) : f.round r neg m e < 2 ^ f.width := by
  have htop := Fmt.top_lt hf
  have hcut (b : Nat) : (if f.top < b then f.overflow r neg else b) < 2 ^ (f.eb + f.mb) := by
    split
    · exact Fmt.overflow_lt hf r neg
    · omega
  rw [Fmt.round]
  split
  · exact f.sign_add_lt neg (Nat.two_pow_pos _)
  · exact f.sign_add_lt neg (hcut _)

theorem Fmt.pack_lt {f : Fmt} (hf : f.Regular) (r : Rounding) (x : FVal) : f.pack r x < 2 ^ f.width := by
  cases x with
  | nan => exact Nat.lt_of_lt_of_le (Fmt.nan_lt hf) (Nat.pow_le_pow_right Nat.two_pos (by rw [Fmt.width_eq]; omega))
  | inf neg =>
    refine f.sign_add_lt neg ?_
    split
    · exact Fmt.top_lt hf
    · exact f.inf_lt
  | fin neg m e => exact Fmt.round_lt hf r neg m e

-- Conversion of one element (03 R62-R65) ---------------------------------------------------------------------------------------------------

theorem clampI_eq {lo hi : Int} (h : lo ≤ hi) (x : Int) : clampI lo hi x = max lo (min hi x) := by
  unfold clampI; omega

/-- The clamp to signed numbers of w bits. -/
theorem clampI_signed (w : Nat) (x : Int) :
    clampI (-(2 ^ (w - 1) : Nat)) ((2 ^ (w - 1) : Nat) - 1) x = max (-(2 ^ (w - 1))) (min (2 ^ (w - 1) - 1) x) := by
  have hpos := Nat.two_pow_pos (w - 1)
  rw [clampI_eq (by omega)]
  push_cast
  rfl

theorem cvtFmt_width {td : CvtType} {f : Fmt} (h : cvtFmt td = some f) : f.Regular ∧ f.width = 8 * td.bytes := by
  cases td <;> cases h <;> exact ⟨Fmt.regular_of_mem _ (by decide), rfl⟩

theorem convert_int_int {td ts : CvtType} (hd : cvtFmt td = none) (hs : cvtFmt ts = none) (r : Rounding) (a : Nat) :
    convert td ts r a = (BitVec.ofInt (8 * td.bytes)
      (max (-(2 ^ (8 * td.bytes - 1))) (min (2 ^ (8 * td.bytes - 1) - 1) (sval (8 * ts.bytes) a)))).toNat := by
  simp only [convert, hd, hs, clampI_signed]

theorem convert_float_int {td ts : CvtType} {f : Fmt} (hd : cvtFmt td = some f) (hs : cvtFmt ts = none) (r : Rounding) (a : Nat) :
    convert td ts r a = f.round r (decide (sval (8 * ts.bytes) a < 0)) (sval (8 * ts.bytes) a).natAbs 0 := by
  simp only [convert, hd, hs]
  rfl

theorem convert_float_float {td ts : CvtType} {f g : Fmt} (hd : cvtFmt td = some f) (hs : cvtFmt ts = some g) (r : Rounding) (a : Nat) :
    convert td ts r a = f.pack r (g.value a) := by
  simp only [convert, hd, hs]

theorem convert_int_float {td ts : CvtType} {g : Fmt} (hd : cvtFmt td = none) (hs : cvtFmt ts = some g) (r : Rounding) (a : Nat) :
    convert td ts r a = (BitVec.ofInt (8 * td.bytes) ((g.value a).toInt r (8 * td.bytes))).toNat := by
  simp only [convert, hd, hs]

theorem convert_lt (td ts : CvtType) (r : Rounding) (a : Nat) : convert td ts r a < 2 ^ (8 * td.bytes) := by
  cases hd : cvtFmt td with
  | none =>
    cases hs : cvtFmt ts with
    | none => rw [convert_int_int hd hs]; exact BitVec.isLt _
    | some g => rw [convert_int_float hd hs]; exact BitVec.isLt _
  | some f =>
    obtain ⟨hf, hw⟩ := cvtFmt_width hd
    cases hs : cvtFmt ts with
    | none => rw [convert_float_int hd hs, ← hw]; exact Fmt.round_lt hf ..
    | some g => rw [convert_float_float hd hs, ← hw]; exact Fmt.pack_lt hf ..

/-- The largest signed number of w bits; the smallest is next. -/
theorem ofInt_signed_max {w : Nat} (hw : 0 < w) : (BitVec.ofInt w ((2 ^ (w - 1) : Nat) - 1)).toNat = 2 ^ (w - 1) - 1 := by
  have hpow : 2 ^ (w - 1) * 2 = 2 ^ w := Nat.two_pow_pred_mul_two hw
  have hpos := Nat.two_pow_pos (w - 1)
  rw [show ((2 ^ (w - 1) : Nat) : Int) - 1 = ((2 ^ (w - 1) - 1 : Nat) : Int) by omega, BitVec.ofInt_natCast, BitVec.toNat_ofNat,
    Nat.mod_eq_of_lt (by omega)]

theorem ofInt_signed_min {w : Nat} (hw : 0 < w) : (BitVec.ofInt w (-(2 ^ (w - 1) : Nat))).toNat = 2 ^ (w - 1) := by
  have hpow : 2 ^ (w - 1) * 2 = 2 ^ w := Nat.two_pow_pred_mul_two hw
  have hpos := Nat.two_pow_pos (w - 1)
  rw [BitVec.ofInt_neg, BitVec.ofInt_natCast, BitVec.toNat_neg, BitVec.toNat_ofNat, Nat.mod_eq_of_lt (a := 2 ^ (w - 1)) (by omega),
    Nat.mod_eq_of_lt (by omega)]
  omega

theorem cvtBits_pos (t : CvtType) : 0 < 8 * t.bytes := by cases t <;> decide

/-- A floating element as an integer: zero for a NaN, the ends for the infinities, else rounded in the mode and clamped (03 R64). -/
theorem convert_to_int {td ts : CvtType} {g : Fmt} (hd : cvtFmt td = none) (hs : cvtFmt ts = some g) (r : Rounding) (a : Nat) :
    let w := 8 * td.bytes
    let clamp (z : Int) : Nat := (BitVec.ofInt w (max (-(2 ^ (w - 1))) (min (2 ^ (w - 1) - 1) z))).toNat
    (g.value a = .nan → convert td ts r a = 0) ∧ (g.value a = .inf false → convert td ts r a = 2 ^ (w - 1) - 1) ∧
    (g.value a = .inf true → convert td ts r a = 2 ^ (w - 1)) ∧
    ∀ (neg : Bool) (m : Nat) (e : Int), g.value a = .fin neg m e →
      let q : Nat := if 0 ≤ e then m * 2 ^ e.toNat else roundShift r neg m (-e).toNat
      convert td ts r a = clamp (if neg then -(q : Int) else q) := by
  have hpos := cvtBits_pos td
  refine ⟨fun h => ?_, fun h => ?_, fun h => ?_, fun neg m e h => ?_⟩
  all_goals rw [convert_int_float hd hs, h, FVal.toInt]
  · simp
  · exact ofInt_signed_max hpos
  · exact ofInt_signed_min hpos
  · rw [clampI_signed]; rfl

-- Rounding in the directed modes (03 R61) ---------------------------------------------------------------------------------------------------

/-- The quotient rounded up. -/
theorem ceil_div_two_pow (m d : Nat) : (m + 2 ^ d - 1) / 2 ^ d = if m % 2 ^ d = 0 then m / 2 ^ d else m / 2 ^ d + 1 := by
  have hpos := Nat.two_pow_pos d
  have hlt := Nat.mod_lt m hpos
  have hsum : m + 2 ^ d - 1 = 2 ^ d * (m / 2 ^ d) + (m % 2 ^ d + 2 ^ d - 1) := by
    have hsplit := Nat.div_add_mod m (2 ^ d)
    omega
  rw [hsum, Nat.mul_add_div hpos]
  split
  · next h => rw [h, Nat.zero_add, Nat.div_eq_of_lt (a := 2 ^ d - 1) (by omega), Nat.add_zero]
  · have hone : (m % 2 ^ d + 2 ^ d - 1) / 2 ^ d = 1 := Nat.div_eq_of_lt_le (by omega) (by omega)
    rw [hone]

theorem roundShift_directed (neg : Bool) (m d : Nat) :
    let down := m / 2 ^ d
    let up := (m + 2 ^ d - 1) / 2 ^ d
    roundShift .rtz neg m d = down ∧ roundShift .rdn neg m d = (if neg then up else down) ∧
      roundShift .rup neg m d = if neg then down else up := by
  simp only [ceil_div_two_pow]
  refine ⟨rfl, ?_, ?_⟩ <;> cases neg <;> by_cases h : m % 2 ^ d = 0 <;> simp [roundShift, h]

-- Conversion of lanes (06 R120, R121) --------------------------------------------------------------------------------------------------------

section
variable (td ts : CvtType) (r : Rounding) (p : Nat) (mask : Word) (old a : Vec) {j : Nat}

/-- A conversion that narrows writes part p of its destination. -/
theorem lane_convertVec_narrow (h : 8 * td.bytes < 8 * ts.bytes) (hj : j < 512 / (8 * td.bytes)) :
    let l := 512 / max (8 * td.bytes) (8 * ts.bytes)
    (lane (8 * td.bytes) (convertVec td ts r p mask old a) j).toNat =
      if p * l ≤ j ∧ j < p * l + l ∧ bit mask (j - p * l) = true then
        convert td ts r (lane (8 * ts.bytes) a (j - p * l)).toNat
      else (lane (8 * td.bytes) old j).toNat := by
  intro l
  rw [convertVec, if_pos h, lane_ofLanes _ (lanes_fit _), if_pos hj, apply_ite BitVec.toNat, BitVec.toNat_ofNat,
    Nat.mod_eq_of_lt (convert_lt ..)]

/-- Any other takes part p of its source. -/
theorem lane_convertVec_wide (h : 8 * ts.bytes ≤ 8 * td.bytes) (hj : j < 512 / max (8 * td.bytes) (8 * ts.bytes)) :
    (lane (8 * td.bytes) (convertVec td ts r p mask old a) j).toNat =
      if bit mask j then convert td ts r (lane (8 * ts.bytes) a (p * (512 / max (8 * td.bytes) (8 * ts.bytes)) + j)).toNat
      else (lane (8 * td.bytes) old j).toNat := by
  have hfit : 8 * td.bytes * (512 / max (8 * td.bytes) (8 * ts.bytes)) ≤ 512 := by
    rw [Nat.max_eq_left h]; exact lanes_fit _
  rw [convertVec, if_neg (Nat.not_lt.mpr h), lane_mapLanes _ _ _ hfit hj, apply_ite BitVec.toNat, BitVec.toNat_ofNat,
    Nat.mod_eq_of_lt (convert_lt ..)]

end

theorem sval_bounds {w : Nat} (hw : 0 < w) (a : Nat) : -(2 ^ (w - 1) : Nat) ≤ sval w a ∧ sval w a < (2 ^ (w - 1) : Nat) := by
  have hpow : 2 ^ (w - 1) * 2 = 2 ^ w := Nat.two_pow_pred_mul_two hw
  have hlt := Nat.mod_lt a (Nat.two_pow_pos w)
  unfold sval
  split <;> omega

/-- The pairs of types that the claim spells out are cases of the rules above. -/
theorem convert_examples (r : Rounding) (a : Nat) :
    convert .i8 .i32 r a = (BitVec.ofInt 8 (max (-128) (min 127 (sval 32 a)))).toNat ∧
    convert .i32 .i8 r a = (BitVec.ofInt 32 (sval 8 a)).toNat ∧
    convert .f32 .i32 r a = fF32.round r (decide (sval 32 a < 0)) (sval 32 a).natAbs 0 ∧
    convert .bf16 .f32 r a = fBf16.pack r (fF32.value a) ∧ convert .e4m3 .f32 r a = fE4m3.pack r (fF32.value a) ∧
    (fF32.value a = .nan → convert .i32 .f32 r a = 0) ∧ (fF32.value a = .inf false → convert .i32 .f32 r a = 0x7FFFFFFF) ∧
    (fF32.value a = .inf true → convert .i32 .f32 r a = 0x80000000) := by
  obtain ⟨hnan, hinf, hneg, -⟩ := convert_to_int (td := .i32) (ts := .f32) rfl rfl r a
  refine ⟨convert_int_int rfl rfl r a, ?_, convert_float_int rfl rfl r a, convert_float_float rfl rfl r a,
    convert_float_float rfl rfl r a, hnan, hinf, hneg⟩
  have hb := sval_bounds (w := 8) (by decide) a
  rw [convert_int_int rfl rfl]
  show (BitVec.ofInt 32 (max (-(2 ^ 31)) (min (2 ^ 31 - 1) (sval 8 a)))).toNat = _
  rw [show max (-(2 ^ 31)) (min (2 ^ 31 - 1) (sval 8 a)) = sval 8 a by omega]

theorem conversions : Claims.Conversions := by
  refine ⟨fun s td ts vd va part m r h _ => ⟨_, exec_vecOp rfl h, fun hw j hj => ?_, fun hw j hj => ?_⟩, convert_examples, rfl,
    fun td ts r a => ⟨fun hd hs => convert_int_int hd hs r a, fun f hd hs => convert_float_int hd hs r a,
      fun f g hd hs => convert_float_float hd hs r a, fun g hd hs => convert_to_int hd hs r a⟩, roundShift_directed⟩
  · exact lane_convertVec_narrow td ts r _ _ _ _ hw hj
  · exact lane_convertVec_wide td ts r _ _ _ _ hw hj

end Sys2Proof.Machine

namespace Sys2Proof.Machine
open Sys2Proof

-- Reading a scalar source leaves the vector side of every thread as it was -----------------------------------------------------------------

/-- Two threads hold the same vectors and masks. -/
def SameVectors (t u : Thread) : Prop := u.v = t.v ∧ u.m = t.m

theorem SameVectors.trans {t u x : Thread} (h : SameVectors t u) (g : SameVectors u x) : SameVectors t x :=
  ⟨g.1.trans h.1, g.2.trans h.2⟩

theorem SameVectors.mask {t u : Thread} (h : SameVectors t u) (m : Fin 4) : u.mask m = t.mask m := by
  rw [Thread.mask, Thread.mask, h.2]

theorem sameVectors_retryRead (q : Fin 8) (t : Thread) : SameVectors t (t.retryRead q) := by
  unfold Thread.retryRead
  split
  · split <;> exact ⟨rfl, rfl⟩
  · exact ⟨rfl, rfl⟩

theorem sameVectors_retryWrite (q : Fin 8) (t : Thread) : SameVectors t (t.retryWrite q) := by
  unfold Thread.retryWrite
  split
  · split <;> exact ⟨rfl, rfl⟩
  · exact ⟨rfl, rfl⟩

theorem Core.slots_mapSlots (x : Core) (f : Thread → Thread) (k : Fin 16) : (x.mapSlots f).slots.get k = f (x.slots.get k) :=
  Vector.getElem_map f k.isLt

/-- The slots of a core where a value that waited for room has entered a queue: the one that pushed it runs on. -/
theorem sameVectors_pushed (x : Core) (n k : Fin 16) (q : Fin 8) (y : Word) : SameVectors (x.slots.get k)
    ((Core.pushQueue { x with slots := x.slots.set n.val { x.slots.get n with st := .runnable } n.isLt } q y).slots.get k) := by
  rw [Core.pushQueue, Core.slots_mapSlots]
  refine SameVectors.trans ?_ (sameVectors_retryRead q _)
  rw [Core.slots_setQueue, vget_set]
  split
  · next h => subst h; exact ⟨rfl, rfl⟩
  · exact ⟨rfl, rfl⟩

/-- Writers of a queue run on as its head is taken; their vectors stay. -/
theorem sameVectors_popQueue (x : Core) (q : Fin 8) (k : Fin 16) : SameVectors (x.slots.get k) ((x.popQueue q).2.slots.get k) := by
  unfold Core.popQueue
  split
  · exact ⟨rfl, rfl⟩
  · dsimp only
    split
    · split
      · exact sameVectors_pushed (x.behead q _) _ k q _
      · exact ⟨rfl, rfl⟩
    · rw [Core.slots_mapSlots]
      exact sameVectors_retryWrite q _

theorem sameVectors_popElement (t : Thread) (p : Fin 4) : SameVectors t (t.popElement p).2 := by
  unfold Thread.popElement
  dsimp only
  split <;> exact ⟨rfl, rfl⟩

/-- Reading a source, whatever its form, leaves the vectors and masks of the thread. -/
theorem sameVectors_after1 (s : State) (a : Src) : SameVectors s.me (after1 s a).me := by
  cases a with
  | q i =>
    have e : (after1 s (.q i)).me = (after1 s (.q i)).myCore.slots.get s.slot := rfl
    rw [e, after1_queue]
    exact sameVectors_popQueue s.myCore i s.slot
  | e p => rw [after1_port]; exact sameVectors_popElement s.me p
  | g i | w i | lit32 v | lit64 v | small v => exact ⟨rfl, rfl⟩

-- Splat and lane transfer (06 R124, R125) ------------------------------------------------------------------------------------------------------

theorem lane_ite (w : Nat) (p : Prop) [Decidable p] (x y : Vec) (j : Nat) :
    lane w (if p then x else y) j = if p then lane w x j else lane w y j := apply_ite (lane w · j) p x y

/-- Elements of a size fill a vector. -/
theorem Size.lanes (sz : Size) : 64 / sz.bytes = 512 / (8 * sz.bytes) := by cases sz <;> rfl

theorem exec_vsplat {s : State} {sz : Size} {vd : Fin 16} {a : Src} {m : Fin 4} (h : Ready s (.vsplat sz vd a m)) :
    let u := after1 s a
    exec (.vsplat sz vd a m) s = .next ((u.setMe (u.me.setV vd (mapLanes (8 * sz.bytes) (512 / (8 * sz.bytes)) (u.me.mask m)
      (u.me.v.get vd) fun _ => (val1 s a).setWidth (8 * sz.bytes)))).advance (.vsplat sz vd a m)) :=
  congrArg Host.Outcome.next (State.gated_ready h _)

theorem exec_vextr {s : State} {sz : Size} {n : BitVec 6} {va : Fin 16} {d : Dst} (h : Ready s (.vextr sz n va d)) :
    exec (.vextr sz n va d) s =
      .next (s.result (.vextr sz n va d) d ((lane (8 * sz.bytes) (s.me.v.get va) n.toNat).setWidth 64)) :=
  congrArg Host.Outcome.next (State.gated_ready h _)

theorem exec_vinsr {s : State} {sz : Size} {n : BitVec 6} {vd : Fin 16} {a : Src} (h : Ready s (.vinsr sz n vd a)) :
    let u := after1 s a
    exec (.vinsr sz n vd a) s = .next ((u.setMe (u.me.setV vd (setFld (u.me.v.get vd) (8 * sz.bytes * n.toNat)
      ((val1 s a).setWidth (8 * sz.bytes))))).advance (.vinsr sz n vd a)) :=
  congrArg Host.Outcome.next (State.gated_ready h _)

theorem laneMoves : Claims.LaneMoves := by
  refine ⟨fun s vd va vb vc m => ⟨fun h => ⟨_, exec_vecOp rfl h, fun j hj => ?_⟩, fun h => ⟨_, exec_vecOp rfl h, fun j hj => ?_⟩⟩,
    fun s sz vd a m h => ⟨_, exec_vsplat h, fun j hj => ?_⟩, fun s sz n va d h => ?_,
    fun s sz n vd a h hn => ⟨_, exec_vinsr h, fun j hj => ?_⟩⟩
  · exact lane_mapLanes _ _ _ (by decide) hj
  · rw [lane_mapLanes _ _ _ (by decide) hj]
    simp only [lane_ite]
  · have hv := sameVectors_after1 s a
    rw [Size.lanes] at hj
    rw [lane_mapLanes _ _ _ (lanes_fit _) hj, hv.mask, hv.1, apply_ite BitVec.toNat, BitVec.toNat_setWidth]
  · rw [exec_vextr h, ← toNat_lane, BitVec.ofNat_toNat]
  · have hv := sameVectors_after1 s a
    have hfit {i : Nat} (hi : i < 64 / sz.bytes) : 8 * sz.bytes * (i + 1) ≤ 512 :=
      Nat.le_trans (Nat.mul_le_mul_left _ (Size.lanes sz ▸ hi)) (lanes_fit _)
    rw [lane_setFld _ _ (hfit hn) (hfit hj), hv.1, apply_ite BitVec.toNat, BitVec.toNat_setWidth]

/-- Settles O24: one element of each pair of types, the lanes that take it, and the moves of lanes. -/
theorem conversionsAndMoves : Obligations.ConversionsAndMoves := ⟨conversions, laneMoves⟩

end Sys2Proof.Machine

namespace Sys2Proof.Machine
open Sys2Proof

-- The tree over sixteen lanes (03 R71; 06 R126) ---------------------------------------------------------------------------------------------

theorem tree16_range (f : Nat → Nat → Nat) (x : Nat → Nat) : tree16 f ((List.range 16).map x) =
    let p (j : Nat) := f (x (2 * j)) (x (2 * j + 1))
    let q (j : Nat) := f (p (2 * j)) (p (2 * j + 1))
    f (f (q 0) (q 1)) (f (q 2) (q 3)) := rfl

/-- The tree of wrapped sums is the wrapped sum. -/
theorem tree16_addI32 (x : Nat → Nat) : tree16 addI32 ((List.range 16).map x) = ((List.range 16).map x).sum % 2 ^ 32 := by
  rw [tree16_range]
  simp only [addI32, Nat.add_mod_mod, Nat.mod_add_mod, List.range_succ, List.map_append, List.sum_append, List.range_zero, List.map_nil,
    List.sum_nil, List.map_cons, List.sum_cons, Nat.zero_add, Nat.add_zero]
  simp only [Nat.add_assoc, Nat.reduceMul, Nat.reduceAdd]

/-- An operation on two numbers that answers one of them whose key is not the smaller. -/
def Selects (key : Nat → Int) (f : Nat → Nat → Nat) : Prop :=
  ∀ a b, (f a b = a ∨ f a b = b) ∧ key a ≤ key (f a b) ∧ key b ≤ key (f a b)

/-- A list of candidates out of a list that holds one at least as large as any of it. -/
def Candidates (key : Nat → Int) (l c : List Nat) : Prop := (∀ y ∈ c, y ∈ l) ∧ ∀ x ∈ l, ∃ y ∈ c, key x ≤ key y

theorem Candidates.trans {key : Nat → Int} {l c d : List Nat} (h : Candidates key l c) (g : Candidates key c d) : Candidates key l d := by
  refine ⟨fun y hy => h.1 y (g.1 y hy), fun x hx => ?_⟩
  obtain ⟨y, hy, hxy⟩ := h.2 x hx
  obtain ⟨z, hz, hyz⟩ := g.2 y hy
  exact ⟨z, hz, hxy.trans hyz⟩

/-- What has no neighbour stays. -/
theorem pairUp_of_short (f : Nat → Nat → Nat) {l : List Nat} (h : ∀ x y t, l = x :: y :: t → False) : pairUp f l = l := by
  match l with
  | [] => rfl
  | [x] => rfl
  | x :: y :: t => exact (h x y t rfl).elim

/-- One level of the tree keeps a largest element. -/
theorem candidates_pairUp {key : Nat → Int} {f : Nat → Nat → Nat} (hf : Selects key f) (l : List Nat) : Candidates key l (pairUp f l) := by
  induction l using pairUp.induct with
  | case1 x y l ih =>
    obtain ⟨hone, hx, hy⟩ := hf x y
    obtain ⟨hfrom, hto⟩ := ih
    rw [pairUp]
    constructor
    · intro z hz
      rcases List.mem_cons.mp hz with rfl | hz
      · rcases hone with e | e <;> simp [e]
      · exact List.mem_cons_of_mem _ (List.mem_cons_of_mem _ (hfrom z hz))
    · intro z hz
      rcases List.mem_cons.mp hz with rfl | hz
      · exact ⟨_, List.mem_cons_self, hx⟩
      rcases List.mem_cons.mp hz with rfl | hz
      · exact ⟨_, List.mem_cons_self, hy⟩
      obtain ⟨w, hw, hzw⟩ := hto z hz
      exact ⟨w, List.mem_cons_of_mem _ hw, hzw⟩
  | case2 l hl =>
    rw [pairUp_of_short f hl]
    exact ⟨fun _ h => h, fun x h => ⟨x, h, le_refl _⟩⟩

theorem length_pairUp (f : Nat → Nat → Nat) (l : List Nat) : (pairUp f l).length = (l.length + 1) / 2 := by
  induction l using pairUp.induct with
  | case1 x y l ih => rw [pairUp]; simp only [List.length_cons, ih]; omega
  | case2 l hl =>
    rw [pairUp_of_short f hl]
    match l with
    | [] | [_] => simp
    | x :: y :: l => exact absurd rfl (hl x y l)

/-- The tree over sixteen numbers finds a largest one. -/
theorem tree16_selects {key : Nat → Int} {f : Nat → Nat → Nat} (hf : Selects key f) {l : List Nat} (hl : l.length = 16) :
    tree16 f l ∈ l ∧ ∀ x ∈ l, key x ≤ key (tree16 f l) := by
  have hc := (((candidates_pairUp hf l).trans (candidates_pairUp hf _)).trans (candidates_pairUp hf _)).trans (candidates_pairUp hf _)
  have hlen : (pairUp f (pairUp f (pairUp f (pairUp f l)))).length = 1 := by simp only [length_pairUp, hl]
  obtain ⟨r, hr⟩ := List.length_eq_one_iff.mp hlen
  rw [hr] at hc
  have e : tree16 f l = r := by rw [tree16, hr]; rfl
  rw [e]
  refine ⟨hc.1 r List.mem_cons_self, fun x hx => ?_⟩
  obtain ⟨y, hy, hxy⟩ := hc.2 x hx
  rwa [List.mem_singleton.mp hy] at hxy

theorem selects_maxI32 : Selects (sval 32) maxI32 := by
  intro a b
  unfold maxI32
  split <;> simp <;> omega

theorem selects_minI32 : Selects (fun a => -sval 32 a) minI32 := by
  intro a b
  unfold minI32
  split <;> simp <;> omega

-- Lanes with an identity where the mask disables (06 R126) ---------------------------------------------------------------------------------

/-- What a reduction takes for a lane. -/
def laneOr (w : Nat) (mask : Word) (unit : Nat) (a : Vec) (j : Nat) : Nat := if bit mask j then (lane w a j).toNat else unit

theorem lanesOr_eq (w n : Nat) (mask : Word) (unit : Nat) (a : Vec) : lanesOr w n mask unit a = (List.range n).map (laneOr w mask unit a) := rfl

theorem laneOr_lt {w : Nat} (mask : Word) {unit : Nat} (hu : unit < 2 ^ w) (a : Vec) (j : Nat) : laneOr w mask unit a j < 2 ^ w := by
  unfold laneOr
  split
  · exact BitVec.isLt _
  · exact hu

/-- The largest of sixteen 32-bit lanes by a key, as the lane that the destination receives. -/
theorem tree16_lanes {key : Nat → Int} {f : Nat → Nat → Nat} (hf : Selects key f) (mask : Word) {unit : Nat} (hu : unit < 2 ^ 32) (a : Vec) :
    ∃ r : W32, BitVec.ofNat 512 (tree16 f (lanesOr 32 16 mask unit a)) = r.setWidth 512 ∧
      (∀ j, j < 16 → key (laneOr 32 mask unit a j) ≤ key r.toNat) ∧ ∃ j, j < 16 ∧ r.toNat = laneOr 32 mask unit a j := by
  obtain ⟨hmem, hmax⟩ := tree16_selects hf (l := lanesOr 32 16 mask unit a) (by simp [lanesOr])
  rw [lanesOr_eq] at hmem hmax ⊢
  obtain ⟨j, hj, e⟩ := List.mem_map.mp hmem
  have hlt := laneOr_lt mask hu a j
  rw [← e] at hmax ⊢
  have hr : (BitVec.ofNat 32 (laneOr 32 mask unit a j)).toNat = laneOr 32 mask unit a j := Nat.mod_eq_of_lt hlt
  refine ⟨BitVec.ofNat 32 (laneOr 32 mask unit a j), ?_, fun i hi => ?_, j, List.mem_range.mp hj, hr⟩
  · rw [← BitVec.ofNat_toNat, hr]
  · rw [hr]
    exact hmax _ (List.mem_map_of_mem (List.mem_range.mpr hi))

-- bf16 lanes (03 R72, R73) -------------------------------------------------------------------------------------------------------------------

/-- A disabled lane adds the zero that changes no sum. -/
theorem sumBf16_lanes (mask : Word) (a : Vec) : sumBf16 (lanesOr 16 32 mask (fBf16.sign true) a) = fF32.pack .rne
    ((List.range 32).foldl (fun y j => if bit mask j then y.add (fBf16.value (lane 16 a j).toNat)
      else y.add (.fin true 0 fBf16.emin)) (.fin true 0 0)) := by
  have hunit : fBf16.value (fBf16.sign true) = .fin true 0 fBf16.emin := by decide
  simp only [sumBf16, lanesOr, List.foldl_map, apply_ite fBf16.value, apply_ite (FVal.add _), hunit]

/-- A fold over the lanes from the first one on. -/
theorem foldl_lanes (f : Nat → Nat → Nat) (x : Nat → Nat) : let l := (List.range 32).map x
    l.tail.foldl f (l.headD 0) = (List.range 31).foldl (fun z j => f z (x (j + 1))) (x 0) := by
  simp only [List.range_succ_eq_map (n := 31), List.map_cons, List.tail_cons, List.headD_cons, List.map_map, List.foldl_map,
    Function.comp_apply, Nat.succ_eq_add_one]

-- vdot4 (06 R127) ------------------------------------------------------------------------------------------------------------------------------

theorem dotLane_bytes (a b c : Vec) (j : Nat) :
    let p (k : Nat) : Int := (lane 8 a (4 * j + k)).toInt * (lane 8 b (4 * j + k)).toInt
    dotLane (lane 32 a j) (lane 32 b j) (lane 32 c j) = BitVec.ofInt 32 ((lane 32 c j).toInt + (p 0 + p 1 + p 2 + p 3)) := by
  simp only [dotLane, fld_lane_byte, Nat.reduceLT]

/-- What a reduction does once its checks pass: the scalar in the lowest bits of its destination, zeroes above. -/
theorem exec_reduction {s : State} {i : Instr} {vd va : Fin 16} {m : Fin 4} {g : Word → Vec → Nat} {n : Nat}
    (he : exec i s = .next (vecOp i vd (fun x => BitVec.ofNat 512 (g (x.mask m) (x.v.get va))) s))
    (hn : g (s.me.mask m) (s.me.v.get va) = n) (h : Ready s i) :
    exec i s = .next ((s.setMe (s.me.setV vd (BitVec.ofNat 512 n))).advance i) := by
  rw [exec_vecOp he h, hn]

/-- The scalar that vred.max and vred.min leave of sixteen signed lanes. -/
theorem exec_selection {s : State} {i : Instr} {vd va : Fin 16} {m : Fin 4} {key : Nat → Int} {f : Nat → Nat → Nat} {unit : Nat}
    (he : exec i s = .next (vecOp i vd (fun x => BitVec.ofNat 512 (tree16 f (lanesOr 32 16 (x.mask m) unit (x.v.get va)))) s))
    (hf : Selects key f) (hu : unit < 2 ^ 32) (h : Ready s i) :
    ∃ r : W32, exec i s = .next ((s.setMe (s.me.setV vd (r.setWidth 512))).advance i) ∧
      (∀ j, j < 16 → key (laneOr 32 (s.me.mask m) unit (s.me.v.get va) j) ≤ key r.toNat) ∧
      ∃ j, j < 16 ∧ r.toNat = laneOr 32 (s.me.mask m) unit (s.me.v.get va) j := by
  obtain ⟨r, hr, hmax, hmem⟩ := tree16_lanes hf (s.me.mask m) hu (s.me.v.get va)
  exact ⟨r, by rw [exec_vecOp he h, hr], hmax, hmem⟩

theorem toInt_eq_sval (r : W32) : r.toInt = sval 32 r.toNat := by
  rw [BitVec.toInt_eq_toNat_cond, sval]
  omega

/-- Settles O25: the tree in full for f32, its sum and its largest element for i32, the folds over bf16 lanes, and the bytes of vdot4. -/
theorem reductions : Obligations.Reductions := by
  unfold Obligations.Reductions
  refine ⟨fun s vd va m => ⟨fun h => ?_, fun h => ?_, fun h => ?_, fun h => ?_, fun h => ?_, fun h => ?_⟩,
    fun s vd va m h => ⟨_, ?_, rfl⟩, fun s vd va m => ⟨fun h => ?_, fun h => ?_⟩,
    fun s vd va vb vc m h => ⟨_, exec_vecOp rfl h, fun j hj => ?_⟩⟩
  · exact exec_reduction rfl (tree16_range ..) h
  · exact exec_reduction rfl (tree16_range ..) h
  · exact exec_reduction rfl (tree16_range ..) h
  · exact exec_reduction rfl (tree16_addI32 _) h
  · obtain ⟨r, he, hmax, j, hj, hr⟩ := exec_selection (i := .vredMax .i32 vd va m) rfl selects_maxI32 (by decide) h
    exact ⟨r, he, fun i hi => toInt_eq_sval r ▸ hmax i hi, j, hj, by rw [toInt_eq_sval, hr]; rfl⟩
  · obtain ⟨r, he, hmax, j, hj, hr⟩ := exec_selection (i := .vredMin .i32 vd va m) rfl selects_minI32 (by decide) h
    exact ⟨r, he, fun i hi => toInt_eq_sval r ▸ Int.neg_le_neg_iff.mp (hmax i hi), j, hj, by rw [toInt_eq_sval, hr]; rfl⟩
  · exact exec_reduction rfl (sumBf16_lanes ..) h
  · exact exec_reduction rfl (congrArg (fun n => fF32.pack .rne (fBf16.value n)) (foldl_lanes ..)) h
  · exact exec_reduction rfl (congrArg (fun n => fF32.pack .rne (fBf16.value n)) (foldl_lanes ..)) h
  · rw [lane_mapLanes _ _ _ (by decide) hj, dotLane_bytes]

end Sys2Proof.Machine

namespace Sys2Proof.Machine
open Sys2Proof

-- Integers cut to a width (04 R76, R77) ----------------------------------------------------------------------------------------------

theorem Width.bits_pos (w : Width) : 0 < Width.bits w := by cases w <;> decide

theorem Width.bits_le (w : Width) : Width.bits w ≤ 64 := by cases w <;> decide

theorem setWidth_eq_of_modEq {n : Nat} (hn : n ≤ 64) {v : Word} {z : Int} (h : (v.toNat : Int) ≡ z [ZMOD 2 ^ n]) :
    v.setWidth n = (BitVec.ofInt 64 z).setWidth n := by
  apply BitVec.eq_of_toNat_eq
  have h64 : ((BitVec.ofInt 64 z).toNat : Int) = z % 2 ^ 64 := by
    rw [BitVec.toNat_ofInt, Int.toNat_of_nonneg (Int.emod_nonneg _ (by decide))]; rfl
  have e : (v.toNat : Int) % 2 ^ n = ((BitVec.ofInt 64 z).toNat : Int) % 2 ^ n := by
    rw [h64, Int.emod_emod_of_dvd z (pow_dvd_pow 2 hn)]; exact h
  rw [BitVec.toNat_setWidth, BitVec.toNat_setWidth]
  exact_mod_cast e

/-- A result depends on its value modulo the width only. -/
theorem resultS_eq_cutS {n : Nat} (hn : n ≤ 64) {v : Word} {z : Int} (h : (v.toNat : Int) ≡ z [ZMOD 2 ^ n]) : resultS n v = cutS n z := by
  rw [resultS, cutS, sext64, sext64, setWidth_eq_of_modEq hn h]

theorem resultZ_eq_cutZ {n : Nat} (hn : n ≤ 64) {v : Word} {z : Int} (h : (v.toNat : Int) ≡ z [ZMOD 2 ^ n]) : resultZ n v = cutZ n z := by
  rw [resultZ, cutZ, zext64, zext64, setWidth_eq_of_modEq hn h]

theorem modEq_sval (n v : Nat) : (v : Int) ≡ sval n v [ZMOD 2 ^ n] := by
  have h : (v : Int) ≡ ((v % 2 ^ n : Nat) : Int) [ZMOD 2 ^ n] := by
    push_cast; exact (Int.mod_modEq _ _).symm
  unfold sval
  split
  · refine h.trans ?_
    simp [Int.modEq_iff_dvd]
  · exact h

theorem emod_modEq {n m : Nat} (h : n ≤ m) (z : Int) : z % 2 ^ m ≡ z [ZMOD 2 ^ n] := Int.emod_emod_of_dvd z (pow_dvd_pow 2 h)

theorem modEq_sOf (w : Width) (v : Word) : (v.toNat : Int) ≡ sOf w v [ZMOD 2 ^ Width.bits w] := modEq_sval _ _

theorem modEq_uOf (w : Width) (v : Word) : (v.toNat : Int) ≡ uOf w v [ZMOD 2 ^ Width.bits w] := by
  rw [uOf, unsignedOf]; push_cast; exact (Int.mod_modEq _ _).symm

theorem toNat_ofInt_modEq {n : Nat} (h : n ≤ 64) (z : Int) : ((BitVec.ofInt 64 z).toNat : Int) ≡ z [ZMOD 2 ^ n] := by
  rw [BitVec.toNat_ofInt, Int.toNat_of_nonneg (Int.emod_nonneg _ (by decide))]
  exact emod_modEq h z

theorem toNat_ofNat_modEq {n : Nat} (h : n ≤ 64) (a : Nat) : ((BitVec.ofNat 64 a).toNat : Int) ≡ a [ZMOD 2 ^ n] := by
  rw [BitVec.toNat_ofNat]; push_cast; exact emod_modEq h a

theorem toNat_modEq_toInt {n : Nat} (h : n ≤ 64) (v : Word) : (v.toNat : Int) ≡ v.toInt [ZMOD 2 ^ n] := by
  conv => lhs; rw [← BitVec.ofInt_toInt (x := v)]
  exact toNat_ofInt_modEq h _

theorem toInt_sext64 {n : Nat} (hp : 0 < n) (hn : n ≤ 64) (v : Word) : (sext64 n v).toInt = sval n v.toNat := by
  rw [sext64, BitVec.toInt_signExtend_of_le hn, BitVec.toInt_eq_toNat_cond, BitVec.toNat_setWidth, sval]
  have e : 2 ^ n = 2 * 2 ^ (n - 1) := by rw [← Nat.pow_succ']; congr 1; omega
  split <;> split <;> omega

theorem toNat_zext64 {n : Nat} (hn : n ≤ 64) (v : Word) : (zext64 n v).toNat = v.toNat % 2 ^ n := by
  rw [zext64, BitVec.toNat_setWidth, BitVec.toNat_setWidth, Nat.mod_eq_of_lt]
  exact Nat.lt_of_lt_of_le (Nat.mod_lt _ (Nat.two_pow_pos n)) (Nat.pow_le_pow_right Nat.two_pos hn)

theorem amount_lt (w : Width) (y : Word) : amount (Width.bits w) y < Width.bits w := Nat.mod_lt _ (Width.bits_pos w)

-- Instructions that read two sources and write one result ----------------------------------------------------------------------------

theorem binary_ready {s : State} {i : Instr} (h : Ready s i) (d : Dst) (a b : Src) (w : Width) (z : Bool) (f : Nat → Word → Word → Word) :
    binary i d a b w z f s = (after2 s a b).result i d (if z then resultZ (Width.bits w) (f (Width.bits w) (val1 s a) (val2 s a b))
      else resultS (Width.bits w) (f (Width.bits w) (val1 s a) (val2 s a b))) := by
  rw [binary, State.gated_ready h]; rfl

section
variable {s : State} {i : Instr} {d : Dst} {a b : Src} {w : Width} {f : Nat → Word → Word → Word} {r : Int}

/-- An instruction of two sources whose result is an integer sign-extended at its width. -/
theorem exec_binaryS (he : exec i s = .next (binary i d a b w false f s)) (h : Ready s i)
    (hr : ((f (Width.bits w) (val1 s a) (val2 s a b)).toNat : Int) ≡ r [ZMOD 2 ^ Width.bits w]) :
    exec i s = .next ((after2 s a b).result i d (cutS (Width.bits w) r)) := by
  rw [he, binary_ready h, ← resultS_eq_cutS (Width.bits_le w) hr]; rfl

/-- The same with a zero-extended result. -/
theorem exec_binaryZ (he : exec i s = .next (binary i d a b w true f s)) (h : Ready s i)
    (hr : ((f (Width.bits w) (val1 s a) (val2 s a b)).toNat : Int) ≡ r [ZMOD 2 ^ Width.bits w]) :
    exec i s = .next ((after2 s a b).result i d (cutZ (Width.bits w) r)) := by
  rw [he, binary_ready h, ← resultZ_eq_cutZ (Width.bits_le w) hr]; rfl

end

/-- pick chooses as the order of the operands' readings says. -/
theorem pick_modEq_min {n : Int} (x y : Word) {p q : Int} (hx : (x.toNat : Int) ≡ p [ZMOD n]) (hy : (y.toNat : Int) ≡ q [ZMOD n]) :
    ((pick (decide (p ≤ q)) x y).toNat : Int) ≡ min p q [ZMOD n] := by
  unfold pick
  by_cases h : p ≤ q
  · simpa [h] using hx
  · simpa [h, min_eq_right (Int.le_of_not_le h)] using hy

theorem pick_modEq_max {n : Int} (x y : Word) {p q : Int} (hx : (x.toNat : Int) ≡ p [ZMOD n]) (hy : (y.toNat : Int) ≡ q [ZMOD n]) :
    ((pick (decide (q ≤ p)) x y).toNat : Int) ≡ max p q [ZMOD n] := by
  unfold pick
  by_cases h : q ≤ p
  · simpa [h] using hx
  · simpa [h, max_eq_right (Int.le_of_not_le h)] using hy

theorem arithmeticResults : Claims.ArithmeticResults := by
  intro s d a b w
  have hn := (Width.bits_le w)
  refine ⟨fun h => exec_binaryS rfl h ?_, fun h => exec_binaryS rfl h ?_, fun h => exec_binaryS rfl h ?_, fun h => exec_binaryS rfl h ?_,
    fun h => exec_binaryZ rfl h ?_, fun h => exec_binaryS rfl h ?_, fun h => exec_binaryS rfl h ?_, fun h => exec_binaryZ rfl h ?_,
    fun h => exec_binaryZ rfl h ?_⟩
  · rw [BitVec.toNat_add]; push_cast
    exact (emod_modEq hn _).trans ((modEq_sOf w _).add (modEq_sOf w _))
  · refine (toNat_modEq_toInt hn _).trans ?_
    rw [BitVec.toInt_sub]
    have hb : ((val1 s a).toInt - (val2 s a b).toInt).bmod (2 ^ 64) ≡ (val1 s a).toInt - (val2 s a b).toInt [ZMOD 2 ^ 64] :=
      Int.bmod_emod
    exact (hb.of_dvd (pow_dvd_pow 2 hn)).trans (((toNat_modEq_toInt hn _).symm.sub (toNat_modEq_toInt hn _).symm).trans
      ((modEq_sOf w _).sub (modEq_sOf w _)))
  · rw [BitVec.toNat_mul]; push_cast
    exact (emod_modEq hn _).trans ((modEq_sOf w _).mul (modEq_sOf w _))
  · exact toNat_ofInt_modEq hn _
  · refine (toNat_ofNat_modEq hn _).trans ?_
    push_cast; rfl
  · exact pick_modEq_min _ _ (modEq_sOf w _) (modEq_sOf w _)
  · exact pick_modEq_max _ _ (modEq_sOf w _) (modEq_sOf w _)
  · simpa [uOf] using pick_modEq_min _ _ (modEq_uOf w (val1 s a)) (modEq_uOf w (val2 s a b))
  · simpa [uOf] using pick_modEq_max _ _ (modEq_uOf w (val1 s a)) (modEq_uOf w (val2 s a b))

/-- The two parts of a rotated value share no bit. -/
theorem rotate_or {u n k : Nat} (hn : n ≤ 64) (hk : k < n) (hu : u < 2 ^ n) :
    u / 2 ^ k ||| u * 2 ^ (n - k) % 2 ^ 64 = u / 2 ^ k + u * 2 ^ (n - k) % 2 ^ 64 := by
  have e : u * 2 ^ (n - k) % 2 ^ 64 = 2 ^ (n - k) * (u % 2 ^ (64 - (n - k))) := by
    rw [Nat.mul_comm, ← Nat.mul_mod_mul_left, ← Nat.pow_add]; congr 2; omega
  have hlt : u / 2 ^ k < 2 ^ (n - k) := by
    rw [Nat.div_lt_iff_lt_mul (Nat.two_pow_pos k), ← Nat.pow_add]
    rwa [show n - k + k = n by omega]
  rw [e, Nat.or_comm, ← Nat.two_pow_add_eq_or_of_lt hlt, Nat.add_comm]

theorem toNat_rotate (w : Width) (x y : Word) :
    ((zext64 (Width.bits w) x >>> amount (Width.bits w) y ||| zext64 (Width.bits w) x <<< (Width.bits w - amount (Width.bits w) y)).toNat : Int) ≡
      ((uOf w x / 2 ^ amount (Width.bits w) y + uOf w x * 2 ^ (Width.bits w - amount (Width.bits w) y) : Nat) : Int)
      [ZMOD 2 ^ Width.bits w] := by
  have hu : uOf w x < 2 ^ Width.bits w := Nat.mod_lt _ (Nat.two_pow_pos _)
  rw [BitVec.toNat_or, BitVec.toNat_ushiftRight, BitVec.toNat_shiftLeft, toNat_zext64 (Width.bits_le w), Nat.shiftRight_eq_div_pow, Nat.shiftLeft_eq]
  rw [show x.toNat % 2 ^ Width.bits w = uOf w x from rfl, rotate_or (Width.bits_le w) (amount_lt w y) hu]
  push_cast
  exact Int.ModEq.add rfl (emod_modEq (Width.bits_le w) _)

theorem logicAndShiftResults : Claims.LogicAndShiftResults := by
  intro s d a b w
  have hn := (Width.bits_le w)
  refine ⟨fun h => exec_binaryS rfl h rfl, fun h => exec_binaryS rfl h rfl, fun h => exec_binaryS rfl h rfl, fun h => exec_binaryS rfl h rfl,
    fun h => exec_binaryS rfl h ?_, fun h => exec_binaryZ rfl h ?_, fun h => exec_binaryS rfl h ?_,
    fun h => exec_binaryS rfl h (toNat_rotate w _ _)⟩
  · rw [BitVec.toNat_shiftLeft, Nat.shiftLeft_eq]
    push_cast
    exact (emod_modEq hn _).trans ((modEq_uOf w _).mul rfl)
  · rw [BitVec.toNat_ushiftRight, toNat_zext64 hn, Nat.shiftRight_eq_div_pow]
    rfl
  · refine (toNat_modEq_toInt hn _).trans ?_
    rw [BitVec.toInt_sshiftRight, toInt_sext64 (Width.bits_pos w) hn, Int.shiftRight_eq_div_pow]
    rfl

/-- Settles O7: each result is the exact integer modulo two to the width, by the operations of Word read modulo that power. -/
theorem arithmeticLogicShift : Obligations.ArithmeticLogicShift := by
  unfold Obligations.ArithmeticLogicShift
  exact ⟨arithmeticResults, logicAndShiftResults⟩

end Sys2Proof.Machine

namespace Sys2Proof.Machine
open Sys2Proof

-- Bit counts and fields (04 R84, R85) ------------------------------------------------------------------------------------------------

theorem clzN_spec (n v : Nat) : clzN n v ≤ n ∧ (∀ j, n - clzN n v ≤ j → j < n → v.testBit j = false) ∧
    (clzN n v < n → v.testBit (n - 1 - clzN n v) = true) := by
  induction n with
  | zero => simp [clzN]
  | succ n ih =>
    obtain ⟨hle, hzero, hone⟩ := ih
    cases h : v.testBit n with
    | true => simp [clzN, h]; omega
    | false =>
      simp only [clzN, h, Bool.false_eq_true, if_false]
      refine ⟨by omega, fun j hj hn => ?_, fun hlt => ?_⟩
      · rcases Nat.lt_succ_iff_lt_or_eq.mp hn with hj' | rfl
        · exact hzero j (by omega) hj'
        · exact h
      · rw [show n + 1 - 1 - (1 + clzN n v) = n - 1 - clzN n v by omega]
        exact hone (by omega)

theorem ctzN_spec (n v : Nat) : ctzN n v ≤ n ∧ (∀ j, j < ctzN n v → v.testBit j = false) ∧
    (ctzN n v < n → v.testBit (ctzN n v) = true) := by
  induction n generalizing v with
  | zero => simp [ctzN]
  | succ n ih =>
    obtain ⟨hle, hzero, hone⟩ := ih (v / 2)
    by_cases h : v % 2 = 1
    · simp [ctzN, h, Nat.testBit_zero]
    · simp only [ctzN, h, if_false]
      refine ⟨by omega, fun j hj => ?_, fun hlt => ?_⟩
      · cases j with
        | zero => simpa [Nat.testBit_zero] using h
        | succ j => rw [Nat.testBit_succ]; exact hzero j (by omega)
      · rw [Nat.add_comm, Nat.testBit_succ]
        exact hone (by omega)

theorem popN_eq_countP (n v : Nat) : popN n v = (List.range n).countP fun j => v.testBit j := by
  induction n generalizing v with
  | zero => rfl
  | succ n ih =>
    rw [popN, ih, List.range_succ_eq_map, List.countP_cons, List.countP_map, Nat.add_comm]
    congr 1
    · congr 1; funext j; simp [Nat.testBit_succ]
    · rcases Nat.mod_two_eq_zero_or_one v with h | h <;> simp [Nat.testBit_zero, h]

/-- A value below two to the width is its own zero-extended result. -/
theorem resultZ_ofNat {n z : Nat} (hn : n ≤ 64) (h : z < 2 ^ n) : resultZ n (BitVec.ofNat 64 z) = BitVec.ofNat 64 z := by
  have h64 : z < 2 ^ 64 := Nat.lt_of_lt_of_le h (Nat.pow_le_pow_right Nat.two_pos hn)
  apply BitVec.eq_of_toNat_eq
  rw [resultZ, toNat_zext64 hn, BitVec.toNat_ofNat, Nat.mod_eq_of_lt h64, Nat.mod_eq_of_lt h]

theorem lt_two_pow_bits {w : Width} {z : Nat} (h : z ≤ Width.bits w) : z < 2 ^ Width.bits w :=
  Nat.lt_of_le_of_lt h Nat.lt_two_pow_self

/-- An integer that n bits hold is what they read as. -/
theorem sval_of_modEq {n v : Nat} {z : Int} (hp : 0 < n) (h : (v : Int) ≡ z [ZMOD 2 ^ n]) (hlo : -(2 ^ (n - 1) : Nat) ≤ z)
    (hhi : z < (2 ^ (n - 1) : Nat)) : sval n v = z := by
  obtain ⟨hl, hu⟩ := sval_bounds hp v
  obtain ⟨k, hk⟩ := Int.modEq_iff_dvd.mp ((modEq_sval n v).symm.trans h)
  have e : (2 : Int) ^ n = 2 * ((2 ^ (n - 1) : Nat) : Int) := by
    push_cast; rw [← pow_succ']; congr 1; omega
  rw [e] at hk
  have hpos : (0 : Int) < (2 ^ (n - 1) : Nat) := by positivity
  generalize ((2 ^ (n - 1) : Nat) : Int) = m at *
  have : k = 0 := by nlinarith
  subst this
  omega

theorem resultS_ofInt {n : Nat} {z : Int} (hp : 0 < n) (hn : n ≤ 64) (hlo : -(2 ^ (n - 1) : Nat) ≤ z) (hhi : z < (2 ^ (n - 1) : Nat)) :
    resultS n (BitVec.ofInt 64 z) = BitVec.ofInt 64 z := by
  have hpow : ((2 ^ (n - 1) : Nat) : Int) ≤ 2 ^ 63 := by
    have := Nat.pow_le_pow_right Nat.two_pos (show n - 1 ≤ 63 by omega)
    exact_mod_cast this
  apply BitVec.eq_of_toInt_eq
  rw [resultS, toInt_sext64 hp hn, sval_of_modEq hp (toNat_ofInt_modEq hn z) hlo hhi, BitVec.toInt_ofInt]
  exact (Int.bmod_eq_of_le (by norm_num; omega) (by norm_num; omega)).symm

/-- A field whose length is cut at the width, as an integer, is its own sign-extended result. -/
theorem resultS_field {n l : Nat} (hp : 0 < n) (hn : n ≤ 64) (hl : l ≤ n) (v : Nat) :
    resultS n (if l = 0 then 0 else BitVec.ofInt 64 (sval l v)) = BitVec.ofInt 64 (if l = 0 then 0 else sval l v) := by
  have hpow : 2 ^ (l - 1) ≤ 2 ^ (n - 1) := Nat.pow_le_pow_right Nat.two_pos (by omega)
  split
  · exact resultS_ofInt (z := 0) hp hn (by simp) (by positivity)
  · obtain ⟨hlo, hhi⟩ := sval_bounds (by omega : 0 < l) v
    exact resultS_ofInt hp hn (by omega) (by omega)

theorem fieldLen_eq (n : Nat) (c : Word) : fieldLen n c = min (fld c 8 7 : BitVec 7).toNat (n - (fld c 0 6 : BitVec 6).toNat) := by
  unfold fieldLen fieldPos
  split
  · omega
  · rfl

/-- The bits of a field that is inserted: the source's inside, the old value's outside. -/
theorem insertField_bit (p l : Nat) (dv x : Word) {j : Nat} (hj : j < 64) : (insertField p l dv x).getLsbD j =
    if p ≤ j ∧ j < p + l then x.getLsbD (j - p) else dv.getLsbD j := by
  have hm : (BitVec.ofNat 64 ((2 ^ l - 1) * 2 ^ p)).getLsbD j = decide (p ≤ j ∧ j < p + l) := by
    rw [BitVec.getLsbD_ofNat, Nat.testBit_mul_two_pow, Nat.testBit_two_pow_sub_one, Bool.eq_iff_iff]
    simp; omega
  simp only [insertField, BitVec.getLsbD_or, BitVec.getLsbD_and, BitVec.getLsbD_not, BitVec.getLsbD_shiftLeft, hm]
  by_cases h : p ≤ j ∧ j < p + l
  · simp [h, hj]
  · simp [h, hj]

-- Instructions of one source, and of a destination that is read (02 R35) --------------------------------------------------------------

theorem unary_ready {s : State} {i : Instr} (h : Ready s i) (d : Dst) (a : Src) (w : Width) (z : Bool) (f : Nat → Word → Word) :
    unary i d a w z f s = (after1 s a).result i d (if z then resultZ (Width.bits w) (f (Width.bits w) (val1 s a))
      else resultS (Width.bits w) (f (Width.bits w) (val1 s a))) := by
  rw [unary, State.gated_ready h]; rfl

theorem ternary_ready {s : State} {i : Instr} (h : Ready s i) (d : Dst) (a b : Src) (w : Width) (f : Nat → Word → Word → Word → Word) :
    ternary i d a b w f s = (after3 s d.asSrc a b).result i d
      (resultS (Width.bits w) (f (Width.bits w) (val1 s d.asSrc) (val2 s d.asSrc a) (val3 s d.asSrc a b))) := by
  rw [ternary, State.gated_ready h]; rfl

/-- A count of bits is written as it is. -/
theorem exec_count {s : State} {i : Instr} {d : Dst} {a : Src} {w : Width} {f : Nat → Nat → Nat}
    (he : exec i s = .next (unary i d a w true (fun n x => BitVec.ofNat 64 (f n x.toNat)) s)) (h : Ready s i)
    (hf : f (Width.bits w) (val1 s a).toNat ≤ Width.bits w) :
    exec i s = .next ((after1 s a).result i d (BitVec.ofNat 64 (f (Width.bits w) (val1 s a).toNat))) := by
  rw [he, unary_ready h, if_pos rfl, resultZ_ofNat (Width.bits_le w) (lt_two_pow_bits hf)]

theorem compareAndSelectResults : Claims.CompareAndSelectResults := by
  intro s d a b w
  refine ⟨fun cc h => ⟨condHolds cc (Width.bits w) (val1 s a) (val2 s a b), ?_, condHolds_iff cc w _ _⟩, fun h => ?_⟩
  · show Host.Outcome.next (binary _ d a b w true _ s) = _
    rw [binary_ready h, if_pos rfl]
    have e (r : Bool) : resultZ (Width.bits w) (ofBit 64 r) = if r then 1 else 0 := by
      cases r <;> cases w <;> decide
    rw [e]
  · show Host.Outcome.next (ternary _ d a b w _ s) = _
    rw [ternary_ready h, resultS_eq_cutS (Width.bits_le w) (z := if uOf w (val1 s d.asSrc) ≠ 0 then (val2 s d.asSrc a).toNat else (val3 s d.asSrc a b).toNat)]
    show (((if uOf w (val1 s d.asSrc) ≠ 0 then _ else _ : Word)).toNat : Int) ≡ _ [ZMOD _]
    split <;> rfl

theorem bitAndFieldResults : Claims.BitAndFieldResults := by
  intro s d a b w n x c p l
  have hn : n ≤ 64 := Width.bits_le w
  have hp : 0 < n := Width.bits_pos w
  refine ⟨fun h => ?_, fun h => ?_, fun h => ?_, fun h => ?_, fun h => ?_, fun h => ?_, fun sc h => ?_, fun h => ?_⟩
  · obtain ⟨hle, hspec⟩ := clzN_spec n x.toNat
    exact ⟨_, exec_count rfl h hle, hle, hspec⟩
  · obtain ⟨hle, hspec⟩ := ctzN_spec n x.toNat
    exact ⟨_, exec_count rfl h hle, hle, hspec⟩
  · rw [← popN_eq_countP]
    refine exec_count rfl h ?_
    rw [popN_eq_countP]
    exact List.countP_le_length.trans_eq List.length_range
  · show Host.Outcome.next (binary _ d a b w true _ s) = _
    have hl : x.toNat / 2 ^ p % 2 ^ l < 2 ^ n := Nat.lt_of_lt_of_le (Nat.mod_lt _ (Nat.two_pow_pos l))
      (Nat.pow_le_pow_right Nat.two_pos (by omega))
    rw [binary_ready h, if_pos rfl, fieldLen_eq]
    rw [show fieldPos (val2 s a b) = p from rfl, resultZ_ofNat hn hl]
  · show Host.Outcome.next (binary _ d a b w false _ s) = _
    rw [binary_ready h, if_neg Bool.false_ne_true, fieldLen_eq]
    rw [show fieldPos (val2 s a b) = p from rfl, resultS_field hp hn (by omega)]
  · refine ⟨(insertField (fieldPos (val3 s d.asSrc a b)) (fieldLen n (val3 s d.asSrc a b)) (val1 s d.asSrc) (val2 s d.asSrc a)).toInt, ?_, ?_⟩
    · show Host.Outcome.next (ternary _ d a b w _ s) = _
      rw [ternary_ready h, resultS_eq_cutS hn (toNat_modEq_toInt hn _)]
    · intro p' l' j hj
      rw [BitVec.ofInt_toInt, insertField_bit _ _ _ _ (by omega), fieldLen_eq]
      rfl
  · refine exec_binaryZ rfl h ?_
    rw [BitVec.toNat_add, BitVec.toNat_shiftLeft, Nat.shiftLeft_eq]
    push_cast
    exact (emod_modEq hn _).trans ((modEq_uOf w _).add ((emod_modEq hn _).trans ((modEq_uOf w _).mul rfl)))
  · show Host.Outcome.next (unary _ d a w false _ s) = _
    rw [unary_ready h, if_neg Bool.false_ne_true, resultS_eq_cutS hn (modEq_sOf w _)]

-- The divider (04 R82, R83) ------------------------------------------------------------------------------------------------------------

/-- The state in which a divide's thread waits for its result: the divider is taken, the pc has moved. -/
theorem exec_divide {s : State} {i : Instr} {d : Dst} {a b : Src} {w : Width} {z : Bool} {f : Nat → Word → Word → Word} {v : Word}
    (he : exec i s = .next (divide i d a b w z f s)) (h : Ready s i)
    (hv : (if z then resultZ (Width.bits w) (f (Width.bits w) (val1 s a) (val2 s a b))
      else resultS (Width.bits w) (f (Width.bits w) (val1 s a) (val2 s a b))) = v) :
    let u := after2 s a b
    let free := max u.myCore.divideFree u.clk + 2 + Width.bits w / 2
    ∃ t, exec i s = .next t ∧ t.me.st = .removed (.divide d v free) ∧ t.me.pc = nextPc u.me (lengthOf i) ∧ t.myCore.divideFree = free := by
  intro u free
  have hme : (u.setMyCore { u.myCore with divideFree := free }).me = u.me := State.me_setMyCore rfl
  refine ⟨((u.setMyCore { u.myCore with divideFree := free }).advance i).remove (.divide d v free), ?_, ?_, ?_, ?_⟩
  · rw [he, divide, State.gated_ready h, ← hv]; rfl
  · rw [State.remove, State.setMe_me]
  · rw [State.remove, State.setMe_me]
    simp [State.advance, State.goTo, hme]
  · simp [State.remove, State.advance, State.goTo, State.myCore, State.setMe, State.setThread, State.setMyCore]

theorem quotI_modEq (w : Width) (x y : Word) : ((quotI (Width.bits w) x y).toNat : Int) ≡
    (if uOf w y = 0 then -1 else (sOf w x).tdiv (sOf w y)) [ZMOD 2 ^ Width.bits w] := by
  have hn := Width.bits_le w
  show (((if uOf w y = 0 then _ else _ : Word)).toNat : Int) ≡ _ [ZMOD _]
  split
  · exact toNat_ofInt_modEq hn (-1)
  · exact toNat_ofInt_modEq hn _

theorem remainI_modEq (w : Width) (x y : Word) : ((remainI (Width.bits w) x y).toNat : Int) ≡
    (if uOf w y = 0 then sOf w x else (sOf w x).tmod (sOf w y)) [ZMOD 2 ^ Width.bits w] := by
  show (((if uOf w y = 0 then _ else _ : Word)).toNat : Int) ≡ _ [ZMOD _]
  split
  · exact modEq_sOf w x
  · exact toNat_ofInt_modEq (Width.bits_le w) _

theorem quotN_modEq (w : Width) (x y : Word) : ((quotN (Width.bits w) x y).toNat : Int) ≡
    (if uOf w y = 0 then -1 else (uOf w x / uOf w y : Nat)) [ZMOD 2 ^ Width.bits w] := by
  have hn := Width.bits_le w
  show (((if uOf w y = 0 then _ else _ : Word)).toNat : Int) ≡ _ [ZMOD _]
  split
  · exact toNat_ofInt_modEq hn (-1)
  · exact toNat_ofNat_modEq hn _

theorem remainN_modEq (w : Width) (x y : Word) : ((remainN (Width.bits w) x y).toNat : Int) ≡
    (if uOf w y = 0 then (uOf w x : Int) else (uOf w x % uOf w y : Nat)) [ZMOD 2 ^ Width.bits w] := by
  show (((if uOf w y = 0 then _ else _ : Word)).toNat : Int) ≡ _ [ZMOD _]
  split
  · exact modEq_uOf w x
  · exact toNat_ofNat_modEq (Width.bits_le w) _

/-- A completion that writes a register settles the thread with it, whatever is due for the thread. -/
theorem State.complete_plain_settles {s : State} {d : Dst} (hd : plainDst d = true) (v : Word) :
    s.complete d v none = (s.reporting.setMe (s.me.run.putReg d v)).settleDone := by
  have hu : (s.reporting.setMe s.me.atIssue).finish d v none = s.reporting.setMe (s.me.atIssue.putReg d v) := by
    rw [State.finish_plain hd, State.setMe_me, State.setMe_setMe]
    rfl
  have hp : (s.me.atIssue.putReg d v).atPc s.me.pc = s.me.run.putReg d v := by
    cases d <;> rfl
  rw [State.complete_none_of hu (by rw [Thread.putReg_st]; rfl), hp]

/-- A thread that may not issue before a cycle. -/
def Thread.issuesFrom (t : Thread) (n : Nat) : Thread := { t with nextIssue := max t.nextIssue n }

/-- A divide whose cycles are over writes its register, and its thread, which may issue from the next cycle on, settles. -/
theorem exec_divideComplete {s : State} {c : Nat} {k : Fin 16} {d : Dst} {v : Word} {n : Nat}
    (hst : (s.thread c k).st = .removed (.divide d v n)) (hn : n ≤ s.clk) (hd : plainDst d = true) :
    exec (.divideComplete c k) s = .next ((State.setMe { s.as c k with iword := (s.thread c k).issuedWord }
      ({ s.thread c k with st := .runnable, nextIssue := max (s.thread c k).nextIssue (s.clk + 1) }.putReg d v)).settleDone) := by
  have e : exec (.divideComplete c k) s = .next (match (s.thread c k).st with
      | .removed (.divide d v t) =>
        if t ≤ s.clk then ((s.as c k).setMe ((s.thread c k).issuesFrom (s.clk + 1))).complete d v none else s
      | _ => s) := rfl
  rw [hst] at e
  simp only [hn, if_true, State.complete_plain_settles hd, State.setMe_me] at e
  rw [e, State.reporting, State.setMe_me]
  exact congrArg (fun u => Host.Outcome.next (State.settleDone u))
    (State.setMe_setMe { s.as c k with iword := (s.thread c k).issuedWord } ((s.thread c k).issuesFrom (s.clk + 1)) _)

theorem divideResults : Claims.DivideResults := by
  refine ⟨fun s d a b w => ⟨fun h => ?_, fun h => ?_, fun h => ?_, fun h => ?_⟩, fun s c k d v n => exec_divideComplete⟩
  · exact exec_divide (z := false) (f := quotI) rfl h (resultS_eq_cutS (Width.bits_le w) (quotI_modEq w _ _))
  · exact exec_divide (z := false) (f := remainI) rfl h (resultS_eq_cutS (Width.bits_le w) (remainI_modEq w _ _))
  · exact exec_divide (z := true) (f := quotN) rfl h (resultZ_eq_cutZ (Width.bits_le w) (quotN_modEq w _ _))
  · exact exec_divide (z := true) (f := remainN) rfl h (resultZ_eq_cutZ (Width.bits_le w) (remainN_modEq w _ _))

/-- Settles O8: each result is its integer modulo two to the width, counts and fields by their bits; a divide by the state in which its
thread waits and the one in which it completes. -/
theorem compareFieldsDivide : Obligations.CompareFieldsDivide := by
  unfold Obligations.CompareFieldsDivide
  exact ⟨compareAndSelectResults, bitAndFieldResults, divideResults⟩

end Sys2Proof.Machine

namespace Sys2Proof.Machine
open Sys2Proof

-- Frames: what lies outside the cores -----------------------------------------------------------------------------------------------

/-- What the frames of issued instructions speak of beside the cores: memory, the helm side, the lockhouse, time, power and the wharf's tables. -/
structure Outside where
  mem : List Host.Cell
  harts : SMap Hart
  lock : Lockhouse
  helmCache : SMap HelmLine
  clk : Nat
  mtime : Nat
  power : Bool
  launches : SMap Launch
  routing : Word
  jHead : Word
  jBase : Word

def State.outside (s : State) : Outside :=
  { mem := s.mem, harts := s.harts, lock := s.lock, helmCache := s.helmCache, clk := s.clk, mtime := s.mtime, power := s.power,
    launches := s.wharf.launches, routing := s.wharf.routing, jHead := s.wharf.jHead, jBase := s.wharf.jBase }

@[simp] theorem State.outside_setCore (s : State) (c : Nat) (x : Core) : (s.setCore c x).outside = s.outside := rfl
@[simp] theorem State.outside_setMyCore (s : State) (x : Core) : (s.setMyCore x).outside = s.outside := rfl
@[simp] theorem State.outside_setThread (s : State) (c : Nat) (k : Fin 16) (x : Thread) : (s.setThread c k x).outside = s.outside := rfl
@[simp] theorem State.outside_setMe (s : State) (x : Thread) : (s.setMe x).outside = s.outside := rfl
@[simp] theorem State.outside_setDie (s : State) (d : Nat) (x : Die) : (s.setDie d x).outside = s.outside := rfl
@[simp] theorem State.outside_setGroup (s : State) (g : Half) (x : Group) : (s.setGroup g x).outside = s.outside := rfl
@[simp] theorem State.outside_count (s : State) (c : Nat) (tag : Half) (a b : Nat) : (s.count c tag a b).outside = s.outside := rfl

@[simp] theorem State.outside_setEngine (s : State) (e : Eng) (x : Engine) : (s.setEngine e x).outside = s.outside := by cases e <;> rfl

@[simp] theorem State.outside_post (s : State) (n : Nat) (r : Record) : (s.post n r).outside = s.outside := by
  obtain ⟨a, b, c, h⟩ := s.post_eq n r
  rw [h]; rfl

@[simp] theorem State.outside_trapThread (s : State) (c : Nat) (k : Fin 16) (cause : Nat) (iword : W32) (pc a b : Word) :
    (s.trapThread c k cause iword pc a b).outside = s.outside := State.outside_post ..

/-- States that agree outside the cores agree on memory and on the parts of the device that a frame names. -/
theorem State.outside_keeps {s t : State} (h : t.outside = s.outside) : t.mem = s.mem ∧ DeviceKeeps s t ∧ t.wharf.jBase = s.wharf.jBase := by
  simp only [State.outside, Outside.mk.injEq] at h
  obtain ⟨h1, h2, h3, h4, h5, h6, h7, h8, h9, h10, h11⟩ := h
  exact ⟨h1, ⟨h2, h3, h4, h5, h6, h7, h8, h9, h10⟩, h11⟩

theorem memoryKeeps_of_outside {s t : State} (h : t.outside = s.outside) : MemoryKeeps s t := fun a => by
  rw [(State.outside_keeps h).1]

/-- A journal entry may be written: no byte outside it changes, and the device keeps all but the journal's head and what source 66 makes pending. -/
structure Journaled (s t : State) : Prop where
  mem : Inv s → ∀ a, ¬ InEntry s a → Memory.get t.mem a = Memory.get s.mem a
  head : t.wharf.jHead = s.wharf.jHead ∨ t.wharf.jHead = s.wharf.jHead + 1
  device : DeviceKeeps s { t with harts := s.harts, wharf := { t.wharf with jHead := s.wharf.jHead } }

/-- What an instruction does outside the cores: nothing, or at most one journal entry where it may submit a collective command. -/
def Effect (c : Bool) (s t : State) : Prop := if c = true then Journaled s t else t.outside = s.outside

theorem Effect.of_outside {c : Bool} {s t : State} (h : t.outside = s.outside) : Effect c s t := by
  obtain ⟨hm, ⟨h2, h3, h4, h5, h6, h7, h8, h9, h10⟩, -⟩ := State.outside_keeps h
  unfold Effect
  split
  · exact ⟨fun _ a _ => by rw [hm], .inl h10, ⟨rfl, h3, h4, h5, h6, h7, h8, h9, rfl⟩⟩
  · exact h

theorem Effect.outside {s t : State} (h : Effect false s t) : t.outside = s.outside := h

/-- What keeps the outside may stand before an effect. -/
theorem Effect.after {c : Bool} {s u t : State} (h : u.outside = s.outside) (g : Effect c u t) : Effect c s t := by
  obtain ⟨hm, ⟨h2, h3, h4, h5, h6, h7, h8, h9, h10⟩, hb⟩ := State.outside_keeps h
  cases c with
  | false => exact Eq.trans g h
  | true =>
    obtain ⟨g1, g2, -, g3, g4, g5, g6, g7, g8, g9, -⟩ := g
    refine ⟨fun hi a ha => ?_, by rw [← h10]; exact g2, rfl, g3.trans h3, g4.trans h4, g5.trans h5, g6.trans h6, g7.trans h7, g8.trans h8,
      g9.trans h9, rfl⟩
    rw [g1 (by unfold Inv; rw [hm]; exact hi) a (by unfold InEntry; rw [hb, h10]; exact ha), hm]

/-- What keeps the outside may stand behind an effect. -/
theorem Effect.before {c : Bool} {s u t : State} (g : Effect c s u) (h : t.outside = u.outside) : Effect c s t := by
  obtain ⟨hm, ⟨h2, h3, h4, h5, h6, h7, h8, h9, h10⟩, -⟩ := State.outside_keeps h
  cases c with
  | false => exact Eq.trans h g
  | true =>
    obtain ⟨g1, g2, -, g3, g4, g5, g6, g7, g8, g9, -⟩ := g
    exact ⟨fun hi a ha => by rw [hm, g1 hi a ha], by rw [h10]; exact g2,
      ⟨rfl, h3.trans g3, h4.trans g4, h5.trans g5, h6.trans g6, h7.trans g7, h8.trans g8, h9.trans g9, rfl⟩⟩

theorem Effect.mono {c d : Bool} {s t : State} (h : Effect c s t) (i : c = true → d = true) : Effect d s t := by
  cases c with
  | false => exact .of_outside h
  | true => rw [i rfl]; exact h

/-- The claims on memory and on the device say what an effect is. -/
theorem Effect.memoryKeepsBy {s t : State} {i : Instr} (h : Effect (mayCollect i) s t) : MemoryKeepsBy s t i := by
  unfold MemoryKeepsBy
  unfold Effect at h
  split
  · rw [if_pos (by assumption)] at h; exact h.mem
  · rw [if_neg (by assumption)] at h; exact memoryKeeps_of_outside h

theorem Effect.deviceKeepsBy {s t : State} {i : Instr} (h : Effect (mayCollect i) s t) : DeviceKeepsBy s t i := by
  unfold DeviceKeepsBy
  unfold Effect at h
  split
  · rw [if_pos (by assumption)] at h; exact ⟨h.head, h.device⟩
  · rw [if_neg (by assumption)] at h; exact (State.outside_keeps h).2.1

-- Frames: threads ---------------------------------------------------------------------------------------------------------------------

/-- A thread keeps its registers and its pc, and Blocks in nothing anew. -/
def Thread.Untouched (t u : Thread) : Prop := t.sameRegs u ∧ ∀ b, u.st = .blocked b → t.st = .blocked b

/-- A thread's v, m, segment and special registers stay, and of its g and w registers all but a destination. -/
structure Thread.RegsBut (d : Option Dst) (t u : Thread) : Prop where
  v : u.v = t.v
  m : u.m = t.m
  sg : u.sg = t.sg
  special : u.special = t.special
  g : ∀ j, u.g.get j = t.g.get j ∨ d = some (.g j)
  w : ∀ j, u.w.get j = t.w.get j ∨ d = some (.w j)

/-- An executing thread writes at most a destination, and Blocks in no moor anew. -/
structure Thread.Writes (d : Option Dst) (t u : Thread) : Prop extends Thread.RegsBut d t u where
  moor : ∀ g e n, u.st = .blocked (.moor g e n) → t.st = u.st

theorem Thread.Untouched.refl (t : Thread) : t.Untouched t := ⟨⟨rfl, rfl, rfl, rfl, rfl, rfl, rfl⟩, fun _ h => h⟩

theorem Thread.Untouched.trans {t u x : Thread} (h : t.Untouched u) (g : u.Untouched x) : t.Untouched x := by
  obtain ⟨⟨h1, h2, h3, h4, h5, h6, h7⟩, hb⟩ := h
  obtain ⟨⟨g1, g2, g3, g4, g5, g6, g7⟩, gb⟩ := g
  exact ⟨⟨g1.trans h1, g2.trans h2, g3.trans h3, g4.trans h4, g5.trans h5, g6.trans h6, g7.trans h7⟩, fun b e => hb b (gb b e)⟩

theorem Thread.Untouched.of_eq {t u : Thread} (h : u = t) : t.Untouched u := by rw [h]; exact .refl t

/-- A thread that runs on, its registers as they are. -/
theorem Thread.untouched_runnable (t : Thread) : t.Untouched { t with st := .runnable } :=
  ⟨⟨rfl, rfl, rfl, rfl, rfl, rfl, rfl⟩, fun _ h => by cases h⟩

theorem Thread.sameRegs.regsBut {t u : Thread} (h : t.sameRegs u) (d : Option Dst) : t.RegsBut d u := by
  obtain ⟨h1, h2, h3, h4, h5, -, h7⟩ := h
  exact ⟨h3, h4, h5, h7, fun j => .inl (by rw [h1]), fun j => .inl (by rw [h2])⟩

theorem Thread.RegsBut.trans {d : Option Dst} {t u x : Thread} (h : t.RegsBut d u) (g : u.RegsBut d x) : t.RegsBut d x where
  v := g.v.trans h.v
  m := g.m.trans h.m
  sg := g.sg.trans h.sg
  special := g.special.trans h.special
  g j := (g.g j).elim (fun e => (h.g j).elim (fun f => .inl (e.trans f)) .inr) .inr
  w j := (g.w j).elim (fun e => (h.w j).elim (fun f => .inl (e.trans f)) .inr) .inr

theorem Thread.RegsBut.of_none {d : Option Dst} {t u : Thread} (h : t.RegsBut none u) : t.RegsBut d u where
  v := h.v
  m := h.m
  sg := h.sg
  special := h.special
  g j := .inl ((h.g j).resolve_right nofun)
  w j := .inl ((h.w j).resolve_right nofun)

theorem Thread.Untouched.writes {t u : Thread} (h : t.Untouched u) (d : Option Dst) : t.Writes d u :=
  ⟨h.1.regsBut d, fun _ _ _ k => by rw [k]; exact h.2 _ k⟩

theorem Thread.Writes.refl (d : Option Dst) (t : Thread) : t.Writes d t := (Thread.Untouched.refl t).writes d

theorem Thread.Writes.trans {d : Option Dst} {t u x : Thread} (h : t.Writes d u) (g : u.Writes d x) : t.Writes d x where
  toRegsBut := h.toRegsBut.trans g.toRegsBut
  moor a e n k := by
    have hx := g.moor a e n k
    exact (h.moor a e n (hx.trans k)).trans hx

theorem Thread.Writes.of_none {d : Option Dst} {t u : Thread} (h : t.Writes none u) : t.Writes d u := ⟨h.toRegsBut.of_none, h.moor⟩

/-- Registers that are the same, and a state that is no moor. -/
theorem Thread.Writes.of_st {d : Option Dst} {t u : Thread} (hg : u.g = t.g) (hw : u.w = t.w) (hv : u.v = t.v) (hm : u.m = t.m) (hs : u.sg = t.sg)
    (hp : u.special = t.special) (hst : u.st = t.st ∨ ∀ g e n, u.st ≠ .blocked (.moor g e n)) : t.Writes d u :=
  ⟨⟨hv, hm, hs, hp, fun j => .inl (by rw [hg]), fun j => .inl (by rw [hw])⟩, fun g e n k => hst.elim Eq.symm fun h => absurd k (h g e n)⟩

theorem Thread.writes_setG (t : Thread) (i : Fin 8) (x : Word) : t.Writes (some (.g i)) (t.setG i x) where
  v := rfl
  m := rfl
  sg := rfl
  special := rfl
  g j := by
    rw [Thread.setG_get]
    by_cases h : j = i
    · exact .inr (by rw [h])
    · exact .inl (if_neg h)
  w j := .inl rfl
  moor _ _ _ _ := rfl

theorem Thread.writes_setW (t : Thread) (i : Fin 24) (x : Word) : t.Writes (some (.w i)) (t.setW i x) where
  v := rfl
  m := rfl
  sg := rfl
  special := rfl
  g j := .inl rfl
  w j := by
    rw [Thread.setW_get]
    by_cases h : j = i
    · exact .inr (by rw [h])
    · exact .inl (if_neg h)
  moor _ _ _ _ := rfl

@[simp] theorem Thread.special_performed (t : Thread) (pc : Word) : (t.performed pc).special = t.special := by
  obtain ⟨a, b, h⟩ := t.performed_eq pc
  rw [h]; rfl

theorem Thread.writes_performed (t : Thread) (pc : Word) : t.Writes none (t.performed pc) :=
  .of_st (by simp) (by simp) (by simp) (by simp) (by simp) (by simp) (.inl (by simp))

-- Frames: states -------------------------------------------------------------------------------------------------------------------------

/-- The same thread executes, and every other one is untouched. -/
structure Beside (s t : State) : Prop where
  core : t.core = s.core
  slot : t.slot = s.slot
  others : ∀ c k, (c, k) ≠ (s.core, s.slot) → (s.thread c k).Untouched (t.thread c k)

/-- A step of the executing thread: it writes at most a destination, and journals at most where it may. -/
structure Runs (d : Option Dst) (c : Bool) (s t : State) : Prop where
  beside : Beside s t
  me : s.me.Writes d t.me
  effect : Effect c s t

theorem Beside.refl (s : State) : Beside s s := ⟨rfl, rfl, fun _ _ _ => .refl _⟩

theorem Beside.trans {s t u : State} (h : Beside s t) (g : Beside t u) : Beside s u :=
  ⟨g.core.trans h.core, g.slot.trans h.slot, fun c k n => (h.others c k n).trans (g.others c k (by rw [h.core, h.slot]; exact n))⟩

theorem Beside.othersKeep {s t : State} (h : Beside s t) : OthersKeep s t := fun c k n => (h.others c k n).1

theorem Runs.refl {d : Option Dst} {c : Bool} (s : State) : Runs d c s s := ⟨.refl s, .refl d _, .of_outside rfl⟩

/-- A step that writes nothing stands before another. -/
theorem Runs.then {d : Option Dst} {c : Bool} {s u t : State} (h : Runs none false s u) (g : Runs d c u t) : Runs d c s t :=
  ⟨h.beside.trans g.beside, h.me.of_none.trans g.me, .after h.effect g.effect⟩

/-- A step that writes nothing stands behind another. -/
theorem Runs.andThen {d : Option Dst} {c : Bool} {s u t : State} (h : Runs d c s u) (g : Runs none false u t) : Runs d c s t :=
  ⟨h.beside.trans g.beside, h.me.trans g.me.of_none, h.effect.before g.effect⟩

theorem Runs.quiet {d : Option Dst} {c : Bool} {s t : State} (h : Runs none false s t) : Runs d c s t :=
  ⟨h.beside, h.me.of_none, .of_outside h.effect⟩

theorem Runs.mono {d : Option Dst} {c e : Bool} {s t : State} (h : Runs d c s t) (i : c = true → e = true) : Runs d e s t :=
  ⟨h.beside, h.me, h.effect.mono i⟩

/-- Nothing is written: no register of any thread, nothing outside the cores, and no thread Blocks. -/
structure Rests (s t : State) : Prop where
  core : t.core = s.core
  slot : t.slot = s.slot
  threads : ∀ c k, (s.thread c k).Untouched (t.thread c k)
  outside : t.outside = s.outside

theorem Rests.refl (s : State) : Rests s s := ⟨rfl, rfl, fun _ _ => .refl _, rfl⟩

theorem Rests.trans {s t u : State} (h : Rests s t) (g : Rests t u) : Rests s u :=
  ⟨g.core.trans h.core, g.slot.trans h.slot, fun c k => (h.threads c k).trans (g.threads c k), g.outside.trans h.outside⟩

theorem Rests.me {s t : State} (h : Rests s t) : s.me.Untouched t.me := by
  rw [State.me, State.me, h.core, h.slot]
  exact h.threads _ _

theorem Rests.beside {s t : State} (h : Rests s t) : Beside s t := ⟨h.core, h.slot, fun c k _ => h.threads c k⟩

theorem Rests.runs {d : Option Dst} {c : Bool} {s t : State} (h : Rests s t) : Runs d c s t := ⟨h.beside, h.me.writes d, .of_outside h.outside⟩

-- Frames: the operations that write nothing -----------------------------------------------------------------------------------------------

/-- What changes no core and nothing outside the cores. -/
theorem rests_of_cores {s t : State} (h : t.cores = s.cores := by rfl) (i : t.coreInit = s.coreInit := by rfl) (hc : t.core = s.core := by rfl)
    (hs : t.slot = s.slot := by rfl) (ho : t.outside = s.outside := by rfl) : Rests s t :=
  ⟨hc, hs, fun c k => .of_eq (by rw [State.thread, State.getCore_congr h i]; rfl), ho⟩

/-- A core whose threads are all untouched. -/
theorem rests_setCore {s : State} {d : Nat} {x : Core} (h : ∀ k, ((s.getCore d).slots.get k).Untouched (x.slots.get k)) : Rests s (s.setCore d x) := by
  refine ⟨rfl, rfl, fun c k => ?_, rfl⟩
  unfold State.thread
  by_cases e : c = d
  · subst e; rw [State.getCore_setCore_self]; exact h k
  · rw [State.getCore_setCore_ne s x e]; exact .refl _

/-- A core whose threads are as they were. -/
theorem rests_setCore_slots {s : State} {n : Nat} {x : Core} (h : x.slots = (s.getCore n).slots := by rfl) : Rests s (s.setCore n x) :=
  rests_setCore fun k => .of_eq (by rw [h])

/-- A thread, whichever, is set to one with its registers. -/
theorem rests_setThread {s : State} {d : Nat} {j : Fin 16} {x : Thread} (h : (s.thread d j).Untouched x) : Rests s (s.setThread d j x) := by
  refine ⟨rfl, rfl, fun c k => ?_, rfl⟩
  by_cases e : (c, k) = (d, j)
  · obtain ⟨rfl, rfl⟩ := Prod.mk.injEq .. ▸ e
    rw [State.thread_setThread_self]; exact h
  · rw [State.thread_setThread_ne s x e]; exact .refl _

/-- A thread's state changes, but it does not Block. -/
theorem rests_setThread_st {s : State} {d : Nat} {j : Fin 16} {x : Thread}
    (h : (s.thread d j).sameRegs x := by exact ⟨rfl, rfl, rfl, rfl, rfl, rfl, rfl⟩) (hst : ∀ b, x.st ≠ .blocked b := by nofun) :
    Rests s (s.setThread d j x) := rests_setThread ⟨h, fun b k => absurd k (hst b)⟩

/-- A thread's bookkeeping beside its registers and its state. -/
theorem rests_setThread_same {s : State} {d : Nat} {j : Fin 16} {x : Thread}
    (h : (s.thread d j).sameRegs x := by exact ⟨rfl, rfl, rfl, rfl, rfl, rfl, rfl⟩) (hst : x.st = (s.thread d j).st := by rfl) :
    Rests s (s.setThread d j x) := rests_setThread ⟨h, fun _ k => hst ▸ k⟩

theorem rests_count (s : State) (n : Nat) (tag : Half) (a b : Nat) : Rests s (s.count n tag a b) := rests_setCore_slots

theorem rests_post (s : State) (n : Nat) (r : Record) : Rests s (s.post n r) :=
  have h := aloof_post s n r
  rests_of_cores h.cores h.coreInit h.core h.slot (State.outside_post s n r)

theorem rests_setEngine (s : State) (e : Eng) (x : Engine) : Rests s (s.setEngine e x) :=
  have h := aloof_setEngine s e x
  rests_of_cores h.cores h.coreInit h.core h.slot (State.outside_setEngine s e x)

theorem rests_setGroup (s : State) (g : Half) (x : Group) : Rests s (s.setGroup g x) := rests_of_cores

theorem rests_trapThread (s : State) (c : Nat) (k : Fin 16) (cause : Nat) (iword : W32) (pc a b : Word) :
    Rests s (s.trapThread c k cause iword pc a b) :=
  Rests.trans rests_setThread_st (rests_post _ _ _)

theorem rests_trapOpen (s : State) (cause : Nat) : Rests s (s.trapOpen cause) :=
  Rests.trans rests_of_cores (rests_trapThread { s with fresh := s.fresh + 2 } _ _ _ _ _ _ _)

theorem rests_trapMisuse (s : State) : Rests s s.trapMisuse :=
  Rests.trans rests_of_cores (rests_trapThread { s with fresh := s.fresh + 1 } _ _ _ _ _ _ _)

theorem rests_remove (s : State) (r : Removed) : Rests s (s.remove r) := rests_setThread_st

-- Frames: the steps of an instruction ---------------------------------------------------------------------------------------------------

theorem beside_setMe (s : State) (x : Thread) : Beside s (s.setMe x) :=
  ⟨rfl, rfl, fun _ _ n => .of_eq (State.thread_setThread_ne s x n)⟩

theorem runs_setMe {d : Option Dst} {c : Bool} {s : State} {x : Thread} (h : s.me.Writes d x) : Runs d c s (s.setMe x) :=
  ⟨beside_setMe s x, by rw [State.setMe_me]; exact h, .of_outside rfl⟩

/-- A thread's pc and its bookkeeping change, beside its registers and its state. -/
theorem runs_setMe_same {d : Option Dst} {c : Bool} {s : State} {x : Thread} (hg : x.g = s.me.g := by rfl) (hw : x.w = s.me.w := by rfl)
    (hv : x.v = s.me.v := by rfl) (hm : x.m = s.me.m := by rfl) (hs : x.sg = s.me.sg := by rfl) (hp : x.special = s.me.special := by rfl)
    (hst : x.st = s.me.st := by rfl) : Runs d c s (s.setMe x) := runs_setMe (.of_st hg hw hv hm hs hp (.inl hst))

theorem runs_trap {d : Option Dst} {c : Bool} (s : State) (n : Nat) (k : Fin 16) (cause : Nat) (iword : W32) (pc a b : Word) :
    Runs d c s (s.trapThread n k cause iword pc a b) := (rests_trapThread ..).runs

theorem runs_trapOpen {d : Option Dst} {c : Bool} (s : State) (cause : Nat) : Runs d c s (s.trapOpen cause) := (rests_trapOpen ..).runs

theorem runs_remove {d : Option Dst} {c : Bool} (s : State) (r : Removed) : Runs d c s (s.remove r) := (rests_remove ..).runs

theorem runs_block {d : Option Dst} {c : Bool} (s : State) (b : Blocked) (h : ∀ g e n, b ≠ .moor g e n) : Runs d c s (s.block b) :=
  runs_setMe (.of_st rfl rfl rfl rfl rfl rfl (.inr fun g e n k => h g e n (SlotState.blocked.inj k)))

theorem runs_goTo {d : Option Dst} {c : Bool} (s : State) (pc : Word) : Runs d c s (s.goTo pc) := runs_setMe (s.me.writes_performed pc).of_none

theorem runs_advance {d : Option Dst} {c : Bool} (s : State) (i : Instr) : Runs d c s (s.advance i) := runs_goTo s _

theorem runs_move {d : Option Dst} {c : Bool} (s : State) (pc : Option Word) : Runs d c s (s.move pc) := by
  cases pc with
  | none => exact .refl s
  | some a => exact runs_goTo s a

theorem runs_stop {d : Option Dst} {c : Bool} (s : State) (g : Gate) : Runs d c s (s.stop g) := by
  cases g with
  | go => exact .refl s
  | held => exact runs_remove s _
  | trap cause a => exact runs_trap s ..
  | blockRead q => exact runs_block s _ nofun
  | blockWrite q => exact runs_block s _ nofun
  | awaitElement p => exact runs_remove s _

/-- An instruction either stops before its operands are read or does what it does. -/
theorem State.gated_eq (s : State) (i : Instr) (f : State → State) : s.gated i f = f s ∨ ∃ g, s.gated i f = s.stop g := by
  unfold State.gated
  split
  · exact .inl rfl
  · exact .inr ⟨_, rfl⟩

theorem runs_gated {d : Option Dst} {c : Bool} {s : State} {i : Instr} {f : State → State} (h : Runs d c s (f s)) : Runs d c s (s.gated i f) := by
  rcases s.gated_eq i f with e | ⟨g, e⟩
  · rw [e]; exact h
  · rw [e]; exact runs_stop s g

/-- What an instruction does once no relaxed access is in flight; until then it is held. -/
theorem runs_afterRelaxed {d : Option Dst} {c : Bool} {s before : State} {f : State → State} (hs : Runs none false before s) (h : Runs d c s (f s)) :
    Runs d c before (s.afterRelaxed before f) := by
  unfold State.afterRelaxed
  split
  · exact hs.then h
  · exact runs_remove before _

-- Frames: operands -------------------------------------------------------------------------------------------------------------------------

theorem Thread.untouched_retryRead (q : Fin 8) (t : Thread) : t.Untouched (t.retryRead q) := by
  unfold Thread.retryRead
  split
  · split
    · exact t.untouched_runnable
    · exact .refl t
  · exact .refl t

theorem Thread.untouched_retryWrite (q : Fin 8) (t : Thread) : t.Untouched (t.retryWrite q) := by
  unfold Thread.retryWrite
  split
  · split
    · exact t.untouched_runnable
    · exact .refl t
  · exact .refl t

theorem Core.untouched_pushQueue (x : Core) (q : Fin 8) (v : Word) (k : Fin 16) : (x.slots.get k).Untouched ((x.pushQueue q v).slots.get k) := by
  rw [Core.pushQueue, Core.slots_mapSlots]
  exact Thread.untouched_retryRead q _

/-- A slot whose value for a full queue has found room runs on. -/
theorem Core.untouched_setRunnable (x : Core) (n k : Fin 16) :
    (x.slots.get k).Untouched ((x.slots.set n.val { x.slots.get n with st := .runnable } n.isLt).get k) := by
  rw [vget_set]
  split
  · next h => subst h; exact Thread.untouched_runnable _
  · exact .refl _

theorem Core.untouched_popQueue (x : Core) (q : Fin 8) (k : Fin 16) : (x.slots.get k).Untouched ((x.popQueue q).2.slots.get k) := by
  unfold Core.popQueue
  split
  · exact .refl _
  · dsimp only
    split
    · split
      · exact (Core.untouched_setRunnable x _ k).trans (Core.untouched_pushQueue _ q _ k)
      · exact .refl _
    · rw [Core.slots_mapSlots]
      exact Thread.untouched_retryWrite q _

theorem Thread.untouched_popElement (t : Thread) (p : Fin 4) : t.Untouched (t.popElement p).2 := by
  unfold Thread.popElement
  dsimp only
  split
  · exact .refl t
  · exact ⟨⟨rfl, rfl, rfl, rfl, rfl, rfl, rfl⟩, fun _ h => h⟩

/-- Reading a source changes no register: a queue may let a thread run on, and an element leaves its port. -/
theorem rests_read (s : State) (a : Src) : Rests s (s.read a).2 := by
  cases a with
  | q q => exact rests_setCore fun k => Core.untouched_popQueue _ q k
  | e p => exact rests_setThread (s.me.untouched_popElement p)
  | g _ | w _ | lit32 _ | lit64 _ | small _ => exact .refl s

theorem runs_read {d : Option Dst} {c : Bool} (s : State) (a : Src) : Runs d c s (s.read a).2 := (rests_read s a).runs

end Sys2Proof.Machine

namespace Sys2Proof.Machine
open Sys2Proof

-- Frames: physical memory and the journal -----------------------------------------------------------------------------------------------

theorem Memory.read_length (m : List Host.Cell) (a n : Nat) : (Memory.read m a n).length = n := by
  induction n generalizing a with
  | zero => rfl
  | succ n ih => simp [Memory.read, ih]

theorem lineUnder_length (s : State) (g l : Nat) : (lineUnder s g l).length = 64 := by
  unfold lineUnder
  dsimp only
  split
  · exact Memory.read_length ..
  · exact natBytes_length ..

/-- Bytes outside a set of lines read as before, and memory stays canonical. -/
structure KeepsLines (p : Nat → Prop) (s t : State) : Prop where
  inv : Inv s → Inv t
  get : Inv s → ∀ a, ¬ p (a / 64) → Memory.get t.mem a = Memory.get s.mem a

theorem KeepsLines.refl (p : Nat → Prop) (s : State) : KeepsLines p s s := ⟨id, fun _ _ _ => rfl⟩

theorem KeepsLines.trans {p : Nat → Prop} {s t u : State} (h : KeepsLines p s t) (g : KeepsLines p t u) : KeepsLines p s u :=
  ⟨fun i => g.inv (h.inv i), fun i a n => (g.get (h.inv i) a n).trans (h.get i a n)⟩

theorem keepsLines_rawWrite {p : Nat → Prop} (s : State) (a : Nat) (bs : List Byte) (h : ∀ i, i < bs.length → p ((a + i) / 64)) :
    KeepsLines p s (rawWrite s a bs) := by
  refine ⟨fun i => rawWrite_wf i a bs, fun i b n => Memory.get_write_outside i ?_⟩
  by_contra e
  have := h (b - a) (by omega)
  rw [show a + (b - a) = b by omega] at this
  exact n this

theorem keepsLines_rekey {p : Nat → Prop} (s : State) (g l : Nat) (h : p l) : KeepsLines p s (rekey s g l) := by
  refine ⟨fun i => rekey_wf i g l, fun i b n => ?_⟩
  unfold rekey
  split
  · rfl
  · refine Memory.get_write_outside i ?_
    rw [lineUnder_length]
    by_contra e
    have : b / 64 = l := by omega
    exact n (this ▸ h)

theorem keepsLines_rekeys {p : Nat → Prop} (s : State) (g l n : Nat) (h : ∀ i, i < n → p (l + i)) :
    KeepsLines p s (iter (fun i s => rekey s g (l + i)) n s) := by
  induction n with
  | zero => exact .refl p s
  | succ n ih => exact (ih fun i hi => h i (by omega)).trans (keepsLines_rekey _ g _ (h n (by omega)))

/-- A physical write changes bytes of the lines that it touches. -/
theorem keepsLines_physWrite {p : Nat → Prop} (s : State) (g a : Nat) (bs : List Byte)
    (h : ∀ l, a / 64 ≤ l → l ≤ (a + bs.length - 1) / 64 → p l) : KeepsLines p s (physWrite s g a bs) := by
  unfold physWrite
  split
  · exact .refl p s
  · have hw : ∀ i, i < bs.length → p ((a + i) / 64) := fun i hi => h _ (by omega) (by omega)
    split
    · exact keepsLines_rawWrite s a bs hw
    · exact (keepsLines_rekeys s g _ _ fun i hi => h _ (by omega) (by omega)).trans (keepsLines_rawWrite _ a bs hw)

theorem rekeys_eq (s : State) (g l n : Nat) : ∃ mem gen, iter (fun i s => rekey s g (l + i)) n s = { s with mem := mem, lineGen := gen } := by
  induction n with
  | zero => exact ⟨_, _, rfl⟩
  | succ n ih =>
    obtain ⟨m, e, h⟩ := ih
    rw [iter, h, rekey]
    split
    · exact ⟨_, _, rfl⟩
    · exact ⟨_, _, rfl⟩

/-- A physical write changes memory, its poison and its generations, and nothing else. -/
theorem physWrite_eq (s : State) (g a : Nat) (bs : List Byte) : ∃ mem written poison gen,
    physWrite s g a bs = { s with mem := mem, written := written, poison := poison, lineGen := gen } := by
  unfold physWrite
  split
  · exact ⟨_, _, _, _, rfl⟩
  · split
    · exact ⟨_, _, _, _, rfl⟩
    · obtain ⟨m, e, h⟩ := rekeys_eq s g (a / 64) ((a + bs.length - 1) / 64 - a / 64 + 1)
      rw [h]
      exact ⟨_, _, _, _, rfl⟩

theorem fire_eq (s : State) (n : Nat) : ∃ harts, fire s n = { s with harts := harts } := by
  simp only [fire]
  split
  · split <;> exact ⟨_, rfl⟩
  · exact ⟨_, rfl⟩

theorem headOn_eq (u : State) : ∃ harts, headOn u = { u with harts := harts, wharf := { u.wharf with jHead := u.wharf.jHead + 1 } } := by
  unfold headOn
  dsimp only
  split
  · obtain ⟨x, h⟩ := fire_eq { u with wharf := { u.wharf with jHead := u.wharf.jHead + 1 } } 66
    exact ⟨x, h⟩
  · exact ⟨_, rfl⟩

theorem takePad_length {α : Type} (d : α) (n : Nat) (l : List α) : (takePad d n l).length = n := by
  induction n generalizing l with
  | zero => rfl
  | succ n ih => cases l <;> simp [takePad, ih]

theorem jBytes_length (j : JRef) (n : Nat) : (jBytes j n).length = 64 := by
  simp [jBytes, natBytes_length, takePad_length]

theorem journaled_journal (s : State) (source : BitVec 20) (kind status refusal : Nat) (tag : Half) (detail : List Word) :
    Effect true s (journal s source kind status refusal tag detail).2 := by
  let j : JRef := { seq := s.wharf.jHead.toNat, w1 := jWord1 source kind status refusal tag, accepted := s.mtime, detail := detail }
  show Effect true s (headOn (writeEntry s j))
  obtain ⟨m, w, po, ge, hw⟩ := physWrite_eq s (keyGen s 0) (s.wharf.jBase.toNat + 64 * (j.seq % 2 ^ 20)) (jBytes j s.mtime)
  obtain ⟨x, hh⟩ := headOn_eq (writeEntry s j)
  have keep := keepsLines_physWrite (p := fun l => InEntry s (64 * l)) s (keyGen s 0) (s.wharf.jBase.toNat + 64 * (j.seq % 2 ^ 20))
    (jBytes j s.mtime) fun l h1 h2 => by
      rw [jBytes_length] at h2
      simp only [j] at h1 h2
      exact ⟨by omega, by omega⟩
  have hm : Inv s → ∀ a, ¬ InEntry s a → Memory.get (headOn (writeEntry s j)).mem a = Memory.get s.mem a := fun i a n => by
    rw [hh]
    refine keep.get i a fun k => n ?_
    simp only [InEntry] at k ⊢
    exact ⟨by omega, by omega⟩
  refine ⟨hm, ?_, ?_⟩
  · rw [hh, writeEntry, hw]
    exact .inr rfl
  · rw [hh, writeEntry, hw]
    exact ⟨rfl, rfl, rfl, rfl, rfl, rfl, rfl, rfl, rfl⟩

-- Frames: boundaries -----------------------------------------------------------------------------------------------------------------------------

theorem rests_trapRelaxed (s : State) (c : Nat) (k : Fin 16) (before : Option Blocked) (done : Bool) (cause : Nat) (x : Access) (a b : Word) :
    Rests s (s.trapRelaxed c k before done cause x a b) := (rests_trapThread s ..).trans rests_setThread_st

theorem rests_parkRelaxed (s : State) (c : Nat) (k : Fin 16) (r : Relaxed) : Rests s (parkRelaxed s c k r) := by
  unfold parkRelaxed
  extract_lets t was gone
  have hg : Rests s gone := rests_setThread_same
  split
  · exact hg.trans (rests_trapRelaxed gone ..)
  · split
    · exact hg.trans (rests_trapRelaxed gone ..)
    · split
      · exact hg.trans (rests_trapRelaxed gone ..)
      · exact rests_setThread_st

/-- What meets a thread at a boundary: a watchdog trap, the park of a failed relaxed access, or a park that is due. -/
theorem rests_boundary {s : State} {c : Nat} {k : Fin 16} {t : Thread} (h : (s.thread c k).sameRegs t) (hst : ∀ b, t.st ≠ .blocked b) :
    Rests s (s.boundary c k t) := by
  unfold State.boundary
  extract_lets u
  have hu : Rests s u := rests_setThread_st h
  have hm : u.thread c k = { t with st := .runnable } := State.thread_setThread_self ..
  have regs : ∀ x : Thread, t.sameRegs x → (u.thread c k).sameRegs x := fun x g => by rw [hm]; exact g
  split
  · exact (hu.trans (rests_setThread_st (regs t ⟨rfl, rfl, rfl, rfl, rfl, rfl, rfl⟩) hst)).trans (rests_trapThread ..)
  · split
    · exact hu.trans (rests_parkRelaxed u ..)
    · split
      · exact hu.trans (rests_setThread_st (regs _ ⟨rfl, rfl, rfl, rfl, rfl, rfl, rfl⟩))
      · exact hu

theorem Thread.untouched_kpark (t : Thread) : t.Untouched t.kpark := by
  have same : ∀ x : Thread, t.sameRegs x → (∀ b, x.st = .blocked b → t.st = .blocked b) → t.Untouched x := fun _ h g => ⟨h, g⟩
  unfold Thread.kpark
  split
  · split
    · exact same _ ⟨rfl, rfl, rfl, rfl, rfl, rfl, rfl⟩ fun _ h => h
    · exact same _ ⟨rfl, rfl, rfl, rfl, rfl, rfl, rfl⟩ nofun
  · exact same _ ⟨rfl, rfl, rfl, rfl, rfl, rfl, rfl⟩ nofun
  · exact same _ ⟨rfl, rfl, rfl, rfl, rfl, rfl, rfl⟩ fun _ h => h
  · exact same _ ⟨rfl, rfl, rfl, rfl, rfl, rfl, rfl⟩ nofun
  · exact .refl t
  · exact .refl t

theorem rests_settleThread (s : State) (c : Nat) (k : Fin 16) : Rests s (s.settleThread c k) := by
  unfold State.settleThread
  extract_lets t _ now
  have hn : Rests s now := by
    unfold now
    split
    · exact rests_trapThread s ..
    · split
      · exact rests_parkRelaxed s ..
      · split
        · exact rests_setThread (x := { t.kpark with parkDue := false }) ⟨t.untouched_kpark.1, t.untouched_kpark.2⟩
        · exact .refl s
  split
  · next hst => exact rests_boundary ⟨rfl, rfl, rfl, rfl, rfl, rfl, rfl⟩ (by rw [hst]; nofun)
  · exact hn
  · exact hn
  · exact .refl s

-- Frames: destinations ----------------------------------------------------------------------------------------------------------------------------

/-- A command of the executing thread is accepted: a collective one is journaled. -/
theorem runs_accept {d : Option Dst} (s : State) (m : Cmd) (hc : m.core = s.core) (hk : m.slot = s.slot) : Runs d (m.port == 2) s (s.accept m) := by
  unfold State.accept
  extract_lets e x r m' u t p y v
  have hr : Runs d (m.port == 2) s r.2 := by
    unfold r
    split
    · next h =>
      have ha := aloof_journal s (taOf s m.core m.slot) jCollective stAccepted 0 m.tag [blkWord m.words 0, blkWord m.words 4, blkWord m.words 5]
      have hq := fun c k => (ha.apart c k).thread
      refine ⟨⟨ha.core, ha.slot, fun c k _ => .of_eq (hq c k)⟩, ?_, by rw [h]; exact journaled_journal ..⟩
      refine (Thread.Untouched.of_eq ?_).writes d
      rw [State.me, ha.core, ha.slot, hq]; rfl
    · exact .refl s
  have hu : Runs d (m.port == 2) s u := hr.andThen (rests_setEngine _ _ _).runs
  refine Runs.andThen (u := v) ?_ (rests_count _ _ _ _ _).runs
  have e1 : m'.core = u.core := hc.trans hu.beside.core.symm
  have e2 : m'.slot = u.slot := hk.trans hu.beside.slot.symm
  show Runs d (m.port == 2) s (u.setThread m'.core m'.slot _)
  rw [e1, e2]
  refine hu.andThen (runs_setMe (x := t.setPort p _) ?_)
  have ht : t = u.me := by unfold t; rw [e1, e2]; rfl
  rw [ht]
  exact .of_st rfl rfl rfl rfl rfl rfl (.inl rfl)

theorem submission_port {s : State} {p : Fin 4} {b : List Word} {m : Cmd} (h : submission s p b = .ok m) : m.port = p.val := by
  simp only [submission] at h
  split at h
  · cases h
  · split at h
    · cases h
    · split at h
      · cases h
      · split at h
        · cases h
        · cases h
        · cases h; rfl

theorem runs_submit {d : Option Dst} (s : State) (p : Fin 4) (b : List Word) (pc : Option Word) (clear : Bool) :
    Runs d (p == 2) s (s.submit p b pc clear) := by
  unfold State.submit
  split
  · exact runs_trap s ..
  · exact runs_trap s ..
  · rename_i m hm
    extract_lets u _ v
    have hv : Runs none false s v := by
      unfold v
      split
      · exact (runs_move s pc).then runs_setMe_same
      · exact runs_move s pc
    obtain ⟨hc, hk⟩ := submission_thread hm
    split
    · refine hv.then ((runs_accept v m (hc.trans hv.beside.core.symm) (hk.trans hv.beside.slot.symm)).mono fun h => ?_)
      rw [submission_port hm] at h
      rw [beq_iff_eq] at h ⊢
      exact Fin.ext h
    · exact hv.then (runs_remove v _)

/-- A destination is written: of the thread's registers it alone changes, and the eighth word of a collective command may be journaled. -/
theorem runs_finish (s : State) (d : Dst) (v : Word) (pc : Option Word) : Runs (some d) (d == .e 2) s (s.finish d v pc) := by
  cases d with
  | g i => exact (runs_setMe (s.me.writes_setG i v)).andThen (runs_move _ pc)
  | w i => exact (runs_setMe (s.me.writes_setW i v)).andThen (runs_move _ pc)
  | q q =>
    simp only [State.finish]
    split
    · exact (runs_move s pc).then (runs_block _ _ nofun)
    · exact Runs.then (rests_setCore fun k => Core.untouched_pushQueue _ q v k).runs (runs_move _ pc)
  | e p =>
    simp only [State.finish]
    split
    · exact Runs.then (Rests.runs rests_setThread_same) (runs_move _ pc)
    · refine (runs_submit s p _ pc true).mono fun h => ?_
      rw [beq_iff_eq] at h ⊢
      rw [h]

theorem runs_result (s : State) (i : Instr) (d : Dst) (v : Word) : Runs (some d) (d == .e 2) s (s.result i d v) := runs_finish s d v _

theorem rests_settleDone (s : State) : Rests s s.settleDone := rests_settleThread s ..

theorem runs_settleDone {d : Option Dst} {c : Bool} (s : State) : Runs d c s s.settleDone := (rests_settleDone s).runs

theorem runs_complete (s : State) (d : Dst) (v : Word) (pc : Option Word) : Runs (some d) (d == .e 2) s (s.complete d v pc) := by
  have step : ∀ x : Thread, s.me.Writes none x → ∀ pc, Runs (some d) (d == .e 2) s ((({ s with iword := s.me.issuedWord } : State).setMe x).finish d v pc) :=
    fun x hx pc => by
      have h1 : Runs none false s (({ s with iword := s.me.issuedWord } : State).setMe x) :=
        Runs.then (u := { s with iword := s.me.issuedWord }) (Rests.runs rests_of_cores) (runs_setMe hx)
      exact h1.then (runs_finish _ d v pc)
  unfold State.complete
  split
  · rename_i a
    exact (step { s.me with st := .runnable } (.of_st rfl rfl rfl rfl rfl rfl (.inr nofun)) (some a)).andThen (runs_settleDone _)
  · have h1 := step { s.me with st := .runnable, pc := s.me.issuedPc } (.of_st rfl rfl rfl rfl rfl rfl (.inr nofun)) none
    extract_lets _ _ u
    have hu : Runs (some d) (d == .e 2) s u := h1
    split
    · exact hu
    · exact hu.andThen (Runs.then runs_setMe_same (runs_settleDone _))

theorem runs_completePc {d : Option Dst} {c : Bool} (s : State) (pc : Option Word) : Runs d c s (s.completePc pc) :=
  Runs.then (Rests.runs rests_setThread_st) ((runs_move _ pc).then (runs_settleDone _))

-- Frames: records of an instruction -----------------------------------------------------------------------------------------------------------------

theorem runs_sent {d : Option Dst} {c : Bool} (s : State) (r : Record) (awaits : Bool) : Runs d c s (s.sent r awaits) := by
  unfold State.sent
  extract_lets u v
  have hv : Runs none false s v := by
    unfold v
    split
    · exact ((rests_post s _ r).trans (rests_count _ _ _ _ _)).runs
    · exact (rests_post s _ r).runs
  split
  · exact hv.then (runs_remove v _)
  · exact hv.quiet

theorem runs_send {d : Option Dst} {c : Bool} (s : State) (i : Instr) (r : Record) (awaits : Bool) : Runs d c s (s.send i r awaits) := by
  unfold State.send
  extract_lets u
  have hu : Runs none false s u := runs_advance s i
  split
  · exact hu.then (runs_sent u r awaits)
  · exact hu.then (runs_remove u _)

end Sys2Proof.Machine

namespace Sys2Proof.Machine
open Sys2Proof

-- Frames: what a walk changes ---------------------------------------------------------------------------------------------------------------

/-- An entry of a table lies below the Basins, at a multiple of 8. -/
def TableAddress (a : Nat) : Prop := a < basinBase ∧ a % 8 = 0

theorem entryRead_table {s : State} {a : Nat} {r : Nat × Word} (h : entryRead s a = .ok r) (h8 : a % 8 = 0) : TableAddress r.1 := by
  unfold entryRead at h
  by_cases hp : populated s a 8 = true
  · simp only [hp, Bool.not_true, Bool.false_eq_true, if_false] at h
    cases ht : tableRead s a with
    | error c => rw [ht] at h; cases h
    | ok e =>
      rw [ht] at h
      cases h
      refine ⟨?_, h8⟩
      unfold populated at hp
      unfold basinBase
      by_contra hb
      rw [if_neg (by omega), if_neg (by omega)] at hp
      cases hp
  · rw [Bool.not_eq_true] at hp
    simp [hp] at h
    cases h

theorem nodeRead_table {s : State} {p : Word} {i : Nat} {r : Nat × Word} (h : nodeRead s p i = .ok r) : TableAddress r.1 := by
  unfold nodeRead at h
  split at h
  · exact entryRead_table h (by unfold frameOf pageBytes; omega)
  · split at h
    · cases he : entryRead s (frameOf p + 8 * (i / 512)) with
      | error c => rw [he] at h; cases h
      | ok d =>
        rw [he] at h
        simp only [bind, Except.bind] at h
        split at h
        · cases h
        · exact entryRead_table h (by omega)
    · cases h

/-- A walk delivers a leaf whose entry lies in a table. -/
theorem walk_table {s : State} {base asid dva access : Nat} {l : Leaf} (h : walk s base asid dva access = .ok l) : TableAddress l.entry := by
  unfold walk at h
  simp only [bind, Except.bind, pure, Except.pure] at h
  split at h
  · cases h
  · split at h
    · cases h
    · split at h
      · cases h
      · next r1 h1 =>
        split at h
        · split at h
          · cases h
          · split at h
            · cases h
            · cases h; exact nodeRead_table h1
        · split at h
          · cases h
          · split at h
            · cases h
            · next r2 h2 =>
              split at h
              · cases h
              · split at h
                · cases h
                · split at h
                  · cases h
                  · cases h; exact nodeRead_table h2

/-- What reading an operand image may do before its instruction goes on: the thread writes nothing, and where pages are walked (`p`), table entries below the
Basins change. -/
structure Quietly (p : Prop) (s t : State) : Prop where
  beside : Beside s t
  me : s.me.Writes none t.me
  inv : Inv s → Inv t
  head : t.wharf.jHead = s.wharf.jHead
  base : t.wharf.jBase = s.wharf.jBase
  low : ¬ p → t.mem = s.mem
  high : Inv s → ∀ a, basinKey 0 0 ≤ a → Memory.get t.mem a = Memory.get s.mem a

/-- What an instruction that reads an operand image does: as a step of its thread, but table entries below the Basins may change where pages are walked
(13 R240). -/
structure Fetches (d : Option Dst) (c : Bool) (p : Prop) (s t : State) : Prop where
  beside : Beside s t
  me : s.me.Writes d t.me
  low : ¬ p → if c then Inv s → ∀ a, ¬ InEntry s a → Memory.get t.mem a = Memory.get s.mem a else MemoryKeeps s t
  high : Inv s → ∀ a, basinKey 0 0 ≤ a → (c = true → ¬ InEntry s a) → Memory.get t.mem a = Memory.get s.mem a

theorem Runs.quietly {p : Prop} {s t : State} (h : Runs none false s t) : Quietly p s t := by
  obtain ⟨hm, ⟨-, -, -, -, -, -, -, -, hh⟩, hb⟩ := State.outside_keeps h.effect.outside
  exact ⟨h.beside, h.me, fun i => by unfold Inv; rw [hm]; exact i, hh, hb, fun _ => hm, fun _ a _ => by rw [hm]⟩

theorem Runs.fetches {d : Option Dst} {c : Bool} {p : Prop} {s t : State} (h : Runs d c s t) : Fetches d c p s t := by
  refine ⟨h.beside, h.me, fun _ => ?_, fun i a _ n => ?_⟩
  · cases c with
    | false => exact memoryKeeps_of_outside h.effect
    | true => exact (show Journaled s t from h.effect).mem
  · cases c with
    | false => exact memoryKeeps_of_outside h.effect a
    | true => exact (show Journaled s t from h.effect).mem i a (n rfl)

theorem Quietly.refl (p : Prop) (s : State) : Quietly p s s := (Runs.refl s).quietly

theorem Quietly.trans {p : Prop} {s t u : State} (h : Quietly p s t) (g : Quietly p t u) : Quietly p s u where
  beside := h.beside.trans g.beside
  me := h.me.trans g.me
  inv i := g.inv (h.inv i)
  head := g.head.trans h.head
  base := g.base.trans h.base
  low n := (g.low n).trans (h.low n)
  high i a n := (g.high (h.inv i) a n).trans (h.high i a n)

theorem Quietly.inEntry {p : Prop} {s t : State} (h : Quietly p s t) (a : Nat) : InEntry t a ↔ InEntry s a := by
  unfold InEntry
  rw [h.head, h.base]

theorem Quietly.then {d : Option Dst} {c : Bool} {p : Prop} {s t u : State} (h : Quietly p s t) (g : Fetches d c p t u) : Fetches d c p s u where
  beside := h.beside.trans g.beside
  me := h.me.of_none.trans g.me
  low n := by
    have hg := g.low n
    have hm := h.low n
    cases c with
    | false => exact fun a => by rw [hg a, hm]
    | true =>
      simp only [if_true] at hg ⊢
      exact fun i a e => by rw [hg (h.inv i) a fun k => e ((h.inEntry a).mp k), hm]
  high i a n e := (g.high (h.inv i) a n fun k j => e k ((h.inEntry a).mp j)).trans (h.high i a n)

theorem Quietly.fetches {d : Option Dst} {c : Bool} {p : Prop} {s t : State} (h : Quietly p s t) : Fetches d c p s t := h.then (Runs.refl t).fetches

/-- What changes no core nor the wharf, and memory at most below the Basins where pages are walked. -/
theorem quietly_of_cores {p : Prop} {s t : State} (h : t.cores = s.cores) (i : t.coreInit = s.coreInit) (hc : t.core = s.core) (hs : t.slot = s.slot)
    (hw : t.wharf = s.wharf) (hl : ¬ p → t.mem = s.mem) (hk : KeepsLines (· < basinBase / 64) s t) : Quietly p s t := by
  have e : ∀ c k, t.thread c k = s.thread c k := fun c k => by rw [State.thread, State.getCore_congr h i]; rfl
  refine ⟨⟨hc, hs, fun c k _ => .of_eq (e c k)⟩, (Thread.Untouched.of_eq (by rw [State.me, hc, hs, e]; rfl)).writes _, hk.inv, by rw [hw], by rw [hw], hl,
    fun j a n => hk.get j a ?_⟩
  simp only [basinKey, basinBase] at n ⊢
  omega

theorem quietly_of_mem {p : Prop} {s t : State} (h : t.cores = s.cores) (i : t.coreInit = s.coreInit) (hc : t.core = s.core) (hs : t.slot = s.slot)
    (hw : t.wharf = s.wharf) (hm : t.mem = s.mem) : Quietly p s t :=
  quietly_of_cores h i hc hs hw (fun _ => hm) ⟨fun j => by unfold Inv; rw [hm]; exact j, fun _ a _ => by rw [hm]⟩

theorem quietly_fire {p : Prop} (s : State) (n : Nat) : Quietly p s (fire s n) := by
  obtain ⟨x, h⟩ := fire_eq s n
  rw [h]
  exact quietly_of_mem rfl rfl rfl rfl rfl rfl

/-- A bit of a table entry is set. -/
theorem quietly_orEntry {p : Prop} (hp : p) {s : State} {a : Nat} (h : TableAddress a) (w : Word) : Quietly p s (orEntry s a w) := by
  have hk : KeepsLines (· < basinBase / 64) s (orEntry s a w) := by
    unfold orEntry setPhysWord
    refine keepsLines_physWrite s _ a _ fun l _ h2 => ?_
    rw [natBytes_length] at h2
    obtain ⟨ha, h8⟩ := h
    simp only [basinBase] at ha ⊢
    omega
  obtain ⟨m, wr, po, ge, e⟩ := physWrite_eq s (keyGen s 0) a (natBytes 8 (physWord s a ||| w).toNat)
  have e' : orEntry s a w = { s with mem := m, written := wr, poison := po, lineGen := ge } := e
  refine quietly_of_cores ?_ ?_ ?_ ?_ ?_ (fun n => absurd hp n) hk <;> rw [e']

theorem quietly_deliver {p : Prop} (hp : p) {s : State} {l : Leaf} (h : TableAddress l.entry) (cl : Nat) : Quietly p s (deliver s cl l) := by
  unfold deliver
  extract_lets u
  have hu : Quietly p s u := by
    unfold u
    split
    · exact .refl p s
    · exact quietly_orEntry hp h _
  exact hu.trans (quietly_of_mem rfl rfl rfl rfl rfl rfl)

theorem quietly_ensurePages {p : Prop} (hp : p) (s : State) (cl asid access : Nat) (l : List Nat) : Quietly p s (ensurePages s cl asid access l).1 := by
  induction l generalizing s with
  | nil => exact .refl p s
  | cons n l ih =>
    unfold ensurePages
    split
    · exact ih s
    · exact .refl p s
    · split
      · exact .refl p s
      · next f hf => exact (quietly_deliver hp (walk_table hf) cl).trans (ih _)

/-- Only the dies' home-side caches change. -/
def OnDies (s t : State) : Prop := ∃ dies, t = { s with dies := dies }

theorem OnDies.trans {s t u : State} (h : OnDies s t) (g : OnDies t u) : OnDies s u := by
  obtain ⟨x, rfl⟩ := h
  obtain ⟨y, rfl⟩ := g
  exact ⟨y, rfl⟩

theorem onDies_iter {f : Nat → State → State} (h : ∀ n s, OnDies s (f n s)) (n : Nat) (s : State) : OnDies s (iter f n s) := by
  induction n with
  | zero => exact ⟨_, rfl⟩
  | succ n ih => exact ih.trans (h n _)

theorem onDies_cacheLine (s : State) (pa g : Nat) : OnDies s (cacheLine s pa g) := by
  simp only [cacheLine]
  split
  · exact ⟨_, rfl⟩
  · split <;> exact ⟨_, rfl⟩

theorem onDies_homeLine (s : State) (g l : Nat) : OnDies s (homeLine s g l) := by
  unfold homeLine
  split
  · exact onDies_cacheLine ..
  · exact ⟨_, rfl⟩

theorem onDies_leafLines (s : State) (l : Leaf) (pa n : Nat) : OnDies s (leafLines s l pa n) := by
  unfold leafLines homeLines
  dsimp only
  split
  · exact onDies_iter (fun i s => onDies_cacheLine s _ _) _ s
  · exact onDies_iter (fun i s => onDies_homeLine s _ _) _ s

theorem onDies_dvaTouch (s : State) (ps : List (Leaf × Nat × Nat)) : OnDies s (dvaTouch s ps) := by
  induction ps generalizing s with
  | nil => exact ⟨_, rfl⟩
  | cons x ps ih => exact (onDies_leafLines s _ _ _).trans (ih _)

theorem OnDies.quietly {p : Prop} {s t : State} (h : OnDies s t) : Quietly p s t := by
  obtain ⟨x, rfl⟩ := h
  exact quietly_of_mem rfl rfl rfl rfl rfl rfl

/-- A state as it was, but for what walks delivered meanwhile. -/
theorem quietly_keepWalks {p : Prop} {before s : State} (h : Quietly p before s) : Quietly p before (before.keepWalks s) :=
  ⟨⟨rfl, rfl, fun _ _ _ => .refl _⟩, .refl _ _, h.inv, rfl, rfl, h.low, h.high⟩

theorem rests_faultThread (s : State) (c : Nat) (k : Fin 16) (code access dva : Nat) (acc : Option (Bool × Access)) (word : W32) :
    Rests s (s.faultThread c k code access dva acc word) := by
  unfold State.faultThread
  dsimp only
  split
  · split
    · exact rests_trapThread s ..
    · exact rests_trapThread s ..
  · exact Rests.trans rests_setThread_st (rests_post _ _ _)

/-- Bytes at a key are read, or their poison traps. -/
theorem imageAt_cases {p : Prop} (s : State) (key addr n : Nat) (f : List Byte → State → State) :
    Quietly p s (s.imageAt key addr n f) ∨ ∃ bs, s.imageAt key addr n f = f bs s := by
  unfold State.imageAt
  split
  · exact .inl ((quietly_fire s 65).trans (runs_trap (fire s 65) ..).quietly)
  · exact .inr ⟨_, rfl⟩

/-- Reading an image ends without it, the instruction to be issued again or trapped, or goes on with its bytes. -/
theorem image_cases {p : Prop} {before s : State} (off : Word) (n align : Nat) (f : List Byte → State → State) (hs : Quietly p before s)
    (hk : (s.me.sg.get 0).kind = 3 → p) :
    Quietly p before (s.image before off n align f) ∨ ∃ bs u, Quietly p before u ∧ s.image before off n align f = f bs u := by
  have at' : ∀ key a, Quietly p before (s.imageAt key a n f) ∨ ∃ bs u, Quietly p before u ∧ s.imageAt key a n f = f bs u := fun key a =>
    (imageAt_cases s key a n f).imp hs.trans fun ⟨bs, e⟩ => ⟨bs, s, hs, e⟩
  unfold State.image
  dsimp only
  split
  · exact .inl (hs.trans (runs_trap s ..).quietly)
  · next a ha =>
    have hlt : (s.me.sg.get 0).kind < 4 := by
      by_contra hlt
      rw [segCheck, if_pos (by omega)] at ha
      cases ha
    split
    · exact at' ..
    · exact at' ..
    · exact at' ..
    · next h0 h1 h2 =>
      have hp : p := hk (by
        have : (s.me.sg.get 0).kind ≠ 0 := h0
        have : (s.me.sg.get 0).kind ≠ 1 := h1
        have : (s.me.sg.get 0).kind ≠ 2 := h2
        omega)
      have he := quietly_ensurePages hp s (clusterOf s.core) (asidOf s s.me s.slot) 0 (pagesOf a n)
      split
      · next u c q hu =>
        rw [hu] at he
        have hw := quietly_keepWalks (hs.trans he)
        exact .inl (hw.trans (rests_faultThread ..).runs.quietly)
      · next u hu =>
        rw [hu] at he
        have hu' := hs.trans he
        split
        · exact .inl (quietly_keepWalks hu')
        · split
          · exact .inl (hu'.trans ((quietly_fire u 65).trans (runs_trap (fire u 65) ..).quietly))
          · exact .inr ⟨_, _, hu'.trans (onDies_dvaTouch u _).quietly, rfl⟩

end Sys2Proof.Machine

namespace Sys2Proof.Machine
open Sys2Proof

-- Frames: the weir's instructions -----------------------------------------------------------------------------------------------------------

theorem mayCollect_of_dst {i : Instr} {d : Dst} (h : instrDst i = some d) (e : (d == .e 2) = true) : mayCollect i = true := by
  unfold mayCollect
  rw [h, beq_iff_eq.mp e]
  rfl

/-- An instruction writes its own destination, and journals only where it may. -/
theorem runs_result_of {i : Instr} {d : Dst} (h : instrDst i = some d) (s : State) (v : Word) :
    Runs (instrDst i) (mayCollect i) s (s.result i d v) := by
  rw [h]
  exact (runs_result s i d v).mono fun e => mayCollect_of_dst h e

theorem runs_stamp {d : Option Dst} {c : Bool} (s : State) : Runs d c s s.stamp := runs_setMe_same

theorem runs_joinWeir {d : Option Dst} {c : Bool} (s : State) (i : Instr) (j : WeirJob) : Runs d c s (s.joinWeir i j) :=
  Runs.then (Rests.runs rests_setCore_slots) ((runs_remove _ _).then (runs_stamp _))

theorem runs_readWeir {i : Instr} {d : Dst} (h : instrDst i = some d) (job : WeirJob) (f : Weir → Word) (s : State) :
    Runs (instrDst i) (mayCollect i) s (readWeir i d job f s) := by
  unfold readWeir
  split
  · exact runs_result_of h s _
  · exact runs_joinWeir ..

theorem runs_runStateFault {d : Option Dst} {c : Bool} (s : State) : Runs d c s s.runStateFault := by
  unfold State.runStateFault
  extract_lets x w mine faulted u
  exact Runs.then (u := u) (Rests.runs rests_setCore_slots) (Runs.then runs_setMe_same (runs_trap (u.setMe { u.me with runOpen := false }) ..))

theorem runs_startRun {d : Option Dst} {c : Bool} (s : State) (i : Instr) (mode kt : Nat) (a b n : Word) : Runs d c s (s.startRun i mode kt a b n) := by
  unfold State.startRun
  dsimp only
  split
  · exact runs_runStateFault s
  split
  · exact runs_trap s ..
  split
  · exact runs_trapOpen s _
  split
  · exact runs_trapOpen s _
  split
  · exact runs_advance s i
  split
  · exact runs_trap s ..
  split
  · exact runs_trap s ..
  split
  · exact runs_joinWeir ..
  split
  · exact runs_trap s ..
  · exact runs_joinWeir ..

theorem runs_access_wld {d : Option Dst} {c : Bool} (s : State) (i : Instr) (first lines : Nat) (sg : Fin 8) (off : Word) :
    Runs d c s (s.access i (.wld first lines) false sg off 0 0 0) := by
  unfold State.access
  dsimp only
  split
  · exact runs_trap s ..
  · exact Runs.then (runs_remove s _) (runs_stamp _)

theorem runs_wld {d : Option Dst} {c : Bool} {s t : State} {sg : Fin 8} {a b : Src} (h : exec (.wld sg a b) s = .next t) : Runs d c s t := by
  rw [exec, execWld, Host.Outcome.next.injEq] at h
  subst h
  refine runs_gated ((runs_read s a).then ((runs_read _ b).then ?_))
  dsimp only
  split
  · exact runs_trap _ ..
  split
  · exact runs_trapOpen ..
  split
  · exact runs_trap _ ..
  split
  · exact runs_advance ..
  · exact runs_access_wld ..

/-- Every weir instruction, as it issues. -/
theorem runs_weir {s t : State} {i : Instr} (hi : isWeir i = true) (h : exec i s = .next t) : Runs (instrDst i) (mayCollect i) s t := by
  cases i with
  | wld sg a b => exact runs_wld h
  | wrun kt n a b =>
    cases h
    exact runs_gated ((runs_read s a).then ((runs_read _ b).then ((runs_read _ n).then (runs_startRun ..))))
  | wrunO kt a =>
    cases h
    exact runs_gated ((runs_read s a).then (runs_startRun ..))
  | wrunC kt a b =>
    cases h
    exact runs_gated ((runs_read s a).then ((runs_read _ b).then (runs_startRun ..)))
  | waccS col d =>
    cases h
    exact runs_gated (runs_readWeir rfl ..)
  | waccU col d a | waccD col d a | waccP col d a | wstat d a =>
    cases h
    exact runs_gated ((runs_read s a).then (runs_readWeir rfl ..))
  | wclr =>
    cases h
    refine runs_gated ?_
    dsimp only
    split
    · exact Runs.then (Rests.runs rests_setCore_slots) (runs_advance ..)
    · exact runs_joinWeir ..
  | _ => exact absurd hi Bool.false_ne_true

theorem weirFrame : Claims.WeirFrame := fun _ _ _ hi h =>
  have r := runs_weir hi h
  ⟨r.effect.memoryKeepsBy, r.effect.deviceKeepsBy, r.beside.othersKeep, r.beside.core, r.beside.slot, r.me.v, r.me.m, r.me.sg, r.me.special,
    r.me.g, r.me.w⟩

end Sys2Proof.Machine

namespace Sys2Proof.Machine
open Sys2Proof

-- Frames: control instructions ----------------------------------------------------------------------------------------------------------------

@[simp] theorem Thread.special_decided (t : Thread) (pc : Word) (taken : Bool) : (t.decided pc taken).special = t.special := by
  unfold Thread.decided Thread.performedAs
  split
  · split <;> rfl
  · rfl

theorem Thread.writes_decided (t : Thread) (pc : Word) (taken : Bool) : t.Writes none (t.decided pc taken) := by
  refine .of_st ?_ ?_ ?_ ?_ ?_ (t.special_decided pc taken) (.inl ?_) <;>
  · unfold Thread.decided Thread.performedAs
    split
    · split <;> rfl
    · rfl

theorem runs_branch {d : Option Dst} {c : Bool} {n : Nat} (s : State) (i : Instr) (off : BitVec n) (taken : Bool) : Runs d c s (s.branch i off taken) :=
  runs_setMe (s.me.writes_decided _ taken).of_none

theorem runs_giveWay {d : Option Dst} {c : Bool} (s : State) (i : Instr) : Runs d c s (s.giveWay i) := (runs_advance s i).then runs_setMe_same

theorem runs_windowTrap {d : Option Dst} {c : Bool} (s : State) : Runs d c s s.windowTrap := runs_trap s ..

/-- A control instruction that is no call, no return and no alarm writes no register at all; end in a motor in slot 0 is shut out. -/
theorem runs_control {s t : State} {i : Instr} (hi : isControl i = true) (he : i = .endT → ∀ g r, s.me.tow ≠ .motor g r) (hc : ∀ o, i ≠ .call o)
    (hr : ∀ a, i ≠ .callr a) (hret : i ≠ .ret) (ha : ∀ a, i ≠ .alarm a) (h : exec i s = .next t) : Runs none false s t := by
  cases i with
  | b off => cases h; exact runs_branch ..
  | br cc a b off => cases h; exact runs_gated ((runs_read s a).then ((runs_read _ b).then (runs_branch ..)))
  | bz a off | bnz a off => cases h; exact runs_gated ((runs_read s a).then (runs_branch ..))
  | jmp a =>
    cases h
    refine runs_gated ?_
    dsimp only
    split
    · exact runs_trapOpen s _
    · exact (runs_read s a).then (runs_goTo ..)
  | endT =>
    cases h
    refine runs_gated ?_
    split
    · exact runs_remove s _
    · split
      · next g r hm => exact absurd hm (he rfl g r)
      · exact runs_giveWay s _
  | yield => cases h; exact runs_giveWay s _
  | wait a =>
    cases h
    refine runs_gated ((runs_read s a).then ?_)
    dsimp only
    split
    · exact runs_advance ..
    · exact runs_block _ _ nofun
  | call o => exact absurd rfl (hc o)
  | callr a => exact absurd rfl (hr a)
  | ret => exact absurd rfl hret
  | alarm a => exact absurd rfl (ha a)
  | _ => exact absurd hi Bool.false_ne_true

/-- What a control instruction may do: beside its pc, a thread's window and its alarm change. -/
structure Controls (s t : State) : Prop where
  beside : Beside s t
  outside : t.outside = s.outside
  g : t.me.g = s.me.g
  v : t.me.v = s.me.v
  m : t.me.m = s.me.m
  sg : t.me.sg = s.me.sg
  special : { t.me.special with older := s.me.older, depth := s.me.depth, alarm := s.me.alarm } = s.me.special

theorem Thread.Writes.regs {t u : Thread} (h : t.Writes none u) : u.g = t.g ∧ u.w = t.w :=
  ⟨Vector.ext fun i hi => (h.g ⟨i, hi⟩).resolve_right nofun, Vector.ext fun i hi => (h.w ⟨i, hi⟩).resolve_right nofun⟩

theorem Runs.controls {s t : State} (h : Runs none false s t) : Controls s t :=
  ⟨h.beside, h.effect, h.me.regs.1, h.me.v, h.me.m, h.me.sg, by rw [h.me.special]; rfl⟩

theorem Runs.thenControls {s u t : State} (h : Runs none false s u) (g : Controls u t) : Controls s t where
  beside := h.beside.trans g.beside
  outside := g.outside.trans h.effect
  g := g.g.trans h.me.regs.1
  v := g.v.trans h.me.v
  m := g.m.trans h.me.m
  sg := g.sg.trans h.me.sg
  special := by
    have e := h.me.special
    have h1 : u.me.older = s.me.older := congrArg Special.older e
    have h2 : u.me.depth = s.me.depth := congrArg Special.depth e
    have h3 : u.me.alarm = s.me.alarm := congrArg Special.alarm e
    rw [← e, ← g.special, h1, h2, h3]

theorem controls_setMe {s : State} {x : Thread} (hg : x.g = s.me.g) (hv : x.v = s.me.v) (hm : x.m = s.me.m) (hs : x.sg = s.me.sg)
    (hp : { x.special with older := s.me.older, depth := s.me.depth, alarm := s.me.alarm } = s.me.special) : Controls s (s.setMe x) := by
  refine ⟨beside_setMe s x, rfl, ?_, ?_, ?_, ?_, ?_⟩ <;> rw [State.setMe_me] <;> assumption

theorem controls_callTo {s before : State} (h : Runs none false before s) (i : Instr) (dest : Word) : Controls before (s.callTo before i dest) := by
  unfold State.callTo
  dsimp only
  split
  · refine h.thenControls (controls_setMe ?_ ?_ ?_ ?_ ?_) <;> simp [Thread.enter, Thread.setW, Thread.special]
  · split
    · exact (h.then (runs_remove s _)).controls
    · exact (runs_windowTrap before).controls

theorem Controls.gated {s : State} {i : Instr} {f : State → State} (h : Controls s (f s)) : Controls s (s.gated i f) := by
  rcases s.gated_eq i f with e | ⟨g, e⟩
  · rw [e]; exact h
  · rw [e]; exact (runs_stop s g).controls

theorem controls_call {s t : State} {off : BitVec 26} (h : exec (.call off) s = .next t) : Controls s t := by
  cases h
  exact Controls.gated (controls_callTo (.refl s) _ _)

theorem controls_callr {s t : State} {a : Src} (h : exec (.callr a) s = .next t) : Controls s t := by
  cases h
  refine Controls.gated ?_
  dsimp only
  split
  · exact (runs_trapOpen s _).controls
  · exact controls_callTo (runs_read s a) _ _

theorem controls_ret {s t : State} (h : exec .ret s = .next t) : Controls s t := by
  cases h
  refine Controls.gated ?_
  dsimp only
  split
  · exact (runs_windowTrap s).controls
  · split
    · split
      · exact (runs_trapOpen s _).controls
      · refine controls_setMe ?_ ?_ ?_ ?_ ?_ <;> simp [Thread.restore, Thread.special]
    · split
      · exact (runs_remove s _).controls
      · exact (runs_windowTrap s).controls

/-- alarm writes the alarm, and nothing else. -/
theorem exec_alarm_cases {s t : State} {a : Src} (h : exec (.alarm a) s = .next t) :
    Runs none false s t ∨ ∃ u x, Runs none false s u ∧ t = u.setMe { u.me with alarm := x, alarmFrom := u.clk + 1 } := by
  cases h
  rcases s.gated_eq (.alarm a) _ with e | ⟨g, e⟩
  · exact .inr ⟨_, _, (runs_read s a).then (runs_advance _ (.alarm a)), e⟩
  · rw [e]; exact .inl (runs_stop s g)

theorem Thread.Writes.fields {d : Option Dst} {t u : Thread} (h : t.Writes d u) : u.older = t.older ∧ u.depth = t.depth ∧ u.alarm = t.alarm :=
  ⟨congrArg Special.older h.special, congrArg Special.depth h.special, congrArg Special.alarm h.special⟩

theorem controlFrame_control {s t : State} {i : Instr} (hi : isControl i = true) (he : i = .endT → ∀ g r, s.me.tow ≠ .motor g r)
    (h : exec i s = .next t) : Controls s t ∧ ((∀ o, i ≠ .call o) → (∀ a, i ≠ .callr a) → i ≠ .ret → t.me.w = s.me.w ∧
      { t.me.special with alarm := s.me.alarm } = s.me.special ∧ ((∀ a, i ≠ .alarm a) → t.me.alarm = s.me.alarm)) := by
  have other : Runs none false s t → Controls s t ∧ ((∀ o, i ≠ .call o) → (∀ a, i ≠ .callr a) → i ≠ .ret → t.me.w = s.me.w ∧
      { t.me.special with alarm := s.me.alarm } = s.me.special ∧ ((∀ a, i ≠ .alarm a) → t.me.alarm = s.me.alarm)) := fun r =>
    ⟨r.controls, fun _ _ _ => ⟨r.me.regs.2, by rw [r.me.special]; rfl, fun _ => r.me.fields.2.2⟩⟩
  by_cases hc : ∃ o, i = .call o
  · obtain ⟨o, rfl⟩ := hc
    exact ⟨controls_call h, fun n => absurd rfl (n o)⟩
  by_cases hr : ∃ a, i = .callr a
  · obtain ⟨a, rfl⟩ := hr
    exact ⟨controls_callr h, fun _ n => absurd rfl (n a)⟩
  by_cases hret : i = .ret
  · subst hret
    exact ⟨controls_ret h, fun _ _ n => absurd rfl n⟩
  by_cases ha : ∃ a, i = .alarm a
  · obtain ⟨a, rfl⟩ := ha
    rcases exec_alarm_cases h with r | ⟨u, x, r, rfl⟩
    · exact other r
    · refine ⟨r.thenControls (controls_setMe rfl rfl rfl rfl rfl), fun _ _ _ => ?_⟩
      rw [State.setMe_me]
      refine ⟨r.me.regs.2, ?_, fun n => absurd rfl (n a)⟩
      rw [← r.me.special, ← r.me.fields.2.2]
      rfl
  · exact other (runs_control hi he (fun o e => hc ⟨o, e⟩) (fun a e => hr ⟨a, e⟩) hret (fun a e => ha ⟨a, e⟩) h)

-- Frames: wrs --------------------------------------------------------------------------------------------------------------------------------------

/-- A core keeps the keeper's registers. -/
def Core.KeepsKeeper (x y : Core) : Prop := y.kca = x.kca ∧ y.ksl = x.ksl ∧ y.lvl = x.lvl

theorem keepsKeeper_setMe (s : State) (x : Thread) : s.myCore.KeepsKeeper (s.setMe x).myCore := by
  rw [State.myCore_setMe]
  exact ⟨rfl, rfl, rfl⟩

theorem keepsKeeper_popQueue (x : Core) (q : Fin 8) : x.KeepsKeeper (x.popQueue q).2 := by
  unfold Core.popQueue
  split
  · exact ⟨rfl, rfl, rfl⟩
  · dsimp only
    split
    · split <;> exact ⟨rfl, rfl, rfl⟩
    · exact ⟨rfl, rfl, rfl⟩

theorem keepsKeeper_read (s : State) (a : Src) : s.myCore.KeepsKeeper (s.read a).2.myCore := by
  cases a with
  | q q =>
    show s.myCore.KeepsKeeper (s.setMyCore _).myCore
    rw [State.setMyCore_myCore]
    exact keepsKeeper_popQueue _ q
  | e p => exact keepsKeeper_setMe s _
  | g _ | w _ | lit32 _ | lit64 _ | small _ => exact ⟨rfl, rfl, rfl⟩

theorem keepsKeeper_trap (s : State) (cause : Nat) (a b : Word) : s.myCore.KeepsKeeper (s.trap cause a b).myCore := by
  have h := aloof_post (s.setMe { s.me with st := .parked { cause := cause }, dogDue := false }) (senderThread s.core s.slot)
    (mkRec (coreTa (coreAddress s s.core)) kK 0 s.me.tag 0 (trapPayload cause s.slot.val false s.iword s.me.pc a b))
  have e : (s.trap cause a b).myCore = (s.setMe { s.me with st := .parked { cause := cause }, dogDue := false }).myCore := by
    show (State.post (s.setMe _) _ _).getCore (State.post (s.setMe _) _ _).core = _
    rw [State.getCore_post, (aloof_post _ _ _).core]
    rfl
  rw [e]
  exact keepsKeeper_setMe s _

theorem keepsKeeper_stop (s : State) (g : Gate) : s.myCore.KeepsKeeper (s.stop g).myCore := by
  cases g with
  | go => exact ⟨rfl, rfl, rfl⟩
  | trap cause a => exact keepsKeeper_trap ..
  | held | blockRead q | blockWrite q | awaitElement p => exact keepsKeeper_setMe s _

theorem Core.KeepsKeeper.selected {x y : Core} (h : x.KeepsKeeper y) : y.selected = x.selected := by
  unfold Core.selected
  simp only [h.2.1]

/-- What wrs of a special register may change. -/
structure WritesSpecial (r : SReg) (s t : State) : Prop where
  core : t.core = s.core
  slot : t.slot = s.slot
  outside : t.outside = s.outside
  g : t.me.g = s.me.g
  w : t.me.w = s.me.w
  v : t.me.v = s.me.v
  m : t.me.m = s.me.m
  sg : t.me.sg = s.me.sg
  special : { t.me.special with wb := s.me.wb, bh := s.me.bh, bpc := s.me.bpc, ev := s.me.ev } = s.me.special
  wb : r ≠ .wb → t.me.wb = s.me.wb
  bh : r ≠ .bh → t.me.bh = s.me.bh
  bpc : r ≠ .bpc → t.me.bpc = s.me.bpc
  ev : r ≠ .ev → t.me.ev = s.me.ev
  kca : r ≠ .kca → t.myCore.kca = s.myCore.kca
  ksl : r ≠ .ksl → t.myCore.ksl = s.myCore.ksl
  lvl : r ≠ .lvl → t.myCore.lvl = s.myCore.lvl
  others : ∀ c k, (c, k) ≠ (s.core, s.slot) → (s.thread c k).sameRegs { t.thread c k with
    pc := if r = .kpc ∧ (c, k) = (s.core, s.myCore.selected) then (s.thread c k).pc else (t.thread c k).pc }

theorem Thread.sameRegs.withPc {t u : Thread} (h : t.sameRegs u) (p : Prop) [Decidable p] : t.sameRegs { u with pc := if p then t.pc else u.pc } := by
  obtain ⟨h1, h2, h3, h4, h5, h6, h7⟩ := h
  refine ⟨h1, h2, h3, h4, h5, ?_, h7⟩
  show (if p then t.pc else u.pc) = t.pc
  split
  · rfl
  · exact h6

theorem Runs.writesSpecial {s t : State} {r : SReg} (h : Runs none false s t) (k : s.myCore.KeepsKeeper t.myCore) : WritesSpecial r s t where
  core := h.beside.core
  slot := h.beside.slot
  outside := h.effect
  g := h.me.regs.1
  w := h.me.regs.2
  v := h.me.v
  m := h.me.m
  sg := h.me.sg
  special := by rw [h.me.special]; rfl
  wb _ := congrArg Special.wb h.me.special
  bh _ := congrArg Special.bh h.me.special
  bpc _ := congrArg Special.bpc h.me.special
  ev _ := congrArg Special.ev h.me.special
  kca _ := k.1
  ksl _ := k.2.1
  lvl _ := k.2.2
  others c j n := (h.beside.others c j n).1.withPc _

theorem Runs.thenWritesSpecial {s u t : State} {r : SReg} (h : Runs none false s u) (k : s.myCore.KeepsKeeper u.myCore) (g : WritesSpecial r u t) :
    WritesSpecial r s t where
  core := g.core.trans h.beside.core
  slot := g.slot.trans h.beside.slot
  outside := g.outside.trans h.effect
  g := g.g.trans h.me.regs.1
  w := g.w.trans h.me.regs.2
  v := g.v.trans h.me.v
  m := g.m.trans h.me.m
  sg := g.sg.trans h.me.sg
  special := by
    have e := h.me.special
    have h1 : u.me.wb = s.me.wb := congrArg Special.wb e
    have h2 : u.me.bh = s.me.bh := congrArg Special.bh e
    have h3 : u.me.bpc = s.me.bpc := congrArg Special.bpc e
    have h4 : u.me.ev = s.me.ev := congrArg Special.ev e
    rw [← e, ← g.special, h1, h2, h3, h4]
  wb n := (g.wb n).trans (congrArg Special.wb h.me.special)
  bh n := (g.bh n).trans (congrArg Special.bh h.me.special)
  bpc n := (g.bpc n).trans (congrArg Special.bpc h.me.special)
  ev n := (g.ev n).trans (congrArg Special.ev h.me.special)
  kca n := (g.kca n).trans k.1
  ksl n := (g.ksl n).trans k.2.1
  lvl n := (g.lvl n).trans k.2.2
  others c j n := by
    obtain ⟨h1, h2, h3, h4, h5, h6, h7⟩ := (h.beside.others c j n).1
    obtain ⟨g1, g2, g3, g4, g5, g6, g7⟩ := g.others c j (by rw [h.beside.core, h.beside.slot]; exact n)
    refine ⟨g1.trans h1, g2.trans h2, g3.trans h3, g4.trans h4, g5.trans h5, ?_, g7.trans h7⟩
    rw [h.beside.core, k.selected, h6] at g6
    exact g6

theorem WritesSpecial.setMe {s u : State} {r : SReg} (h : WritesSpecial r s u) {x : Thread} (hx : u.me.Writes none x) :
    WritesSpecial r s (u.setMe x) where
  core := h.core
  slot := h.slot
  outside := h.outside
  g := by rw [State.setMe_me, hx.regs.1]; exact h.g
  w := by rw [State.setMe_me, hx.regs.2]; exact h.w
  v := by rw [State.setMe_me, hx.v]; exact h.v
  m := by rw [State.setMe_me, hx.m]; exact h.m
  sg := by rw [State.setMe_me, hx.sg]; exact h.sg
  special := by rw [State.setMe_me, hx.special]; exact h.special
  wb n := by rw [State.setMe_me]; exact (congrArg Special.wb hx.special).trans (h.wb n)
  bh n := by rw [State.setMe_me]; exact (congrArg Special.bh hx.special).trans (h.bh n)
  bpc n := by rw [State.setMe_me]; exact (congrArg Special.bpc hx.special).trans (h.bpc n)
  ev n := by rw [State.setMe_me]; exact (congrArg Special.ev hx.special).trans (h.ev n)
  kca n := (keepsKeeper_setMe u x).1.trans (h.kca n)
  ksl n := (keepsKeeper_setMe u x).2.1.trans (h.ksl n)
  lvl n := (keepsKeeper_setMe u x).2.2.trans (h.lvl n)
  others c j n := by
    have e : (u.setMe x).thread c j = u.thread c j := State.thread_setThread_ne u x (by rw [h.core, h.slot]; exact n)
    rw [e]
    exact h.others c j n

/-- A core's keeper registers are written, its threads as they are. -/
theorem writesSpecial_setMyCore {s : State} {r : SReg} {x : Core} (h : x.slots = s.myCore.slots) (hk : r ≠ .kca → x.kca = s.myCore.kca)
    (hs : r ≠ .ksl → x.ksl = s.myCore.ksl) (hl : r ≠ .lvl → x.lvl = s.myCore.lvl) : WritesSpecial r s (s.setMyCore x) := by
  have q : Runs none false s (s.setMyCore x) := (rests_setCore_slots h).runs
  exact {
    core := rfl, slot := rfl, outside := rfl, g := q.me.regs.1, w := q.me.regs.2, v := q.me.v, m := q.me.m, sg := q.me.sg
    special := by rw [q.me.special]; rfl
    wb := fun _ => congrArg Special.wb q.me.special
    bh := fun _ => congrArg Special.bh q.me.special
    bpc := fun _ => congrArg Special.bpc q.me.special
    ev := fun _ => congrArg Special.ev q.me.special
    kca := by rw [State.setMyCore_myCore]; exact hk
    ksl := by rw [State.setMyCore_myCore]; exact hs
    lvl := by rw [State.setMyCore_myCore]; exact hl
    others := fun c j n => (q.beside.others c j n).1.withPc _ }

/-- A thread's own special register is written. -/
theorem writesSpecial_setMe {s : State} {r : SReg} {x : Thread} (hg : x.g = s.me.g) (hw : x.w = s.me.w) (hv : x.v = s.me.v) (hm : x.m = s.me.m)
    (hs : x.sg = s.me.sg) (hp : { x.special with wb := s.me.wb, bh := s.me.bh, bpc := s.me.bpc, ev := s.me.ev } = s.me.special)
    (h1 : r ≠ .wb → x.wb = s.me.wb) (h2 : r ≠ .bh → x.bh = s.me.bh) (h3 : r ≠ .bpc → x.bpc = s.me.bpc) (h4 : r ≠ .ev → x.ev = s.me.ev) :
    WritesSpecial r s (s.setMe x) where
  core := rfl
  slot := rfl
  outside := rfl
  g := by rw [State.setMe_me]; exact hg
  w := by rw [State.setMe_me]; exact hw
  v := by rw [State.setMe_me]; exact hv
  m := by rw [State.setMe_me]; exact hm
  sg := by rw [State.setMe_me]; exact hs
  special := by rw [State.setMe_me]; exact hp
  wb := by rw [State.setMe_me]; exact h1
  bh := by rw [State.setMe_me]; exact h2
  bpc := by rw [State.setMe_me]; exact h3
  ev := by rw [State.setMe_me]; exact h4
  kca _ := (keepsKeeper_setMe s x).1
  ksl _ := (keepsKeeper_setMe s x).2.1
  lvl _ := (keepsKeeper_setMe s x).2.2
  others c j n := ((beside_setMe s x).others c j n).1.withPc _

/-- kpc writes the pc of the thread that the keeper's core selects. -/
theorem writesSpecial_kpc (s : State) (v : Word) :
    WritesSpecial .kpc s (s.setThread s.core s.myCore.selected { s.myCore.slots.get s.myCore.selected with pc := v }) := by
  have hx : s.myCore.slots.get s.myCore.selected = s.thread s.core s.myCore.selected := rfl
  rw [hx]
  generalize hk : s.myCore.selected = k
  by_cases hme : k = s.slot
  · subst hme
    exact writesSpecial_setMe (x := { s.me with pc := v }) rfl rfl rfl rfl rfl rfl (fun _ => rfl) (fun _ => rfl) (fun _ => rfl) (fun _ => rfl)
  · have e : (s.setThread s.core k { s.thread s.core k with pc := v }).me = s.me := State.thread_setThread_slot s _ _ (Ne.symm hme)
    have kk : s.myCore.KeepsKeeper (s.setThread s.core k { s.thread s.core k with pc := v }).myCore := by
      have : (s.setThread s.core k { s.thread s.core k with pc := v }).myCore =
        { s.getCore s.core with slots := (s.getCore s.core).slots.set k.val { s.thread s.core k with pc := v } k.isLt } := State.getCore_setCore_self ..
      rw [this]
      exact ⟨rfl, rfl, rfl⟩
    exact {
      core := rfl, slot := rfl, outside := rfl
      g := by rw [e]
      w := by rw [e]
      v := by rw [e]
      m := by rw [e]
      sg := by rw [e]
      special := by rw [e]; rfl
      wb := fun _ => by rw [e]
      bh := fun _ => by rw [e]
      bpc := fun _ => by rw [e]
      ev := fun _ => by rw [e]
      kca := fun _ => kk.1
      ksl := fun _ => kk.2.1
      lvl := fun _ => kk.2.2
      others := fun c j _ => by
        by_cases hj : (c, j) = (s.core, k)
        · obtain ⟨rfl, rfl⟩ := Prod.mk.injEq .. ▸ hj
          rw [State.thread_setThread_self]
          exact ⟨rfl, rfl, rfl, rfl, rfl, if_pos ⟨rfl, by rw [hk]⟩, rfl⟩
        · rw [State.thread_setThread_ne s _ hj]
          exact Thread.sameRegs.withPc ⟨rfl, rfl, rfl, rfl, rfl, rfl, rfl⟩ _ }

theorem writesSpecial_writeSpecial (s : State) (r : SReg) (v : Word) : WritesSpecial r s (writeSpecial s r v) := by
  have idle : WritesSpecial r s s := (Runs.refl s).writesSpecial ⟨rfl, rfl, rfl⟩
  cases r with
  | wb => exact writesSpecial_setMe rfl rfl rfl rfl rfl rfl (absurd rfl) (fun _ => rfl) (fun _ => rfl) (fun _ => rfl)
  | bh => exact writesSpecial_setMe rfl rfl rfl rfl rfl rfl (fun _ => rfl) (absurd rfl) (fun _ => rfl) (fun _ => rfl)
  | bpc => exact writesSpecial_setMe rfl rfl rfl rfl rfl rfl (fun _ => rfl) (fun _ => rfl) (absurd rfl) (fun _ => rfl)
  | ev => exact writesSpecial_setMe rfl rfl rfl rfl rfl rfl (fun _ => rfl) (fun _ => rfl) (fun _ => rfl) (absurd rfl)
  | kca => exact writesSpecial_setMyCore rfl (absurd rfl) (fun _ => rfl) (fun _ => rfl)
  | ksl => exact writesSpecial_setMyCore rfl (fun _ => rfl) (absurd rfl) (fun _ => rfl)
  | lvl => exact writesSpecial_setMyCore rfl (fun _ => rfl) (fun _ => rfl) (absurd rfl)
  | kpc =>
    simp only [writeSpecial]
    split
    · exact writesSpecial_kpc s v
    · exact idle
  | tid | tag | inst | clk | wst | bid | qst | wsp | fa | fw | fo | fsc | kwd => exact idle

theorem writesSpecial_wrs {s t : State} {r : SReg} {a : Src} (h : exec (.wrs r a) s = .next t) : WritesSpecial r s t := by
  have e : t = if mayName s r then s.gated (.wrs r a) fun s => (writeSpecial (s.read a).2 r (s.read a).1).advance (.wrs r a) else s.trap 0x02 0 0 := by
    cases h; rfl
  rw [e]
  split
  · rcases s.gated_eq (.wrs r a) _ with e | ⟨g, e⟩
    · rw [e]
      exact (runs_read s a).thenWritesSpecial (keepsKeeper_read s a) ((writesSpecial_writeSpecial _ r _).setMe (Thread.writes_performed _ _))
    · rw [e]
      exact (runs_stop s g).writesSpecial (keepsKeeper_stop s g)
  · exact (runs_trap s ..).writesSpecial (keepsKeeper_trap ..)

theorem controlFrame : Claims.ControlFrame := by
  refine ⟨fun s t i hi he h => ?_, fun s t r a h => ?_⟩
  · obtain ⟨c, hw⟩ := controlFrame_control hi he h
    exact ⟨memoryKeeps_of_outside c.outside, c.beside.othersKeep, (State.outside_keeps c.outside).2.1, c.beside.core, c.beside.slot, c.g, c.v, c.m, c.sg,
      hw, c.special⟩
  · have w := writesSpecial_wrs h
    exact ⟨memoryKeeps_of_outside w.outside, (State.outside_keeps w.outside).2.1, w.core, w.slot, w.g, w.w, w.v, w.m, w.sg, w.special, w.wb, w.bh,
      w.bpc, w.ev, w.kca, w.ksl, w.lvl, w.others⟩

end Sys2Proof.Machine

namespace Sys2Proof.Machine
open Sys2Proof

-- Frames: system instructions -----------------------------------------------------------------------------------------------------------------

theorem runs_postCounter {d : Option Dst} {c : Bool} (s : State) (i : Instr) (op : Nat) (b : Src) : Runs d c s (s.postCounter i op b) := by
  refine runs_gated ?_
  dsimp only
  split
  · exact (runs_read s b).then (runs_trapOpen ..)
  · exact runs_afterRelaxed (runs_read s b) (runs_send ..)

theorem runs_postWaker {d : Option Dst} {c : Bool} (s : State) (i : Instr) (op : Nat) (a : Src) : Runs d c s (s.postWaker i op a) := by
  refine runs_gated ?_
  dsimp only
  split
  · exact runs_afterRelaxed (runs_read s a) (runs_send ..)
  · exact (runs_read s a).then (runs_trapOpen ..)

theorem runs_postUpd {d : Option Dst} {c : Bool} {s t : State} {op : UpdOp} {len : BitVec 3} {b : Src} (h : exec (.postUpd op len b) s = .next t) :
    Runs d c s t := by
  cases h
  refine runs_gated ?_
  dsimp only
  split
  · exact (runs_read s b).then (runs_trapOpen ..)
  · exact runs_afterRelaxed (runs_read s b) (runs_send ..)

theorem runs_msg {d : Option Dst} {c : Bool} {s t : State} {len : BitVec 3} {a b : Src} (h : exec (.msg len a b) s = .next t) : Runs d c s t := by
  cases h
  have hr : Runs none false s ((s.read a).2.read b).2 := (runs_read s a).then (runs_read _ b)
  refine runs_gated ?_
  dsimp only
  split
  · exact hr.then (runs_trapOpen ..)
  · exact runs_afterRelaxed hr (runs_send ..)

theorem runs_withGroup {d : Option Dst} {c : Bool} {s : State} {a : Src} {f : Half → State → State} (h : ∀ g, Runs d c (s.read a).2 (f g (s.read a).2)) :
    Runs d c s (s.withGroup a f) := by
  unfold State.withGroup
  dsimp only
  split
  · exact (runs_read s a).then (runs_trapOpen ..)
  · exact (runs_read s a).then (h _)

theorem runs_bar {d : Option Dst} {c : Bool} {s t : State} {a : Src} (h : exec (.bar a) s = .next t) : Runs d c s t := by
  cases h
  refine runs_gated (runs_withGroup fun g => ?_)
  dsimp only
  split
  · exact (rests_setGroup ..).runs.then (runs_block _ _ nofun)
  · exact runs_trapOpen ..

theorem Core.untouched_giveToken (x : Core) (q : Fin 8) (n k : Fin 16) : (x.slots.get k).Untouched ((x.giveToken q n).slots.get k) := by
  unfold Core.giveToken
  dsimp only
  split
  · rw [Core.slots_mapSlots]
    exact Thread.untouched_retryRead q _
  · exact .refl _

theorem runs_qcfg {d : Option Dst} {c : Bool} {s t : State} {a b : Src} (h : exec (.qcfg a b) s = .next t) : Runs d c s t := by
  cases h
  refine runs_gated ((runs_read s a).then ((runs_read _ b).then ?_))
  dsimp only
  split
  · exact runs_trap ..
  · exact Runs.then (Rests.runs rests_setCore_slots) (runs_advance ..)

theorem runs_qeos {d : Option Dst} {c : Bool} {s t : State} {a : Src} (h : exec (.qeos a) s = .next t) : Runs d c s t := by
  cases h
  refine runs_gated ((runs_read s a).then ?_)
  dsimp only
  split
  · exact runs_trap ..
  · exact Runs.then (Rests.runs (rests_setCore fun k => Core.untouched_giveToken _ _ _ k)) (runs_advance ..)

theorem runs_pop {s t : State} {d : Dst} {p : Fin 4} (h : exec (.pop d p) s = .next t) : Runs (some d) (mayCollect (.pop d p)) s t := by
  cases h
  refine runs_gated ?_
  dsimp only
  split
  · exact (runs_read s (.e p)).then (runs_result_of (i := .pop d p) rfl ..)
  · exact runs_stop ..

theorem runs_free {d : Option Dst} {c : Bool} {s t : State} {a b : Src} (h : exec (.free a b) s = .next t) : Runs d c s t := by
  cases h
  refine runs_gated ((runs_read s a).then ((runs_read _ b).then ?_))
  dsimp only
  split
  · exact (rests_trapMisuse ..).runs
  · exact (runs_advance ..).then (runs_remove ..)

theorem runs_bret {d : Option Dst} {c : Bool} {s t : State} (h : exec .bret s = .next t) : Runs d c s t := by
  have e : t = if s.me.inHandler then (s.goTo s.me.bpc).setMe { (s.goTo s.me.bpc).me with inHandler := false } else s.trapMisuse := by
    cases h; rfl
  rw [e]
  split
  · exact (runs_goTo ..).then runs_setMe_same
  · exact (rests_trapMisuse s).runs

/-- A system instruction that reads no image, and is neither sys nor bellh, writes its destination alone. -/
theorem runs_system {s t : State} {i : Instr} (hi : isSystem i = true) (hspawn : ∀ a b, i ≠ .spawn a b) (hpush : ∀ p a, i ≠ .push p a)
    (hsys : ∀ a b, i ≠ .sys a b) (hbell : ∀ d a, i ≠ .bellh d a) (h : exec i s = .next t) : Runs (instrDst i) (mayCollect i) s t := by
  cases i with
  | spawn a b => exact absurd rfl (hspawn a b)
  | push p a => exact absurd rfl (hpush p a)
  | sys a b => exact absurd rfl (hsys a b)
  | bellh d a => exact absurd rfl (hbell d a)
  | postCnt b => cases h; exact runs_postCounter ..
  | postCntSolo b => cases h; exact runs_postCounter ..
  | postWake a => cases h; exact runs_postWaker ..
  | postWakeSolo a => cases h; exact runs_postWaker ..
  | postUpd op len b => exact runs_postUpd h
  | msg len a b => exact runs_msg h
  | join d a | leave d a => cases h; exact runs_gated (runs_withGroup fun g => (runs_advance ..).then (runs_remove ..))
  | bar a => exact runs_bar h
  | qcfg a b => exact runs_qcfg h
  | qeos a => exact runs_qeos h
  | pop d p => exact runs_pop h
  | poll d p => cases h; exact runs_gated ((runs_read s (.e p)).then (runs_result_of rfl ..))
  | alloc d a => cases h; exact runs_gated ((runs_read s a).then ((runs_advance ..).then (runs_remove ..)))
  | free a b => exact runs_free h
  | bret => exact runs_bret h
  | trap a => cases h; exact runs_gated ((runs_read s a).then (runs_trap ..))
  | rdcap d a b => cases h; exact runs_gated ((runs_read s a).then ((runs_read _ b).then (runs_result_of rfl ..)))
  | _ => exact absurd hi Bool.false_ne_true

/-- The segment that an image is read through is the one before the operands were read. -/
theorem Thread.Writes.kind {t u : Thread} (h : t.Writes none u) : (u.sg.get 0).kind = 3 → (t.sg.get 0).kind = 3 := by
  rw [h.sg]; exact id

theorem fetches_gated {d : Option Dst} {c : Bool} {p : Prop} {s : State} {i : Instr} {f : State → State} (h : Fetches d c p s (f s)) :
    Fetches d c p s (s.gated i f) := by
  rcases s.gated_eq i f with e | ⟨g, e⟩
  · rw [e]; exact h
  · rw [e]; exact (runs_stop s g).fetches

theorem fetches_afterRelaxed {d : Option Dst} {c : Bool} {p : Prop} {s before : State} {f : State → State} (h : Fetches d c p before (f s)) :
    Fetches d c p before (s.afterRelaxed before f) := by
  unfold State.afterRelaxed
  split
  · exact h
  · exact (runs_remove before _).fetches

/-- An image is read, and its instruction goes on with the bytes. -/
theorem fetches_image {d : Option Dst} {c : Bool} {p : Prop} {before s : State} {off : Word} {n align : Nat} {f : List Byte → State → State}
    (hs : Quietly p before s) (hk : (s.me.sg.get 0).kind = 3 → p) (hf : ∀ bs u, Quietly p before u → Fetches d c p before (f bs u)) :
    Fetches d c p before (s.image before off n align f) := by
  rcases image_cases off n align f hs hk with q | ⟨bs, u, q, e⟩
  · exact q.fetches
  · rw [e]; exact hf bs u q

theorem fetches_spawn {d : Option Dst} {c : Bool} {s t : State} {a b : Src} (h : exec (.spawn a b) s = .next t) :
    Fetches d c ((s.me.sg.get 0).kind = 3) s t := by
  cases h
  have hr : Runs none false s ((s.read a).2.read b).2 := (runs_read s a).then (runs_read _ b)
  refine fetches_gated ?_
  dsimp only
  split
  · exact (hr.then (runs_trapOpen ..)).fetches
  · exact fetches_afterRelaxed (fetches_image hr.quietly hr.me.kind fun bs u q => q.then (runs_send ..).fetches)

theorem fetches_push {d : Option Dst} {s t : State} {p : Fin 4} {a : Src} (h : exec (.push p a) s = .next t) :
    Fetches d (mayCollect (.push p a)) ((s.me.sg.get 0).kind = 3) s t := by
  cases h
  have hr : Runs none false s (s.read a).2 := runs_read s a
  refine fetches_gated (fetches_image hr.quietly hr.me.kind fun bs u q => ?_)
  have hs : ∀ pc b, Fetches d (mayCollect (.push p a)) ((s.me.sg.get 0).kind = 3) s (u.submit p b pc false) := fun pc b =>
    q.then ((runs_submit u p b pc false).mono id).fetches
  dsimp only
  split
  · exact fetches_afterRelaxed (hs _ _)
  · exact hs _ _

/-- sys posts its record, or answers 14 in w16 and w17 at once. -/
theorem exec_sys_cases {s t : State} {a b : Src} (h : exec (.sys a b) s = .next t) :
    Runs none false s t ∨ ∃ u, Runs none false s u ∧ t = (u.setMe ((u.me.setW 16 0).setW 17 14)).advance (.sys a b) := by
  cases h
  have hr : Runs none false s ((s.read a).2.read b).2 := (runs_read s a).then (runs_read _ b)
  rcases s.gated_eq (.sys a b) _ with e | ⟨g, e⟩
  · rw [e]
    dsimp only
    split
    · exact .inr ⟨_, hr, rfl⟩
    · exact .inl (hr.then (runs_send ..))
  · rw [e]
    exact .inl (runs_stop s g)

/-- bellh writes its destination and then, unless that traps, the bell handler. -/
theorem exec_bellh_cases {s t : State} {d : Dst} {a : Src} (h : exec (.bellh d a) s = .next t) :
    Runs (some d) (mayCollect (.bellh d a)) s t ∨ ∃ u x, Runs (some d) (mayCollect (.bellh d a)) s u ∧ t = u.setMe { u.me with bh := x } := by
  cases h
  have hr : Runs none false s (s.read a).2 := runs_read s a
  rcases s.gated_eq (.bellh d a) _ with e | ⟨g, e⟩
  · rw [e]
    dsimp only
    split
    · exact .inl (runs_trapOpen s _)
    · have hu := hr.then (runs_result_of (i := .bellh d a) rfl (s.read a).2 (s.read a).2.me.bh)
      split
      · exact .inl hu
      · exact .inr ⟨_, _, hu, rfl⟩
  · rw [e]
    exact .inl (runs_stop s g)

theorem systemFrame_of_fetches {s t : State} {i : Instr} (h : Fetches (instrDst i) (mayCollect i) ((s.me.sg.get 0).kind = 3) s t) :
    ((s.me.sg.get 0).kind ≠ 3 → MemoryKeepsBy s t i) ∧
      (Inv s → ∀ a, basinKey 0 0 ≤ a → (mayCollect i = true → ¬ InEntry s a) → Memory.get t.mem a = Memory.get s.mem a) ∧
      OthersKeep s t ∧ t.core = s.core ∧ t.slot = s.slot ∧ t.me.v = s.me.v ∧ t.me.m = s.me.m ∧ t.me.sg = s.me.sg ∧
      (∀ j, t.me.g.get j = s.me.g.get j ∨ instrDst i = some (.g j)) ∧
      (∀ j, t.me.w.get j = s.me.w.get j ∨ instrDst i = some (.w j) ∨ (∃ a b, i = .sys a b) ∧ (j = 16 ∨ j = 17)) ∧
      (t.me.special = s.me.special ∨ ∃ d a, i = .bellh d a ∧ { t.me.special with bh := s.me.bh } = s.me.special) :=
  ⟨h.low, h.high, h.beside.othersKeep, h.beside.core, h.beside.slot, h.me.v, h.me.m, h.me.sg, h.me.g,
    fun j => (h.me.w j).imp_right .inl, .inl h.me.special⟩

/-- A further change of the executing thread leaves what the frame says of the rest. -/
theorem Fetches.claims_setMe {d : Option Dst} {i : Instr} {p : Prop} {s u : State} (h : Fetches d (mayCollect i) p s u) (x : Thread) :
    (¬ p → MemoryKeepsBy s (u.setMe x) i) ∧
      (Inv s → ∀ a, basinKey 0 0 ≤ a → (mayCollect i = true → ¬ InEntry s a) → Memory.get (u.setMe x).mem a = Memory.get s.mem a) ∧
      OthersKeep s (u.setMe x) ∧ (u.setMe x).core = s.core ∧ (u.setMe x).slot = s.slot :=
  ⟨h.low, h.high, (h.beside.trans (beside_setMe u x)).othersKeep, h.beside.core, h.beside.slot⟩

theorem systemFrame : Claims.SystemFrame := by
  intro s t i hi h
  by_cases hspawn : ∃ a b, i = .spawn a b
  · obtain ⟨a, b, rfl⟩ := hspawn
    exact systemFrame_of_fetches (fetches_spawn h)
  by_cases hpush : ∃ p a, i = .push p a
  · obtain ⟨p, a, rfl⟩ := hpush
    exact systemFrame_of_fetches (fetches_push h)
  by_cases hsys : ∃ a b, i = .sys a b
  · obtain ⟨a, b, rfl⟩ := hsys
    rcases exec_sys_cases h with r | ⟨u, r, rfl⟩
    · exact systemFrame_of_fetches r.fetches
    · obtain ⟨c1, c2, c3, c4, c5⟩ := (show Fetches none (mayCollect (.sys a b)) ((s.me.sg.get 0).kind = 3) s u from r.quiet.fetches).claims_setMe
        (((u.me.setW 16 0).setW 17 14).performed (nextPc ((u.me.setW 16 0).setW 17 14) (lengthOf (.sys a b))))
      have e : (u.setMe ((u.me.setW 16 0).setW 17 14)).advance (.sys a b) =
          u.setMe (((u.me.setW 16 0).setW 17 14).performed (nextPc ((u.me.setW 16 0).setW 17 14) (lengthOf (.sys a b)))) := by
        rw [State.advance, State.goTo, State.setMe_me, State.setMe_setMe]
      rw [e, State.setMe_me]
      refine ⟨c1, c2, c3, c4, c5, ?_, ?_, ?_, fun j => .inl ?_, fun j => ?_, .inl ?_⟩
      · rw [Thread.performed_v]; exact r.me.v
      · rw [Thread.performed_m]; exact r.me.m
      · rw [Thread.performed_sg]; exact r.me.sg
      · rw [Thread.performed_g]
        show u.me.g.get j = _
        rw [r.me.regs.1]
      · rw [Thread.performed_w, Thread.setW_get, Thread.setW_get, r.me.regs.2]
        by_cases h17 : j = 17
        · exact .inr (.inr ⟨⟨a, b, rfl⟩, .inr h17⟩)
        · by_cases h16 : j = 16
          · exact .inr (.inr ⟨⟨a, b, rfl⟩, .inl h16⟩)
          · exact .inl (by rw [if_neg h17, if_neg h16])
      · rw [Thread.special_performed]
        exact r.me.special
  by_cases hbell : ∃ d a, i = .bellh d a
  · obtain ⟨d, a, rfl⟩ := hbell
    rcases exec_bellh_cases h with r | ⟨u, x, r, rfl⟩
    · exact systemFrame_of_fetches r.fetches
    · obtain ⟨c1, c2, c3, c4, c5⟩ := (show Fetches (some d) (mayCollect (.bellh d a)) ((s.me.sg.get 0).kind = 3) s u from r.fetches).claims_setMe
        { u.me with bh := x }
      rw [State.setMe_me]
      refine ⟨c1, c2, c3, c4, c5, r.me.v, r.me.m, r.me.sg, r.me.g, fun j => (r.me.w j).imp_right .inl, .inr ⟨d, a, rfl, ?_⟩⟩
      have hb : u.me.bh = s.me.bh := congrArg Special.bh r.me.special
      rw [← r.me.special, ← hb]
      rfl
  exact systemFrame_of_fetches (runs_system hi (fun a b e => hspawn ⟨a, b, e⟩) (fun p a e => hpush ⟨p, a, e⟩) (fun a b e => hsys ⟨a, b, e⟩)
    (fun d a e => hbell ⟨d, a, e⟩) h).fetches

end Sys2Proof.Machine

namespace Sys2Proof.Machine
open Sys2Proof

-- Frames: keeper instructions -----------------------------------------------------------------------------------------------------------------

/-- Outside slot 0 a keeper instruction traps. -/
theorem runs_keeper {d : Option Dst} {c : Bool} {s : State} {i : Instr} {f : State → State} (h : Runs d c s (f s)) : Runs d c s (s.keeper i f) := by
  unfold State.keeper
  split
  · exact runs_gated h
  · exact runs_trap s ..

theorem fetches_kpost {s t : State} {a : Src} (h : exec (.kpost a) s = .next t) : Fetches none false ((s.me.sg.get 0).kind = 3) s t := by
  cases h
  have hr : Runs none false s (s.read a).2 := runs_read s a
  unfold State.keeper
  split
  · refine fetches_gated (fetches_image hr.quietly hr.me.kind fun hd u q => fetches_image q q.me.kind fun bs v r => ?_)
    dsimp only
    split
    · exact r.then (runs_trap v ..).fetches
    · exact r.then (runs_send ..).fetches
  · exact (runs_trap s ..).fetches

theorem runs_kpark {s t : State} {d : Dst} (h : exec (.kpark d) s = .next t) : Runs (some d) (mayCollect (.kpark d)) s t := by
  cases h
  refine runs_keeper ?_
  dsimp only
  refine Runs.then (u := if s.target.val < 2 then s else s.setThread s.core s.target (s.thread s.core s.target).kpark) ?_
    (runs_result_of (i := .kpark d) rfl ..)
  split
  · exact .refl s
  · exact (rests_setThread (Thread.untouched_kpark _)).runs

theorem runs_kfence {d : Option Dst} {c : Bool} {s t : State} (h : exec .kfence s = .next t) : Runs d c s t := by
  cases h
  refine runs_keeper ?_
  dsimp only
  split
  · exact runs_advance ..
  · exact (runs_advance ..).then (runs_remove ..)

theorem Core.config_slots {x y : Core} {item v : Word} (h : x.config item v = some y) : y.slots = x.slots := by
  unfold Core.config at h
  simp only at h
  repeat' split at h
  all_goals cases h
  all_goals rfl

theorem runs_kcfg {d : Option Dst} {c : Bool} {s t : State} {a b : Src} (h : exec (.kcfg a b) s = .next t) : Runs d c s t := by
  cases h
  refine runs_keeper ((runs_read s a).then ((runs_read _ b).then ?_))
  dsimp only
  split
  · next z hz => exact Runs.then (Rests.runs (rests_setCore_slots (Core.config_slots hz))) (runs_advance ..)
  · exact runs_trap ..

theorem runs_ctuinv {d : Option Dst} {c : Bool} {s t : State} {a b : Src} (h : exec (.ctuinv a b) s = .next t) : Runs d c s t := by
  cases h
  exact runs_keeper ((runs_read s a).then ((runs_read _ b).then (Runs.then (Rests.runs rests_of_cores) ((runs_advance ..).then (runs_remove ..)))))

/-- sgset traps or stops, or writes a segment register of the keeper. -/
theorem exec_sgset_cases {s t : State} {sg : Fin 8} {a b : Src} (h : exec (.sgset sg a b) s = .next t) :
    Runs none false s t ∨ ∃ u x, Runs none false s u ∧ t = (u.setMe (u.me.setSg sg x)).advance (.sgset sg a b) := by
  cases h
  have hr : Runs none false s ((s.read a).2.read b).2 := (runs_read s a).then (runs_read _ b)
  unfold State.keeper
  split
  · rcases s.gated_eq (.sgset sg a b) _ with e | ⟨g, e⟩
    · exact .inr ⟨_, _, hr, e⟩
    · rw [e]; exact .inl (runs_stop s g)
  · exact .inl (runs_trap s ..)

/-- sgset.k traps or stops or finds an empty slot, or writes a segment register of the slot that is selected. -/
theorem exec_sgsetK_cases {s t : State} {sg : Fin 8} {a b : Src} (h : exec (.sgsetK sg a b) s = .next t) :
    Runs none false s t ∨ ∃ u x, Runs none false s u ∧ u.target = s.target ∧
      t = (u.setThread u.core u.target ((u.thread u.core u.target).setSg sg x)).advance (.sgsetK sg a b) := by
  cases h
  have hr : Runs none false s ((s.read a).2.read b).2 := (runs_read s a).then (runs_read _ b)
  have ht : ((s.read a).2.read b).2.target = s.target := (keepsKeeper_read _ b).selected.trans (keepsKeeper_read s a).selected
  unfold State.keeper
  split
  · rcases s.gated_eq (.sgsetK sg a b) _ with e | ⟨g, e⟩
    · rw [e]
      dsimp only
      split
      · exact .inl (hr.then (runs_advance ..))
      · exact .inr ⟨_, _, hr, ht, rfl⟩
    · rw [e]; exact .inl (runs_stop s g)
  · exact .inl (runs_trap s ..)

/-- The instructions of the keeper's frame that write no segment register and read no image. -/
theorem runs_keeperOnly {s t : State} {i : Instr} (hi : isKeeperOnly i = true) (hresume : ∀ d, i ≠ .kresume d) (hkill : ∀ d, i ≠ .kkill d)
    (hret : ∀ r a, i ≠ .kret r a) (hset : ∀ sg a b, i ≠ .sgset sg a b) (hsetK : ∀ sg a b, i ≠ .sgsetK sg a b) (hpost : ∀ a, i ≠ .kpost a)
    (h : exec i s = .next t) : Runs (instrDst i) (mayCollect i) s t := by
  cases i with
  | kpark d => exact runs_kpark h
  | kresume d => exact absurd rfl (hresume d)
  | kkill d => exact absurd rfl (hkill d)
  | ksave d | kload d => cases h; exact runs_keeper ((runs_advance ..).then (runs_remove ..))
  | sgset sg a b => exact absurd rfl (hset sg a b)
  | sgsetK sg a b => exact absurd rfl (hsetK sg a b)
  | ctuinv a b => exact runs_ctuinv h
  | kret r a => exact absurd rfl (hret r a)
  | kfence => exact runs_kfence h
  | kpost a => exact absurd rfl (hpost a)
  | kcfg a b => exact runs_kcfg h
  | _ => exact absurd hi Bool.false_ne_true

/-- The part of the keeper's frame that speaks of memory and of the threads. -/
theorem keeperFrame_of_fetches {s t : State} {i : Instr} {p : Prop} (h : Fetches (instrDst i) (mayCollect i) p s t)
    (hp : (s.me.sg.get 0).kind ≠ 3 ∨ (∀ a, i ≠ .kpost a) → ¬ p) :
    ((s.me.sg.get 0).kind ≠ 3 ∨ (∀ a, i ≠ .kpost a) → MemoryKeepsBy s t i) ∧
      (Inv s → ∀ a, basinKey 0 0 ≤ a → (mayCollect i = true → ¬ InEntry s a) → Memory.get t.mem a = Memory.get s.mem a) ∧
      t.core = s.core ∧ t.slot = s.slot ∧ t.me.v = s.me.v ∧ t.me.m = s.me.m ∧ t.me.special = s.me.special ∧
      (∀ c k, (c, k) ≠ (s.core, s.slot) → (∀ sg a b, i ≠ .sgsetK sg a b) → (s.thread c k).sameRegs (t.thread c k)) ∧
      (∀ c k sg a b, i = .sgsetK sg a b → (c, k) ≠ (s.core, s.slot) → (c, k) ≠ (s.core, s.myCore.selected) →
        (s.thread c k).sameRegs (t.thread c k)) ∧
      (∀ j, t.me.g.get j = s.me.g.get j ∨ instrDst i = some (.g j)) ∧ (∀ j, t.me.w.get j = s.me.w.get j ∨ instrDst i = some (.w j)) ∧
      (∀ j, t.me.sg.get j = s.me.sg.get j ∨ ∃ a b, i = .sgset j a b ∨ i = .sgsetK j a b) :=
  ⟨fun k => h.low (hp k), h.high, h.beside.core, h.beside.slot, h.me.v, h.me.m, h.me.special, fun c k n _ => h.beside.othersKeep c k n,
    fun c k _ _ _ _ n _ => h.beside.othersKeep c k n, h.me.g, h.me.w, fun j => .inl (by rw [h.me.sg])⟩

theorem vget_set_ne {α : Type} {n : Nat} (v : Vector α n) {i j : Fin n} (x : α) (h : j ≠ i) : (v.set i.val x i.isLt).get j = v.get j := by
  rw [vget_set, if_neg h]

/-- A slot of the core gets a segment register, and the executing thread moves on. -/
theorem keeperFrame_setSg {s u : State} {sg : Fin 8} (k : Fin 16) (x : Seg) (i : Instr) (r : Runs none false s u) :
    let t := (u.setThread u.core k ((u.thread u.core k).setSg sg x)).advance i
    t.outside = s.outside ∧ t.core = s.core ∧ t.slot = s.slot ∧ t.me.v = s.me.v ∧ t.me.m = s.me.m ∧ t.me.special = s.me.special ∧
      (∀ c j, (c, j) ≠ (s.core, s.slot) → (c, j) ≠ (s.core, k) → (s.thread c j).sameRegs (t.thread c j)) ∧ t.me.g = s.me.g ∧ t.me.w = s.me.w ∧
      ∀ j, j ≠ sg → t.me.sg.get j = s.me.sg.get j := by
  intro t
  let w := u.setThread u.core k ((u.thread u.core k).setSg sg x)
  have q : Runs none false w t := runs_advance ..
  have hm : w.me = u.me ∨ w.me = u.me.setSg sg x := by
    by_cases e : u.slot = k
    · right
      subst e
      exact State.thread_setThread_self ..
    · exact .inl (State.thread_setThread_slot u _ _ e)
  have keep : w.me.v = u.me.v ∧ w.me.m = u.me.m ∧ w.me.special = u.me.special ∧ w.me.g = u.me.g ∧ w.me.w = u.me.w ∧
      ∀ j, j ≠ sg → w.me.sg.get j = u.me.sg.get j := by
    rcases hm with e | e <;> rw [e]
    · exact ⟨rfl, rfl, rfl, rfl, rfl, fun _ _ => rfl⟩
    · exact ⟨rfl, rfl, rfl, rfl, rfl, fun _ hj => vget_set_ne _ _ hj⟩
  obtain ⟨k1, k2, k3, k4, k5, k6⟩ := keep
  refine ⟨q.effect.outside.trans r.effect.outside, q.beside.core.trans r.beside.core, q.beside.slot.trans r.beside.slot, q.me.v.trans (k1.trans r.me.v),
    q.me.m.trans (k2.trans r.me.m), q.me.special.trans (k3.trans r.me.special), fun c j n nk => ?_, q.me.regs.1.trans (k4.trans r.me.regs.1),
    q.me.regs.2.trans (k5.trans r.me.regs.2), fun j hj => by rw [q.me.sg, k6 j hj, r.me.sg]⟩
  have e : w.thread c j = u.thread c j := State.thread_setThread_ne u _ (by rw [r.beside.core]; exact nk)
  have h1 := r.beside.others c j n
  have h2 := q.beside.others c j (show (c, j) ≠ (u.core, u.slot) by rw [r.beside.core, r.beside.slot]; exact n)
  rw [e] at h2
  exact (h1.trans h2).1

theorem keeperFrame : Claims.KeeperFrame := by
  intro s t i hi hresume hkill hret h
  have mem : ∀ {t}, t.outside = s.outside → MemoryKeepsBy s t i ∧
      (Inv s → ∀ a, basinKey 0 0 ≤ a → (mayCollect i = true → ¬ InEntry s a) → Memory.get t.mem a = Memory.get s.mem a) := fun e =>
    ⟨(Effect.of_outside e).memoryKeepsBy, fun _ a _ _ => memoryKeeps_of_outside e a⟩
  by_cases hset : ∃ sg a b, i = .sgset sg a b
  · obtain ⟨sg, a, b, rfl⟩ := hset
    rcases exec_sgset_cases h with r | ⟨u, x, r, rfl⟩
    · exact keeperFrame_of_fetches (r.quiet.fetches (p := False)) fun _ => id
    · obtain ⟨f1, f2, f3, f4, f5, f6, f7, f8, f9, f10⟩ := keeperFrame_setSg (sg := sg) u.slot x (.sgset sg a b) r
      refine ⟨fun _ => (mem f1).1, (mem f1).2, f2, f3, f4, f5, f6, fun c k n _ => f7 c k n (by rw [r.beside.slot]; exact n), nofun,
        fun j => .inl (by rw [← f8]; rfl), fun j => .inl (by rw [← f9]; rfl), fun j => ?_⟩
      by_cases hj : j = sg
      · exact .inr ⟨a, b, .inl (by rw [hj])⟩
      · exact .inl (f10 j hj)
  by_cases hsetK : ∃ sg a b, i = .sgsetK sg a b
  · obtain ⟨sg, a, b, rfl⟩ := hsetK
    rcases exec_sgsetK_cases h with r | ⟨u, x, r, ht, rfl⟩
    · exact keeperFrame_of_fetches (r.quiet.fetches (p := False)) fun _ => id
    · obtain ⟨f1, f2, f3, f4, f5, f6, f7, f8, f9, f10⟩ := keeperFrame_setSg (sg := sg) u.target x (.sgsetK sg a b) r
      refine ⟨fun _ => (mem f1).1, (mem f1).2, f2, f3, f4, f5, f6, fun c k _ n => absurd rfl (n sg a b),
        fun c k _ _ _ _ n nk => f7 c k n (by rw [ht]; exact nk), fun j => .inl (by rw [f8]), fun j => .inl (by rw [f9]), fun j => ?_⟩
      by_cases hj : j = sg
      · exact .inr ⟨a, b, .inr (by rw [hj])⟩
      · exact .inl (f10 j hj)
  by_cases hpost : ∃ a, i = .kpost a
  · obtain ⟨a, rfl⟩ := hpost
    exact keeperFrame_of_fetches (fetches_kpost h) fun k => k.resolve_right fun n => n a rfl
  · have r := runs_keeperOnly hi hresume hkill hret (fun sg a b e => hset ⟨sg, a, b, e⟩) (fun sg a b e => hsetK ⟨sg, a, b, e⟩)
      (fun a e => hpost ⟨a, e⟩) h
    exact keeperFrame_of_fetches (r.fetches (p := False)) fun _ => id

end Sys2Proof.Machine

namespace Sys2Proof.Machine
open Sys2Proof

-- Frames: tows -------------------------------------------------------------------------------------------------------------------------------

/-- No thread waits in a moor whose status goes to the collective engine's port. -/
def NoMoor (s : State) : Prop := ∀ c k g n, (s.thread c k).st ≠ .blocked (.moor g (.e 2) n)

/-- What the end of a tow may do: a thread of `P` that is not Blocked keeps its registers and does not Block, none enters a moor, and outside the
cores nothing changes where `Q` holds and no moor writes the collective engine's port. -/
structure Tows (P : Nat → Fin 16 → Prop) (Q : Prop) (s t : State) : Prop where
  core : t.core = s.core
  slot : t.slot = s.slot
  keeps : ∀ c k, P c k → (∀ b, (s.thread c k).st ≠ .blocked b) →
    (s.thread c k).sameRegs (t.thread c k) ∧ ∀ b, (t.thread c k).st ≠ .blocked b
  moor : ∀ c k g d n, (t.thread c k).st = .blocked (.moor g d n) → (s.thread c k).st = .blocked (.moor g d n)
  outside : Q → NoMoor s → t.outside = s.outside

theorem Tows.trans {P : Nat → Fin 16 → Prop} {Q : Prop} {s t u : State} (h : Tows P Q s t) (g : Tows P Q t u) : Tows P Q s u where
  core := g.core.trans h.core
  slot := g.slot.trans h.slot
  keeps c k p n := by
    obtain ⟨⟨h1, h2, h3, h4, h5, h6, h7⟩, hb⟩ := h.keeps c k p n
    obtain ⟨⟨g1, g2, g3, g4, g5, g6, g7⟩, gb⟩ := g.keeps c k p hb
    exact ⟨⟨g1.trans h1, g2.trans h2, g3.trans h3, g4.trans h4, g5.trans h5, g6.trans h6, g7.trans h7⟩, gb⟩
  moor c k a d n e := h.moor c k a d n (g.moor c k a d n e)
  outside q n := (g.outside q fun c k a m e => n c k a m (h.moor c k a _ m e)).trans (h.outside q n)

theorem Rests.tows {P : Nat → Fin 16 → Prop} {Q : Prop} {s t : State} (h : Rests s t) : Tows P Q s t :=
  ⟨h.core, h.slot, fun c k _ n => ⟨(h.threads c k).1, fun b e => n b ((h.threads c k).2 b e)⟩, fun c k _ _ _ e => (h.threads c k).2 _ e,
    fun _ _ => h.outside⟩

theorem Tows.refl (P : Nat → Fin 16 → Prop) (Q : Prop) (s : State) : Tows P Q s s := (Rests.refl s).tows

/-- All threads of a set but one. -/
def But (P : Nat → Fin 16 → Prop) (c : Nat) (k : Fin 16) (d : Nat) (j : Fin 16) : Prop := P d j ∧ (d, j) ≠ (c, k)

/-- A thread that waits in moor is Blocked, so that nothing is said of its registers. -/
theorem Tows.of_moor {P : Nat → Fin 16 → Prop} {Q : Prop} {s t : State} {c : Nat} {k : Fin 16} {g : Half} {d : Dst} {n : Nat}
    (h : Tows (But P c k) (Q ∧ d ≠ .e 2) s t) (hst : (s.thread c k).st = .blocked (.moor g d n)) : Tows P Q s t where
  core := h.core
  slot := h.slot
  keeps c' k' p m := h.keeps c' k' ⟨p, fun e => by
    obtain ⟨rfl, rfl⟩ := Prod.mk.injEq .. ▸ e
    exact m _ hst⟩ m
  moor := h.moor
  outside q m := h.outside ⟨q, fun e => m c k g n (by rw [hst, e])⟩ m

/-- A thread that is left out is set to one that is in no moor anew. -/
theorem tows_setThread {P : Nat → Fin 16 → Prop} {Q : Prop} {s : State} {c : Nat} {k : Fin 16} {x : Thread}
    (h : ∀ g d n, x.st = .blocked (.moor g d n) → (s.thread c k).st = .blocked (.moor g d n)) : Tows (But P c k) Q s (s.setThread c k x) where
  core := rfl
  slot := rfl
  keeps c' k' p m := by rw [State.thread_setThread_ne s x p.2]; exact ⟨⟨rfl, rfl, rfl, rfl, rfl, rfl, rfl⟩, m⟩
  moor c' k' g d n e := by
    by_cases i : (c', k') = (c, k)
    · obtain ⟨rfl, rfl⟩ := Prod.mk.injEq .. ▸ i
      rw [State.thread_setThread_self] at e
      exact h g d n e
    · rwa [State.thread_setThread_ne s x i] at e
  outside _ _ := rfl

theorem rests_onThread {s : State} {c : Nat} {k : Fin 16} {f : State → State} (h : Rests (s.as c k) (f (s.as c k))) : Rests s (s.onThread c k f) :=
  ⟨rfl, rfl, h.threads, h.outside⟩

theorem rests_completePc (s : State) : Rests s (s.completePc none) := Rests.trans rests_setThread_st (rests_settleDone _)

theorem rests_keeperFence (s : State) (c : Nat) : Rests s (s.keeperFence c) := by
  unfold State.keeperFence
  split
  · split
    · exact rests_onThread (rests_completePc _)
    · exact .refl s
  · exact .refl s

theorem tows_moorDone {P : Nat → Fin 16 → Prop} {Q : Prop} (s : State) (c : Nat) (k : Fin 16) (d : Dst) (len : Nat) (v : Word) :
    Tows (But P c k) (Q ∧ d ≠ .e 2) s (s.moorDone c k d len v) := by
  have h := runs_complete (s.as c k) d v (some (nextPc (s.as c k).me len))
  have hme : (s.thread c k).Writes (some d) ((s.moorDone c k d len v).thread c k) := by
    have e : ((s.as c k).complete d v (some (nextPc (s.as c k).me len))).me = (s.moorDone c k d len v).thread c k := by
      rw [State.me, h.beside.core, h.beside.slot]
      rfl
    rw [← e]
    exact h.me
  have others : ∀ c' k', (c', k') ≠ (c, k) → (s.thread c' k').Untouched ((s.moorDone c k d len v).thread c' k') := fun c' k' n => h.beside.others c' k' n
  refine ⟨rfl, rfl, fun c' k' p m => ?_, fun c' k' g e n x => ?_, fun q _ => ?_⟩
  · have u := others c' k' p.2
    exact ⟨u.1, fun b e => m b (u.2 b e)⟩
  · by_cases i : (c', k') = (c, k)
    · obtain ⟨rfl, rfl⟩ := Prod.mk.injEq .. ▸ i
      rw [hme.moor g e n x, x]
    · exact (others c' k' i).2 _ x
  · have e : (d == .e 2) = false := beq_eq_false_iff_ne.mpr q.2
    have ho := h.effect
    rw [e] at ho
    exact ho

theorem tows_freeButties {P : Nat → Fin 16 → Prop} {Q : Prop} (s : State) (gid : Half) (l : List Nat) : Tows P Q s (s.freeButties gid l) := by
  induction l generalizing s with
  | nil => exact .refl P Q s
  | cons ta l ih => exact (Rests.tows rests_setThread_same).trans (ih _)

theorem tows_moorAway {P : Nat → Fin 16 → Prop} {Q : Prop} (s : State) (gid : Half) (but : Option Nat) (l : List Nat) :
    Tows P Q s (s.moorAway gid but l) := by
  induction l generalizing s with
  | nil => exact .refl P Q s
  | cons ta l ih =>
    rw [State.moorAway]
    refine Tows.trans ?_ (ih _)
    split
    · next g d n hst =>
      split
      · exact (tows_moorDone ..).of_moor hst
      · exact .refl P Q s
    · exact .refl P Q s

theorem tows_dissolve {P : Nat → Fin 16 → Prop} {Q : Prop} (s : State) (gid : Half) : Tows P Q s (s.dissolve gid) :=
  ((rests_setGroup ..).tows.trans (tows_freeButties ..)).trans (tows_moorAway ..)

/-- The tow of a thread that is a motor dissolves. -/
theorem tows_beforeBoard {P : Nat → Fin 16 → Prop} {Q : Prop} (s : State) (c : Nat) (k : Fin 16) : Tows P Q s (s.beforeBoard c k) := by
  unfold State.beforeBoard
  split
  · exact tows_dissolve ..
  · exact .refl P Q s

theorem tows_leaveTow {P : Nat → Fin 16 → Prop} {Q : Prop} (s : State) : Tows P Q s s.leaveTow :=
  (tows_beforeBoard s s.core s.slot).trans (Rests.tows rests_setThread_same)

theorem tows_board {P : Nat → Fin 16 → Prop} {Q : Prop} {s : State} {c : Nat} {k : Fin 16} {gid g : Half} {d : Dst} {n : Nat} (len : Nat)
    (hst : (s.thread c k).st = .blocked (.moor g d n)) : Tows P Q s (s.board c k gid d len) := by
  rw [State.board_eq]
  have h : Tows (But P c k) (Q ∧ d ≠ .e 2) s (((s.beforeBoard c k).moorDone c k d len 1).offRing c k) :=
    ((tows_beforeBoard s c k).trans (tows_moorDone ..)).trans (Rests.tows rests_of_cores)
  generalize ((s.beforeBoard c k).moorDone c k d len 1) = u at h ⊢
  refine Tows.of_moor (h.trans (tows_setThread fun a e m i => ?_)) hst
  change (if (u.thread c k).st = .runnable then SlotState.blocked .butty else (u.thread c k).st) = _ at i
  split at i
  · cases i
  · exact i

theorem tows_boardAll {P : Nat → Fin 16 → Prop} {Q : Prop} (s : State) (gid : Half) (cl : Nat) (l : List Nat) : Tows P Q s (boardAll s gid cl l) := by
  induction l generalizing s with
  | nil => exact .refl P Q s
  | cons ta l ih =>
    rw [boardAll]
    refine Tows.trans ?_ (ih _)
    split
    · next g d n hst =>
      split
      · exact tows_board n hst
      · exact .refl P Q s
    · exact .refl P Q s

theorem tows_startTow {P : Nat → Fin 16 → Prop} {Q : Prop} (s : State) (gid : Half) (r : Word) : Tows P Q s (s.startTow gid r) :=
  (((rests_setGroup ..).tows.trans (tows_boardAll ..)).trans (tows_moorAway ..)).trans (Rests.tows rests_setThread_same)

-- Frames: a thread that is killed --------------------------------------------------------------------------------------------------------------

theorem rests_orphanCmds (s : State) (c : Nat) (k : Fin 16) : Rests s (s.orphanCmds c k) := by
  unfold State.orphanCmds
  exact (((rests_setEngine s _ _).trans (rests_setEngine _ _ _)).trans (rests_setEngine _ _ _)).trans (rests_setEngine _ _ _)

theorem tows_vacate {P : Nat → Fin 16 → Prop} {Q : Prop} (s : State) (c : Nat) (k : Fin 16) : Tows (But P c k) Q s (s.vacate c k) := by
  unfold State.vacate
  extract_lets t u v x w
  have hu : Tows (But P c k) Q s u := tows_beforeBoard s c k
  have hv : Tows (But P c k) Q u v := (Rests.trans (t := u.leaveGroups (taNum c k)) rests_of_cores (rests_orphanCmds ..)).tows
  have hw : Tows (But P c k) Q v w := Rests.tows rests_setCore_slots
  exact (((hu.trans hv).trans hw).trans (tows_setThread (by intro _ _ _ h; cases h))).trans (rests_keeperFence ..).tows

theorem tows_kill {P : Nat → Fin 16 → Prop} {Q : Prop} (s : State) (c : Nat) (k : Fin 16) : Tows (But P c k) Q s (s.kill c k) := by
  unfold State.kill
  dsimp only
  split
  · exact (tows_vacate s c k).trans (rests_post ..).tows
  · exact (rests_count ..).tows.trans (tows_vacate ..)

end Sys2Proof.Machine

namespace Sys2Proof.Machine
open Sys2Proof

-- Frames: what an access at its home leaves of the cores ------------------------------------------------------------------------------------

/-- The cores are the same, whatever memory, engines and caches do. -/
structure CoresKept (s t : State) : Prop where
  cores : t.cores = s.cores
  coreInit : t.coreInit = s.coreInit
  core : t.core = s.core
  slot : t.slot = s.slot

theorem CoresKept.refl (s : State) : CoresKept s s := ⟨rfl, rfl, rfl, rfl⟩

theorem CoresKept.trans {s t u : State} (h : CoresKept s t) (g : CoresKept t u) : CoresKept s u :=
  ⟨g.cores.trans h.cores, g.coreInit.trans h.coreInit, g.core.trans h.core, g.slot.trans h.slot⟩

theorem Aloof.coresKept {s t : State} (h : Aloof s t) : CoresKept s t := ⟨h.cores, h.coreInit, h.core, h.slot⟩

theorem OnDies.coresKept {s t : State} (h : OnDies s t) : CoresKept s t := by
  obtain ⟨x, rfl⟩ := h
  exact ⟨rfl, rfl, rfl, rfl⟩

theorem CoresKept.thread {s t : State} (h : CoresKept s t) (c : Nat) (k : Fin 16) : t.thread c k = s.thread c k := by
  rw [State.thread, State.getCore_congr h.cores h.coreInit]; rfl

theorem CoresKept.beside {s t : State} (h : CoresKept s t) : Beside s t := ⟨h.core, h.slot, fun c k _ => .of_eq (h.thread c k)⟩

theorem CoresKept.tows {P : Nat → Fin 16 → Prop} {Q : Prop} {s t : State} (h : CoresKept s t) (q : ¬ Q) : Tows P Q s t :=
  ⟨h.core, h.slot, fun c k _ m => by rw [h.thread]; exact ⟨⟨rfl, rfl, rfl, rfl, rfl, rfl, rfl⟩, m⟩, fun c k _ _ _ e => by rwa [h.thread] at e,
    fun i => absurd i q⟩

theorem coresKept_orEntry (s : State) (a : Nat) (w : Word) : CoresKept s (orEntry s a w) := by
  unfold orEntry setPhysWord
  exact (aloof_physWrite ..).coresKept

theorem coresKept_deliver (s : State) (cl : Nat) (l : Leaf) : CoresKept s (deliver s cl l) := by
  unfold deliver
  extract_lets u
  have hu : CoresKept s u := by
    unfold u
    split
    · exact .refl s
    · exact coresKept_orEntry ..
  exact hu.trans ⟨rfl, rfl, rfl, rfl⟩

theorem coresKept_ensurePages (s : State) (cl asid access : Nat) (l : List Nat) : CoresKept s (ensurePages s cl asid access l).1 := by
  induction l generalizing s with
  | nil => exact .refl s
  | cons n l ih =>
    unfold ensurePages
    split
    · exact ih s
    · exact .refl s
    · split
      · exact .refl s
      · exact (coresKept_deliver ..).trans (ih _)

theorem coresKept_setDirty (s : State) (cl asid page : Nat) : CoresKept s (setDirty s cl asid page) := by
  unfold setDirty
  split
  · exact .refl s
  · next l _ =>
    split
    · exact .refl s
    · exact (coresKept_orEntry s l.entry 0x40).trans ⟨rfl, rfl, rfl, rfl⟩

theorem coresKept_setDirtyAll (s : State) (cl asid : Nat) (l : List Nat) : CoresKept s (setDirtyAll s cl asid l) := by
  induction l generalizing s with
  | nil => exact .refl s
  | cons n l ih => exact (coresKept_setDirty ..).trans (ih _)

theorem coresKept_writePieces (s : State) (ps : List (Leaf × Nat × Nat)) (bs : List Byte) : CoresKept s (writePieces s ps bs) := by
  induction ps generalizing s bs with
  | nil => exact .refl s
  | cons x ps ih => exact (aloof_physWrite ..).coresKept.trans (ih _ _)

theorem coresKept_homeWrite (s : State) (h : Home) (off : Nat) (bs : List Byte) : CoresKept s (homeWrite s h off bs) := by
  cases h with
  | raw a => exact (aloof_rawWrite ..).coresKept
  | dva cl asid a => exact (coresKept_setDirtyAll ..).trans (coresKept_writePieces ..)
  | held ps => exact coresKept_writePieces ..

theorem coresKept_writeLanes (s : State) (h : Home) (e : Nat) (v : Vec) (l : List Nat) : CoresKept s (writeLanes s h e v l) := by
  induction l generalizing s with
  | nil => exact .refl s
  | cons n l ih => exact (coresKept_homeWrite ..).trans (ih _)

theorem coresKept_performAt {s t : State} {h : Home} {op : MemOp} {data v : Vec} {exp : Word} (e : performAt s h op data exp = some (v, t)) :
    CoresKept s t := by
  cases op with
  | ld sz sg d =>
    simp only [performAt] at e
    split at e
    · cases e
    · cases e; exact .refl s
  | st sz => cases e; exact coresKept_homeWrite ..
  | vld sz mask d =>
    simp only [performAt] at e
    split at e
    · cases e
    · cases e; exact .refl s
  | vst sz m mask =>
    simp only [performAt] at e
    split at e
    · cases e; exact coresKept_homeWrite ..
    · cases e; exact coresKept_writeLanes ..
  | amo op wide d =>
    simp only [performAt] at e
    generalize (if wide = true then 8 else 4) = n at e
    split at e
    · cases e
    · split at e
      · cases e; exact coresKept_homeWrite ..
      · cases e; exact .refl s
  | bop op mask =>
    simp only [performAt] at e
    split at e
    · cases e
    · cases e; exact coresKept_homeWrite ..
  | wld first lines => cases e; exact .refl s

/-- The state that an access leaves where it is performed, whole or by half, has the same cores. -/
def Meets.CoresKept (s : State) : Meets → Prop
  | .done _ t => Machine.CoresKept s t
  | .half _ t => Machine.CoresKept s t
  | _ => True

theorem Meets.CoresKept.after {s t : State} {m : Meets} (h : Machine.CoresKept s t) (g : m.CoresKept t) : m.CoresKept s := by
  cases m with
  | done v u => exact h.trans g
  | half x u => exact h.trans g
  | poison | waits | faults => trivial

theorem coresKept_reachLine (x : Access) (s : State) (h : Home) (upper : Bool) (got : Option Vec) : (x.reachLine s h upper got).CoresKept s := by
  unfold Access.reachLine
  extract_lets ps
  split
  · trivial
  · split
    · trivial
    · next v t e =>
      have ht : CoresKept s t := (onDies_dvaTouch s ps).coresKept.trans (coresKept_performAt e)
      split <;> exact ht

theorem coresKept_reachHome (x : Access) (s : State) (h : Home) : (x.reachHome s h).CoresKept s := by
  unfold Access.reachHome
  split
  · dsimp only
    have hf : CoresKept s { s with fresh := s.fresh + 1 } := ⟨rfl, rfl, rfl, rfl⟩
    split
    · refine Meets.CoresKept.after (hf.trans ?_) (coresKept_reachLine ..)
      split
      · exact .refl _
      · exact coresKept_setDirtyAll ..
    · exact Meets.CoresKept.after hf (coresKept_reachLine ..)
  · extract_lets u
    have hu : CoresKept s u := by
      unfold u
      split
      · exact (onDies_dvaTouch ..).coresKept
      · exact .refl s
    split
    · trivial
    · next e => exact hu.trans (coresKept_performAt e)

theorem coresKept_reach (s : State) (c : Nat) (k : Fin 16) (x : Access) : (reach s c k x).CoresKept s := by
  unfold reach
  split
  · exact coresKept_reachLine ..
  · split
    · exact coresKept_reachHome ..
    · dsimp only
      split
      · trivial
      · trivial
      · split
        · trivial
        · exact coresKept_reachHome ..

theorem coresKept_flushRelaxed (s : State) (c : Nat) (k : Fin 16) (r : Relaxed) : CoresKept s (s.flushRelaxed c k r) := by
  unfold State.flushRelaxed
  dsimp only
  split
  · exact .refl s
  split
  · split
    · exact .refl s
    · exact (aloof_post ..).coresKept
  · have he := coresKept_ensurePages s (clusterOf c) (asidOf s (s.thread c k) k) 1 (if r.acc.kind = 3 then r.acc.pages else [])
    generalize (ensurePages s (clusterOf c) (asidOf s (s.thread c k) k) 1 (if r.acc.kind = 3 then r.acc.pages else [])).1 = u at he ⊢
    have hr := coresKept_reach u c k r.acc
    split
    · next v w e => rw [e] at hr; exact he.trans hr
    · next x w e =>
      rw [e] at hr
      have hr2 := coresKept_reach w c k x
      split
      · next v y f => rw [f] at hr2; exact (he.trans hr).trans hr2
      · exact he.trans hr
    · exact he

theorem coresKept_flushAll (s : State) (c : Nat) (k : Fin 16) (l : List Relaxed) : CoresKept s (s.flushAll c k l) := by
  induction l generalizing s with
  | nil => exact .refl s
  | cons r l ih => exact (coresKept_flushRelaxed ..).trans (ih _)

/-- A keeper kills a thread: nothing outside the cores changes where it has no relaxed access. -/
theorem tows_killSlot {P : Nat → Fin 16 → Prop} {Q : Prop} (s : State) (c : Nat) (k : Fin 16) (h : Q → (s.thread c k).relaxed = []) :
    Tows (But P c k) Q s (s.killSlot c k) := by
  unfold State.killSlot
  split
  · exact .refl _ Q s
  · refine Tows.trans ?_ (tows_kill ..)
    by_cases q : Q
    · rw [h q]; exact .refl _ Q s
    · exact (coresKept_flushAll ..).tows q

end Sys2Proof.Machine

namespace Sys2Proof.Machine
open Sys2Proof

-- Frames: a thread that resumes ---------------------------------------------------------------------------------------------------------------

theorem rests_awake (s : State) : Rests s s.awake :=
  rests_boundary (t := { s.me with st := .runnable, joined := s.clk }) ⟨rfl, rfl, rfl, rfl, rfl, rfl, rfl⟩ nofun

theorem beside_still (s : State) (b : Blocked) : Beside s (s.still b) := (beside_setMe s _).trans (rests_settleDone _).beside

theorem outside_still (s : State) (b : Blocked) : (s.still b).outside = s.outside := (rests_settleDone (s.setMe { s.me with st := .blocked b })).outside

/-- A thread returns to what it was Blocked in, or runs on: no other thread is touched, and nothing outside the cores changes unless its moor writes
the collective engine's port. -/
theorem unblock_frame (s : State) (b : Blocked) (done : Bool) :
    Beside s (s.unblock b done) ∧ ((∀ g n, b ≠ .moor g (.e 2) n) → (s.unblock b done).outside = s.outside) := by
  have rests : ∀ {t}, Rests s t → Beside s t ∧ ((∀ g n, b ≠ .moor g (.e 2) n) → t.outside = s.outside) := fun r => ⟨r.beside, fun _ => r.outside⟩
  have still : ∀ {c : Blocked}, Beside s (s.still c) ∧ ((∀ g n, b ≠ .moor g (.e 2) n) → (s.still c).outside = s.outside) :=
    ⟨beside_still s _, fun _ => outside_still s _⟩
  have done' : ∀ pc, Beside s (s.completePc pc) ∧ ((∀ g n, b ≠ .moor g (.e 2) n) → (s.completePc pc).outside = s.outside) := fun pc =>
    have r := runs_completePc (d := none) (c := false) s pc
    ⟨r.beside, fun _ => r.effect.outside⟩
  cases b with
  | wait m len =>
    simp only [State.unblock]
    split
    · exact done' _
    · exact still
  | bar g len =>
    simp only [State.unblock]
    split
    · exact done' _
    · exact still
  | queueRead q =>
    simp only [State.unblock]
    split
    · exact still
    · exact rests (rests_awake s)
  | queueWrite q =>
    simp only [State.unblock]
    split
    · exact still
    · exact rests (rests_awake s)
  | queuePush q v =>
    simp only [State.unblock]
    split
    · exact still
    · exact rests (Rests.trans (rests_setCore fun k => Core.untouched_pushQueue _ q v k) (rests_awake _))
  | moor g d len =>
    simp only [State.unblock]
    split
    · next v _ =>
      have r := runs_complete s d v (some (nextPc s.me len))
      refine ⟨r.beside, fun n => ?_⟩
      have e : (d == .e 2) = false := beq_eq_false_iff_ne.mpr fun e => n g len (by rw [e])
      have ho := r.effect
      rw [e] at ho
      exact ho
    · exact still
  | butty =>
    simp only [State.unblock]
    split
    · exact still
    · exact rests (rests_awake s)

theorem beside_land (s : State) (op : MemOp) (v : Vec) (pc : Option Word) : Beside s (s.land op v pc) := by
  have hm : ∀ t : State, Beside t (t.move pc) := fun t => (runs_move (d := none) (c := false) t pc).beside
  cases op with
  | ld sz sg d => exact (runs_finish ..).beside
  | vld sz mask d => exact (beside_setMe s _).trans (hm _)
  | amo op wide d => exact (runs_finish ..).beside
  | st _ | vst _ _ _ | bop _ _ | wld _ _ => exact hm s

theorem beside_fire (s : State) (n : Nat) : Beside s (fire s n) := (aloof_fire s n).coresKept.beside

theorem beside_launchRelaxed (s : State) (x : Access) (n : Nat) : Beside s (s.launchRelaxed x n) := by
  unfold State.launchRelaxed
  extract_lets t now u
  have hu : Beside s u := by
    unfold u
    split
    · exact (rests_post ..).beside
    · exact .refl s
  exact hu.trans (beside_setMe u _)

/-- An access that is performed anew. -/
theorem beside_startAccess (s : State) (x : Access) (rlx replayed : Bool) : Beside s (s.startAccess x rlx replayed) := by
  unfold State.startAccess
  dsimp only
  split
  · split
    · exact (rests_remove ..).beside
    · exact (rests_remove ..).beside.trans (runs_stamp (d := none) (c := false) _).beside
  split
  · split
    · exact (beside_fire s 65).trans (rests_trapThread ..).beside
    · next v u e => exact (coresKept_performAt e).beside.trans (beside_land ..)
  split
  · exact (beside_launchRelaxed ..).trans (runs_move (d := none) (c := false) _ _).beside
  split
  · exact (rests_remove ..).beside.trans (rests_post ..).beside
  · exact (rests_remove ..).beside

theorem beside_anew (s : State) (x : Access) : Beside s (s.anew x) := by
  unfold State.anew
  extract_lets _ u g
  have hu : Beside s u := beside_setMe ..
  split
  · exact hu.trans (rests_trapThread ..).beside
  · exact hu.trans (beside_startAccess ..)

theorem beside_anewRelaxed (s : State) (n : Nat) (x : Access) (p : Park) : Beside s (s.anewRelaxed n x p).2 := by
  unfold State.anewRelaxed
  extract_lets g _ u
  have hu : Beside s u := beside_setMe ..
  split
  · exact hu.trans (rests_trapRelaxed ..).beside
  · dsimp only
    split
    · exact hu.trans (beside_launchRelaxed ..)
    · split
      · exact hu.trans ((beside_fire u 65).trans (rests_trapRelaxed ..).beside)
      · next v w e => exact hu.trans ((coresKept_performAt e).beside.trans (beside_land ..))

theorem beside_replay (s : State) (p : Park) : Beside s (s.replay p) := by
  unfold State.replay
  split
  · exact (rests_awake s).beside
  · next x _ =>
    split
    · exact (rests_awake s).beside
    · have h : Rests s { s with iword := x.iword } := rests_of_cores
      exact (h.beside.trans (beside_setMe _ _)).trans ((beside_anew _ x).trans (rests_settleDone _).beside)
  · next x _ =>
    have ha := beside_anewRelaxed s s.me.foundAt x p
    split
    · next u e => rw [e] at ha; exact ha.trans (rests_keeperFence ..).beside
    · next u e =>
      rw [e] at ha
      split
      · exact ha.trans (rests_awake u).beside
      · exact ha.trans (unblock_frame ..).1

theorem beside_resumeMe (s : State) : Beside s s.resumeMe := by
  unfold State.resumeMe
  split
  · split
    · exact beside_replay ..
    · split
      · exact (unblock_frame ..).1
      · exact (rests_awake s).beside
  · exact .refl s

/-- A thread that parked without a fault resumes, and its moor, if it was in one, does not write the collective engine's port. -/
theorem outside_resumeMe {s : State} (hf : ∀ p, s.me.st = .parked p → p.fault = none)
    (hm : ∀ p g n, s.me.st = .parked p → p.before ≠ some (.moor g (.e 2) n)) : s.resumeMe.outside = s.outside := by
  unfold State.resumeMe
  split
  · next p hp =>
    rw [hf p hp, if_neg (by simp)]
    split
    · next b hb => exact (unblock_frame s b p.done).2 fun g n e => hm p g n hp (by rw [hb, e])
    · exact (rests_awake s).outside
  · rfl

/-- Another thread resumes: the executing one and all others stay untouched. -/
theorem resume_others (s : State) (c : Nat) (k : Fin 16) {d : Nat} {j : Fin 16} (h : (d, j) ≠ (c, k)) :
    (s.thread d j).Untouched ((s.resume c k).thread d j) := (beside_resumeMe (s.as c k)).others d j h

theorem outside_resume {s : State} {c : Nat} {k : Fin 16} (hf : ∀ p, (s.thread c k).st = .parked p → p.fault = none)
    (hm : ∀ p g n, (s.thread c k).st = .parked p → p.before ≠ some (.moor g (.e 2) n)) : (s.resume c k).outside = s.outside :=
  outside_resumeMe (s := s.as c k) hf hm

-- Frames: tow, moor, castoff, end, kresume, kkill, kret ---------------------------------------------------------------------------------------

/-- No thread waits in a moor on the collective engine's port, nor parked in one. -/
def NoCollectiveMoor (s : State) : Prop := NoMoor s ∧ ∀ c k p g n, (s.thread c k).st = .parked p → p.before ≠ some (.moor g (.e 2) n)

/-- The frame of an instruction that ends a tow or resumes a thread. -/
structure TowFrame (P : Nat → Fin 16 → Prop) (Q : Prop) (i : Instr) (s t : State) : Prop where
  core : t.core = s.core
  slot : t.slot = s.slot
  me : s.me.RegsBut (instrDst i) t.me
  others : ∀ c j, (c, j) ≠ (s.core, s.slot) → P c j → (∀ b, (s.thread c j).st ≠ .blocked b) → (s.thread c j).sameRegs (t.thread c j)
  effect : Q → NoCollectiveMoor s → Effect (mayCollect i) s t

theorem Runs.towFrame {P : Nat → Fin 16 → Prop} {Q : Prop} {i : Instr} {s t : State} (h : Runs (instrDst i) (mayCollect i) s t) : TowFrame P Q i s t :=
  ⟨h.beside.core, h.beside.slot, h.me.toRegsBut, fun c j n _ _ => (h.beside.others c j n).1, fun _ _ => h.effect⟩

/-- A step that writes nothing, then what a tow's end does, then a destination. -/
theorem towFrame_of_tows {P : Nat → Fin 16 → Prop} {Q : Prop} {i : Instr} {s u v t : State} (h : Runs none false s u) (hme : P s.core s.slot)
    (hb : ∀ b, u.me.st ≠ .blocked b) (g : Tows P Q u v) (r : Runs (instrDst i) (mayCollect i) v t) : TowFrame P Q i s t where
  core := r.beside.core.trans (g.core.trans h.beside.core)
  slot := r.beside.slot.trans (g.slot.trans h.beside.slot)
  me := by
    have e : v.me = v.thread u.core u.slot := by rw [State.me, g.core, g.slot]
    have hk := (g.keeps u.core u.slot (by rw [h.beside.core, h.beside.slot]; exact hme) hb).1
    exact (h.me.of_none.toRegsBut.trans (by rw [e]; exact hk.regsBut _)).trans r.me.toRegsBut
  others c j n p m := by
    have hu := h.beside.others c j n
    obtain ⟨k, -⟩ := g.keeps c j p fun b e => m b (hu.2 b e)
    have hr := r.beside.others c j (by rw [g.core, g.slot, h.beside.core, h.beside.slot]; exact n)
    obtain ⟨a1, a2, a3, a4, a5, a6, a7⟩ := hu.1
    obtain ⟨b1, b2, b3, b4, b5, b6, b7⟩ := k
    obtain ⟨c1, c2, c3, c4, c5, c6, c7⟩ := hr.1
    exact ⟨c1.trans (b1.trans a1), c2.trans (b2.trans a2), c3.trans (b3.trans a3), c4.trans (b4.trans a4), c5.trans (b5.trans a5),
      c6.trans (b6.trans a6), c7.trans (b7.trans a7)⟩
  effect q n := by
    refine .after ((g.outside q fun c k a m e => ?_).trans h.effect.outside) r.effect
    by_cases hc : (c, k) = (s.core, s.slot)
    · obtain ⟨rfl, rfl⟩ := Prod.mk.injEq .. ▸ hc
      exact hb (.moor a (.e 2) m) (by rw [State.me, h.beside.core, h.beside.slot]; exact e)
    · exact n.1 c k a m ((h.beside.others c k hc).2 _ e)

end Sys2Proof.Machine

namespace Sys2Proof.Machine
open Sys2Proof

-- Frames: a source that is read leaves a parked thread parked ------------------------------------------------------------------------------

/-- A thread's state stays, or it runs on. -/
def Thread.MayRun (t u : Thread) : Prop := u.st = t.st ∨ u.st = .runnable

theorem Thread.MayRun.trans {t u x : Thread} (h : t.MayRun u) (g : u.MayRun x) : t.MayRun x :=
  g.elim (fun e => h.imp e.trans e.trans) .inr

theorem Thread.mayRun_retryRead (q : Fin 8) (t : Thread) : t.MayRun (t.retryRead q) := by
  unfold Thread.retryRead
  split
  · split
    · exact .inr rfl
    · exact .inl rfl
  · exact .inl rfl

theorem Thread.mayRun_retryWrite (q : Fin 8) (t : Thread) : t.MayRun (t.retryWrite q) := by
  unfold Thread.retryWrite
  split
  · split
    · exact .inr rfl
    · exact .inl rfl
  · exact .inl rfl

theorem Core.mayRun_popQueue (x : Core) (q : Fin 8) (k : Fin 16) : (x.slots.get k).MayRun ((x.popQueue q).2.slots.get k) := by
  unfold Core.popQueue
  split
  · exact .inl rfl
  · dsimp only
    split
    · split
      · rw [Core.pushQueue, Core.slots_mapSlots]
        refine Thread.MayRun.trans ?_ (Thread.mayRun_retryRead q _)
        rw [Core.slots_setQueue, vget_set]
        split
        · exact .inr rfl
        · exact .inl rfl
      · exact .inl rfl
    · rw [Core.slots_mapSlots]
      exact Thread.mayRun_retryWrite q _

theorem Thread.mayRun_popElement (t : Thread) (p : Fin 4) : t.MayRun (t.popElement p).2 := by
  unfold Thread.popElement
  dsimp only
  split <;> exact .inl rfl

theorem mayRun_read (s : State) (a : Src) (c : Nat) (k : Fin 16) : (s.thread c k).MayRun ((s.read a).2.thread c k) := by
  cases a with
  | q q =>
    show (s.thread c k).MayRun ((s.setCore s.core (s.myCore.popQueue q).2).thread c k)
    unfold State.thread
    by_cases e : c = s.core
    · subst e
      rw [State.getCore_setCore_self]
      exact Core.mayRun_popQueue _ q k
    · rw [State.getCore_setCore_ne _ _ e]; exact .inl rfl
  | e p =>
    show (s.thread c k).MayRun ((s.setThread s.core s.slot (s.me.popElement p).2).thread c k)
    by_cases e : (c, k) = (s.core, s.slot)
    · obtain ⟨rfl, rfl⟩ := Prod.mk.injEq .. ▸ e
      rw [State.thread_setThread_self]
      exact s.me.mayRun_popElement p
    · rw [State.thread_setThread_ne _ _ e]; exact .inl rfl
  | g _ | w _ | lit32 _ | lit64 _ | small _ => exact .inl rfl

theorem parked_of_read {s : State} {a : Src} {c : Nat} {k : Fin 16} {p : Park} (h : ((s.read a).2.thread c k).st = .parked p) :
    (s.thread c k).st = .parked p := by
  rcases mayRun_read s a c k with e | e
  · rw [← e, h]
  · rw [e] at h; cases h

-- Frames: the instructions of tows -----------------------------------------------------------------------------------------------------------------

/-- Every thread. -/
def Everyone (_ : Nat) (_ : Fin 16) : Prop := True

theorem Rests.not_blocked {s u : State} (h : Rests s u) (hr : s.me.st = .runnable) (b : Blocked) : u.me.st ≠ .blocked b := fun e => by
  have := h.me.2 b e
  rw [hr] at this
  cases this

theorem advance_not_blocked {u : State} (i : Instr) (h : ∀ b, u.me.st ≠ .blocked b) (b : Blocked) : (u.advance i).me.st ≠ .blocked b := by
  rw [State.advance, State.goTo, State.setMe_me, Thread.performed_st]
  exact h b

theorem towFrame_gated {P : Nat → Fin 16 → Prop} {Q : Prop} {i : Instr} {s : State} {f : State → State} (h : TowFrame P Q i s (f s)) :
    TowFrame P Q i s (s.gated i f) := by
  rcases s.gated_eq i f with e | ⟨g, e⟩
  · rw [e]; exact h
  · rw [e]; exact (runs_stop s g).towFrame

theorem towFrame_tow {s t : State} {a b : Src} {Q : Prop} (hr : s.me.st = .runnable) (h : exec (.tow a b) s = .next t) :
    TowFrame Everyone Q (.tow a b) s t := by
  cases h
  refine towFrame_gated ?_
  unfold State.withGroup
  dsimp only
  have ra : Rests s (s.read a).2 := rests_read s a
  have rb : Rests s ((s.read a).2.read b).2 := ra.trans (rests_read _ b)
  split
  · exact (ra.trans (rests_trapOpen ..)).runs.towFrame
  split
  · exact (rb.trans (rests_trapOpen ..)).runs.towFrame
  split
  · exact (rb.trans (rests_trapOpen ..)).runs.towFrame
  · exact towFrame_of_tows (rb.runs.then (runs_advance ..)) trivial (advance_not_blocked _ (rb.not_blocked hr))
      ((tows_leaveTow _).trans (tows_startTow ..)) (.refl _)

theorem towFrame_moor {s t : State} {d : Dst} {a : Src} {P : Nat → Fin 16 → Prop} {Q : Prop} (h : exec (.moor d a) s = .next t) :
    TowFrame P Q (.moor d a) s t := by
  cases h
  refine towFrame_gated ?_
  unfold State.withGroup
  dsimp only
  have ra : Rests s (s.read a).2 := rests_read s a
  split
  · exact (ra.trans (rests_trapOpen ..)).runs.towFrame
  split
  · exact (ra.trans (rests_trapOpen ..)).runs.towFrame
  split
  · exact (ra.runs.then (runs_result_of (i := .moor d a) rfl ..)).towFrame
  · next g _ _ _ =>
    have hb := ra.beside.trans (beside_setMe (s.read a).2
      { (s.read a).2.me with st := .blocked (.moor (fld (s.read a).1 0 16) d (lengthOf (.moor d a))), since := (s.read a).2.clk })
    refine ⟨hb.core, hb.slot, ?_, fun c j n _ _ => (hb.others c j n).1, fun _ _ => .of_outside ra.outside⟩
    rw [State.block, State.setMe_me]
    obtain ⟨h1, h2, h3, h4, h5, h6⟩ := ra.me.1.regsBut (instrDst (.moor d a))
    exact ⟨h1, h2, h3, h4, h5, h6⟩

theorem towFrame_castoff {s t : State} {Q : Prop} (hr : s.me.st = .runnable) (h : exec .castoff s = .next t) :
    TowFrame Everyone Q .castoff s t := by
  cases h
  split
  · exact Runs.towFrame runs_setMe_same
  · exact Runs.towFrame runs_setMe_same
  · exact towFrame_of_tows (runs_advance ..) trivial (advance_not_blocked _ (by rw [hr]; nofun)) (tows_leaveTow _) (.refl _)
  · exact (runs_advance ..).towFrame

theorem giveWay_not_blocked {u : State} (i : Instr) (h : ∀ b, u.me.st ≠ .blocked b) (b : Blocked) : (u.giveWay i).me.st ≠ .blocked b := by
  rw [State.giveWay, State.setMe_me]
  exact advance_not_blocked i h b

theorem towFrame_endT {s t : State} {Q : Prop} (hr : s.me.st = .runnable) (h : exec .endT s = .next t) : TowFrame Everyone Q .endT s t := by
  cases h
  refine towFrame_gated ?_
  split
  · exact (runs_remove s _).towFrame
  split
  · exact towFrame_of_tows (runs_giveWay s .endT) trivial (giveWay_not_blocked _ (by rw [hr]; nofun)) (tows_leaveTow _) (.refl _)
  · exact (runs_giveWay s .endT).towFrame

-- Frames: the keeper's target -----------------------------------------------------------------------------------------------------------------------

/-- A step that writes nothing, then one of the keeper's target alone, then a destination. -/
theorem towFrame_of_target {Q : Prop} {i : Instr} {s u v t : State} {k : Fin 16} (h : Runs none false s u) (r : Runs (instrDst i) (mayCollect i) v t)
    (hk : k ≠ s.slot) (hc : v.core = u.core) (hs : v.slot = u.slot) (g : ∀ d j, (d, j) ≠ (u.core, k) → (u.thread d j).Untouched (v.thread d j))
    (ho : Q → NoCollectiveMoor s → v.outside = u.outside) : TowFrame (But Everyone s.core k) Q i s t := by
  have hne : (u.core, u.slot) ≠ (u.core, k) := fun e => hk ((congrArg Prod.snd e).symm.trans h.beside.slot)
  have hme : u.me.Untouched v.me := by
    rw [State.me, State.me, hc, hs]
    exact g _ _ hne
  refine ⟨r.beside.core.trans (hc.trans h.beside.core), r.beside.slot.trans (hs.trans h.beside.slot),
    (h.me.of_none.toRegsBut.trans (hme.1.regsBut _)).trans r.me.toRegsBut, fun c j n p _ => ?_, fun q n => .after ((ho q n).trans h.effect.outside) r.effect⟩
  have h1 := h.beside.others c j n
  have h2 := g c j (by rw [h.beside.core]; exact p.2)
  have h3 := r.beside.others c j (by rw [hc, hs, h.beside.core, h.beside.slot]; exact n)
  exact ((h1.trans h2).trans h3).1

/-- Where the keeper's target has no relaxed access and no fault to replay. -/
def TargetQuiet (s : State) : Prop := (s.thread s.core s.target).relaxed = [] ∧ ∀ p, (s.thread s.core s.target).st = .parked p → p.fault = none

theorem towFrame_keeper {P : Nat → Fin 16 → Prop} {Q : Prop} {i : Instr} {s : State} {f : State → State} (h : s.slot.val = 0 → TowFrame P Q i s (f s)) :
    TowFrame P Q i s (s.keeper i f) := by
  unfold State.keeper
  split
  · exact towFrame_gated (h (by assumption))
  · exact (runs_trap s ..).towFrame

/-- A target that is not slot 0 is not the keeper. -/
theorem target_ne {s : State} {k : Fin 16} (h0 : s.slot.val = 0) (hk : ¬ k.val = 0) : k ≠ s.slot := fun e => hk (by rw [e, h0])

theorem towFrame_kresume {s t : State} {d : Dst} (h : exec (.kresume d) s = .next t) :
    TowFrame (But Everyone s.core s.target) (TargetQuiet s) (.kresume d) s t := by
  cases h
  refine towFrame_keeper fun h0 => ?_
  dsimp only
  split
  · exact (runs_result_of (i := .kresume d) rfl ..).towFrame
  · next hk =>
    exact towFrame_of_target (.refl s) (runs_result_of (i := .kresume d) rfl ..) (target_ne h0 hk) rfl rfl (fun c j n => resume_others s _ _ n)
      fun q n => outside_resume q.2 fun p g m e => n.2 _ _ p g m e

theorem towFrame_kkill {s t : State} {d : Dst} (hr : s.me.st = .runnable) (h : exec (.kkill d) s = .next t) :
    TowFrame (But Everyone s.core s.target) (TargetQuiet s) (.kkill d) s t := by
  cases h
  refine towFrame_keeper fun h0 => ?_
  dsimp only
  split
  · exact (runs_result_of (i := .kkill d) rfl ..).towFrame
  · next hk =>
    exact towFrame_of_tows (.refl s) ⟨trivial, fun e => target_ne h0 hk (congrArg Prod.snd e).symm⟩ (by rw [hr]; nofun)
      (tows_killSlot s _ _ fun q => q.1) (runs_result_of (i := .kkill d) rfl ..)

theorem towFrame_kret {s t : State} {r : Fin 32} {a : Src} (h : exec (.kret r a) s = .next t) :
    TowFrame (But Everyone s.core s.target) (TargetQuiet s) (.kret r a) s t := by
  cases h
  refine towFrame_keeper fun h0 => ?_
  dsimp only
  have ra : Rests s (s.read a).2 := rests_read s a
  have ht : (s.read a).2.target = s.target := (keepsKeeper_read s a).selected
  have hc : (s.read a).2.core = s.core := ra.core
  rw [ht]
  split
  · next p hp =>
    split
    · exact (ra.runs.then (runs_advance ..)).towFrame
    · next hk =>
      refine towFrame_of_target ra.runs (runs_advance ..) (target_ne h0 hk) rfl rfl (fun c j n => ?_) (fun q n => ?_)
      · have e := resume_others ((s.read a).2.setThread (s.read a).2.core s.target
          (((s.read a).2.thread (s.read a).2.core s.target).setReg r (s.read a).1)) _ _ n
        rwa [State.thread_setThread_ne _ _ n] at e
      · have hst : ∀ x, (((s.read a).2.setThread (s.read a).2.core s.target
            (((s.read a).2.thread (s.read a).2.core s.target).setReg r (s.read a).1)).thread (s.read a).2.core s.target).st = .parked x →
            (s.thread s.core s.target).st = .parked x := fun x e => by
          rw [State.thread_setThread_self, hc] at e
          have e' : (((s.read a).2.thread s.core s.target).setReg r (s.read a).1).st = ((s.read a).2.thread s.core s.target).st := by
            unfold Thread.setReg
            split <;> rfl
          exact parked_of_read (e' ▸ e)
        exact outside_resume (fun x e => q.2 x (hst x e)) fun x g m e => n.2 _ _ x g m (hst x e)
  · exact (ra.runs.then (runs_advance ..)).towFrame

theorem towAndResumeFrame : Claims.TowAndResumeFrame := by
  intro s t i tows hr h hi
  extract_lets k T quiet moors
  have nocol : (∀ c k d, moors (s.thread c k) d → d ≠ .e 2) → NoCollectiveMoor s := fun m =>
    ⟨fun c k g n e => m c k _ ⟨g, n, .inl e⟩ rfl, fun c k p g n e f => m c k _ ⟨g, n, .inr ⟨p, e, f⟩⟩ rfl⟩
  have finish : ∀ {P : Nat → Fin 16 → Prop} {Q : Prop}, TowFrame P Q i s t → (quiet → Q) →
      (∀ c j, (tows = true ∨ (c, j) ≠ (s.core, k)) → P c j) → _ := fun f hq hp =>
    show (quiet → (∀ c k d, moors (s.thread c k) d → d ≠ .e 2) → MemoryKeepsBy s t i) ∧
      t.core = s.core ∧ t.slot = s.slot ∧ t.me.v = s.me.v ∧ t.me.m = s.me.m ∧ t.me.sg = s.me.sg ∧ t.me.special = s.me.special ∧
      (∀ j, t.me.g.get j = s.me.g.get j ∨ instrDst i = some (.g j)) ∧ (∀ j, t.me.w.get j = s.me.w.get j ∨ instrDst i = some (.w j)) ∧
      ∀ c j, (c, j) ≠ (s.core, s.slot) → (tows = true ∨ (c, j) ≠ (s.core, k)) → (∀ b, (s.thread c j).st ≠ .blocked b) →
        (s.thread c j).sameRegs (t.thread c j) from
    ⟨fun q m => (f.effect (hq q) (nocol m)).memoryKeepsBy, f.core, f.slot, f.me.v, f.me.m, f.me.sg, f.me.special, f.me.g, f.me.w,
      fun c j n p b => f.others c j n (hp c j p) b⟩
  rcases hi with ⟨ht, ⟨a, b, rfl⟩ | ⟨d, a, rfl⟩ | rfl | rfl⟩ | ⟨ht, ⟨d, rfl⟩ | ⟨d, rfl⟩ | ⟨r, a, rfl⟩⟩
  · exact finish (towFrame_tow (Q := True) hr h) (fun _ => trivial) fun _ _ _ => trivial
  · exact finish (towFrame_moor (P := Everyone) (Q := True) h) (fun _ => trivial) fun _ _ _ => trivial
  · exact finish (towFrame_castoff (Q := True) hr h) (fun _ => trivial) fun _ _ _ => trivial
  · exact finish (towFrame_endT (Q := True) hr h) (fun _ => trivial) fun _ _ _ => trivial
  all_goals
    have hq : quiet → TargetQuiet s := fun q => q.resolve_left (by rw [ht]; nofun)
    have hp : ∀ c j, (tows = true ∨ (c, j) ≠ (s.core, k)) → But Everyone s.core s.target c j := fun c j p =>
      ⟨trivial, p.resolve_left (by rw [ht]; nofun)⟩
  · exact finish (towFrame_kresume h) hq hp
  · exact finish (towFrame_kkill hr h) hq hp
  · exact finish (towFrame_kret h) hq hp

end Sys2Proof.Machine

namespace Sys2Proof.Machine
open Sys2Proof

-- Frames: what the helm side leaves unchanged ---------------------------------------------------------------------------------------------------

/-- A hart's integer registers, pc and mode are the same. -/
def Hart.Alike (x y : Hart) : Prop := y.x = x.x ∧ y.pc = x.pc ∧ y.mode = x.mode

theorem Hart.Alike.refl (x : Hart) : x.Alike x := ⟨rfl, rfl, rfl⟩

theorem Hart.Alike.trans {x y z : Hart} (h : x.Alike y) (g : y.Alike z) : x.Alike z :=
  ⟨g.1.trans h.1, g.2.1.trans h.2.1, g.2.2.trans h.2.2⟩

theorem Hart.getX_congr {x y : Hart} (h : y.x = x.x) (j : Fin 32) : y.getX j = x.getX j := by simp only [Hart.getX, h]

/-- Cores, time, power and the other harts are as they were, and of the hart that executes every integer register outside P. -/
structure HelmKeeps (P : Fin 32 → Prop) (s t : State) : Prop where
  cores : t.cores = s.cores
  coreInit : t.coreInit = s.coreInit
  hart : t.hart = s.hart
  clk : t.clk = s.clk
  mtime : t.mtime = s.mtime
  power : t.power = s.power
  others : ∀ h, h ≠ s.hart.val → (s.getHart h).Alike (t.getHart h)
  own : ∀ j, ¬ P j → t.myHart.getX j = s.myHart.getX j

variable {P : Fin 32 → Prop}

/-- A change that leaves cores, harts, time and power alone. -/
theorem helmKeeps_of_harts {s t : State} (harts : t.harts = s.harts := by rfl) (cores : t.cores = s.cores := by rfl)
    (coreInit : t.coreInit = s.coreInit := by rfl) (hart : t.hart = s.hart := by rfl) (clk : t.clk = s.clk := by rfl)
    (mtime : t.mtime = s.mtime := by rfl) (power : t.power = s.power := by rfl) : HelmKeeps P s t := by
  have e : t.getHart = s.getHart := funext fun h => by rw [State.getHart, State.getHart, harts]
  refine ⟨cores, coreInit, hart, clk, mtime, power, fun h _ => ?_, fun j _ => ?_⟩
  · rw [e]; exact .refl _
  · rw [State.myHart, State.myHart, e, hart]

theorem HelmKeeps.refl (s : State) : HelmKeeps P s s := helmKeeps_of_harts

theorem HelmKeeps.trans {s t u : State} (h : HelmKeeps P s t) (g : HelmKeeps P t u) : HelmKeeps P s u where
  cores := g.cores.trans h.cores
  coreInit := g.coreInit.trans h.coreInit
  hart := g.hart.trans h.hart
  clk := g.clk.trans h.clk
  mtime := g.mtime.trans h.mtime
  power := g.power.trans h.power
  others n hn := (h.others n hn).trans (g.others n (h.hart ▸ hn))
  own j hj := (g.own j hj).trans (h.own j hj)

/-- A change of the harts that leaves each one's registers, pc and mode. -/
theorem helmKeeps_of_alike {s : State} {harts : SMap Hart} (h : ∀ n, (s.getHart n).Alike (SMap.getD harts n {})) :
    HelmKeeps P s { s with harts := harts } :=
  ⟨rfl, rfl, rfl, rfl, rfl, rfl, fun n _ => h n, fun j _ => Hart.getX_congr (h s.hart.val).1 j⟩

theorem helmKeeps_setHart {s : State} {n : Nat} {x : Hart} (h : (s.getHart n).Alike x) : HelmKeeps P s (s.setHart n x) := by
  refine helmKeeps_of_alike fun m => ?_
  by_cases e : m = n
  · subst e; rw [SMap.getD_set_self]; exact h
  · rw [SMap.getD_set_ne _ _ _ e]; exact .refl _

/-- The hart that executes may change all but the registers outside P. -/
theorem helmKeeps_setMyHart {s : State} {x : Hart} (h : ∀ j, ¬ P j → x.getX j = s.myHart.getX j) : HelmKeeps P s (s.setMyHart x) := by
  refine ⟨rfl, rfl, rfl, rfl, rfl, rfl, fun n hn => ?_, fun j hj => ?_⟩
  · rw [State.setMyHart, State.getHart_setHart_ne _ _ hn]; exact .refl _
  · rw [State.setMyHart_myHart]; exact h j hj

theorem HelmKeeps.ite {c : Prop} [Decidable c] {s t u : State} (h : HelmKeeps P s t) (g : HelmKeeps P s u) :
    HelmKeeps P s (if c then t else u) := by
  split
  · exact h
  · exact g

theorem helmKeeps_iter {f : Nat → State → State} (h : ∀ n s, HelmKeeps P s (f n s)) (n : Nat) (s : State) : HelmKeeps P s (iter f n s) := by
  induction n with
  | zero => exact .refl s
  | succ n ih => exact ih.trans (h n _)

theorem helmKeeps_fire (s : State) (n : Nat) : HelmKeeps P s (fire s n) := by
  simp only [fire]
  split
  · split <;> exact helmKeeps_setHart ⟨rfl, rfl, rfl⟩
  · exact .refl s

theorem helmKeeps_physWrite (s : State) (g a : Nat) (bs : List Byte) : HelmKeeps P s (physWrite s g a bs) := by
  obtain ⟨mem, written, poison, gen, h⟩ := physWrite_eq s g a bs
  rw [h]
  exact helmKeeps_of_harts

theorem OnDies.helmKeeps {s t : State} (h : OnDies s t) : HelmKeeps P s t := by
  obtain ⟨x, rfl⟩ := h
  exact helmKeeps_of_harts

theorem helmKeeps_homeLines (s : State) (g a n : Nat) : HelmKeeps P s (homeLines s g a n) :=
  (onDies_iter (fun i s => onDies_homeLine s g (a / 64 + i)) _ s).helmKeeps

-- Frames: the helm caches ---------------------------------------------------------------------------------------------------------------------------

theorem helmKeeps_homeWrite (s : State) (g a : Nat) (bs : List Byte) : HelmKeeps P s (helmHomeWrite s g a bs) :=
  (helmKeeps_homeLines ..).trans (helmKeeps_physWrite ..)

theorem helmKeeps_lineHome (s : State) (l : Nat) (x : HelmLine) : HelmKeeps P s (lineHome s l x) := by
  have h : HelmKeeps P s (helmHomeWrite s x.gen (l * 64) (natBytes 64 x.bytes.toNat)) := helmKeeps_homeWrite ..
  exact .ite (h.trans helmKeeps_of_harts) h

theorem helmKeeps_dropLine (s : State) (l : Nat) : HelmKeeps P s (dropLine s l) := by
  unfold dropLine
  split
  · exact .refl s
  · next x _ =>
    have h : HelmKeeps P s { s with helmCache := SMap.erase s.helmCache l } := helmKeeps_of_harts
    exact .ite (h.trans (helmKeeps_lineHome ..)) h

theorem helmKeeps_syncLines (s : State) (g a n : Nat) : HelmKeeps P s (syncLines s g a n) := by
  refine helmKeeps_iter (fun i s => ?_) _ s
  split
  · exact .ite (.refl s) (helmKeeps_dropLine ..)
  · exact .refl s

theorem helmKeeps_openLines (s : State) (g a n : Nat) : HelmKeeps P s (openLines s g a n) :=
  helmKeeps_iter (fun i s => .ite (.refl s) (onDies_homeLine s g (a / 64 + i)).helmKeeps) _ s

theorem helmKeeps_see (s : State) (g a n : Nat) : HelmKeeps P s (helmSee s g a n).2 :=
  (helmKeeps_syncLines s g a n).trans (helmKeeps_openLines ..)

theorem helmKeeps_putLine (s : State) (g a : Nat) (bs : List Byte) : HelmKeeps P s (helmPutLine s g a bs) := by
  unfold helmPutLine
  split
  · exact helmKeeps_of_harts
  · exact helmKeeps_physWrite ..

theorem helmKeeps_put (s : State) (g a : Nat) (bs : List Byte) (n : Nat) : HelmKeeps P s (helmPut s g a bs n) := by
  induction n generalizing s a bs with
  | zero => exact .refl s
  | succ n ih => exact (helmKeeps_putLine s g a _).trans (ih _ _ _)

/-- A write ends reservations only. -/
theorem helmKeeps_dropReserved (s : State) (a n : Nat) : HelmKeeps P s (dropReserved s a n) := by
  unfold dropReserved
  split
  · refine helmKeeps_of_alike fun m => ?_
    rw [State.getHart, SMap.getD, SMap.getD, SMap.find_map fun x : Hart => if x.hitBy a n then { x with reserved := none } else x]
    cases SMap.find s.harts m with
    | none => exact .refl _
    | some x =>
      dsimp only [Option.map_some, Option.getD_some]
      split <;> exact ⟨rfl, rfl, rfl⟩
  · exact .refl s

theorem helmKeeps_write (s : State) (g a : Nat) (bs : List Byte) : HelmKeeps P s (helmWrite s g a bs) :=
  (((helmKeeps_syncLines s g a bs.length).trans (helmKeeps_dropReserved ..)).trans (helmKeeps_openLines ..)).trans (helmKeeps_put ..)

-- Frames: walks and translation on the helm side ------------------------------------------------------------------------------------------------

theorem helmKeeps_orEntry (s : State) (a : Nat) (w : Word) : HelmKeeps P s (orEntry s a w) := by
  unfold orEntry setPhysWord
  exact helmKeeps_physWrite ..

theorem helmKeeps_walked {s t : State} {d asid dva access : Nat} {l : Leaf} (h : walked s d asid dva access = .ok (l, t)) :
    HelmKeeps P s t := by
  unfold walked at h
  cases hw : walk s (asTable s d) asid dva access with
  | error e => rw [hw] at h; cases h
  | ok m =>
    rw [hw] at h
    obtain ⟨rfl, rfl⟩ := Prod.mk.inj (Except.ok.inj h)
    exact HelmKeeps.trans (.ite (.refl s) (helmKeeps_orEntry s m.entry 0x20)) (.ite (helmKeeps_orEntry ..) (.refl _))

/-- A walk of a hart's tables, wherever its entries lie. -/
theorem helmKeeps_walkTables {q : Walk} {place : Nat → State → Except HelmFault (Nat × State)} {g : Nat}
    (hp : ∀ {a s b t}, place a s = .ok (b, t) → HelmKeeps P s t) {n va tbl : Nat} {s t : State} {pa : Nat} {m : Pbmt}
    (h : walkTables q place g va n tbl s = .ok (pa, m, t)) : HelmKeeps P s t := by
  induction n generalizing va tbl s with
  | zero => cases h
  | succ n ih =>
    unfold walkTables at h
    cases e : place (tbl + 8 * (va / 2 ^ (12 + 9 * n))) s with
    | error f => rw [e] at h; cases h
    | ok r =>
      obtain ⟨a, u⟩ := r
      rw [e] at h
      refine (hp e).trans ((helmKeeps_see u g a 8).trans ?_)
      dsimp only at h
      split at h
      · cases h
      · split at h
        · cases h
        · split at h
          · cases h
          · split at h
            · split at h
              · split at h
                · cases h; exact .refl _
                · cases h
              · cases h
            · split at h
              · cases h
              · exact ih h

theorem helmKeeps_secondStage {x : Hart} {e : Eye} {g : Nat} {acc : HelmAcc} {va : Word} {implicit : Bool} {gpa : Nat} {s t : State} {pa : Nat}
    {m : Pbmt} (h : secondStage x e g acc va implicit gpa s = .ok (pa, m, t)) : HelmKeeps P s t := by
  unfold secondStage at h
  dsimp only at h
  split at h
  · cases h; exact .refl s
  · split at h
    · cases h
    · exact helmKeeps_walkTables (fun e => by cases e; exact .refl _) h

theorem helmKeeps_entryPlace {x : Hart} {e : Eye} {g : Nat} {acc : HelmAcc} {va : Word} {a b : Nat} {s t : State}
    (h : entryPlace x e g acc va a s = .ok (b, t)) : HelmKeeps P s t := by
  unfold entryPlace at h
  split at h
  · cases e2 : secondStage x e g acc va true a s with
    | error f => rw [e2] at h; cases h
    | ok r => rw [e2] at h; cases h; exact helmKeeps_secondStage e2
  · cases h; exact .refl s

theorem helmKeeps_firstStage {x : Hart} {e : Eye} {g : Nat} {acc : HelmAcc} {va : Word} {s t : State} {pa : Nat} {m : Pbmt}
    (h : firstStage x e g acc va s = .ok (pa, m, t)) : HelmKeeps P s t := by
  unfold firstStage at h
  dsimp only at h
  split at h
  · cases h; exact .refl s
  · split at h
    · exact helmKeeps_walkTables helmKeeps_entryPlace h
    · cases h

theorem helmKeeps_translate {s t : State} {x : Hart} {e : Eye} {g : Nat} {acc : HelmAcc} {va : Word} {pa : Nat} {m : Pbmt}
    (h : helmTranslate s x e g acc va = .ok (pa, m, t)) : HelmKeeps P s t := by
  unfold helmTranslate at h
  cases e1 : firstStage x e g acc va s with
  | error f => rw [e1] at h; cases h
  | ok r =>
    obtain ⟨a, n, u⟩ := r
    rw [e1] at h
    refine (helmKeeps_firstStage e1).trans ?_
    dsimp only at h
    split at h
    · cases e2 : secondStage x e g acc va false a u with
      | error f => rw [e2] at h; cases h
      | ok r => rw [e2] at h; cases h; exact helmKeeps_secondStage e2
    · cases h; exact .refl _

-- Frames: pools -----------------------------------------------------------------------------------------------------------------------------------------

theorem helmKeeps_disablePool (s : State) (d p : Nat) : HelmKeeps P s (disablePool s d p) := by
  have h : HelmKeeps P s (setPool s d p { getPool s d p with enabled := false }) := helmKeeps_of_harts
  exact h.trans (helmKeeps_fire ..)

theorem helmKeeps_walkSetWord {s t : State} {d asid dva : Nat} {w : Word} (h : walkSetWord s d asid dva w = .ok t) : HelmKeeps P s t := by
  unfold walkSetWord at h
  cases e : walked s d asid dva 1 with
  | error f => rw [e] at h; cases h
  | ok r =>
    obtain ⟨l, u⟩ := r
    rw [e] at h
    cases h
    exact (helmKeeps_walked e).trans ((onDies_leafLines ..).helmKeeps.trans (helmKeeps_physWrite ..))

theorem helmKeeps_linkBlock {s t : State} {d p a : Nat} (h : linkBlock s d p a = .ok t) : HelmKeeps P s t := by
  unfold linkBlock at h
  dsimp only at h
  cases e : walkSetWord s d (getPool s d p).asid a (BitVec.ofNat 64 (getPool s d p).head) with
  | error f => rw [e] at h; cases h
  | ok u =>
    rw [e] at h
    cases h
    exact (helmKeeps_walkSetWord e).trans helmKeeps_of_harts

theorem helmKeeps_linkBlocks (s : State) (d p : Nat) (l : List Nat) : HelmKeeps P s (linkBlocks s d p l) := by
  induction l generalizing s with
  | nil => exact .refl s
  | cons a l ih =>
    unfold linkBlocks
    split
    · next e => exact (helmKeeps_linkBlock e).trans (ih _)
    · exact helmKeeps_disablePool ..

theorem helmKeeps_spillPool (s : State) (d p : Nat) : HelmKeeps P s (spillPool s d p) := by
  exact .ite (HelmKeeps.trans helmKeeps_of_harts (helmKeeps_linkBlocks ..)) (.refl s)

theorem helmKeeps_poolFreeNow (s : State) (d p a : Nat) : HelmKeeps P s (poolFreeNow s d p a) := by
  exact .ite (HelmKeeps.trans (t := poolFree s d p a) helmKeeps_of_harts (helmKeeps_spillPool ..)) (.refl s)

theorem helmKeeps_disableAll (s : State) (ps : List Nat) : HelmKeeps P s (s.disableAll ps) := by
  induction ps generalizing s with
  | nil => exact .refl s
  | cons p ps ih => exact (helmKeeps_disablePool s _ p).trans (ih _)

-- Frames: what a hart posts -----------------------------------------------------------------------------------------------------------------------------

theorem helmKeeps_writeEntry (s : State) (j : JRef) : HelmKeeps P s (writeEntry s j) := helmKeeps_physWrite ..

theorem helmKeeps_appendEntry (s : State) (w1 : Word) (accepted : Nat) (detail : List Word) :
    HelmKeeps P s (appendEntry s w1 accepted detail).2 := by
  unfold appendEntry
  extract_lets j u _ v full
  have hu : HelmKeeps P s u := helmKeeps_writeEntry s j
  have hv : HelmKeeps P u v := helmKeeps_of_harts
  exact hu.trans (hv.trans (.ite (helmKeeps_fire ..) (.refl v)))

theorem helmKeeps_restatus (s : State) (j : JRef) (status : Nat) : HelmKeeps P s (restatus s j status).2 := by
  unfold restatus
  dsimp only
  split
  · exact helmKeeps_appendEntry ..
  · exact helmKeeps_writeEntry s _

theorem helmKeeps_replyLeaves (s : State) (r : Record) : HelmKeeps P s (replyLeaves s r) := by
  unfold replyLeaves
  split
  · exact HelmKeeps.trans helmKeeps_of_harts (helmKeeps_restatus ..)
  · exact .refl s

theorem helmKeeps_post (s : State) (sender : Nat) (r : Record) : HelmKeeps P s (s.post sender r) := by
  unfold State.post
  dsimp only
  split
  · exact helmKeeps_of_harts
  · split <;> exact helmKeeps_of_harts

theorem helmKeeps_helmPost (s : State) (h : Fin 32) (r : Record) : HelmKeeps P s (s.helmPost h r) := by
  unfold State.helmPost
  extract_lets u v
  have hu : HelmKeeps P s u := helmKeeps_post ..
  have hv : HelmKeeps P u v := .ite helmKeeps_of_harts (.refl u)
  exact hu.trans (hv.trans (.ite (helmKeeps_replyLeaves ..) (.refl v)))

end Sys2Proof.Machine

namespace Sys2Proof.Machine
open Sys2Proof

-- Frames: the parts of a bytecode ---------------------------------------------------------------------------------------------------------------

/-- A part of a bytecode that leaves the frame of the helm side. -/
structure Swq.Tame (P : Fin 32 → Prop) {α : Type} (m : Swq α) : Prop where
  keeps : ∀ {s a t}, m s = .ok (a, t) → HelmKeeps P s t

variable {P : Fin 32 → Prop} {α β : Type}

theorem Swq.Tame.pure (a : α) : (Swq.pure a).Tame P := ⟨fun h => by cases h; exact .refl _⟩

theorem Swq.Tame.get (f : State → α) : (Swq.get f).Tame P := ⟨fun h => by cases h; exact .refl _⟩

theorem Swq.Tame.modify {f : State → State} (h : ∀ s, HelmKeeps P s (f s)) : (Swq.modify f).Tame P := ⟨fun e => by cases e; exact h _⟩

theorem Swq.Tame.bind {m : Swq α} {f : α → Swq β} (h : m.Tame P) (g : ∀ a, (f a).Tame P) : (m.bind f).Tame P := by
  refine ⟨fun {s b t} e => ?_⟩
  unfold Swq.bind at e
  split at e
  · next hm =>
    split at e
    · next hf => cases e; exact (h.keeps hm).trans ((g _).keeps hf)
    · cases e
  · cases e

theorem Swq.Tame.andThen {m : Swq Unit} {f : Swq β} (h : m.Tame P) (g : f.Tame P) : (m.andThen f).Tame P := h.bind fun _ => g

theorem Swq.Tame.ite {c : Prop} [Decidable c] {m n : Swq α} (h : m.Tame P) (g : n.Tame P) : (if c then m else n).Tame P := by
  split
  · exact h
  · exact g

-- Frames: the engine's memory --------------------------------------------------------------------------------------------------------------------

theorem helmKeeps_roomFor (s : State) (g l : Nat) : HelmKeeps P s (roomFor s g l) := by
  unfold roomFor
  exact .ite (.refl s) helmKeeps_of_harts

theorem helmKeeps_swqPlace {s t : State} {acc : HelmAcc} {a : Word} {pa g : Nat} {cached : Bool}
    (h : swqPlace s acc a = .ok (pa, g, cached, t)) : HelmKeeps P s t := by
  unfold swqPlace at h
  split at h
  · split at h
    · next hw =>
      dsimp only at h
      split at h
      · cases h
      · cases h; exact (helmKeeps_walked hw).trans (.ite (helmKeeps_roomFor ..) (.refl _))
    · cases h
  · dsimp only at h
    split at h
    · next ht => cases h; exact helmKeeps_translate ht
    · cases h

theorem tame_readPiece (a : Word) (n : Nat) : (swqReadPiece a n).Tame P := by
  refine ⟨fun {s bs t} h => ?_⟩
  unfold swqReadPiece at h
  split at h
  · cases h
  · next pa g cached u hp =>
    refine (helmKeeps_swqPlace hp).trans ?_
    split at h
    · cases h
    · dsimp only at h
      split at h
      · split at h
        · cases h
        · cases h; exact (helmKeeps_syncLines u g pa n).trans (helmKeeps_see ..)
      · split at h
        · cases h
        · cases h; exact helmKeeps_homeLines u g pa n

theorem tame_writePiece (a : Word) (bs : List Byte) : (swqWritePiece a bs).Tame P := by
  refine ⟨fun {s _ t} h => ?_⟩
  unfold swqWritePiece at h
  split at h
  · cases h
  · next hp =>
    refine (helmKeeps_swqPlace hp).trans ?_
    split at h
    · cases h
    · cases h
      exact .ite (helmKeeps_write ..) ((helmKeeps_dropReserved ..).trans (helmKeeps_homeWrite ..))

theorem tame_readAll (l : List (Word × Nat)) : (swqReadAll l).Tame P := by
  induction l with
  | nil => exact .pure _
  | cons x l ih => exact (tame_readPiece ..).bind fun bs => ih.bind fun r => .pure _

theorem tame_writeAll (l : List (Word × Nat)) (bs : List Byte) : (swqWriteAll l bs).Tame P := by
  induction l generalizing bs with
  | nil => exact .pure _
  | cons x l ih => exact (tame_writePiece ..).andThen (ih _)

theorem tame_bytes (a : Word) (n : Nat) : (swqBytes a n).Tame P := tame_readAll _

theorem tame_storeBytes (a : Word) (bs : List Byte) : (swqStoreBytes a bs).Tame P := tame_writeAll _ bs

theorem tame_load (a : Word) : (swqLoad a).Tame P := (tame_bytes a 8).bind fun _ => .pure _

theorem tame_load16 (a : Word) : (swqLoad16 a).Tame P := (tame_bytes a 2).bind fun _ => .pure _

theorem tame_store (a v : Word) : (swqStore a v).Tame P := tame_storeBytes a _

theorem tame_slotOf (o : Word) (i : Nat) : (slotOf o i).Tame P := tame_load _

theorem tame_siteWord (i : Nat) : (siteWord i).Tame P := ⟨fun e => (tame_load _).keeps e⟩

theorem tame_setSiteWord (i : Nat) (v : Word) : (setSiteWord i v).Tame P := ⟨fun e => (tame_store ..).keeps e⟩

-- Frames: releasing and reclaiming ------------------------------------------------------------------------------------------------------------------

theorem tame_workState : workState.Tame P := (tame_siteWord 6).bind fun _ => .pure _

theorem tame_workEntry (i size : Nat) : (workEntry i size).Tame P := (tame_siteWord 5).bind fun _ => .pure _

theorem tame_workTake : workTake.Tame P :=
  tame_workState.bind fun ⟨_, tail, size⟩ => (tame_workEntry tail size).bind fun a => (tame_load a).bind fun _ => (tame_siteWord 6).bind fun _ =>
    (tame_setSiteWord 6 _).andThen (.pure _)

/-- The head of the moored list is no integer register. -/
theorem tame_setMoored (x : Word) : (Swq.modify fun s => s.setMyHart { s.myHart with swqfl := x }).Tame P :=
  .modify fun _ => helmKeeps_setMyHart fun _ _ => rfl

theorem tame_moor (x w0 : Word) : (moor x w0).Tame P :=
  (tame_store ..).andThen <| (Swq.Tame.get _).bind fun _ => (tame_store ..).andThen <| (tame_store ..).andThen <|
    (Swq.Tame.ite (tame_store ..) (.pure _)).andThen (tame_setMoored x)

theorem tame_unmoor (x w0 : Word) : (unmoor x w0).Tame P :=
  (tame_slotOf x 3).bind fun n => (tame_slotOf x 4).bind fun _ => (Swq.Tame.ite (tame_store ..) (tame_setMoored n)).andThen <|
    (Swq.Tame.ite (tame_store ..) (.pure _)).andThen (tame_store ..)

theorem tame_loadChildren (x : Word) (l : List Nat) : (loadChildren x l).Tame P := by
  induction l with
  | nil => exact .pure _
  | cons i l ih => exact (tame_slotOf x i).bind fun v => ih.bind fun r => .pure _

theorem tame_reclaim (x : Word) : (reclaim x).Tame P :=
  (tame_load x).bind fun w0 => (tame_load (x + 8)).bind fun _ => .ite ((tame_moor x w0).andThen (.pure _)) <|
    (Swq.Tame.ite (tame_unmoor x w0) (.pure _)).andThen <| (Swq.Tame.ite (tame_slotOf x 0) (.pure _)).bind fun _ =>
    (tame_loadChildren x _).bind fun _ =>
    (Swq.Tame.ite ((tame_slotOf x 0).bind fun _ => (tame_slotOf x 1).bind fun _ => .pure _) (.pure _)).bind fun _ => .pure _

theorem tame_release (x : Word) : (release x).Tame P :=
  .ite (.pure _) <| (tame_load x).bind fun _ => .ite (.pure _) <| (tame_load (x + 8)).bind fun _ => .ite (.pure _) <|
    (tame_store ..).andThen (.ite (tame_reclaim x) (.pure _))

theorem tame_todoStep (t : Todo) : (todoStep t).Tame P := by
  cases t with
  | release x => exact tame_release x
  | free p a => exact (Swq.Tame.modify fun s => helmKeeps_poolFreeNow ..).andThen (.pure _)
  | push y =>
    exact tame_workState.bind fun ⟨_, _, _⟩ => .ite (tame_workTake.bind fun _ => .pure _) <| (tame_workEntry ..).bind fun _ =>
      (tame_store ..).andThen <| (tame_siteWord 6).bind fun _ => (tame_setSiteWord 6 _).andThen (.pure _)

theorem tame_todoAll (n : Nat) (l : List Todo) : (todoAll n l).Tame P := by
  induction n generalizing l with
  | zero => cases l <;> exact .pure _
  | succ n ih =>
    cases l with
    | nil => exact .pure _
    | cons t l => exact (tame_todoStep t).bind fun r => ih _

-- Frames: the custom words -----------------------------------------------------------------------------------------------------------------------------

theorem tame_setX {rd : Fin 32} (h : P rd) (v : Word) : (swqSetX rd v).Tame P := by
  refine .modify fun s => helmKeeps_setMyHart fun j hj => ?_
  have e : j ≠ rd := fun e => hj (e ▸ h)
  unfold Hart.setX
  split
  · rfl
  · unfold Hart.getX
    split
    · rfl
    · exact (vget_set s.myHart.x rd j v).trans (if_neg e)

theorem tame_clearWays (a : Word) (n : Nat) : (clearWays a n).Tame P := by
  induction n with
  | zero => exact .pure _
  | succ n ih => exact ih.andThen ((tame_load _).bind fun _ => tame_store ..)

theorem tame_cellAddr (shape : W32) : (cellAddr shape).Tame P := (tame_siteWord 3).bind fun _ => (tame_siteWord 4).bind fun _ => .pure _

theorem tame_image (a : Word) : (swqImage a).Tame P := (tame_load a).bind fun _ => (tame_bytes a _).bind fun _ => .pure _

theorem tame_changeHold {rd : Fin 32} (h : P rd) (x : Word) (delta : Int) : (changeHold x delta rd).Tame P :=
  (tame_load x).bind fun _ => (tame_load (x + 8)).bind fun _ => .ite (tame_setX h _) <| (tame_store ..).andThen <|
    (Swq.Tame.ite ((tame_reclaim x).bind fun l => tame_todoAll todoFuel l) (.pure _)).andThen (tame_setX h _)

theorem Hart.getX_trapTo (x : Hart) (l : Level) (interrupt : Bool) (f : HelmFault) (j : Fin 32) : (x.trapTo l interrupt f).getX j = x.getX j := by
  cases l <;> rfl

theorem helmKeeps_faults (s : State) (f : HelmFault) : HelmKeeps P s (s.faults f) := by
  have h : HelmKeeps P s (s.setMyHart (s.myHart.trap false f)) := helmKeeps_setMyHart fun _ _ => Hart.getX_trapTo ..
  exact .ite (h.trans (helmKeeps_fire ..)) h

theorem helmKeeps_custom (s : State) {m : Swq Unit} (h : m.Tame P) : HelmKeeps P s (s.custom m) := by
  unfold State.custom
  split
  · next e => exact (h.keeps e).trans (helmKeeps_setMyHart fun _ _ => rfl)
  · exact (helmKeeps_disableAll ..).trans (helmKeeps_faults ..)
  · exact .refl s

/-- swq.run starts the engine, or is an illegal instruction; it touches neither memory nor the helm caches. -/
theorem helm_run {s t : State} {rd rs1 rs2 : Fin 32} (h : execSwqRun rd rs1 rs2 s = .next t) :
    HelmKeeps P s t ∧ t.mem = s.mem ∧ t.helmCache = s.helmCache := by
  unfold execSwqRun at h
  cases h
  dsimp only
  split
  · exact ⟨helmKeeps_faults .., rfl, rfl⟩
  · exact ⟨helmKeeps_setMyHart fun _ _ => rfl, rfl, rfl⟩

/-- A custom word with a destination register writes that one. -/
def WritesX (i : Instr) (j : Fin 32) : Prop := (∃ a, i = .swqGen j a) ∨ (∃ a, i = .swqPost j a) ∨ ∃ a b, i = .swqHold j a b

theorem helm_exec {s t : State} {i : Instr} (hi : isHelm i = true) (h : exec i s = .next t) :
    HelmKeeps (WritesX i) s t ∧ ((∃ rd a b, i = .swqRun rd a b) → t.mem = s.mem ∧ t.helmCache = s.helmCache) := by
  cases i with
  | swqRun rd a b => exact (helm_run h).imp_right fun e _ => e
  | swqIcw a b =>
    cases h
    exact ⟨helmKeeps_custom s ((tame_bytes ..).bind fun _ => tame_storeBytes ..), nofun⟩
  | swqIcinv a =>
    cases h
    exact ⟨helmKeeps_custom s (tame_clearWays ..), nofun⟩
  | swqGen rd a =>
    cases h
    have hw : WritesX (.swqGen rd a) rd := .inl ⟨a, rfl⟩
    refine ⟨helmKeeps_custom s ((tame_cellAddr _).bind fun c => ?_), nofun⟩
    cases c with
    | none => exact tame_setX hw _
    | some c => exact (tame_load16 c).bind fun _ => (tame_storeBytes ..).andThen (tame_setX hw _)
  | swqPost rd a =>
    cases h
    have hw : WritesX (.swqPost rd a) rd := .inr (.inl ⟨a, rfl⟩)
    refine ⟨helmKeeps_custom s ((tame_image _).bind fun r => ⟨fun {u _ v} e => ?_⟩), nofun⟩
    split at e
    · exact (tame_setX hw 1).keeps e
    · exact (helmKeeps_helmPost u u.hart r).trans ((tame_setX hw 0).keeps e)
  | swqHold rd a b =>
    cases h
    exact ⟨helmKeeps_custom s (tame_changeHold (.inr (.inr ⟨a, b, rfl⟩)) _ _), nofun⟩
  | _ => exact absurd hi Bool.false_ne_true

theorem helmFrame : Claims.HelmFrame := by
  intro s t i hi h
  obtain ⟨k, hrun⟩ := helm_exec hi h
  refine ⟨k.hart, k.clk, k.mtime, k.power, fun c n => ?_, fun n j hn => ?_, fun j => ?_, fun e => ?_⟩
  · rw [State.thread, State.thread, State.getCore_congr k.cores k.coreInit]
    exact ⟨rfl, rfl, rfl, rfl, rfl, rfl, rfl⟩
  · obtain ⟨hx, hpc, hmode⟩ := k.others n.val fun e => hn (Fin.ext e)
    exact ⟨Hart.getX_congr hx j, hpc, hmode⟩
  · exact (em (WritesX i j)).elim .inr fun e => .inl (k.own j e)
  · obtain ⟨hm, hc⟩ := hrun e
    exact ⟨fun a => by rw [hm], hc⟩

/-- Settles O40, one frame per family of instructions: the system, weir, control and keeper instructions, the tow instructions with those that resume a
thread, and the helm custom words. -/
theorem systemFrames : Obligations.SystemFrames := by
  unfold Obligations.SystemFrames
  exact ⟨systemFrame, weirFrame, controlFrame, keeperFrame, towAndResumeFrame, helmFrame⟩

end Sys2Proof.Machine

namespace Sys2Proof.Machine
open Sys2Proof

-- Numbers and their bytes (00 R3) ----------------------------------------------------------------------------------------------------

theorem bytesNat_lt (l : List Byte) : bytesNat l < 2 ^ (8 * l.length) := by
  induction l with
  | nil => exact Nat.one_pos
  | cons b l ih =>
    have hb := b.isLt
    rw [bytesNat, List.length_cons, Nat.mul_succ, Nat.pow_add]
    omega

theorem bytesNat_natBytes (n v : Nat) : bytesNat (natBytes n v) = v % 2 ^ (8 * n) := by
  induction n generalizing v with
  | zero => exact (Nat.mod_one v).symm
  | succ n ih =>
    rw [natBytes, bytesNat, ih, Nat.mul_succ, Nat.pow_add, Nat.mul_comm (2 ^ (8 * n)), Nat.mod_mul, BitVec.toNat_ofNat]

theorem getElem_natBytes (n v : Nat) {i : Nat} (h : i < (natBytes n v).length) : (natBytes n v)[i] = BitVec.ofNat 8 (v / 2 ^ (8 * i)) := by
  induction n generalizing v i with
  | zero => exact absurd h (Nat.not_lt_zero i)
  | succ n ih =>
    cases i with
    | zero => simp [natBytes]
    | succ i =>
      have e : 2 ^ (8 * (i + 1)) = 256 * 2 ^ (8 * i) := by rw [Nat.mul_succ, Nat.pow_add, Nat.mul_comm]
      simp only [natBytes, List.getElem_cons_succ]
      rw [ih, e, Nat.div_div_eq_div_mul]

theorem bytesNat_append (l m : List Byte) : bytesNat (l ++ m) = bytesNat l + 2 ^ (8 * l.length) * bytesNat m := by
  induction l with
  | nil => simp [bytesNat]
  | cons b l ih =>
    rw [List.cons_append, bytesNat, ih, bytesNat, List.length_cons, Nat.mul_succ, Nat.pow_add]
    ring

/-- A byte of a vector is the byte that is written for it. -/
theorem ofNat_div_eq_byte (v : Vec) (j : Nat) : BitVec.ofNat 8 (v.toNat / 2 ^ (8 * j)) = v.extractLsb' (8 * j) 8 := by
  rw [← Nat.shiftRight_eq_div_pow]; rfl

-- Bytes of memory ------------------------------------------------------------------------------------------------------------------------

theorem Memory.read_append (m : List Host.Cell) (a n k : Nat) : Memory.read m a (n + k) = Memory.read m a n ++ Memory.read m (a + n) k := by
  rw [← List.take_append_drop n (Memory.read m a (n + k)), Memory.read_take, Memory.read_drop]

/-- The bytes inside a range are a field of its number. -/
theorem bytesNat_read_part (m : List Host.Cell) (a : Nat) {n k w : Nat} (h : k + w ≤ n) :
    bytesNat (Memory.read m a n) / 2 ^ (8 * k) % 2 ^ (8 * w) = bytesNat (Memory.read m (a + k) w) := by
  obtain ⟨r, rfl⟩ := Nat.exists_eq_add_of_le h
  have lt : ∀ b n, bytesNat (Memory.read m b n) < 2 ^ (8 * n) := fun b n => by
    have := bytesNat_lt (Memory.read m b n)
    rwa [Memory.read_length] at this
  rw [Memory.read_append, Memory.read_append, bytesNat_append, bytesNat_append, Memory.read_length, List.length_append, Memory.read_length,
    Memory.read_length, Nat.mul_add, Nat.pow_add, Nat.add_assoc, Nat.mul_assoc, ← Nat.mul_add,
    Nat.add_mul_div_left _ _ (Nat.two_pow_pos _), Nat.div_eq_of_lt (lt a k), Nat.zero_add, Nat.add_mul_mod_self_left,
    Nat.mod_eq_of_lt (lt _ w)]

-- Vectors that are read and written lane by lane (05 R103) -----------------------------------------------------------------------------

theorem mem_enabledLanes {mask : Word} {e i : Nat} : i ∈ enabledLanes mask e ↔ i < 64 / e ∧ bit mask i = true := by
  simp [enabledLanes]

/-- Elements fill the 64 bytes of a vector. -/
theorem lanes_fill (sz : Size) : 0 < sz.bytes ∧ sz.bytes * (64 / sz.bytes) = 64 := by cases sz <;> decide

theorem byte_lane (sz : Size) (j : Nat) : j / sz.bytes < 64 / sz.bytes ↔ j < 64 := by
  obtain ⟨hp, hf⟩ := lanes_fill sz
  rw [Nat.div_lt_iff_lt_mul hp, Nat.mul_comm, hf]

/-- A lane of the vector that is read: what its home holds if it is read at all, and zero otherwise. -/
theorem lane_readLanes (s : State) (h : Home) {e : Nat} (he : e * (64 / e) = 64) {l : List Nat} (hl : ∀ i ∈ l, i < 64 / e) {i : Nat}
    (hi : i < 64 / e) :
    lane (8 * e) (readLanes s h e l) i = if i ∈ l then BitVec.ofNat (8 * e) (bytesNat (homeRead s h (e * i) e)) else 0 := by
  have fits : ∀ j, j < 64 / e → 8 * e * (j + 1) ≤ 512 := fun j hj => by
    have := Nat.mul_le_mul_left e (show j + 1 ≤ 64 / e from hj)
    rw [Nat.mul_assoc]
    omega
  induction l with
  | nil => exact lane_zero _ _
  | cons n l ih =>
    rw [readLanes, lane_setFld _ _ (fits n (hl n List.mem_cons_self)) (fits i hi), ih fun j hj => hl j (List.mem_cons_of_mem n hj)]
    by_cases e : i = n
    · subst e; simp
    · simp [e]

/-- A vector of the enabled lanes of a home. -/
theorem readLanes_enabled {s : State} {h : Home} (sz : Size) (mask : Word) (hb : ∀ i, (homeRead s h (sz.bytes * i) sz.bytes).length ≤ sz.bytes)
    (i : Nat) (hi : i < 64 / sz.bytes) :
    (readLanes s h sz.bytes (enabledLanes mask sz.bytes)).toNat / 2 ^ (8 * sz.bytes * i) % 2 ^ (8 * sz.bytes) =
      if bit mask i then bytesNat (homeRead s h (sz.bytes * i) sz.bytes) else 0 := by
  rw [← toNat_lane, lane_readLanes s h (lanes_fill sz).2 (fun j hj => (mem_enabledLanes.mp hj).1) hi]
  have hlt := Nat.lt_of_lt_of_le (bytesNat_lt (homeRead s h (sz.bytes * i) sz.bytes))
    (Nat.pow_le_pow_right Nat.two_pos (Nat.mul_le_mul_left 8 (hb i)))
  by_cases hm : bit mask i = true
  · rw [if_pos (mem_enabledLanes.mpr ⟨hi, hm⟩), if_pos hm, BitVec.toNat_ofNat, Nat.mod_eq_of_lt hlt]
  · rw [if_neg fun k => hm (mem_enabledLanes.mp k).2, if_neg hm]; rfl

-- What an access does at its home (05 R100-R104) ---------------------------------------------------------------------------------------

section
variable {s : State} {h : Home} {data : Vec} {exp : Word}

theorem performAt_ld {sz : Size} (signed : Bool) (d : Dst) (hp : homePoisoned s h 0 sz.bytes = false) :
    performAt s h (.ld sz signed d) data exp = some (BitVec.ofNat 512 (bytesNat (homeRead s h 0 sz.bytes)), s) := by
  rw [performAt, hp]; rfl

theorem performAt_ld_poisoned {sz : Size} (signed : Bool) (d : Dst) (hp : homePoisoned s h 0 sz.bytes = true) :
    performAt s h (.ld sz signed d) data exp = none := by
  rw [performAt, if_pos hp]

theorem performAt_vld {sz : Size} {mask : Word} (d : Fin 16)
    (hp : ∀ i, i < 64 / sz.bytes → bit mask i = true → homePoisoned s h (sz.bytes * i) sz.bytes = false) :
    performAt s h (.vld sz mask d) data exp = some (readLanes s h sz.bytes (enabledLanes mask sz.bytes), s) := by
  have e : ((enabledLanes mask sz.bytes).any fun i => homePoisoned s h (sz.bytes * i) sz.bytes) = false :=
    List.any_eq_false.mpr fun i hi => by rw [hp i (mem_enabledLanes.mp hi).1 (mem_enabledLanes.mp hi).2]; exact Bool.false_ne_true
  rw [performAt, e]; rfl

theorem performAt_vld_poisoned {sz : Size} {mask : Word} (d : Fin 16) {i : Nat} (hi : i < 64 / sz.bytes) (hm : bit mask i = true)
    (hp : homePoisoned s h (sz.bytes * i) sz.bytes = true) : performAt s h (.vld sz mask d) data exp = none := by
  have e : ((enabledLanes mask sz.bytes).any fun i => homePoisoned s h (sz.bytes * i) sz.bytes) = true :=
    List.any_eq_true.mpr ⟨i, mem_enabledLanes.mpr ⟨hi, hm⟩, hp⟩
  rw [performAt, if_pos e]

theorem performAt_st (sz : Size) : performAt s h (.st sz) data exp = some (0, homeWrite s h 0 (natBytes sz.bytes data.toNat)) := rfl

/-- A vector store writes the whole vector where every lane is enabled, and lane by lane otherwise. -/
theorem performAt_vst (sz : Size) (m : Fin 4) (mask : Word) :
    performAt s h (.vst sz m mask) data exp = some (0, if (enabledLanes mask sz.bytes).length = 64 / sz.bytes
      then homeWrite s h 0 (natBytes 64 data.toNat) else writeLanes s h sz.bytes data (enabledLanes mask sz.bytes)) := by
  rw [performAt]
  split <;> simp [*]

/-- The bytes of an atomic. -/
def amoBytes (wide : Bool) : Nat := if wide then 8 else 4

theorem performAt_amo_poisoned (op : AmoOp) {wide : Bool} (d : Dst) (hp : homePoisoned s h 0 (amoBytes wide) = true) :
    performAt s h (.amo op wide d) data exp = none := by
  rw [performAt]
  exact if_pos hp

/-- The value that an atomic writes, or the old one where it writes nothing. -/
theorem amoNew_getD (op : AmoOp) (n old x e : Nat) : (amoNew op n old x e).getD old = amoWrites op n old x e := by
  cases op with
  | cas => simp only [amoNew, amoWrites]; split <;> rfl
  | _ => rfl

/-- An atomic answers the old value, and writes its new one or nothing where that is the old one. -/
theorem performAt_amo (op : AmoOp) {wide : Bool} (d : Dst) (hp : homePoisoned s h 0 (amoBytes wide) = false) :
    let n := amoBytes wide
    let old := bytesNat (homeRead s h 0 n)
    let new := amoWrites op n old (data.toNat % 2 ^ (8 * n)) (exp.toNat % 2 ^ (8 * n))
    ∃ t, performAt s h (.amo op wide d) data exp = some (BitVec.ofNat 512 old, t) ∧
      (t = homeWrite s h 0 (natBytes n new) ∨ (t = s ∧ new = old)) := by
  intro n old new
  have e : performAt s h (.amo op wide d) data exp = if homePoisoned s h 0 n then none else
      match amoNew op n old (data.toNat % 2 ^ (8 * n)) (exp.toNat % 2 ^ (8 * n)) with
      | some v => some (BitVec.ofNat 512 old, homeWrite s h 0 (natBytes n v))
      | none => some (BitVec.ofNat 512 old, s) := rfl
  have hn := amoNew_getD op n old (data.toNat % 2 ^ (8 * n)) (exp.toNat % 2 ^ (8 * n))
  rw [e, hp]
  cases ha : amoNew op n old (data.toNat % 2 ^ (8 * n)) (exp.toNat % 2 ^ (8 * n)) with
  | none => exact ⟨_, rfl, .inr ⟨rfl, by rw [ha] at hn; exact hn.symm⟩⟩
  | some v => exact ⟨_, rfl, .inl (by rw [ha] at hn; exact congrArg (homeWrite s h 0 <| natBytes n ·) hn)⟩

theorem performAt_bop (op : BopOp) (mask : Word) (hp : homePoisoned s h 0 64 = false) :
    performAt s h (.bop op mask) data exp =
      some (0, homeWrite s h 0 (natBytes 64 (bopLine op mask (BitVec.ofNat 512 (bytesNat (homeRead s h 0 64))) data).toNat)) := by
  rw [performAt, hp]; rfl

end

/-- An atomic's new value is one of its width. -/
theorem amoWrites_lt (op : AmoOp) {n old x e : Nat} (ho : old < 2 ^ (8 * n)) (hx : x < 2 ^ (8 * n)) : amoWrites op n old x e < 2 ^ (8 * n) := by
  cases op with
  | add => exact Nat.mod_lt _ (Nat.two_pow_pos _)
  | and => exact Nat.lt_of_le_of_lt Nat.and_le_left ho
  | or => exact Nat.or_lt_two_pow ho hx
  | xor => exact Nat.xor_lt_two_pow ho hx
  | swap => exact hx
  | minI | maxI | cas => simp only [amoWrites]; split <;> assumption

-- What the destination of a load or an atomic receives (05 R100, R104) ---------------------------------------------------------------

theorem loaded_eq (sz : Size) (signed : Bool) (n : Nat) :
    loaded sz signed (BitVec.ofNat 512 n) = if signed then cutS (8 * sz.bytes) n else cutZ (8 * sz.bytes) n := by
  have e : (BitVec.ofNat 512 n).setWidth 64 = BitVec.ofInt 64 n := by
    rw [BitVec.ofInt_natCast]
    exact BitVec.setWidth_ofNat_of_le (by decide) n
  rw [loaded, e]; rfl

/-- What an atomic answers. -/
theorem amo_answer (wide : Bool) (n : Nat) :
    (if wide then (BitVec.ofNat 512 n).setWidth 64 else sext64 32 ((BitVec.ofNat 512 n).setWidth 64)) = cutS (8 * amoBytes wide) n := by
  have e : (BitVec.ofNat 512 n).setWidth 64 = BitVec.ofInt 64 n := by
    rw [BitVec.ofInt_natCast]
    exact BitVec.setWidth_ofNat_of_le (by decide) n
  rw [e]
  cases wide with
  | false => rfl
  | true => simp [amoBytes, cutS, sext64]

-- Homes that are keys of memory: local stores and Basins ------------------------------------------------------------------------------

theorem memoryKeepsOutside_rawWrite {s : State} (hi : Inv s) (a : Nat) (bs : List Byte) : MemoryKeepsOutside s (rawWrite s a bs) a bs.length :=
  fun _ h => Memory.get_write_outside hi h

/-- What is written is read back. -/
theorem bytesNat_rawWrite {s : State} (hi : Inv s) (a n v : Nat) : bytesNat (rawRead (rawWrite s a (natBytes n v)) a n) = v % 2 ^ (8 * n) := by
  have h := Memory.read_write hi a (natBytes n v)
  rw [natBytes_length] at h
  rw [rawRead, rawWrite_mem, h, bytesNat_natBytes]

theorem get_rawWrite_inside {s : State} (hi : Inv s) (a : Nat) {n v i : Nat} (h : i < n) :
    Memory.get (rawWrite s a (natBytes n v)).mem (a + i) = BitVec.ofNat 8 (v / 2 ^ (8 * i)) := by
  have hl : i < (natBytes n v).length := by rw [natBytes_length]; exact h
  rw [rawWrite_mem, Memory.get_write_inside hi hl, getElem_natBytes]

/-- The bytes of the lanes that are written are the vector's; the others stay. -/
theorem writeLanes_raw {s : State} (hi : Inv s) (key : Nat) {e : Nat} (he : 0 < e) (v : Vec) (l : List Nat) :
    Inv (writeLanes s (.raw key) e v l) ∧
      (∀ a, a < key → Memory.get (writeLanes s (.raw key) e v l).mem a = Memory.get s.mem a) ∧
      ∀ j, Memory.get (writeLanes s (.raw key) e v l).mem (key + j) =
        if j / e ∈ l then v.extractLsb' (8 * j) 8 else Memory.get s.mem (key + j) := by
  induction l generalizing s with
  | nil => exact ⟨hi, fun _ _ => rfl, fun _ => rfl⟩
  | cons i l ih =>
    have hw : writeLanes s (.raw key) e v (i :: l) =
        writeLanes (rawWrite s (key + e * i) (natBytes e (v.toNat / 2 ^ (8 * e * i)))) (.raw key) e v l := rfl
    have hout := memoryKeepsOutside_rawWrite hi (key + e * i) (natBytes e (v.toNat / 2 ^ (8 * e * i)))
    rw [natBytes_length] at hout
    obtain ⟨h1, h2, h3⟩ := ih (s := rawWrite s (key + e * i) (natBytes e (v.toNat / 2 ^ (8 * e * i)))) (rawWrite_wf hi _ _)
    rw [hw]
    refine ⟨h1, fun a ha => (h2 a ha).trans (hout a (.inl (by omega))), fun j => ?_⟩
    rw [h3]
    by_cases hj : j / e = i
    · have hb : j = e * i + j % e := by rw [← hj]; exact (Nat.div_add_mod j e).symm
      have hr := Nat.mod_lt j he
      have hval : BitVec.ofNat 8 (v.toNat / 2 ^ (8 * e * i) / 2 ^ (8 * (j % e))) = v.extractLsb' (8 * j) 8 := by
        rw [Nat.div_div_eq_div_mul, ← Nat.pow_add, Nat.mul_assoc, ← Nat.mul_add, ← hb, ofNat_div_eq_byte]
      have hget := get_rawWrite_inside hi (key + e * i) (v := v.toNat / 2 ^ (8 * e * i)) hr
      rw [Nat.add_assoc, ← hb, hval] at hget
      rw [hget, if_pos (List.mem_cons.mpr (.inl hj)), ite_self]
    · have hne : key + j < key + e * i ∨ key + e * i + e ≤ key + j := by
        have hd := Nat.div_add_mod j e
        have hr := Nat.mod_lt j he
        rcases Nat.lt_or_gt_of_ne hj with h | h
        · have := Nat.mul_le_mul_left e (show j / e + 1 ≤ i from h)
          rw [Nat.mul_succ] at this
          omega
        · have := Nat.mul_le_mul_left e (show i + 1 ≤ j / e from h)
          rw [Nat.mul_succ] at this
          omega
      rw [hout _ hne]
      simp [hj]

/-- A vector store at a key: the enabled lanes are written, and nothing else. -/
theorem performAt_vst_raw {s : State} (hi : Inv s) (key : Nat) (sz : Size) (m : Fin 4) (mask : Word) (data : Vec) (exp : Word) :
    ∃ t, performAt s (.raw key) (.vst sz m mask) data exp = some (0, t) ∧ LanesStored s t key sz mask data := by
  refine ⟨_, performAt_vst sz m mask, ?_⟩
  obtain ⟨hp, hf⟩ := lanes_fill sz
  split
  · next hall =>
    have on : ∀ i, i < 64 / sz.bytes → bit mask i = true := fun i hi => by
      have := List.length_filter_eq_length_iff.mp (hall.trans List.length_range.symm)
      exact this i (List.mem_range.mpr hi)
    have hout := memoryKeepsOutside_rawWrite hi key (natBytes 64 data.toNat)
    rw [natBytes_length] at hout
    refine ⟨hout, fun j hj => ?_⟩
    rw [if_pos (on _ ((byte_lane sz j).mpr hj)), ← ofNat_div_eq_byte]
    exact get_rawWrite_inside hi key hj
  · obtain ⟨-, hlow, hin⟩ := writeLanes_raw hi key hp data (enabledLanes mask sz.bytes)
    have hmem : ∀ j, j / sz.bytes ∈ enabledLanes mask sz.bytes ↔ j < 64 ∧ bit mask (j / sz.bytes) = true := fun j => by
      rw [mem_enabledLanes, byte_lane sz]
    refine ⟨fun a ha => ha.elim (hlow a) fun hk => ?_, fun j hj => ?_⟩
    · obtain ⟨j, rfl⟩ := Nat.exists_eq_add_of_le (show key ≤ a by omega)
      rw [hin, if_neg fun k => by have := (hmem j).mp k; omega]
    · rw [hin]
      by_cases hb : bit mask (j / sz.bytes) = true
      · rw [if_pos ((hmem j).mpr ⟨hj, hb⟩), if_pos hb]
      · rw [if_neg fun k => hb ((hmem j).mp k).2, if_neg hb]

end Sys2Proof.Machine

namespace Sys2Proof.Machine
open Sys2Proof

-- The segment check (05 R97, R105; 13 R231, R234) ------------------------------------------------------------------------------------

/-- Where a segment's base places an offset: the low bits of its word that its kind names. -/
def Seg.place (g : Seg) (x : Nat) : Nat :=
  x + (if g.kind ≤ 1 then (fld g.w0 0 18 : BitVec 18).toNat else if g.kind = 2 then (fld g.w0 0 27 : BitVec 27).toNat
    else (fld g.w0 0 52 : BitVec 52).toNat)

/-- The end of the space of a segment's kind. -/
def Seg.top (g : Seg) : Nat := if g.kind ≤ 1 then 262144 else if g.kind = 2 then 134217728 else 2 ^ 52

/-- Bytes that do not exist for a segment: above the top of its space, of a core that is absent or of another device, of a die that is none, or
taken by a home-side cache (log entry 45). -/
def Seg.Nowhere (g : Seg) (s : State) (a n : Nat) : Prop :=
  g.top < a + n ∨ (g.kind = 1 ∧ ¬ ((fld g.w0 60 4 : BitVec 4) = s.wharf.device ∧ present s (fld g.w0 48 12 : BitVec 12).toNat = true)) ∨
    (g.kind = 2 ∧ 3 < (fld g.w0 27 3 : BitVec 3).toNat) ∨
    (g.kind = 2 ∧ 0 < n ∧ 134217728 - (s.die (fld g.w0 27 3 : BitVec 3).toNat).size * 0x100000 < a + n)

theorem segCheck_kind {s : State} {g : Seg} {off n align : Nat} {need : BitVec 3} {extra : Bool}
    (h : 4 ≤ g.kind ∨ need &&& ~~~g.rights ≠ 0 ∨ extra = false) : segCheck s g off n need align extra = .error 0x04 := by
  unfold segCheck
  split
  · rfl
  · next hk => rw [if_pos (by simpa [hk] using h)]

section
variable {s : State} {g : Seg} {off n align : Nat} {need : BitVec 3} {extra : Bool}
  (h : ¬ (4 ≤ g.kind ∨ need &&& ~~~g.rights ≠ 0 ∨ extra = false))
include h

theorem segCheck_limit (hl : g.limit < off + n) : segCheck s g off n need align extra = .error 0x03 := by
  obtain ⟨h1, h2, h3⟩ : ¬ 4 ≤ g.kind ∧ need &&& ~~~g.rights = 0 ∧ extra = true := by simpa using h
  rw [segCheck, if_neg h1, if_neg (by simp [h2, h3]), if_pos hl]

/-- Behind the limit: the place must exist, and be aligned. -/
theorem segCheck_place (hl : off + n ≤ g.limit) :
    (g.Nowhere s (g.place off) n → segCheck s g off n need align extra = .error 0x05) ∧
    (¬ g.Nowhere s (g.place off) n → segCheck s g off n need align extra =
      if g.place off % align ≠ 0 then .error 0x06 else .ok (g.place off)) := by
  obtain ⟨h1, h2, h3⟩ : ¬ 4 ≤ g.kind ∧ need &&& ~~~g.rights = 0 ∧ extra = true := by simpa using h
  rw [segCheck, if_neg h1, if_neg (by simp [h2, h3]), if_neg (Nat.not_lt.mpr hl)]
  unfold Seg.Nowhere Seg.top Seg.place
  obtain hk | hk | hk | hk : g.kind = 0 ∨ g.kind = 1 ∨ g.kind = 2 ∨ g.kind = 3 := by omega
  all_goals
    simp only [hk, localBytes, basinBytes]
    grind
end

theorem checkAccess_cases (s : State) (g : Seg) (op : MemOp) (off : Word) (disp : Nat) :
    let x := off.toNat + disp
    let wrong := 4 ≤ g.kind ∨ op.need &&& ~~~g.rights ≠ 0 ∨ op.allowed g.kind = false
    let nowhere := g.Nowhere s (g.place x) op.span
    (wrong → checkAccess s g op off disp = .error 0x04) ∧
    (¬ wrong → g.limit < x + op.span → checkAccess s g op off disp = .error 0x03) ∧
    (¬ wrong → x + op.span ≤ g.limit → nowhere → checkAccess s g op off disp = .error 0x05) ∧
    (¬ wrong → x + op.span ≤ g.limit → ¬ nowhere → g.place x % op.align ≠ 0 → checkAccess s g op off disp = .error 0x06) ∧
    (¬ wrong → x + op.span ≤ g.limit → ¬ nowhere → g.place x % op.align = 0 → checkAccess s g op off disp = .ok (g.place x)) := by
  refine ⟨segCheck_kind, segCheck_limit, fun hw hl hn => (segCheck_place hw hl).1 hn, fun hw hl hn ha => ?_, fun hw hl hn ha => ?_⟩
  · exact ((segCheck_place hw hl).2 hn).trans (if_pos ha)
  · exact ((segCheck_place hw hl).2 hn).trans (if_neg (not_not_intro ha))

-- An access starts or traps (05 R97, R98, R101, R102) -----------------------------------------------------------------------------------

/-- An access as it starts: its operands as they were read, and the place that its check gave. -/
def State.accessOf (s : State) (i : Instr) (op : MemOp) (sg : Fin 8) (off : Word) (disp : Nat) (data : Vec) (exp : Word) (a : Nat) : Access :=
  { op := op, sg := sg, off := off, disp := disp, data := data, exp := exp, kind := (s.me.sg.get sg).kind, addr := a,
    owner := (s.me.sg.get sg).owner s.core, pc := s.me.pc, iword := s.iword, len := lengthOf i }

section
variable {s : State} {i : Instr} {op : MemOp} {rlx : Bool} {sg : Fin 8} {off : Word} {disp : Nat} {data : Vec} {exp : Word}

theorem State.access_error {c : Nat} (h : checkAccess s (s.me.sg.get sg) op off disp = .error c) :
    s.access i op rlx sg off disp data exp = s.trap c off (infoB op data) := by
  simp only [State.access, h]

theorem State.access_ok {a : Nat} (h : checkAccess s (s.me.sg.get sg) op off disp = .ok a) :
    s.access i op rlx sg off disp data exp = s.startAccess (s.accessOf i op sg off disp data exp a) rlx false := by
  simp only [State.access, h]
  rfl

/-- An access that fails its check traps with its operands as read. -/
theorem access_trapped {c : Nat} {b : Word} (h : checkAccess s (s.me.sg.get sg) op off disp = .error c) (hb : infoB op data = b) :
    ∃ t, (.next (s.access i op rlx sg off disp data exp) : Host.Outcome State Fault Refusal) = .next t ∧ Trapped s t c off b :=
  ⟨_, rfl, by rw [State.access_error h, hb]; exact trap_trapped ..⟩

end

section
variable {s : State} (sg : Fin 8) (o : Src) (disp : BitVec 6)

theorem exec_ld_ready {sz : Size} {signed rlx : Bool} {d : Dst} (h : Ready s (.ld sz signed rlx sg d o disp)) :
    exec (.ld sz signed rlx sg d o disp) s = .next ((after1 s o).access (.ld sz signed rlx sg d o disp) (.ld sz signed d) rlx sg (val1 s o)
      (disp.toNat * sz.bytes) 0 0) := congrArg _ (State.gated_ready h _)

theorem exec_st_ready {sz : Size} {rlx : Bool} {a : Src} (h : Ready s (.st sz rlx sg a o disp)) :
    exec (.st sz rlx sg a o disp) s = .next ((after2 s a o).access (.st sz rlx sg a o disp) (.st sz) rlx sg (val2 s a o)
      (disp.toNat * sz.bytes) ((val1 s a).setWidth 512) 0) := congrArg _ (State.gated_ready h _)

theorem exec_vld_ready {sz : Size} {m : Fin 4} {rlx : Bool} {v : Fin 16} (h : Ready s (.vld sz m rlx sg v o disp)) :
    exec (.vld sz m rlx sg v o disp) s = .next ((after1 s o).access (.vld sz m rlx sg v o disp) (.vld sz ((after1 s o).me.mask m) v) rlx sg
      (val1 s o) (disp.toNat * sz.bytes) 0 0) := congrArg _ (State.gated_ready h _)

theorem exec_vst_ready {sz : Size} {m : Fin 4} {rlx : Bool} {v : Fin 16} (h : Ready s (.vst sz m rlx sg v o disp)) :
    exec (.vst sz m rlx sg v o disp) s = .next ((after1 s o).access (.vst sz m rlx sg v o disp) (.vst sz m ((after1 s o).me.mask m)) rlx sg
      (val1 s o) (disp.toNat * sz.bytes) ((after1 s o).me.v.get v) 0) := congrArg _ (State.gated_ready h _)

theorem exec_amo_ready {op : AmoOp} {wide : Bool} {d : Dst} (h : Ready s (.amo op wide sg d o disp)) :
    exec (.amo op wide sg d o disp) s = .next ((after2 s d.asSrc o).access (.amo op wide sg d o disp) (.amo op wide d) false sg
      (val2 s d.asSrc o) (disp.toNat * amoBytes wide) ((val1 s d.asSrc).setWidth 512) (expected s op d)) :=
  congrArg _ (State.gated_ready h _)

theorem exec_bop_ready {op : BopOp} {v : Fin 16} {m : Fin 4} (h : Ready s (.bop op sg v o m)) :
    exec (.bop op sg v o m) s = .next ((after1 s o).access (.bop op sg v o m) (.bop op ((after1 s o).me.mask m)) false sg (val1 s o) 0
      ((after1 s o).me.v.get v) 0) := congrArg _ (State.gated_ready h _)

end

theorem setWidth_widened (x : Word) : (x.setWidth 512).setWidth 64 = x := by
  rw [BitVec.setWidth_setWidth_of_le x (by decide), BitVec.setWidth_eq]

/-- Settles O14: the checks in their order by the kind of the segment, and an access whose check fails by what its operands were. -/
theorem segmentChecks : Obligations.SegmentChecks := by
  unfold Obligations.SegmentChecks
  refine ⟨checkAccess_cases, fun s sg o disp c => ⟨fun sz signed rlx d hr h => ?_, fun sz rlx a hr h => ?_, fun sz m rlx v hr h => ?_,
    fun sz m rlx v hr h => ?_, fun op wide d hr h => ?_, fun op v m hr h => ?_⟩⟩
  · rw [exec_ld_ready sg o disp hr]; exact access_trapped h rfl
  · rw [exec_st_ready sg o disp hr]; exact access_trapped h (setWidth_widened _)
  · rw [exec_vld_ready sg o disp hr]; exact access_trapped h rfl
  · rw [exec_vst_ready sg o disp hr]; exact access_trapped h rfl
  · rw [exec_amo_ready sg o disp hr]; exact access_trapped h (setWidth_widened _)
  · rw [exec_bop_ready sg o hr]; exact access_trapped h rfl

-- Fences (05 R106, R107) ------------------------------------------------------------------------------------------------------------------

theorem exec_fenceSc_ready {s : State} {sc : Scope} (h : Ready s (.fenceSc sc)) :
    exec (.fenceSc sc) s = .next ((s.advance (.fenceSc sc)).remove (.fence sc)) := congrArg _ (State.gated_ready h _)

theorem fences : Claims.Fences := by
  refine ⟨fun s hr => congrArg _ (State.gated_ready hr _), fun s sc hr => ⟨_, exec_fenceSc_ready hr, ?_, ?_, fun _ => rfl⟩,
    fun s c k sc hst hc => ?_⟩
  · rw [State.remove_me]
  · rw [State.remove_me, State.advance_me]
    exact Thread.performed_pc _ _
  · have e : exec (.scFenceComplete c k) s = .next ((s.as c k).completePc none) := by
      simp only [exec, execScFenceComplete, me_as, hst]
    have hrun : (s.as c k).completePc none = (s.as c k).setMe (s.as c k).me.run := State.completePc_none hc
    exact ⟨_, e, by rw [hrun]; exact State.thread_setThread_self .., fun a => by rw [hrun]; rfl⟩

-- Segment instructions (05 R108, R109) ----------------------------------------------------------------------------------------------------

/-- Why a segment cannot be narrowed, in the order of R108. -/
theorem Seg.narrow_error {g : Seg} {is1 : Bool} {off len : Word} (keep : BitVec 3) :
    let outside := g.limit < off.toNat ∨ g.limit - off.toNat < len.toNat
    (4 ≤ g.kind → g.narrow is1 off len keep = .error 0x04) ∧
    (g.kind < 4 → outside → g.narrow is1 off len keep = .error 0x03) ∧
    (g.kind < 4 → ¬ outside → is1 = true ∧ off ≠ 0 → g.narrow is1 off len keep = .error 0x09) ∧
    (g.kind < 4 → ¬ outside → ¬ (is1 = true ∧ off ≠ 0) → 2 ^ baseBits g.kind ≤ g.w0.toNat % 2 ^ baseBits g.kind + off.toNat →
      g.narrow is1 off len keep = .error 0x05) := by
  refine ⟨fun h => if_pos h, fun h ho => ?_, fun h ho hm => ?_, fun h ho hm hl => ?_⟩
  · rw [Seg.narrow, if_neg (by omega), if_pos ho]
  · rw [Seg.narrow, if_neg (by omega), if_neg ho, if_pos hm]
  · rw [Seg.narrow, if_neg (by omega), if_neg ho, if_neg hm, if_pos hl]

/-- A bit of a word in which a field is replaced. -/
theorem getLsbD_setFld {n k : Nat} (w : BitVec n) (lo : Nat) (v : BitVec k) {i : Nat} (hi : i < n) :
    (setFld w lo v).getLsbD i = if lo ≤ i ∧ i < lo + k then v.getLsbD (i - lo) else w.getLsbD i := by
  rw [setFld]
  simp only [BitVec.getLsbD_or, BitVec.getLsbD_and, BitVec.getLsbD_not, BitVec.getLsbD_shiftLeft, BitVec.getLsbD_setWidth, BitVec.getLsbD_allOnes]
  by_cases h1 : lo ≤ i
  · by_cases h2 : i < lo + k
    · simp [h1, h2, hi, show i - lo < k by omega, show i - lo < n by omega, show ¬ i < lo by omega]
    · have hv : v.getLsbD (i - lo) = false := BitVec.getLsbD_of_ge _ _ (by omega)
      simp [h2, hi, hv, show ¬ i - lo < k by omega]
  · simp [h1, hi, show i < lo by omega]

theorem fld_setFld_self {n k : Nat} (w : BitVec n) {lo : Nat} (v : BitVec k) (h : lo + k ≤ n) : fld (setFld w lo v) lo k = v := by
  ext i hi
  rw [BitVec.getElem_extractLsb', getLsbD_setFld w lo v (by omega), if_pos (by omega), Nat.add_sub_cancel_left, BitVec.getLsbD_eq_getElem hi]

theorem fld_setFld_apart {n k m : Nat} (w : BitVec n) {lo a : Nat} (v : BitVec k) (ha : a + m ≤ n) (h : a + m ≤ lo ∨ lo + k ≤ a) :
    (fld (setFld w lo v) a m : BitVec m) = fld w a m := by
  ext i hi
  rw [BitVec.getElem_extractLsb', BitVec.getElem_extractLsb', getLsbD_setFld w lo v (by omega), if_neg (by omega)]

/-- A sum inside the low part of a number leaves what is above it. -/
theorem add_low_part {a b w n : Nat} (ha : a < 2 ^ n) (hw : w ≤ n) (h : a % 2 ^ w + b < 2 ^ w) :
    (a + b) % 2 ^ n % 2 ^ w = a % 2 ^ w + b ∧ (a + b) % 2 ^ n / 2 ^ w = a / 2 ^ w := by
  have hp := Nat.two_pow_pos w
  have hn : 2 ^ n = 2 ^ w * 2 ^ (n - w) := by rw [← Nat.pow_add, Nat.add_sub_cancel' hw]
  have hd : a / 2 ^ w < 2 ^ (n - w) := Nat.div_lt_of_lt_mul (hn ▸ ha)
  have hs : a + b = 2 ^ w * (a / 2 ^ w) + (a % 2 ^ w + b) := by
    have := Nat.div_add_mod a (2 ^ w)
    omega
  have hlt : a + b < 2 ^ n := by
    have := Nat.mul_le_mul_left (2 ^ w) (show a / 2 ^ w + 1 ≤ 2 ^ (n - w) from hd)
    rw [Nat.mul_succ, ← hn] at this
    omega
  rw [Nat.mod_eq_of_lt hlt, hs, Nat.mul_add_mod, Nat.mod_eq_of_lt h, Nat.mul_add_div hp, Nat.div_eq_of_lt h]
  exact ⟨rfl, rfl⟩

/-- A segment whose base has moved up, with a new limit and fewer rights. -/
def Seg.narrowed (g : Seg) (off len : Word) (keep : BitVec 3) : Seg :=
  { w0 := g.w0 + off, w1 := setFld (setFld g.w1 0 (fld len 0 53 : BitVec 53)) 53 (g.rights &&& keep) }

section
variable (g : Seg) (off len : Word) (keep : BitVec 3)

theorem Seg.narrowed_kind : (g.narrowed off len keep).kind = g.kind :=
  congrArg BitVec.toNat ((fld_setFld_apart _ _ (by decide) (by decide)).trans (fld_setFld_apart _ _ (by decide) (by decide)))

theorem Seg.narrowed_rights : (g.narrowed off len keep).rights = g.rights &&& keep := fld_setFld_self _ _ (by decide)

theorem Seg.narrowed_limit (h : len.toNat < 2 ^ 53) : (g.narrowed off len keep).limit = len.toNat := by
  have e : (fld (g.narrowed off len keep).w1 0 53 : BitVec 53) = fld len 0 53 :=
    (fld_setFld_apart _ _ (by decide) (by decide)).trans (fld_setFld_self _ _ (by decide))
  rw [Seg.limit, e, BitVec.extractLsb'_toNat, Nat.shiftRight_zero, Nat.mod_eq_of_lt h]

theorem Seg.narrowed_base {w : Nat} (hw : w ≤ 64) (h : g.w0.toNat % 2 ^ w + off.toNat < 2 ^ w) :
    (g.narrowed off len keep).w0.toNat % 2 ^ w = g.w0.toNat % 2 ^ w + off.toNat ∧
      (g.narrowed off len keep).w0.toNat / 2 ^ w = g.w0.toNat / 2 ^ w := by
  rw [Seg.narrowed, BitVec.toNat_add]
  exact add_low_part g.w0.isLt hw h

end

theorem Seg.narrow_ok {g : Seg} {is1 : Bool} {off len : Word} (keep : BitVec 3) (hk : g.kind < 4)
    (ho : ¬ (g.limit < off.toNat ∨ g.limit - off.toNat < len.toNat)) (hm : ¬ (is1 = true ∧ off ≠ 0))
    (hl : ¬ 2 ^ baseBits g.kind ≤ g.w0.toNat % 2 ^ baseBits g.kind + off.toNat) :
    g.narrow is1 off len keep = .ok (g.narrowed off len keep) := by
  rw [Seg.narrow, if_neg (by omega), if_neg ho, if_neg hm, if_neg hl]
  rfl

theorem baseBits_eq {k : Nat} (h : k < 4) : baseBits k = if k ≤ 1 then 18 else if k = 2 then 27 else 52 := by
  obtain rfl | rfl | rfl | rfl : k = 0 ∨ k = 1 ∨ k = 2 ∨ k = 3 := by omega
  all_goals rfl

/-- What sgnarrow does with the segment that its check gives. -/
def State.narrowTo (u : State) (i : Instr) (sg : Fin 8) : Except Nat Seg → State
  | .error c => if c = 0x09 then u.windowTrap else u.trapOpen c
  | .ok g => (u.setMe (u.me.setSg sg g)).advance i

theorem exec_sgnarrow_ready {s : State} {sg : Fin 8} {a o : Src} {keep : BitVec 3} (h : Ready s (.sgnarrow sg a o keep)) :
    exec (.sgnarrow sg a o keep) s = .next ((after2 s a o).narrowTo (.sgnarrow sg a o keep) sg
      (((after2 s a o).me.sg.get sg).narrow (sg == 1) (val2 s a o) (val1 s a) keep)) := congrArg _ (State.gated_ready h _)

theorem segmentInstructions : Claims.SegmentInstructions := by
  refine ⟨fun s sg a o keep hr => ?_, fun s sg d word hr => congrArg _ (State.gated_ready hr _)⟩
  rw [exec_sgnarrow_ready hr]
  intro u g len off field outside leaves
  have hm : (sg == 1) = true ∧ off ≠ 0 ↔ sg = 1 ∧ off ≠ 0 := by rw [beq_iff_eq]
  have hf : g.kind < 4 → baseBits g.kind = field := baseBits_eq
  obtain ⟨e4, e3, e9, e5⟩ := Seg.narrow_error (g := g) (is1 := sg == 1) (off := off) (len := len) keep
  refine ⟨fun hk ho h1 hl => ?_, fun hk => ?_, fun hk ho => ?_, fun hk ho h1 h2 => ?_, fun hk ho h1 hl => ?_⟩
  · have hlim : g.limit < 2 ^ 53 := BitVec.isLt _
    have hbits : field ≤ 64 := by unfold field; split <;> [decide; split <;> decide]
    obtain ⟨hlow, hhigh⟩ := g.narrowed_base off len keep hbits (by omega)
    refine ⟨_, g.narrowed off len keep, rfl, ?_, g.narrowed_kind off len keep, g.narrowed_limit off len keep (by omega),
      g.narrowed_rights off len keep, hlow, hhigh⟩
    rw [Seg.narrow_ok keep hk ho (fun k => h1 (hm.mp k)) (by rw [hf hk]; exact hl)]
    rfl
  · exact ⟨_, rfl, by rw [e4 hk]; exact trapOpen_trapped u 0x04⟩
  · exact ⟨_, rfl, by rw [e3 hk ho]; exact trapOpen_trapped u 0x03⟩
  · exact ⟨_, rfl, by rw [e9 hk ho (hm.mpr ⟨h1, h2⟩)]; exact windowTrap_trapped u⟩
  · exact ⟨_, rfl, by rw [e5 hk ho (fun k => h1 (hm.mp k)) (by rw [hf hk]; exact hl)]; exact trapOpen_trapped u 0x05⟩

/-- Settles O18: the fences from their meanings, and sgnarrow by what its check answers. -/
theorem fencesAndSegments : Obligations.FencesAndSegments := ⟨fences, segmentInstructions⟩

end Sys2Proof.Machine

namespace Sys2Proof.Machine
open Sys2Proof

-- What reading operands and performing at a home leaves --------------------------------------------------------------------------------

theorem Rests.mem {s t : State} (h : Rests s t) : t.mem = s.mem := (State.outside_keeps h.outside).1

theorem Rests.inv {s t : State} (h : Rests s t) (hi : Inv s) : Inv t := by unfold Inv; rw [h.mem]; exact hi

theorem rests_after1 (s : State) (a : Src) : Rests s (after1 s a) := rests_read s a

theorem rests_after2 (s : State) (a b : Src) : Rests s (after2 s a b) := (rests_read s a).trans (rests_read _ b)

theorem CoresKept.me {s t : State} (h : CoresKept s t) : t.me = s.me := by
  rw [State.me, h.core, h.slot]; exact h.thread _ _

-- Where an access lands (05 R100, R104) ----------------------------------------------------------------------------------------------------

/-- Whether the scalar destination of an access, if it has one, is a register. -/
def MemOp.plain : MemOp → Bool
  | .ld _ _ d => plainDst d
  | .amo _ _ d => plainDst d
  | _ => true

/-- A thread whose access has been performed, its destination a register. -/
def Thread.landed (t : Thread) (op : MemOp) (v : Vec) : Thread :=
  match op with
  | .ld sz sg d => t.putReg d (loaded sz sg v)
  | .vld _ _ d => t.setV d v
  | .amo _ wide d => t.putReg d (if wide then v.setWidth 64 else sext64 32 (v.setWidth 64))
  | _ => t

/-- The destination of an access that is performed, and then the pc. -/
theorem State.land_plain {op : MemOp} (h : op.plain = true) (s : State) (v : Vec) (pc : Word) :
    s.land op v (some pc) = s.setMe ((s.me.landed op v).performed pc) := by
  cases op with
  | ld sz sg d | amo q wide d =>
    simp only [State.land, State.finish_plain h, State.move, State.goTo, State.setMe_me, State.setMe_setMe]
    rfl
  | vld sz mask d =>
    simp only [State.land, State.move, State.goTo, State.setMe_me, State.setMe_setMe]
    rfl
  | st _ | vst _ _ _ | bop _ _ | wld _ _ => rfl

/-- The same of a thread that is written back, its pc having moved before. -/
theorem State.land_setMe {op : MemOp} (h : op.plain = true) (s : State) (t : Thread) (v : Vec) :
    (s.setMe t).land op v none = s.setMe (t.landed op v) := by
  cases op with
  | ld sz sg d | amo q wide d =>
    simp only [State.land, State.finish_plain h, State.move, State.setMe_me, State.setMe_setMe]
    rfl
  | vld sz mask d =>
    simp only [State.land, State.move, State.setMe_me, State.setMe_setMe]
    rfl
  | st _ | vst _ _ _ | bop _ _ | wld _ _ => rfl

-- Accesses at a key (05 R100-R105) ---------------------------------------------------------------------------------------------------------

theorem performAt_st_raw {s : State} (hi : Inv s) (key : Nat) (sz : Size) (data : Vec) (exp : Word) :
    ∃ t, performAt s (.raw key) (.st sz) data exp = some (0, t) ∧ bytesNat (rawRead t key sz.bytes) = data.toNat % 2 ^ (8 * sz.bytes) ∧
      MemoryKeepsOutside s t key sz.bytes := by
  have hout := memoryKeepsOutside_rawWrite hi key (natBytes sz.bytes data.toNat)
  rw [natBytes_length] at hout
  exact ⟨_, performAt_st sz, bytesNat_rawWrite hi key _ _, hout⟩

theorem performAt_vld_raw {s : State} {key : Nat} {sz : Size} {mask : Word} (d : Fin 16) (data : Vec) (exp : Word)
    (hp : ∀ i, i < 64 / sz.bytes → bit mask i = true → poisoned s (key + sz.bytes * i) sz.bytes = false) :
    ∃ v, performAt s (.raw key) (.vld sz mask d) data exp = some (v, s) ∧ LanesLoaded s key sz mask v :=
  ⟨_, performAt_vld d hp, readLanes_enabled sz mask fun _ => Nat.le_of_eq (Memory.read_length ..)⟩

theorem performAt_amo_raw {s : State} (hi : Inv s) {key : Nat} (op : AmoOp) {wide : Bool} (d : Dst) (data : Vec) (exp : Word)
    (hp : poisoned s key (amoBytes wide) = false) :
    let n := amoBytes wide
    let old := bytesNat (rawRead s key n)
    ∃ t, performAt s (.raw key) (.amo op wide d) data exp = some (BitVec.ofNat 512 old, t) ∧
      bytesNat (rawRead t key n) = amoWrites op n old (data.toNat % 2 ^ (8 * n)) (exp.toNat % 2 ^ (8 * n)) ∧ MemoryKeepsOutside s t key n := by
  intro n old
  obtain ⟨t, ht, h⟩ := performAt_amo (s := s) (h := .raw key) (data := data) (exp := exp) op d hp
  refine ⟨t, ht, ?_⟩
  obtain rfl | ⟨rfl, hn⟩ := h
  · have ho : old < 2 ^ (8 * n) := by
      have := bytesNat_lt (rawRead s key n)
      rwa [rawRead, Memory.read_length] at this
    have hout := memoryKeepsOutside_rawWrite hi key (natBytes n (amoWrites op n old (data.toNat % 2 ^ (8 * n)) (exp.toNat % 2 ^ (8 * n))))
    rw [natBytes_length] at hout
    exact ⟨(bytesNat_rawWrite hi key n _).trans (Nat.mod_eq_of_lt (amoWrites_lt op ho (Nat.mod_lt _ (Nat.two_pow_pos _)))), hout⟩
  · exact ⟨hn.symm, fun _ _ => rfl⟩

theorem toNat_ofNat_of_lt {w x : Nat} (h : x < 2 ^ w) : (BitVec.ofNat w x).toNat = x := by
  rw [BitVec.toNat_ofNat, Nat.mod_eq_of_lt h]

/-- A 32-bit lane of 64 bytes of memory. -/
theorem lane_of_read (m : List Host.Cell) (key : Nat) {i : Nat} (hi : i < 16) :
    lane 32 (BitVec.ofNat 512 (bytesNat (Memory.read m key 64))) i = BitVec.ofNat 32 (bytesNat (Memory.read m (key + 4 * i) 4)) := by
  apply BitVec.eq_of_toNat_eq
  have hlt := bytesNat_lt (Memory.read m key 64)
  rw [Memory.read_length] at hlt
  have hpart := bytesNat_read_part m key (n := 64) (k := 4 * i) (w := 4) (by omega)
  rw [toNat_lane, toNat_ofNat_of_lt (w := 8 * 64) hlt, BitVec.toNat_ofNat, ← hpart, show 8 * (4 * i) = 32 * i by omega]
  exact (Nat.mod_mod _ _).symm

/-- A bank operation changes each lane that its mask enables. -/
theorem performAt_bop_raw {s : State} (hi : Inv s) {key : Nat} (op : BopOp) (mask : Word) (data : Vec) (exp : Word)
    (hp : poisoned s key 64 = false) :
    ∃ t, performAt s (.raw key) (.bop op mask) data exp = some (0, t) ∧ MemoryKeepsOutside s t key 64 ∧ ∀ i, i < 16 →
      let old : W32 := BitVec.ofNat 32 (bytesNat (rawRead s (key + 4 * i) 4))
      BitVec.ofNat 32 (bytesNat (rawRead t (key + 4 * i) 4)) = if bit mask i then bopLane op old (lane 32 data i) else old := by
  refine ⟨_, performAt_bop op mask hp, ?_, fun i hl => ?_⟩
  · have hout := memoryKeepsOutside_rawWrite hi key
      (natBytes 64 (bopLine op mask (BitVec.ofNat 512 (bytesNat (homeRead s (.raw key) 0 64))) data).toNat)
    rwa [natBytes_length] at hout
  · generalize hx : bopLine op mask (BitVec.ofNat 512 (bytesNat (homeRead s (.raw key) 0 64))) data = x
    have hw := bytesNat_rawWrite hi key 64 x.toNat
    have hx512 : x.toNat % 2 ^ (8 * 64) = x.toNat := by
      rw [show 8 * 64 = 512 by decide, BitVec.toNat_mod_cancel]
    have hnew := lane_of_read (rawWrite s key (natBytes 64 x.toNat)).mem key hl
    rw [show Memory.read (rawWrite s key (natBytes 64 x.toNat)).mem key 64 = rawRead (rawWrite s key (natBytes 64 x.toNat)) key 64 from rfl,
      hw, hx512, BitVec.ofNat_toNat, BitVec.setWidth_eq] at hnew
    have hold := lane_of_read s.mem key hl
    refine hnew.symm.trans ?_
    rw [← hx, bopLine, lane_ofLanes _ (by decide), if_pos hl]
    show (if bit mask i = true then bopLane op (lane 32 (BitVec.ofNat 512 (bytesNat (Memory.read s.mem key 64))) i) (lane 32 data i)
      else lane 32 (BitVec.ofNat 512 (bytesNat (Memory.read s.mem key 64))) i) = _
    rw [hold]
    rfl

-- Accesses as they start (05 R99, R101, R102) ---------------------------------------------------------------------------------------------

section
variable {s : State} {i : Instr} {op : MemOp} {rlx : Bool} {sg : Fin 8} {off : Word} {disp a : Nat} {data : Vec} {exp : Word}

/-- An access through kind 0 is performed at once. -/
theorem State.access_local {v : Vec} {u : State} (h : checkAccess s (s.me.sg.get sg) op off disp = .ok a) (hw : op.isWld = false)
    (hk : (s.me.sg.get sg).kind = 0) (hp : performAt s (.raw (lsKey s.core a)) op data exp = some (v, u)) :
    s.access i op rlx sg off disp data exp = u.land op v (some (nextPc s.me (lengthOf i))) := by
  simp only [State.access_ok h, State.startAccess, State.accessOf, hw, Bool.false_eq_true, if_false, hk, if_true, hp]
  rfl

theorem poisonTrap_trapped (s : State) (x : Access) (hi : x.iword = s.iword) (hp : x.pc = s.me.pc) :
    Trapped (fire s 65) (s.poisonTrap s.core s.slot x) 0x0A (BitVec.ofNat 64 x.addr) 0 := by
  obtain ⟨harts, h⟩ := fire_eq s 65
  unfold State.poisonTrap
  rw [h, hi, hp]
  exact trap_trapped ({ s with harts := harts } : State) _ _ _

theorem State.access_meets_poison (h : checkAccess s (s.me.sg.get sg) op off disp = .ok a) (hw : op.isWld = false)
    (hk : (s.me.sg.get sg).kind = 0) (hp : performAt s (.raw (lsKey s.core a)) op data exp = none) :
    s.access i op rlx sg off disp data exp = s.poisonTrap s.core s.slot (s.accessOf i op sg off disp data exp a) := by
  simp only [State.access_ok h, State.startAccess, State.accessOf, hw, Bool.false_eq_true, if_false, hk, if_true, hp]

/-- An access through kind 0 that meets poison traps. -/
theorem State.access_poisoned (h : checkAccess s (s.me.sg.get sg) op off disp = .ok a) (hw : op.isWld = false)
    (hk : (s.me.sg.get sg).kind = 0) (hp : performAt s (.raw (lsKey s.core a)) op data exp = none) :
    Trapped (fire s 65) (s.access i op rlx sg off disp data exp) 0x0A (BitVec.ofNat 64 a) 0 := by
  rw [State.access_meets_poison h hw hk hp]
  exact poisonTrap_trapped s _ rfl rfl

/-- An ordinary access through another kind removes its thread, and through kind 1 posts its record. -/
theorem State.access_distant (h : checkAccess s (s.me.sg.get sg) op off disp = .ok a) (hw : op.isWld = false)
    (hk : (s.me.sg.get sg).kind ≠ 0) :
    s.access i op false sg off disp data exp = if (s.me.sg.get sg).kind = 1
      then (s.remove (.remote (s.accessOf i op sg off disp data exp a))).post (senderThread s.core s.slot)
        (remoteRecord s s.core s.slot (s.accessOf i op sg off disp data exp a))
      else s.remove (.mem (s.accessOf i op sg off disp data exp a)) := by
  simp only [State.access_ok h, State.startAccess, State.accessOf, hw, Bool.false_eq_true, if_false, hk]
  rfl

/-- A relaxed access through another kind goes into flight behind the others. -/
theorem State.access_relaxed (h : checkAccess s (s.me.sg.get sg) op off disp = .ok a) (hw : op.isWld = false)
    (hk : (s.me.sg.get sg).kind ≠ 0) :
    s.access i op true sg off disp data exp =
      (s.launchRelaxed (s.accessOf i op sg off disp data exp a) s.me.relaxed.length).goTo (nextPc s.me (lengthOf i)) := by
  simp only [State.access_ok h, State.startAccess, State.accessOf, hw, Bool.false_eq_true, if_false, hk, if_true]
  rfl

end

-- Accesses through kind 0 (05 R99-R104) ----------------------------------------------------------------------------------------------------

theorem localLoads : Claims.LocalLoads := by
  intro s rlx sg o disp sz a u key n
  have hkey : lsKey u.core a = key := congrArg (lsKey · a) (rests_after1 s o).core
  refine ⟨fun signed d hr hk hc => ?_, fun m vd hr hk hc => ?_⟩
  · rw [exec_ld_ready sg o disp hr]
    intro v
    refine ⟨fun hp => congrArg _ ?_, fun hp => ⟨_, rfl, State.access_poisoned hc rfl hk ?_⟩⟩
    · rw [State.access_local hc rfl hk (by rw [hkey]; exact performAt_ld signed d hp), State.land, loaded_eq]
      rfl
    · rw [hkey]; exact performAt_ld_poisoned signed d hp
  · rw [exec_vld_ready sg o disp hr]
    have hc : checkAccess u (u.me.sg.get sg) (.vld sz (u.me.mask m) vd) (val1 s o) (disp.toNat * n) = .ok a := hc
    refine ⟨fun hp => ?_, fun i hi hm hp => ⟨_, rfl, State.access_poisoned hc rfl hk ?_⟩⟩
    · obtain ⟨v, hv, hl⟩ := performAt_vld_raw vd 0 0 hp
      refine ⟨v, congrArg _ ?_, hl⟩
      rw [State.access_local hc rfl hk (by rw [hkey]; exact hv), State.land, State.move, State.advance, State.setMe_me]
      rfl
    · rw [hkey]; exact performAt_vld_poisoned vd hi hm hp

/-- The value that a cas expects; no other atomic looks at it. -/
theorem amoWrites_expected (s : State) (op : AmoOp) (d : Dst) (n old x w : Nat) :
    amoWrites op n old x ((expected s op d).toNat % w) = amoWrites op n old x ((s.read (nextSrc d)).1.toNat % w) := by
  cases op <;> rfl

theorem toNat_widened (x : Word) : (x.setWidth 512).toNat = x.toNat :=
  BitVec.toNat_setWidth_of_le (by decide)

theorem localStoresAndAtomics : Claims.LocalStoresAndAtomics := by
  intro s rlx sg o disp a hi key
  refine ⟨fun sz x hr => ?_, fun sz m v hr => ?_, fun op wide d hr => ?_⟩
  · intro u hk hc
    have hu := rests_after2 s x o
    obtain ⟨t, ht, hb, ho⟩ := performAt_st_raw (hu.inv hi) key sz ((val1 s x).setWidth 512) 0
    have hkey : lsKey u.core a = key := congrArg (lsKey · a) hu.core
    refine ⟨_, exec_st_ready sg o disp hr, ?_⟩
    rw [State.access_local hc rfl hk (by rw [hkey]; exact ht), State.land_plain rfl, (coresKept_performAt ht).me, ← toNat_widened]
    exact ⟨hb, ho, State.setMe_me _ _⟩
  · intro u hk hc
    have hu := rests_after1 s o
    obtain ⟨t, ht, hl⟩ := performAt_vst_raw (hu.inv hi) key sz m (u.me.mask m) (u.me.v.get v) 0
    have hkey : lsKey u.core a = key := congrArg (lsKey · a) hu.core
    have hc : checkAccess u (u.me.sg.get sg) (.vst sz m (u.me.mask m)) (val1 s o) (disp.toNat * sz.bytes) = .ok a := hc
    refine ⟨_, exec_vst_ready sg o disp hr, ?_⟩
    rw [State.access_local hc rfl hk (by rw [hkey]; exact ht), State.land_plain rfl, (coresKept_performAt ht).me]
    exact ⟨hl, State.setMe_me _ _⟩
  · intro u n w x old hk hc
    have hu := rests_after2 s d.asSrc o
    have hkey : lsKey u.core a = key := congrArg (lsKey · a) hu.core
    have hc : checkAccess u (u.me.sg.get sg) (.amo op wide d) (val2 s d.asSrc o) (disp.toNat * amoBytes wide) = .ok a := hc
    refine ⟨fun hp hd => ?_, fun hp => ⟨_, exec_amo_ready sg o disp hr, State.access_poisoned hc rfl hk ?_⟩⟩
    · obtain ⟨t, ht, hb, ho⟩ := performAt_amo_raw (hu.inv hi) op d ((val1 s d.asSrc).setWidth 512) (expected s op d) hp
      refine ⟨_, exec_amo_ready sg o disp hr, ?_⟩
      rw [State.access_local hc rfl hk (by rw [hkey]; exact ht), State.land_plain (op := .amo op wide d) hd, (coresKept_performAt ht).me]
      rw [amoWrites_expected, toNat_widened] at hb
      refine ⟨hb, ho, (State.setMe_me _ _).trans ?_⟩
      rw [Thread.landed, amo_answer]
      rfl
    · rw [hkey]; exact performAt_amo_poisoned op d hp

/-- Settles O15: each access by what it does at its key, and the destination that it lands in. -/
theorem localAccesses : Obligations.LocalAccesses := ⟨localLoads, localStoresAndAtomics⟩

end Sys2Proof.Machine

namespace Sys2Proof.Machine
open Sys2Proof

-- Accesses through kinds 1 to 3 as they start (05 R101, R102) -------------------------------------------------------------------------------

theorem State.post_net (s : State) (n : Nat) (r : Record) : ∃ l, (s.post n r).net = s.net ++ l := by
  simp only [State.post]
  split
  · exact ⟨_, rfl⟩
  · split <;> exact ⟨[], (List.append_nil _).symm⟩

/-- A relaxed access behind those in flight: one through kind 1 has posted its record unless another has. -/
theorem State.launchRelaxed_last (s : State) (x : Access) :
    s.launchRelaxed x s.me.relaxed.length =
      (if decide (x.kind = 1) && !s.me.remoteBusy then s.post (senderThread s.core s.slot) (remoteRecord s s.core s.slot x) else s).setMe
        { s.me with relaxed := s.me.relaxed ++ [{ acc := x, joined := s.clk, sent := decide (x.kind = 1) && !s.me.remoteBusy }] } := by
  rw [State.launchRelaxed, List.take_length, List.drop_length]
  split
  · rw [(aloof_post s _ _).clk]
  · rfl

/-- What a relaxed access that goes into flight does. -/
theorem relaxedStarts (u : State) (x : Access) (pc : Word) :
    let t := (u.launchRelaxed x u.me.relaxed.length).goTo pc
    t.me.relaxed = u.me.relaxed ++ [{ acc := x, joined := u.clk, sent := decide (x.kind = 1) && !u.me.remoteBusy }] ∧ t.me.st = u.me.st ∧
    t.me.pc = pc ∧ t.mem = u.mem ∧ (x.kind = 1 → u.me.remoteBusy = false →
      ∃ l, t.net = u.net ++ l ∧ OnItsWay t (senderThread u.core u.slot) (remoteRecord u u.core u.slot x)) := by
  intro t
  have ht : t = ((if decide (x.kind = 1) && !u.me.remoteBusy then u.post (senderThread u.core u.slot) (remoteRecord u u.core u.slot x) else u).setMe
      { u.me with relaxed := u.me.relaxed ++ [{ acc := x, joined := u.clk, sent := decide (x.kind = 1) && !u.me.remoteBusy }] }).goTo pc :=
    congrArg (State.goTo · pc) (State.launchRelaxed_last u x)
  rw [ht, State.goTo, State.setMe_me, State.setMe_setMe, State.setMe_me]
  refine ⟨by simp, by simp, Thread.performed_pc _ _, ?_, fun hk hb => ?_⟩
  · split
    · exact (State.outside_keeps (rests_post u _ _).outside).1
    · rfl
  · rw [if_pos (by simp [hk, hb])]
    obtain ⟨l, hl⟩ := u.post_net (senderThread u.core u.slot) (remoteRecord u u.core u.slot x)
    exact ⟨l, hl, post_onItsWay u _ _⟩

theorem distantStarts : Claims.DistantAccesses := by
  intro s i op rlx sg off disp a data e u hr h
  have he : exec i s = .next (u.access i op rlx sg off disp data e) ∧ op.isWld = false := by
    obtain ⟨sz, signed, d, o, c, rfl, rfl, rfl, rfl, rfl, rfl, rfl⟩ | ⟨sz, x, o, c, rfl, rfl, rfl, rfl, rfl, rfl, rfl⟩ |
      ⟨sz, m, v, o, c, rfl, rfl, rfl, rfl, rfl, rfl, rfl⟩ | ⟨sz, m, v, o, c, rfl, rfl, rfl, rfl, rfl, rfl, rfl⟩ |
      ⟨q, wide, d, o, c, rfl, rfl, rfl, rfl, rfl, rfl, rfl, rfl⟩ | ⟨q, v, o, m, rfl, rfl, rfl, rfl, rfl, rfl, rfl, rfl⟩ := h
    · exact ⟨exec_ld_ready sg o c hr, rfl⟩
    · exact ⟨exec_st_ready sg o c hr, rfl⟩
    · exact ⟨exec_vld_ready sg o c hr, rfl⟩
    · exact ⟨exec_vst_ready sg o c hr, rfl⟩
    · exact ⟨exec_amo_ready sg o c hr, rfl⟩
    · exact ⟨exec_bop_ready sg o hr, rfl⟩
  obtain ⟨he, hw⟩ := he
  intro g x hk hc
  rw [he]
  refine ⟨?_, ?_, ?_⟩
  · rintro rfl h1
    exact ⟨_, rfl, (State.access_distant hc hw hk).trans (if_pos h1)⟩
  · rintro rfl h1
    exact congrArg _ ((State.access_distant hc hw hk).trans (if_neg h1))
  · rintro rfl
    exact ⟨_, rfl, by rw [State.access_relaxed hc hw hk]; exact relaxedStarts u x _⟩

end Sys2Proof.Machine

namespace Sys2Proof.Machine
open Sys2Proof

-- Physical bytes under a key (13 R233, R236) ----------------------------------------------------------------------------------------------

/-- A byte of a Basin, or of a line that was last written under the key, is the byte of memory. -/
theorem physByte_plain {s : State} {g a : Nat} (h : basinBase ≤ a ∨ lineGenOf s (a / 64) = g) : physByte s g a = Memory.get s.mem a := by
  refine if_neg fun e => ?_
  simp only [Bool.and_eq_true, decide_eq_true_eq, bne_iff_ne] at e
  omega

theorem physByte_crossed {s : State} {g a : Nat} (h : a < basinBase) (hg : lineGenOf s (a / 64) ≠ g) :
    physByte s g a = (lineUnder s g (a / 64)).getD (a % 64) 0 := by
  rw [← nthD_eq_getD]
  exact if_pos (by simp [h, hg])

theorem lineUnder_congr {s t : State} {g l : Nat} (hg : lineGenOf t l = lineGenOf s l)
    (hm : ∀ b, b / 64 = l → Memory.get t.mem b = Memory.get s.mem b) : lineUnder t g l = lineUnder s g l := by
  have h : rawRead t (l * 64) 64 = rawRead s (l * 64) 64 := Memory.read_congr fun i hi => hm _ (by omega)
  rw [lineUnder, lineUnder, hg, h]

theorem physByte_congr {s t : State} {g a : Nat} (hg : lineGenOf t (a / 64) = lineGenOf s (a / 64))
    (hm : ∀ b, b / 64 = a / 64 → Memory.get t.mem b = Memory.get s.mem b) : physByte t g a = physByte s g a := by
  rw [physByte, physByte, lineUnder_congr hg hm, hg, hm a rfl]

theorem lineGenOf_rekey (s : State) (g l m : Nat) : lineGenOf (rekey s g l) m = if m = l then g else lineGenOf s m := by
  unfold rekey
  split
  · next h => split <;> simp_all
  · split
    · next e => exact e ▸ SMap.getD_set_self ..
    · next e => exact SMap.getD_set_ne _ _ _ e

/-- A line that is turned over to a key reads under it as before. -/
theorem physByte_rekey {s : State} (hi : Inv s) {g l : Nat} (hl : l * 64 < basinBase) (a : Nat) :
    physByte (rekey s g l) g a = physByte s g a := by
  by_cases hg : lineGenOf s l = g
  · rw [rekey, if_pos hg]
  have hgen := lineGenOf_rekey s g l
  have hmem : (rekey s g l).mem = Memory.write s.mem (l * 64) (lineUnder s g l) := by rw [rekey, if_neg hg]
  by_cases ha : a / 64 = l
  · have hlen : a % 64 < (lineUnder s g l).length := by rw [lineUnder_length]; omega
    have hget := Memory.get_write_inside hi (a := l * 64) hlen
    rw [show l * 64 + a % 64 = a by omega] at hget
    have hb : a < basinBase := by unfold basinBase at hl ⊢; omega
    rw [physByte_plain (.inr ((hgen _).trans (if_pos ha))), physByte_crossed hb (by rwa [ha]), hmem, hget, ha, List.getD_eq_getElem]
  · exact physByte_congr ((hgen _).trans (if_neg ha)) fun b hb => by
      rw [hmem]
      exact Memory.get_write_outside hi (by rw [lineUnder_length]; omega)

/-- The lines of a range turned over to a key: every byte reads under it as before, and the lines are its own. -/
theorem physByte_rekeys {s : State} (hi : Inv s) {g l n : Nat} (hl : ∀ i, i < n → (l + i) * 64 < basinBase) :
    let t := iter (fun i s => rekey s g (l + i)) n s
    Inv t ∧ (∀ a, physByte t g a = physByte s g a) ∧ ∀ i, i < n → lineGenOf t (l + i) = g := by
  induction n with
  | zero => exact ⟨hi, fun _ => rfl, fun _ h => absurd h (Nat.not_lt_zero _)⟩
  | succ n ih =>
    obtain ⟨h1, h2, h3⟩ := ih fun i h => hl i (by omega)
    refine ⟨rekey_wf h1 g _, fun a => (physByte_rekey h1 (hl n (by omega)) a).trans (h2 a), fun i h => ?_⟩
    refine (lineGenOf_rekey _ _ _ _).trans ?_
    by_cases e : i = n
    · rw [e, if_pos rfl]
    · rw [if_neg (by omega)]
      exact h3 i (by omega)

/-- A write at a key into lines of one generation. -/
theorem physByte_rawWrite {s : State} (hi : Inv s) {g a : Nat} {bs : List Byte}
    (hk : ∀ i, i < bs.length → basinBase ≤ a + i ∨ lineGenOf s ((a + i) / 64) = g) (b : Nat) :
    physByte (rawWrite s a bs) g b = if a ≤ b ∧ b < a + bs.length then bs.getD (b - a) 0 else physByte s g b := by
  split
  · next h =>
    have hlen : b - a < bs.length := by omega
    have hget := Memory.get_write_inside hi (a := a) hlen
    have hb := hk _ hlen
    rw [show a + (b - a) = b by omega] at hget hb
    rw [physByte_plain (s := rawWrite s a bs) hb, rawWrite_mem, hget, List.getD_eq_getElem]
  · next h =>
    by_cases hb : basinBase ≤ b ∨ lineGenOf s (b / 64) = g
    · have ht : basinBase ≤ b ∨ lineGenOf (rawWrite s a bs) (b / 64) = g := hb
      rw [physByte_plain ht, physByte_plain hb]
      exact Memory.get_write_outside hi (by omega)
    · refine physByte_congr rfl fun c hc => Memory.get_write_outside hi ?_
      by_contra e
      have := hk (c - a) (by omega)
      rw [show a + (c - a) = c by omega, hc] at this
      unfold basinBase at this hb
      omega

/-- A physical write reads back under its key, and every other byte reads under it as before. -/
theorem physByte_physWrite {s : State} (hi : Inv s) (g : Nat) {a : Nat} {bs : List Byte} (h : basinBase ≤ a ∨ a + bs.length ≤ basinBase) :
    Inv (physWrite s g a bs) ∧ ∀ b, physByte (physWrite s g a bs) g b =
      if a ≤ b ∧ b < a + bs.length then bs.getD (b - a) 0 else physByte s g b := by
  unfold physWrite
  split
  · exact ⟨hi, fun b => (if_neg (by omega)).symm⟩
  · split
    · exact ⟨rawWrite_wf hi a bs, physByte_rawWrite hi fun i _ => .inl (by omega)⟩
    · obtain ⟨h1, h2, h3⟩ := physByte_rekeys hi (g := g) (l := a / 64) (n := (a + bs.length - 1) / 64 - a / 64 + 1)
        fun i hi => by unfold basinBase at *; omega
      refine ⟨rawWrite_wf h1 a bs, fun b => ?_⟩
      rw [physByte_rawWrite h1 (fun i hl => .inr ?_) b, h2]
      have := h3 ((a + i) / 64 - a / 64) (by omega)
      rwa [show a / 64 + ((a + i) / 64 - a / 64) = (a + i) / 64 by omega] at this

theorem physRead_eq_map (s : State) (g a n : Nat) : physRead s g a n = (List.range n).map fun i => physByte s g (a + i) := by
  induction n generalizing a with
  | zero => rfl
  | succ n ih =>
    rw [physRead, ih, List.range_succ_eq_map, List.map_cons, List.map_map]
    refine congrArg (_ :: ·) (List.map_congr_left fun i _ => ?_)
    rw [Function.comp_apply, Nat.add_assoc, Nat.add_comm 1]

theorem physRead_length (s : State) (g a n : Nat) : (physRead s g a n).length = n := by simp [physRead_eq_map]

-- One page through a cached leaf (13 R238-R241) -------------------------------------------------------------------------------------------

/-- A byte of a page as it reads through its leaf. -/
def leafByte (s : State) (l : Leaf) (a : Nat) : Byte := physByte s (keyGen s (keyOfLeaf l.leaf)) (l.pa a)

theorem pagesOf_within {a n : Nat} (hn : 0 < n) (h : a % 65536 + n ≤ 65536) : pagesOf a n = [a / 65536] := by
  rw [pagesOf, if_neg (by omega)]
  unfold pageBytes
  rw [show (a + n - 1) / 65536 = a / 65536 by omega, Nat.sub_self]
  rfl

/-- A leaf keeps the place of an address in its page. -/
theorem Leaf.pa_split (l : Leaf) (a : Nat) :
    ∃ k, l.pa a = 65536 * k + a % 65536 ∧ ∀ b, b / 65536 = a / 65536 → l.pa b = 65536 * k + b % 65536 := by
  refine ⟨l.pa a / 65536, ?_, fun b hb => ?_⟩
  all_goals
    unfold Leaf.pa frameOf pageBytes
    split <;> omega

theorem pieces_within {s : State} {cl asid a n : Nat} {l : Leaf} (hl : findLeaf s cl asid (a / 65536) = some l) (hn : 0 < n)
    (h : a % 65536 + n ≤ 65536) : pieces s cl asid a n = [(l, l.pa a, n)] := by
  have hp : pageLeaf s cl asid (a / 65536) = some l := by rw [pageLeaf, hl]
  rw [pieces, pagesOf_within hn h]
  simp only [List.filterMap_cons, List.filterMap_nil, hp]
  unfold pageBytes
  rw [show max a (a / 65536 * 65536) = a by omega, show min (a + n) ((a / 65536 + 1) * 65536) - a = n by omega]

theorem dvaBytes_within {s : State} {cl asid a n : Nat} {l : Leaf} (hl : findLeaf s cl asid (a / 65536) = some l) (hn : 0 < n)
    (h : a % 65536 + n ≤ 65536) : dvaBytes s cl asid a n = (List.range n).map fun i => leafByte s l (a + i) := by
  rw [dvaBytes, pieces_within hl hn h, piecesBytes, List.flatMap_singleton, physRead_eq_map]
  refine List.map_congr_left fun i hi => ?_
  obtain ⟨k, ha, hk⟩ := l.pa_split a
  have : i < n := List.mem_range.mp hi
  rw [leafByte, hk (a + i) (by omega)]
  exact congrArg (physByte s _) (show l.pa a + i = _ by omega)

theorem physWrite_lock (s : State) (g a : Nat) (bs : List Byte) :
    (physWrite s g a bs).lock = s.lock ∧ (physWrite s g a bs).clusters = s.clusters := by
  obtain ⟨_, _, _, _, h⟩ := physWrite_eq s g a bs
  rw [h]
  exact ⟨rfl, rfl⟩

/-- The first write through a cached leaf sets its dirty bit; later ones find it set (13 R240). -/
theorem setDirty_found {s : State} (hi : Inv s) {cl asid page : Nat} {l : Leaf} (hl : findLeaf s cl asid page = some l) :
    let t := setDirty s cl asid page
    Inv t ∧ t.lock = s.lock ∧ findLeaf t cl asid page = some { l with dirty := true } ∧ (l.dirty = true → t = s) := by
  have hp : pageLeaf s cl asid page = some l := by rw [pageLeaf, hl]
  simp only [setDirty, hp]
  split
  · next hd => exact ⟨hi, rfl, by rw [hl, ← hd], fun _ => rfl⟩
  · next hd =>
    obtain ⟨hlock, hclus⟩ := physWrite_lock s (keyGen s 0) l.entry (natBytes 8 (physWord s l.entry ||| 0x40).toNat)
    refine ⟨(keepsLines_physWrite (p := fun _ => True) s _ _ _ fun _ _ _ => trivial).inv hi, hlock, ?_, fun h => absurd h hd⟩
    have hc : (orEntry s l.entry 0x40).cluster cl = s.cluster cl := congrArg (fun m : SMap Cluster => SMap.getD m cl {}) hclus
    have hm : l.maps asid page = true := List.find?_some (p := fun m : Leaf => m.maps asid page) hl
    have keeps : ∀ m : Leaf, (if m.maps asid page then { m with dirty := true } else m).maps asid page = m.maps asid page := fun m => by
      split <;> rfl
    rw [findLeaf, State.cluster, State.setCluster, SMap.getD_set_self, hc, List.find?_map]
    simp only [Function.comp_def, keeps]
    rw [show (s.cluster cl).leaves.find? (fun l => l.maps asid page) = some l from hl, Option.map_some, if_pos hm]

/-- A write inside a page through its leaf: it reads back, and once the leaf is dirty the page's other bytes read as before. -/
theorem dvaPut_within {s : State} (hi : Inv s) {cl asid a : Nat} {l : Leaf} {bs : List Byte} (hl : findLeaf s cl asid (a / 65536) = some l)
    (hn : 0 < bs.length) (h : a % 65536 + bs.length ≤ 65536) :
    let t := dvaPut s cl asid a bs
    Inv t ∧ findLeaf t cl asid (a / 65536) = some { l with dirty := true } ∧
    (∀ i, i < bs.length → leafByte t l (a + i) = bs.getD i 0) ∧
    (l.dirty = true → ∀ b, b / 65536 = a / 65536 → b < a ∨ a + bs.length ≤ b → leafByte t l b = leafByte s l b) := by
  obtain ⟨h1, h2, h3, h4⟩ := setDirty_found hi hl
  have e : dvaPut s cl asid a bs = physWrite (setDirty s cl asid (a / 65536)) (keyGen s (keyOfLeaf l.leaf)) (l.pa a) bs := by
    rw [dvaPut, pieces_within hl hn h, pagesOf_within hn h]
    simp only [setDirtyAll, writePieces, List.take_length]
    rw [keyGen, h2]
    rfl
  obtain ⟨k, ha, hk⟩ := l.pa_split a
  obtain ⟨hlock, hclus⟩ := physWrite_lock (setDirty s cl asid (a / 65536)) (keyGen s (keyOfLeaf l.leaf)) (l.pa a) bs
  obtain ⟨hinv, hbyte⟩ := physByte_physWrite h1 (keyGen s (keyOfLeaf l.leaf)) (a := l.pa a) (bs := bs) (by rw [ha]; unfold basinBase; omega)
  have hg : keyGen (physWrite (setDirty s cl asid (a / 65536)) (keyGen s (keyOfLeaf l.leaf)) (l.pa a) bs) (keyOfLeaf l.leaf) =
      keyGen s (keyOfLeaf l.leaf) := by rw [keyGen, hlock, h2]; rfl
  rw [e]
  refine ⟨hinv, ?_, fun i hb => ?_, fun hd b hp hb => ?_⟩
  · rw [findLeaf, State.cluster, hclus]; exact h3
  · rw [leafByte, hg, hbyte, hk (a + i) (by omega), ha, if_pos (by omega)]
    congr 1
    omega
  · rw [leafByte, hg, hbyte, hk b hp, ha, if_neg (by omega), h4 hd, leafByte, hk b hp]

end Sys2Proof.Machine

namespace Sys2Proof.Machine
open Sys2Proof

-- What performing an access leaves of the wharf ----------------------------------------------------------------------------------------

theorem wharf_physWrite (s : State) (g a : Nat) (bs : List Byte) : (physWrite s g a bs).wharf = s.wharf := by
  obtain ⟨_, _, _, _, h⟩ := physWrite_eq s g a bs
  rw [h]

theorem wharf_setDirtyAll (s : State) (cl asid : Nat) (l : List Nat) : (setDirtyAll s cl asid l).wharf = s.wharf := by
  induction l generalizing s with
  | nil => rfl
  | cons p l ih =>
    refine (ih _).trans ?_
    unfold setDirty
    split
    · rfl
    · split
      · rfl
      · exact wharf_physWrite ..

theorem wharf_writePieces (s : State) (ps : List (Leaf × Nat × Nat)) (bs : List Byte) : (writePieces s ps bs).wharf = s.wharf := by
  induction ps generalizing s bs with
  | nil => rfl
  | cons p ps ih => exact (ih _ _).trans (wharf_physWrite ..)

theorem wharf_homeWrite (s : State) (h : Home) (off : Nat) (bs : List Byte) : (homeWrite s h off bs).wharf = s.wharf := by
  cases h with
  | raw a => rfl
  | dva cl asid a => exact (wharf_writePieces ..).trans (wharf_setDirtyAll ..)
  | held ps => exact wharf_writePieces ..

theorem wharf_writeLanes (s : State) (h : Home) (e : Nat) (v : Vec) (l : List Nat) : (writeLanes s h e v l).wharf = s.wharf := by
  induction l generalizing s with
  | nil => rfl
  | cons i l ih => exact (ih _).trans (wharf_homeWrite ..)

section
variable {s : State} {h : Home} {data : Vec} {exp : Word}

/-- What an access that is performed may do to its home: nothing, a write, or a write of lanes. -/
theorem performAt_writes {op : MemOp} {v : Vec} {t : State} (e : performAt s h op data exp = some (v, t)) :
    t = s ∨ (∃ off bs, t = homeWrite s h off bs) ∨ ∃ n w l, t = writeLanes s h n w l := by
  cases op with
  | ld sz sg d | vld sz mask d =>
    rw [performAt] at e
    split at e <;> cases e
    exact .inl rfl
  | st sz => cases e; exact .inr (.inl ⟨_, _, rfl⟩)
  | vst sz m mask =>
    rw [performAt_vst] at e
    split at e <;> cases e
    · exact .inr (.inl ⟨_, _, rfl⟩)
    · exact .inr (.inr ⟨_, _, _, rfl⟩)
  | amo op wide d =>
    cases hp : homePoisoned s h 0 (amoBytes wide) with
    | true => rw [performAt_amo_poisoned op d hp] at e; cases e
    | false =>
      obtain ⟨u, hu, h⟩ := performAt_amo (data := data) (exp := exp) op d hp
      cases hu.symm.trans e
      exact h.elim (fun h => .inr (.inl ⟨_, _, h⟩)) fun h => .inl h.1
  | bop op mask =>
    rw [performAt] at e
    split at e <;> cases e
    exact .inr (.inl ⟨_, _, rfl⟩)
  | wld first lines => cases e; exact .inl rfl

theorem wharf_performAt {op : MemOp} {v : Vec} {t : State} (e : performAt s h op data exp = some (v, t)) : t.wharf = s.wharf := by
  obtain rfl | ⟨off, bs, rfl⟩ | ⟨n, w, l, rfl⟩ := performAt_writes e
  · rfl
  · exact wharf_homeWrite ..
  · exact wharf_writeLanes ..

end

-- Translations and the bytes behind them, whatever the home-side caches hold (13 R234) ---------------------------------------------------------

/-- The home-side caches count and hold other lines; the dies' tables stay. -/
def CachesOnly (s t : State) : Prop := OnDies s t ∧ ∀ d, (t.die d).asBase = (s.die d).asBase

theorem CachesOnly.refl (s : State) : CachesOnly s s := ⟨⟨_, rfl⟩, fun _ => rfl⟩

theorem CachesOnly.trans {s t u : State} (h : CachesOnly s t) (g : CachesOnly t u) : CachesOnly s u :=
  ⟨h.1.trans g.1, fun d => (g.2 d).trans (h.2 d)⟩

theorem cachesOnly_setDie {s : State} {d : Nat} {x : Die} (h : x.asBase = (s.die d).asBase) : CachesOnly s (s.setDie d x) := by
  refine ⟨⟨_, rfl⟩, fun e => ?_⟩
  by_cases he : e = d
  · subst he; exact (congrArg Die.asBase (SMap.getD_set_self ..)).trans h
  · exact congrArg Die.asBase (SMap.getD_set_ne _ _ _ he)

theorem cachesOnly_cacheLine (s : State) (pa g : Nat) : CachesOnly s (cacheLine s pa g) := by
  unfold cacheLine
  extract_lets d x held
  split
  · exact .refl s
  · split <;> exact cachesOnly_setDie rfl

theorem cachesOnly_iter {f : Nat → State → State} (h : ∀ n s, CachesOnly s (f n s)) (n : Nat) (s : State) : CachesOnly s (iter f n s) := by
  induction n with
  | zero => exact .refl s
  | succ n ih => exact ih.trans (h n _)

theorem cachesOnly_leafLines (s : State) (l : Leaf) (pa n : Nat) : CachesOnly s (leafLines s l pa n) := by
  unfold leafLines homeLines homeLine
  dsimp only
  split
  · exact cachesOnly_iter (fun i s => cachesOnly_cacheLine s _ _) _ s
  · refine cachesOnly_iter (fun i s => ?_) _ s
    split
    · exact cachesOnly_cacheLine ..
    · exact .refl s

theorem cachesOnly_dvaTouch (s : State) (ps : List (Leaf × Nat × Nat)) : CachesOnly s (dvaTouch s ps) := by
  induction ps generalizing s with
  | nil => exact .refl s
  | cons p ps ih => exact (cachesOnly_leafLines s ..).trans (ih _)

section
variable {s t : State}

theorem CachesOnly.wharf (h : CachesOnly s t) : t.wharf = s.wharf := by obtain ⟨⟨_, rfl⟩, -⟩ := h; rfl

theorem CachesOnly.mem (h : CachesOnly s t) : t.mem = s.mem := by obtain ⟨⟨_, rfl⟩, -⟩ := h; rfl

theorem CachesOnly.findLeaf (h : CachesOnly s t) (cl asid page : Nat) : findLeaf t cl asid page = findLeaf s cl asid page := by
  obtain ⟨⟨_, rfl⟩, -⟩ := h; rfl

theorem CachesOnly.pageLeaf (h : CachesOnly s t) (cl asid page : Nat) : pageLeaf t cl asid page = pageLeaf s cl asid page := by
  obtain ⟨⟨dies, rfl⟩, hb⟩ := h
  have hw : ∀ base a d access, walk ({ s with dies := dies } : State) base a d access = walk s base a d access := fun _ _ _ _ => rfl
  have ht : asTable ({ s with dies := dies } : State) (cl / 32) = asTable s (cl / 32) := congrArg BitVec.toNat (hb _)
  unfold Machine.pageLeaf
  simp only [hw, ht]
  rfl

theorem CachesOnly.pieces (h : CachesOnly s t) (cl asid a n : Nat) : pieces t cl asid a n = pieces s cl asid a n := by
  simp only [Machine.pieces, h.pageLeaf]

theorem CachesOnly.dvaBytes (h : CachesOnly s t) (cl asid a n : Nat) : dvaBytes t cl asid a n = dvaBytes s cl asid a n := by
  simp only [Machine.dvaBytes, h.pieces, piecesBytes, physRead_eq_map]
  obtain ⟨⟨_, rfl⟩, -⟩ := h; rfl

theorem CachesOnly.dvaPoisoned (h : CachesOnly s t) (cl asid a n : Nat) : dvaPoisoned t cl asid a n = dvaPoisoned s cl asid a n := by
  rw [Machine.dvaPoisoned, h.pieces]
  obtain ⟨⟨_, rfl⟩, -⟩ := h; rfl

end

-- The pieces of a range of DVAs (13 R244) -----------------------------------------------------------------------------------------------

/-- The piece of a range of DVAs that lies in a page. -/
def pieceOf (s : State) (cl asid a n page : Nat) : Option (Leaf × Nat × Nat) :=
  (pageLeaf s cl asid page).map fun l => (l, l.pa (max a (page * 65536)), min (a + n) ((page + 1) * 65536) - max a (page * 65536))

theorem pieces_eq (s : State) (cl asid a n : Nat) : pieces s cl asid a n = (pagesOf a n).filterMap (pieceOf s cl asid a n) := by
  refine List.filterMap_congr fun p _ => ?_
  unfold pieceOf
  cases pageLeaf s cl asid p <;> rfl

/-- The pieces of consecutive pages hold no more bytes than the part of the range in them. -/
theorem piecesBytes_length_le (s : State) (cl asid a n p m : Nat) :
    (piecesBytes s ((List.range' p m).filterMap (pieceOf s cl asid a n))).length ≤ min (a + n) ((p + m) * 65536) - max a (p * 65536) := by
  induction m generalizing p with
  | zero => exact Nat.zero_le _
  | succ m ih =>
    have hih := ih (p + 1)
    rw [List.range'_succ]
    cases h : pieceOf s cl asid a n p with
    | none => rw [List.filterMap_cons_none h]; exact Nat.le_trans hih (by omega)
    | some q =>
      obtain ⟨l, -, rfl⟩ := Option.map_eq_some_iff.mp h
      rw [List.filterMap_cons_some h, piecesBytes, List.flatMap_cons, List.length_append, physRead_length]
      exact Nat.le_trans (Nat.add_le_add_left hih _) (by dsimp only; omega)

theorem dvaBytes_length_le (s : State) (cl asid a n : Nat) : (dvaBytes s cl asid a n).length ≤ n := by
  rw [dvaBytes, pieces_eq, pagesOf]
  split
  · exact Nat.zero_le _
  · rw [← List.range'_eq_map_range]
    refine Nat.le_trans (piecesBytes_length_le s cl asid a n (a / pageBytes) _) ?_
    omega

theorem poisoned_sub {s : State} {a n b m : Nat} (h : poisoned s a n = false) (hb : a ≤ b) (hm : b + m ≤ a + n) : poisoned s b m = false := by
  refine List.any_eq_false.mpr fun l hl => ?_
  have := List.any_eq_false.mp h l hl
  simp only [decide_eq_true_eq] at this ⊢
  omega

/-- What is cut from pieces lies in one of them. -/
theorem mem_cutPieces {ps : List (Leaf × Nat × Nat)} {off n : Nat} {q : Leaf × Nat × Nat} (h : q ∈ cutPieces ps off n) :
    ∃ p ∈ ps, p.2.1 ≤ q.2.1 ∧ q.2.1 + q.2.2 ≤ p.2.1 + p.2.2 := by
  induction ps generalizing off n with
  | nil => cases h
  | cons x ps ih =>
    obtain ⟨l, a, m⟩ := x
    rw [cutPieces] at h
    split at h
    · cases h
    · split at h
      · obtain ⟨p, hp, hq⟩ := ih h
        exact ⟨p, List.mem_cons_of_mem _ hp, hq⟩
      · obtain rfl | h := List.mem_cons.mp h
        · exact ⟨_, List.mem_cons_self, by dsimp only; omega⟩
        · obtain ⟨p, hp, hq⟩ := ih h
          exact ⟨p, List.mem_cons_of_mem _ hp, hq⟩

/-- No part of a range without poison is poisoned, whichever pieces of it are looked at. -/
theorem held_not_poisoned {s : State} {cl asid a n : Nat} (h : dvaPoisoned s cl asid a n = false) (off m : Nat) :
    homePoisoned s (.held (pieces s cl asid a n)) off m = false := by
  refine List.any_eq_false.mpr fun q hq => ?_
  obtain ⟨p, hp, h1, h2⟩ := mem_cutPieces hq
  have := List.any_eq_false.mp h p hp
  rw [poisoned_sub (Bool.not_eq_true _ ▸ this) h1 h2]
  exact Bool.false_ne_true

theorem not_piecesBusy {s : State} (h : ∀ d, (s.die d).busy = false) (ps : List (Leaf × Nat × Nat)) : piecesBusy s ps = false :=
  List.any_eq_false.mpr fun p _ => by rw [leafBusy, h, Bool.and_false]; exact Bool.false_ne_true

-- Accesses through a page's leaf (05 R100-R104; 13 R240) --------------------------------------------------------------------------------------

/-- What is written inside a page reads back, part by part. -/
theorem dvaBytes_dvaPut_part {s : State} (hi : Inv s) {cl asid a off n : Nat} {l : Leaf} {bs : List Byte}
    (hl : findLeaf s cl asid (a / 65536) = some l) (h : a % 65536 + bs.length ≤ 65536) (hn : 0 < n) (ho : off + n ≤ bs.length) :
    dvaBytes (dvaPut s cl asid a bs) cl asid (a + off) n = (bs.drop off).take n := by
  obtain ⟨-, hf, hb, -⟩ := dvaPut_within hi hl (by omega) h
  have hp : (a + off) / 65536 = a / 65536 := by omega
  rw [dvaBytes_within (by rw [hp]; exact hf) hn (by omega)]
  refine List.ext_getElem (by simp; omega) fun i h1 h2 => ?_
  have hin : i < n := by simpa using h1
  rw [List.getElem_map, List.getElem_range, List.getElem_take, List.getElem_drop]
  refine Eq.trans ?_ ((hb (off + i) (by omega)).trans (List.getD_eq_getElem _ _ (by omega)))
  rw [Nat.add_assoc]
  rfl

theorem dvaBytes_dvaPut {s : State} (hi : Inv s) {cl asid a : Nat} {l : Leaf} {bs : List Byte}
    (hl : findLeaf s cl asid (a / 65536) = some l) (h : a % 65536 + bs.length ≤ 65536) (hn : 0 < bs.length) :
    dvaBytes (dvaPut s cl asid a bs) cl asid a bs.length = bs := by
  have := dvaBytes_dvaPut_part hi hl h hn (off := 0) (by omega)
  rwa [List.drop_zero, List.take_length] at this

/-- Bytes of a dirty page away from a write read as before. -/
theorem dvaBytes_dvaPut_apart {s : State} (hi : Inv s) {cl asid a b n : Nat} {l : Leaf} {bs : List Byte}
    (hl : findLeaf s cl asid (a / 65536) = some l) (h : a % 65536 + bs.length ≤ 65536) (hbs : 0 < bs.length) (hd : l.dirty = true)
    (hp : b / 65536 = a / 65536) (hn : 0 < n) (hb : b % 65536 + n ≤ 65536) (hab : b + n ≤ a ∨ a + bs.length ≤ b) :
    dvaBytes (dvaPut s cl asid a bs) cl asid b n = dvaBytes s cl asid b n := by
  obtain ⟨-, hf, -, ho⟩ := dvaPut_within hi hl hbs h
  rw [dvaBytes_within (by rw [hp]; exact hf) hn hb, dvaBytes_within (by rw [hp]; exact hl) hn hb]
  refine List.map_congr_left fun i hi => ?_
  have : i < n := List.mem_range.mp hi
  exact ho hd _ (by omega) (by omega)

/-- The lanes that are written inside a page read back; once the leaf is dirty, the others read as before. -/
theorem writeLanes_dva {s : State} (hi : Inv s) {cl asid a : Nat} {leaf : Leaf} (hl : findLeaf s cl asid (a / 65536) = some leaf)
    (h : a % 65536 + 64 ≤ 65536) (sz : Size) (v : Vec) {l : List Nat} (hb : ∀ i ∈ l, i < 64 / sz.bytes) (hn : l.Nodup) :
    let t := writeLanes s (.dva cl asid a) sz.bytes v l
    (∀ i ∈ l, dvaBytes t cl asid (a + sz.bytes * i) sz.bytes = natBytes sz.bytes (v.toNat / 2 ^ (8 * sz.bytes * i))) ∧
    (leaf.dirty = true → ∀ i, i < 64 / sz.bytes → i ∉ l → dvaBytes t cl asid (a + sz.bytes * i) sz.bytes =
      dvaBytes s cl asid (a + sz.bytes * i) sz.bytes) := by
  obtain ⟨hp, hf⟩ := lanes_fill sz
  have fits : ∀ i, i < 64 / sz.bytes → sz.bytes * i + sz.bytes ≤ 64 := fun i hi => by
    have := Nat.mul_le_mul_left sz.bytes (show i + 1 ≤ 64 / sz.bytes from hi)
    rw [Nat.mul_succ] at this
    omega
  induction l generalizing s leaf with
  | nil => exact ⟨fun _ h => (List.not_mem_nil h).elim, fun _ _ _ _ => rfl⟩
  | cons j l ih =>
    have hj := fits j (hb j List.mem_cons_self)
    have hpage : (a + sz.bytes * j) / 65536 = a / 65536 := by omega
    have hlen := natBytes_length sz.bytes (v.toNat / 2 ^ (8 * sz.bytes * j))
    have hput := dvaPut_within hi (a := a + sz.bytes * j) (bs := natBytes sz.bytes (v.toNat / 2 ^ (8 * sz.bytes * j)))
      (by rw [hpage]; exact hl) (by omega) (by omega)
    rw [hpage] at hput
    obtain ⟨hinv, hfound, -, -⟩ := hput
    obtain ⟨hin, hout⟩ := ih hinv hfound (fun i hi => hb i (List.mem_cons_of_mem j hi)) (List.nodup_cons.mp hn).2
    have hjl := (List.nodup_cons.mp hn).1
    have hself := dvaBytes_dvaPut hi (a := a + sz.bytes * j) (bs := natBytes sz.bytes (v.toNat / 2 ^ (8 * sz.bytes * j)))
      (by rw [hpage]; exact hl) (by omega) (by omega)
    rw [hlen] at hself
    refine ⟨fun i hm => ?_, fun hd i hi' hm => ?_⟩
    · obtain rfl | hm := List.mem_cons.mp hm
      · exact (hout rfl i (hb i List.mem_cons_self) hjl).trans hself
      · exact hin i hm
    · have hi := fits i hi'
      have hne : i ≠ j := fun e => hm (e ▸ List.mem_cons_self)
      refine (hout rfl i hi' fun h => hm (List.mem_cons_of_mem j h)).trans ?_
      refine dvaBytes_dvaPut_apart ‹_› (by rw [hpage]; exact hl) (by omega) (by omega) hd (by omega) hp (by omega) ?_
      rw [hlen]
      rcases Nat.lt_or_gt_of_ne hne with h | h
      · have := Nat.mul_le_mul_left sz.bytes (show i + 1 ≤ j from h)
        rw [Nat.mul_succ] at this
        omega
      · have := Nat.mul_le_mul_left sz.bytes (show j + 1 ≤ i from h)
        rw [Nat.mul_succ] at this
        omega

/-- The bytes of a lane of a vector. -/
theorem natBytes_part (v : Nat) {n k w : Nat} (h : k + w ≤ n) : ((natBytes n v).drop k).take w = natBytes w (v / 2 ^ (8 * k)) := by
  refine List.ext_getElem (by simp [natBytes_length]; omega) fun i h1 h2 => ?_
  rw [List.getElem_take, List.getElem_drop, getElem_natBytes, getElem_natBytes, Nat.div_div_eq_div_mul, ← Nat.pow_add, Nat.mul_add]

section
variable {s : State} (hi : Inv s) {cl asid a : Nat} {l : Leaf} (hl : findLeaf s cl asid (a / 65536) = some l) (data : Vec) (exp : Word)
include hi hl

theorem performAt_st_dva {sz : Size} (h : a % 65536 + sz.bytes ≤ 65536) :
    ∃ t, performAt s (.dva cl asid a) (.st sz) data exp = some (0, t) ∧ dvaBytes t cl asid a sz.bytes = natBytes sz.bytes data.toNat := by
  refine ⟨_, performAt_st sz, ?_⟩
  have hlen := natBytes_length sz.bytes data.toNat
  have := dvaBytes_dvaPut hi hl (bs := natBytes sz.bytes data.toNat) (by omega) (by have := (lanes_fill sz).1; omega)
  rwa [hlen] at this

theorem performAt_vst_dva (sz : Size) (m : Fin 4) (mask : Word) (h : a % 65536 + 64 ≤ 65536) :
    ∃ t, performAt s (.dva cl asid a) (.vst sz m mask) data exp = some (0, t) ∧ DvaLanesStored t cl asid a sz mask data := by
  refine ⟨_, performAt_vst sz m mask, fun i hi' hm => ?_⟩
  obtain ⟨hp, hf⟩ := lanes_fill sz
  split
  · have hlen := natBytes_length 64 data.toNat
    have hpart : sz.bytes * i + sz.bytes ≤ 64 := by
      have := Nat.mul_le_mul_left sz.bytes (show i + 1 ≤ 64 / sz.bytes from hi')
      rw [Nat.mul_succ] at this
      omega
    have := dvaBytes_dvaPut_part hi hl (bs := natBytes 64 data.toNat) (by omega) hp (off := sz.bytes * i) (by omega)
    rw [natBytes_part _ hpart, ← Nat.mul_assoc] at this
    exact this
  · exact (writeLanes_dva hi hl h sz data (fun j hj => (mem_enabledLanes.mp hj).1) (List.nodup_range.filter _)).1 i
      (mem_enabledLanes.mpr ⟨hi', hm⟩)

theorem performAt_amo_dva (op : AmoOp) {wide : Bool} (d : Dst) (h : a % 65536 + amoBytes wide ≤ 65536)
    (hp : dvaPoisoned s cl asid a (amoBytes wide) = false) :
    let n := amoBytes wide
    let old := bytesNat (dvaBytes s cl asid a n)
    ∃ t, performAt s (.dva cl asid a) (.amo op wide d) data exp = some (BitVec.ofNat 512 old, t) ∧
      bytesNat (dvaBytes t cl asid a n) = amoWrites op n old (data.toNat % 2 ^ (8 * n)) (exp.toNat % 2 ^ (8 * n)) := by
  intro n old
  obtain ⟨t, ht, h'⟩ := performAt_amo (s := s) (h := .dva cl asid a) (data := data) (exp := exp) op d hp
  refine ⟨t, ht, ?_⟩
  obtain rfl | ⟨rfl, hn⟩ := h'
  · have hn0 : 0 < n := by unfold n amoBytes; split <;> decide
    have ho : old < 2 ^ (8 * n) := Nat.lt_of_lt_of_le (bytesNat_lt _)
      (Nat.pow_le_pow_right Nat.two_pos (Nat.mul_le_mul_left 8 (dvaBytes_length_le s cl asid a n)))
    have hlen := natBytes_length n (amoWrites op n old (data.toNat % 2 ^ (8 * n)) (exp.toNat % 2 ^ (8 * n)))
    have hput := dvaBytes_dvaPut hi hl (bs := natBytes n (amoWrites op n old (data.toNat % 2 ^ (8 * n)) (exp.toNat % 2 ^ (8 * n))))
      (by rw [hlen]; exact h) (by rw [hlen]; exact hn0)
    rw [hlen] at hput
    refine (congrArg bytesNat hput).trans ?_
    rw [bytesNat_natBytes, Nat.mod_eq_of_lt (amoWrites_lt op ho (Nat.mod_lt _ (Nat.two_pow_pos _)))]
  · exact hn.symm

end

/-- A vector load through kind 3: its enabled lanes. -/
theorem performAt_vld_dva {s : State} {cl asid a : Nat} {sz : Size} {mask : Word} (d : Fin 16) (data : Vec) (exp : Word)
    (hp : ∀ i, i < 64 / sz.bytes → bit mask i = true → dvaPoisoned s cl asid (a + sz.bytes * i) sz.bytes = false) :
    ∃ v, performAt s (.dva cl asid a) (.vld sz mask d) data exp = some (v, s) ∧ DvaLanesLoaded s cl asid a sz mask v :=
  ⟨_, performAt_vld d hp, readLanes_enabled sz mask fun _ => dvaBytes_length_le ..⟩

end Sys2Proof.Machine

namespace Sys2Proof.Machine
open Sys2Proof

-- What an access meets at its home (05 R101, R103; 13 R243, R244) ---------------------------------------------------------------------------------

/-- An access of a thread is performed, or the rest of it is: what it read and the state that it leaves. -/
structure Performs (s : State) (c : Nat) (k : Fin 16) (x : Access) (v : Vec) (u : State) : Prop where
  reach : reach s c k x = .done v u
  wharf : u.wharf = s.wharf

/-- An access after one of its two lines has been performed. -/
def Access.halved (x : Access) (first : Bool) (v : Vec) (h : Home) : Access := { x with half := some { upper := !first, got := v, home := h } }

/-- The key of a Basin access. -/
def Access.basin (x : Access) : Nat := basinKey x.owner x.addr

section
variable {s : State} {c : Nat} {k : Fin 16} {x : Access}

theorem performs_basin {v : Vec} {u : State} (hk : x.kind = 2) (hh : x.half = none) (hs : x.splits = false)
    (hp : performAt s (.raw x.basin) x.op x.data x.exp = some (v, u)) : Performs s c k x v u := by
  refine ⟨?_, wharf_performAt hp⟩
  unfold Access.basin at hp
  simp only [reach, hh, hk, if_true, Access.reachHome, hs, Bool.false_eq_true, if_false, hp]

theorem reachLine_raw {v : Vec} {u : State} {key : Nat} {upper : Bool}
    (hp : performAt s (.raw key) (x.op.onLine x.addr upper) x.data x.exp = some (v, u)) (got : Option Vec) :
    x.reachLine s (.raw key) upper got = match got with
      | some w => .done (v ||| w) u
      | none => .half (x.halved upper v (.raw key)) u := by
  have hb : piecesBusy s [] = false := rfl
  simp only [Access.reachLine, hb, Bool.false_eq_true, if_false, dvaTouch, hp]
  cases got <;> rfl

theorem reach_basin_half {v : Vec} {u : State} (hk : x.kind = 2) (hh : x.half = none) (hs : x.splits = true)
    (hp : performAt ({ s with fresh := s.fresh + 1 } : State) (.raw x.basin) (x.op.onLine x.addr (Config.upperFirst s.fresh)) x.data x.exp =
      some (v, u)) : reach s c k x = .half (x.halved (Config.upperFirst s.fresh) v (.raw x.basin)) u := by
  simp only [reach, hh, hk, if_true, Access.reachHome, hs]
  exact reachLine_raw hp none

section
variable (hk : x.kind = 2) (hh : x.half = none)
include hk hh

theorem performs_ld_basin {sz : Size} {signed : Bool} {d : Dst} (hop : x.op = .ld sz signed d) (hp : poisoned s x.basin sz.bytes = false) :
    Performs s c k x (BitVec.ofNat 512 (bytesNat (rawRead s x.basin sz.bytes))) s :=
  performs_basin hk hh (by rw [Access.splits, hop]) (by rw [hop]; exact performAt_ld (h := .raw x.basin) signed d hp)

theorem performs_vld_basin (hs : x.splits = false) {sz : Size} {mask : Word} {d : Fin 16} (hop : x.op = .vld sz mask d)
    (hp : ∀ i, i < 64 / sz.bytes → bit mask i = true → poisoned s (x.basin + sz.bytes * i) sz.bytes = false) :
    ∃ v, Performs s c k x v s ∧ LanesLoaded s x.basin sz mask v := by
  obtain ⟨v, hv, hl⟩ := performAt_vld_raw d x.data x.exp hp
  exact ⟨v, performs_basin hk hh hs (by rw [hop]; exact hv), hl⟩

theorem reach_vld_basin_half (hs : x.splits = true) {sz : Size} {mask : Word} {d : Fin 16}
    (hop : x.op.onLine x.addr (Config.upperFirst s.fresh) = .vld sz mask d)
    (hp : ∀ i, i < 64 / sz.bytes → bit mask i = true → poisoned s (x.basin + sz.bytes * i) sz.bytes = false) :
    ∃ v u, reach s c k x = .half (x.halved (Config.upperFirst s.fresh) v (.raw x.basin)) u ∧ u.mem = s.mem ∧
      LanesLoaded s x.basin sz mask v := by
  obtain ⟨v, hv, hl⟩ := performAt_vld_raw (s := { s with fresh := s.fresh + 1 }) d x.data x.exp hp
  exact ⟨v, { s with fresh := s.fresh + 1 }, reach_basin_half hk hh hs (by rw [hop]; exact hv), rfl, hl⟩

theorem reach_basin_poisoned {sz : Size} {signed : Bool} {d : Dst} (hop : x.op = .ld sz signed d) (hp : poisoned s x.basin sz.bytes = true) :
    reach s c k x = .poison := by
  have hn : performAt s (.raw (basinKey x.owner x.addr)) x.op x.data x.exp = none := by
    rw [hop]; exact performAt_ld_poisoned (h := .raw x.basin) signed d hp
  have hs : x.splits = false := by rw [Access.splits, hop]
  simp only [reach, hh, hk, if_true, Access.reachHome, hs, Bool.false_eq_true, if_false, hn]

variable (hi : Inv s)
include hi

theorem performs_st_basin {sz : Size} (hop : x.op = .st sz) : ∃ u, Performs s c k x 0 u ∧ MemoryKeepsOutside s u x.basin sz.bytes ∧
    bytesNat (rawRead u x.basin sz.bytes) = x.data.toNat % 2 ^ (8 * sz.bytes) := by
  obtain ⟨u, hu, hb, ho⟩ := performAt_st_raw hi x.basin sz x.data x.exp
  exact ⟨u, performs_basin hk hh (by rw [Access.splits, hop]) (by rw [hop]; exact hu), ho, hb⟩

theorem performs_vst_basin (hs : x.splits = false) {sz : Size} {m : Fin 4} {mask : Word} (hop : x.op = .vst sz m mask) :
    ∃ u, Performs s c k x 0 u ∧ LanesStored s u x.basin sz mask x.data := by
  obtain ⟨u, hu, hl⟩ := performAt_vst_raw hi x.basin sz m mask x.data x.exp
  exact ⟨u, performs_basin hk hh hs (by rw [hop]; exact hu), hl⟩

theorem reach_vst_basin_half (hs : x.splits = true) {sz : Size} {m : Fin 4} {mask : Word}
    (hop : x.op.onLine x.addr (Config.upperFirst s.fresh) = .vst sz m mask) :
    ∃ u, reach s c k x = .half (x.halved (Config.upperFirst s.fresh) 0 (.raw x.basin)) u ∧ LanesStored s u x.basin sz mask x.data := by
  obtain ⟨u, hu, hl⟩ := performAt_vst_raw (s := { s with fresh := s.fresh + 1 }) hi x.basin sz m mask x.data x.exp
  exact ⟨u, reach_basin_half hk hh hs (by rw [hop]; exact hu), hl⟩

theorem performs_amo_basin {op : AmoOp} {wide : Bool} {d : Dst} (hop : x.op = .amo op wide d) (hp : poisoned s x.basin (amoBytes wide) = false) :
    let n := amoBytes wide
    let old := bytesNat (rawRead s x.basin n)
    ∃ u, Performs s c k x (BitVec.ofNat 512 old) u ∧ MemoryKeepsOutside s u x.basin n ∧
      bytesNat (rawRead u x.basin n) = amoWrites op n old (x.data.toNat % 2 ^ (8 * n)) (x.exp.toNat % 2 ^ (8 * n)) := by
  obtain ⟨u, hu, hb, ho⟩ := performAt_amo_raw hi op d x.data x.exp hp
  exact ⟨u, performs_basin hk hh (by rw [Access.splits, hop]) (by rw [hop]; exact hu), ho, hb⟩

theorem performs_bop_basin {op : BopOp} {mask : Word} (hop : x.op = .bop op mask) (hp : poisoned s x.basin 64 = false) :
    ∃ u, Performs s c k x 0 u ∧ MemoryKeepsOutside s u x.basin 64 ∧ ∀ i, i < 16 →
      let old : W32 := BitVec.ofNat 32 (bytesNat (rawRead s (x.basin + 4 * i) 4))
      BitVec.ofNat 32 (bytesNat (rawRead u (x.basin + 4 * i) 4)) = if bit mask i then bopLane op old (lane 32 x.data i) else old := by
  obtain ⟨u, hu, ho, hl⟩ := performAt_bop_raw hi op mask x.data x.exp hp
  exact ⟨u, performs_basin hk hh (by rw [Access.splits, hop]) (by rw [hop]; exact hu), ho, hl⟩

end

/-- The second line of an access through kind 2. -/
theorem performs_rest {v : Vec} {u : State} {key : Nat} {h : HalfDone} (hh : x.half = some h) (hr : h.home = .raw key)
    (hp : performAt s (.raw key) (x.op.onLine x.addr h.upper) x.data x.exp = some (v, u)) : Performs s c k x (v ||| h.got) u := by
  refine ⟨?_, wharf_performAt hp⟩
  simp only [reach, hh, hr]
  exact reachLine_raw hp (some h.got)

theorem onLine_vld {op : MemOp} {a : Nat} {upper : Bool} {sz : Size} {mask : Word} {d : Fin 16} (h : op.onLine a upper = .vld sz mask d) :
    ∃ m, op = .vld sz m d := by
  cases op <;> cases h
  exact ⟨_, rfl⟩

theorem onLine_vst {op : MemOp} {a : Nat} {upper : Bool} {sz : Size} {m : Fin 4} {mask : Word} (h : op.onLine a upper = .vst sz m mask) :
    ∃ w, op = .vst sz m w := by
  cases op <;> cases h
  exact ⟨_, rfl⟩

theorem CachesOnly.inv {t : State} (h : CachesOnly s t) (hi : Inv s) : Inv t := by unfold Inv; rw [h.mem]; exact hi

/-- The pages of an access are all cached, with the right that it needs. -/
theorem findLeaf_of_firstBad {cl asid access : Nat} {l : List Nat} (h : firstBad s cl asid access l = none) {p : Nat} (hp : p ∈ l) :
    ∃ leaf, findLeaf s cl asid p = some leaf := by
  induction l with
  | nil => cases hp
  | cons q l ih =>
    rw [firstBad, look] at h
    cases hl : findLeaf s cl asid q with
    | none => simp only [hl] at h; cases h
    | some leaf =>
      by_cases hr : leafRights access &&& ~~~(fld leaf.leaf 2 3) ≠ 0
      · simp only [hl, if_pos hr] at h; cases h
      · simp only [hl, if_neg hr] at h
        exact (List.mem_cons.mp hp).elim (fun e => ⟨leaf, e ▸ hl⟩) (ih h)

/-- An access through kind 3 whose pages are translated and whose lines are not being flushed. -/
structure Access.Clear (x : Access) (s : State) (c : Nat) (k : Fin 16) : Prop where
  kind : x.kind = 3
  half : x.half = none
  pages : firstBad s (clusterOf c) (asidOf s (s.thread c k) k) x.op.code x.pages = none

theorem Access.Clear.reach (h : x.Clear s c k) : reach s c k x =
    if x.busy s (clusterOf c) (asidOf s (s.thread c k) k) then .waits
    else x.reachHome s (.dva (clusterOf c) (asidOf s (s.thread c k) k) x.addr) := by
  simp [Machine.reach, h.half, h.kind, h.pages]

/-- The page of an access that lies in one and touches it is cached. -/
theorem Access.Clear.leaf (h : x.Clear s c k) {n : Nat} (hn : 0 < n) (hw : x.addr % 65536 + n ≤ 65536) (hspan : x.op.span = n)
    (ht : x.touches (x.addr / 65536 * 65536) ((x.addr / 65536 + 1) * 65536) = true) :
    ∃ leaf, findLeaf s (clusterOf c) (asidOf s (s.thread c k) k) (x.addr / 65536) = some leaf := by
  refine findLeaf_of_firstBad h.pages ?_
  rw [Access.pages, hspan, pagesOf_within hn hw]
  exact List.mem_filter.mpr ⟨List.mem_singleton.mpr rfl, ht⟩

theorem cachesOnly_touch (x : Access) (s : State) (cl asid : Nat) : CachesOnly s (x.touch s cl asid) := cachesOnly_dvaTouch ..

section
variable (h : x.Clear s c k) (hb : x.busy s (clusterOf c) (asidOf s (s.thread c k) k) = false)
include h hb

theorem performs_dva {v : Vec} {u : State} (hs : x.splits = false)
    (hp : performAt (x.touch s (clusterOf c) (asidOf s (s.thread c k) k)) (.dva (clusterOf c) (asidOf s (s.thread c k) k) x.addr) x.op x.data x.exp =
      some (v, u)) : Performs s c k x v u := by
  refine ⟨?_, (wharf_performAt hp).trans (cachesOnly_touch ..).wharf⟩
  simp only [h.reach, hb, Bool.false_eq_true, if_false, Access.reachHome, hs, hp]

theorem performs_ld_dva {sz : Size} {signed : Bool} {d : Dst} (hop : x.op = .ld sz signed d)
    (hp : dvaPoisoned s (clusterOf c) (asidOf s (s.thread c k) k) x.addr sz.bytes = false) :
    ∃ u, Performs s c k x (BitVec.ofNat 512 (bytesNat (dvaBytes s (clusterOf c) (asidOf s (s.thread c k) k) x.addr sz.bytes))) u ∧
      u.mem = s.mem := by
  have ht := cachesOnly_touch x s (clusterOf c) (asidOf s (s.thread c k) k)
  refine ⟨_, performs_dva h hb (by rw [Access.splits, hop]) ?_, ht.mem⟩
  rw [hop, ← ht.dvaBytes]
  exact performAt_ld signed d ((ht.dvaPoisoned ..).trans hp)

theorem performs_vld_dva (hs : x.splits = false) {sz : Size} {mask : Word} {d : Fin 16} (hop : x.op = .vld sz mask d)
    (hp : ∀ i, i < 64 / sz.bytes → bit mask i = true →
      dvaPoisoned s (clusterOf c) (asidOf s (s.thread c k) k) (x.addr + sz.bytes * i) sz.bytes = false) :
    ∃ v u, Performs s c k x v u ∧ u.mem = s.mem ∧ DvaLanesLoaded s (clusterOf c) (asidOf s (s.thread c k) k) x.addr sz mask v := by
  have ht := cachesOnly_touch x s (clusterOf c) (asidOf s (s.thread c k) k)
  obtain ⟨v, hv, hl⟩ := performAt_vld_dva d x.data x.exp fun i hi hm => (ht.dvaPoisoned ..).trans (hp i hi hm)
  refine ⟨v, _, performs_dva h hb hs (by rw [hop]; exact hv), ht.mem, fun i hi => ?_⟩
  rw [← ht.dvaBytes]
  exact hl i hi

variable (hi : Inv s)
include hi

theorem performs_st_dva {sz : Size} (hop : x.op = .st sz) (hw : x.addr % 65536 + sz.bytes ≤ 65536) :
    ∃ u, Performs s c k x 0 u ∧ dvaBytes u (clusterOf c) (asidOf s (s.thread c k) k) x.addr sz.bytes = natBytes sz.bytes x.data.toNat := by
  have ht := cachesOnly_touch x s (clusterOf c) (asidOf s (s.thread c k) k)
  obtain ⟨leaf, hl⟩ := h.leaf (lanes_fill sz).1 hw (by rw [hop]; rfl) (by rw [Access.touches, hop])
  obtain ⟨u, hu, he⟩ := performAt_st_dva (ht.inv hi) ((ht.findLeaf ..).trans hl) x.data x.exp hw
  exact ⟨u, performs_dva h hb (by rw [Access.splits, hop]) (by rw [hop]; exact hu), he⟩

theorem performs_amo_dva {op : AmoOp} {wide : Bool} {d : Dst} (hop : x.op = .amo op wide d) (hw : x.addr % 65536 + amoBytes wide ≤ 65536)
    (hp : dvaPoisoned s (clusterOf c) (asidOf s (s.thread c k) k) x.addr (amoBytes wide) = false) :
    let n := amoBytes wide
    let old := bytesNat (dvaBytes s (clusterOf c) (asidOf s (s.thread c k) k) x.addr n)
    ∃ u, Performs s c k x (BitVec.ofNat 512 old) u ∧ bytesNat (dvaBytes u (clusterOf c) (asidOf s (s.thread c k) k) x.addr n) =
      amoWrites op n old (x.data.toNat % 2 ^ (8 * n)) (x.exp.toNat % 2 ^ (8 * n)) := by
  have ht := cachesOnly_touch x s (clusterOf c) (asidOf s (s.thread c k) k)
  obtain ⟨leaf, hl⟩ := h.leaf (n := amoBytes wide) (by cases wide <;> decide) hw (by rw [hop]; cases wide <;> rfl) (by rw [Access.touches, hop])
  obtain ⟨u, hu, he⟩ := performAt_amo_dva (ht.inv hi) ((ht.findLeaf ..).trans hl) x.data x.exp op d hw ((ht.dvaPoisoned ..).trans hp)
  rw [ht.dvaBytes] at hu he
  exact ⟨u, performs_dva h hb (by rw [Access.splits, hop]) (by rw [hop]; exact hu), he⟩

theorem performs_vst_dva (hs : x.splits = false) {sz : Size} {m : Fin 4} {mask : Word}
    (hop : x.op = .vst sz m mask) (hw : x.addr % 65536 + 64 ≤ 65536) :
    ∃ u, Performs s c k x 0 u ∧ DvaLanesStored u (clusterOf c) (asidOf s (s.thread c k) k) x.addr sz mask x.data := by
  have ht := cachesOnly_touch x s (clusterOf c) (asidOf s (s.thread c k) k)
  by_cases hm : ∃ i, i < 64 / sz.bytes ∧ bit mask i = true
  · obtain ⟨i, hlane, hm⟩ := hm
    obtain ⟨hp, hf⟩ := lanes_fill sz
    have hfit := Nat.mul_le_mul_left sz.bytes (show i + 1 ≤ 64 / sz.bytes from hlane)
    rw [Nat.mul_succ] at hfit
    obtain ⟨leaf, hl⟩ := h.leaf (n := 64) (by decide) hw (by rw [hop]; rfl) (by
      simp only [Access.touches, hop]
      exact List.any_eq_true.mpr ⟨i, mem_enabledLanes.mpr ⟨hlane, hm⟩, by simp only [decide_eq_true_eq]; omega⟩)
    obtain ⟨u, hu, he⟩ := performAt_vst_dva (ht.inv hi) ((ht.findLeaf ..).trans hl) x.data x.exp sz m mask hw
    exact ⟨u, performs_dva h hb hs (by rw [hop]; exact hu), he⟩
  · exact ⟨_, performs_dva h hb hs (by rw [hop]; exact performAt_vst sz m mask), fun i hi hb => absurd ⟨i, hi, hb⟩ hm⟩

end

end

end Sys2Proof.Machine

namespace Sys2Proof.Machine
open Sys2Proof

section
variable {s : State} {c : Nat} {k : Fin 16} {x : Access}

/-- One line of a vector load from pieces that hold no poison, on dies whose caches are not being flushed. -/
theorem reachLine_held_vld {ps : List (Leaf × Nat × Nat)} {upper : Bool} {sz : Size} {mask : Word} {d : Fin 16} (hop : x.op = .vld sz mask d)
    (hb : ∀ d, (s.die d).busy = false) (hp : ∀ off n, homePoisoned s (.held ps) off n = false) :
    ∃ v u, x.reachLine s (.held ps) upper none = .half (x.halved upper v (.held ps)) u ∧ u.mem = s.mem := by
  have ht := cachesOnly_dvaTouch s (linePieces ps x.addr upper)
  have clean : ∀ off n, homePoisoned (dvaTouch s (linePieces ps x.addr upper)) (.held ps) off n = false := fun off n => by
    obtain ⟨⟨dies, hd⟩, -⟩ := ht
    rw [hd]
    exact hp off n
  obtain ⟨m, hm⟩ : ∃ m, x.op.onLine x.addr upper = .vld sz m d := by rw [hop]; exact ⟨_, rfl⟩
  have hv := performAt_vld (data := x.data) (exp := x.exp) (mask := m) d fun i _ _ => clean (sz.bytes * i) sz.bytes
  refine ⟨readLanes (dvaTouch s (linePieces ps x.addr upper)) (.held ps) sz.bytes (enabledLanes m sz.bytes), _, ?_, ht.mem⟩
  simp only [Access.reachLine, not_piecesBusy hb, Bool.false_eq_true, if_false, hm, hv]
  rfl

/-- A vector load through kind 3 of two lines: the line that goes first is read from the pieces that its pages gave (log entry 6). -/
theorem reach_dva_half (h : x.Clear s c k) (hs : x.splits = true) {sz : Size} {mask : Word} {d : Fin 16} (hop : x.op = .vld sz mask d)
    (hp : dvaPoisoned s (clusterOf c) (asidOf s (s.thread c k) k) x.addr 64 = false) (hb : ∀ d, (s.die d).busy = false) :
    ∃ v u, reach s c k x = .half (x.halved (Config.upperFirst s.fresh) v
      (.held (pieces s (clusterOf c) (asidOf s (s.thread c k) k) x.addr 64))) u ∧ u.mem = s.mem := by
  have hbusy : x.busy s (clusterOf c) (asidOf s (s.thread c k) k) = false :=
    List.any_eq_false.mpr fun l _ => by rw [dvaBusy, not_piecesBusy hb]; exact Bool.false_ne_true
  have hspan : x.op.span = 64 := by rw [hop]; rfl
  have hcode : x.op.code = 0 := by rw [hop]; rfl
  obtain ⟨v, u, hu, hm⟩ := reachLine_held_vld (s := { s with fresh := s.fresh + 1 }) (upper := Config.upperFirst s.fresh) hop hb
    (held_not_poisoned (s := { s with fresh := s.fresh + 1 }) hp)
  refine ⟨v, u, ?_, hm⟩
  simp only [h.reach, hbusy, Bool.false_eq_true, if_false, Access.reachHome, hs, if_true, hspan, hcode]
  exact hu

theorem reach_of_fault {p code : Nat} (hk : x.kind = 3) (hh : x.half = none)
    (h : firstBad s (clusterOf c) (asidOf s (s.thread c k) k) x.op.code x.pages = some (p, some code)) :
    reach s c k x = .faults code (max x.addr (p * 65536)) := by
  simp [reach, hk, hh, h, pageBytes]

theorem reach_of_miss {p : Nat} (hk : x.kind = 3) (hh : x.half = none)
    (h : firstBad s (clusterOf c) (asidOf s (s.thread c k) k) x.op.code x.pages = some (p, none)) : reach s c k x = .waits := by
  simp [reach, hk, hh, h]

-- The reply of an ordinary access (05 R101) -----------------------------------------------------------------------------------------------------

@[simp] theorem Thread.landed_st (t : Thread) (op : MemOp) (v : Vec) : (t.landed op v).st = t.st := by
  cases op with
  | ld sz sg d | amo q wide d => exact Thread.putReg_st ..
  | _ => rfl

theorem sameDue_landed (t : Thread) (op : MemOp) (v : Vec) : SameDue t (t.landed op v) := by
  cases op with
  | ld sz sg d | amo q wide d => exact sameDue_putReg ..
  | _ => exact ⟨rfl, rfl, rfl, rfl⟩

theorem State.setMe_as {u : State} {t : Thread} (h : CoresKept (s.as c k) u) : u.setMe t = u.setThread c k t := by
  rw [State.setMe, h.core, h.slot]; rfl

/-- An access lands, and nothing is due at the boundary of its thread that follows. -/
theorem State.land_settles {w : State} (hk : CoresKept (s.as c k) w) (hw : w.wharf = s.wharf) (hc : Calm s c k) {op : MemOp} (hd : op.plain = true)
    (v : Vec) (pc : Word) : ((w.setMe (s.thread c k).run).land op v (some pc)).settleDone =
      w.setThread c k (((s.thread c k).run.landed op v).performed pc) := by
  have hdue : SameDue (s.thread c k) (((s.thread c k).run.landed op v).performed pc) := SameDue.trans (u := (s.thread c k).run.landed op v)
    (SameDue.trans (u := (s.thread c k).run) ⟨rfl, rfl, rfl, rfl⟩ (sameDue_landed _ _ _)) (sameDue_performed _ _)
  rw [State.land_plain hd, State.setMe_me, State.setMe_setMe, State.setMe_as hk]
  refine Eq.trans ?_ (State.settleThread_of_calm hc hdue (congrArg Wharf.launches hw) ((Thread.performed_st _ _).trans (Thread.landed_st _ _ _)))
  exact congr (congrArg _ hk.core) hk.slot

/-- The reply performs the access, and its thread is Runnable behind it. -/
theorem memoryReply_performed (hst : (s.thread c k).st = .removed (.mem x)) (hc : Calm s c k) {op : MemOp} (hop : x.op = op) (hd : op.plain = true)
    {v : Vec} {u : State} (h : Performs (s.as c k) c k x v u) : exec (.memoryReply c k) s =
      .next (({ u with iword := x.iword } : State).setThread c k (((s.thread c k).run.landed op v).performed (x.pc + BitVec.ofNat 64 x.len))) := by
  have hk : CoresKept (s.as c k) u := by have := coresKept_reach (s.as c k) c k x; rwa [h.reach] at this
  have hw : CoresKept (s.as c k) ({ u with iword := x.iword } : State) := ⟨hk.cores, hk.coreInit, hk.core, hk.slot⟩
  subst hop
  rw [← State.land_settles hw h.wharf hc hd]
  show execMemoryReply c k s = _
  simp only [execMemoryReply, me_as, hst, h.reach]
  rw [hw.me]
  rfl

/-- The reply performs one of two lines, and the thread stays Removed. -/
theorem memoryReply_half (hst : (s.thread c k).st = .removed (.mem x)) {y : Access} {u : State} (h : reach (s.as c k) c k x = .half y u) :
    exec (.memoryReply c k) s = .next (u.setThread c k { s.thread c k with st := .removed (.mem y) }) := by
  have hk : CoresKept (s.as c k) u := by have := coresKept_reach (s.as c k) c k x; rwa [h] at this
  show execMemoryReply c k s = _
  simp only [execMemoryReply, me_as, hst, h]
  rw [hk.me, State.setMe_as hk]
  rfl

theorem memoryReply_waits (hst : (s.thread c k).st = .removed (.mem x)) (h : reach (s.as c k) c k x = .waits) :
    exec (.memoryReply c k) s = .next s := by
  show execMemoryReply c k s = _
  simp only [execMemoryReply, me_as, hst, h]

theorem memoryReply_poison (hst : (s.thread c k).st = .removed (.mem x)) (h : reach (s.as c k) c k x = .poison) :
    ∃ t, exec (.memoryReply c k) s = .next t ∧ TrapTaken s t c k 0x0A x.iword x.pc (BitVec.ofNat 64 x.addr) 0 := by
  have e : exec (.memoryReply c k) s = .next ((s.as c k).poisonTrap c k x) := by
    show execMemoryReply c k s = _
    simp only [execMemoryReply, me_as, hst, h]
  refine ⟨_, e, ?_⟩
  have ha := (aloof_fire (s.as c k) 65).apart c k
  have := trapTaken_trapThread (fire (s.as c k) 65) c k 0x0A x.iword x.pc (BitVec.ofNat 64 x.addr) 0
  unfold TrapTaken at this ⊢
  rw [ha.thread, ha.coreAddress] at this
  exact this

/-- A translation that faults parks the thread and posts a fault record; in slot 1 it traps (13 R232, R243). -/
theorem memoryReply_faults (hst : (s.thread c k).st = .removed (.mem x)) {code dva : Nat} (h : reach (s.as c k) c k x = .faults code dva) :
    ∃ t, exec (.memoryReply c k) s = .next t ∧
      (k.val ≠ 1 → OnItsWay t (senderCtu (clusterOf c)) (threadFault s c k code x.op.code dva) ∧
        t.thread c k = { s.thread c k with st := .parked { fault := some (code, dva), acc := some (false, x) } }) ∧
      (k.val = 1 → TrapTaken s t c k 0x0E x.iword x.pc (BitVec.ofNat 64 dva) 0) := by
  have e : exec (.memoryReply c k) s = .next ((s.as c k).faultThread c k code x.op.code dva (some (false, x)) 0) := by
    show execMemoryReply c k s = _
    simp only [execMemoryReply, me_as, hst, h]
  refine ⟨_, e, fun hk => ?_, fun hk => ?_⟩
  · rw [State.faultThread, if_neg hk]
    exact ⟨post_onItsWay _ _ _, by rw [postFault, State.thread_post, State.thread_setThread_self]; rfl⟩
  · rw [State.faultThread, if_pos hk]
    exact trapTaken_trapThread (s.as c k) c k 0x0E x.iword x.pc (BitVec.ofNat 64 dva) 0

end

end Sys2Proof.Machine

namespace Sys2Proof.Machine
open Sys2Proof

-- The replies of accesses through kinds 2 and 3 (05 R99-R105; 13 R232, R243, R244) -------------------------------------------------------------

theorem dvaBytes_setThread (u : State) (w : W32) (c : Nat) (k : Fin 16) (t : Thread) (cl asid a n : Nat) :
    dvaBytes (({ u with iword := w } : State).setThread c k t) cl asid a n = dvaBytes u cl asid a n := by
  simp only [dvaBytes, piecesBytes, physRead_eq_map]
  rfl

theorem dvaBytes_as (s : State) (c : Nat) (k : Fin 16) (cl asid a n : Nat) : dvaBytes (s.as c k) cl asid a n = dvaBytes s cl asid a n := by
  simp only [dvaBytes, piecesBytes, physRead_eq_map]
  rfl

theorem dvaLanesLoaded_as {s : State} {c : Nat} {k : Fin 16} {cl asid a : Nat} {sz : Size} {mask : Word} {v : Vec}
    (h : DvaLanesLoaded (s.as c k) cl asid a sz mask v) : DvaLanesLoaded s cl asid a sz mask v := fun i hi => by
  rw [h i hi, dvaBytes_as]

theorem firstBad_as (s : State) (c : Nat) (k : Fin 16) (cl asid access : Nat) (l : List Nat) :
    firstBad (s.as c k) cl asid access l = firstBad s cl asid access l := by
  induction l with
  | nil => rfl
  | cons p l ih => rw [firstBad, ih]; rfl

theorem memoryReplies : Claims.MemoryReplies := by
  intro s c k x hst half T pc key cl asid pages
  refine ⟨fun hk hh hc => ⟨?_, ?_, ?_, ?_, ?_, ?_, ?_, ?_, ?_⟩, fun h hh hr hc => ⟨?_, ?_⟩, fun hk hh hb hbusy hs hc => ?_, ?_, ?_, ?_, ?_⟩
  · intro sz signed d hop hd hp v
    have ht := memoryReply_performed hst hc hop hd (performs_ld_basin (s := s.as c k) hk hh hop hp)
    refine ⟨_, ht, fun _ => rfl, ?_⟩
    rw [State.thread_setThread_self, Thread.landed, loaded_eq]
    rfl
  · intro sz hop hi
    obtain ⟨u, hu, ho, hb⟩ := performs_st_basin (s := s.as c k) hk hh hi hop
    exact ⟨_, memoryReply_performed hst hc hop rfl hu, ho, hb, State.thread_setThread_self ..⟩
  · intro sz mask d hop hs hp
    obtain ⟨v, hv, hl⟩ := performs_vld_basin (s := s.as c k) hk hh hs hop hp
    have ht := memoryReply_performed hst hc hop rfl hv
    exact ⟨_, v, ht, fun _ => rfl, State.thread_setThread_self .., hl⟩
  · intro sz m mask hop hs hi
    obtain ⟨u, hu, hl⟩ := performs_vst_basin (s := s.as c k) hk hh hi hs hop
    exact ⟨_, memoryReply_performed hst hc hop rfl hu, State.thread_setThread_self .., hl⟩
  · intro sz mask d hs hop hp
    obtain ⟨v, u, hu, hm, hl⟩ := reach_vld_basin_half (s := s.as c k) hk hh hs hop hp
    exact ⟨_, v, memoryReply_half hst hu, fun a => congrArg (Memory.get · a) hm, hl, State.thread_setThread_self ..⟩
  · intro sz m mask hs hop hi
    obtain ⟨u, hu, hl⟩ := reach_vst_basin_half (s := s.as c k) hk hh hi hs hop
    exact ⟨_, memoryReply_half hst hu, hl, State.thread_setThread_self ..⟩
  · intro op wide d hop hi hd n old hp
    obtain ⟨u, hu, ho, hb⟩ := performs_amo_basin (s := s.as c k) hk hh hi hop hp
    refine ⟨_, memoryReply_performed hst hc hop hd hu, ho, hb, ?_⟩
    rw [State.thread_setThread_self, Thread.landed, amo_answer]
    rfl
  · intro op mask hop hi hp
    obtain ⟨u, hu, ho, hl⟩ := performs_bop_basin (s := s.as c k) hk hh hi hop hp
    exact ⟨_, memoryReply_performed hst hc hop rfl hu, ho, State.thread_setThread_self .., hl⟩
  · intro sz signed d hop hp
    exact memoryReply_poison hst (reach_basin_poisoned (s := s.as c k) hk hh hop hp)
  · intro sz mask d hop hp
    obtain ⟨v, hv, hl⟩ := performAt_vld_raw (s := s.as c k) d x.data x.exp hp
    rw [← hop] at hv
    obtain ⟨m, hm⟩ := onLine_vld hop
    exact ⟨_, v, memoryReply_performed hst hc hm rfl (performs_rest hh hr hv), fun _ => rfl, hl,
      State.thread_setThread_self ..⟩
  · intro sz m mask hop hi
    obtain ⟨u, hu, hl⟩ := performAt_vst_raw (s := s.as c k) hi key sz m mask x.data x.exp
    rw [← hop] at hu
    obtain ⟨w, hw⟩ := onLine_vst hop
    exact ⟨_, memoryReply_performed hst hc hw rfl (performs_rest hh hr hu), hl, State.thread_setThread_self ..⟩
  · have h : x.Clear (s.as c k) c k := ⟨hk, hh, (firstBad_as ..).trans hb⟩
    refine ⟨?_, ?_, ?_, ?_, ?_⟩
    · intro sz signed d hop hd hp v
      obtain ⟨u, hu, hm⟩ := performs_ld_dva h hbusy hop hp
      rw [dvaBytes_as] at hu
      refine ⟨_, memoryReply_performed hst hc hop hd hu, fun a => congrArg (Memory.get · a) hm, ?_⟩
      rw [State.thread_setThread_self, Thread.landed, loaded_eq]
      rfl
    · intro sz hop hw hi
      obtain ⟨u, hu, he⟩ := performs_st_dva h hbusy hi hop hw
      exact ⟨_, memoryReply_performed hst hc hop rfl hu, (dvaBytes_setThread ..).trans he, State.thread_setThread_self ..⟩
    · intro sz mask d hop hp
      obtain ⟨v, u, hu, hm, hl⟩ := performs_vld_dva h hbusy hs hop hp
      exact ⟨_, v, memoryReply_performed hst hc hop rfl hu, fun a => congrArg (Memory.get · a) hm, State.thread_setThread_self ..,
        dvaLanesLoaded_as hl⟩
    · intro sz m mask hop hw hi
      obtain ⟨u, hu, hl⟩ := performs_vst_dva h hbusy hi hs hop hw
      exact ⟨_, memoryReply_performed hst hc hop rfl hu, State.thread_setThread_self .., fun i hi hm => (dvaBytes_setThread ..).trans (hl i hi hm)⟩
    · intro op wide d hop hd hi n old hw hp
      obtain ⟨u, hu, he⟩ := performs_amo_dva h hbusy hi hop hw hp
      rw [dvaBytes_as] at hu he
      refine ⟨_, memoryReply_performed hst hc hop hd hu, (congrArg bytesNat (dvaBytes_setThread ..)).trans he, ?_⟩
      rw [State.thread_setThread_self, Thread.landed, amo_answer]
      rfl
  · rintro hk hh hb hs ⟨sz, mask, d, hop⟩ hp hfree
    obtain ⟨v, u, hu, hm⟩ := reach_dva_half (s := s.as c k) ⟨hk, hh, (firstBad_as ..).trans hb⟩ hs hop hp hfree
    exact ⟨_, v, memoryReply_half hst hu, fun a => congrArg (Memory.get · a) hm, State.thread_setThread_self ..⟩
  · intro hk hh hb hbusy
    exact memoryReply_waits hst ((Access.Clear.reach (s := s.as c k) ⟨hk, hh, (firstBad_as ..).trans hb⟩).trans (if_pos hbusy))
  · intro p code hk hh hb
    exact memoryReply_faults hst (reach_of_fault hk hh ((firstBad_as ..).trans hb))
  · intro p hk hh hb
    exact memoryReply_waits hst (reach_of_miss hk hh ((firstBad_as ..).trans hb))

/-- Settles O16: how an access starts through each kind, and what its reply does where its home is reached. -/
theorem distantAccesses : Obligations.DistantAccesses := ⟨distantStarts, memoryReplies⟩

end Sys2Proof.Machine

namespace Sys2Proof.Machine
open Sys2Proof

-- Order among relaxed accesses (05 R102) ----------------------------------------------------------------------------------------------------

theorem dropAt_eq_eraseIdx {α : Type} (l : List α) (n : Nat) : dropAt l n = l.eraseIdx n := by
  induction l generalizing n with
  | nil => rfl
  | cons x l ih =>
    cases n with
    | zero => rfl
    | succ n => exact congrArg (x :: ·) (ih n)

/-- Two accesses overlap in a byte that both touch. -/
theorem overlaps_iff {x y : Access} :
    overlaps x y = true ↔ x.kind = y.kind ∧ x.owner = y.owner ∧ ∃ a, x.covers a = true ∧ y.covers a = true := by
  simp only [overlaps, Bool.and_eq_true, beq_iff_eq, List.any_eq_true, List.mem_range, and_assoc]
  refine and_congr_right fun _ => and_congr_right fun _ => ⟨fun ⟨i, _, h⟩ => ⟨_, h⟩, fun ⟨a, h⟩ => ?_⟩
  have ha : x.addr ≤ a ∧ a < x.addr + x.op.span := of_decide_eq_true (Bool.and_eq_true_iff.mp h.1).1
  obtain ⟨i, rfl⟩ := Nat.exists_eq_add_of_le ha.1
  exact ⟨i, by omega, h⟩

/-- An access waits behind an earlier one that it overlaps. -/
theorem waitsBehind_iff {l : List Relaxed} {n : Nat} {x : Access} :
    waitsBehind l n x = true ↔ ∃ m r, m < n ∧ l[m]? = some r ∧ overlaps r.acc x = true := by
  simp only [waitsBehind, List.any_eq_true, List.mem_iff_getElem?, List.getElem?_take]
  constructor
  · rintro ⟨r, ⟨m, hm⟩, ho⟩
    split at hm
    · next h => exact ⟨m, r, h, hm, ho⟩
    · cases hm
  · rintro ⟨m, r, h, hm, ho⟩
    exact ⟨r, ⟨m, by rw [if_pos h, hm]⟩, ho⟩

-- The completion of a relaxed access (05 R102, R103) -----------------------------------------------------------------------------------------------

/-- A relaxed access that may complete: it has not failed, it goes through kind 2 or 3, no earlier one overlaps it, and no kfence waits. -/
structure Relaxed.Due (r : Relaxed) (s : State) (c : Nat) (k : Fin 16) (n : Nat) : Prop where
  place : (s.thread c k).relaxed[n]? = some r
  found : r.found = none
  poison : r.poison = false
  status : r.status = none
  kind : r.acc.kind ≠ 1
  first : waitsBehind (s.thread c k).relaxed n r.acc = false
  fence : (s.thread c 0).st ≠ .removed .kfence

section
variable {s : State} {c : Nat} {k : Fin 16} {n : Nat} {r : Relaxed}

theorem Relaxed.due_of {kind : Nat} (hr : (s.thread c k).relaxed[n]? = some r) (hf : r.found = none) (hp : r.poison = false)
    (hs : r.status = none) (hk : r.acc.kind = kind) (h1 : kind ≠ 1) (hq : (s.thread c 0).st ≠ .removed .kfence)
    (ho : ∀ m x a, m < n → (s.thread c k).relaxed[m]? = some x → ¬ (x.acc.kind = kind ∧ x.acc.owner = r.acc.owner ∧
      x.acc.covers a = true ∧ r.acc.covers a = true)) : r.Due s c k n := by
  refine ⟨hr, hf, hp, hs, hk ▸ h1, ?_, hq⟩
  by_contra hw
  obtain ⟨m, x, hm, hx, h⟩ := waitsBehind_iff.mp (Bool.not_eq_false _ ▸ hw)
  obtain ⟨hkind, howner, a, hc⟩ := overlaps_iff.mp h
  exact ho m x a hm hx ⟨hkind.trans hk, howner, hc⟩

theorem Relaxed.Due.goes (h : r.Due s c k n) :
    (r.found.isSome || r.poison || r.status.isSome || r.acc.kind == 1 || waitsBehind (s.thread c k).relaxed n r.acc) = false := by
  simp [h.found, h.poison, h.status, h.kind, h.first]

/-- Where no kfence waits, a thread that is written back wakes none, unless it is slot 0 and takes that state. -/
theorem State.keeperFence_setThread {u : State} {t : Thread} (h : (u.thread c 0).st ≠ .removed .kfence) (ht : k = 0 → t.st ≠ .removed .kfence) :
    (u.setThread c k t).keeperFence c = u.setThread c k t := by
  refine State.keeperFence_of ?_
  by_cases hk : (0 : Fin 16) = k
  · subst hk; rw [State.thread_setThread_self]; exact ht rfl
  · rw [State.thread_setThread_slot _ _ _ hk]; exact h

theorem dropRelaxed_not_kfence (h : (s.thread c 0).st ≠ .removed .kfence) (hk : k = 0) : ((s.thread c k).dropRelaxed n).st ≠ .removed .kfence := by
  subst hk
  unfold Thread.dropRelaxed
  dsimp only
  split
  · nofun
  · exact h

/-- A relaxed access that is performed writes its register and leaves flight. -/
theorem relaxedComplete_performed (hd : r.Due s c k n) {op : MemOp} (hop : r.acc.op = op) (hp : op.plain = true) {v : Vec} {u : State}
    (h : Performs (s.as c k) c k r.acc v u) :
    exec (.relaxedAccessComplete c k n) s = .next (u.setThread c k (((s.thread c k).dropRelaxed n).landed op v)) := by
  have hk : CoresKept (s.as c k) u := by have := coresKept_reach (s.as c k) c k r.acc; rwa [h.reach] at this
  subst hop
  show execRelaxedAccessComplete c k n s = _
  simp only [execRelaxedAccessComplete, me_as, hd.place, hd.goes, Bool.false_eq_true, if_false, h.reach]
  rw [hk.me, State.land_setMe hp, State.setMe_as hk]
  refine congrArg _ (State.keeperFence_setThread (by rw [hk.thread]; exact hd.fence) fun h0 => ?_)
  rw [Thread.landed_st]
  exact dropRelaxed_not_kfence hd.fence h0

theorem relaxedComplete_half (hd : r.Due s c k n) {y : Access} {u : State} (h : reach (s.as c k) c k r.acc = .half y u) :
    exec (.relaxedAccessComplete c k n) s =
      .next (u.setThread c k { s.thread c k with relaxed := setAt (s.thread c k).relaxed n { r with acc := y } }) := by
  have hk : CoresKept (s.as c k) u := by have := coresKept_reach (s.as c k) c k r.acc; rwa [h] at this
  show execRelaxedAccessComplete c k n s = _
  simp only [execRelaxedAccessComplete, me_as, hd.place, hd.goes, Bool.false_eq_true, if_false, h]
  rw [hk.me, State.setMe_as hk]
  rfl

-- Relaxed accesses that fault (13 R244) -----------------------------------------------------------------------------------------------------------

/-- A relaxed access that is found to fault and is not denied: its thread runs on, or parks at once where it is held or Blocked. -/
theorem failRelaxed_found {u : State} (hq : (u.thread c 0).st ≠ .removed .kfence) (hp : r.poison = false) (hs : r.status = none)
    (hd : r.denied = false) : ∃ t, u.failRelaxed c k n r = u.setThread c k t ∧
      ((u.thread c k).st = .runnable → t = { u.thread c k with relaxed := setAt (u.thread c k).relaxed n r }) ∧
      ((u.thread c k).st = .removed .held → t = { u.thread c k with relaxed := setAt (u.thread c k).relaxed n r, parkDue := false,
                                                                    st := .parked { fault := r.found, acc := some (true, r.acc) } }) ∧
      (∀ b, (u.thread c k).st = .blocked b → t = { u.thread c k with
        relaxed := setAt (u.thread c k).relaxed n r, parkDue := false,
        st := .parked { fault := r.found, acc := some (true, r.acc), before := some b } }) := by
  have hpark : ∀ w : State, parkRelaxed w c k r = w.setThread c k { w.thread c k with
      parkDue := false, st := .parked { fault := r.found, acc := some (true, r.acc), before := (w.thread c k).st.blocking } } := fun w => by
    simp [parkRelaxed, hp, hs, hd]
  unfold State.failRelaxed State.foundFailed
  simp only [hpark, State.thread_setThread_self, State.setThread_setThread]
  split
  · next h => exact ⟨_, State.keeperFence_setThread hq nofun, by simp [h], by simp [h, SlotState.blocking], by simp [h]⟩
  · next b h => exact ⟨_, State.keeperFence_setThread hq nofun, by simp [h], by simp [h], by simp [h, SlotState.blocking]⟩
  · next h1 h2 =>
    refine ⟨_, State.keeperFence_setThread hq fun h0 => ?_, fun _ => rfl, fun h => absurd h h1, fun b h => absurd h (h2 b)⟩
    rw [← h0] at hq; exact hq

theorem execRelaxed_behind (hr : (s.thread c k).relaxed[n]? = some r)
    (h : r.acc.kind = 1 ∨ waitsBehind (s.thread c k).relaxed n r.acc = true) : exec (.relaxedAccessComplete c k n) s = .next s := by
  have hg : (r.found.isSome || r.poison || r.status.isSome || r.acc.kind == 1 || waitsBehind (s.thread c k).relaxed n r.acc) = true := by
    simp only [Bool.or_eq_true, beq_iff_eq]; tauto
  show execRelaxedAccessComplete c k n s = _
  simp only [execRelaxedAccessComplete, me_as, hr, hg, if_true]

/-- Where no fault of a thread is outstanding, its first relaxed access has not failed. -/
theorem not_failed_of_not_faulting {t : Thread} {l : List Relaxed} (h : t.faulting = false) (hl : t.relaxed = r :: l) :
    r.found = none ∧ r.poison = false ∧ r.status = none := by
  have hf := (Bool.or_eq_false_iff.mp h).1
  rw [failedRelaxed, hl] at hf
  have := List.find?_eq_none.mp (Option.isSome_eq_false_iff.mp hf |> Option.isNone_iff_eq_none.mp) r List.mem_cons_self
  simpa [and_assoc] using this

/-- The first relaxed access is found to fault by a cached leaf. -/
theorem relaxedFaultFound_first {l : List Relaxed} {p code : Nat} (hl : (s.thread c k).relaxed = r :: l) (hf : (s.thread c k).faulting = false)
    (hk : r.acc.kind = 3) (hh : r.acc.half = none)
    (hb : firstBad s (clusterOf c) (asidOf s (s.thread c k) k) r.acc.op.code r.acc.pages = some (p, some code)) :
    exec (.relaxedFaultFound c k) s = .next ((s.as c k).relaxedFaults c k 0 r code (max r.acc.addr (p * 65536))) := by
  have hfault : relaxedFault (s.as c k) c k r.acc = some (code, max r.acc.addr (p * 65536)) := by
    have hb' := (firstBad_as s c k ..).trans hb
    have ha : asidOf (s.as c k) ((s.as c k).thread c k) k = asidOf s (s.thread c k) k := rfl
    simp [relaxedFault, hk, hh, ha, hb', pageBytes]
  show execRelaxedFaultFound c k s = _
  simp only [execRelaxedFaultFound, me_as, hf, hl, Bool.false_eq_true, if_false, firstRelaxedFault, hfault]

/-- Outside slot 1 the fault record is on its way to the pager, and the access keeps its place until its thread parks for it. -/
theorem relaxedFaults_posts {l : List Relaxed} {code dva : Nat} (hl : (s.thread c k).relaxed = r :: l) (hq : (s.thread c 0).st ≠ .removed .kfence)
    (h1 : k.val ≠ 1) (hp : r.poison = false) (hs : r.status = none) (hd : r.denied = false) :
    let found := { s.thread c k with relaxed := { r with found := some (code, dva) } :: l }
    let t := (s.as c k).relaxedFaults c k 0 r code dva
    OnItsWay t (senderCtu (clusterOf c)) (threadFault s c k code r.acc.op.code dva) ∧
    ((s.thread c k).st = .runnable → t.thread c k = found) ∧
    ((s.thread c k).st = .removed .held →
      t.thread c k = { found with parkDue := false, st := .parked { fault := some (code, dva), acc := some (true, r.acc) } }) ∧
    (∀ b, (s.thread c k).st = .blocked b → t.thread c k =
      { found with parkDue := false, st := .parked { fault := some (code, dva), acc := some (true, r.acc), before := some b } }) := by
  intro found t
  generalize hu : postFault (s.as c k) (senderCtu (clusterOf c)) (pagerOf c) (asidOf s (s.thread c k) k) code r.acc.op.code dva
    (waiterField (taOf (s.as c k) c k) false 0 0) (s.thread c k).tag = u
  have hway : OnItsWay u (senderCtu (clusterOf c)) (threadFault s c k code r.acc.op.code dva) := hu ▸ post_onItsWay _ _ _
  have hthread : ∀ j, u.thread c j = s.thread c j := fun j => by rw [← hu, postFault, State.thread_post, thread_as]
  have hr : ({ r with found := some (code, dva), denied := k.val == 1 } : Relaxed) = { r with found := some (code, dva) } := by simp [h1, hd]
  have e : t = u.failRelaxed c k 0 { r with found := some (code, dva) } := by
    unfold t
    rw [← hr, ← hu, State.relaxedFaults, if_neg h1]
    rfl
  obtain ⟨w, hw, hrun, hheld, hblocked⟩ := failRelaxed_found (u := u) (k := k) (n := 0) (r := { r with found := some (code, dva) })
    (by rw [hthread]; exact hq) hp hs hd
  rw [hthread, hl] at hrun hheld hblocked
  rw [e, hw]
  exact ⟨hway, fun h => by rw [State.thread_setThread_self, hrun h]; rfl, fun h => by rw [State.thread_setThread_self, hheld h]; rfl,
    fun b h => by rw [State.thread_setThread_self, hblocked b h]; rfl⟩

/-- In slot 1 the access is denied, and nothing is posted. -/
theorem relaxedFaults_denied {l : List Relaxed} {code dva : Nat} (hl : (s.thread c k).relaxed = r :: l) (h1 : k.val = 1)
    (hrun : (s.thread c k).st = .runnable) (hq : (s.thread c 0).st ≠ .removed .kfence) :
    (s.as c k).relaxedFaults c k 0 r code dva =
      (s.as c k).setThread c k { s.thread c k with relaxed := { r with found := some (code, dva), denied := true } :: l } := by
  have hk : (k.val == 1) = true := by rw [h1]; rfl
  rw [State.relaxedFaults, if_pos h1, hk, State.failRelaxed, thread_as, hl, State.foundFailed, State.thread_setThread_self]
  simp only [hrun, setAt]
  exact State.keeperFence_setThread hq fun h0 => by rw [h0] at h1; exact absurd h1 (by decide)

end

/-- A thread after one of its relaxed accesses has left flight. -/
theorem Thread.dropRelaxed_eq (t : Thread) (n : Nat) : t.dropRelaxed n =
    { t with relaxed := t.relaxed.eraseIdx n, st := if t.st = .removed .held then .runnable else t.st } := by
  rw [Thread.dropRelaxed, dropAt_eq_eraseIdx]

/-- Settles O17: where nothing earlier overlaps it, a relaxed access meets its home as an ordinary one does; a fault is found at the head of those
in flight. -/
theorem relaxedAccesses : Obligations.RelaxedAccesses := by
  unfold Obligations.RelaxedAccesses
  refine ⟨?_, ?_, ?_, ?_, ?_, ?_⟩
  · intro s c k n r hr hf hp hs hk hh hq T key ho
    have hd := Relaxed.due_of hr hf hp hs hk (by decide) hq ho
    have hT : (s.thread c k).dropRelaxed n = T := Thread.dropRelaxed_eq _ n
    refine ⟨?_, ?_, ?_, ?_, ?_⟩
    · intro sz signed d hop hpl hpo v
      have ht := relaxedComplete_performed hd hop hpl (performs_ld_basin (s := s.as c k) hk hh hop hpo)
      refine ⟨_, ht, fun _ => rfl, ?_⟩
      rw [State.thread_setThread_self, Thread.landed, loaded_eq, hT]
      rfl
    · intro sz mask d hop hsp hpo
      obtain ⟨v, hv, hl⟩ := performs_vld_basin (s := s.as c k) hk hh hsp hop hpo
      have ht := relaxedComplete_performed hd hop rfl hv
      refine ⟨_, v, ht, fun _ => rfl, ?_, hl⟩
      rw [State.thread_setThread_self, Thread.landed, hT]
    · intro sz m mask hop hsp hi
      obtain ⟨u, hu, hl⟩ := performs_vst_basin (s := s.as c k) hk hh hi hsp hop
      exact ⟨_, relaxedComplete_performed hd hop rfl hu, hl, (State.thread_setThread_self ..).trans hT⟩
    · intro sz m mask hsp hop hi
      obtain ⟨u, hu, hl⟩ := reach_vst_basin_half (s := s.as c k) hk hh hi hsp hop
      exact ⟨_, relaxedComplete_half hd hu, hl, State.thread_setThread_self ..⟩
    · intro sz hop hi
      obtain ⟨u, hu, hout, hb⟩ := performs_st_basin (s := s.as c k) hk hh hi hop
      exact ⟨_, relaxedComplete_performed hd hop rfl hu, hout, hb, (State.thread_setThread_self ..).trans hT⟩
  · intro s c k n r hr hf hp hs hk hh hsp hq ho T cl asid hb hbusy
    have hd := Relaxed.due_of hr hf hp hs hk (by decide) hq ho
    have hT : (s.thread c k).dropRelaxed n = T := Thread.dropRelaxed_eq _ n
    have h : r.acc.Clear (s.as c k) c k := ⟨hk, hh, (firstBad_as ..).trans hb⟩
    refine ⟨?_, ?_, ?_, ?_⟩
    · intro sz signed d hop hpl hpo v
      obtain ⟨u, hu, hm⟩ := performs_ld_dva h hbusy hop hpo
      rw [dvaBytes_as] at hu
      refine ⟨_, relaxedComplete_performed hd hop hpl hu, fun a => congrArg (Memory.get · a) hm, ?_⟩
      rw [State.thread_setThread_self, Thread.landed, loaded_eq, hT]
      rfl
    · intro sz hop hw hi
      obtain ⟨u, hu, he⟩ := performs_st_dva h hbusy hi hop hw
      exact ⟨_, relaxedComplete_performed hd hop rfl hu, (dvaBytes_setThread u u.iword ..).trans he, (State.thread_setThread_self ..).trans hT⟩
    · intro sz mask d hop hpo
      obtain ⟨v, u, hu, hm, hl⟩ := performs_vld_dva h hbusy hsp hop hpo
      refine ⟨_, v, relaxedComplete_performed hd hop rfl hu, fun a => congrArg (Memory.get · a) hm, ?_, dvaLanesLoaded_as hl⟩
      rw [State.thread_setThread_self, Thread.landed, hT]
    · intro sz m mask hop hw hi
      obtain ⟨u, hu, hl⟩ := performs_vst_dva h hbusy hi hsp hop hw
      exact ⟨_, relaxedComplete_performed hd hop rfl hu, (State.thread_setThread_self ..).trans hT,
        fun i hi hm => (dvaBytes_setThread u u.iword ..).trans (hl i hi hm)⟩
  · exact fun s c k n r hr hk => execRelaxed_behind hr (.inl hk)
  · exact fun s c k n m a r x hr hm hx hk ho hca hcb =>
      execRelaxed_behind hr (.inr (waitsBehind_iff.mpr ⟨m, x, hm, hx, overlaps_iff.mpr ⟨hk, ho, a, hca, hcb⟩⟩))
  · intro s c k r l p code hl hf hden hk hh hq hb dva found
    obtain ⟨hfound, hpo, hst⟩ := not_failed_of_not_faulting hf hl
    rw [relaxedFaultFound_first hl hf hk hh hb]
    refine ⟨fun h1 => ⟨_, rfl, relaxedFaults_posts hl hq h1 hpo hst hden⟩, fun h1 hrun => ⟨_, rfl, ?_⟩⟩
    · rw [relaxedFaults_denied hl h1 hrun hq]
      exact ⟨State.thread_setThread_self .., rfl⟩
  · intro s c k hf
    show execRelaxedFaultFound c k s = _
    simp only [execRelaxedFaultFound, me_as, hf, if_true]

end Sys2Proof.Machine

namespace Sys2Proof.Machine
open Sys2Proof

-- Frames: memory instructions (05 R97-R109) ---------------------------------------------------------------------------------------------------

/-- A step of the executing thread that writes at most a destination, vector registers `vd`, segments `sd` and bytes `p`; it journals at most where it may,
and what fires is left open. -/
structure Framed (d : Option Dst) (c : Bool) (vd : Fin 16 → Prop) (sd : Fin 8 → Prop) (p : Nat → Prop) (s t : State) : Prop where
  beside : Beside s t
  mem : Inv s → ∀ a, ¬ p a → (c = true → ¬ InEntry s a) → Memory.get t.mem a = Memory.get s.mem a
  inv : c = false → Inv s → Inv t
  journal : c = false → t.wharf.jHead = s.wharf.jHead ∧ t.wharf.jBase = s.wharf.jBase
  device : t.lock = s.lock ∧ t.helmCache = s.helmCache ∧ t.clk = s.clk ∧ t.mtime = s.mtime ∧ t.power = s.power ∧
    t.wharf.launches = s.wharf.launches ∧ t.wharf.routing = s.wharf.routing
  m : t.me.m = s.me.m
  special : t.me.special = s.me.special
  g : ∀ j, d ≠ some (.g j) → t.me.g.get j = s.me.g.get j
  w : ∀ j, d ≠ some (.w j) → t.me.w.get j = s.me.w.get j
  v : ∀ j, ¬ vd j → t.me.v.get j = s.me.v.get j
  sg : ∀ j, ¬ sd j → t.me.sg.get j = s.me.sg.get j

section
variable {d : Option Dst} {c : Bool} {vd : Fin 16 → Prop} {sd : Fin 8 → Prop} {p : Nat → Prop} {s t u : State}

theorem Runs.framed (h : Runs d c s t) : Framed d c vd sd p s t := by
  have hm : Inv s → ∀ a, (c = true → ¬ InEntry s a) → Memory.get t.mem a = Memory.get s.mem a := fun hi a n => by
    cases c with
    | false => exact memoryKeeps_of_outside h.effect.outside a
    | true => exact (show Journaled s t from h.effect).mem hi a (n rfl)
  have hout : c = false → t.mem = s.mem ∧ t.wharf.jHead = s.wharf.jHead ∧ t.wharf.jBase = s.wharf.jBase := fun hc => by
    subst hc
    obtain ⟨h1, ⟨-, -, -, -, -, -, -, -, h2⟩, h3⟩ := State.outside_keeps h.effect.outside
    exact ⟨h1, h2, h3⟩
  obtain ⟨-, h2, h3, h4, h5, h6, h7, h8, -⟩ := (show Journaled s t from h.effect.mono (d := true) fun _ => rfl).device
  exact ⟨h.beside, fun hi a _ n => hm hi a n, fun hc hi => by unfold Inv; rw [(hout hc).1]; exact hi, fun hc => (hout hc).2,
    ⟨h2, h3, h4, h5, h6, h7, h8⟩, h.me.m, h.me.special, fun j n => (h.me.g j).resolve_right n, fun j n => (h.me.w j).resolve_right n,
    fun j _ => by rw [h.me.v], fun j _ => by rw [h.me.sg]⟩

/-- A step that journals nothing stands before another. -/
theorem Framed.then (h : Framed d false vd sd p s u) (g : Framed d c vd sd p u t) : Framed d c vd sd p s t := by
  obtain ⟨h1, h2, h3, h4, h5, h6, h7⟩ := h.device
  obtain ⟨g1, g2, g3, g4, g5, g6, g7⟩ := g.device
  obtain ⟨hh, hb⟩ := h.journal rfl
  refine ⟨h.beside.trans g.beside, fun hi a n k => ?_, fun hc hi => g.inv hc (h.inv rfl hi), fun hc => ?_,
    ⟨g1.trans h1, g2.trans h2, g3.trans h3, g4.trans h4, g5.trans h5, g6.trans h6, g7.trans h7⟩, g.m.trans h.m, g.special.trans h.special,
    fun j n => (g.g j n).trans (h.g j n), fun j n => (g.w j n).trans (h.w j n), fun j n => (g.v j n).trans (h.v j n),
    fun j n => (g.sg j n).trans (h.sg j n)⟩
  · exact (g.mem (h.inv rfl hi) a n (by unfold InEntry; rw [hh, hb]; exact k)).trans (h.mem hi a n nofun)
  · exact ⟨(g.journal hc).1.trans hh, (g.journal hc).2.trans hb⟩

theorem Framed.mono {ve : Fin 16 → Prop} {q : Nat → Prop} (h : Framed d c vd sd p s t) (hv : ∀ j, vd j → ve j) (hq : ∀ a, p a → q a) :
    Framed d c ve sd q s t :=
  { h with mem := fun hi a n => h.mem hi a fun k => n (hq a k), v := fun j n => h.v j fun k => n (hv j k) }

theorem Framed.gated {i : Instr} {f : State → State} (h : Framed d c vd sd p s (f s)) : Framed d c vd sd p s (s.gated i f) := by
  rcases s.gated_eq i f with e | ⟨g, e⟩
  · rw [e]; exact h
  · rw [e]; exact (runs_stop s g).framed

/-- Memory, its poison and what is noted of it change, or what a source makes pending; no more. -/
theorem framed_of_eq {mem : List Host.Cell} {written : List (Nat × Nat)} {poison : List Nat} {harts : SMap Hart}
    (h : t = { s with mem := mem, written := written, poison := poison, harts := harts }) (hi : Inv s → Inv t)
    (hm : Inv s → ∀ a, ¬ p a → Memory.get t.mem a = Memory.get s.mem a) : Framed d c vd sd p s t := by
  subst h
  exact ⟨⟨rfl, rfl, fun _ _ _ => .refl _⟩, fun h a n _ => hm h a n, fun _ => hi, fun _ => ⟨rfl, rfl⟩, ⟨rfl, rfl, rfl, rfl, rfl, rfl, rfl⟩, rfl, rfl,
    fun _ _ => rfl, fun _ _ => rfl, fun _ _ => rfl, fun _ _ => rfl⟩

theorem framed_fire (s : State) (n : Nat) : Framed d c vd sd p s (fire s n) := by
  obtain ⟨harts, h⟩ := fire_eq s n
  exact framed_of_eq h (fun hi => by rw [h]; exact hi) fun _ _ _ => by rw [h]

/-- Vector registers or segments of the executing thread are written. -/
theorem framed_setMe {x : Thread} (hg : x.g = s.me.g) (hw : x.w = s.me.w) (hm : x.m = s.me.m) (hp : x.special = s.me.special)
    (hv : ∀ j, ¬ vd j → x.v.get j = s.me.v.get j) (hs : ∀ j, ¬ sd j → x.sg.get j = s.me.sg.get j) : Framed d c vd sd p s (s.setMe x) := by
  refine ⟨beside_setMe s x, fun _ _ _ _ => rfl, fun _ h => h, fun _ => ⟨rfl, rfl⟩, ⟨rfl, rfl, rfl, rfl, rfl, rfl, rfl⟩, ?_, ?_, ?_, ?_, ?_, ?_⟩ <;>
    rw [State.setMe_me]
  · exact hm
  · exact hp
  · exact fun _ _ => by rw [hg]
  · exact fun _ _ => by rw [hw]
  · exact hv
  · exact hs

theorem framed_setV (s : State) {i : Fin 16} {x : Vec} (h : vd i) : Framed d c vd sd p s (s.setMe (s.me.setV i x)) :=
  framed_setMe rfl rfl rfl rfl (fun _ n => vget_set_ne _ _ fun e => n (e ▸ h)) fun _ _ => rfl

theorem framed_setSg (s : State) {i : Fin 8} {x : Seg} (h : sd i) : Framed d c vd sd p s (s.setMe (s.me.setSg i x)) :=
  framed_setMe rfl rfl rfl rfl (fun _ _ => rfl) fun _ n => vget_set_ne _ _ fun e => n (e ▸ h)

end

-- Accesses (05 R99-R104) ------------------------------------------------------------------------------------------------------------------

/-- Lanes that are written at a key change memory, its poison and what is noted of it. -/
theorem writeLanes_raw_eq (s : State) (key e : Nat) (v : Vec) (l : List Nat) : ∃ mem written poison,
    writeLanes s (.raw key) e v l = { s with mem := mem, written := written, poison := poison } := by
  induction l generalizing s with
  | nil => exact ⟨_, _, _, rfl⟩
  | cons i l ih => exact ih _

/-- An access at a key changes no more than memory, its poison and what is noted of it. -/
theorem performAt_raw_eq {s t : State} {key : Nat} {op : MemOp} {data v : Vec} {exp : Word} (h : performAt s (.raw key) op data exp = some (v, t)) :
    ∃ mem written poison, t = { s with mem := mem, written := written, poison := poison } := by
  obtain rfl | ⟨off, bs, rfl⟩ | ⟨e, w, l, rfl⟩ := performAt_writes h
  · exact ⟨_, _, _, rfl⟩
  · exact ⟨_, _, _, rfl⟩
  · exact writeLanes_raw_eq ..

theorem inv_performAt_raw {s t : State} (hi : Inv s) {key : Nat} {op : MemOp} {data v : Vec} {exp : Word}
    (h : performAt s (.raw key) op data exp = some (v, t)) : Inv t := by
  have lanes : ∀ e w l (s : State), Inv s → Inv (writeLanes s (.raw key) e w l) := fun e w l => by
    induction l with
    | nil => exact fun _ h => h
    | cons i l ih => exact fun s h => ih _ (rawWrite_wf h _ _)
  obtain rfl | ⟨off, bs, rfl⟩ | ⟨e, w, l, rfl⟩ := performAt_writes h
  · exact hi
  · exact rawWrite_wf hi _ _
  · exact lanes e w l s hi

/-- Whether an access writes memory. -/
def MemOp.stores : MemOp → Bool
  | .st _ | .vst _ _ _ | .amo _ _ _ | .bop _ _ => true
  | .ld _ _ _ | .vld _ _ _ | .wld _ _ => false

/-- An access that writes nothing leaves its home as it is. -/
theorem performAt_of_not_stores {s t : State} {h : Home} {op : MemOp} {data v : Vec} {exp : Word} (hs : op.stores = false)
    (e : performAt s h op data exp = some (v, t)) : t = s := by
  cases op with
  | ld sz sg d | vld sz mask d =>
    rw [performAt] at e
    split at e <;> cases e
    rfl
  | wld first lines => cases e; rfl
  | st sz | vst sz m mask | amo op wide d | bop op mask => cases hs

/-- An access at a key leaves the bytes outside it alone. -/
theorem performAt_raw_keeps {s t : State} (hi : Inv s) {key : Nat} {op : MemOp} {data v : Vec} {exp : Word}
    (h : performAt s (.raw key) op data exp = some (v, t)) : MemoryKeepsOutside s t key op.span := by
  cases op with
  | ld sz sg d | vld sz mask d | wld first lines => exact fun a _ => by rw [performAt_of_not_stores rfl h]
  | st sz =>
    obtain ⟨u, hu, -, ho⟩ := performAt_st_raw hi key sz data exp
    cases hu.symm.trans h; exact ho
  | vst sz m mask =>
    obtain ⟨u, hu, ho, -⟩ := performAt_vst_raw hi key sz m mask data exp
    cases hu.symm.trans h; exact ho
  | amo op wide d =>
    cases hp : poisoned s key (amoBytes wide) with
    | true => rw [performAt_amo_poisoned (h := .raw key) op d hp] at h; cases h
    | false =>
      obtain ⟨u, hu, -, ho⟩ := performAt_amo_raw hi op d data exp hp
      cases hu.symm.trans h; exact ho
  | bop op mask =>
    cases hp : poisoned s key 64 with
    | true =>
      have e : performAt s (.raw key) (.bop op mask) data exp = none := if_pos hp
      rw [e] at h; cases h
    | false =>
      obtain ⟨u, hu, ho, -⟩ := performAt_bop_raw hi op mask data exp hp
      cases hu.symm.trans h; exact ho

/-- The scalar destination of an access. -/
def MemOp.dst : MemOp → Option Dst
  | .ld _ _ d | .amo _ _ d => some d
  | _ => none

/-- The vector register that an access loads. -/
def MemOp.loads (op : MemOp) (j : Fin 16) : Prop := ∃ sz mask, op = .vld sz mask j

section
variable {sd : Fin 8 → Prop} {p : Nat → Prop}

/-- An access that has been performed writes its destination. -/
theorem framed_land (s : State) (op : MemOp) (v : Vec) (pc : Option Word) :
    Framed op.dst (op.dst == some (.e 2)) op.loads sd p s (s.land op v pc) := by
  cases op with
  | ld sz sg d => exact (runs_finish s d _ pc).framed
  | amo q wide d => exact (runs_finish s d _ pc).framed
  | vld sz mask d => exact (framed_setV s ⟨sz, mask, rfl⟩).then (runs_move _ pc).framed
  | _ => exact (runs_move s pc).framed

/-- The bytes that an access through kind 0 is made to. -/
def State.storesAt (s : State) (op : MemOp) (sg : Fin 8) (off : Word) (disp a : Nat) : Prop :=
  op.stores = true ∧ (s.me.sg.get sg).kind = 0 ∧ ∃ x, checkAccess s (s.me.sg.get sg) op off disp = .ok x ∧ lsKey s.core x ≤ a ∧
    a < lsKey s.core x + op.span

/-- No bank operation goes through kind 0 (05 R105). -/
theorem bop_not_storesAt (s : State) (op : BopOp) (mask : Word) (sg : Fin 8) (off : Word) (disp a : Nat) :
    ¬ s.storesAt (.bop op mask) sg off disp a := by
  rintro ⟨-, hk, x, hc, -⟩
  have hwrong : (MemOp.bop op mask).allowed (s.me.sg.get sg).kind = false := by rw [hk]; rfl
  cases ((checkAccess_cases s (s.me.sg.get sg) (.bop op mask) off disp).1 (.inr (.inr hwrong))).symm.trans hc

theorem runs_launchRelaxed {d : Option Dst} {c : Bool} (s : State) (x : Access) (n : Nat) : Runs d c s (s.launchRelaxed x n) := by
  unfold State.launchRelaxed
  extract_lets t now u
  have hu : Rests s u ∧ u.me = t := by
    unfold u
    split
    · have h := aloof_post s (senderThread s.core s.slot) (remoteRecord s s.core s.slot x)
      exact ⟨rests_post .., h.coresKept.me⟩
    · exact ⟨.refl s, rfl⟩
  obtain ⟨hr, hm⟩ := hu
  exact Runs.then hr.runs (runs_setMe_same (by rw [hm]) (by rw [hm]) (by rw [hm]) (by rw [hm]) (by rw [hm]) (by rw [hm]; rfl) (by rw [hm]))

/-- An access through kind 0 that is performed writes the bytes that it is made to. -/
theorem framed_performAt {d : Option Dst} {c : Bool} {vd : Fin 16 → Prop} {s t : State} {key : Nat} {op : MemOp} {data v : Vec} {exp : Word}
    (h : performAt s (.raw key) op data exp = some (v, t)) (hp : ∀ a, op.stores = true → key ≤ a → a < key + op.span → p a) :
    Framed d c vd sd p s t := by
  obtain ⟨mem, written, poison, ht⟩ := performAt_raw_eq h
  refine framed_of_eq (harts := s.harts) ht (fun hi => inv_performAt_raw hi h) fun hi a n => ?_
  cases hs : op.stores with
  | false => rw [performAt_of_not_stores hs h]
  | true => exact performAt_raw_keeps hi h a (by by_contra e; exact n (hp a hs (by omega) (by omega)))

theorem framed_poisonTrap {d : Option Dst} {c : Bool} {vd : Fin 16 → Prop} (s : State) (x : Access) :
    Framed d c vd sd p s (s.poisonTrap s.core s.slot x) :=
  (framed_fire s 65).then (runs_trap (fire s 65) ..).framed

/-- An access as it starts, whatever it meets. -/
theorem framed_access (s : State) (i : Instr) {op : MemOp} (hw : op.isWld = false) (rlx : Bool) (sg : Fin 8) (off : Word) (disp : Nat) (data : Vec)
    (exp : Word) :
    Framed op.dst (op.dst == some (.e 2)) op.loads sd (s.storesAt op sg off disp) s (s.access i op rlx sg off disp data exp) := by
  cases hc : checkAccess s (s.me.sg.get sg) op off disp with
  | error n => rw [State.access_error hc]; exact (runs_trap s ..).framed
  | ok a =>
    by_cases hk : (s.me.sg.get sg).kind = 0
    · cases hp : performAt s (.raw (lsKey s.core a)) op data exp with
      | none =>
        rw [State.access_meets_poison hc hw hk hp]
        exact framed_poisonTrap ..
      | some r =>
        rw [State.access_local hc hw hk hp]
        exact (framed_performAt hp fun b hs h1 h2 => ⟨hs, hk, a, hc, h1, h2⟩).then (framed_land ..)
    · cases rlx with
      | true =>
        rw [State.access_relaxed hc hw hk]
        exact ((runs_launchRelaxed s ..).then (runs_goTo ..)).framed
      | false =>
        rw [State.access_distant hc hw hk]
        split
        · exact ((rests_remove s _).trans (rests_post ..)).runs.framed
        · exact (runs_remove s _).framed

end

-- Memory instructions (05 R97-R109) ------------------------------------------------------------------------------------------------------------

/-- The bytes that an instruction's store through kind 0 is made to. -/
def storedBytes (s : State) (i : Instr) (a : Nat) : Prop := ∃ key n, storedAt s i = some (key, n) ∧ key ≤ a ∧ a < key + n

/-- What a memory instruction may write. -/
def MemoryFramed (i : Instr) (s t : State) : Prop :=
  Framed (instrDst i) (mayCollect i) (fun j => ∃ sz m rlx sg o c, i = .vld sz m rlx sg j o c) (fun j => ∃ a o keep, i = .sgnarrow j a o keep)
    (storedBytes s i) s t

section
variable {s : State} {sg : Fin 8} {o : Src} {c : BitVec 6} {x : Nat}

theorem storedAt_st {sz : Size} {rlx : Bool} {a : Src} (hk : ((after2 s a o).me.sg.get sg).kind = 0)
    (hc : checkAccess (after2 s a o) ((after2 s a o).me.sg.get sg) (.st sz) (val2 s a o) (c.toNat * sz.bytes) = .ok x) :
    storedAt s (.st sz rlx sg a o c) = some (lsKey (after2 s a o).core x, sz.bytes) := by
  simp only [storedAt, if_pos hk, hc]

theorem storedAt_vst {sz : Size} {m : Fin 4} {rlx : Bool} {v : Fin 16} {mask : Word} (hk : ((after1 s o).me.sg.get sg).kind = 0)
    (hc : checkAccess (after1 s o) ((after1 s o).me.sg.get sg) (.vst sz m mask) (val1 s o) (c.toNat * sz.bytes) = .ok x) :
    storedAt s (.vst sz m rlx sg v o c) = some (lsKey (after1 s o).core x, 64) := by
  have hc' : checkAccess (after1 s o) ((after1 s o).me.sg.get sg) (.vst sz m 0) (val1 s o) (c.toNat * sz.bytes) = .ok x := hc
  simp only [storedAt, if_pos hk, hc']

theorem storedAt_amo {op : AmoOp} {wide : Bool} {d : Dst} (hk : ((after2 s d.asSrc o).me.sg.get sg).kind = 0)
    (hc : checkAccess (after2 s d.asSrc o) ((after2 s d.asSrc o).me.sg.get sg) (.amo op wide d) (val2 s d.asSrc o)
      (c.toNat * if wide then 8 else 4) = .ok x) :
    storedAt s (.amo op wide sg d o c) = some (lsKey (after2 s d.asSrc o).core x, if wide then 8 else 4) := by
  simp only [storedAt, if_pos hk, hc]

end

theorem mayCollect_memory {i : Instr} (h : isMemory i = true) : mayCollect i = (instrDst i == some (.e 2)) := by
  cases i with
  | push p a => cases h
  | _ => exact Bool.or_false _

/-- A memory instruction that makes an access. -/
theorem framed_accessing {s u : State} {i : Instr} {op : MemOp} {rlx : Bool} {sg : Fin 8} {off : Word} {disp : Nat} {data : Vec} {exp : Word}
    (hu : Runs none false s u) (hi : isMemory i = true) (hw : op.isWld = false) (hd : op.dst = instrDst i)
    (hv : ∀ j, op.loads j → ∃ sz m rlx sg o c, i = .vld sz m rlx sg j o c) (hp : ∀ a, u.storesAt op sg off disp a → storedBytes s i a) :
    MemoryFramed i s (u.access i op rlx sg off disp data exp) := by
  have h := (framed_access (sd := fun j => ∃ a o keep, i = .sgnarrow j a o keep) u i hw rlx sg off disp data exp).mono hv hp
  rw [hd, ← mayCollect_memory hi] at h
  exact hu.quiet.framed.then h

theorem framed_memory {s t : State} {i : Instr} (hi : isMemory i = true) (h : exec i s = .next t) : MemoryFramed i s t := by
  cases i with
  | ld sz signed rlx sg d o c =>
    cases h
    exact Framed.gated (framed_accessing (runs_read s o) rfl rfl rfl nofun nofun)
  | st sz rlx sg a o c =>
    cases h
    refine Framed.gated (framed_accessing ((runs_read s a).then (runs_read _ o)) rfl rfl rfl nofun ?_)
    rintro b ⟨-, hk, x, hc, hb⟩
    exact ⟨_, sz.bytes, storedAt_st hk hc, hb⟩
  | vld sz m rlx sg v o c =>
    cases h
    refine Framed.gated (framed_accessing (runs_read s o) rfl rfl rfl ?_ nofun)
    rintro j ⟨_, _, e⟩
    cases e
    exact ⟨_, _, _, _, _, _, rfl⟩
  | vst sz m rlx sg v o c =>
    cases h
    refine Framed.gated (framed_accessing (runs_read s o) rfl rfl rfl nofun ?_)
    rintro b ⟨-, hk, x, hc, hb⟩
    exact ⟨_, 64, storedAt_vst hk hc, hb⟩
  | amo op wide sg d o c =>
    cases h
    refine Framed.gated (framed_accessing ((runs_read s _).then (runs_read _ o)) rfl rfl rfl nofun ?_)
    rintro b ⟨-, hk, x, hc, hb⟩
    exact ⟨_, _, storedAt_amo hk hc, hb⟩
  | bop op sg v o m =>
    cases h
    exact Framed.gated (framed_accessing (runs_read s o) rfl rfl rfl nofun fun _ hb => (bop_not_storesAt _ _ _ _ _ _ _ hb).elim)
  | fenceRx =>
    cases h
    exact Framed.gated (runs_advance ..).framed
  | fenceSc sc =>
    cases h
    exact Framed.gated ((runs_advance ..).then (runs_remove ..)).framed
  | sgnarrow sg a o keep =>
    cases h
    refine Framed.gated (((runs_read s a).then (runs_read _ o)).framed.then ?_)
    dsimp only
    split
    · split
      · exact (runs_windowTrap _).framed
      · exact (runs_trapOpen ..).framed
    · exact (framed_setSg (((s.read a).2.read o).2) ⟨a, o, keep, rfl⟩).then (runs_advance _ (.sgnarrow sg a o keep)).framed
  | sgrd sg d word =>
    cases h
    exact Framed.gated (runs_result_of rfl ..).framed
  | _ => cases hi

/-- Settles O20: what an access may write by where it lands, and every memory instruction by the accesses that it makes. -/
theorem memoryFrame : Obligations.MemoryFrame := by
  intro s t i hm hi h
  obtain ⟨hb, hmem, -, -, ⟨h1, h2, h3, h4, h5, h6, h7⟩, hmask, hsp, hg, hw, hv, hs⟩ := framed_memory hm h
  refine ⟨fun a ha hj => hmem hi a (fun ⟨key, n, hk, hlo, hhi⟩ => ?_) hj, hb.othersKeep, h1, h2, h3, h4, h5, h6, h7, hmask, hsp, hg, hw,
    fun j n => hv j fun ⟨sz, m, rlx, sg, o, c, e⟩ => n sz m rlx sg o c e, fun j n => hs j fun ⟨a, o, keep, e⟩ => n a o keep e⟩
  have := ha key n hk
  omega

end Sys2Proof.Machine
